-- ==== Sys2Proof/Word.lean ====
section
/-! DEFINITION. The words of the machine: bit vectors, and a register's value with its poison bit. -/
namespace Sys2Proof

abbrev Byte := BitVec 8
abbrev Word32 := BitVec 32
abbrev Word64 := BitVec 64

/-- A value of `w` bits with the poison bit that travels with it (R106, R119). -/
structure Val (w : Nat) where
  v : BitVec w
  psn : Bool
deriving DecidableEq, Repr

/-- A clean value. -/
def Val.clean {w : Nat} (v : BitVec w) : Val w := ⟨v, false⟩
/-- A poisoned result: its value bits are 0 (R119, R152). -/
def Val.poisoned (w : Nat) : Val w := ⟨0, true⟩

@[simp] theorem Val.clean_v {w : Nat} (v : BitVec w) : (Val.clean v).v = v := rfl
@[simp] theorem Val.clean_psn {w : Nat} (v : BitVec w) : (Val.clean v).psn = false := rfl

end Sys2Proof
end

