-- ==== Sys2Proof/Config.lean ====
section
/-! DEFINITION. The free values: what the spec leaves open and the machine goes on with. Each is an opaque constant, applied
to the counter `State.free` that the step advances, so no proof can know its value (DESIGN CHOICE, log entries 2 to 8 and 43). -/
namespace Sys2Proof.Config

/-- The global time that passes in step `n`, in units of 2^-16 ns (R402; the spec fixes no duration of a slot). -/
opaque elapsed : Nat → Nat
/-- A choice the spec leaves to the hardware: which line or entry a full store drops (R211, R212, R223). -/
opaque choice : Nat → Nat
/-- How often a turn that can be taken may be passed by before it is taken: the spec bounds no such wait, and lets none last for
ever. -/
opaque patience : Nat
/-- A byte whose value is private to the device or that the spec does not state, by counter and offset (R414, R425). -/
opaque byte : Nat → Nat → Byte
/-- A number whose value the spec does not state (SHA-256 digests and signatures of R439, measured power of R443). -/
opaque number : Nat → Nat
/-- The column whose counters count an error of an endpoint FIFO (R230; the spec puts those FIFOs in no column). -/
opaque fifoColumn : Nat
/-- The digest of a collective's descriptor and of an AGE command (R331, R372; the spec names no function). -/
opaque digest : List Byte → Word64

end Sys2Proof.Config
end

