-- ==== Sys2Proof/Syntax.lean ====
section
/-! DEFINITION. The instructions of the Viern Lulyn accelerator: one constructor for each of the 426 rows of the
spec's opcode table: first the rows without an encoding, then the slots, each in the table's order. A slot's first argument `stop` is its S bit (R80). The other arguments are its operand
fields, with the two pieces of a split field (a 7-bit predicate number, the offset of LOOPS) joined into one.
A row without an encoding is an event: its arguments are what the event's rule says it carries. -/
namespace Sys2Proof

/-- A kind of register that R229 names: those of R106 that carry poison, and h. -/
inductive ErrReg where
  | x | v | c | t | a | p | h
deriving DecidableEq, Repr, Inhabited

/-- A place of storage that a soft error strikes (R229): a block of HBM, a line of an LLC slice by HBM address, a word of an
SBM bank, of a scratchpad or of a staging buffer, a register of a context by its index, a lane of a line of an L1, an operand xN that
the slots of bundle `b` in a context's queues hold, a word of an endpoint FIFO. -/
inductive ErrSite where
  | hbm (a : BitVec 39) | llc (a : BitVec 39) | sbm (a : BitVec 28) | scratch (core : BitVec 11) (off : BitVec 20)
  | staging (core : BitVec 11) (w : BitVec 14) | reg (ctx : BitVec 12) (kind : ErrReg) (i : BitVec 16)
  | l1 (core : BitVec 11) (line : BitVec 32) (lane : BitVec 5) | queue (ctx : BitVec 12) (b : BitVec 6) (n : BitVec 6)
  | fifo (endp : BitVec 8) (i : BitVec 9)
deriving DecidableEq, Repr, Inhabited

/-- The opcode table (chapters 02 to 19 give each row its rule). -/
inductive Instr where
  | steal (thief : BitVec 12) (victim : BitVec 12)
  | stealRetry (ctx : BitVec 12)
  | columnDispatch (col : BitVec 4)
  | taskAging (launch : BitVec 16) (task : BitVec 12)
  | preemptRequest (p : BitVec 2)
  | forcedSave (ctx : BitVec 12)
  | saveComplete (ctx : BitVec 12)
  | tagTimeout (ctx : BitVec 12)
  | transComplete (ctx : BitVec 12) (n : BitVec 4)
  | replayDepart (core : BitVec 11) (n : BitVec 4)
  | nestComplete (n : Nat)
  | mergeOpen (slice : BitVec 6)
  | mergeContribute (slice : BitVec 6)
  | mergeClose (slice : BitVec 6)
  | mergeResend (n : Nat)
  | charmRun (n : Nat)
  | charmTimeout (n : Nat)
  | shootdown (v : BitVec 64)
  | shootdownComplete
  | cowCopy (asid : BitVec 8) (page : BitVec 48)
  | cowCopyComplete (asid : BitVec 8) (page : BitVec 48)
  | snapReturn (v : BitVec 64)
  | snapLogTailWrite (v : BitVec 64)
  | snapLogBaseWrite (v : BitVec 64)
  | snapPoolPagesWrite (v : BitVec 64)
  | softErrorCorrected (site : ErrSite)
  | softErrorUncorrected (site : ErrSite)
  | hostMemAccess (write : Bool) (block : BitVec 33) (data : BitVec 512) (psn : Bool)
  | tceCommandStart (n : Nat)
  | sendChannelStart (n : Nat)
  | commandFinish (n : Nat)
  | batchTimeout (n : Nat)
  | reserveSlot (n : Nat)
  | endOfWalk (n : Nat)
  | zhoaskFetch (q : BitVec 6) (entry : BitVec 512)
  | cpCommandStart (n : Nat)
  | cpCommandComplete (n : Nat)
  | launch (n : Nat)
  | cpCopy (n : Nat)
  | signal (n : Nat)
  | wait (n : Nat)
  | waitPoll (n : Nat)
  | snap (n : Nat)
  | cpCodeswap (n : Nat)
  | codeswapCompletion (n : Nat)
  | tableWrite (n : Nat)
  | tableArm (n : Nat)
  | tableSwitch
  | launchComplete (launch : BitVec 16)
  | slotStart (bulk : Bool)
  | flitReceive (flit : BitVec 2176) (nbr : BitVec 14) (port : BitVec 5) (cls : BitVec 6)
  | ack (flit : BitVec 2176) (nbr : BitVec 14) (port : BitVec 5) (cls : BitVec 6)
  | sync (flit : BitVec 2176) (nbr : BitVec 14) (port : BitVec 5) (cls : BitVec 6)
  | hold (src : BitVec 14)
  | read (src : BitVec 14)
  | write (src : BitVec 14)
  | wblk (src : BitVec 14)
  | rblk (src : BitVec 14)
  | atom (src : BitVec 14)
  | charm (src : BitVec 14)
  | fifo (src : BitVec 14)
  | resp (src : BitVec 14)
  | done (src : BitVec 14)
  | refuse (src : BitVec 14)
  | flushRecord (src : BitVec 14)
  | claspOpen (src : BitVec 14)
  | claspClose (src : BitVec 14)
  | claspCommitted (src : BitVec 14)
  | claspAbort (far : Bool) (n : BitVec 14)
  | claspStatusQuery (src : BitVec 14)
  | collStart (src : BitVec 14)
  | collAbort (src : BitVec 14)
  | collFinished (src : BitVec 14)
  | collData (src : BitVec 14)
  | retransmitTimeout (p : BitVec 14)
  | ackTimer (p : BitVec 14)
  | e2eTimeout (n : Nat)
  | retryResend (n : Nat)
  | holdTimer (n : Nat) (src : BitVec 14)
  | collTimeout (n : Nat)
  | lineWeak (port : BitVec 6) (line : BitVec 7)
  | lineDrift (port : BitVec 6) (line : BitVec 7)
  | lineLost (port : BitVec 6) (line : BitVec 7)
  | combLost (port : BitVec 5)
  | syncLost
  | syncRestored
  | retuneComplete (port : BitVec 6) (line : BitVec 7)
  | portRequalify (port : BitVec 6)
  | ofuEventRead
  | ofuCredSelWrite (v : BitVec 64)
  | ageCommandStart (n : Nat)
  | triggerFire
  | barrierSubtract
  | gtStep (amount : BitVec 64)
  | asyncFaultDelivery (ctx : BitVec 12)
  | pfRequestWrite (ctx : BitVec 12)
  | pfAnswer (v : BitVec 64)
  | fltKill (v : BitVec 64)
  | dbgAttach (v : BitVec 64)
  | dbgHalt (v : BitVec 64)
  | dbgStep (v : BitVec 64)
  | dbgRelease (v : BitVec 64)
  | dbgRegRead (v : BitVec 64)
  | dbgRegWrite (v : BitVec 64)
  | coldReset
  | bootPeerWrite (v : BitVec 64)
  | initComplete
  | recoveryGo (v : BitVec 64)
  | flashUpdateComplete (result : BitVec 2)
  | sigCmd (v : BitVec 64)
  | marginWarning (col : BitVec 4)
  | arbiterInterval (draws : BitVec 192) (temps : BitVec 128)
  | pwrEventRead
  | packagePowerClamp
  | packagePowerRelease
  | thermalTrip
  | registerWrite (off : BitVec 32) (v : BitVec 64)
  | steCommandStart (n : Nat)
  | bangleCollStart (n : Nat)
  | hostLinkCompletion (n : Nat) (err : Bool) (data : List (Val 8))
  | powerLoss
  | nop (stop : Bool)
  | limm (stop : Bool) (i : BitVec 24)
  | pguard (stop : Bool) (p : BitVec 7) (n : Bool) (m : BitVec 7)
  | deps (stop : Bool) (a b c : BitVec 5) (n : BitVec 3)
  | add (stop : Bool) (d a b : BitVec 6)
  | addS32 (stop : Bool) (d a b : BitVec 6)
  | addZ32 (stop : Bool) (d a b : BitVec 6)
  | addSatS64 (stop : Bool) (d a b : BitVec 6)
  | addSatZ64 (stop : Bool) (d a b : BitVec 6)
  | addSatS32 (stop : Bool) (d a b : BitVec 6)
  | addSatZ32 (stop : Bool) (d a b : BitVec 6)
  | sub (stop : Bool) (d a b : BitVec 6)
  | subS32 (stop : Bool) (d a b : BitVec 6)
  | subZ32 (stop : Bool) (d a b : BitVec 6)
  | subSatS64 (stop : Bool) (d a b : BitVec 6)
  | subSatZ64 (stop : Bool) (d a b : BitVec 6)
  | subSatS32 (stop : Bool) (d a b : BitVec 6)
  | subSatZ32 (stop : Bool) (d a b : BitVec 6)
  | addi (stop : Bool) (d a : BitVec 6) (i : BitVec 12)
  | mul (stop : Bool) (d a b : BitVec 6)
  | mulhS64 (stop : Bool) (d a b : BitVec 6)
  | mulhZ64 (stop : Bool) (d a b : BitVec 6)
  | mulS32 (stop : Bool) (d a b : BitVec 6)
  | mulZ32 (stop : Bool) (d a b : BitVec 6)
  | mla (stop : Bool) (d a b : BitVec 6)
  | divS64 (stop : Bool) (d a b : BitVec 6)
  | divZ64 (stop : Bool) (d a b : BitVec 6)
  | remS64 (stop : Bool) (d a b : BitVec 6)
  | remZ64 (stop : Bool) (d a b : BitVec 6)
  | divS32 (stop : Bool) (d a b : BitVec 6)
  | divZ32 (stop : Bool) (d a b : BitVec 6)
  | remS32 (stop : Bool) (d a b : BitVec 6)
  | remZ32 (stop : Bool) (d a b : BitVec 6)
  | and (stop : Bool) (d a b : BitVec 6)
  | or (stop : Bool) (d a b : BitVec 6)
  | xor (stop : Bool) (d a b : BitVec 6)
  | andn (stop : Bool) (d a b : BitVec 6)
  | orn (stop : Bool) (d a b : BitVec 6)
  | xnor (stop : Bool) (d a b : BitVec 6)
  | nand (stop : Bool) (d a b : BitVec 6)
  | nor (stop : Bool) (d a b : BitVec 6)
  | andi (stop : Bool) (d a i : BitVec 6)
  | ori (stop : Bool) (d a i : BitVec 6)
  | xori (stop : Bool) (d a i : BitVec 6)
  | andni (stop : Bool) (d a i : BitVec 6)
  | orni (stop : Bool) (d a i : BitVec 6)
  | xnori (stop : Bool) (d a i : BitVec 6)
  | nandi (stop : Bool) (d a i : BitVec 6)
  | nori (stop : Bool) (d a i : BitVec 6)
  | shl (stop : Bool) (d a b : BitVec 6) (w : Bool)
  | shr (stop : Bool) (d a b : BitVec 6) (w : Bool)
  | sar (stop : Bool) (d a b : BitVec 6) (w : Bool)
  | rol (stop : Bool) (d a b : BitVec 6) (w : Bool)
  | ror (stop : Bool) (d a b : BitVec 6) (w : Bool)
  | shli (stop : Bool) (d a n : BitVec 6) (w : Bool)
  | shri (stop : Bool) (d a n : BitVec 6) (w : Bool)
  | sari (stop : Bool) (d a n : BitVec 6) (w : Bool)
  | roli (stop : Bool) (d a n : BitVec 6) (w : Bool)
  | rori (stop : Bool) (d a n : BitVec 6) (w : Bool)
  | clz (stop : Bool) (d a : BitVec 6)
  | ctz (stop : Bool) (d a : BitVec 6)
  | popc (stop : Bool) (d a : BitVec 6)
  | brev (stop : Bool) (d a : BitVec 6)
  | bswap (stop : Bool) (d a : BitVec 6)
  | minS64 (stop : Bool) (d a b : BitVec 6)
  | maxS64 (stop : Bool) (d a b : BitVec 6)
  | minZ64 (stop : Bool) (d a b : BitVec 6)
  | maxZ64 (stop : Bool) (d a b : BitVec 6)
  | bfx (stop : Bool) (d a p l : BitVec 6)
  | bfi (stop : Bool) (d a p l : BitVec 6)
  | extZ (stop : Bool) (d a w : BitVec 6)
  | extS (stop : Bool) (d a w : BitVec 6)
  | cmp (stop : Bool) (p : BitVec 7) (a b : BitVec 6) (c : BitVec 3)
  | cmpi (stop : Bool) (p : BitVec 7) (a i : BitVec 6) (c : BitVec 3)
  | pand (stop : Bool) (d a b : BitVec 7)
  | por (stop : Bool) (d a b : BitVec 7)
  | pxor (stop : Bool) (d a b : BitVec 7)
  | pandn (stop : Bool) (d a b : BitVec 7)
  | porn (stop : Bool) (d a b : BitVec 7)
  | pmov (stop : Bool) (d a : BitVec 7)
  | pnot (stop : Bool) (d a : BitVec 7)
  | pxnor (stop : Bool) (d a b : BitVec 7)
  | sel (stop : Bool) (d a : BitVec 6) (p : BitVec 7)
  | selz (stop : Bool) (d a : BitVec 6) (p : BitVec 7)
  | seln (stop : Bool) (d a : BitVec 6) (p : BitVec 7)
  | fadd (stop : Bool) (d a b : BitVec 6) (t r : BitVec 2)
  | fsub (stop : Bool) (d a b : BitVec 6) (t r : BitVec 2)
  | fmul (stop : Bool) (d a b : BitVec 6) (t r : BitVec 2)
  | fmin (stop : Bool) (d a b : BitVec 6) (t : BitVec 2)
  | fmax (stop : Bool) (d a b : BitVec 6) (t : BitVec 2)
  | ffma (stop : Bool) (d a b : BitVec 6) (t r : BitVec 2)
  | ffms (stop : Bool) (d a b : BitVec 6) (t r : BitVec 2)
  | ffnma (stop : Bool) (d a b : BitVec 6) (t r : BitVec 2)
  | ffnms (stop : Bool) (d a b : BitVec 6) (t r : BitVec 2)
  | fdiv (stop : Bool) (d a b : BitVec 6) (t r : BitVec 2)
  | fsqrt (stop : Bool) (d a : BitVec 6) (t r : BitVec 2)
  | fcmp (stop : Bool) (p : BitVec 7) (a b : BitVec 6) (t : BitVec 2) (c : BitVec 3)
  | fcvt (stop : Bool) (d a : BitVec 6) (e g : BitVec 3) (q z : Bool) (r : BitVec 2)
  | fclass (stop : Bool) (d a : BitVec 6) (t : BitVec 2)
  | br (stop : Bool) (o : BitVec 24)
  | bri (stop : Bool) (d a : BitVec 6) (i : BitVec 12)
  | call (stop : Bool) (o : BitVec 24)
  | ret (stop : Bool) (a : BitVec 6)
  | loopPush (stop : Bool) (a : BitVec 6)
  | loopPop (stop : Bool)
  | loop (stop : Bool) (o : BitVec 18)
  | loops (stop : Bool) (f : BitVec 6) (p : BitVec 7) (o : BitVec 11)
  | brzm (stop : Bool) (o : BitVec 23)
  | brnzm (stop : Bool) (o : BitVec 23)
  | trap (stop : Bool) (c : BitVec 18)
  | svc (stop : Bool) (c : BitVec 18)
  | brk (stop : Bool) (c : BitVec 18)
  | cnarrowOff (stop : Bool) (d a b : BitVec 6)
  | cnarrowLen (stop : Bool) (d a b : BitVec 6)
  | cnarrowBase (stop : Bool) (d a b : BitVec 6)
  | cnarrowiOff (stop : Bool) (d a i : BitVec 6)
  | cnarrowiLen (stop : Bool) (d a i : BitVec 6)
  | cnarrowiBase (stop : Bool) (d a i : BitVec 6)
  | cperm (stop : Bool) (d a : BitVec 6) (m : BitVec 8)
  | cgetBase (stop : Bool) (d a : BitVec 6)
  | cgetLen (stop : Bool) (d a : BitVec 6)
  | cgetPerm (stop : Bool) (d a : BitVec 6)
  | cgetShape (stop : Bool) (d a : BitVec 6)
  | cgetTag (stop : Bool) (d a : BitVec 6)
  | cgetHi (stop : Bool) (d a : BitVec 6)
  | cgetLo (stop : Bool) (d a : BitVec 6)
  | cshape (stop : Bool) (d a b : BitVec 6)
  | cmint (stop : Bool) (d a b : BitVec 6)
  | trans (stop : Bool) (d a : BitVec 6)
  | hgetState (stop : Bool) (d a : BitVec 6)
  | hgetPage (stop : Bool) (d a : BitVec 6)
  | hgetSize (stop : Bool) (d a : BitVec 6)
  | hdrop (stop : Bool) (d : BitVec 6)
  | wtake (stop : Bool) (d : BitVec 6) (p : BitVec 7)
  | join (stop : Bool) (a : BitVec 6) (i : BitVec 12)
  | leave (stop : Bool) (a : BitVec 6) (i : BitVec 12)
  | stepend (stop : Bool)
  | switch (stop : Bool)
  | yield (stop : Bool)
  | csrr (stop : Bool) (d : BitVec 6) (c : BitVec 12)
  | csrw (stop : Bool) (a : BitVec 6) (c : BitVec 12)
  | codeswap (stop : Bool) (a b : BitVec 6)
  | trapret (stop : Bool)
  | vadd (stop : Bool) (d a b : BitVec 6) (c o : Bool) (v : BitVec 4)
  | vsub (stop : Bool) (d a b : BitVec 6) (c o : Bool) (v : BitVec 4)
  | vmul (stop : Bool) (d a b : BitVec 6) (c o : Bool) (v : BitVec 4)
  | vfma (stop : Bool) (d a b : BitVec 6) (c o : Bool) (v : BitVec 4)
  | vfms (stop : Bool) (d a b : BitVec 6) (c o : Bool) (v : BitVec 4)
  | vmin (stop : Bool) (d a b : BitVec 6) (c : Bool) (v : BitVec 4)
  | vmax (stop : Bool) (d a b : BitVec 6) (c : Bool) (v : BitVec 4)
  | vdiv (stop : Bool) (d a b : BitVec 6) (c : Bool) (v : BitVec 4)
  | vsqrt (stop : Bool) (d a : BitVec 6) (v : BitVec 4)
  | vrcpe (stop : Bool) (d a : BitVec 6)
  | vrsqrte (stop : Bool) (d a : BitVec 6)
  | vexp2e (stop : Bool) (d a : BitVec 6)
  | vlog2e (stop : Bool) (d a : BitVec 6)
  | vand (stop : Bool) (d a b : BitVec 6) (c : Bool)
  | vor (stop : Bool) (d a b : BitVec 6) (c : Bool)
  | vxor (stop : Bool) (d a b : BitVec 6) (c : Bool)
  | vandn (stop : Bool) (d a b : BitVec 6) (c : Bool)
  | vorn (stop : Bool) (d a b : BitVec 6) (c : Bool)
  | vxnor (stop : Bool) (d a b : BitVec 6) (c : Bool)
  | vnand (stop : Bool) (d a b : BitVec 6) (c : Bool)
  | vnor (stop : Bool) (d a b : BitVec 6) (c : Bool)
  | vshl (stop : Bool) (d a b : BitVec 6) (c : Bool) (w : BitVec 2)
  | vshr (stop : Bool) (d a b : BitVec 6) (c : Bool) (w : BitVec 2)
  | vsar (stop : Bool) (d a b : BitVec 6) (c : Bool) (w : BitVec 2)
  | vrol (stop : Bool) (d a b : BitVec 6) (c : Bool) (w : BitVec 2)
  | vror (stop : Bool) (d a b : BitVec 6) (c : Bool) (w : BitVec 2)
  | vcvt (stop : Bool) (d a : BitVec 6) (e g : BitVec 4) (r : Bool) (p : BitVec 3)
  | vcmp (stop : Bool) (y : Bool) (c : BitVec 3) (a b : BitVec 6) (x : Bool) (v : BitVec 4)
  | mpush (stop : Bool) (a : BitVec 6)
  | mpushRaw (stop : Bool) (a : BitVec 6)
  | mpushX (stop : Bool) (a : BitVec 6)
  | mpushXRaw (stop : Bool) (a : BitVec 6)
  | minv (stop : Bool)
  | mpop (stop : Bool) (n : BitVec 4)
  | mdup (stop : Bool)
  | mall (stop : Bool)
  | vbcast (stop : Bool) (d a : BitVec 6) (w : BitVec 2)
  | vext (stop : Bool) (d a b : BitVec 6) (x i : Bool) (w : BitVec 2)
  | vins (stop : Bool) (d a b : BitVec 6) (i : Bool) (w : BitVec 2)
  | vperm (stop : Bool) (d a b : BitVec 6)
  | vperm2 (stop : Bool) (d a b : BitVec 6)
  | vpermB (stop : Bool) (d a b : BitVec 6)
  | vxswz (stop : Bool) (d a b : BitVec 6)
  | vxswzi (stop : Bool) (d a i : BitVec 6)
  | vredAdd (stop : Bool) (d a : BitVec 6) (v : BitVec 4)
  | vredMin (stop : Bool) (d a : BitVec 6) (v : BitVec 4)
  | vredMax (stop : Bool) (d a : BitVec 6) (v : BitVec 4)
  | vdot (stop : Bool) (d a b : BitVec 6) (c sat : Bool) (v : BitVec 4)
  | viota (stop : Bool) (d a b : BitVec 6) (w : BitVec 2)
  | viotaM (stop : Bool) (d : BitVec 6)
  | vabs (stop : Bool) (d a : BitVec 6) (x : Bool) (v : BitVec 4)
  | vneg (stop : Bool) (d a : BitVec 6) (x : Bool) (v : BitVec 4)
  | vseed (stop : Bool) (a : BitVec 6)
  | vseedX (stop : Bool) (a : BitVec 6)
  | vseedrd (stop : Bool) (d : BitVec 6)
  | vmov (stop : Bool) (d a : BitVec 6)
  | vmovZ (stop : Bool) (d a : BitVec 6)
  | vmovM (stop : Bool) (d : BitVec 6)
  | lds (stop : Bool) (d a b : BitVec 6) (i c x : Bool) (z : BitVec 2)
  | sts (stop : Bool) (d a b : BitVec 6) (i c : Bool) (z : BitVec 2)
  | ldf (stop : Bool) (d a b : BitVec 6) (i w x : Bool)
  | ldfe (stop : Bool) (d a b : BitVec 6) (i w x : Bool)
  | ste (stop : Bool) (d a b : BitVec 6) (i w : Bool)
  | stf (stop : Bool) (d a b : BitVec 6) (i w : Bool)
  | tagclr (stop : Bool) (a b : BitVec 6) (i w : Bool)
  | vld (stop : Bool) (d a : BitVec 6)
  | vldBank (stop : Bool) (d a : BitVec 6)
  | vldStr (stop : Bool) (d a b : BitVec 6)
  | vldG (stop : Bool) (d : BitVec 6) (c : BitVec 4) (b : BitVec 6) (z : Bool)
  | vst (stop : Bool) (d a : BitVec 6)
  | vstBank (stop : Bool) (d a : BitVec 6)
  | vstStr (stop : Bool) (d a b : BitVec 6)
  | vstG (stop : Bool) (d : BitVec 6) (c : BitVec 4) (b : BitVec 6) (n : Bool)
  | vldg (stop : Bool) (d a b : BitVec 6)
  | vldgG (stop : Bool) (d : BitVec 6) (c : BitVec 4) (b : BitVec 6) (z : Bool)
  | vstg (stop : Bool) (d a b : BitVec 6)
  | vstgG (stop : Bool) (d : BitVec 6) (c : BitVec 4) (b : BitVec 6) (n : Bool)
  | vldt (stop : Bool) (d a b : BitVec 6) (e : BitVec 2)
  | ldg (stop : Bool) (d : BitVec 6) (h : BitVec 4) (b : BitVec 6) (i zp x : Bool) (z : BitVec 2)
  | stg (stop : Bool) (d : BitVec 6) (h : BitVec 4) (b : BitVec 6) (i n : Bool) (z : BitVec 2)
  | lda (stop : Bool) (d : BitVec 6) (h : BitVec 4) (b : BitVec 6) (z : BitVec 2) (c : BitVec 3)
  | sta (stop : Bool) (d : BitVec 6) (h : BitVec 4) (b : BitVec 6) (z : BitVec 2) (c : BitVec 3)
  | atomSwap (stop : Bool) (d : BitVec 6) (r : BitVec 2) (c : BitVec 4) (b : BitVec 6) (w x : Bool)
  | atomCas (stop : Bool) (d : BitVec 6) (r : BitVec 2) (c : BitVec 4) (b : BitVec 6) (w x : Bool)
  | atomAdd (stop : Bool) (d : BitVec 6) (r : BitVec 2) (c : BitVec 4) (b : BitVec 6) (w x : Bool)
  | atomAnd (stop : Bool) (d : BitVec 6) (r : BitVec 2) (c : BitVec 4) (b : BitVec 6) (w x : Bool)
  | atomOr (stop : Bool) (d : BitVec 6) (r : BitVec 2) (c : BitVec 4) (b : BitVec 6) (w x : Bool)
  | atomXor (stop : Bool) (d : BitVec 6) (r : BitVec 2) (c : BitVec 4) (b : BitVec 6) (w x : Bool)
  | atomMinS (stop : Bool) (d : BitVec 6) (r : BitVec 2) (c : BitVec 4) (b : BitVec 6) (w x : Bool)
  | atomMaxS (stop : Bool) (d : BitVec 6) (r : BitVec 2) (c : BitVec 4) (b : BitVec 6) (w x : Bool)
  | atomMinZ (stop : Bool) (d : BitVec 6) (r : BitVec 2) (c : BitVec 4) (b : BitVec 6) (w x : Bool)
  | atomMaxZ (stop : Bool) (d : BitVec 6) (r : BitVec 2) (c : BitVec 4) (b : BitVec 6) (w x : Bool)
  | atomFadd (stop : Bool) (d : BitVec 6) (r : BitVec 2) (c : BitVec 4) (b : BitVec 6) (w x : Bool)
  | atomFmin (stop : Bool) (d : BitVec 6) (r : BitVec 2) (c : BitVec 4) (b : BitVec 6) (w x : Bool)
  | atomFmax (stop : Bool) (d : BitVec 6) (r : BitVec 2) (c : BitVec 4) (b : BitVec 6) (w x : Bool)
  | atomx (stop : Bool) (d : BitVec 6) (r : BitVec 2) (c : BitVec 4) (b i : BitVec 6)
  | fence (stop : Bool) (u e t m p q : Bool) (c : BitVec 3)
  | prefetch (stop : Bool) (d : BitVec 6) (c : BitVec 4) (b : BitVec 6) (o : Bool)
  | flush (stop : Bool) (d : BitVec 6) (c : BitVec 4) (b : BitVec 6) (o : Bool)
  | discard (stop : Bool) (d : BitVec 6) (c : BitVec 4) (b : BitVec 6)
  | sbopFill (stop : Bool) (d : BitVec 6) (c : BitVec 4) (b : BitVec 6) (r : Bool) (n : BitVec 5)
  | sbopAdd (stop : Bool) (d : BitVec 6) (c : BitVec 4) (b : BitVec 6) (r : Bool) (n : BitVec 5)
  | sbopFadd (stop : Bool) (d : BitVec 6) (c : BitVec 4) (b : BitVec 6) (r : Bool) (n : BitVec 5)
  | sbopMax (stop : Bool) (d : BitVec 6) (c : BitVec 4) (b : BitVec 6) (r : Bool) (n : BitVec 5)
  | mma (stop : Bool) (d a b : BitVec 6) (g bs z : Bool) (f : BitVec 3)
  | nset (stop : Bool) (a i : BitVec 6)
  | nsetA (stop : Bool) (a i : BitVec 6)
  | nget (stop : Bool) (d i : BitVec 6)
  | ngetA (stop : Bool) (d i : BitVec 6)
  | ngo (stop : Bool) (d : BitVec 6)
  | ngoM (stop : Bool) (d a b : BitVec 6)
  | accrd (stop : Bool) (d a b : BitVec 6)
  | accwr (stop : Bool) (d a b : BitVec 6)
  | accz (stop : Bool) (d : BitVec 6)
  | obcast (stop : Bool) (d a b l : BitVec 6)
  | mopen (stop : Bool) (d a b : BitVec 6) (n : BitVec 5)
  | accmerge (stop : Bool) (d a b : BitVec 6) (n : BitVec 2) (z : Bool) (k : BitVec 2)
  | copy (stop : Bool) (d a b : BitVec 6) (c h : BitVec 3)
  | send (stop : Bool) (d a b : BitVec 6) (l : BitVec 4) (h : BitVec 2)
  | fbind (stop : Bool) (d a : BitVec 6)
  | funbind (stop : Bool) (d : BitVec 6)
  | fpush (stop : Bool) (d a : BitVec 6)
  | fpushEos (stop : Bool) (d a : BitVec 6)
  | fpop (stop : Bool) (d a : BitVec 6)
  | coll (stop : Bool) (d a b : BitVec 6)
  | clopen (stop : Bool) (d a : BitVec 6) (h : BitVec 2)
  | clclose (stop : Bool) (d : BitVec 6) (h : BitVec 2)
  | trsel (stop : Bool) (d a b : BitVec 6)
  | trexp (stop : Bool) (d a b : BitVec 6)
  | trback (stop : Bool) (d a b : BitVec 6)
  | trbackVo (stop : Bool) (d a b : BitVec 6)
  | trroot (stop : Bool) (d a b : BitVec 6)
  | trpoolInit (stop : Bool) (d a b : BitVec 6)
  | trpoolParam (stop : Bool) (d a b : BitVec 6)
  | qbgate (stop : Bool) (d a b : BitVec 6) (n : BitVec 3) (k : BitVec 2)
  | qbdiag (stop : Bool) (d a b : BitVec 6) (n : BitVec 3) (k : BitVec 2)
  | qbmap (stop : Bool) (d a b : BitVec 6)
  | qbmapSet (stop : Bool) (d b : BitVec 6)
  | qbmapGet (stop : Bool) (d b : BitVec 6)
  | qbmapEnd (stop : Bool) (d : BitVec 6)
  | qbswap (stop : Bool) (d a : BitVec 6)
  | qbnorm (stop : Bool) (d b : BitVec 6)
  | qbprob (stop : Bool) (d a b : BitVec 6)
  | qbcoll (stop : Bool) (d a b : BitVec 6)
  | twait (stop : Bool) (a : BitVec 6)
  | twaitCh (stop : Bool) (c : BitVec 6)
  | tstat (stop : Bool) (d a : BitVec 6)
  | tstatLog (stop : Bool) (d c : BitVec 6)
  | waitc (stop : Bool) (a i : BitVec 6) (k : BitVec 2)
  | barinit (stop : Bool) (a b : BitVec 6)
  | bararr (stop : Bool) (d a : BitVec 6)
  | barexp (stop : Bool) (d a b : BitVec 6)
  | barwait (stop : Bool) (d a b : BitVec 6)
  | bartry (stop : Bool) (p : BitVec 7) (a b : BitVec 6)
  | trigat (stop : Bool) (d a b : BitVec 6)
  | trigcnt (stop : Bool) (d a b : BitVec 6)
  | trigcan (stop : Bool) (d a : BitVec 6)
  | qdepth (stop : Bool) (n : BitVec 6)
  | qdepthX (stop : Bool) (a : BitVec 6)
  | qstat (stop : Bool) (d n : BitVec 6)
  | qmode (stop : Bool) (a : BitVec 6)
  | qmodei (stop : Bool) (m : BitVec 12)
deriving DecidableEq, Repr, Inhabited

end Sys2Proof
end

