-- ==== Sys2Proof/WellFormed.lean ====
section
/-! DEFINITION. Which operand values an instruction may have (R91, R96, R97 and the F-field tables), and what the decode
checks of a bundle need to know of a slot: its resource class (R89), its unit (R52), the prefixes it accepts (R84, R95) and
the registers it writes (R90). -/
namespace Sys2Proof

/-- Type codes of R97 that are integers: 0 to 7 and 15 (q32 acts as s64, R157). -/
def intType (v : BitVec 4) : Bool := v < 8 || v == 15
/-- Type codes 8 to 11: f64, f32, f16, bf16. -/
def floatType (v : BitVec 4) : Bool := 8 ≤ v && v < 12
/-- Types VADD, VSUB, VMIN, VMAX, VCMP and VRED accept: 0 to 11 and 15 (R157, R165, R170). -/
def typeAddSub (v : BitVec 4) : Bool := v < 12 || v == 15
/-- Types of 8 or 16 bits among those of `typeAddSub` (R165, ANY). -/
def narrowType (v : BitVec 4) : Bool := v == 0 || v == 1 || v == 4 || v == 5 || v == 10 || v == 11
/-- Types VDOT accepts (R171). -/
def dotType (v : BitVec 4) : Bool := v == 0 || v == 1 || v == 4 || v == 5 || (10 ≤ v && v < 14)
/-- Width in bits of a VCVT type code, on the source side or the destination side (R97, R162). -/
def vcvtWidth (v : BitVec 4) (dst : Bool) : Nat :=
  match v.toNat with
  | 0 => 8 | 1 => 16 | 2 => 32 | 3 => 64 | 4 => 8 | 5 => 16 | 6 => 32 | 7 => 64
  | 8 => 64 | 9 => 32 | 10 => 16 | 11 => 16 | 12 => 8 | 13 => 8 | 14 => 4
  | _ => if dst then 8 else 64
/-- The PART values of R163: one for each group of slots in the wider side. -/
def vcvtParts (ws wd : Nat) : Nat := max ws wd / min ws wd
/-- R162: DST `e`, SRC `g`, SR `r` and PART `p` that VCVT accepts. -/
def vcvtOk (e g : BitVec 4) (r : Bool) (p : BitVec 3) : Bool :=
  let ws := vcvtWidth g false
  let wd := vcvtWidth e true
  (!r || (11 ≤ e && !(e == g && e != 15) && !(e == 15 && g == 13))) &&
  !((ws == 64 && wd == 4) || (ws == 4 && wd == 64)) && p.toNat < vcvtParts ws wd
/-- The nest register indices of R188. -/
def nestIndex (i : BitVec 6) : Bool := i < 8 || (16 ≤ i && i < 40 && i.toNat % 4 != 3)
/-- R306: an operand of COPY is c0 to c15, or x32 to x63 as a scratch operand. -/
def copyOperand (a : BitVec 6) : Bool := a < 16 || 32 ≤ a
/-- The CSR numbers of R112. -/
def csrListed (c : BitVec 12) : Bool :=
  c < 7 || (8 ≤ c && c < 11) || (0x10 ≤ c && c < 0x40) || c == 0x100 || c == 0x101 || (0x108 ≤ c && c < 0x180)

/-- The operand values the instruction may have; false raises ILLEGAL_FUNCTION at decode (R91). An event has no encoding
and no check here. -/
@[inline] def Instr.wf : Instr → Bool
  | .nop _ => true
  | .limm _ _ => true
  | .pguard _ p _ _ => p < 96
  | .deps _ a b c n => n < 4 && (n.toNat > 2 || c == 0) && (n.toNat > 1 || b == 0) && (n.toNat > 0 || a == 0)
  | .add _ _ _ _ => true
  | .addS32 _ _ _ _ => true
  | .addZ32 _ _ _ _ => true
  | .addSatS64 _ _ _ _ => true
  | .addSatZ64 _ _ _ _ => true
  | .addSatS32 _ _ _ _ => true
  | .addSatZ32 _ _ _ _ => true
  | .sub _ _ _ _ => true
  | .subS32 _ _ _ _ => true
  | .subZ32 _ _ _ _ => true
  | .subSatS64 _ _ _ _ => true
  | .subSatZ64 _ _ _ _ => true
  | .subSatS32 _ _ _ _ => true
  | .subSatZ32 _ _ _ _ => true
  | .addi _ _ _ _ => true
  | .mul _ _ _ _ => true
  | .mulhS64 _ _ _ _ => true
  | .mulhZ64 _ _ _ _ => true
  | .mulS32 _ _ _ _ => true
  | .mulZ32 _ _ _ _ => true
  | .mla _ _ _ _ => true
  | .divS64 _ _ _ _ => true
  | .divZ64 _ _ _ _ => true
  | .remS64 _ _ _ _ => true
  | .remZ64 _ _ _ _ => true
  | .divS32 _ _ _ _ => true
  | .divZ32 _ _ _ _ => true
  | .remS32 _ _ _ _ => true
  | .remZ32 _ _ _ _ => true
  | .and _ _ _ _ => true
  | .or _ _ _ _ => true
  | .xor _ _ _ _ => true
  | .andn _ _ _ _ => true
  | .orn _ _ _ _ => true
  | .xnor _ _ _ _ => true
  | .nand _ _ _ _ => true
  | .nor _ _ _ _ => true
  | .andi _ _ _ _ => true
  | .ori _ _ _ _ => true
  | .xori _ _ _ _ => true
  | .andni _ _ _ _ => true
  | .orni _ _ _ _ => true
  | .xnori _ _ _ _ => true
  | .nandi _ _ _ _ => true
  | .nori _ _ _ _ => true
  | .shl _ _ _ _ _ => true
  | .shr _ _ _ _ _ => true
  | .sar _ _ _ _ _ => true
  | .rol _ _ _ _ _ => true
  | .ror _ _ _ _ _ => true
  | .shli _ _ _ n w => (!w || n < 32)
  | .shri _ _ _ n w => (!w || n < 32)
  | .sari _ _ _ n w => (!w || n < 32)
  | .roli _ _ _ n w => (!w || n < 32)
  | .rori _ _ _ n w => (!w || n < 32)
  | .clz _ _ _ => true
  | .ctz _ _ _ => true
  | .popc _ _ _ => true
  | .brev _ _ _ => true
  | .bswap _ _ _ => true
  | .minS64 _ _ _ _ => true
  | .maxS64 _ _ _ _ => true
  | .minZ64 _ _ _ _ => true
  | .maxZ64 _ _ _ _ => true
  | .bfx _ _ _ _ _ => true
  | .bfi _ _ _ _ _ => true
  | .extZ _ _ _ _ => true
  | .extS _ _ _ _ => true
  | .cmp _ p _ _ _ => p < 96
  | .cmpi _ p _ _ _ => p < 96
  | .pand _ d a b => d < 96 && a < 96 && b < 96
  | .por _ d a b => d < 96 && a < 96 && b < 96
  | .pxor _ d a b => d < 96 && a < 96 && b < 96
  | .pandn _ d a b => d < 96 && a < 96 && b < 96
  | .porn _ d a b => d < 96 && a < 96 && b < 96
  | .pmov _ d a => d < 96 && a < 96
  | .pnot _ d a => d < 96 && a < 96
  | .pxnor _ d a b => d < 96 && a < 96 && b < 96
  | .sel _ _ _ p => p < 96
  | .selz _ _ _ p => p < 96
  | .seln _ _ _ p => p < 96
  | .fadd _ _ _ _ _ _ => true
  | .fsub _ _ _ _ _ _ => true
  | .fmul _ _ _ _ _ _ => true
  | .fmin _ _ _ _ _ => true
  | .fmax _ _ _ _ _ => true
  | .ffma _ _ _ _ _ _ => true
  | .ffms _ _ _ _ _ _ => true
  | .ffnma _ _ _ _ _ _ => true
  | .ffnms _ _ _ _ _ _ => true
  | .fdiv _ _ _ _ _ _ => true
  | .fsqrt _ _ _ _ _ => true
  | .fcmp _ p _ _ _ c => p < 96 && c < 5
  | .fcvt _ _ _ e g q z _ => (!z || e == 5) && (!q || g == 5)
  | .fclass _ _ _ _ => true
  | .br _ _ => true
  | .bri _ _ _ _ => true
  | .call _ _ => true
  | .ret _ _ => true
  | .loopPush _ _ => true
  | .loopPop _ => true
  | .loop _ _ => true
  | .loops _ f p _ => p < 96 && f < 8
  | .brzm _ _ => true
  | .brnzm _ _ => true
  | .trap _ _ => true
  | .svc _ _ => true
  | .brk _ _ => true
  | .cnarrowOff _ d a _ => d < 16 && a < 16
  | .cnarrowLen _ d a _ => d < 16 && a < 16
  | .cnarrowBase _ d a _ => d < 16 && a < 16
  | .cnarrowiOff _ d a _ => d < 16 && a < 16
  | .cnarrowiLen _ d a _ => d < 16 && a < 16
  | .cnarrowiBase _ d a _ => d < 16 && a < 16
  | .cperm _ d a _ => d < 16 && a < 16
  | .cgetBase _ _ a => a < 16
  | .cgetLen _ _ a => a < 16
  | .cgetPerm _ _ a => a < 16
  | .cgetShape _ _ a => a < 16
  | .cgetTag _ _ a => a < 16
  | .cgetHi _ _ a => a < 16
  | .cgetLo _ _ a => a < 16
  | .cshape _ d a _ => d < 16 && a < 16
  | .cmint _ d _ _ => d < 16
  | .trans _ d _ => d < 16
  | .hgetState _ _ a => a < 16
  | .hgetPage _ _ a => a < 16
  | .hgetSize _ _ a => a < 16
  | .hdrop _ d => d < 16
  | .wtake _ _ p => p < 96
  | .join _ _ _ => true
  | .leave _ _ _ => true
  | .stepend _ => true
  | .switch _ => true
  | .yield _ => true
  | .csrr _ _ c => csrListed c
  | .csrw _ _ c => csrListed c
  | .codeswap _ _ _ => true
  | .trapret _ => true
  | .vadd _ _ _ _ _ o v => typeAddSub v && (!o || intType v)
  | .vsub _ _ _ _ _ o v => typeAddSub v && (!o || intType v)
  | .vmul _ _ _ _ _ o v => v < 12 && (!o || v < 8)
  | .vfma _ _ _ _ _ _ v => floatType v
  | .vfms _ _ _ _ _ _ v => floatType v
  | .vmin _ _ _ _ _ v => typeAddSub v
  | .vmax _ _ _ _ _ v => typeAddSub v
  | .vdiv _ _ _ _ _ v => v < 12
  | .vsqrt _ _ _ v => floatType v
  | .vrcpe _ _ _ => true
  | .vrsqrte _ _ _ => true
  | .vexp2e _ _ _ => true
  | .vlog2e _ _ _ => true
  | .vand _ _ _ _ _ => true
  | .vor _ _ _ _ _ => true
  | .vxor _ _ _ _ _ => true
  | .vandn _ _ _ _ _ => true
  | .vorn _ _ _ _ _ => true
  | .vxnor _ _ _ _ _ => true
  | .vnand _ _ _ _ _ => true
  | .vnor _ _ _ _ _ => true
  | .vshl _ _ _ _ _ _ => true
  | .vshr _ _ _ _ _ _ => true
  | .vsar _ _ _ _ _ _ => true
  | .vrol _ _ _ _ _ _ => true
  | .vror _ _ _ _ _ _ => true
  | .vcvt _ _ _ e g r p => vcvtOk e g r p
  | .vcmp _ y c _ _ _ v => typeAddSub v && c != 7 && (c != 6 || floatType v) && (!y || narrowType v)
  | .mpush _ _ => true
  | .mpushRaw _ _ => true
  | .mpushX _ _ => true
  | .mpushXRaw _ _ => true
  | .minv _ => true
  | .mpop _ _ => true
  | .mdup _ => true
  | .mall _ => true
  | .vbcast _ _ _ _ => true
  | .vext _ _ _ b _ i w => (!i || w != 3 || b < 32)
  | .vins _ _ _ b i w => (!i || w != 3 || b < 32)
  | .vperm _ _ _ _ => true
  | .vperm2 _ _ _ _ => true
  | .vpermB _ _ _ _ => true
  | .vxswz _ _ _ _ => true
  | .vxswzi _ _ _ _ => true
  | .vredAdd _ _ _ v => typeAddSub v
  | .vredMin _ _ _ v => typeAddSub v
  | .vredMax _ _ _ v => typeAddSub v
  | .vdot _ _ _ _ _ sat v => dotType v && (!sat || v < 8)
  | .viota _ _ _ _ _ => true
  | .viotaM _ _ => true
  | .vabs _ _ _ x v => (v < 4 || floatType v || v == 15) && (!x || intType v)
  | .vneg _ _ _ x v => (v < 4 || floatType v || v == 15) && (!x || intType v)
  | .vseed _ _ => true
  | .vseedX _ _ => true
  | .vseedrd _ _ => true
  | .vmov _ _ _ => true
  | .vmovZ _ _ _ => true
  | .vmovM _ _ => true
  | .lds _ d _ _ _ c x z => (!c || (z == 0 && !x && d < 16)) && (!x || z != 3)
  | .sts _ d _ _ _ c z => (!c || (z == 0 && d < 16))
  | .ldf _ _ _ _ _ w x => (!x || !w)
  | .ldfe _ _ _ _ _ w x => (!x || !w)
  | .ste _ _ _ _ _ _ => true
  | .stf _ _ _ _ _ _ => true
  | .tagclr _ _ _ _ _ => true
  | .vld _ _ _ => true
  | .vldBank _ _ _ => true
  | .vldStr _ _ _ _ => true
  | .vldG _ _ _ _ _ => true
  | .vst _ _ _ => true
  | .vstBank _ _ _ => true
  | .vstStr _ _ _ _ => true
  | .vstG _ _ _ _ _ => true
  | .vldg _ _ _ _ => true
  | .vldgG _ _ _ _ _ => true
  | .vstg _ _ _ _ => true
  | .vstgG _ _ _ _ _ => true
  | .vldt _ _ _ _ e => e != 3
  | .ldg _ _ _ _ _ _ x z => (!x || z != 3)
  | .stg _ _ _ _ _ _ _ => true
  | .lda _ _ _ _ _ c => c != 7
  | .sta _ _ _ _ _ c => c != 7
  | .atomSwap _ _ r _ _ _ x => (!x || r != 0)
  | .atomCas _ d r _ _ _ x => (!x || r != 0) && d != 63
  | .atomAdd _ _ r _ _ _ x => (!x || r != 0)
  | .atomAnd _ _ r _ _ _ x => (!x || r != 0)
  | .atomOr _ _ r _ _ _ x => (!x || r != 0)
  | .atomXor _ _ r _ _ _ x => (!x || r != 0)
  | .atomMinS _ _ r _ _ _ x => (!x || r != 0)
  | .atomMaxS _ _ r _ _ _ x => (!x || r != 0)
  | .atomMinZ _ _ r _ _ _ x => (!x || r != 0)
  | .atomMaxZ _ _ r _ _ _ x => (!x || r != 0)
  | .atomFadd _ _ r _ _ _ x => (!x || r != 0)
  | .atomFmin _ _ r _ _ _ x => (!x || r != 0)
  | .atomFmax _ _ r _ _ _ x => (!x || r != 0)
  | .atomx _ d _ _ _ _ => d != 63
  | .fence _ _ _ _ _ _ _ c => c != 7
  | .prefetch _ _ _ _ _ => true
  | .flush _ _ _ _ _ => true
  | .discard _ _ _ _ => true
  | .sbopFill _ _ _ _ _ _ => true
  | .sbopAdd _ _ _ _ _ _ => true
  | .sbopFadd _ _ _ _ _ _ => true
  | .sbopMax _ _ _ _ _ _ => true
  | .mma _ d _ _ _ bs _ f => d < 4 && f < 6 && (!bs || f < 3)
  | .nset _ _ i => nestIndex i && i != 7
  | .nsetA _ _ i => nestIndex i && i != 7
  | .nget _ _ i => nestIndex i
  | .ngetA _ _ i => nestIndex i
  | .ngo _ d => d < 32
  | .ngoM _ d a _ => d < 32 && a < 16
  | .accrd _ _ a _ => a < 4
  | .accwr _ d _ _ => d < 4
  | .accz _ d => d < 4
  | .obcast _ d _ _ _ => d < 32
  | .mopen _ d a _ _ => d < 32 && a < 16
  | .accmerge _ d a _ _ _ _ => d < 32 && a < 16
  | .copy _ d a b c _ => d < 32 && copyOperand a && copyOperand b && c != 7
  | .send _ d a _ _ _ => d < 32 && a < 16
  | .fbind _ d _ => d < 8
  | .funbind _ d => d < 8
  | .fpush _ d _ => d < 8
  | .fpushEos _ d _ => d < 8
  | .fpop _ _ a => a < 8
  | .coll _ d a _ => d < 30 && a < 15
  | .clopen _ d _ _ => d < 32
  | .clclose _ d _ => d < 32
  | .trsel _ d a _ => d < 32 && a < 16
  | .trexp _ d a b => d < 32 && a < 16 && b != 63
  | .trback _ d a b => d < 32 && a < 16 && b != 63
  | .trbackVo _ d a b => d < 32 && a < 16 && b != 63
  | .trroot _ d a _ => d < 32 && a < 16
  | .trpoolInit _ d a _ => d < 32 && a < 16
  | .trpoolParam _ d a _ => d < 32 && a < 16
  | .qbgate _ d _ _ n k => d < 32 && k != 0 && n != 7
  | .qbdiag _ d _ _ n k => d < 32 && k != 0 && n != 7
  | .qbmap _ d a _ => d < 32 && a < 16
  | .qbmapSet _ d _ => d < 32
  | .qbmapGet _ d _ => d < 32
  | .qbmapEnd _ d => d < 32
  | .qbswap _ d _ => d < 32
  | .qbnorm _ d _ => d < 32
  | .qbprob _ d _ _ => d < 32
  | .qbcoll _ d _ _ => d < 32
  | .twait _ a => a < 32
  | .twaitCh _ _ => true
  | .tstat _ _ a => a < 32
  | .tstatLog _ _ _ => true
  | .waitc _ _ _ _ => true
  | .barinit _ a _ => a < 16
  | .bararr _ _ a => a < 16
  | .barexp _ d a _ => d < 32 && a < 16
  | .barwait _ _ a _ => a < 16
  | .bartry _ p a _ => p < 96 && a < 16
  | .trigat _ _ a _ => a < 16
  | .trigcnt _ _ a _ => a < 16
  | .trigcan _ _ _ => true
  | .qdepth _ _ => true
  | .qdepthX _ _ => true
  | .qstat _ _ n => (n < 4 || (8 ≤ n && n < 21) || (24 ≤ n && n < 32))
  | .qmode _ _ => true
  | .qmodei _ _ => true
  | .steal .. => true
  | .stealRetry .. => true
  | .columnDispatch .. => true
  | .taskAging .. => true
  | .preemptRequest .. => true
  | .forcedSave .. => true
  | .saveComplete .. => true
  | .tagTimeout .. => true
  | .transComplete .. => true
  | .replayDepart .. => true
  | .nestComplete .. => true
  | .mergeOpen .. => true
  | .mergeContribute .. => true
  | .mergeClose .. => true
  | .mergeResend .. => true
  | .charmRun .. => true
  | .charmTimeout .. => true
  | .shootdown .. => true
  | .shootdownComplete .. => true
  | .cowCopy .. => true
  | .cowCopyComplete .. => true
  | .snapReturn .. => true
  | .snapLogTailWrite .. => true
  | .snapLogBaseWrite .. => true
  | .snapPoolPagesWrite .. => true
  | .softErrorCorrected .. => true
  | .softErrorUncorrected .. => true
  | .hostMemAccess .. => true
  | .tceCommandStart .. => true
  | .sendChannelStart .. => true
  | .commandFinish .. => true
  | .batchTimeout .. => true
  | .reserveSlot .. => true
  | .endOfWalk .. => true
  | .zhoaskFetch .. => true
  | .cpCommandStart .. => true
  | .cpCommandComplete .. => true
  | .launch .. => true
  | .cpCopy .. => true
  | .signal .. => true
  | .wait .. => true
  | .waitPoll .. => true
  | .snap .. => true
  | .cpCodeswap .. => true
  | .codeswapCompletion .. => true
  | .tableWrite .. => true
  | .tableArm .. => true
  | .tableSwitch .. => true
  | .launchComplete .. => true
  | .slotStart .. => true
  | .flitReceive .. => true
  | .ack .. => true
  | .sync .. => true
  | .hold .. => true
  | .read .. => true
  | .write .. => true
  | .wblk .. => true
  | .rblk .. => true
  | .atom .. => true
  | .charm .. => true
  | .fifo .. => true
  | .resp .. => true
  | .done .. => true
  | .refuse .. => true
  | .flushRecord .. => true
  | .claspOpen .. => true
  | .claspClose .. => true
  | .claspCommitted .. => true
  | .claspAbort .. => true
  | .claspStatusQuery .. => true
  | .collStart .. => true
  | .collAbort .. => true
  | .collFinished .. => true
  | .collData .. => true
  | .retransmitTimeout .. => true
  | .ackTimer .. => true
  | .e2eTimeout .. => true
  | .retryResend .. => true
  | .holdTimer .. => true
  | .collTimeout .. => true
  | .lineWeak .. => true
  | .lineDrift .. => true
  | .lineLost .. => true
  | .combLost .. => true
  | .syncLost .. => true
  | .syncRestored .. => true
  | .retuneComplete .. => true
  | .portRequalify .. => true
  | .ofuEventRead .. => true
  | .ofuCredSelWrite .. => true
  | .ageCommandStart .. => true
  | .triggerFire .. => true
  | .barrierSubtract .. => true
  | .gtStep .. => true
  | .asyncFaultDelivery .. => true
  | .pfRequestWrite .. => true
  | .pfAnswer .. => true
  | .fltKill .. => true
  | .dbgAttach .. => true
  | .dbgHalt .. => true
  | .dbgStep .. => true
  | .dbgRelease .. => true
  | .dbgRegRead .. => true
  | .dbgRegWrite .. => true
  | .coldReset .. => true
  | .bootPeerWrite .. => true
  | .initComplete .. => true
  | .recoveryGo .. => true
  | .flashUpdateComplete .. => true
  | .sigCmd .. => true
  | .marginWarning .. => true
  | .arbiterInterval .. => true
  | .pwrEventRead .. => true
  | .packagePowerClamp .. => true
  | .packagePowerRelease .. => true
  | .thermalTrip .. => true
  | .registerWrite .. => true
  | .steCommandStart .. => true
  | .bangleCollStart .. => true
  | .hostLinkCompletion .. => true
  | .powerLoss .. => true

/-- A well-formed instruction: one whose operand values its encoding admits. -/
abbrev WellFormed (i : Instr) : Prop := i.wf = true

/-- Resource classes of R89; `pre` is a prefix slot (R84). -/
inductive SlotClass where
  | none | pre | control | memory | vector | matrix | engine | scalar
deriving DecidableEq, Repr

/-- The unit that executes a slot (R52). -/
inductive ExecUnit where
  | s | vl | va | vs | mx
deriving DecidableEq, Repr

/-- What counts as one register for R90. -/
inductive RegName where
  | x (n : Nat) | p (n : Nat) | v (n : Nat) | c (n : Nat) | h (n : Nat) | t (n : Nat) | f (n : Nat) | a (n : Nat)
  | csr (n : Nat) | seed | mask | lc
deriving DecidableEq, Repr

/-- What a slot does to memory, as far as order goes (R54, R242, R243): nothing; it reads scratchpad; it loads through a translation;
it reads, and is an acquire; it writes, or is a release. -/
inductive MemUse where
  | none | reads | loads | acquires | orders
deriving DecidableEq, Repr

/-- What the decode checks of R84, R89 and R90, and the interlocks of R54, read of a slot. `limm` is the native width and whether it
extends by sign; `writes` are the registers that it writes, `reads` those that it reads as operands; `bank` is the accumulator bank
named. -/
structure SlotInfo where
  cls : SlotClass
  exu : ExecUnit := .s
  limm : Option (Nat × Bool) := .none
  deps : Bool := false
  writes : List RegName := []
  reads : List RegName := []
  bank : Option Nat := .none
  mem : MemUse := .none
deriving DecidableEq, Repr

/-- The facts of each slot instruction; an event has none. -/
@[inline] def Instr.slotInfo : Instr → SlotInfo
  | .nop _ => { cls := .none }
  | .limm _ _ => { cls := .pre }
  | .pguard _ _ _ _ => { cls := .pre }
  | .deps _ _ _ _ _ => { cls := .pre }
  | .add _ d a b => { cls := .scalar, writes := [.x d.toNat], reads := [.x a.toNat, .x b.toNat] }
  | .addS32 _ d a b => { cls := .scalar, writes := [.x d.toNat], reads := [.x a.toNat, .x b.toNat] }
  | .addZ32 _ d a b => { cls := .scalar, writes := [.x d.toNat], reads := [.x a.toNat, .x b.toNat] }
  | .addSatS64 _ d a b => { cls := .scalar, writes := [.x d.toNat], reads := [.x a.toNat, .x b.toNat] }
  | .addSatZ64 _ d a b => { cls := .scalar, writes := [.x d.toNat], reads := [.x a.toNat, .x b.toNat] }
  | .addSatS32 _ d a b => { cls := .scalar, writes := [.x d.toNat], reads := [.x a.toNat, .x b.toNat] }
  | .addSatZ32 _ d a b => { cls := .scalar, writes := [.x d.toNat], reads := [.x a.toNat, .x b.toNat] }
  | .sub _ d a b => { cls := .scalar, writes := [.x d.toNat], reads := [.x a.toNat, .x b.toNat] }
  | .subS32 _ d a b => { cls := .scalar, writes := [.x d.toNat], reads := [.x a.toNat, .x b.toNat] }
  | .subZ32 _ d a b => { cls := .scalar, writes := [.x d.toNat], reads := [.x a.toNat, .x b.toNat] }
  | .subSatS64 _ d a b => { cls := .scalar, writes := [.x d.toNat], reads := [.x a.toNat, .x b.toNat] }
  | .subSatZ64 _ d a b => { cls := .scalar, writes := [.x d.toNat], reads := [.x a.toNat, .x b.toNat] }
  | .subSatS32 _ d a b => { cls := .scalar, writes := [.x d.toNat], reads := [.x a.toNat, .x b.toNat] }
  | .subSatZ32 _ d a b => { cls := .scalar, writes := [.x d.toNat], reads := [.x a.toNat, .x b.toNat] }
  | .addi _ d a _ => { cls := .scalar, limm := some (12, true), writes := [.x d.toNat], reads := [.x a.toNat] }
  | .mul _ d a b => { cls := .scalar, writes := [.x d.toNat], reads := [.x a.toNat, .x b.toNat] }
  | .mulhS64 _ d a b => { cls := .scalar, writes := [.x d.toNat], reads := [.x a.toNat, .x b.toNat] }
  | .mulhZ64 _ d a b => { cls := .scalar, writes := [.x d.toNat], reads := [.x a.toNat, .x b.toNat] }
  | .mulS32 _ d a b => { cls := .scalar, writes := [.x d.toNat], reads := [.x a.toNat, .x b.toNat] }
  | .mulZ32 _ d a b => { cls := .scalar, writes := [.x d.toNat], reads := [.x a.toNat, .x b.toNat] }
  | .mla _ d a b => { cls := .scalar, writes := [.x d.toNat], reads := [.x d.toNat, .x a.toNat, .x b.toNat] }
  | .divS64 _ d a b => { cls := .scalar, writes := [.x d.toNat], reads := [.x a.toNat, .x b.toNat] }
  | .divZ64 _ d a b => { cls := .scalar, writes := [.x d.toNat], reads := [.x a.toNat, .x b.toNat] }
  | .remS64 _ d a b => { cls := .scalar, writes := [.x d.toNat], reads := [.x a.toNat, .x b.toNat] }
  | .remZ64 _ d a b => { cls := .scalar, writes := [.x d.toNat], reads := [.x a.toNat, .x b.toNat] }
  | .divS32 _ d a b => { cls := .scalar, writes := [.x d.toNat], reads := [.x a.toNat, .x b.toNat] }
  | .divZ32 _ d a b => { cls := .scalar, writes := [.x d.toNat], reads := [.x a.toNat, .x b.toNat] }
  | .remS32 _ d a b => { cls := .scalar, writes := [.x d.toNat], reads := [.x a.toNat, .x b.toNat] }
  | .remZ32 _ d a b => { cls := .scalar, writes := [.x d.toNat], reads := [.x a.toNat, .x b.toNat] }
  | .and _ d a b => { cls := .scalar, writes := [.x d.toNat], reads := [.x a.toNat, .x b.toNat] }
  | .or _ d a b => { cls := .scalar, writes := [.x d.toNat], reads := [.x a.toNat, .x b.toNat] }
  | .xor _ d a b => { cls := .scalar, writes := [.x d.toNat], reads := [.x a.toNat, .x b.toNat] }
  | .andn _ d a b => { cls := .scalar, writes := [.x d.toNat], reads := [.x a.toNat, .x b.toNat] }
  | .orn _ d a b => { cls := .scalar, writes := [.x d.toNat], reads := [.x a.toNat, .x b.toNat] }
  | .xnor _ d a b => { cls := .scalar, writes := [.x d.toNat], reads := [.x a.toNat, .x b.toNat] }
  | .nand _ d a b => { cls := .scalar, writes := [.x d.toNat], reads := [.x a.toNat, .x b.toNat] }
  | .nor _ d a b => { cls := .scalar, writes := [.x d.toNat], reads := [.x a.toNat, .x b.toNat] }
  | .andi _ d a _ => { cls := .scalar, limm := some (6, true), writes := [.x d.toNat], reads := [.x a.toNat] }
  | .ori _ d a _ => { cls := .scalar, limm := some (6, true), writes := [.x d.toNat], reads := [.x a.toNat] }
  | .xori _ d a _ => { cls := .scalar, limm := some (6, true), writes := [.x d.toNat], reads := [.x a.toNat] }
  | .andni _ d a _ => { cls := .scalar, limm := some (6, true), writes := [.x d.toNat], reads := [.x a.toNat] }
  | .orni _ d a _ => { cls := .scalar, limm := some (6, true), writes := [.x d.toNat], reads := [.x a.toNat] }
  | .xnori _ d a _ => { cls := .scalar, limm := some (6, true), writes := [.x d.toNat], reads := [.x a.toNat] }
  | .nandi _ d a _ => { cls := .scalar, limm := some (6, true), writes := [.x d.toNat], reads := [.x a.toNat] }
  | .nori _ d a _ => { cls := .scalar, limm := some (6, true), writes := [.x d.toNat], reads := [.x a.toNat] }
  | .shl _ d a b _ => { cls := .scalar, writes := [.x d.toNat], reads := [.x a.toNat, .x b.toNat] }
  | .shr _ d a b _ => { cls := .scalar, writes := [.x d.toNat], reads := [.x a.toNat, .x b.toNat] }
  | .sar _ d a b _ => { cls := .scalar, writes := [.x d.toNat], reads := [.x a.toNat, .x b.toNat] }
  | .rol _ d a b _ => { cls := .scalar, writes := [.x d.toNat], reads := [.x a.toNat, .x b.toNat] }
  | .ror _ d a b _ => { cls := .scalar, writes := [.x d.toNat], reads := [.x a.toNat, .x b.toNat] }
  | .shli _ d a _ _ => { cls := .scalar, writes := [.x d.toNat], reads := [.x a.toNat] }
  | .shri _ d a _ _ => { cls := .scalar, writes := [.x d.toNat], reads := [.x a.toNat] }
  | .sari _ d a _ _ => { cls := .scalar, writes := [.x d.toNat], reads := [.x a.toNat] }
  | .roli _ d a _ _ => { cls := .scalar, writes := [.x d.toNat], reads := [.x a.toNat] }
  | .rori _ d a _ _ => { cls := .scalar, writes := [.x d.toNat], reads := [.x a.toNat] }
  | .clz _ d a => { cls := .scalar, writes := [.x d.toNat], reads := [.x a.toNat] }
  | .ctz _ d a => { cls := .scalar, writes := [.x d.toNat], reads := [.x a.toNat] }
  | .popc _ d a => { cls := .scalar, writes := [.x d.toNat], reads := [.x a.toNat] }
  | .brev _ d a => { cls := .scalar, writes := [.x d.toNat], reads := [.x a.toNat] }
  | .bswap _ d a => { cls := .scalar, writes := [.x d.toNat], reads := [.x a.toNat] }
  | .minS64 _ d a b => { cls := .scalar, writes := [.x d.toNat], reads := [.x a.toNat, .x b.toNat] }
  | .maxS64 _ d a b => { cls := .scalar, writes := [.x d.toNat], reads := [.x a.toNat, .x b.toNat] }
  | .minZ64 _ d a b => { cls := .scalar, writes := [.x d.toNat], reads := [.x a.toNat, .x b.toNat] }
  | .maxZ64 _ d a b => { cls := .scalar, writes := [.x d.toNat], reads := [.x a.toNat, .x b.toNat] }
  | .bfx _ d a _ _ => { cls := .scalar, writes := [.x d.toNat], reads := [.x a.toNat] }
  | .bfi _ d a _ _ => { cls := .scalar, writes := [.x d.toNat], reads := [.x d.toNat, .x a.toNat] }
  | .extZ _ d a _ => { cls := .scalar, writes := [.x d.toNat], reads := [.x a.toNat] }
  | .extS _ d a _ => { cls := .scalar, writes := [.x d.toNat], reads := [.x a.toNat] }
  | .cmp _ p a b _ => { cls := .scalar, writes := [.p p.toNat], reads := [.x a.toNat, .x b.toNat] }
  | .cmpi _ p a _ c => { cls := .scalar, limm := some (6, c != 4 && c != 5), writes := [.p p.toNat], reads := [.x a.toNat] }
  | .pand _ d a b => { cls := .scalar, writes := [.p d.toNat], reads := [.p a.toNat, .p b.toNat] }
  | .por _ d a b => { cls := .scalar, writes := [.p d.toNat], reads := [.p a.toNat, .p b.toNat] }
  | .pxor _ d a b => { cls := .scalar, writes := [.p d.toNat], reads := [.p a.toNat, .p b.toNat] }
  | .pandn _ d a b => { cls := .scalar, writes := [.p d.toNat], reads := [.p a.toNat, .p b.toNat] }
  | .porn _ d a b => { cls := .scalar, writes := [.p d.toNat], reads := [.p a.toNat, .p b.toNat] }
  | .pmov _ d a => { cls := .scalar, writes := [.p d.toNat], reads := [.p a.toNat] }
  | .pnot _ d a => { cls := .scalar, writes := [.p d.toNat], reads := [.p a.toNat] }
  | .pxnor _ d a b => { cls := .scalar, writes := [.p d.toNat], reads := [.p a.toNat, .p b.toNat] }
  | .sel _ d a p => { cls := .scalar, writes := [.x d.toNat], reads := [.x d.toNat, .x a.toNat, .p p.toNat] }
  | .selz _ d a p => { cls := .scalar, writes := [.x d.toNat], reads := [.x a.toNat, .p p.toNat] }
  | .seln _ d a p => { cls := .scalar, writes := [.x d.toNat], reads := [.x d.toNat, .x a.toNat, .p p.toNat] }
  | .fadd _ d a b _ _ => { cls := .scalar, writes := [.x d.toNat], reads := [.x a.toNat, .x b.toNat] }
  | .fsub _ d a b _ _ => { cls := .scalar, writes := [.x d.toNat], reads := [.x a.toNat, .x b.toNat] }
  | .fmul _ d a b _ _ => { cls := .scalar, writes := [.x d.toNat], reads := [.x a.toNat, .x b.toNat] }
  | .fmin _ d a b _ => { cls := .scalar, writes := [.x d.toNat], reads := [.x a.toNat, .x b.toNat] }
  | .fmax _ d a b _ => { cls := .scalar, writes := [.x d.toNat], reads := [.x a.toNat, .x b.toNat] }
  | .ffma _ d a b _ _ => { cls := .scalar, writes := [.x d.toNat], reads := [.x d.toNat, .x a.toNat, .x b.toNat] }
  | .ffms _ d a b _ _ => { cls := .scalar, writes := [.x d.toNat], reads := [.x d.toNat, .x a.toNat, .x b.toNat] }
  | .ffnma _ d a b _ _ => { cls := .scalar, writes := [.x d.toNat], reads := [.x d.toNat, .x a.toNat, .x b.toNat] }
  | .ffnms _ d a b _ _ => { cls := .scalar, writes := [.x d.toNat], reads := [.x d.toNat, .x a.toNat, .x b.toNat] }
  | .fdiv _ d a b _ _ => { cls := .scalar, writes := [.x d.toNat], reads := [.x a.toNat, .x b.toNat] }
  | .fsqrt _ d a _ _ => { cls := .scalar, writes := [.x d.toNat], reads := [.x a.toNat] }
  | .fcmp _ p a b _ _ => { cls := .scalar, writes := [.p p.toNat], reads := [.x a.toNat, .x b.toNat] }
  | .fcvt _ d a _ _ _ _ _ => { cls := .scalar, writes := [.x d.toNat], reads := [.x a.toNat] }
  | .fclass _ d a _ => { cls := .scalar, writes := [.x d.toNat], reads := [.x a.toNat] }
  | .br _ _ => { cls := .control }
  | .bri _ d a _ => { cls := .control, limm := some (12, true), writes := [.x d.toNat], reads := [.x a.toNat] }
  | .call _ _ => { cls := .control, writes := [.x 63] }
  | .ret _ a => { cls := .control, reads := [.x a.toNat] }
  | .loopPush _ a => { cls := .control, writes := [.lc], reads := [.x a.toNat] }
  | .loopPop _ => { cls := .control, writes := [.lc], reads := [.lc] }
  | .loop _ _ => { cls := .control, writes := [.lc], reads := [.lc] }
  | .loops _ f p _ => { cls := .control, writes := [.p p.toNat, .f f.toNat], reads := [.f f.toNat] }
  | .brzm _ _ => { cls := .control, reads := [.mask] }
  | .brnzm _ _ => { cls := .control, reads := [.mask] }
  | .trap _ _ => { cls := .control }
  | .svc _ _ => { cls := .control }
  | .brk _ _ => { cls := .control }
  | .cnarrowOff _ d a b => { cls := .scalar, writes := [.c d.toNat], reads := [.c a.toNat, .x b.toNat] }
  | .cnarrowLen _ d a b => { cls := .scalar, writes := [.c d.toNat], reads := [.c a.toNat, .x b.toNat] }
  | .cnarrowBase _ d a b => { cls := .scalar, writes := [.c d.toNat], reads := [.c a.toNat, .x b.toNat] }
  | .cnarrowiOff _ d a _ => { cls := .scalar, limm := some (6, false), writes := [.c d.toNat], reads := [.c a.toNat] }
  | .cnarrowiLen _ d a _ => { cls := .scalar, limm := some (6, false), writes := [.c d.toNat], reads := [.c a.toNat] }
  | .cnarrowiBase _ d a _ => { cls := .scalar, limm := some (6, false), writes := [.c d.toNat], reads := [.c a.toNat] }
  | .cperm _ d a _ => { cls := .scalar, writes := [.c d.toNat], reads := [.c a.toNat] }
  | .cgetBase _ d a => { cls := .scalar, writes := [.x d.toNat], reads := [.c a.toNat] }
  | .cgetLen _ d a => { cls := .scalar, writes := [.x d.toNat], reads := [.c a.toNat] }
  | .cgetPerm _ d a => { cls := .scalar, writes := [.x d.toNat], reads := [.c a.toNat] }
  | .cgetShape _ d a => { cls := .scalar, writes := [.x d.toNat], reads := [.c a.toNat] }
  | .cgetTag _ d a => { cls := .scalar, writes := [.x d.toNat], reads := [.c a.toNat] }
  | .cgetHi _ d a => { cls := .scalar, writes := [.x d.toNat], reads := [.c a.toNat] }
  | .cgetLo _ d a => { cls := .scalar, writes := [.x d.toNat], reads := [.c a.toNat] }
  | .cshape _ d a b => { cls := .scalar, writes := [.c d.toNat], reads := [.c a.toNat, .x b.toNat], mem := .reads }
  | .cmint _ d a b => { cls := .scalar, writes := [.c d.toNat], reads := [.x a.toNat, .x b.toNat] }
  | .trans _ d a => { cls := .scalar, writes := [.h d.toNat], reads := [.x a.toNat] }
  | .hgetState _ d a => { cls := .scalar, writes := [.x d.toNat], reads := [.h a.toNat] }
  | .hgetPage _ d a => { cls := .scalar, writes := [.x d.toNat], reads := [.h a.toNat] }
  | .hgetSize _ d a => { cls := .scalar, writes := [.x d.toNat], reads := [.h a.toNat] }
  | .hdrop _ d => { cls := .scalar, writes := [.h d.toNat] }
  | .wtake _ d p => { cls := .control, writes := [.x d.toNat, .p p.toNat, .csr 1, .csr 2, .csr 3, .csr 4] }
  | .join _ a _ => { cls := .scalar, limm := some (12, false), reads := [.x a.toNat] }
  | .leave _ a _ => { cls := .scalar, limm := some (12, false), reads := [.x a.toNat] }
  | .stepend _ => { cls := .control, writes := [.csr 1] }
  | .switch _ => { cls := .control, mem := .orders }
  | .yield _ => { cls := .control, mem := .orders }
  | .csrr _ d c => { cls := .scalar, writes := if c = 0x17E then [.x d.toNat, .csr 0x17F] else [.x d.toNat], reads := [.csr c.toNat] }
  | .csrw _ a c => { cls := .scalar, writes := [.csr c.toNat], reads := [.x a.toNat], mem := if 0x108 ≤ c ∧ c < 0x110 then .orders else .none }
  | .codeswap _ a b => { cls := .scalar, reads := [.x a.toNat, .x b.toNat] }
  | .trapret _ => { cls := .control, writes := [.csr 16, .csr 17, .csr 40] }
  | .vadd _ d a b c _ _ => { cls := .vector, exu := .va, writes := [.v d.toNat], reads := [.v a.toNat, if c then .x b.toNat else .v b.toNat] }
  | .vsub _ d a b c _ _ => { cls := .vector, exu := .va, writes := [.v d.toNat], reads := [.v a.toNat, if c then .x b.toNat else .v b.toNat] }
  | .vmul _ d a b c _ _ => { cls := .vector, exu := .va, writes := [.v d.toNat], reads := [.v a.toNat, if c then .x b.toNat else .v b.toNat] }
  | .vfma _ d a b c _ _ => { cls := .vector, exu := .va, writes := [.v d.toNat], reads := [.v d.toNat, .v a.toNat, if c then .x b.toNat else .v b.toNat] }
  | .vfms _ d a b c _ _ => { cls := .vector, exu := .va, writes := [.v d.toNat], reads := [.v d.toNat, .v a.toNat, if c then .x b.toNat else .v b.toNat] }
  | .vmin _ d a b c _ => { cls := .vector, exu := .va, writes := [.v d.toNat], reads := [.v a.toNat, if c then .x b.toNat else .v b.toNat] }
  | .vmax _ d a b c _ => { cls := .vector, exu := .va, writes := [.v d.toNat], reads := [.v a.toNat, if c then .x b.toNat else .v b.toNat] }
  | .vdiv _ d a b c _ => { cls := .vector, exu := .va, writes := [.v d.toNat], reads := [.v a.toNat, if c then .x b.toNat else .v b.toNat] }
  | .vsqrt _ d a _ => { cls := .vector, exu := .va, writes := [.v d.toNat], reads := [.v a.toNat] }
  | .vrcpe _ d a => { cls := .vector, exu := .va, writes := [.v d.toNat], reads := [.v a.toNat] }
  | .vrsqrte _ d a => { cls := .vector, exu := .va, writes := [.v d.toNat], reads := [.v a.toNat] }
  | .vexp2e _ d a => { cls := .vector, exu := .va, writes := [.v d.toNat], reads := [.v a.toNat] }
  | .vlog2e _ d a => { cls := .vector, exu := .va, writes := [.v d.toNat], reads := [.v a.toNat] }
  | .vand _ d a b c => { cls := .vector, exu := .va, writes := [.v d.toNat], reads := [.v a.toNat, if c then .x b.toNat else .v b.toNat] }
  | .vor _ d a b c => { cls := .vector, exu := .va, writes := [.v d.toNat], reads := [.v a.toNat, if c then .x b.toNat else .v b.toNat] }
  | .vxor _ d a b c => { cls := .vector, exu := .va, writes := [.v d.toNat], reads := [.v a.toNat, if c then .x b.toNat else .v b.toNat] }
  | .vandn _ d a b c => { cls := .vector, exu := .va, writes := [.v d.toNat], reads := [.v a.toNat, if c then .x b.toNat else .v b.toNat] }
  | .vorn _ d a b c => { cls := .vector, exu := .va, writes := [.v d.toNat], reads := [.v a.toNat, if c then .x b.toNat else .v b.toNat] }
  | .vxnor _ d a b c => { cls := .vector, exu := .va, writes := [.v d.toNat], reads := [.v a.toNat, if c then .x b.toNat else .v b.toNat] }
  | .vnand _ d a b c => { cls := .vector, exu := .va, writes := [.v d.toNat], reads := [.v a.toNat, if c then .x b.toNat else .v b.toNat] }
  | .vnor _ d a b c => { cls := .vector, exu := .va, writes := [.v d.toNat], reads := [.v a.toNat, if c then .x b.toNat else .v b.toNat] }
  | .vshl _ d a b c _ => { cls := .vector, exu := .va, writes := [.v d.toNat], reads := [.v a.toNat, if c then .x b.toNat else .v b.toNat] }
  | .vshr _ d a b c _ => { cls := .vector, exu := .va, writes := [.v d.toNat], reads := [.v a.toNat, if c then .x b.toNat else .v b.toNat] }
  | .vsar _ d a b c _ => { cls := .vector, exu := .va, writes := [.v d.toNat], reads := [.v a.toNat, if c then .x b.toNat else .v b.toNat] }
  | .vrol _ d a b c _ => { cls := .vector, exu := .va, writes := [.v d.toNat], reads := [.v a.toNat, if c then .x b.toNat else .v b.toNat] }
  | .vror _ d a b c _ => { cls := .vector, exu := .va, writes := [.v d.toNat], reads := [.v a.toNat, if c then .x b.toNat else .v b.toNat] }
  | .vcvt _ d a _ _ r _ => { cls := .vector, exu := .va, writes := if r then [.v d.toNat, .seed] else [.v d.toNat], reads := if r then [.v a.toNat, .seed] else [.v a.toNat] }
  | .vcmp _ _ _ a b x _ => { cls := .vector, exu := .va, writes := [.mask], reads := [.v a.toNat, if x then .x b.toNat else .v b.toNat] }
  | .mpush _ a => { cls := .vector, exu := .va, writes := [.mask], reads := [.v a.toNat] }
  | .mpushRaw _ a => { cls := .vector, exu := .va, writes := [.mask], reads := [.v a.toNat] }
  | .mpushX _ a => { cls := .vector, exu := .va, writes := [.mask], reads := [.x a.toNat] }
  | .mpushXRaw _ a => { cls := .vector, exu := .va, writes := [.mask], reads := [.x a.toNat] }
  | .minv _ => { cls := .vector, exu := .va, writes := [.mask] }
  | .mpop _ _ => { cls := .vector, exu := .va, writes := [.mask] }
  | .mdup _ => { cls := .vector, exu := .va, writes := [.mask] }
  | .mall _ => { cls := .vector, exu := .va, writes := [.mask] }
  | .vbcast _ d a _ => { cls := .vector, exu := .va, writes := [.v d.toNat], reads := [.x a.toNat] }
  | .vext _ d a b _ i _ => { cls := .vector, exu := .va, writes := [.x d.toNat], reads := [.v a.toNat] ++ (if i then [] else [.x b.toNat]) }
  | .vins _ d a b i _ => { cls := .vector, exu := .va, writes := [.v d.toNat], reads := [.v d.toNat, .x a.toNat] ++ (if i then [] else [.x b.toNat]) }
  | .vperm _ d a b => { cls := .vector, exu := .va, writes := [.v d.toNat], reads := [.v a.toNat, .v b.toNat] }
  | .vperm2 _ d a b => { cls := .vector, exu := .va, writes := [.v d.toNat], reads := [.v d.toNat, .v a.toNat, .v b.toNat] }
  | .vpermB _ d a b => { cls := .vector, exu := .va, writes := [.v d.toNat], reads := [.v a.toNat, .v b.toNat] }
  | .vxswz _ d a b => { cls := .vector, exu := .va, writes := [.v d.toNat], reads := [.v a.toNat, .x b.toNat] }
  | .vxswzi _ d a _ => { cls := .vector, exu := .va, writes := [.v d.toNat], reads := [.v a.toNat] }
  | .vredAdd _ d a _ => { cls := .vector, exu := .va, writes := [.v d.toNat], reads := [.v a.toNat] }
  | .vredMin _ d a _ => { cls := .vector, exu := .va, writes := [.v d.toNat], reads := [.v a.toNat] }
  | .vredMax _ d a _ => { cls := .vector, exu := .va, writes := [.v d.toNat], reads := [.v a.toNat] }
  | .vdot _ d a b c _ _ => { cls := .vector, exu := .va, writes := [.v d.toNat], reads := [.v d.toNat, .v a.toNat, if c then .x b.toNat else .v b.toNat] }
  | .viota _ d a b _ => { cls := .vector, exu := .va, writes := [.v d.toNat], reads := [.x a.toNat, .x b.toNat] }
  | .viotaM _ d => { cls := .vector, exu := .va, writes := [.v d.toNat] }
  | .vabs _ d a _ _ => { cls := .vector, exu := .va, writes := [.v d.toNat], reads := [.v a.toNat] }
  | .vneg _ d a _ _ => { cls := .vector, exu := .va, writes := [.v d.toNat], reads := [.v a.toNat] }
  | .vseed _ a => { cls := .vector, exu := .va, writes := [.seed], reads := [.v a.toNat] }
  | .vseedX _ a => { cls := .vector, exu := .va, writes := [.seed], reads := [.x a.toNat] }
  | .vseedrd _ d => { cls := .vector, exu := .va, writes := [.v d.toNat], reads := [.seed] }
  | .vmov _ d a => { cls := .vector, exu := .va, writes := [.v d.toNat], reads := [.v a.toNat] }
  | .vmovZ _ d a => { cls := .vector, exu := .va, writes := [.v d.toNat], reads := [.v a.toNat] }
  | .vmovM _ d => { cls := .vector, exu := .va, writes := [.v d.toNat] }
  | .lds _ d a b i c _ _ => { cls := .memory, limm := if i then some (6, false) else none, writes := [if c then .c d.toNat else .x d.toNat], reads := [.x a.toNat] ++ (if i then [] else [.x b.toNat]), mem := .reads }
  | .sts _ d a b i c _ => { cls := .memory, limm := if i then some (6, false) else none, reads := [.x a.toNat, if c then .c d.toNat else .x d.toNat] ++ (if i then [] else [.x b.toNat]), mem := .orders }
  | .ldf _ d a b i _ _ => { cls := .memory, limm := if i then some (6, false) else none, writes := [.x d.toNat], reads := [.x a.toNat] ++ (if i then [] else [.x b.toNat]), mem := .acquires }
  | .ldfe _ d a b i _ _ => { cls := .memory, limm := if i then some (6, false) else none, writes := [.x d.toNat], reads := [.x a.toNat] ++ (if i then [] else [.x b.toNat]), mem := .orders }
  | .ste _ d a b i _ => { cls := .memory, limm := if i then some (6, false) else none, reads := [.x a.toNat, .x d.toNat] ++ (if i then [] else [.x b.toNat]), mem := .orders }
  | .stf _ d a b i _ => { cls := .memory, limm := if i then some (6, false) else none, reads := [.x a.toNat, .x d.toNat] ++ (if i then [] else [.x b.toNat]), mem := .orders }
  | .tagclr _ a b i _ => { cls := .memory, limm := if i then some (6, false) else none, reads := [.x a.toNat] ++ (if i then [] else [.x b.toNat]), mem := .orders }
  | .vld _ d a => { cls := .memory, exu := .vl, writes := [.v d.toNat], reads := [.x a.toNat], mem := .reads }
  | .vldBank _ d a => { cls := .memory, exu := .vl, writes := [.v d.toNat], reads := [.x a.toNat], mem := .reads }
  | .vldStr _ d a b => { cls := .memory, exu := .vl, writes := [.v d.toNat], reads := [.x a.toNat, .x b.toNat], mem := .reads }
  | .vldG _ d c b z => { cls := .memory, exu := .vl, writes := if z then [.v d.toNat, .csr 0x101] else [.v d.toNat], reads := [.c c.toNat, .x b.toNat], mem := .loads }
  | .vst _ d a => { cls := .memory, exu := .vs, reads := [.v d.toNat, .x a.toNat], mem := .orders }
  | .vstBank _ d a => { cls := .memory, exu := .vs, reads := [.v d.toNat, .x a.toNat], mem := .orders }
  | .vstStr _ d a b => { cls := .memory, exu := .vs, reads := [.v d.toNat, .x a.toNat, .x b.toNat], mem := .orders }
  | .vstG _ d c b _ => { cls := .memory, exu := .vs, reads := [.v d.toNat, .c c.toNat, .x b.toNat], mem := .orders }
  | .vldg _ d a b => { cls := .memory, exu := .vl, writes := [.v d.toNat], reads := [.x a.toNat, .v b.toNat], mem := .reads }
  | .vldgG _ d c b z => { cls := .memory, exu := .vl, writes := if z then [.v d.toNat, .csr 0x101] else [.v d.toNat], reads := [.c c.toNat, .v b.toNat], mem := .loads }
  | .vstg _ d a b => { cls := .memory, exu := .vs, reads := [.v d.toNat, .x a.toNat, .v b.toNat], mem := .orders }
  | .vstgG _ d c b _ => { cls := .memory, exu := .vs, reads := [.v d.toNat, .c c.toNat, .v b.toNat], mem := .orders }
  | .vldt _ d a b _ => { cls := .memory, exu := .vl, writes := [.v d.toNat], reads := [.x a.toNat, .x b.toNat], mem := .reads }
  | .ldg _ d h b i zp _ _ => { cls := .memory, limm := if i then some (6, false) else none, writes := if zp then [.x d.toNat, .csr 0x101] else [.x d.toNat], reads := [.h h.toNat] ++ (if i then [] else [.x b.toNat]), mem := .loads }
  | .stg _ d h b i _ _ => { cls := .memory, limm := if i then some (6, false) else none, reads := [.h h.toNat, .x d.toNat] ++ (if i then [] else [.x b.toNat]), mem := .orders }
  | .lda _ d h b _ _ => { cls := .memory, writes := [.x d.toNat], reads := [.h h.toNat, .x b.toNat], mem := .acquires }
  | .sta _ d h b _ _ => { cls := .memory, reads := [.h h.toNat, .x b.toNat, .x d.toNat], mem := .orders }
  | .atomSwap _ d _ c b _ _ => { cls := .memory, writes := [.x d.toNat], reads := [.x d.toNat, .c c.toNat, .x b.toNat], mem := .orders }
  | .atomCas _ d _ c b _ _ => { cls := .memory, writes := [.x d.toNat], reads := [.x d.toNat, .x (d.toNat + 1), .c c.toNat, .x b.toNat], mem := .orders }
  | .atomAdd _ d _ c b _ _ => { cls := .memory, writes := [.x d.toNat], reads := [.x d.toNat, .c c.toNat, .x b.toNat], mem := .orders }
  | .atomAnd _ d _ c b _ _ => { cls := .memory, writes := [.x d.toNat], reads := [.x d.toNat, .c c.toNat, .x b.toNat], mem := .orders }
  | .atomOr _ d _ c b _ _ => { cls := .memory, writes := [.x d.toNat], reads := [.x d.toNat, .c c.toNat, .x b.toNat], mem := .orders }
  | .atomXor _ d _ c b _ _ => { cls := .memory, writes := [.x d.toNat], reads := [.x d.toNat, .c c.toNat, .x b.toNat], mem := .orders }
  | .atomMinS _ d _ c b _ _ => { cls := .memory, writes := [.x d.toNat], reads := [.x d.toNat, .c c.toNat, .x b.toNat], mem := .orders }
  | .atomMaxS _ d _ c b _ _ => { cls := .memory, writes := [.x d.toNat], reads := [.x d.toNat, .c c.toNat, .x b.toNat], mem := .orders }
  | .atomMinZ _ d _ c b _ _ => { cls := .memory, writes := [.x d.toNat], reads := [.x d.toNat, .c c.toNat, .x b.toNat], mem := .orders }
  | .atomMaxZ _ d _ c b _ _ => { cls := .memory, writes := [.x d.toNat], reads := [.x d.toNat, .c c.toNat, .x b.toNat], mem := .orders }
  | .atomFadd _ d _ c b _ _ => { cls := .memory, writes := [.x d.toNat], reads := [.x d.toNat, .c c.toNat, .x b.toNat], mem := .orders }
  | .atomFmin _ d _ c b _ _ => { cls := .memory, writes := [.x d.toNat], reads := [.x d.toNat, .c c.toNat, .x b.toNat], mem := .orders }
  | .atomFmax _ d _ c b _ _ => { cls := .memory, writes := [.x d.toNat], reads := [.x d.toNat, .c c.toNat, .x b.toNat], mem := .orders }
  | .atomx _ d _ c b _ => { cls := .memory, writes := [.x d.toNat], reads := [.x d.toNat, .x (d.toNat + 1), .c c.toNat, .x b.toNat], mem := .orders }
  | .fence _ _ _ _ _ _ _ _ => { cls := .memory, mem := .orders }
  | .prefetch _ d c b _ => { cls := .memory, reads := [.x d.toNat, .c c.toNat, .x b.toNat], mem := .loads }
  | .flush _ d c b _ => { cls := .memory, reads := [.x d.toNat, .c c.toNat, .x b.toNat], mem := .orders }
  | .discard _ d c b => { cls := .memory, reads := [.x d.toNat, .c c.toNat, .x b.toNat], mem := .orders }
  | .sbopFill _ d c b r _ => { cls := .memory, writes := if r then [.x d.toNat] else [], reads := [.x d.toNat, .c c.toNat, .x b.toNat], mem := .orders }
  | .sbopAdd _ d c b r _ => { cls := .memory, writes := if r then [.x d.toNat] else [], reads := [.x d.toNat, .c c.toNat, .x b.toNat], mem := .orders }
  | .sbopFadd _ d c b r _ => { cls := .memory, writes := if r then [.x d.toNat] else [], reads := [.x d.toNat, .c c.toNat, .x b.toNat], mem := .orders }
  | .sbopMax _ d c b r _ => { cls := .memory, writes := if r then [.x d.toNat] else [], reads := [.x d.toNat, .c c.toNat, .x b.toNat], mem := .orders }
  | .mma _ d a b _ _ _ _ => { cls := .matrix, exu := .mx, writes := [.a d.toNat], reads := [.a d.toNat, .x a.toNat, .x b.toNat], bank := some d.toNat, mem := .reads }
  | .nset _ a _ => { cls := .matrix, exu := .mx, reads := [.x a.toNat] }
  | .nsetA _ a _ => { cls := .matrix, exu := .mx, reads := [.x a.toNat] }
  | .nget _ d _ => { cls := .matrix, exu := .mx, writes := [.x d.toNat] }
  | .ngetA _ d _ => { cls := .matrix, exu := .mx, writes := [.x d.toNat] }
  | .ngo _ d => { cls := .matrix, exu := .mx, deps := true, writes := [.t d.toNat] }
  | .ngoM _ d a b => { cls := .matrix, exu := .mx, deps := true, writes := [.t d.toNat], reads := [.c a.toNat, .x b.toNat] }
  | .accrd _ d a b => { cls := .matrix, exu := .va, writes := [.v d.toNat], reads := [.a a.toNat, .x b.toNat], bank := some a.toNat }
  | .accwr _ d a b => { cls := .matrix, exu := .va, writes := [.a d.toNat], reads := [.v a.toNat, .x b.toNat], bank := some d.toNat }
  | .accz _ d => { cls := .matrix, exu := .va, writes := [.a d.toNat], bank := some d.toNat }
  | .obcast _ d a b _ => { cls := .matrix, exu := .mx, deps := true, writes := [.t d.toNat], reads := [.x a.toNat, .x b.toNat] }
  | .mopen _ d a b _ => { cls := .matrix, exu := .mx, limm := some (5, false), deps := true, writes := [.t d.toNat], reads := [.c a.toNat, .x b.toNat] }
  | .accmerge _ d a b _ _ k => { cls := .matrix, exu := .mx, limm := some (2, false), deps := true, writes := [.t d.toNat], reads := [.c a.toNat, .x b.toNat], bank := some k.toNat }
  | .copy _ d a b _ _ => { cls := .engine, deps := true, writes := [.t d.toNat], reads := [if a < 16 then .c a.toNat else .x a.toNat, if b < 16 then .c b.toNat else .x b.toNat], mem := .reads }
  | .send _ d a b _ _ => { cls := .engine, deps := true, writes := [.t d.toNat], reads := [.c a.toNat, .x b.toNat] }
  | .fbind _ d a => { cls := .engine, writes := [.f d.toNat], reads := [.f d.toNat, .x a.toNat] }
  | .funbind _ d => { cls := .engine, writes := [.f d.toNat], reads := [.f d.toNat] }
  | .fpush _ d a => { cls := .engine, writes := [.f d.toNat], reads := [.f d.toNat, .x a.toNat] }
  | .fpushEos _ d a => { cls := .engine, writes := [.f d.toNat], reads := [.f d.toNat, .x a.toNat] }
  | .fpop _ d a => { cls := .engine, writes := [.x d.toNat, .f a.toNat], reads := [.f a.toNat] }
  | .coll _ d a b => { cls := .engine, deps := true, writes := [.t d.toNat, .t (d.toNat + 1), .t (d.toNat + 2)], reads := [.c a.toNat, .c (a.toNat + 1), .x b.toNat], mem := .reads }
  | .clopen _ d a _ => { cls := .engine, deps := true, writes := [.t d.toNat, .csr 6], reads := [.x a.toNat] }
  | .clclose _ d _ => { cls := .engine, deps := true, writes := [.t d.toNat, .csr 6] }
  | .trsel _ d a b => { cls := .engine, deps := true, writes := [.t d.toNat], reads := [.c a.toNat, .x b.toNat] }
  | .trexp _ d a b => { cls := .engine, deps := true, writes := [.t d.toNat], reads := [.c a.toNat, .x b.toNat, .x (b.toNat + 1)] }
  | .trback _ d a b => { cls := .engine, deps := true, writes := [.t d.toNat], reads := [.c a.toNat, .x b.toNat, .x (b.toNat + 1)] }
  | .trbackVo _ d a b => { cls := .engine, deps := true, writes := [.t d.toNat], reads := [.c a.toNat, .x b.toNat, .x (b.toNat + 1)] }
  | .trroot _ d a b => { cls := .engine, deps := true, writes := [.t d.toNat], reads := [.c a.toNat, .x b.toNat] }
  | .trpoolInit _ d a b => { cls := .engine, deps := true, writes := [.t d.toNat], reads := [.c a.toNat, .x b.toNat] }
  | .trpoolParam _ d a b => { cls := .engine, deps := true, writes := [.t d.toNat], reads := [.c a.toNat, .x b.toNat] }
  | .qbgate _ d a b _ _ => { cls := .engine, deps := true, writes := [.t d.toNat], reads := [.x a.toNat, .x b.toNat] }
  | .qbdiag _ d a b _ _ => { cls := .engine, deps := true, writes := [.t d.toNat], reads := [.x a.toNat, .x b.toNat] }
  | .qbmap _ d a b => { cls := .engine, deps := true, writes := [.t d.toNat], reads := [.c a.toNat, .x b.toNat] }
  | .qbmapSet _ d b => { cls := .engine, deps := true, writes := [.t d.toNat], reads := [.x b.toNat] }
  | .qbmapGet _ d b => { cls := .engine, deps := true, writes := [.t d.toNat], reads := [.x b.toNat] }
  | .qbmapEnd _ d => { cls := .engine, deps := true, writes := [.t d.toNat] }
  | .qbswap _ d a => { cls := .engine, deps := true, writes := [.t d.toNat], reads := [.x a.toNat] }
  | .qbnorm _ d b => { cls := .engine, deps := true, writes := [.t d.toNat], reads := [.x b.toNat] }
  | .qbprob _ d a b => { cls := .engine, deps := true, writes := [.t d.toNat], reads := [.x a.toNat, .x b.toNat] }
  | .qbcoll _ d a b => { cls := .engine, deps := true, writes := [.t d.toNat], reads := [.x a.toNat, .x b.toNat] }
  | .twait _ a => { cls := .engine, reads := [.t a.toNat], mem := .acquires }
  | .twaitCh _ _ => { cls := .engine, mem := .acquires }
  | .tstat _ d a => { cls := .engine, writes := [.x d.toNat], reads := [.t a.toNat], mem := .acquires }
  | .tstatLog _ d _ => { cls := .engine, writes := [.x d.toNat] }
  | .waitc _ a _ _ => { cls := .engine, limm := some (6, false), reads := [.x a.toNat] }
  | .barinit _ a b => { cls := .engine, reads := [.c a.toNat, .x b.toNat], mem := .orders }
  | .bararr _ d a => { cls := .engine, writes := [.x d.toNat], reads := [.c a.toNat], mem := .orders }
  | .barexp _ d a b => { cls := .engine, reads := [.t d.toNat, .c a.toNat, .x b.toNat], mem := .orders }
  | .barwait _ d a b => { cls := .engine, writes := [.x d.toNat], reads := [.c a.toNat, .x b.toNat], mem := .acquires }
  | .bartry _ p a b => { cls := .engine, writes := [.p p.toNat], reads := [.c a.toNat, .x b.toNat], mem := .acquires }
  | .trigat _ d a b => { cls := .engine, writes := [.x d.toNat], reads := [.c a.toNat, .x b.toNat], mem := .reads }
  | .trigcnt _ d a b => { cls := .engine, writes := [.x d.toNat], reads := [.c a.toNat, .x b.toNat], mem := .reads }
  | .trigcan _ d a => { cls := .engine, writes := [.x d.toNat], reads := [.x a.toNat] }
  | .qdepth _ _ => { cls := .engine, writes := [.csr 1] }
  | .qdepthX _ a => { cls := .engine, writes := [.csr 1], reads := [.x a.toNat] }
  | .qstat _ d _ => { cls := .engine, writes := [.x d.toNat] }
  | .qmode _ a => { cls := .engine, writes := [.csr 6], reads := [.x a.toNat] }
  | .qmodei _ _ => { cls := .engine, writes := [.csr 6] }
  | .steal .. => { cls := .none }
  | .stealRetry .. => { cls := .none }
  | .columnDispatch .. => { cls := .none }
  | .taskAging .. => { cls := .none }
  | .preemptRequest .. => { cls := .none }
  | .forcedSave .. => { cls := .none }
  | .saveComplete .. => { cls := .none }
  | .tagTimeout .. => { cls := .none }
  | .transComplete .. => { cls := .none }
  | .replayDepart .. => { cls := .none }
  | .nestComplete .. => { cls := .none }
  | .mergeOpen .. => { cls := .none }
  | .mergeContribute .. => { cls := .none }
  | .mergeClose .. => { cls := .none }
  | .mergeResend .. => { cls := .none }
  | .charmRun .. => { cls := .none }
  | .charmTimeout .. => { cls := .none }
  | .shootdown .. => { cls := .none }
  | .shootdownComplete .. => { cls := .none }
  | .cowCopy .. => { cls := .none }
  | .cowCopyComplete .. => { cls := .none }
  | .snapReturn .. => { cls := .none }
  | .snapLogTailWrite .. => { cls := .none }
  | .snapLogBaseWrite .. => { cls := .none }
  | .snapPoolPagesWrite .. => { cls := .none }
  | .softErrorCorrected .. => { cls := .none }
  | .softErrorUncorrected .. => { cls := .none }
  | .hostMemAccess .. => { cls := .none }
  | .tceCommandStart .. => { cls := .none }
  | .sendChannelStart .. => { cls := .none }
  | .commandFinish .. => { cls := .none }
  | .batchTimeout .. => { cls := .none }
  | .reserveSlot .. => { cls := .none }
  | .endOfWalk .. => { cls := .none }
  | .zhoaskFetch .. => { cls := .none }
  | .cpCommandStart .. => { cls := .none }
  | .cpCommandComplete .. => { cls := .none }
  | .launch .. => { cls := .none }
  | .cpCopy .. => { cls := .none }
  | .signal .. => { cls := .none }
  | .wait .. => { cls := .none }
  | .waitPoll .. => { cls := .none }
  | .snap .. => { cls := .none }
  | .cpCodeswap .. => { cls := .none }
  | .codeswapCompletion .. => { cls := .none }
  | .tableWrite .. => { cls := .none }
  | .tableArm .. => { cls := .none }
  | .tableSwitch .. => { cls := .none }
  | .launchComplete .. => { cls := .none }
  | .slotStart .. => { cls := .none }
  | .flitReceive .. => { cls := .none }
  | .ack .. => { cls := .none }
  | .sync .. => { cls := .none }
  | .hold .. => { cls := .none }
  | .read .. => { cls := .none }
  | .write .. => { cls := .none }
  | .wblk .. => { cls := .none }
  | .rblk .. => { cls := .none }
  | .atom .. => { cls := .none }
  | .charm .. => { cls := .none }
  | .fifo .. => { cls := .none }
  | .resp .. => { cls := .none }
  | .done .. => { cls := .none }
  | .refuse .. => { cls := .none }
  | .flushRecord .. => { cls := .none }
  | .claspOpen .. => { cls := .none }
  | .claspClose .. => { cls := .none }
  | .claspCommitted .. => { cls := .none }
  | .claspAbort .. => { cls := .none }
  | .claspStatusQuery .. => { cls := .none }
  | .collStart .. => { cls := .none }
  | .collAbort .. => { cls := .none }
  | .collFinished .. => { cls := .none }
  | .collData .. => { cls := .none }
  | .retransmitTimeout .. => { cls := .none }
  | .ackTimer .. => { cls := .none }
  | .e2eTimeout .. => { cls := .none }
  | .retryResend .. => { cls := .none }
  | .holdTimer .. => { cls := .none }
  | .collTimeout .. => { cls := .none }
  | .lineWeak .. => { cls := .none }
  | .lineDrift .. => { cls := .none }
  | .lineLost .. => { cls := .none }
  | .combLost .. => { cls := .none }
  | .syncLost .. => { cls := .none }
  | .syncRestored .. => { cls := .none }
  | .retuneComplete .. => { cls := .none }
  | .portRequalify .. => { cls := .none }
  | .ofuEventRead .. => { cls := .none }
  | .ofuCredSelWrite .. => { cls := .none }
  | .ageCommandStart .. => { cls := .none }
  | .triggerFire .. => { cls := .none }
  | .barrierSubtract .. => { cls := .none }
  | .gtStep .. => { cls := .none }
  | .asyncFaultDelivery .. => { cls := .none }
  | .pfRequestWrite .. => { cls := .none }
  | .pfAnswer .. => { cls := .none }
  | .fltKill .. => { cls := .none }
  | .dbgAttach .. => { cls := .none }
  | .dbgHalt .. => { cls := .none }
  | .dbgStep .. => { cls := .none }
  | .dbgRelease .. => { cls := .none }
  | .dbgRegRead .. => { cls := .none }
  | .dbgRegWrite .. => { cls := .none }
  | .coldReset .. => { cls := .none }
  | .bootPeerWrite .. => { cls := .none }
  | .initComplete .. => { cls := .none }
  | .recoveryGo .. => { cls := .none }
  | .flashUpdateComplete .. => { cls := .none }
  | .sigCmd .. => { cls := .none }
  | .marginWarning .. => { cls := .none }
  | .arbiterInterval .. => { cls := .none }
  | .pwrEventRead .. => { cls := .none }
  | .packagePowerClamp .. => { cls := .none }
  | .packagePowerRelease .. => { cls := .none }
  | .thermalTrip .. => { cls := .none }
  | .registerWrite .. => { cls := .none }
  | .steCommandStart .. => { cls := .none }
  | .bangleCollStart .. => { cls := .none }
  | .hostLinkCompletion .. => { cls := .none }
  | .powerLoss .. => { cls := .none }

/-- The stop bit of a slot (R80). -/
@[inline] def Instr.stop : Instr → Bool
  | .nop stop => stop
  | .limm stop .. => stop
  | .pguard stop .. => stop
  | .deps stop .. => stop
  | .add stop .. => stop
  | .addS32 stop .. => stop
  | .addZ32 stop .. => stop
  | .addSatS64 stop .. => stop
  | .addSatZ64 stop .. => stop
  | .addSatS32 stop .. => stop
  | .addSatZ32 stop .. => stop
  | .sub stop .. => stop
  | .subS32 stop .. => stop
  | .subZ32 stop .. => stop
  | .subSatS64 stop .. => stop
  | .subSatZ64 stop .. => stop
  | .subSatS32 stop .. => stop
  | .subSatZ32 stop .. => stop
  | .addi stop .. => stop
  | .mul stop .. => stop
  | .mulhS64 stop .. => stop
  | .mulhZ64 stop .. => stop
  | .mulS32 stop .. => stop
  | .mulZ32 stop .. => stop
  | .mla stop .. => stop
  | .divS64 stop .. => stop
  | .divZ64 stop .. => stop
  | .remS64 stop .. => stop
  | .remZ64 stop .. => stop
  | .divS32 stop .. => stop
  | .divZ32 stop .. => stop
  | .remS32 stop .. => stop
  | .remZ32 stop .. => stop
  | .and stop .. => stop
  | .or stop .. => stop
  | .xor stop .. => stop
  | .andn stop .. => stop
  | .orn stop .. => stop
  | .xnor stop .. => stop
  | .nand stop .. => stop
  | .nor stop .. => stop
  | .andi stop .. => stop
  | .ori stop .. => stop
  | .xori stop .. => stop
  | .andni stop .. => stop
  | .orni stop .. => stop
  | .xnori stop .. => stop
  | .nandi stop .. => stop
  | .nori stop .. => stop
  | .shl stop .. => stop
  | .shr stop .. => stop
  | .sar stop .. => stop
  | .rol stop .. => stop
  | .ror stop .. => stop
  | .shli stop .. => stop
  | .shri stop .. => stop
  | .sari stop .. => stop
  | .roli stop .. => stop
  | .rori stop .. => stop
  | .clz stop .. => stop
  | .ctz stop .. => stop
  | .popc stop .. => stop
  | .brev stop .. => stop
  | .bswap stop .. => stop
  | .minS64 stop .. => stop
  | .maxS64 stop .. => stop
  | .minZ64 stop .. => stop
  | .maxZ64 stop .. => stop
  | .bfx stop .. => stop
  | .bfi stop .. => stop
  | .extZ stop .. => stop
  | .extS stop .. => stop
  | .cmp stop .. => stop
  | .cmpi stop .. => stop
  | .pand stop .. => stop
  | .por stop .. => stop
  | .pxor stop .. => stop
  | .pandn stop .. => stop
  | .porn stop .. => stop
  | .pmov stop .. => stop
  | .pnot stop .. => stop
  | .pxnor stop .. => stop
  | .sel stop .. => stop
  | .selz stop .. => stop
  | .seln stop .. => stop
  | .fadd stop .. => stop
  | .fsub stop .. => stop
  | .fmul stop .. => stop
  | .fmin stop .. => stop
  | .fmax stop .. => stop
  | .ffma stop .. => stop
  | .ffms stop .. => stop
  | .ffnma stop .. => stop
  | .ffnms stop .. => stop
  | .fdiv stop .. => stop
  | .fsqrt stop .. => stop
  | .fcmp stop .. => stop
  | .fcvt stop .. => stop
  | .fclass stop .. => stop
  | .br stop .. => stop
  | .bri stop .. => stop
  | .call stop .. => stop
  | .ret stop .. => stop
  | .loopPush stop .. => stop
  | .loopPop stop => stop
  | .loop stop .. => stop
  | .loops stop .. => stop
  | .brzm stop .. => stop
  | .brnzm stop .. => stop
  | .trap stop .. => stop
  | .svc stop .. => stop
  | .brk stop .. => stop
  | .cnarrowOff stop .. => stop
  | .cnarrowLen stop .. => stop
  | .cnarrowBase stop .. => stop
  | .cnarrowiOff stop .. => stop
  | .cnarrowiLen stop .. => stop
  | .cnarrowiBase stop .. => stop
  | .cperm stop .. => stop
  | .cgetBase stop .. => stop
  | .cgetLen stop .. => stop
  | .cgetPerm stop .. => stop
  | .cgetShape stop .. => stop
  | .cgetTag stop .. => stop
  | .cgetHi stop .. => stop
  | .cgetLo stop .. => stop
  | .cshape stop .. => stop
  | .cmint stop .. => stop
  | .trans stop .. => stop
  | .hgetState stop .. => stop
  | .hgetPage stop .. => stop
  | .hgetSize stop .. => stop
  | .hdrop stop .. => stop
  | .wtake stop .. => stop
  | .join stop .. => stop
  | .leave stop .. => stop
  | .stepend stop => stop
  | .switch stop => stop
  | .yield stop => stop
  | .csrr stop .. => stop
  | .csrw stop .. => stop
  | .codeswap stop .. => stop
  | .trapret stop => stop
  | .vadd stop .. => stop
  | .vsub stop .. => stop
  | .vmul stop .. => stop
  | .vfma stop .. => stop
  | .vfms stop .. => stop
  | .vmin stop .. => stop
  | .vmax stop .. => stop
  | .vdiv stop .. => stop
  | .vsqrt stop .. => stop
  | .vrcpe stop .. => stop
  | .vrsqrte stop .. => stop
  | .vexp2e stop .. => stop
  | .vlog2e stop .. => stop
  | .vand stop .. => stop
  | .vor stop .. => stop
  | .vxor stop .. => stop
  | .vandn stop .. => stop
  | .vorn stop .. => stop
  | .vxnor stop .. => stop
  | .vnand stop .. => stop
  | .vnor stop .. => stop
  | .vshl stop .. => stop
  | .vshr stop .. => stop
  | .vsar stop .. => stop
  | .vrol stop .. => stop
  | .vror stop .. => stop
  | .vcvt stop .. => stop
  | .vcmp stop .. => stop
  | .mpush stop .. => stop
  | .mpushRaw stop .. => stop
  | .mpushX stop .. => stop
  | .mpushXRaw stop .. => stop
  | .minv stop => stop
  | .mpop stop .. => stop
  | .mdup stop => stop
  | .mall stop => stop
  | .vbcast stop .. => stop
  | .vext stop .. => stop
  | .vins stop .. => stop
  | .vperm stop .. => stop
  | .vperm2 stop .. => stop
  | .vpermB stop .. => stop
  | .vxswz stop .. => stop
  | .vxswzi stop .. => stop
  | .vredAdd stop .. => stop
  | .vredMin stop .. => stop
  | .vredMax stop .. => stop
  | .vdot stop .. => stop
  | .viota stop .. => stop
  | .viotaM stop .. => stop
  | .vabs stop .. => stop
  | .vneg stop .. => stop
  | .vseed stop .. => stop
  | .vseedX stop .. => stop
  | .vseedrd stop .. => stop
  | .vmov stop .. => stop
  | .vmovZ stop .. => stop
  | .vmovM stop .. => stop
  | .lds stop .. => stop
  | .sts stop .. => stop
  | .ldf stop .. => stop
  | .ldfe stop .. => stop
  | .ste stop .. => stop
  | .stf stop .. => stop
  | .tagclr stop .. => stop
  | .vld stop .. => stop
  | .vldBank stop .. => stop
  | .vldStr stop .. => stop
  | .vldG stop .. => stop
  | .vst stop .. => stop
  | .vstBank stop .. => stop
  | .vstStr stop .. => stop
  | .vstG stop .. => stop
  | .vldg stop .. => stop
  | .vldgG stop .. => stop
  | .vstg stop .. => stop
  | .vstgG stop .. => stop
  | .vldt stop .. => stop
  | .ldg stop .. => stop
  | .stg stop .. => stop
  | .lda stop .. => stop
  | .sta stop .. => stop
  | .atomSwap stop .. => stop
  | .atomCas stop .. => stop
  | .atomAdd stop .. => stop
  | .atomAnd stop .. => stop
  | .atomOr stop .. => stop
  | .atomXor stop .. => stop
  | .atomMinS stop .. => stop
  | .atomMaxS stop .. => stop
  | .atomMinZ stop .. => stop
  | .atomMaxZ stop .. => stop
  | .atomFadd stop .. => stop
  | .atomFmin stop .. => stop
  | .atomFmax stop .. => stop
  | .atomx stop .. => stop
  | .fence stop .. => stop
  | .prefetch stop .. => stop
  | .flush stop .. => stop
  | .discard stop .. => stop
  | .sbopFill stop .. => stop
  | .sbopAdd stop .. => stop
  | .sbopFadd stop .. => stop
  | .sbopMax stop .. => stop
  | .mma stop .. => stop
  | .nset stop .. => stop
  | .nsetA stop .. => stop
  | .nget stop .. => stop
  | .ngetA stop .. => stop
  | .ngo stop .. => stop
  | .ngoM stop .. => stop
  | .accrd stop .. => stop
  | .accwr stop .. => stop
  | .accz stop .. => stop
  | .obcast stop .. => stop
  | .mopen stop .. => stop
  | .accmerge stop .. => stop
  | .copy stop .. => stop
  | .send stop .. => stop
  | .fbind stop .. => stop
  | .funbind stop .. => stop
  | .fpush stop .. => stop
  | .fpushEos stop .. => stop
  | .fpop stop .. => stop
  | .coll stop .. => stop
  | .clopen stop .. => stop
  | .clclose stop .. => stop
  | .trsel stop .. => stop
  | .trexp stop .. => stop
  | .trback stop .. => stop
  | .trbackVo stop .. => stop
  | .trroot stop .. => stop
  | .trpoolInit stop .. => stop
  | .trpoolParam stop .. => stop
  | .qbgate stop .. => stop
  | .qbdiag stop .. => stop
  | .qbmap stop .. => stop
  | .qbmapSet stop .. => stop
  | .qbmapGet stop .. => stop
  | .qbmapEnd stop .. => stop
  | .qbswap stop .. => stop
  | .qbnorm stop .. => stop
  | .qbprob stop .. => stop
  | .qbcoll stop .. => stop
  | .twait stop .. => stop
  | .twaitCh stop .. => stop
  | .tstat stop .. => stop
  | .tstatLog stop .. => stop
  | .waitc stop .. => stop
  | .barinit stop .. => stop
  | .bararr stop .. => stop
  | .barexp stop .. => stop
  | .barwait stop .. => stop
  | .bartry stop .. => stop
  | .trigat stop .. => stop
  | .trigcnt stop .. => stop
  | .trigcan stop .. => stop
  | .qdepth stop .. => stop
  | .qdepthX stop .. => stop
  | .qstat stop .. => stop
  | .qmode stop .. => stop
  | .qmodei stop .. => stop
  | .steal .. => true
  | .stealRetry .. => true
  | .columnDispatch .. => true
  | .taskAging .. => true
  | .preemptRequest .. => true
  | .forcedSave .. => true
  | .saveComplete .. => true
  | .tagTimeout .. => true
  | .transComplete .. => true
  | .replayDepart .. => true
  | .nestComplete .. => true
  | .mergeOpen .. => true
  | .mergeContribute .. => true
  | .mergeClose .. => true
  | .mergeResend .. => true
  | .charmRun .. => true
  | .charmTimeout .. => true
  | .shootdown .. => true
  | .shootdownComplete .. => true
  | .cowCopy .. => true
  | .cowCopyComplete .. => true
  | .snapReturn .. => true
  | .snapLogTailWrite .. => true
  | .snapLogBaseWrite .. => true
  | .snapPoolPagesWrite .. => true
  | .softErrorCorrected .. => true
  | .softErrorUncorrected .. => true
  | .hostMemAccess .. => true
  | .tceCommandStart .. => true
  | .sendChannelStart .. => true
  | .commandFinish .. => true
  | .batchTimeout .. => true
  | .reserveSlot .. => true
  | .endOfWalk .. => true
  | .zhoaskFetch .. => true
  | .cpCommandStart .. => true
  | .cpCommandComplete .. => true
  | .launch .. => true
  | .cpCopy .. => true
  | .signal .. => true
  | .wait .. => true
  | .waitPoll .. => true
  | .snap .. => true
  | .cpCodeswap .. => true
  | .codeswapCompletion .. => true
  | .tableWrite .. => true
  | .tableArm .. => true
  | .tableSwitch .. => true
  | .launchComplete .. => true
  | .slotStart .. => true
  | .flitReceive .. => true
  | .ack .. => true
  | .sync .. => true
  | .hold .. => true
  | .read .. => true
  | .write .. => true
  | .wblk .. => true
  | .rblk .. => true
  | .atom .. => true
  | .charm .. => true
  | .fifo .. => true
  | .resp .. => true
  | .done .. => true
  | .refuse .. => true
  | .flushRecord .. => true
  | .claspOpen .. => true
  | .claspClose .. => true
  | .claspCommitted .. => true
  | .claspAbort .. => true
  | .claspStatusQuery .. => true
  | .collStart .. => true
  | .collAbort .. => true
  | .collFinished .. => true
  | .collData .. => true
  | .retransmitTimeout .. => true
  | .ackTimer .. => true
  | .e2eTimeout .. => true
  | .retryResend .. => true
  | .holdTimer .. => true
  | .collTimeout .. => true
  | .lineWeak .. => true
  | .lineDrift .. => true
  | .lineLost .. => true
  | .combLost .. => true
  | .syncLost .. => true
  | .syncRestored .. => true
  | .retuneComplete .. => true
  | .portRequalify .. => true
  | .ofuEventRead .. => true
  | .ofuCredSelWrite .. => true
  | .ageCommandStart .. => true
  | .triggerFire .. => true
  | .barrierSubtract .. => true
  | .gtStep .. => true
  | .asyncFaultDelivery .. => true
  | .pfRequestWrite .. => true
  | .pfAnswer .. => true
  | .fltKill .. => true
  | .dbgAttach .. => true
  | .dbgHalt .. => true
  | .dbgStep .. => true
  | .dbgRelease .. => true
  | .dbgRegRead .. => true
  | .dbgRegWrite .. => true
  | .coldReset .. => true
  | .bootPeerWrite .. => true
  | .initComplete .. => true
  | .recoveryGo .. => true
  | .flashUpdateComplete .. => true
  | .sigCmd .. => true
  | .marginWarning .. => true
  | .arbiterInterval .. => true
  | .pwrEventRead .. => true
  | .packagePowerClamp .. => true
  | .packagePowerRelease .. => true
  | .thermalTrip .. => true
  | .registerWrite .. => true
  | .steCommandStart .. => true
  | .bangleCollStart .. => true
  | .hostLinkCompletion .. => true
  | .powerLoss .. => true

end Sys2Proof
end

