-- ==== Sys2Proof/Decode.lean ====
section
/-! DEFINITION. The slot format of R80, the decoder from a 32-bit word to an instruction (R91 to R95), and the encoder. -/
namespace Sys2Proof

/-- The fields of a slot word (R80). -/
structure Fields where
  s : Bool
  op : BitVec 7
  d : BitVec 6
  a : BitVec 6
  b : BitVec 6
  f : BitVec 6
deriving DecidableEq, Repr

/-- The fields of a word. -/
def Fields.ofWord (w : BitVec 32) : Fields :=
  { s := w.getLsbD 31, op := w.extractLsb' 24 7, d := w.extractLsb' 18 6, a := w.extractLsb' 12 6,
    b := w.extractLsb' 6 6, f := w.extractLsb' 0 6 }
/-- The word of the fields. -/
def Fields.word (x : Fields) : BitVec 32 := BitVec.ofBool x.s ++ x.op ++ x.d ++ x.a ++ x.b ++ x.f

/-- Why a word is no instruction (R92, step 2). -/
inductive DecodeError where
  | illegalOpcode     -- a reserved major (R94)
  | illegalFunction   -- an F value or a field value that no row has (R91, R95)
deriving DecidableEq, Repr

noncomputable def decodeMajor00 (x : Fields) : Option Instr :=
  if x.d = 0 ∧ x.a = 0 ∧ x.b = 0 ∧ x.f = 0 then some (.nop x.s)
  else none

noncomputable def decodeMajor01 (x : Fields) : Option Instr :=
  some (.limm x.s (x.d ++ x.a ++ x.b ++ x.f))

noncomputable def decodeMajor02 (x : Fields) : Option Instr :=
  if x.b.extractLsb' 0 3 = 0 ∧ x.f = 0 then some (.pguard x.s (x.d ++ x.a.extractLsb' 5 1) (x.a.getLsbD 4) (x.a.extractLsb' 0 4 ++ x.b.extractLsb' 3 3))
  else none

noncomputable def decodeMajor03 (x : Fields) : Option Instr :=
  if x.f = 0 then some (.deps x.s (x.d.extractLsb' 1 5) (x.d.extractLsb' 0 1 ++ x.a.extractLsb' 2 4) (x.a.extractLsb' 0 2 ++ x.b.extractLsb' 3 3) (x.b.extractLsb' 0 3))
  else none

noncomputable def decodeMajor10 (x : Fields) : Option Instr :=
  if x.f = 0 then some (.add x.s x.d x.a x.b)
  else if x.f = 1 then some (.addS32 x.s x.d x.a x.b)
  else if x.f = 2 then some (.addZ32 x.s x.d x.a x.b)
  else if x.f = 4 then some (.addSatS64 x.s x.d x.a x.b)
  else if x.f = 5 then some (.addSatZ64 x.s x.d x.a x.b)
  else if x.f = 6 then some (.addSatS32 x.s x.d x.a x.b)
  else if x.f = 7 then some (.addSatZ32 x.s x.d x.a x.b)
  else none

noncomputable def decodeMajor11 (x : Fields) : Option Instr :=
  if x.f = 0 then some (.sub x.s x.d x.a x.b)
  else if x.f = 1 then some (.subS32 x.s x.d x.a x.b)
  else if x.f = 2 then some (.subZ32 x.s x.d x.a x.b)
  else if x.f = 4 then some (.subSatS64 x.s x.d x.a x.b)
  else if x.f = 5 then some (.subSatZ64 x.s x.d x.a x.b)
  else if x.f = 6 then some (.subSatS32 x.s x.d x.a x.b)
  else if x.f = 7 then some (.subSatZ32 x.s x.d x.a x.b)
  else none

noncomputable def decodeMajor12 (x : Fields) : Option Instr :=
  some (.addi x.s x.d x.a (x.b ++ x.f))

noncomputable def decodeMajor13 (x : Fields) : Option Instr :=
  if x.f = 0 then some (.mul x.s x.d x.a x.b)
  else if x.f = 1 then some (.mulhS64 x.s x.d x.a x.b)
  else if x.f = 2 then some (.mulhZ64 x.s x.d x.a x.b)
  else if x.f = 3 then some (.mulS32 x.s x.d x.a x.b)
  else if x.f = 4 then some (.mulZ32 x.s x.d x.a x.b)
  else if x.f = 8 then some (.mla x.s x.d x.a x.b)
  else none

noncomputable def decodeMajor14 (x : Fields) : Option Instr :=
  if x.f = 0 then some (.divS64 x.s x.d x.a x.b)
  else if x.f = 1 then some (.divZ64 x.s x.d x.a x.b)
  else if x.f = 2 then some (.remS64 x.s x.d x.a x.b)
  else if x.f = 3 then some (.remZ64 x.s x.d x.a x.b)
  else if x.f = 4 then some (.divS32 x.s x.d x.a x.b)
  else if x.f = 5 then some (.divZ32 x.s x.d x.a x.b)
  else if x.f = 6 then some (.remS32 x.s x.d x.a x.b)
  else if x.f = 7 then some (.remZ32 x.s x.d x.a x.b)
  else none

noncomputable def decodeMajor15 (x : Fields) : Option Instr :=
  if x.f = 0 then some (.and x.s x.d x.a x.b)
  else if x.f = 1 then some (.or x.s x.d x.a x.b)
  else if x.f = 2 then some (.xor x.s x.d x.a x.b)
  else if x.f = 3 then some (.andn x.s x.d x.a x.b)
  else if x.f = 4 then some (.orn x.s x.d x.a x.b)
  else if x.f = 5 then some (.xnor x.s x.d x.a x.b)
  else if x.f = 6 then some (.nand x.s x.d x.a x.b)
  else if x.f = 7 then some (.nor x.s x.d x.a x.b)
  else if x.f = 32 then some (.andi x.s x.d x.a x.b)
  else if x.f = 33 then some (.ori x.s x.d x.a x.b)
  else if x.f = 34 then some (.xori x.s x.d x.a x.b)
  else if x.f = 35 then some (.andni x.s x.d x.a x.b)
  else if x.f = 36 then some (.orni x.s x.d x.a x.b)
  else if x.f = 37 then some (.xnori x.s x.d x.a x.b)
  else if x.f = 38 then some (.nandi x.s x.d x.a x.b)
  else if x.f = 39 then some (.nori x.s x.d x.a x.b)
  else none

noncomputable def decodeMajor16 (x : Fields) : Option Instr :=
  if x.f.extractLsb' 4 2 = 0 ∧ x.f.extractLsb' 0 3 = 0 then some (.shl x.s x.d x.a x.b (x.f.getLsbD 3))
  else if x.f.extractLsb' 4 2 = 0 ∧ x.f.extractLsb' 0 3 = 1 then some (.shr x.s x.d x.a x.b (x.f.getLsbD 3))
  else if x.f.extractLsb' 4 2 = 0 ∧ x.f.extractLsb' 0 3 = 2 then some (.sar x.s x.d x.a x.b (x.f.getLsbD 3))
  else if x.f.extractLsb' 4 2 = 0 ∧ x.f.extractLsb' 0 3 = 3 then some (.rol x.s x.d x.a x.b (x.f.getLsbD 3))
  else if x.f.extractLsb' 4 2 = 0 ∧ x.f.extractLsb' 0 3 = 4 then some (.ror x.s x.d x.a x.b (x.f.getLsbD 3))
  else if x.f.extractLsb' 4 2 = 2 ∧ x.f.extractLsb' 0 3 = 0 then some (.shli x.s x.d x.a x.b (x.f.getLsbD 3))
  else if x.f.extractLsb' 4 2 = 2 ∧ x.f.extractLsb' 0 3 = 1 then some (.shri x.s x.d x.a x.b (x.f.getLsbD 3))
  else if x.f.extractLsb' 4 2 = 2 ∧ x.f.extractLsb' 0 3 = 2 then some (.sari x.s x.d x.a x.b (x.f.getLsbD 3))
  else if x.f.extractLsb' 4 2 = 2 ∧ x.f.extractLsb' 0 3 = 3 then some (.roli x.s x.d x.a x.b (x.f.getLsbD 3))
  else if x.f.extractLsb' 4 2 = 2 ∧ x.f.extractLsb' 0 3 = 4 then some (.rori x.s x.d x.a x.b (x.f.getLsbD 3))
  else none

noncomputable def decodeMajor17 (x : Fields) : Option Instr :=
  if x.b = 0 ∧ x.f = 0 then some (.clz x.s x.d x.a)
  else if x.b = 0 ∧ x.f = 1 then some (.ctz x.s x.d x.a)
  else if x.b = 0 ∧ x.f = 2 then some (.popc x.s x.d x.a)
  else if x.b = 0 ∧ x.f = 3 then some (.brev x.s x.d x.a)
  else if x.b = 0 ∧ x.f = 4 then some (.bswap x.s x.d x.a)
  else none

noncomputable def decodeMajor18 (x : Fields) : Option Instr :=
  if x.f = 0 then some (.minS64 x.s x.d x.a x.b)
  else if x.f = 1 then some (.maxS64 x.s x.d x.a x.b)
  else if x.f = 2 then some (.minZ64 x.s x.d x.a x.b)
  else if x.f = 3 then some (.maxZ64 x.s x.d x.a x.b)
  else none

noncomputable def decodeMajor19 (x : Fields) : Option Instr :=
  some (.bfx x.s x.d x.a x.b x.f)

noncomputable def decodeMajor1A (x : Fields) : Option Instr :=
  some (.bfi x.s x.d x.a x.b x.f)

noncomputable def decodeMajor1B (x : Fields) : Option Instr :=
  if x.b = 0 then some (.extZ x.s x.d x.a x.f)
  else if x.b = 1 then some (.extS x.s x.d x.a x.f)
  else none

noncomputable def decodeMajor1C (x : Fields) : Option Instr :=
  if x.f.extractLsb' 3 2 = 0 then some (.cmp x.s (x.f.extractLsb' 5 1 ++ x.d) x.a x.b (x.f.extractLsb' 0 3))
  else none

noncomputable def decodeMajor1D (x : Fields) : Option Instr :=
  if x.f.extractLsb' 3 2 = 0 then some (.cmpi x.s (x.f.extractLsb' 5 1 ++ x.d) x.a x.b (x.f.extractLsb' 0 3))
  else none

noncomputable def decodeMajor1E (x : Fields) : Option Instr :=
  if x.f.extractLsb' 0 3 = 0 then some (.pand x.s (x.f.extractLsb' 5 1 ++ x.d) (x.f.extractLsb' 4 1 ++ x.a) (x.f.extractLsb' 3 1 ++ x.b))
  else if x.f.extractLsb' 0 3 = 1 then some (.por x.s (x.f.extractLsb' 5 1 ++ x.d) (x.f.extractLsb' 4 1 ++ x.a) (x.f.extractLsb' 3 1 ++ x.b))
  else if x.f.extractLsb' 0 3 = 2 then some (.pxor x.s (x.f.extractLsb' 5 1 ++ x.d) (x.f.extractLsb' 4 1 ++ x.a) (x.f.extractLsb' 3 1 ++ x.b))
  else if x.f.extractLsb' 0 3 = 3 then some (.pandn x.s (x.f.extractLsb' 5 1 ++ x.d) (x.f.extractLsb' 4 1 ++ x.a) (x.f.extractLsb' 3 1 ++ x.b))
  else if x.f.extractLsb' 0 3 = 4 then some (.porn x.s (x.f.extractLsb' 5 1 ++ x.d) (x.f.extractLsb' 4 1 ++ x.a) (x.f.extractLsb' 3 1 ++ x.b))
  else if x.b = 0 ∧ x.f.extractLsb' 0 4 = 5 then some (.pmov x.s (x.f.extractLsb' 5 1 ++ x.d) (x.f.extractLsb' 4 1 ++ x.a))
  else if x.b = 0 ∧ x.f.extractLsb' 0 4 = 6 then some (.pnot x.s (x.f.extractLsb' 5 1 ++ x.d) (x.f.extractLsb' 4 1 ++ x.a))
  else if x.f.extractLsb' 0 3 = 7 then some (.pxnor x.s (x.f.extractLsb' 5 1 ++ x.d) (x.f.extractLsb' 4 1 ++ x.a) (x.f.extractLsb' 3 1 ++ x.b))
  else none

noncomputable def decodeMajor1F (x : Fields) : Option Instr :=
  if x.f.extractLsb' 0 5 = 0 then some (.sel x.s x.d x.a (x.f.extractLsb' 5 1 ++ x.b))
  else if x.f.extractLsb' 0 5 = 1 then some (.selz x.s x.d x.a (x.f.extractLsb' 5 1 ++ x.b))
  else if x.f.extractLsb' 0 5 = 2 then some (.seln x.s x.d x.a (x.f.extractLsb' 5 1 ++ x.b))
  else none

noncomputable def decodeMajor20 (x : Fields) : Option Instr :=
  if x.f.extractLsb' 2 2 = 0 then some (.fadd x.s x.d x.a x.b (x.f.extractLsb' 4 2) (x.f.extractLsb' 0 2))
  else if x.f.extractLsb' 2 2 = 1 then some (.fsub x.s x.d x.a x.b (x.f.extractLsb' 4 2) (x.f.extractLsb' 0 2))
  else if x.f.extractLsb' 2 2 = 2 then some (.fmul x.s x.d x.a x.b (x.f.extractLsb' 4 2) (x.f.extractLsb' 0 2))
  else if x.f.extractLsb' 0 4 = 12 then some (.fmin x.s x.d x.a x.b (x.f.extractLsb' 4 2))
  else if x.f.extractLsb' 0 4 = 13 then some (.fmax x.s x.d x.a x.b (x.f.extractLsb' 4 2))
  else none

noncomputable def decodeMajor21 (x : Fields) : Option Instr :=
  if x.f.extractLsb' 0 2 = 0 then some (.ffma x.s x.d x.a x.b (x.f.extractLsb' 4 2) (x.f.extractLsb' 2 2))
  else if x.f.extractLsb' 0 2 = 1 then some (.ffms x.s x.d x.a x.b (x.f.extractLsb' 4 2) (x.f.extractLsb' 2 2))
  else if x.f.extractLsb' 0 2 = 2 then some (.ffnma x.s x.d x.a x.b (x.f.extractLsb' 4 2) (x.f.extractLsb' 2 2))
  else if x.f.extractLsb' 0 2 = 3 then some (.ffnms x.s x.d x.a x.b (x.f.extractLsb' 4 2) (x.f.extractLsb' 2 2))
  else none

noncomputable def decodeMajor22 (x : Fields) : Option Instr :=
  if x.f.extractLsb' 0 2 = 0 then some (.fdiv x.s x.d x.a x.b (x.f.extractLsb' 4 2) (x.f.extractLsb' 2 2))
  else if x.b = 0 ∧ x.f.extractLsb' 0 2 = 2 then some (.fsqrt x.s x.d x.a (x.f.extractLsb' 4 2) (x.f.extractLsb' 2 2))
  else none

noncomputable def decodeMajor23 (x : Fields) : Option Instr :=
  some (.fcmp x.s (x.f.extractLsb' 3 1 ++ x.d) x.a x.b (x.f.extractLsb' 4 2) (x.f.extractLsb' 0 3))

noncomputable def decodeMajor24 (x : Fields) : Option Instr :=
  if x.f.extractLsb' 4 2 = 0 then some (.fcvt x.s x.d x.a (x.b.extractLsb' 3 3) (x.b.extractLsb' 0 3) (x.f.getLsbD 3) (x.f.getLsbD 2) (x.f.extractLsb' 0 2))
  else none

noncomputable def decodeMajor25 (x : Fields) : Option Instr :=
  if x.b = 0 ∧ x.f.extractLsb' 0 4 = 0 then some (.fclass x.s x.d x.a (x.f.extractLsb' 4 2))
  else none

noncomputable def decodeMajor28 (x : Fields) : Option Instr :=
  some (.br x.s (x.d ++ x.a ++ x.b ++ x.f))

noncomputable def decodeMajor29 (x : Fields) : Option Instr :=
  some (.bri x.s x.d x.a (x.b ++ x.f))

noncomputable def decodeMajor2A (x : Fields) : Option Instr :=
  some (.call x.s (x.d ++ x.a ++ x.b ++ x.f))

noncomputable def decodeMajor2B (x : Fields) : Option Instr :=
  if x.d = 0 ∧ x.b = 0 ∧ x.f = 0 then some (.ret x.s x.a)
  else none

noncomputable def decodeMajor2C (x : Fields) : Option Instr :=
  if x.d = 0 ∧ x.b = 0 ∧ x.f = 0 then some (.loopPush x.s x.a)
  else if x.d = 0 ∧ x.a = 0 ∧ x.b = 0 ∧ x.f = 16 then some (.loopPop x.s)
  else if x.f = 32 then some (.loop x.s (x.d ++ x.a ++ x.b))
  else none

noncomputable def decodeMajor2D (x : Fields) : Option Instr :=
  some (.loops x.s x.d (x.f.extractLsb' 5 1 ++ x.a) (x.b ++ x.f.extractLsb' 0 5))

noncomputable def decodeMajor2E (x : Fields) : Option Instr :=
  if x.d.extractLsb' 5 1 = 0 then some (.brzm x.s (x.d.extractLsb' 0 5 ++ x.a ++ x.b ++ x.f))
  else if x.d.extractLsb' 5 1 = 1 then some (.brnzm x.s (x.d.extractLsb' 0 5 ++ x.a ++ x.b ++ x.f))
  else none

noncomputable def decodeMajor2F (x : Fields) : Option Instr :=
  if x.f = 0 then some (.trap x.s (x.d ++ x.a ++ x.b))
  else if x.f = 1 then some (.svc x.s (x.d ++ x.a ++ x.b))
  else if x.f = 2 then some (.brk x.s (x.d ++ x.a ++ x.b))
  else none

noncomputable def decodeMajor30 (x : Fields) : Option Instr :=
  if x.f = 0 then some (.cnarrowOff x.s x.d x.a x.b)
  else if x.f = 1 then some (.cnarrowLen x.s x.d x.a x.b)
  else if x.f = 2 then some (.cnarrowBase x.s x.d x.a x.b)
  else if x.f = 32 then some (.cnarrowiOff x.s x.d x.a x.b)
  else if x.f = 33 then some (.cnarrowiLen x.s x.d x.a x.b)
  else if x.f = 34 then some (.cnarrowiBase x.s x.d x.a x.b)
  else none

noncomputable def decodeMajor31 (x : Fields) : Option Instr :=
  if x.b.extractLsb' 2 4 = 0 then some (.cperm x.s x.d x.a (x.b.extractLsb' 0 2 ++ x.f))
  else none

noncomputable def decodeMajor32 (x : Fields) : Option Instr :=
  if x.b = 0 ∧ x.f = 0 then some (.cgetBase x.s x.d x.a)
  else if x.b = 0 ∧ x.f = 1 then some (.cgetLen x.s x.d x.a)
  else if x.b = 0 ∧ x.f = 2 then some (.cgetPerm x.s x.d x.a)
  else if x.b = 0 ∧ x.f = 3 then some (.cgetShape x.s x.d x.a)
  else if x.b = 0 ∧ x.f = 4 then some (.cgetTag x.s x.d x.a)
  else if x.b = 0 ∧ x.f = 5 then some (.cgetHi x.s x.d x.a)
  else if x.b = 0 ∧ x.f = 6 then some (.cgetLo x.s x.d x.a)
  else none

noncomputable def decodeMajor33 (x : Fields) : Option Instr :=
  if x.f = 0 then some (.cshape x.s x.d x.a x.b)
  else none

noncomputable def decodeMajor34 (x : Fields) : Option Instr :=
  if x.f = 0 then some (.cmint x.s x.d x.a x.b)
  else none

noncomputable def decodeMajor35 (x : Fields) : Option Instr :=
  if x.b = 0 ∧ x.f = 0 then some (.trans x.s x.d x.a)
  else none

noncomputable def decodeMajor36 (x : Fields) : Option Instr :=
  if x.b = 0 ∧ x.f = 0 then some (.hgetState x.s x.d x.a)
  else if x.b = 0 ∧ x.f = 1 then some (.hgetPage x.s x.d x.a)
  else if x.b = 0 ∧ x.f = 2 then some (.hgetSize x.s x.d x.a)
  else if x.a = 0 ∧ x.b = 0 ∧ x.f = 8 then some (.hdrop x.s x.d)
  else none

noncomputable def decodeMajor38 (x : Fields) : Option Instr :=
  if x.b = 0 ∧ x.f.extractLsb' 0 5 = 0 then some (.wtake x.s x.d (x.f.extractLsb' 5 1 ++ x.a))
  else none

noncomputable def decodeMajor39 (x : Fields) : Option Instr :=
  if x.d = 0 then some (.join x.s x.a (x.b ++ x.f))
  else none

noncomputable def decodeMajor3A (x : Fields) : Option Instr :=
  if x.d = 0 then some (.leave x.s x.a (x.b ++ x.f))
  else none

noncomputable def decodeMajor3B (x : Fields) : Option Instr :=
  if x.d = 0 ∧ x.a = 0 ∧ x.b = 0 ∧ x.f = 0 then some (.stepend x.s)
  else none

noncomputable def decodeMajor3C (x : Fields) : Option Instr :=
  if x.d = 0 ∧ x.a = 0 ∧ x.b = 0 ∧ x.f = 0 then some (.switch x.s)
  else if x.d = 0 ∧ x.a = 0 ∧ x.b = 0 ∧ x.f = 1 then some (.yield x.s)
  else none

noncomputable def decodeMajor3D (x : Fields) : Option Instr :=
  if x.a = 0 then some (.csrr x.s x.d (x.b ++ x.f))
  else none

noncomputable def decodeMajor3E (x : Fields) : Option Instr :=
  if x.d = 0 then some (.csrw x.s x.a (x.b ++ x.f))
  else none

noncomputable def decodeMajor3F (x : Fields) : Option Instr :=
  if x.d = 0 ∧ x.f = 0 then some (.codeswap x.s x.a x.b)
  else if x.d = 0 ∧ x.a = 0 ∧ x.b = 0 ∧ x.f = 1 then some (.trapret x.s)
  else none

noncomputable def decodeMajor40 (x : Fields) : Option Instr :=
  some (.vadd x.s x.d x.a x.b (x.f.getLsbD 5) (x.f.getLsbD 4) (x.f.extractLsb' 0 4))

noncomputable def decodeMajor41 (x : Fields) : Option Instr :=
  some (.vsub x.s x.d x.a x.b (x.f.getLsbD 5) (x.f.getLsbD 4) (x.f.extractLsb' 0 4))

noncomputable def decodeMajor42 (x : Fields) : Option Instr :=
  some (.vmul x.s x.d x.a x.b (x.f.getLsbD 5) (x.f.getLsbD 4) (x.f.extractLsb' 0 4))

noncomputable def decodeMajor43 (x : Fields) : Option Instr :=
  some (.vfma x.s x.d x.a x.b (x.f.getLsbD 5) (x.f.getLsbD 4) (x.f.extractLsb' 0 4))

noncomputable def decodeMajor44 (x : Fields) : Option Instr :=
  some (.vfms x.s x.d x.a x.b (x.f.getLsbD 5) (x.f.getLsbD 4) (x.f.extractLsb' 0 4))

noncomputable def decodeMajor45 (x : Fields) : Option Instr :=
  if x.f.extractLsb' 4 1 = 0 then some (.vmin x.s x.d x.a x.b (x.f.getLsbD 5) (x.f.extractLsb' 0 4))
  else if x.f.extractLsb' 4 1 = 1 then some (.vmax x.s x.d x.a x.b (x.f.getLsbD 5) (x.f.extractLsb' 0 4))
  else none

noncomputable def decodeMajor46 (x : Fields) : Option Instr :=
  if x.f.extractLsb' 4 1 = 0 then some (.vdiv x.s x.d x.a x.b (x.f.getLsbD 5) (x.f.extractLsb' 0 4))
  else none

noncomputable def decodeMajor47 (x : Fields) : Option Instr :=
  if x.b = 0 ∧ x.f.extractLsb' 4 2 = 0 then some (.vsqrt x.s x.d x.a (x.f.extractLsb' 0 4))
  else none

noncomputable def decodeMajor48 (x : Fields) : Option Instr :=
  if x.b = 0 ∧ x.f = 0 then some (.vrcpe x.s x.d x.a)
  else if x.b = 0 ∧ x.f = 1 then some (.vrsqrte x.s x.d x.a)
  else if x.b = 0 ∧ x.f = 2 then some (.vexp2e x.s x.d x.a)
  else if x.b = 0 ∧ x.f = 3 then some (.vlog2e x.s x.d x.a)
  else none

noncomputable def decodeMajor49 (x : Fields) : Option Instr :=
  if x.f.extractLsb' 0 5 = 0 then some (.vand x.s x.d x.a x.b (x.f.getLsbD 5))
  else if x.f.extractLsb' 0 5 = 1 then some (.vor x.s x.d x.a x.b (x.f.getLsbD 5))
  else if x.f.extractLsb' 0 5 = 2 then some (.vxor x.s x.d x.a x.b (x.f.getLsbD 5))
  else if x.f.extractLsb' 0 5 = 3 then some (.vandn x.s x.d x.a x.b (x.f.getLsbD 5))
  else if x.f.extractLsb' 0 5 = 4 then some (.vorn x.s x.d x.a x.b (x.f.getLsbD 5))
  else if x.f.extractLsb' 0 5 = 5 then some (.vxnor x.s x.d x.a x.b (x.f.getLsbD 5))
  else if x.f.extractLsb' 0 5 = 6 then some (.vnand x.s x.d x.a x.b (x.f.getLsbD 5))
  else if x.f.extractLsb' 0 5 = 7 then some (.vnor x.s x.d x.a x.b (x.f.getLsbD 5))
  else none

noncomputable def decodeMajor4A (x : Fields) : Option Instr :=
  if x.f.extractLsb' 2 3 = 0 then some (.vshl x.s x.d x.a x.b (x.f.getLsbD 5) (x.f.extractLsb' 0 2))
  else if x.f.extractLsb' 2 3 = 1 then some (.vshr x.s x.d x.a x.b (x.f.getLsbD 5) (x.f.extractLsb' 0 2))
  else if x.f.extractLsb' 2 3 = 2 then some (.vsar x.s x.d x.a x.b (x.f.getLsbD 5) (x.f.extractLsb' 0 2))
  else if x.f.extractLsb' 2 3 = 3 then some (.vrol x.s x.d x.a x.b (x.f.getLsbD 5) (x.f.extractLsb' 0 2))
  else if x.f.extractLsb' 2 3 = 4 then some (.vror x.s x.d x.a x.b (x.f.getLsbD 5) (x.f.extractLsb' 0 2))
  else none

noncomputable def decodeMajor4B (x : Fields) : Option Instr :=
  some (.vcvt x.s x.d x.a (x.b.extractLsb' 2 4) (x.b.extractLsb' 0 2 ++ x.f.extractLsb' 4 2) (x.f.getLsbD 3) (x.f.extractLsb' 0 3))

noncomputable def decodeMajor4C (x : Fields) : Option Instr :=
  if x.d.extractLsb' 4 2 = 0 ∧ x.f.extractLsb' 4 1 = 0 then some (.vcmp x.s (x.d.getLsbD 3) (x.d.extractLsb' 0 3) x.a x.b (x.f.getLsbD 5) (x.f.extractLsb' 0 4))
  else none

noncomputable def decodeMajor4D (x : Fields) : Option Instr :=
  if x.d = 0 ∧ x.b = 0 ∧ x.f = 0 then some (.mpush x.s x.a)
  else if x.d = 0 ∧ x.b = 0 ∧ x.f = 1 then some (.mpushRaw x.s x.a)
  else if x.d = 0 ∧ x.b = 0 ∧ x.f = 2 then some (.mpushX x.s x.a)
  else if x.d = 0 ∧ x.b = 0 ∧ x.f = 3 then some (.mpushXRaw x.s x.a)
  else if x.d = 0 ∧ x.a = 0 ∧ x.b = 0 ∧ x.f = 8 then some (.minv x.s)
  else if x.d = 0 ∧ x.a = 0 ∧ x.b.extractLsb' 4 2 = 0 ∧ x.f = 16 then some (.mpop x.s (x.b.extractLsb' 0 4))
  else if x.d = 0 ∧ x.a = 0 ∧ x.b = 0 ∧ x.f = 24 then some (.mdup x.s)
  else if x.d = 0 ∧ x.a = 0 ∧ x.b = 0 ∧ x.f = 32 then some (.mall x.s)
  else none

noncomputable def decodeMajor4E (x : Fields) : Option Instr :=
  if x.b = 0 ∧ x.f.extractLsb' 2 4 = 0 then some (.vbcast x.s x.d x.a (x.f.extractLsb' 0 2))
  else if x.f.extractLsb' 2 2 = 1 then some (.vext x.s x.d x.a x.b (x.f.getLsbD 5) (x.f.getLsbD 4) (x.f.extractLsb' 0 2))
  else if x.f.extractLsb' 5 1 = 0 ∧ x.f.extractLsb' 2 2 = 2 then some (.vins x.s x.d x.a x.b (x.f.getLsbD 4) (x.f.extractLsb' 0 2))
  else none

noncomputable def decodeMajor4F (x : Fields) : Option Instr :=
  if x.f = 0 then some (.vperm x.s x.d x.a x.b)
  else if x.f = 1 then some (.vperm2 x.s x.d x.a x.b)
  else if x.f = 2 then some (.vpermB x.s x.d x.a x.b)
  else if x.f = 16 then some (.vxswz x.s x.d x.a x.b)
  else if x.f = 17 then some (.vxswzi x.s x.d x.a x.b)
  else none

noncomputable def decodeMajor50 (x : Fields) : Option Instr :=
  if x.b = 0 ∧ x.f.extractLsb' 4 2 = 0 then some (.vredAdd x.s x.d x.a (x.f.extractLsb' 0 4))
  else if x.b = 0 ∧ x.f.extractLsb' 4 2 = 1 then some (.vredMin x.s x.d x.a (x.f.extractLsb' 0 4))
  else if x.b = 0 ∧ x.f.extractLsb' 4 2 = 2 then some (.vredMax x.s x.d x.a (x.f.extractLsb' 0 4))
  else none

noncomputable def decodeMajor51 (x : Fields) : Option Instr :=
  some (.vdot x.s x.d x.a x.b (x.f.getLsbD 5) (x.f.getLsbD 4) (x.f.extractLsb' 0 4))

noncomputable def decodeMajor52 (x : Fields) : Option Instr :=
  if x.f.extractLsb' 2 4 = 0 then some (.viota x.s x.d x.a x.b (x.f.extractLsb' 0 2))
  else if x.a = 0 ∧ x.b = 0 ∧ x.f = 8 then some (.viotaM x.s x.d)
  else none

noncomputable def decodeMajor53 (x : Fields) : Option Instr :=
  if x.b = 0 ∧ x.f.extractLsb' 4 1 = 0 then some (.vabs x.s x.d x.a (x.f.getLsbD 5) (x.f.extractLsb' 0 4))
  else if x.b = 0 ∧ x.f.extractLsb' 4 1 = 1 then some (.vneg x.s x.d x.a (x.f.getLsbD 5) (x.f.extractLsb' 0 4))
  else none

noncomputable def decodeMajor54 (x : Fields) : Option Instr :=
  if x.d = 0 ∧ x.b = 0 ∧ x.f = 0 then some (.vseed x.s x.a)
  else if x.d = 0 ∧ x.b = 0 ∧ x.f = 1 then some (.vseedX x.s x.a)
  else if x.a = 0 ∧ x.b = 0 ∧ x.f = 2 then some (.vseedrd x.s x.d)
  else none

noncomputable def decodeMajor55 (x : Fields) : Option Instr :=
  if x.b = 0 ∧ x.f = 0 then some (.vmov x.s x.d x.a)
  else if x.b = 0 ∧ x.f = 1 then some (.vmovZ x.s x.d x.a)
  else if x.a = 0 ∧ x.b = 0 ∧ x.f = 2 then some (.vmovM x.s x.d)
  else none

noncomputable def decodeMajor58 (x : Fields) : Option Instr :=
  if x.f.extractLsb' 5 1 = 0 then some (.lds x.s x.d x.a x.b (x.f.getLsbD 4) (x.f.getLsbD 3) (x.f.getLsbD 2) (x.f.extractLsb' 0 2))
  else none

noncomputable def decodeMajor59 (x : Fields) : Option Instr :=
  if x.f.extractLsb' 5 1 = 0 ∧ x.f.extractLsb' 2 1 = 0 then some (.sts x.s x.d x.a x.b (x.f.getLsbD 4) (x.f.getLsbD 3) (x.f.extractLsb' 0 2))
  else none

noncomputable def decodeMajor5A (x : Fields) : Option Instr :=
  if x.f.extractLsb' 5 1 = 0 ∧ x.f.extractLsb' 0 2 = 0 then some (.ldf x.s x.d x.a x.b (x.f.getLsbD 4) (x.f.getLsbD 3) (x.f.getLsbD 2))
  else if x.f.extractLsb' 5 1 = 0 ∧ x.f.extractLsb' 0 2 = 1 then some (.ldfe x.s x.d x.a x.b (x.f.getLsbD 4) (x.f.getLsbD 3) (x.f.getLsbD 2))
  else none

noncomputable def decodeMajor5B (x : Fields) : Option Instr :=
  if x.f.extractLsb' 5 1 = 0 ∧ x.f.extractLsb' 0 3 = 0 then some (.ste x.s x.d x.a x.b (x.f.getLsbD 4) (x.f.getLsbD 3))
  else if x.f.extractLsb' 5 1 = 0 ∧ x.f.extractLsb' 0 3 = 1 then some (.stf x.s x.d x.a x.b (x.f.getLsbD 4) (x.f.getLsbD 3))
  else if x.d = 0 ∧ x.f.extractLsb' 5 1 = 0 ∧ x.f.extractLsb' 0 3 = 2 then some (.tagclr x.s x.a x.b (x.f.getLsbD 4) (x.f.getLsbD 3))
  else none

noncomputable def decodeMajor5C (x : Fields) : Option Instr :=
  if x.b = 0 ∧ x.f = 0 then some (.vld x.s x.d x.a)
  else if x.b = 0 ∧ x.f = 1 then some (.vldBank x.s x.d x.a)
  else if x.f = 2 then some (.vldStr x.s x.d x.a x.b)
  else if x.a.extractLsb' 4 2 = 0 ∧ x.f.extractLsb' 4 2 = 0 ∧ x.f.extractLsb' 0 3 = 4 then some (.vldG x.s x.d (x.a.extractLsb' 0 4) x.b (x.f.getLsbD 3))
  else none

noncomputable def decodeMajor5D (x : Fields) : Option Instr :=
  if x.b = 0 ∧ x.f = 0 then some (.vst x.s x.d x.a)
  else if x.b = 0 ∧ x.f = 1 then some (.vstBank x.s x.d x.a)
  else if x.f = 2 then some (.vstStr x.s x.d x.a x.b)
  else if x.a.extractLsb' 4 2 = 0 ∧ x.f.extractLsb' 5 1 = 0 ∧ x.f.extractLsb' 0 4 = 4 then some (.vstG x.s x.d (x.a.extractLsb' 0 4) x.b (x.f.getLsbD 4))
  else none

noncomputable def decodeMajor5E (x : Fields) : Option Instr :=
  if x.f = 0 then some (.vldg x.s x.d x.a x.b)
  else if x.a.extractLsb' 4 2 = 0 ∧ x.f.extractLsb' 4 2 = 0 ∧ x.f.extractLsb' 0 3 = 4 then some (.vldgG x.s x.d (x.a.extractLsb' 0 4) x.b (x.f.getLsbD 3))
  else if x.f = 1 then some (.vstg x.s x.d x.a x.b)
  else if x.a.extractLsb' 4 2 = 0 ∧ x.f.extractLsb' 5 1 = 0 ∧ x.f.extractLsb' 0 4 = 5 then some (.vstgG x.s x.d (x.a.extractLsb' 0 4) x.b (x.f.getLsbD 4))
  else none

noncomputable def decodeMajor5F (x : Fields) : Option Instr :=
  if x.f.extractLsb' 2 4 = 0 then some (.vldt x.s x.d x.a x.b (x.f.extractLsb' 0 2))
  else none

noncomputable def decodeMajor60 (x : Fields) : Option Instr :=
  if x.a.extractLsb' 4 2 = 0 ∧ x.f.extractLsb' 5 1 = 0 then some (.ldg x.s x.d (x.a.extractLsb' 0 4) x.b (x.f.getLsbD 4) (x.f.getLsbD 3) (x.f.getLsbD 2) (x.f.extractLsb' 0 2))
  else none

noncomputable def decodeMajor61 (x : Fields) : Option Instr :=
  if x.a.extractLsb' 4 2 = 0 ∧ x.f.extractLsb' 5 1 = 0 ∧ x.f.extractLsb' 2 1 = 0 then some (.stg x.s x.d (x.a.extractLsb' 0 4) x.b (x.f.getLsbD 4) (x.f.getLsbD 3) (x.f.extractLsb' 0 2))
  else none

noncomputable def decodeMajor62 (x : Fields) : Option Instr :=
  if x.a.extractLsb' 4 2 = 0 ∧ x.f.extractLsb' 5 1 = 0 then some (.lda x.s x.d (x.a.extractLsb' 0 4) x.b (x.f.extractLsb' 3 2) (x.f.extractLsb' 0 3))
  else if x.a.extractLsb' 4 2 = 0 ∧ x.f.extractLsb' 5 1 = 1 then some (.sta x.s x.d (x.a.extractLsb' 0 4) x.b (x.f.extractLsb' 3 2) (x.f.extractLsb' 0 3))
  else none

noncomputable def decodeMajor63 (x : Fields) : Option Instr :=
  if x.f.extractLsb' 2 4 = 0 then some (.atomSwap x.s x.d (x.a.extractLsb' 4 2) (x.a.extractLsb' 0 4) x.b (x.f.getLsbD 1) (x.f.getLsbD 0))
  else if x.f.extractLsb' 2 4 = 1 then some (.atomCas x.s x.d (x.a.extractLsb' 4 2) (x.a.extractLsb' 0 4) x.b (x.f.getLsbD 1) (x.f.getLsbD 0))
  else if x.f.extractLsb' 2 4 = 2 then some (.atomAdd x.s x.d (x.a.extractLsb' 4 2) (x.a.extractLsb' 0 4) x.b (x.f.getLsbD 1) (x.f.getLsbD 0))
  else if x.f.extractLsb' 2 4 = 3 then some (.atomAnd x.s x.d (x.a.extractLsb' 4 2) (x.a.extractLsb' 0 4) x.b (x.f.getLsbD 1) (x.f.getLsbD 0))
  else if x.f.extractLsb' 2 4 = 4 then some (.atomOr x.s x.d (x.a.extractLsb' 4 2) (x.a.extractLsb' 0 4) x.b (x.f.getLsbD 1) (x.f.getLsbD 0))
  else if x.f.extractLsb' 2 4 = 5 then some (.atomXor x.s x.d (x.a.extractLsb' 4 2) (x.a.extractLsb' 0 4) x.b (x.f.getLsbD 1) (x.f.getLsbD 0))
  else if x.f.extractLsb' 2 4 = 6 then some (.atomMinS x.s x.d (x.a.extractLsb' 4 2) (x.a.extractLsb' 0 4) x.b (x.f.getLsbD 1) (x.f.getLsbD 0))
  else if x.f.extractLsb' 2 4 = 7 then some (.atomMaxS x.s x.d (x.a.extractLsb' 4 2) (x.a.extractLsb' 0 4) x.b (x.f.getLsbD 1) (x.f.getLsbD 0))
  else if x.f.extractLsb' 2 4 = 8 then some (.atomMinZ x.s x.d (x.a.extractLsb' 4 2) (x.a.extractLsb' 0 4) x.b (x.f.getLsbD 1) (x.f.getLsbD 0))
  else if x.f.extractLsb' 2 4 = 9 then some (.atomMaxZ x.s x.d (x.a.extractLsb' 4 2) (x.a.extractLsb' 0 4) x.b (x.f.getLsbD 1) (x.f.getLsbD 0))
  else if x.f.extractLsb' 2 4 = 10 then some (.atomFadd x.s x.d (x.a.extractLsb' 4 2) (x.a.extractLsb' 0 4) x.b (x.f.getLsbD 1) (x.f.getLsbD 0))
  else if x.f.extractLsb' 2 4 = 11 then some (.atomFmin x.s x.d (x.a.extractLsb' 4 2) (x.a.extractLsb' 0 4) x.b (x.f.getLsbD 1) (x.f.getLsbD 0))
  else if x.f.extractLsb' 2 4 = 12 then some (.atomFmax x.s x.d (x.a.extractLsb' 4 2) (x.a.extractLsb' 0 4) x.b (x.f.getLsbD 1) (x.f.getLsbD 0))
  else none

noncomputable def decodeMajor64 (x : Fields) : Option Instr :=
  some (.atomx x.s x.d (x.a.extractLsb' 4 2) (x.a.extractLsb' 0 4) x.b x.f)

noncomputable def decodeMajor65 (x : Fields) : Option Instr :=
  if x.d = 0 ∧ x.a = 0 ∧ x.b.extractLsb' 3 3 = 0 then some (.fence x.s (x.b.getLsbD 2) (x.b.getLsbD 1) (x.b.getLsbD 0) (x.f.getLsbD 5) (x.f.getLsbD 4) (x.f.getLsbD 3) (x.f.extractLsb' 0 3))
  else none

noncomputable def decodeMajor66 (x : Fields) : Option Instr :=
  if x.a.extractLsb' 4 2 = 0 ∧ x.f.extractLsb' 3 3 = 0 ∧ x.f.extractLsb' 0 2 = 0 then some (.prefetch x.s x.d (x.a.extractLsb' 0 4) x.b (x.f.getLsbD 2))
  else if x.a.extractLsb' 4 2 = 0 ∧ x.f.extractLsb' 3 3 = 0 ∧ x.f.extractLsb' 0 2 = 1 then some (.flush x.s x.d (x.a.extractLsb' 0 4) x.b (x.f.getLsbD 2))
  else if x.a.extractLsb' 4 2 = 0 ∧ x.f = 2 then some (.discard x.s x.d (x.a.extractLsb' 0 4) x.b)
  else none

noncomputable def decodeMajor67 (x : Fields) : Option Instr :=
  if x.a.extractLsb' 4 2 = 0 then some (.sbopFill x.s x.d (x.a.extractLsb' 0 4) x.b (x.f.getLsbD 5) (x.f.extractLsb' 0 5))
  else if x.a.extractLsb' 4 2 = 1 then some (.sbopAdd x.s x.d (x.a.extractLsb' 0 4) x.b (x.f.getLsbD 5) (x.f.extractLsb' 0 5))
  else if x.a.extractLsb' 4 2 = 2 then some (.sbopFadd x.s x.d (x.a.extractLsb' 0 4) x.b (x.f.getLsbD 5) (x.f.extractLsb' 0 5))
  else if x.a.extractLsb' 4 2 = 3 then some (.sbopMax x.s x.d (x.a.extractLsb' 0 4) x.b (x.f.getLsbD 5) (x.f.extractLsb' 0 5))
  else none

noncomputable def decodeMajor6C (x : Fields) : Option Instr :=
  some (.mma x.s x.d x.a x.b (x.f.getLsbD 5) (x.f.getLsbD 4) (x.f.getLsbD 3) (x.f.extractLsb' 0 3))

noncomputable def decodeMajor6D (x : Fields) : Option Instr :=
  if x.d = 0 ∧ x.f = 0 then some (.nset x.s x.a x.b)
  else if x.d = 0 ∧ x.f = 1 then some (.nsetA x.s x.a x.b)
  else if x.a = 0 ∧ x.f = 2 then some (.nget x.s x.d x.b)
  else if x.a = 0 ∧ x.f = 3 then some (.ngetA x.s x.d x.b)
  else none

noncomputable def decodeMajor6E (x : Fields) : Option Instr :=
  if x.a = 0 ∧ x.b = 0 ∧ x.f = 0 then some (.ngo x.s x.d)
  else if x.f = 1 then some (.ngoM x.s x.d x.a x.b)
  else none

noncomputable def decodeMajor6F (x : Fields) : Option Instr :=
  if x.f = 0 then some (.accrd x.s x.d x.a x.b)
  else if x.f = 1 then some (.accwr x.s x.d x.a x.b)
  else if x.a = 0 ∧ x.b = 0 ∧ x.f = 2 then some (.accz x.s x.d)
  else none

noncomputable def decodeMajor70 (x : Fields) : Option Instr :=
  some (.obcast x.s x.d x.a x.b x.f)

noncomputable def decodeMajor71 (x : Fields) : Option Instr :=
  if x.f.extractLsb' 5 1 = 0 then some (.mopen x.s x.d x.a x.b (x.f.extractLsb' 0 5))
  else if x.f.extractLsb' 5 1 = 1 then some (.accmerge x.s x.d x.a x.b (x.f.extractLsb' 3 2) (x.f.getLsbD 2) (x.f.extractLsb' 0 2))
  else none

noncomputable def decodeMajor72 (x : Fields) : Option Instr :=
  some (.copy x.s x.d x.a x.b (x.f.extractLsb' 3 3) (x.f.extractLsb' 0 3))

noncomputable def decodeMajor73 (x : Fields) : Option Instr :=
  some (.send x.s x.d x.a x.b (x.f.extractLsb' 2 4) (x.f.extractLsb' 0 2))

noncomputable def decodeMajor74 (x : Fields) : Option Instr :=
  if x.b = 0 ∧ x.f = 0 then some (.fbind x.s x.d x.a)
  else if x.a = 0 ∧ x.b = 0 ∧ x.f = 1 then some (.funbind x.s x.d)
  else if x.b = 0 ∧ x.f = 2 then some (.fpush x.s x.d x.a)
  else if x.b = 0 ∧ x.f = 3 then some (.fpushEos x.s x.d x.a)
  else if x.b = 0 ∧ x.f = 4 then some (.fpop x.s x.d x.a)
  else none

noncomputable def decodeMajor75 (x : Fields) : Option Instr :=
  if x.f = 0 then some (.coll x.s x.d x.a x.b)
  else none

noncomputable def decodeMajor76 (x : Fields) : Option Instr :=
  if x.b = 0 ∧ x.f.extractLsb' 2 4 = 0 then some (.clopen x.s x.d x.a (x.f.extractLsb' 0 2))
  else if x.a = 0 ∧ x.b = 0 ∧ x.f.extractLsb' 2 4 = 4 then some (.clclose x.s x.d (x.f.extractLsb' 0 2))
  else none

noncomputable def decodeMajor77 (x : Fields) : Option Instr :=
  if x.f = 0 then some (.trsel x.s x.d x.a x.b)
  else if x.f = 1 then some (.trexp x.s x.d x.a x.b)
  else if x.f = 2 then some (.trback x.s x.d x.a x.b)
  else if x.f = 10 then some (.trbackVo x.s x.d x.a x.b)
  else if x.f = 3 then some (.trroot x.s x.d x.a x.b)
  else if x.f = 4 then some (.trpoolInit x.s x.d x.a x.b)
  else if x.f = 12 then some (.trpoolParam x.s x.d x.a x.b)
  else none

noncomputable def decodeMajor78 (x : Fields) : Option Instr :=
  if x.f.extractLsb' 5 1 = 0 then some (.qbgate x.s x.d x.a x.b (x.f.extractLsb' 2 3) (x.f.extractLsb' 0 2))
  else if x.f.extractLsb' 5 1 = 1 then some (.qbdiag x.s x.d x.a x.b (x.f.extractLsb' 2 3) (x.f.extractLsb' 0 2))
  else none

noncomputable def decodeMajor79 (x : Fields) : Option Instr :=
  if x.f = 0 then some (.qbmap x.s x.d x.a x.b)
  else if x.a = 0 ∧ x.f = 1 then some (.qbmapSet x.s x.d x.b)
  else if x.a = 0 ∧ x.f = 2 then some (.qbmapGet x.s x.d x.b)
  else if x.a = 0 ∧ x.b = 0 ∧ x.f = 3 then some (.qbmapEnd x.s x.d)
  else if x.b = 0 ∧ x.f = 8 then some (.qbswap x.s x.d x.a)
  else if x.a = 0 ∧ x.f = 16 then some (.qbnorm x.s x.d x.b)
  else if x.f = 17 then some (.qbprob x.s x.d x.a x.b)
  else if x.f = 18 then some (.qbcoll x.s x.d x.a x.b)
  else none

noncomputable def decodeMajor7A (x : Fields) : Option Instr :=
  if x.d = 0 ∧ x.b = 0 ∧ x.f = 0 then some (.twait x.s x.a)
  else if x.d = 0 ∧ x.a = 0 ∧ x.f = 1 then some (.twaitCh x.s x.b)
  else if x.b = 0 ∧ x.f = 2 then some (.tstat x.s x.d x.a)
  else if x.a = 0 ∧ x.f = 3 then some (.tstatLog x.s x.d x.b)
  else none

noncomputable def decodeMajor7B (x : Fields) : Option Instr :=
  if x.d = 0 ∧ x.f.extractLsb' 2 4 = 0 then some (.waitc x.s x.a x.b (x.f.extractLsb' 0 2))
  else none

noncomputable def decodeMajor7C (x : Fields) : Option Instr :=
  if x.d = 0 ∧ x.f = 0 then some (.barinit x.s x.a x.b)
  else if x.b = 0 ∧ x.f = 1 then some (.bararr x.s x.d x.a)
  else if x.f = 2 then some (.barexp x.s x.d x.a x.b)
  else if x.f = 3 then some (.barwait x.s x.d x.a x.b)
  else if x.f.extractLsb' 0 5 = 4 then some (.bartry x.s (x.f.extractLsb' 5 1 ++ x.d) x.a x.b)
  else none

noncomputable def decodeMajor7D (x : Fields) : Option Instr :=
  if x.f = 0 then some (.trigat x.s x.d x.a x.b)
  else if x.f = 1 then some (.trigcnt x.s x.d x.a x.b)
  else if x.b = 0 ∧ x.f = 2 then some (.trigcan x.s x.d x.a)
  else none

noncomputable def decodeMajor7E (x : Fields) : Option Instr :=
  if x.d = 0 ∧ x.a = 0 ∧ x.f = 0 then some (.qdepth x.s x.b)
  else if x.d = 0 ∧ x.b = 0 ∧ x.f = 1 then some (.qdepthX x.s x.a)
  else if x.a = 0 ∧ x.f = 2 then some (.qstat x.s x.d x.b)
  else if x.d = 0 ∧ x.b = 0 ∧ x.f = 3 then some (.qmode x.s x.a)
  else if x.b = 0 ∧ x.f = 4 then some (.qmodei x.s (x.d ++ x.a))
  else none

/-- The row of the opcode table the fields select, before the checks of the operand values. -/
noncomputable def decodeRow (x : Fields) : Option Instr :=
  match x.op.toNat with
  | 0 => decodeMajor00 x
  | 1 => decodeMajor01 x
  | 2 => decodeMajor02 x
  | 3 => decodeMajor03 x
  | 16 => decodeMajor10 x
  | 17 => decodeMajor11 x
  | 18 => decodeMajor12 x
  | 19 => decodeMajor13 x
  | 20 => decodeMajor14 x
  | 21 => decodeMajor15 x
  | 22 => decodeMajor16 x
  | 23 => decodeMajor17 x
  | 24 => decodeMajor18 x
  | 25 => decodeMajor19 x
  | 26 => decodeMajor1A x
  | 27 => decodeMajor1B x
  | 28 => decodeMajor1C x
  | 29 => decodeMajor1D x
  | 30 => decodeMajor1E x
  | 31 => decodeMajor1F x
  | 32 => decodeMajor20 x
  | 33 => decodeMajor21 x
  | 34 => decodeMajor22 x
  | 35 => decodeMajor23 x
  | 36 => decodeMajor24 x
  | 37 => decodeMajor25 x
  | 40 => decodeMajor28 x
  | 41 => decodeMajor29 x
  | 42 => decodeMajor2A x
  | 43 => decodeMajor2B x
  | 44 => decodeMajor2C x
  | 45 => decodeMajor2D x
  | 46 => decodeMajor2E x
  | 47 => decodeMajor2F x
  | 48 => decodeMajor30 x
  | 49 => decodeMajor31 x
  | 50 => decodeMajor32 x
  | 51 => decodeMajor33 x
  | 52 => decodeMajor34 x
  | 53 => decodeMajor35 x
  | 54 => decodeMajor36 x
  | 56 => decodeMajor38 x
  | 57 => decodeMajor39 x
  | 58 => decodeMajor3A x
  | 59 => decodeMajor3B x
  | 60 => decodeMajor3C x
  | 61 => decodeMajor3D x
  | 62 => decodeMajor3E x
  | 63 => decodeMajor3F x
  | 64 => decodeMajor40 x
  | 65 => decodeMajor41 x
  | 66 => decodeMajor42 x
  | 67 => decodeMajor43 x
  | 68 => decodeMajor44 x
  | 69 => decodeMajor45 x
  | 70 => decodeMajor46 x
  | 71 => decodeMajor47 x
  | 72 => decodeMajor48 x
  | 73 => decodeMajor49 x
  | 74 => decodeMajor4A x
  | 75 => decodeMajor4B x
  | 76 => decodeMajor4C x
  | 77 => decodeMajor4D x
  | 78 => decodeMajor4E x
  | 79 => decodeMajor4F x
  | 80 => decodeMajor50 x
  | 81 => decodeMajor51 x
  | 82 => decodeMajor52 x
  | 83 => decodeMajor53 x
  | 84 => decodeMajor54 x
  | 85 => decodeMajor55 x
  | 88 => decodeMajor58 x
  | 89 => decodeMajor59 x
  | 90 => decodeMajor5A x
  | 91 => decodeMajor5B x
  | 92 => decodeMajor5C x
  | 93 => decodeMajor5D x
  | 94 => decodeMajor5E x
  | 95 => decodeMajor5F x
  | 96 => decodeMajor60 x
  | 97 => decodeMajor61 x
  | 98 => decodeMajor62 x
  | 99 => decodeMajor63 x
  | 100 => decodeMajor64 x
  | 101 => decodeMajor65 x
  | 102 => decodeMajor66 x
  | 103 => decodeMajor67 x
  | 108 => decodeMajor6C x
  | 109 => decodeMajor6D x
  | 110 => decodeMajor6E x
  | 111 => decodeMajor6F x
  | 112 => decodeMajor70 x
  | 113 => decodeMajor71 x
  | 114 => decodeMajor72 x
  | 115 => decodeMajor73 x
  | 116 => decodeMajor74 x
  | 117 => decodeMajor75 x
  | 118 => decodeMajor76 x
  | 119 => decodeMajor77 x
  | 120 => decodeMajor78 x
  | 121 => decodeMajor79 x
  | 122 => decodeMajor7A x
  | 123 => decodeMajor7B x
  | 124 => decodeMajor7C x
  | 125 => decodeMajor7D x
  | 126 => decodeMajor7E x
  | _ => none

/-- The reserved majors of R94. -/
def reservedMajor (op : Nat) : Bool :=
  (4 ≤ op && op < 16) || op == 0x26 || op == 0x27 || op == 0x37 || op == 0x56 || op == 0x57 || (0x68 ≤ op && op < 0x6C) || op == 0x7F

/-- The instruction of a slot word, or the cause that R92 names. -/
noncomputable def decode (w : BitVec 32) : Except DecodeError Instr :=
  let x := Fields.ofWord w
  if reservedMajor x.op.toNat then .error .illegalOpcode
  else match decodeRow x with
    | some i => if i.wf then .ok i else .error .illegalFunction
    | none => .error .illegalFunction

/-- The fields of a slot instruction, from the same encoding tables; an event has none. -/
def Instr.fields : Instr → Option Fields
  | .nop stop => some ⟨stop, 0, 0, 0, 0, 0⟩
  | .limm stop i => some ⟨stop, 1, (i.extractLsb' 18 6), (i.extractLsb' 12 6), (i.extractLsb' 6 6), (i.extractLsb' 0 6)⟩
  | .pguard stop p n m => some ⟨stop, 2, (p.extractLsb' 1 6), (p.extractLsb' 0 1 ++ BitVec.ofBool n ++ m.extractLsb' 3 4), (m.extractLsb' 0 3 ++ 0#3), 0⟩
  | .deps stop a b c n => some ⟨stop, 3, (a ++ b.extractLsb' 4 1), (b.extractLsb' 0 4 ++ c.extractLsb' 3 2), (c.extractLsb' 0 3 ++ n), 0⟩
  | .add stop d a b => some ⟨stop, 16, d, a, b, 0⟩
  | .addS32 stop d a b => some ⟨stop, 16, d, a, b, 1⟩
  | .addZ32 stop d a b => some ⟨stop, 16, d, a, b, 2⟩
  | .addSatS64 stop d a b => some ⟨stop, 16, d, a, b, 4⟩
  | .addSatZ64 stop d a b => some ⟨stop, 16, d, a, b, 5⟩
  | .addSatS32 stop d a b => some ⟨stop, 16, d, a, b, 6⟩
  | .addSatZ32 stop d a b => some ⟨stop, 16, d, a, b, 7⟩
  | .sub stop d a b => some ⟨stop, 17, d, a, b, 0⟩
  | .subS32 stop d a b => some ⟨stop, 17, d, a, b, 1⟩
  | .subZ32 stop d a b => some ⟨stop, 17, d, a, b, 2⟩
  | .subSatS64 stop d a b => some ⟨stop, 17, d, a, b, 4⟩
  | .subSatZ64 stop d a b => some ⟨stop, 17, d, a, b, 5⟩
  | .subSatS32 stop d a b => some ⟨stop, 17, d, a, b, 6⟩
  | .subSatZ32 stop d a b => some ⟨stop, 17, d, a, b, 7⟩
  | .addi stop d a i => some ⟨stop, 18, d, a, (i.extractLsb' 6 6), (i.extractLsb' 0 6)⟩
  | .mul stop d a b => some ⟨stop, 19, d, a, b, 0⟩
  | .mulhS64 stop d a b => some ⟨stop, 19, d, a, b, 1⟩
  | .mulhZ64 stop d a b => some ⟨stop, 19, d, a, b, 2⟩
  | .mulS32 stop d a b => some ⟨stop, 19, d, a, b, 3⟩
  | .mulZ32 stop d a b => some ⟨stop, 19, d, a, b, 4⟩
  | .mla stop d a b => some ⟨stop, 19, d, a, b, 8⟩
  | .divS64 stop d a b => some ⟨stop, 20, d, a, b, 0⟩
  | .divZ64 stop d a b => some ⟨stop, 20, d, a, b, 1⟩
  | .remS64 stop d a b => some ⟨stop, 20, d, a, b, 2⟩
  | .remZ64 stop d a b => some ⟨stop, 20, d, a, b, 3⟩
  | .divS32 stop d a b => some ⟨stop, 20, d, a, b, 4⟩
  | .divZ32 stop d a b => some ⟨stop, 20, d, a, b, 5⟩
  | .remS32 stop d a b => some ⟨stop, 20, d, a, b, 6⟩
  | .remZ32 stop d a b => some ⟨stop, 20, d, a, b, 7⟩
  | .and stop d a b => some ⟨stop, 21, d, a, b, 0⟩
  | .or stop d a b => some ⟨stop, 21, d, a, b, 1⟩
  | .xor stop d a b => some ⟨stop, 21, d, a, b, 2⟩
  | .andn stop d a b => some ⟨stop, 21, d, a, b, 3⟩
  | .orn stop d a b => some ⟨stop, 21, d, a, b, 4⟩
  | .xnor stop d a b => some ⟨stop, 21, d, a, b, 5⟩
  | .nand stop d a b => some ⟨stop, 21, d, a, b, 6⟩
  | .nor stop d a b => some ⟨stop, 21, d, a, b, 7⟩
  | .andi stop d a i => some ⟨stop, 21, d, a, i, 32⟩
  | .ori stop d a i => some ⟨stop, 21, d, a, i, 33⟩
  | .xori stop d a i => some ⟨stop, 21, d, a, i, 34⟩
  | .andni stop d a i => some ⟨stop, 21, d, a, i, 35⟩
  | .orni stop d a i => some ⟨stop, 21, d, a, i, 36⟩
  | .xnori stop d a i => some ⟨stop, 21, d, a, i, 37⟩
  | .nandi stop d a i => some ⟨stop, 21, d, a, i, 38⟩
  | .nori stop d a i => some ⟨stop, 21, d, a, i, 39⟩
  | .shl stop d a b w => some ⟨stop, 22, d, a, b, (0#2 ++ BitVec.ofBool w ++ 0#3)⟩
  | .shr stop d a b w => some ⟨stop, 22, d, a, b, (0#2 ++ BitVec.ofBool w ++ 1#3)⟩
  | .sar stop d a b w => some ⟨stop, 22, d, a, b, (0#2 ++ BitVec.ofBool w ++ 2#3)⟩
  | .rol stop d a b w => some ⟨stop, 22, d, a, b, (0#2 ++ BitVec.ofBool w ++ 3#3)⟩
  | .ror stop d a b w => some ⟨stop, 22, d, a, b, (0#2 ++ BitVec.ofBool w ++ 4#3)⟩
  | .shli stop d a n w => some ⟨stop, 22, d, a, n, (2#2 ++ BitVec.ofBool w ++ 0#3)⟩
  | .shri stop d a n w => some ⟨stop, 22, d, a, n, (2#2 ++ BitVec.ofBool w ++ 1#3)⟩
  | .sari stop d a n w => some ⟨stop, 22, d, a, n, (2#2 ++ BitVec.ofBool w ++ 2#3)⟩
  | .roli stop d a n w => some ⟨stop, 22, d, a, n, (2#2 ++ BitVec.ofBool w ++ 3#3)⟩
  | .rori stop d a n w => some ⟨stop, 22, d, a, n, (2#2 ++ BitVec.ofBool w ++ 4#3)⟩
  | .clz stop d a => some ⟨stop, 23, d, a, 0, 0⟩
  | .ctz stop d a => some ⟨stop, 23, d, a, 0, 1⟩
  | .popc stop d a => some ⟨stop, 23, d, a, 0, 2⟩
  | .brev stop d a => some ⟨stop, 23, d, a, 0, 3⟩
  | .bswap stop d a => some ⟨stop, 23, d, a, 0, 4⟩
  | .minS64 stop d a b => some ⟨stop, 24, d, a, b, 0⟩
  | .maxS64 stop d a b => some ⟨stop, 24, d, a, b, 1⟩
  | .minZ64 stop d a b => some ⟨stop, 24, d, a, b, 2⟩
  | .maxZ64 stop d a b => some ⟨stop, 24, d, a, b, 3⟩
  | .bfx stop d a p l => some ⟨stop, 25, d, a, p, l⟩
  | .bfi stop d a p l => some ⟨stop, 26, d, a, p, l⟩
  | .extZ stop d a w => some ⟨stop, 27, d, a, 0, w⟩
  | .extS stop d a w => some ⟨stop, 27, d, a, 1, w⟩
  | .cmp stop p a b c => some ⟨stop, 28, (p.extractLsb' 0 6), a, b, (p.extractLsb' 6 1 ++ 0#2 ++ c)⟩
  | .cmpi stop p a i c => some ⟨stop, 29, (p.extractLsb' 0 6), a, i, (p.extractLsb' 6 1 ++ 0#2 ++ c)⟩
  | .pand stop d a b => some ⟨stop, 30, (d.extractLsb' 0 6), (a.extractLsb' 0 6), (b.extractLsb' 0 6), (d.extractLsb' 6 1 ++ a.extractLsb' 6 1 ++ b.extractLsb' 6 1 ++ 0#3)⟩
  | .por stop d a b => some ⟨stop, 30, (d.extractLsb' 0 6), (a.extractLsb' 0 6), (b.extractLsb' 0 6), (d.extractLsb' 6 1 ++ a.extractLsb' 6 1 ++ b.extractLsb' 6 1 ++ 1#3)⟩
  | .pxor stop d a b => some ⟨stop, 30, (d.extractLsb' 0 6), (a.extractLsb' 0 6), (b.extractLsb' 0 6), (d.extractLsb' 6 1 ++ a.extractLsb' 6 1 ++ b.extractLsb' 6 1 ++ 2#3)⟩
  | .pandn stop d a b => some ⟨stop, 30, (d.extractLsb' 0 6), (a.extractLsb' 0 6), (b.extractLsb' 0 6), (d.extractLsb' 6 1 ++ a.extractLsb' 6 1 ++ b.extractLsb' 6 1 ++ 3#3)⟩
  | .porn stop d a b => some ⟨stop, 30, (d.extractLsb' 0 6), (a.extractLsb' 0 6), (b.extractLsb' 0 6), (d.extractLsb' 6 1 ++ a.extractLsb' 6 1 ++ b.extractLsb' 6 1 ++ 4#3)⟩
  | .pmov stop d a => some ⟨stop, 30, (d.extractLsb' 0 6), (a.extractLsb' 0 6), 0, (d.extractLsb' 6 1 ++ a.extractLsb' 6 1 ++ 5#4)⟩
  | .pnot stop d a => some ⟨stop, 30, (d.extractLsb' 0 6), (a.extractLsb' 0 6), 0, (d.extractLsb' 6 1 ++ a.extractLsb' 6 1 ++ 6#4)⟩
  | .pxnor stop d a b => some ⟨stop, 30, (d.extractLsb' 0 6), (a.extractLsb' 0 6), (b.extractLsb' 0 6), (d.extractLsb' 6 1 ++ a.extractLsb' 6 1 ++ b.extractLsb' 6 1 ++ 7#3)⟩
  | .sel stop d a p => some ⟨stop, 31, d, a, (p.extractLsb' 0 6), (p.extractLsb' 6 1 ++ 0#5)⟩
  | .selz stop d a p => some ⟨stop, 31, d, a, (p.extractLsb' 0 6), (p.extractLsb' 6 1 ++ 1#5)⟩
  | .seln stop d a p => some ⟨stop, 31, d, a, (p.extractLsb' 0 6), (p.extractLsb' 6 1 ++ 2#5)⟩
  | .fadd stop d a b t r => some ⟨stop, 32, d, a, b, (t ++ 0#2 ++ r)⟩
  | .fsub stop d a b t r => some ⟨stop, 32, d, a, b, (t ++ 1#2 ++ r)⟩
  | .fmul stop d a b t r => some ⟨stop, 32, d, a, b, (t ++ 2#2 ++ r)⟩
  | .fmin stop d a b t => some ⟨stop, 32, d, a, b, (t ++ 12#4)⟩
  | .fmax stop d a b t => some ⟨stop, 32, d, a, b, (t ++ 13#4)⟩
  | .ffma stop d a b t r => some ⟨stop, 33, d, a, b, (t ++ r ++ 0#2)⟩
  | .ffms stop d a b t r => some ⟨stop, 33, d, a, b, (t ++ r ++ 1#2)⟩
  | .ffnma stop d a b t r => some ⟨stop, 33, d, a, b, (t ++ r ++ 2#2)⟩
  | .ffnms stop d a b t r => some ⟨stop, 33, d, a, b, (t ++ r ++ 3#2)⟩
  | .fdiv stop d a b t r => some ⟨stop, 34, d, a, b, (t ++ r ++ 0#2)⟩
  | .fsqrt stop d a t r => some ⟨stop, 34, d, a, 0, (t ++ r ++ 2#2)⟩
  | .fcmp stop p a b t c => some ⟨stop, 35, (p.extractLsb' 0 6), a, b, (t ++ p.extractLsb' 6 1 ++ c)⟩
  | .fcvt stop d a e g q z r => some ⟨stop, 36, d, a, (e ++ g), (0#2 ++ BitVec.ofBool q ++ BitVec.ofBool z ++ r)⟩
  | .fclass stop d a t => some ⟨stop, 37, d, a, 0, (t ++ 0#4)⟩
  | .br stop o => some ⟨stop, 40, (o.extractLsb' 18 6), (o.extractLsb' 12 6), (o.extractLsb' 6 6), (o.extractLsb' 0 6)⟩
  | .bri stop d a i => some ⟨stop, 41, d, a, (i.extractLsb' 6 6), (i.extractLsb' 0 6)⟩
  | .call stop o => some ⟨stop, 42, (o.extractLsb' 18 6), (o.extractLsb' 12 6), (o.extractLsb' 6 6), (o.extractLsb' 0 6)⟩
  | .ret stop a => some ⟨stop, 43, 0, a, 0, 0⟩
  | .loopPush stop a => some ⟨stop, 44, 0, a, 0, 0⟩
  | .loopPop stop => some ⟨stop, 44, 0, 0, 0, 16⟩
  | .loop stop o => some ⟨stop, 44, (o.extractLsb' 12 6), (o.extractLsb' 6 6), (o.extractLsb' 0 6), 32⟩
  | .loops stop f p o => some ⟨stop, 45, f, (p.extractLsb' 0 6), (o.extractLsb' 5 6), (p.extractLsb' 6 1 ++ o.extractLsb' 0 5)⟩
  | .brzm stop o => some ⟨stop, 46, (0#1 ++ o.extractLsb' 18 5), (o.extractLsb' 12 6), (o.extractLsb' 6 6), (o.extractLsb' 0 6)⟩
  | .brnzm stop o => some ⟨stop, 46, (1#1 ++ o.extractLsb' 18 5), (o.extractLsb' 12 6), (o.extractLsb' 6 6), (o.extractLsb' 0 6)⟩
  | .trap stop c => some ⟨stop, 47, (c.extractLsb' 12 6), (c.extractLsb' 6 6), (c.extractLsb' 0 6), 0⟩
  | .svc stop c => some ⟨stop, 47, (c.extractLsb' 12 6), (c.extractLsb' 6 6), (c.extractLsb' 0 6), 1⟩
  | .brk stop c => some ⟨stop, 47, (c.extractLsb' 12 6), (c.extractLsb' 6 6), (c.extractLsb' 0 6), 2⟩
  | .cnarrowOff stop d a b => some ⟨stop, 48, d, a, b, 0⟩
  | .cnarrowLen stop d a b => some ⟨stop, 48, d, a, b, 1⟩
  | .cnarrowBase stop d a b => some ⟨stop, 48, d, a, b, 2⟩
  | .cnarrowiOff stop d a i => some ⟨stop, 48, d, a, i, 32⟩
  | .cnarrowiLen stop d a i => some ⟨stop, 48, d, a, i, 33⟩
  | .cnarrowiBase stop d a i => some ⟨stop, 48, d, a, i, 34⟩
  | .cperm stop d a m => some ⟨stop, 49, d, a, (0#4 ++ m.extractLsb' 6 2), (m.extractLsb' 0 6)⟩
  | .cgetBase stop d a => some ⟨stop, 50, d, a, 0, 0⟩
  | .cgetLen stop d a => some ⟨stop, 50, d, a, 0, 1⟩
  | .cgetPerm stop d a => some ⟨stop, 50, d, a, 0, 2⟩
  | .cgetShape stop d a => some ⟨stop, 50, d, a, 0, 3⟩
  | .cgetTag stop d a => some ⟨stop, 50, d, a, 0, 4⟩
  | .cgetHi stop d a => some ⟨stop, 50, d, a, 0, 5⟩
  | .cgetLo stop d a => some ⟨stop, 50, d, a, 0, 6⟩
  | .cshape stop d a b => some ⟨stop, 51, d, a, b, 0⟩
  | .cmint stop d a b => some ⟨stop, 52, d, a, b, 0⟩
  | .trans stop d a => some ⟨stop, 53, d, a, 0, 0⟩
  | .hgetState stop d a => some ⟨stop, 54, d, a, 0, 0⟩
  | .hgetPage stop d a => some ⟨stop, 54, d, a, 0, 1⟩
  | .hgetSize stop d a => some ⟨stop, 54, d, a, 0, 2⟩
  | .hdrop stop d => some ⟨stop, 54, d, 0, 0, 8⟩
  | .wtake stop d p => some ⟨stop, 56, d, (p.extractLsb' 0 6), 0, (p.extractLsb' 6 1 ++ 0#5)⟩
  | .join stop a i => some ⟨stop, 57, 0, a, (i.extractLsb' 6 6), (i.extractLsb' 0 6)⟩
  | .leave stop a i => some ⟨stop, 58, 0, a, (i.extractLsb' 6 6), (i.extractLsb' 0 6)⟩
  | .stepend stop => some ⟨stop, 59, 0, 0, 0, 0⟩
  | .switch stop => some ⟨stop, 60, 0, 0, 0, 0⟩
  | .yield stop => some ⟨stop, 60, 0, 0, 0, 1⟩
  | .csrr stop d c => some ⟨stop, 61, d, 0, (c.extractLsb' 6 6), (c.extractLsb' 0 6)⟩
  | .csrw stop a c => some ⟨stop, 62, 0, a, (c.extractLsb' 6 6), (c.extractLsb' 0 6)⟩
  | .codeswap stop a b => some ⟨stop, 63, 0, a, b, 0⟩
  | .trapret stop => some ⟨stop, 63, 0, 0, 0, 1⟩
  | .vadd stop d a b c o v => some ⟨stop, 64, d, a, b, (BitVec.ofBool c ++ BitVec.ofBool o ++ v)⟩
  | .vsub stop d a b c o v => some ⟨stop, 65, d, a, b, (BitVec.ofBool c ++ BitVec.ofBool o ++ v)⟩
  | .vmul stop d a b c o v => some ⟨stop, 66, d, a, b, (BitVec.ofBool c ++ BitVec.ofBool o ++ v)⟩
  | .vfma stop d a b c o v => some ⟨stop, 67, d, a, b, (BitVec.ofBool c ++ BitVec.ofBool o ++ v)⟩
  | .vfms stop d a b c o v => some ⟨stop, 68, d, a, b, (BitVec.ofBool c ++ BitVec.ofBool o ++ v)⟩
  | .vmin stop d a b c v => some ⟨stop, 69, d, a, b, (BitVec.ofBool c ++ 0#1 ++ v)⟩
  | .vmax stop d a b c v => some ⟨stop, 69, d, a, b, (BitVec.ofBool c ++ 1#1 ++ v)⟩
  | .vdiv stop d a b c v => some ⟨stop, 70, d, a, b, (BitVec.ofBool c ++ 0#1 ++ v)⟩
  | .vsqrt stop d a v => some ⟨stop, 71, d, a, 0, (0#2 ++ v)⟩
  | .vrcpe stop d a => some ⟨stop, 72, d, a, 0, 0⟩
  | .vrsqrte stop d a => some ⟨stop, 72, d, a, 0, 1⟩
  | .vexp2e stop d a => some ⟨stop, 72, d, a, 0, 2⟩
  | .vlog2e stop d a => some ⟨stop, 72, d, a, 0, 3⟩
  | .vand stop d a b c => some ⟨stop, 73, d, a, b, (BitVec.ofBool c ++ 0#5)⟩
  | .vor stop d a b c => some ⟨stop, 73, d, a, b, (BitVec.ofBool c ++ 1#5)⟩
  | .vxor stop d a b c => some ⟨stop, 73, d, a, b, (BitVec.ofBool c ++ 2#5)⟩
  | .vandn stop d a b c => some ⟨stop, 73, d, a, b, (BitVec.ofBool c ++ 3#5)⟩
  | .vorn stop d a b c => some ⟨stop, 73, d, a, b, (BitVec.ofBool c ++ 4#5)⟩
  | .vxnor stop d a b c => some ⟨stop, 73, d, a, b, (BitVec.ofBool c ++ 5#5)⟩
  | .vnand stop d a b c => some ⟨stop, 73, d, a, b, (BitVec.ofBool c ++ 6#5)⟩
  | .vnor stop d a b c => some ⟨stop, 73, d, a, b, (BitVec.ofBool c ++ 7#5)⟩
  | .vshl stop d a b c w => some ⟨stop, 74, d, a, b, (BitVec.ofBool c ++ 0#3 ++ w)⟩
  | .vshr stop d a b c w => some ⟨stop, 74, d, a, b, (BitVec.ofBool c ++ 1#3 ++ w)⟩
  | .vsar stop d a b c w => some ⟨stop, 74, d, a, b, (BitVec.ofBool c ++ 2#3 ++ w)⟩
  | .vrol stop d a b c w => some ⟨stop, 74, d, a, b, (BitVec.ofBool c ++ 3#3 ++ w)⟩
  | .vror stop d a b c w => some ⟨stop, 74, d, a, b, (BitVec.ofBool c ++ 4#3 ++ w)⟩
  | .vcvt stop d a e g r p => some ⟨stop, 75, d, a, (e ++ g.extractLsb' 2 2), (g.extractLsb' 0 2 ++ BitVec.ofBool r ++ p)⟩
  | .vcmp stop y c a b x v => some ⟨stop, 76, (0#2 ++ BitVec.ofBool y ++ c), a, b, (BitVec.ofBool x ++ 0#1 ++ v)⟩
  | .mpush stop a => some ⟨stop, 77, 0, a, 0, 0⟩
  | .mpushRaw stop a => some ⟨stop, 77, 0, a, 0, 1⟩
  | .mpushX stop a => some ⟨stop, 77, 0, a, 0, 2⟩
  | .mpushXRaw stop a => some ⟨stop, 77, 0, a, 0, 3⟩
  | .minv stop => some ⟨stop, 77, 0, 0, 0, 8⟩
  | .mpop stop n => some ⟨stop, 77, 0, 0, (0#2 ++ n), 16⟩
  | .mdup stop => some ⟨stop, 77, 0, 0, 0, 24⟩
  | .mall stop => some ⟨stop, 77, 0, 0, 0, 32⟩
  | .vbcast stop d a w => some ⟨stop, 78, d, a, 0, (0#4 ++ w)⟩
  | .vext stop d a b x i w => some ⟨stop, 78, d, a, b, (BitVec.ofBool x ++ BitVec.ofBool i ++ 1#2 ++ w)⟩
  | .vins stop d a b i w => some ⟨stop, 78, d, a, b, (0#1 ++ BitVec.ofBool i ++ 2#2 ++ w)⟩
  | .vperm stop d a b => some ⟨stop, 79, d, a, b, 0⟩
  | .vperm2 stop d a b => some ⟨stop, 79, d, a, b, 1⟩
  | .vpermB stop d a b => some ⟨stop, 79, d, a, b, 2⟩
  | .vxswz stop d a b => some ⟨stop, 79, d, a, b, 16⟩
  | .vxswzi stop d a i => some ⟨stop, 79, d, a, i, 17⟩
  | .vredAdd stop d a v => some ⟨stop, 80, d, a, 0, (0#2 ++ v)⟩
  | .vredMin stop d a v => some ⟨stop, 80, d, a, 0, (1#2 ++ v)⟩
  | .vredMax stop d a v => some ⟨stop, 80, d, a, 0, (2#2 ++ v)⟩
  | .vdot stop d a b c sat v => some ⟨stop, 81, d, a, b, (BitVec.ofBool c ++ BitVec.ofBool sat ++ v)⟩
  | .viota stop d a b w => some ⟨stop, 82, d, a, b, (0#4 ++ w)⟩
  | .viotaM stop d => some ⟨stop, 82, d, 0, 0, 8⟩
  | .vabs stop d a x v => some ⟨stop, 83, d, a, 0, (BitVec.ofBool x ++ 0#1 ++ v)⟩
  | .vneg stop d a x v => some ⟨stop, 83, d, a, 0, (BitVec.ofBool x ++ 1#1 ++ v)⟩
  | .vseed stop a => some ⟨stop, 84, 0, a, 0, 0⟩
  | .vseedX stop a => some ⟨stop, 84, 0, a, 0, 1⟩
  | .vseedrd stop d => some ⟨stop, 84, d, 0, 0, 2⟩
  | .vmov stop d a => some ⟨stop, 85, d, a, 0, 0⟩
  | .vmovZ stop d a => some ⟨stop, 85, d, a, 0, 1⟩
  | .vmovM stop d => some ⟨stop, 85, d, 0, 0, 2⟩
  | .lds stop d a b i c x z => some ⟨stop, 88, d, a, b, (0#1 ++ BitVec.ofBool i ++ BitVec.ofBool c ++ BitVec.ofBool x ++ z)⟩
  | .sts stop d a b i c z => some ⟨stop, 89, d, a, b, (0#1 ++ BitVec.ofBool i ++ BitVec.ofBool c ++ 0#1 ++ z)⟩
  | .ldf stop d a b i w x => some ⟨stop, 90, d, a, b, (0#1 ++ BitVec.ofBool i ++ BitVec.ofBool w ++ BitVec.ofBool x ++ 0#2)⟩
  | .ldfe stop d a b i w x => some ⟨stop, 90, d, a, b, (0#1 ++ BitVec.ofBool i ++ BitVec.ofBool w ++ BitVec.ofBool x ++ 1#2)⟩
  | .ste stop d a b i w => some ⟨stop, 91, d, a, b, (0#1 ++ BitVec.ofBool i ++ BitVec.ofBool w ++ 0#3)⟩
  | .stf stop d a b i w => some ⟨stop, 91, d, a, b, (0#1 ++ BitVec.ofBool i ++ BitVec.ofBool w ++ 1#3)⟩
  | .tagclr stop a b i w => some ⟨stop, 91, 0, a, b, (0#1 ++ BitVec.ofBool i ++ BitVec.ofBool w ++ 2#3)⟩
  | .vld stop d a => some ⟨stop, 92, d, a, 0, 0⟩
  | .vldBank stop d a => some ⟨stop, 92, d, a, 0, 1⟩
  | .vldStr stop d a b => some ⟨stop, 92, d, a, b, 2⟩
  | .vldG stop d c b z => some ⟨stop, 92, d, (0#2 ++ c), b, (0#2 ++ BitVec.ofBool z ++ 4#3)⟩
  | .vst stop d a => some ⟨stop, 93, d, a, 0, 0⟩
  | .vstBank stop d a => some ⟨stop, 93, d, a, 0, 1⟩
  | .vstStr stop d a b => some ⟨stop, 93, d, a, b, 2⟩
  | .vstG stop d c b n => some ⟨stop, 93, d, (0#2 ++ c), b, (0#1 ++ BitVec.ofBool n ++ 4#4)⟩
  | .vldg stop d a b => some ⟨stop, 94, d, a, b, 0⟩
  | .vldgG stop d c b z => some ⟨stop, 94, d, (0#2 ++ c), b, (0#2 ++ BitVec.ofBool z ++ 4#3)⟩
  | .vstg stop d a b => some ⟨stop, 94, d, a, b, 1⟩
  | .vstgG stop d c b n => some ⟨stop, 94, d, (0#2 ++ c), b, (0#1 ++ BitVec.ofBool n ++ 5#4)⟩
  | .vldt stop d a b e => some ⟨stop, 95, d, a, b, (0#4 ++ e)⟩
  | .ldg stop d h b i zp x z => some ⟨stop, 96, d, (0#2 ++ h), b, (0#1 ++ BitVec.ofBool i ++ BitVec.ofBool zp ++ BitVec.ofBool x ++ z)⟩
  | .stg stop d h b i n z => some ⟨stop, 97, d, (0#2 ++ h), b, (0#1 ++ BitVec.ofBool i ++ BitVec.ofBool n ++ 0#1 ++ z)⟩
  | .lda stop d h b z c => some ⟨stop, 98, d, (0#2 ++ h), b, (0#1 ++ z ++ c)⟩
  | .sta stop d h b z c => some ⟨stop, 98, d, (0#2 ++ h), b, (1#1 ++ z ++ c)⟩
  | .atomSwap stop d r c b w x => some ⟨stop, 99, d, (r ++ c), b, (0#4 ++ BitVec.ofBool w ++ BitVec.ofBool x)⟩
  | .atomCas stop d r c b w x => some ⟨stop, 99, d, (r ++ c), b, (1#4 ++ BitVec.ofBool w ++ BitVec.ofBool x)⟩
  | .atomAdd stop d r c b w x => some ⟨stop, 99, d, (r ++ c), b, (2#4 ++ BitVec.ofBool w ++ BitVec.ofBool x)⟩
  | .atomAnd stop d r c b w x => some ⟨stop, 99, d, (r ++ c), b, (3#4 ++ BitVec.ofBool w ++ BitVec.ofBool x)⟩
  | .atomOr stop d r c b w x => some ⟨stop, 99, d, (r ++ c), b, (4#4 ++ BitVec.ofBool w ++ BitVec.ofBool x)⟩
  | .atomXor stop d r c b w x => some ⟨stop, 99, d, (r ++ c), b, (5#4 ++ BitVec.ofBool w ++ BitVec.ofBool x)⟩
  | .atomMinS stop d r c b w x => some ⟨stop, 99, d, (r ++ c), b, (6#4 ++ BitVec.ofBool w ++ BitVec.ofBool x)⟩
  | .atomMaxS stop d r c b w x => some ⟨stop, 99, d, (r ++ c), b, (7#4 ++ BitVec.ofBool w ++ BitVec.ofBool x)⟩
  | .atomMinZ stop d r c b w x => some ⟨stop, 99, d, (r ++ c), b, (8#4 ++ BitVec.ofBool w ++ BitVec.ofBool x)⟩
  | .atomMaxZ stop d r c b w x => some ⟨stop, 99, d, (r ++ c), b, (9#4 ++ BitVec.ofBool w ++ BitVec.ofBool x)⟩
  | .atomFadd stop d r c b w x => some ⟨stop, 99, d, (r ++ c), b, (10#4 ++ BitVec.ofBool w ++ BitVec.ofBool x)⟩
  | .atomFmin stop d r c b w x => some ⟨stop, 99, d, (r ++ c), b, (11#4 ++ BitVec.ofBool w ++ BitVec.ofBool x)⟩
  | .atomFmax stop d r c b w x => some ⟨stop, 99, d, (r ++ c), b, (12#4 ++ BitVec.ofBool w ++ BitVec.ofBool x)⟩
  | .atomx stop d r c b i => some ⟨stop, 100, d, (r ++ c), b, i⟩
  | .fence stop u e t m p q c => some ⟨stop, 101, 0, 0, (0#3 ++ BitVec.ofBool u ++ BitVec.ofBool e ++ BitVec.ofBool t), (BitVec.ofBool m ++ BitVec.ofBool p ++ BitVec.ofBool q ++ c)⟩
  | .prefetch stop d c b o => some ⟨stop, 102, d, (0#2 ++ c), b, (0#3 ++ BitVec.ofBool o ++ 0#2)⟩
  | .flush stop d c b o => some ⟨stop, 102, d, (0#2 ++ c), b, (0#3 ++ BitVec.ofBool o ++ 1#2)⟩
  | .discard stop d c b => some ⟨stop, 102, d, (0#2 ++ c), b, 2⟩
  | .sbopFill stop d c b r n => some ⟨stop, 103, d, (0#2 ++ c), b, (BitVec.ofBool r ++ n)⟩
  | .sbopAdd stop d c b r n => some ⟨stop, 103, d, (1#2 ++ c), b, (BitVec.ofBool r ++ n)⟩
  | .sbopFadd stop d c b r n => some ⟨stop, 103, d, (2#2 ++ c), b, (BitVec.ofBool r ++ n)⟩
  | .sbopMax stop d c b r n => some ⟨stop, 103, d, (3#2 ++ c), b, (BitVec.ofBool r ++ n)⟩
  | .mma stop d a b g bs z f => some ⟨stop, 108, d, a, b, (BitVec.ofBool g ++ BitVec.ofBool bs ++ BitVec.ofBool z ++ f)⟩
  | .nset stop a i => some ⟨stop, 109, 0, a, i, 0⟩
  | .nsetA stop a i => some ⟨stop, 109, 0, a, i, 1⟩
  | .nget stop d i => some ⟨stop, 109, d, 0, i, 2⟩
  | .ngetA stop d i => some ⟨stop, 109, d, 0, i, 3⟩
  | .ngo stop d => some ⟨stop, 110, d, 0, 0, 0⟩
  | .ngoM stop d a b => some ⟨stop, 110, d, a, b, 1⟩
  | .accrd stop d a b => some ⟨stop, 111, d, a, b, 0⟩
  | .accwr stop d a b => some ⟨stop, 111, d, a, b, 1⟩
  | .accz stop d => some ⟨stop, 111, d, 0, 0, 2⟩
  | .obcast stop d a b l => some ⟨stop, 112, d, a, b, l⟩
  | .mopen stop d a b n => some ⟨stop, 113, d, a, b, (0#1 ++ n)⟩
  | .accmerge stop d a b n z k => some ⟨stop, 113, d, a, b, (1#1 ++ n ++ BitVec.ofBool z ++ k)⟩
  | .copy stop d a b c h => some ⟨stop, 114, d, a, b, (c ++ h)⟩
  | .send stop d a b l h => some ⟨stop, 115, d, a, b, (l ++ h)⟩
  | .fbind stop d a => some ⟨stop, 116, d, a, 0, 0⟩
  | .funbind stop d => some ⟨stop, 116, d, 0, 0, 1⟩
  | .fpush stop d a => some ⟨stop, 116, d, a, 0, 2⟩
  | .fpushEos stop d a => some ⟨stop, 116, d, a, 0, 3⟩
  | .fpop stop d a => some ⟨stop, 116, d, a, 0, 4⟩
  | .coll stop d a b => some ⟨stop, 117, d, a, b, 0⟩
  | .clopen stop d a h => some ⟨stop, 118, d, a, 0, (0#4 ++ h)⟩
  | .clclose stop d h => some ⟨stop, 118, d, 0, 0, (4#4 ++ h)⟩
  | .trsel stop d a b => some ⟨stop, 119, d, a, b, 0⟩
  | .trexp stop d a b => some ⟨stop, 119, d, a, b, 1⟩
  | .trback stop d a b => some ⟨stop, 119, d, a, b, 2⟩
  | .trbackVo stop d a b => some ⟨stop, 119, d, a, b, 10⟩
  | .trroot stop d a b => some ⟨stop, 119, d, a, b, 3⟩
  | .trpoolInit stop d a b => some ⟨stop, 119, d, a, b, 4⟩
  | .trpoolParam stop d a b => some ⟨stop, 119, d, a, b, 12⟩
  | .qbgate stop d a b n k => some ⟨stop, 120, d, a, b, (0#1 ++ n ++ k)⟩
  | .qbdiag stop d a b n k => some ⟨stop, 120, d, a, b, (1#1 ++ n ++ k)⟩
  | .qbmap stop d a b => some ⟨stop, 121, d, a, b, 0⟩
  | .qbmapSet stop d b => some ⟨stop, 121, d, 0, b, 1⟩
  | .qbmapGet stop d b => some ⟨stop, 121, d, 0, b, 2⟩
  | .qbmapEnd stop d => some ⟨stop, 121, d, 0, 0, 3⟩
  | .qbswap stop d a => some ⟨stop, 121, d, a, 0, 8⟩
  | .qbnorm stop d b => some ⟨stop, 121, d, 0, b, 16⟩
  | .qbprob stop d a b => some ⟨stop, 121, d, a, b, 17⟩
  | .qbcoll stop d a b => some ⟨stop, 121, d, a, b, 18⟩
  | .twait stop a => some ⟨stop, 122, 0, a, 0, 0⟩
  | .twaitCh stop c => some ⟨stop, 122, 0, 0, c, 1⟩
  | .tstat stop d a => some ⟨stop, 122, d, a, 0, 2⟩
  | .tstatLog stop d c => some ⟨stop, 122, d, 0, c, 3⟩
  | .waitc stop a i k => some ⟨stop, 123, 0, a, i, (0#4 ++ k)⟩
  | .barinit stop a b => some ⟨stop, 124, 0, a, b, 0⟩
  | .bararr stop d a => some ⟨stop, 124, d, a, 0, 1⟩
  | .barexp stop d a b => some ⟨stop, 124, d, a, b, 2⟩
  | .barwait stop d a b => some ⟨stop, 124, d, a, b, 3⟩
  | .bartry stop p a b => some ⟨stop, 124, (p.extractLsb' 0 6), a, b, (p.extractLsb' 6 1 ++ 4#5)⟩
  | .trigat stop d a b => some ⟨stop, 125, d, a, b, 0⟩
  | .trigcnt stop d a b => some ⟨stop, 125, d, a, b, 1⟩
  | .trigcan stop d a => some ⟨stop, 125, d, a, 0, 2⟩
  | .qdepth stop n => some ⟨stop, 126, 0, 0, n, 0⟩
  | .qdepthX stop a => some ⟨stop, 126, 0, a, 0, 1⟩
  | .qstat stop d n => some ⟨stop, 126, d, 0, n, 2⟩
  | .qmode stop a => some ⟨stop, 126, 0, a, 0, 3⟩
  | .qmodei stop m => some ⟨stop, 126, (m.extractLsb' 6 6), (m.extractLsb' 0 6), 0, 4⟩
  | .steal .. => none
  | .stealRetry .. => none
  | .columnDispatch .. => none
  | .taskAging .. => none
  | .preemptRequest .. => none
  | .forcedSave .. => none
  | .saveComplete .. => none
  | .tagTimeout .. => none
  | .transComplete .. => none
  | .replayDepart .. => none
  | .nestComplete .. => none
  | .mergeOpen .. => none
  | .mergeContribute .. => none
  | .mergeClose .. => none
  | .mergeResend .. => none
  | .charmRun .. => none
  | .charmTimeout .. => none
  | .shootdown .. => none
  | .shootdownComplete .. => none
  | .cowCopy .. => none
  | .cowCopyComplete .. => none
  | .snapReturn .. => none
  | .snapLogTailWrite .. => none
  | .snapLogBaseWrite .. => none
  | .snapPoolPagesWrite .. => none
  | .softErrorCorrected .. => none
  | .softErrorUncorrected .. => none
  | .hostMemAccess .. => none
  | .tceCommandStart .. => none
  | .sendChannelStart .. => none
  | .commandFinish .. => none
  | .batchTimeout .. => none
  | .reserveSlot .. => none
  | .endOfWalk .. => none
  | .zhoaskFetch .. => none
  | .cpCommandStart .. => none
  | .cpCommandComplete .. => none
  | .launch .. => none
  | .cpCopy .. => none
  | .signal .. => none
  | .wait .. => none
  | .waitPoll .. => none
  | .snap .. => none
  | .cpCodeswap .. => none
  | .codeswapCompletion .. => none
  | .tableWrite .. => none
  | .tableArm .. => none
  | .tableSwitch .. => none
  | .launchComplete .. => none
  | .slotStart .. => none
  | .flitReceive .. => none
  | .ack .. => none
  | .sync .. => none
  | .hold .. => none
  | .read .. => none
  | .write .. => none
  | .wblk .. => none
  | .rblk .. => none
  | .atom .. => none
  | .charm .. => none
  | .fifo .. => none
  | .resp .. => none
  | .done .. => none
  | .refuse .. => none
  | .flushRecord .. => none
  | .claspOpen .. => none
  | .claspClose .. => none
  | .claspCommitted .. => none
  | .claspAbort .. => none
  | .claspStatusQuery .. => none
  | .collStart .. => none
  | .collAbort .. => none
  | .collFinished .. => none
  | .collData .. => none
  | .retransmitTimeout .. => none
  | .ackTimer .. => none
  | .e2eTimeout .. => none
  | .retryResend .. => none
  | .holdTimer .. => none
  | .collTimeout .. => none
  | .lineWeak .. => none
  | .lineDrift .. => none
  | .lineLost .. => none
  | .combLost .. => none
  | .syncLost .. => none
  | .syncRestored .. => none
  | .retuneComplete .. => none
  | .portRequalify .. => none
  | .ofuEventRead .. => none
  | .ofuCredSelWrite .. => none
  | .ageCommandStart .. => none
  | .triggerFire .. => none
  | .barrierSubtract .. => none
  | .gtStep .. => none
  | .asyncFaultDelivery .. => none
  | .pfRequestWrite .. => none
  | .pfAnswer .. => none
  | .fltKill .. => none
  | .dbgAttach .. => none
  | .dbgHalt .. => none
  | .dbgStep .. => none
  | .dbgRelease .. => none
  | .dbgRegRead .. => none
  | .dbgRegWrite .. => none
  | .coldReset .. => none
  | .bootPeerWrite .. => none
  | .initComplete .. => none
  | .recoveryGo .. => none
  | .flashUpdateComplete .. => none
  | .sigCmd .. => none
  | .marginWarning .. => none
  | .arbiterInterval .. => none
  | .pwrEventRead .. => none
  | .packagePowerClamp .. => none
  | .packagePowerRelease .. => none
  | .thermalTrip .. => none
  | .registerWrite .. => none
  | .steCommandStart .. => none
  | .bangleCollStart .. => none
  | .hostLinkCompletion .. => none
  | .powerLoss .. => none

/-- The word of a slot instruction; an event has no encoding. -/
def encode (i : Instr) : Option (BitVec 32) := i.fields.map Fields.word

/-- The instruction the decoder reads from a slot of `nbits` bits whose bits are `w`. Every slot is one word of 32 bits
(R80); a shorter row has zeros above its bits, and a longer one is no slot. -/
noncomputable def decodeTableWord (nbits w : Nat) : Option Instr :=
  if nbits ≤ 32 then (decode (BitVec.ofNat 32 w)).toOption else none

end Sys2Proof
end

