-- ==== Sys2Proof/Machine/Sparse.lean ====
section
/-! DEFINITION. Stores held as lists of (key, entry) pairs with rising keys: memories, register files, tables. -/
namespace Sys2Proof.Machine

/-- Entries by key, keys rising; an unlisted key reads as a default that the reader names. -/
abbrev Sparse (α : Type) := List (Nat × α)

/-- The entry of key `a`, if one is listed. -/
def Sparse.find {α : Type} : Sparse α → Nat → Option α
  | [], _ => none
  | e :: m, a => if e.1 = a then some e.2 else Sparse.find m a

/-- The entry of key `a`, or the default. -/
def Sparse.get {α : Type} (dflt : α) (m : Sparse α) (a : Nat) : α := (m.find a).getD dflt

/-- The keys of `[lo, lo + n)` replaced by the entries `xs`. -/
def Sparse.splice {α : Type} (m : Sparse α) (lo n : Nat) (xs : List (Nat × α)) : Sparse α :=
  m.filter (fun e => e.1 < lo) ++ xs ++ m.filter (fun e => lo + n ≤ e.1)

/-- The entry of key `k` replaced. -/
def Sparse.put {α : Type} (m : Sparse α) (k : Nat) (v : α) : Sparse α := m.splice k 1 [(k, v)]

/-- The entries of `[lo, lo + n)` replaced by those of `f`, counted from 0. -/
def Sparse.putRange {α : Type} (m : Sparse α) (lo n : Nat) (f : Nat → α) : Sparse α :=
  m.splice lo n ((List.range n).map fun i => (lo + i, f i))

/-- As `putRange`, in the canonical form: a default entry is not listed. -/
def Sparse.setRange {α : Type} [DecidableEq α] (dflt : α) (m : Sparse α) (lo n : Nat) (f : Nat → α) : Sparse α :=
  m.splice lo n ((List.range n).filterMap fun i => if f i = dflt then none else some (lo + i, f i))

/-- The canonical form: keys strictly rising, no entry equal to the default. -/
def Sparse.wf {α : Type} [DecidableEq α] (dflt : α) (m : Sparse α) : Bool :=
  decide (m.Pairwise fun x y => x.1 < y.1) && m.all fun e => e.2 ≠ dflt

/-- The entry of key `k` dropped. -/
def Sparse.del {α : Type} (m : Sparse α) (k : Nat) : Sparse α := m.filter fun e => e.1 ≠ k

/-- The byte memory: an unlisted byte reads as 0, the value boot writes (R203). -/
abbrev Memory := Sparse Byte
/-- One byte. -/
def Memory.byte (m : Memory) (a : Nat) : Byte := Sparse.get 0 m a
/-- `n` bytes from `lo` on written. -/
def Memory.write (m : Memory) (lo n : Nat) (f : Nat → Byte) : Memory := Sparse.setRange 0 m lo n f
/-- `n` bytes from `lo` on zeroed. -/
def Memory.zero (m : Memory) (lo n : Nat) : Memory := m.splice lo n []
/-- The canonical form of a memory. -/
def Memory.wf (m : Memory) : Bool := Sparse.wf 0 m
/-- `n` bytes as a little-endian number (R5). -/
def Memory.read (m : Memory) (lo : Nat) : Nat → Nat
  | 0 => 0
  | n + 1 => (m.byte lo).toNat + 256 * Memory.read m (lo + 1) n
/-- The low `n` bytes of a number, little-endian (R5). -/
def Memory.writeNat (m : Memory) (lo n v : Nat) : Memory :=
  m.write lo n fun i => BitVec.ofNat 8 (v / 256 ^ i)

/-- A set of keys, rising. -/
abbrev KeySet := List Nat
/-- The keys of `[lo, lo + n)` become members exactly where `f` says, counted from 0. -/
def KeySet.setRange (m : KeySet) (lo n : Nat) (f : Nat → Bool) : KeySet :=
  m.filter (fun k => k < lo) ++ ((List.range n).filter f).map (fun i => lo + i) ++ m.filter (fun k => lo + n ≤ k)

/-- The keys of `[lo, lo + n)` dropped. -/
def KeySet.clear (m : KeySet) (lo n : Nat) : KeySet := m.filter fun k => k < lo ∨ lo + n ≤ k

end Sys2Proof.Machine
end

