-- ==== Sys2Proof/Machine/State.lean ====
section
/-! DEFINITION. The machine's state: every piece the spec names, as plain data, and the state after reset. -/
namespace Sys2Proof.Machine

/-! ## Registers of a context (R106) -/

/-- A capability register: 128 bits, tag, poison (R139). -/
structure Cap where
  bits : BitVec 128 := 0
  tag : Bool := false
  psn : Bool := false
deriving DecidableEq, Repr

/-- Handle states of R109. -/
inductive HandleState where
  | empty | pending | valid | stale
deriving DecidableEq, Repr

/-- Why an EMPTY handle is empty (R109, R145): never filled, a walk that found no present page, such a walk whose page a use
has already asked for, or a walk that failed with a cause. -/
inductive WalkRecord where
  | none | absent | asked | failed (cause : BitVec 8)
deriving DecidableEq, Repr

/-- A handle register: state, virtual page, page size as R142 codes it, the leaf entry with the frame, and the record of R145. -/
structure Handle where
  st : HandleState := .empty
  page : Word64 := 0
  size : Nat := 0
  leaf : Word64 := 0
  walk : WalkRecord := .none
deriving DecidableEq, Repr

/-- A FIFO link register (R106, R320). -/
structure FLink where
  valid : Bool := false
  peer : BitVec 14 := 0
  endp : BitVec 8 := 0
deriving DecidableEq, Repr

/-- The registers of one context bank (R106, R112). -/
structure Regs where
  /-- x0 to x63; x0 is never listed (R108). -/
  x : Sparse (Val 64) := []
  /-- p0 to p95; p0 is never listed (R108). -/
  p : Sparse (Val 1) := []
  /-- Lane `l` of vN at key 64 N + l. -/
  v : Sparse (Val 32) := []
  /-- The 64 Seeds (R36). -/
  seed : List (BitVec 32) := (List.range 64).map fun i => BitVec.ofNat 32 (i + 1)
  /-- The mask stack's entries, the bottom first; MDEPTH is their number (R113, R166). -/
  mask : List Word64 := []
  c : Sparse Cap := []
  h : Sparse Handle := []
  t : Sparse (Val 32) := []
  f : Sparse FLink := []
  /-- Element (r, j) of bank aN at key 16384 N + 128 r + j (R177). -/
  a : Sparse (Val 32) := []
  /-- lc0 to lc3 and LDEPTH (R136). -/
  lc : List (BitVec 32) := [0, 0, 0, 0]
  ldepth : Nat := 0
  /-- Nest registers by the index of R188, shadow and active copies; N.STATE. -/
  nshadow : Sparse Word64 := []
  nactive : Sparse Word64 := []
  nrun : Bool := false
  nsteps : BitVec 40 := 0
  /-- CTX.FCSR: RM in bits 9:8, flags in bits 4:0 (R38). -/
  fcsr : BitVec 32 := 0
  /-- The fields of CTX.XSTAT (R62). -/
  launch : BitVec 16 := 0
  task : BitVec 12 := 0
  qdepth : BitVec 7 := 0
  prio : BitVec 2 := 0
  openStep : Bool := false
  wrlo : BitVec 41 := 0
  wrhi : BitVec 41 := 0
  step : BitVec 41 := 0
  /-- CTX.QMODE (R303). -/
  qmode : Word64 := 0
  lodS : BitVec 48 := 0
  lodVL : BitVec 48 := 0
  lodVA : BitVec 48 := 0
  /-- FF.CTL.LOST, ACT and MODE (R415); PEND is the number of pending records. -/
  lost : Bool := false
  act : Bool := false
  mode : BitVec 2 := 0
  /-- The frame CSRs by number, 0x011 to 0x03E (R416). -/
  ff : Sparse Word64 := []
deriving DecidableEq, Repr

/-- A cause with FF.ADDR and FF.INFO (R411). -/
structure Trap where
  cause : BitVec 8
  addr : Word64 := 0
  info : Word64 := 0
deriving DecidableEq, Repr

/-! ## Issued bundles (R51, R53, R54, R418) -/

/-- A slot that S has placed and that has not taken effect: its index in the bundle, its word, the IMM24 of its LIMM, the
token values its DEPS read, and the token that S gave a slot of the MX queue at issue (R389). -/
structure QSlot where
  idx : Nat
  word : BitVec 32
  exu : ExecUnit := .s
  limm : Option (BitVec 24) := none
  deps : List (BitVec 32) := []
  tok : Option (BitVec 32) := none
deriving DecidableEq, Repr

/-- What a slot that ends its bundle asks for (R138): TRAP, SVC or BRK with its code. -/
inductive EndTrap where
  | trap (slot : Nat) (code : BitVec 18) | svc (slot : Nat) (code : BitVec 18) | brk (slot : Nat) (code : BitVec 18)
deriving DecidableEq, Repr

/-- An issued bundle: its S slots and its queue slots that have not taken effect (R51), with the registers read at issue
(R54), the index of the slot that runs, the flags the bundle has set (R90), the taken transfer's target, and the trap that
waits for the bundle's end (R138). -/
structure Issue where
  addr : Word64 := 0
  next : Word64 := 0
  todo : List QSlot := []
  cur : Nat := 0
  old : Regs := {}
  flags : BitVec 5 := 0
  target : Option Word64 := none
  endTrap : Option EndTrap := none
  /-- A TRAPRET of the bundle returns at its end. -/
  ret : Bool := false
  /-- The queue that the running slot found full, by its stall counter's CSR (R409); 0 for a channel without room for a token
(R389). -/
  full : Option Nat := none
  /-- The number of the bundle among those the context has issued (R55). -/
  num : Nat := 0
  /-- CORE CSRs that its slots have written, as they stood at issue (R54), and NEXT of each channel at issue (R393). -/
  coreOld : Sparse Word64 := []
  nexts : Sparse (BitVec 26) := []
deriving DecidableEq, Repr

/-- The images of R414: the slots that have not taken effect, with what they read at issue: those of the S sequencer's bundle in
`issue`, those of the bundles before it in `older`, the oldest first; the registers as they were when the image was made; `stamp`
numbers the opaque bytes that stand for it in the save slot. -/
structure Image where
  issue : Issue := {}
  older : List Issue := []
  regs : Regs := {}
  stamp : Nat := 0
  /-- The bundles that the context had issued then. -/
  last : Nat := 0
deriving DecidableEq, Repr

/-! ## Tokens, pending records, waits -/

/-- One token channel (R388, R390, R392): NEXT, the watermark W, the finished sequences at or above W, those of them that failed, the
fault log and OVF. -/
structure Chan where
  next : BitVec 26 := 0
  w : BitVec 26 := 0
  done : List (BitVec 26) := []
  bad : List (BitVec 26) := []
  log : List (BitVec 26 × BitVec 8) := []
  ovf : Bool := false
deriving DecidableEq, Repr

/-- A fault of asynchronous origin, as recorded (R421) and as FFn shows it (R416). -/
structure AsyncRec where
  cause : BitVec 8
  addr : Word64 := 0
  info : Word64 := 0
  token : BitVec 32 := 0
  issue : Word64 := 0
  prog : BitVec 40 := 0
  oper : List Word64 := []
deriving DecidableEq, Repr

/-- Kinds of access in a page request (R423). -/
inductive AccessKind where
  | read | write | fetch | atomic
deriving DecidableEq, Repr

/-- One page request of a blocking (R422 to R424): the address, the kind, whether it is in the host ring, and its answer. -/
structure PfReq where
  va : Word64
  kind : AccessKind
  sent : Bool := false
  answer : Option Bool := none   -- some true RESOLVED, some false DENIED
  /-- Who made the access: the unit's code, the slot, its bundle and that bundle's number, 0 for an entry of the replay queue; or the fetch
  of a bundle (R417). -/
  num : Nat := 0
  seq : Nat := 0
  slot : Nat := 0
  issued : Word64 := 0
  fetch : Bool := false
deriving DecidableEq, Repr

/-- An armed trigger of the trigger unit (R404, R406): its context's placement, task and space, its id, kind, threshold and
channel, and what it writes. -/
structure Trigger where
  inc : Nat
  core : Nat
  asid : Nat
  id : Nat
  isTime : Bool
  thresh : Word64
  chan : Nat := 0
  va : Word64 := 0
  value : Word64 := 0
  add : Bool := false
deriving DecidableEq, Repr

/-- A write-combining buffer (R254): the 64-byte block's address, and its bytes with the byte-valid mask. -/
structure WcBuf where
  pa : Nat
  bytes : Sparse (Val 8) := []
deriving DecidableEq, Repr

/-! ## A context bank -/

/-- The occupancy of a bank (R48, R49, R422, R430). -/
inductive Occupancy where
  | none | resident | saving
deriving DecidableEq, Repr

/-- A pre-emption request (R385): when it was made, and the entry that waits for the bank. -/
structure Preempt where
  at_ : Nat
  launch : Nat
  task : Nat
deriving DecidableEq, Repr

/-- One context bank (R48). -/
structure Ctx where
  occ : Occupancy := .none
  /-- The model's own: the number of the placement, which the commands it issues carry. -/
  inc : Nat := 0
  regs : Regs := {}
  pc : Word64 := 0
  /-- The PC must pass the check of R82 before the bundle there issues (R147, R414, R420). -/
  chk : Bool := false
  /-- The bundle of the S sequencer: issued, with S slots that have not taken effect. While a queue runs a slot of an older bundle,
that bundle stands here, between those before it and those after it (R48, R55). -/
  issue : Issue := {}
  /-- Issued bundles whose S slots have taken effect and that have queue slots which have not, the oldest first. -/
  older : List Issue := []
  younger : List Issue := []
  /-- The images of R414 at levels 1 and 2, and their ISSUE record. -/
  img1 : Option Image := Option.none
  img2 : Option Image := Option.none
  /-- GEN and the outstanding page requests of the blocking (R422). -/
  gen : BitVec 16 := 0
  pf : List PfReq := []
  pend : List AsyncRec := []
  chans : Sparse Chan := []
  wc : List WcBuf := []
  /-- The GT at which a WTAKE that found no range makes its next pass (R63); 0 when none waits. -/
  retry : Nat := 0
  /-- A pre-emption request is pending (R66, R76); in an empty bank, the entry that the bank is reserved for (R385). -/
  preempt : Option Preempt := Option.none
  /-- NEXT of each channel when the open step was granted (R66). -/
  mark : Sparse (BitVec 26) := []
  /-- The dispatcher's WTAKE of R60 has not ended. -/
  placing : Bool := false
  /-- When the context was placed (R385). -/
  placedAt : Nat := 0
  /-- The launch of the bank's previous occupant, by the command that created it (R78). -/
  lastLaunch : Option Nat := Option.none
  /-- The units whose next slot waits (R50, R54), and those whose wait is counted as a loss of decoupling (R56). -/
  waits : List ExecUnit := []
  counted : List ExecUnit := []
  /-- Slots of the bundle that stalls at issue and the counters that have counted them (R107, R299). -/
  tally : List (Nat × Nat) := []
  /-- A restore read poisoned data for a register kind without a poison bit (R110). -/
  badRestore : Bool := false
  /-- The full/empty word a waiting slot tests, and when the wait began (R266). -/
  tagWait : Option (Word64 × Nat) := Option.none
  /-- The model's own: bundles issued. -/
  bundles : Nat := 0
  /-- The number of the device's next command and the context's bundles when it was last restored: what it issued before counts in no
counter of R395. -/
  since : Nat × Nat := (0, 0)
  /-- Sequencers halted by the debugger, and stopped at a BREAK (R429, R431). -/
  halt : BitVec 5 := 0
  brk : Bool := false
  /-- DBG.HALT.STEP: the S sequencer, halted, issues one bundle. -/
  stepOne : Bool := false
deriving DecidableEq, Repr

/-! ## Memory -/

/-- A line of an LLC slice (R212): while it is dirty, the bytes HBM holds; and, as long as it is resident, the poison of HBM's two
blocks, since the poison of its own sectors stands with the memory's. -/
structure LlcLine where
  dram : Option (List Byte) := none
  dramPsn : List Bool := []
deriving DecidableEq, Repr

/-- A line of an L1 (R211): its bytes, its poisoned lanes (R229), and the page whose shootdown drops it. -/
structure L1Line where
  bytes : List Byte
  psn : KeySet := []
  asid : Nat
  page : Nat
deriving DecidableEq, Repr

/-- An entry of a TLB (R223): a leaf of address space `asid` for the page at `page`, of size code `size`. -/
structure TlbEntry where
  asid : Nat
  page : Nat
  size : Nat
  leaf : Word64
deriving DecidableEq, Repr

/-- Why a page of a parked access is waited for (R251): it is not present, its copy is pending, the snapshot pool is empty, or an SO
part before it is parked (R241). -/
inductive ParkReason where
  | absent | cow | pool | order
deriving DecidableEq, Repr

/-- What a parked slot does when it departs (R251, R261): the bytes of a store by virtual address, or a read-modify-write
(`op` as ATOM or SBOP encodes it) with its destination. -/
inductive ParkOp where
  | store (bytes : List (Nat × Val 8)) (nt : Bool)
  | atomic (op : Nat) (w8 : Bool) (va : Nat) (v cmp : Word64) (d : Nat)
  | sbop (op : Nat) (n : Nat) (va : Nat) (v : BitVec 32) (d : Option Nat)
deriving DecidableEq, Repr

/-- A replay-queue entry (R251): the slot's access, and the pages, as 64 KiB units, that it waits for. Its number tells the order of
parking. -/
structure Parked where
  num : Nat := 0
  ctx : Nat
  gen : BitVec 16
  issue : Word64
  parts : List (Nat × ParkReason)
  op : ParkOp
  /-- The page of the handle through which it goes, whose size is not known. -/
  home : Option Word64 := none
  perm : BitVec 8 := 0
  /-- The scope of an acquire form: it holds the context's younger memory slots (R243). -/
  acq : Option (BitVec 3) := none
deriving DecidableEq, Repr

/-- A range of the range scoreboard (R250). -/
structure Range where
  lo : Nat
  hi : Nat
  write : Bool
  cmd : Nat
  inc : Nat
  token : BitVec 32
deriving DecidableEq, Repr

/-- A copy of the snapshot copier in progress (R226): the page, its space, the pool page it takes, and the bytes copied. -/
structure Copying where
  asid : Nat
  page : Nat
  pool : Nat
  pos : Nat := 0x10000
deriving DecidableEq, Repr

/-- A shootdown in progress (R223): its range in 64 KiB units, and the requests and merges that were there before it. -/
structure Shoot where
  asid : Nat
  all : Bool
  page : Nat
  count : Nat
  before : Nat
deriving DecidableEq, Repr

/-- Core-wide state. -/
structure Core where
  active : Nat := 0
  /-- CORE.SWZ0 to CORE.SWZ7 (R205). -/
  swz : Sparse Word64 := []
  poisonZeroed : BitVec 48 := 0
  /-- Core counters by CSR number 0x110 to 0x17F (R409). -/
  perf : Sparse (BitVec 48) := []
  /-- CORE.GTFRAC, as the last CSRR of CORE.GTNS latched it (R403). -/
  gtFrac : BitVec 16 := 0
  l1 : Sparse L1Line := []
  board : List Range := []
  replay : List Parked := []
  /-- The staging buffer, by byte, and its poisoned words (R185). -/
  staging : Memory := []
  stagingPsn : KeySet := []
  lastLaunch : Option Nat := none
deriving DecidableEq, Repr

/-! ## Launches and dispatch (16) -/

/-- A range of steps a dispatcher holds (R64, R71). -/
structure HeldRange where
  task : Nat
  lo : Nat
  hi : Nat
deriving DecidableEq, Repr

/-- A launch (R57, R379, R380). -/
structure Launch where
  num : Nat
  code : Nat := 0
  prio : Nat := 0
  asid : Nat := 0
  count : Nat := 1
  steps : Nat := 0
  arg : BitVec 128 := 0
  codeCap : BitVec 128 := 0
  cohorts : Nat := 0
  save : Nat := 0
  swoff : Nat := 0
  swlen : Nat := 0
  simg : Nat := 0
  silen : Nat := 0
  trapent : Word64 := 0
  probe : Nat := 0
  swz : List Word64 := []
  untaken : Nat := 0
  held : List HeldRange := []
  /-- Tasks that have ended (R67, R426). -/
  ended : KeySet := []
  faulted : Bool := false
  cause : BitVec 8 := 0
  /-- The CP command that created it. -/
  cmd : Nat := 0
  /-- COLLs issued, by cohort × 4096 + task. -/
  colls : Sparse Nat := []
deriving DecidableEq, Repr

/-- What a saved context keeps outside its save slot (R414, R428): the images, GEN and requests, and what travels with it. -/
structure Saved where
  forced : Bool
  inc : Nat := 0
  /-- The bank it was saved from, which answers of R424 name. -/
  ctx : Nat := 0
  /-- The pending records, and the finished sequences above each watermark, which the slot does not show. -/
  pend : List AsyncRec := []
  done : Sparse (List (BitVec 26)) := []
  bad : Sparse (List (BitVec 26)) := []
  stamp : Nat := 0
  image : Option Image := none
  img1 : Option Image := none
  img2 : Option Image := none
  pc : Word64 := 0
  chk : Bool := false
  gen : BitVec 16 := 0
  pf : List PfReq := []
  replay : List Parked := []
  wc : List WcBuf := []
  /-- The number of its next bundle, NEXT of each channel at the last grant (R66), and whether the WTAKE of its placement has not ended
(R60, R63). -/
  bundles : Nat := 0
  mark : Sparse (BitVec 26) := []
  placing : Bool := false
deriving DecidableEq, Repr

/-- An entry of a ready list (R382, R383). -/
structure Ready where
  launch : Nat
  task : Nat
  prio : Nat
  arrival : Nat
  since : Nat
  bypassed : Nat := 0
  saved : Option Saved := none
deriving DecidableEq, Repr

/-! ## Requests to the host and to peers -/

/-- Who asked for a remote or host access: a slot of a context (by its unit and index) or its fetch, an entry of its replay queue by
its number, a store that a placement posted, a push through a FIFO link register of a placement, an engine command by its number, a CP
command, a record of a peer that reaches the host, the snapshot copier for a pool page, or the device itself. -/
inductive Owner where
  | slot (ctx n : Nat) | replay (ctx n : Nat) | posted (inc : Nat) | link (inc : Nat) (f : Nat) | cmd (n : Nat) | cp (n : Nat) | peer (n : Nat)
  | copier (pool : Nat) | device
deriving DecidableEq, Repr

/-- What is asked (R331, R434). -/
inductive Ask where
  | read (n : Nat)
  | write (bytes : List (Val 8))
  | stage (bytes : List (Val 8)) (grp slot : Nat)
  | atomic (op : Nat) (w8 : Bool) (v cmp : Word64) (ord : BitVec 2)
  | charm (id : Nat) (a0 a1 : Word64) (ord : BitVec 2)
  | flush (n : Nat) (inv : Bool)
  | fifo (endp : Nat) (eos : Bool) (w : Val 32)
  | clasp (op : Nat) (grp : Nat) (slot : Nat)
deriving DecidableEq, Repr

/-- The answer to a request: the data, or a cause with FF.INFO (R411). -/
inductive Answer where
  | data (bytes : List (Val 8))
  | fail (cause : BitVec 8) (info : Word64)
deriving DecidableEq, Repr

/-- A request to the host or to a peer that is not finished: its address with the peer bits, the operation, and the answer
once it has come. `refused` counts refusals and `hold` is the GT until which it is held (R315). -/
structure Req where
  owner : Owner
  ix : Nat := 0
  addr : Nat
  act : Ask
  scope : BitVec 3 := 4
  asid : Nat := 0
  ans : Option Answer := none
  refused : Nat := 0
  hold : Nat := 0
  since : Nat := 0
  /-- The model's own: the request's number; its low 16 bits are its TAG (R331). -/
  tag : Nat := 0
  /-- Its packet is in a send queue; the time of its first send (R337). -/
  queued : Bool := false
  sentAt : Option Nat := none
  /-- The bundle that made it, and its context's launch and task. -/
  issue : Word64 := 0
  launch : Nat := 0
  task : Nat := 0
  /-- A clasp's close that asks again for its status (R322). -/
  query : Bool := false
  /-- The host physical address of a request to the host (R433). -/
  host : Nat := 0
deriving DecidableEq, Repr

/-! ## Barriers (R398) -/

/-- An entry of the barrier directory, with the deferred arrivals in order and the phases those processed meanwhile got. -/
structure BarEntry where
  pa : Nat
  launch : Nat
  cohort : Nat
  /-- A member's EXPECT bit has been cleared in the open phase (R401). -/
  begun : Bool := false
  deferred : List Nat := []
  phases : List (Nat × Word64) := []
deriving DecidableEq, Repr

/-- A save that has been written and is not complete (R385): the bank, the entry, and who waits for the bank. -/
structure Saving where
  ctx : Nat
  entry : Ready
  wanted : Option (Nat × Nat) := none
deriving DecidableEq, Repr

/-! ## Engine commands -/

/-- The unit a command runs in: a TCE channel or a send channel of a core, the nest walker, the OBCAST path and the merge
path of an MXE, the Bangle, the STE of a column, the AGE group. -/
inductive CmdUnit where
  | tce (ch : Nat) | send (ch : Nat) | nest | stage | merge | coll | ste (col : Nat) | age
deriving DecidableEq, Repr

/-- An operand of COPY, resolved (R308): a global or device-local scratchpad address, the dimensions as extent and stride in
elements, NT of its record, and SN of its capability. -/
structure Tensor where
  glob : Bool
  base : Nat
  dims : List (Nat × Int)
  nt : Bool := false
  sn : Bool := false
deriving DecidableEq, Repr

/-- A step of a collective on one axis (R353), with the dimensions it cuts or joins. -/
inductive CollStep where
  | allReduce | reduceScatter (e : Nat) | allToAll (d e : Nat) | allGather (d : Nat)
deriving DecidableEq, Repr

/-- A collective as its member's descriptor gives it (R352, R353): `plan` pairs each step with its axis; `mine` is this
device's index in `plist`, `m` the local member count, `l` the member's place among them; `ord` counts the member's earlier
collectives on the cohort. -/
structure CollDesc where
  cohort : Nat
  launch : Nat
  ord : Nat
  type : Nat
  red : Nat
  extents : List Nat
  sizes : List Nat
  src : List Nat
  dst : List Nat
  plan : List (Nat × CollStep)
  plist : List Nat
  mine : Nat
  m : Nat
  l : Nat
  digest : Word64
deriving DecidableEq, Repr

/-- What a command does, with its operands as the issue read them. Scratchpad addresses are device-local. -/
inductive CmdOp where
  | copy (half : Nat) (src dst : Tensor) (scope : BitVec 3)
  | send (va src len : Nat) (sn : Bool) (grp : Bool)
  | clopen (peer : Nat)
  | clclose
  | nest (merge : Bool)
  | obcast (src doff len mask : Nat)
  | mopen (va n : Nat)
  | accmerge (va n bank : Nat) (zr : Bool)
  | coll (d : CollDesc)
  | trsel (res : Nat)
  | trexp (slot k prior : Nat)
  | trback (slot : Nat) (v : Word64) (vo : Bool)
  | trroot (c : Nat)
  | trwalk
  | trinit (blk : Nat)
  | trparam (blk : Nat)
  | qbgate (diag : Bool) (k nc : Nat) (q : Word64) (u : Nat)
  | qbmap (desc : Nat)
  | qbmapSet (a : Nat)
  | qbmapGet (a : Nat)
  | qbmapEnd
  | qbswap (q : Word64)
  | qbnorm (a : Nat)
  | qbprob (o : Word64) (a : Nat)
  | qbcoll (o : Word64) (a : Nat)
deriving DecidableEq, Repr

/-- An item of a reclamation walk (R291): a subtree, a block to push by its first node, or the old root's children but the
new root. -/
inductive WalkItem where
  | subtree (y : Nat) | block (b : Nat) | root (r c : Nat)
deriving DecidableEq, Repr

/-- What a tree command works with (R287, R289, R291): the record's slot, the pool's parameters, the path from the root, the
node whose children it scores, the next child and the best one; what a walk has left to do, and the blocks it pushed;
when the batch times out. -/
structure TreeRun where
  slot : Nat := 0
  nodes : Nat := 0
  blk : Nat := 1
  cpuct : Nat := 0
  fpu : Nat := 0
  vlw : Word64 := 0
  two : Bool := false
  path : List Nat := []
  np : Nat := 0
  ccount : Nat := 0
  cbase : Nat := 0
  i : Nat := 0
  best : Option (Nat × Nat) := none
  flags : Nat := 0
  walk : List WalkItem := []
  pushed : List Nat := []
  due : Nat := 0
deriving DecidableEq, Repr

/-- What the Bangle of a member works with (R354): the bytes read or to be written, the local tensor and its extents, the
step of the plan, its chunks by coordinate, the hops done, whether it gathers, whether this hop's chunk has left, how many of its
bytes have, and how many have left in the step before it; the tokens that are finished, and whether the members know of a failure. -/
structure CollRun where
  raw : List (Val 8) := []
  buf : List (Val 128) := []
  extents : List Nat := []
  step : Nat := 0
  parts : List (List (Val 128)) := []
  hop : Nat := 0
  gather : Bool := false
  sent : Bool := false
  part : Nat := 0
  off : Nat := 0
  toks : Nat := 0
  told : Bool := false
deriving DecidableEq, Repr

/-- A phase of an AGE command (R363 to R372): the comparison of digests; exchange(x, h), with the map entries of the qubits
there exchanged when `relabel`; the exchange of two map entries; the gate itself; the leaves and a device level of a
reduction; the result word; the collapse; the results of several phases, and the map, put in force. -/
inductive AgePhase where
  | digest | exchange (x h : Nat) (relabel : Bool) | entries (q1 q2 : Nat) | gate | leaves | level (l : Nat) | result | collapse
  | commit
deriving DecidableEq, Repr

/-- What the AGEs work with: the command's SEQ, the phases to come, the next item of the phase, the operator's or map's bytes,
the subtree sums of a reduction with their levels, the device-level exchanges begun, and the digest. While a command has several
phases that move amplitudes (`staged`), `amps` holds what they have made of them, by index on the device, and `map` the map, until
both are put in force (R365). -/
structure AgeRun where
  seq : Nat := 0
  todo : List AgePhase := []
  i : Nat := 0
  bytes : List (Val 8) := []
  stack : List (Nat × Val 64) := []
  ord : Nat := 0
  sent : Bool := false
  digest : Word64 := 0
  staged : Bool := false
  amps : Sparse (Nat × Nat × Bool) := []
  map : Option (List Nat) := none
deriving DecidableEq, Repr

/-- How far a command is: in its queue, running, waiting for another agent (a slice, a batch, a peer), or stopped. -/
inductive Phase where
  | queued | running | waiting | stopped
deriving DecidableEq, Repr

/-- An engine command (R388, R389, R421): its placement, task and context, its token, its bundle and slot, the tokens it
waits for, the operand record, and how far it is: `pos` counts units of work, `path` and `vals` hold what it works with,
`fail` its first failure, `prog` the element progress of R311. -/
structure Cmd where
  id : Nat
  inc : Nat
  launch : Nat
  task : Nat
  ctx : Nat
  asid : Nat
  token : BitVec 32
  unit : CmdUnit
  op : CmdOp
  issue : Word64 := 0
  bundle : Nat := 0
  slot : Nat := 0
  deps : List (BitVec 32) := []
  caps : List Cap := []
  xs : List Word64 := []
  phase : Phase := .queued
  fail : Option Trap := none
  pos : Nat := 0
  prog : Nat := 0
  /-- Bytes that a COPY between overlapping operands has replaced, by address, as they stood before it (R310). -/
  orig : Sparse (Val 8) := []
  /-- The source that the slot of an OBCAST read. -/
  raw : List (Val 8) := []
  path : List Nat := []
  vals : List (Val 64) := []
  tree : Option TreeRun := none
  coll : Option CollRun := none
  age : Option AgeRun := none
  /-- The capability register that its first operand named. -/
  reg : Nat := 0
  /-- Scratchpad bytes it names, with whether it writes them (R250). -/
  spans : List (Nat × Nat × Bool) := []
  since : Nat := 0
deriving DecidableEq, Repr

/-! ## Merge buffers (R198) -/

/-- A merge buffer that is OPEN: the contributions it has accepted, each by element, and the opener's command. -/
structure MergeBuf where
  p : Nat
  p2 : Option Nat
  n : Nat
  opener : Option Nat := none
  parts : List (Sparse (Val 32)) := []
  /-- Whose translations it holds: the address space and the virtual address of the tile. -/
  uses : List (Nat × Nat) := []
  /-- MS of the leaves of P and of P2, as its first request gave them. -/
  ms : Bool × Bool := (false, false)
deriving DecidableEq, Repr

/-- A request on its way to a slice, or refused and to be sent again (R199). -/
structure MergeReq where
  cmd : Nat
  p : Nat
  p2 : Option Nat
  n : Nat
  data : Option (Sparse (Val 32)) := none
  refused : Option Nat := none
  asid : Nat := 0
  va : Nat := 0
  ms : Bool × Bool := (false, false)
deriving DecidableEq, Repr

/-! ## Clasps (R321 to R324) -/

/-- A group of this device as initiator: its context, channel and peer, the staging slot the peer gave, the bytes sent, whether its
close was called back before the peer is known to hold it, and whether it has aborted. -/
structure Clasp where
  grp : Nat
  inc : Nat
  ctx : Nat
  ch : Nat
  peer : Nat
  slot : Option Nat := none
  bytes : Nat := 0
  recalled : Bool := false
  aborted : Bool := false
deriving DecidableEq, Repr

/-- A staging slot of this device as target: the initiator's group, and the translated writes that are staged, each with MS of its
page. -/
structure Stage where
  src : Nat
  grp : Nat
  writes : List (Nat × Bool × List (Val 8)) := []
  /-- The pages of its staged translations: the address space and the 64 KiB unit. -/
  pages : List (Nat × Nat) := []
  used : Nat := 0
deriving DecidableEq, Repr

/-! ## Flits and streams (R330 to R334) -/

/-- A record (R331): the DATA field as a little-endian number, with its poison. -/
structure Rec where
  rtype : Nat
  attr : Nat := 0
  tag : Nat := 0
  aux : Nat := 0
  addr : Nat := 0
  data : Nat := 0
  psn : Bool := false
deriving DecidableEq, Repr

/-- A flit in a send queue, a retransmit buffer or a cell (R330); the body as bytes, POISON by group of 32. -/
structure Flit where
  dst : Nat
  src : Nat
  kind : Nat
  seq : Nat := 0
  plane : Bool := false
  last : Bool := true
  transit : Bool := false
  /-- ACK of a flit of another device's stream, which a transit peer leaves as it is. -/
  ack : Nat := 0
  poison : BitVec 8 := 0
  body : List Byte := []
deriving DecidableEq, Repr

/-- A flit that was sent and that no ACK covers: when, on which port and line, from which queue. -/
structure Sent where
  flit : Flit
  at_ : Nat
  port : Nat
  line : Nat
  sq : Nat
  again : Bool := false
deriving DecidableEq, Repr

/-- The streams to and from one peer: the next SEQ, the flits sent and not acknowledged; the SEQ below which every flit was
received, the flits held beyond a gap or of an incomplete packet, each with its cell's key, and since when an
acknowledgment is owed. -/
structure Link where
  next : Nat := 0
  una : List Sent := []
  got : Nat := 0
  held : List (Nat × Flit) := []
  open_ : List (Nat × Flit) := []
  owed : Option Nat := none
deriving DecidableEq, Repr

/-- A packet that waits for room in its send queue (R299): its peer, whether it goes to BSQ, its kind, records and bytes. -/
structure Packet where
  dst : Nat
  bulk : Bool
  kind : Nat
  recs : List Rec
  data : List (Val 8) := []
deriving DecidableEq, Repr

/-- A record received and not performed, with the bytes of its packet. -/
structure In where
  src : Nat
  rec_ : Rec
  data : List (Val 8) := []
  tries : Nat := 0
deriving DecidableEq, Repr

/-- Bytes received for a step of a collective or of an AGE command: the collective id, the sender, the step. -/
structure Strm where
  id : Nat
  src : Nat
  step : Nat
  bytes : List (Val 8) := []
deriving DecidableEq, Repr

/-- What is known of a member of a collective: its start record's digest, whether it has finished. -/
structure CollNote where
  id : Nat
  src : Nat
  digest : Option Word64 := none
  finished : Bool := false
  /-- The cause of its abort record. -/
  abort : Option (BitVec 8) := none
  /-- When this device last sent a HOLD flit for it (R355). -/
  heldAt : Nat := 0
deriving DecidableEq, Repr

/-- The membership that the first COLL of a cohort fixed (R74, R351): the tasks by ascending context id. -/
structure CollSet where
  launch : Nat
  cohort : Nat
  ord : Nat
  tasks : List Nat
deriving DecidableEq, Repr

/-! ## The AGE group (R356 to R362) -/

/-- What AGE.CTL does not show of the bound group. -/
structure Age where
  base : Nat := 0
  asid : Nat := 0
  home : Nat := 0
  plist : List Nat := []
  /-- The physical address of each pinned page of the region, and its MS. -/
  pages : List (Nat × Bool) := []
deriving DecidableEq, Repr

/-! ## The command processor (R373 to R377) -/

/-- A command that the CP has accepted and not completed. -/
structure CpCmd where
  id : Nat
  queue : Nat
  entry : BitVec 512
  /-- Its slots: the handle index, W, and the handle as it stood when the CP read the command. -/
  slots : List (Nat × Bool × BitVec 128) := []
  deps : List Nat := []
  started : Bool := false
  /-- Its own work is done: STATUS and DETAIL. -/
  result : Option (Nat × Nat) := none
  /-- KEEP ranges are flushed and the completion word is on its way. -/
  posted : Bool := false
  /-- Bytes copied, or pages skipped; for a COPY between overlapping ranges the bytes it has replaced. -/
  pos : Nat := 0
  orig : Sparse (Val 8) := []
  /-- When a WAIT last read its word. -/
  polled : Option Nat := none
  /-- The shootdown of a SNAP. -/
  shoot : Option Shoot := none
deriving DecidableEq, Repr

/-- A stop of the machine that the spec's rules do not continue. -/
inductive Fault where
  /-- Raised by nothing in this model: no rule of the spec makes the whole device stop without a next state. Safe. -/
  | none
deriving DecidableEq, Repr

/-- No meaning for an instruction. -/
inductive Refusal where
  /-- Raised by exec for an instruction whose meaning is not written. Safe. -/
  | notModelled (mnemonic : String)
deriving DecidableEq, Repr

/-- The model's own: whose turn it is. The S sequencer of a context, with a slot, or with a bundle and its first slot; the S sequencer
with the issue of a bundle only; a slot queue of a context; a context that goes on after the last answer to its page requests; a unit of
work of an engine command; or an event from outside or of an agent of the device. -/
inductive Turn where
  | run (ctx : Nat) | place (ctx : Nat) | queue (ctx : Nat) (u : ExecUnit) | resume (ctx : Nat) | work (cmd : Nat) | event (e : Instr)
deriving DecidableEq, Repr

structure State where
  /-- The model's own: the turns to come, the events from outside among them; when it is empty the machine goes on by
itself. -/
  agenda : List Turn := []
  /-- The model's own: turns that could have been taken and were not, the longest waiting first, and how often the first of them was
passed by. -/
  turnQ : List Turn := []
  skipped : Nat := 0
  /-- The model's own: the number of free values drawn. -/
  free : Nat := 0
  /-- The model's own: the context whose slot runs. -/
  cur : Nat := 0
  /-- The model's own: synchronous causes raised and page-fault paths taken. -/
  raised : Nat := 0
  /-- The model's own: requests that the operation now running has made. -/
  asks : Nat := 0
  /-- GT in units of 2^-16 ns (R402). -/
  gt : Nat := 0
  /-- Context banks by context id (R11). -/
  ctxs : Sparse Ctx := []
  /-- Cores by core id. -/
  cores : Sparse Core := []
  /-- The device-local memories of R216: HBM, SBM, and the scratchpads by cell (R206). -/
  mem : Memory := []
  /-- Poisoned 4-byte words of `mem`, by address / 4 (R229, R231). -/
  psn : KeySet := []
  /-- Scratchpad words with F = 1 and with C = 1, by cell address / 4 (R208). -/
  tagF : KeySet := []
  tagC : KeySet := []
  /-- Resident LLC lines by address / 128 (R212). -/
  llc : Sparse LlcLine := []
  /-- The device CSRs that were written, by offset (R233); the others hold their reset value. -/
  dev : Sparse Word64 := []
  /-- CORE.ID.PEER (R114). -/
  peer : Nat := 0
  /-- TLBs by unit (R223): that of a core at its id, those of engines above. -/
  tlbs : Sparse (List TlbEntry) := []
  reqs : List Req := []
  /-- Pool pages allocated (R227), and the copies in progress. -/
  pool : KeySet := []
  copies : List Copying := []
  /-- Pages, by address space and number, for which an ATOMX or an engine waits that a copy of R226 be made; and the writers that wait
for a page, in the order in which they came (R226). -/
  cowWant : List (Nat × Nat) := []
  cowLine : List (Nat × Nat × Owner) := []
  /-- The model's own: the number of the next entry of a replay queue. -/
  parks : Nat := 0
  /-- Contexts whose full/empty operations wait, in the order in which those came to their banks (R247). -/
  tagLine : List Nat := []
  /-- The locket id that SNAP gave a page whose COW it set, by address space and page. -/
  lockets : List (Nat × Nat × Nat) := []
  /-- The shootdown in progress (R223). -/
  shoot : Option Shoot := none
  bars : List BarEntry := []
  /-- Bytes registered with barriers (R401): the object, the placement and the token, the number. -/
  regd : List (Nat × Nat × BitVec 32 × Nat) := []
  /-- Subtractions on their way to their barrier: the object, the bytes, whether the command failed. -/
  subs : List (Nat × Nat × Bool) := []
  nextInc : Nat := 1
  launches : List Launch := []
  nextLaunch : Nat := 0
  ready : List Ready := []
  saving : List Saving := []
  /-- The model's own: columns whose dispatcher has taken an entry in the present round of choices (R382). -/
  dealt : KeySet := []
  /-- CODESWAP commands that wait (R68): the command, and the contexts that have neither ended nor been granted a step. -/
  swaps : List (Nat × List (Nat × Nat)) := []
  /-- Engine commands issued and not finished, oldest first. -/
  cmds : List Cmd := []
  nextCmd : Nat := 0
  nextReq : Nat := 0
  /-- The armed triggers of every context, in the order in which they were armed. -/
  trigs : List Trigger := []
  /-- Triggers that have fired, in firing order, whose writes are to come (R405). -/
  fired : List Trigger := []
  merges : List MergeBuf := []
  mergeQ : List MergeReq := []
  /-- Words in the endpoint FIFOs, the oldest first, each with its EOS bit (R298). -/
  fifos : Sparse (List (Val 32 × Bool)) := []
  clasps : List Clasp := []
  stages : Sparse Stage := []
  /-- The status kept of groups that ended here: the initiator, its group, and whether it was committed (R322). -/
  closed : List (Nat × Nat × Bool) := []
  age : Age := {}
  /-- Pages pinned: by a group (none), a collective's command, a staging slot is in `stages` (R223). -/
  pins : List (Option Nat × Nat × Nat) := []
  /-- Streams by peer, send queues, and what receivers released and senders have sent by (neighbour, port, class). -/
  links : Sparse Link := []
  sendq : Sparse (List Flit) := []
  /-- Packets, and flits in transit with the key of their cell, that wait for room in a full send queue (R299, R333). -/
  outQ : List Packet := []
  passing : List (Nat × Flit) := []
  /-- When each transmitter, by 16 × port + number, has sent its last flit, in hundredths of a unit of GT (R328, R342). -/
  txFree : Sparse Nat := []
  sent : Sparse Nat := []
  ccount : Sparse Nat := []
  released : Sparse Nat := []
  adverts : List Nat := []
  /-- What the last slot of each rotation put on the fibers: port, line, flit. -/
  onWire : List (Nat × Nat × BitVec 2176) := []
  inbox : List In := []
  strms : List Strm := []
  notes : List CollNote := []
  collSets : List CollSet := []
  /-- The lines of the mesh that are not OK, by 128 × column + line: 1 RETUNING, 2 LOST (R348). -/
  mesh : Sparse Nat := []
  /-- SYNC_LOST holds (R346). -/
  syncLost : Bool := false
  /-- The slot in which each rotation last sent: bulk, message. -/
  lastSlot : Sparse Nat := []
  /-- The model's own: what the driver's last read of a register that a read changes has returned (R345, R443). -/
  readOut : Word64 := 0
  ofuEvents : List Word64 := []
  ofuOvf : Bool := false
  pwrEvents : List Word64 := []
  pwrOvf : Bool := false
  /-- Interrupt vectors raised, the oldest first (R374, R423, R435). -/
  irqs : List Nat := []
  cps : List CpCmd := []
  nextCp : Nat := 0
  /-- WRITER and READERS of the buffer handles (R376). -/
  writers : Sparse Nat := []
  readers : Sparse (List Nat) := []
  /-- The queue that the CP served last at each priority (R326). -/
  lastQueue : Sparse Nat := []
  /-- The flash holds an image that the boot ROM accepts (R436, R438). -/
  flash : Bool := true
  /-- RECOV.GO was written and the boot ROM has not finished with the new image (R438). -/
  updating : Bool := false
  /-- Arbiter: intervals without a cap, by column (R443). -/
  clear : Sparse Nat := []
  /-- The package clamp of R440 holds. -/
  clamped : Bool := false
  /-- When the arbiter's last interval ended, in units of GT. -/
  arbiterAt : Nat := 0
deriving DecidableEq, Repr

/-- The machine right after reset: every register at the value the spec states for reset; where it states none, at 0
(DESIGN CHOICE, log entry 11), and memory that nothing has written reads as 0 (DESIGN CHOICE, log entry 1). Registers of the device
whose reset value is not 0 have it from `csrReset`. -/
def State.reset : State := {}

end Sys2Proof.Machine
end

