-- ==== Sys2Proof/Machine/Mem.lean ====
section
/-! DEFINITION. The device-local memories (R203 to R216, R229 to R231): where an address lies, reads and writes with poison
and tags, and the lines of the LLC slices. -/
namespace Sys2Proof.Machine

/-! ## Banks, cores, device CSRs -/

/-- The context bank `k` (R11). -/
def State.ctx (s : State) (k : Nat) : Ctx := s.ctxs.get {} k
/-- The context bank `k` replaced. -/
def State.setCtx (s : State) (k : Nat) (c : Ctx) : State := { s with ctxs := s.ctxs.put k c }
/-- The core `k`. -/
def State.core (s : State) (k : Nat) : Core := s.cores.get {} k
/-- The core `k` replaced. -/
def State.setCore (s : State) (k : Nat) (c : Core) : State := { s with cores := s.cores.put k c }
/-- The bank changed by `f`. -/
def State.modCtx (s : State) (k : Nat) (f : Ctx → Ctx) : State := s.setCtx k (f (s.ctx k))
/-- The core changed by `f`. -/
def State.modCore (s : State) (k : Nat) (f : Core → Core) : State := s.setCore k (f (s.core k))

/-- The reset value of the device CSR at an offset, where it is not 0 (R317, R325, R349, R361, R386, R408,
R423, R443). DESIGN CHOICE, log entry 11. -/
def csrReset (off : Nat) : Word64 :=
  if 0x40008 ≤ off ∧ off < 0x40808 ∧ off % 32 = 8 then 4
  else if off = 0x50000 then (8 <<< 48) ||| (5000 <<< 24) ||| 50
  else if 0x50100 ≤ off ∧ off < 0x50180 then 224
  else if off = 0x80010 then 6
  else if off = 0xB18 ∨ off = 0x100098 then 10000
  else if off = 0x100090 then (1000 <<< 32) ||| 5000
  else if off = 0x70018 then 64 <<< 16
  else if 0xA0300 ≤ off ∧ off < 0xA0380 then 16 <<< 40
  else if off = 0xA0200 then (95 <<< 16) ||| 2400
  else if 0xC40 ≤ off ∧ off < 0xC80 then 0xFFFFFFFFFFFFFFFF
  else 0

/-- A device CSR (R233). -/
def State.csr (s : State) (off : Nat) : Word64 := (s.dev.find off).getD (csrReset off)
/-- A device CSR written by the device. -/
def State.setCsr (s : State) (off : Nat) (v : Word64) : State := { s with dev := s.dev.put off v }
/-- A 48-bit event counter advanced by one (R213). -/
def State.bump (s : State) (off : Nat) : State :=
  s.setCsr off (((s.csr off).setWidth 48 + 1 : BitVec 48).setWidth 64)

/-! ## Addresses (R216) -/

/-- The regions of the device-local address space (R216). -/
inductive Region where
  | hbm | sbm | scratch | csr | host | exportWin | unmapped
deriving DecidableEq, Repr

def sbmBase : Nat := 0x10000000000
def scratchBase : Nat := 0x20000000000
def csrBase : Nat := 0x30000000000
def hostBase : Nat := 0x1000000000000
def exportBase : Nat := 0x2000000000000

/-- The region of a device-local address. -/
def region (a : Nat) : Region :=
  if a < 0x8000000000 then .hbm
  else if sbmBase ≤ a ∧ a < sbmBase + 0x10000000 then .sbm
  else if scratchBase ≤ a ∧ a < scratchBase + 0x80000000 then .scratch
  else if csrBase ≤ a ∧ a < csrBase + 0x100000000 then .csr
  else if hostBase ≤ a ∧ a < 2 * hostBase then .host
  else if exportBase ≤ a ∧ a < 2 * exportBase then .exportWin
  else .unmapped

/-- The host physical address of `[off, off + n)` of the host-window region, through the lowest-numbered enabled window that
holds every byte, and whether it permits writes (R433). -/
def State.hostWindow (s : State) (off n : Nat) : Option (Nat × Bool) :=
  (List.range 16).findSome? fun i =>
    let r := s.csr (0x90000 + 16 * i)
    let z := (r.extractLsb' 49 6).toNat
    let base := (r.extractLsb' 12 37).toNat * 4096 / 2 ^ z * 2 ^ z
    let host := (s.csr (0x90008 + 16 * i)).toNat / 4096 * 4096 / 2 ^ z * 2 ^ z
    if r.getLsbD 63 ∧ 12 ≤ z ∧ z ≤ 48 ∧ base ≤ off ∧ off + n ≤ base + 2 ^ z then some (host + (off - base), r.getLsbD 62)
    else none

/-- The swizzle key of a scratchpad row: the lowest-numbered enabled region that holds the row decides (R206). -/
def swzKey (c : Core) (row : Nat) : Nat :=
  match (List.range 8).find? fun n =>
      let r := c.swz.get 0 n
      r.getLsbD 63 && (r.extractLsb' 0 12).toNat ≤ row && row ≤ (r.extractLsb' 16 12).toNat with
  | some n => ((row - ((c.swz.get 0 n).extractLsb' 0 12).toNat) >>> ((c.swz.get 0 n).extractLsb' 32 4).toNat) % 64
  | none => 0

/-- The address of scratchpad offset `off` of core `k` in the window of R216. -/
def scratchAddr (k off : Nat) : Nat := scratchBase + k * 0x100000 + off

/-- Where a byte is stored: a scratchpad byte in its cell (R206), any other byte at its address. -/
def State.cell (s : State) (a : Nat) : Nat :=
  if region a = .scratch then
    let k := (a - scratchBase) / 0x100000
    let off := a % 0x100000
    let row := off / 256
    scratchAddr k (row * 256 + ((off / 4 % 64) ^^^ swzKey (s.core k) row) * 4 + off % 4)
  else a

/-- The pieces of `[a, a + n)` that do not cross a multiple of `unit`: address, offset from `a`, length. -/
def pieces (unit a n : Nat) : List (Nat × Nat × Nat) :=
  if n = 0 then [] else
    (List.range ((a + n - 1) / unit - a / unit + 1)).map fun j =>
      let lo := max a ((a / unit + j) * unit)
      (lo, lo - a, min (a + n) ((a / unit + j + 1) * unit) - lo)

/-! ## Reads -/

/-- The poison of the byte stored at `c`. -/
def State.psnAt (s : State) (c : Nat) : Bool := s.psn.contains (c / 4)
/-- The byte at an address, with its poison (R231). -/
def State.peek (s : State) (a : Nat) : Val 8 :=
  let c := s.cell a
  ⟨s.mem.byte c, s.psnAt c⟩
/-- `n` bytes from `a` on. -/
def State.peekN (s : State) (a n : Nat) : List (Val 8) := (List.range n).map fun i => s.peek (a + i)

/-- Bytes as a little-endian number (R5). -/
def leNat : List (Val 8) → Nat
  | [] => 0
  | b :: bs => b.v.toNat + 256 * leNat bs
/-- Any poisoned byte. -/
def anyPsn (bs : List (Val 8)) : Bool := bs.any fun b => b.psn
/-- The low `n` bytes of a number, little-endian, all with poison `p`. -/
def toBytes (n v : Nat) (p : Bool) : List (Val 8) := (List.range n).map fun i => ⟨BitVec.ofNat 8 (v / 256 ^ i), p⟩
/-- Byte `i` of a list. -/
def byteAt (bs : List (Val 8)) (i : Nat) : Val 8 := bs.getD i ⟨0, false⟩

/-- The low bits of an `n`-byte word at an address. -/
def State.peekNat (s : State) (a n : Nat) : Nat := leNat (s.peekN a n)

/-! ## Writes and poison granules (R231) -/

/-- The poison after a write of `n` bytes at `lo` in granules of `g` bytes: a granule that receives a poisoned byte becomes
poisoned, one written whole and clean becomes clean, one written clean in part keeps its poison. -/
def markPoison (g : Nat) (psn : KeySet) (lo n : Nat) (bp : Nat → Bool) : KeySet :=
  (pieces g lo n).foldl (init := psn) fun ps (l, o, k) =>
    if (List.range k).any fun i => bp (o + i) then ps.setRange (l / g * (g / 4)) (g / 4) fun _ => true
    else if k = g then ps.setRange (l / g * (g / 4)) (g / 4) fun _ => false
    else ps

/-- The bytes of one stored piece written, with its poison. -/
def State.putCells (s : State) (g lo n : Nat) (f : Nat → Val 8) : State :=
  { s with mem := s.mem.write lo n fun i => (f i).v, psn := markPoison g s.psn lo n fun i => (f i).psn }

/-! ## LLC lines (R211 to R214, R255) -/

/-- The slice that is home to an HBM byte: 4 × column + slice (R15). -/
def homeSlice (h : Nat) : Nat := 4 * (2 * (h / 4096 % 8) + h / 32768 % 2) + h / 128 % 4
/-- An LLC counter of a slice (R233). -/
def llcCounter (slice k : Nat) : Nat := 0x10000 + 0x40 * slice + 8 * k

/-- The 64-byte blocks of a line take the poison of any of their words (R231). -/
def blockPoison (psn : KeySet) (line : Nat) : List Bool :=
  (List.range 2).map fun b => (List.range 16).any fun i => psn.contains (line * 32 + b * 16 + i)

/-- The line written back when it is dirty (R213). -/
def State.writeBack (s : State) (line : Nat) : State :=
  match s.llc.find line with
  | some ⟨some _, _⟩ =>
    ({ s with llc := s.llc.put line { dramPsn := blockPoison s.psn line } } : State).bump (llcCounter (homeSlice (line * 128)) 2)
  | _ => s
/-- The line dropped without a write-back: the bytes and the poison are HBM's again (R255). -/
def State.dropLine (s : State) (line : Nat) : State :=
  match s.llc.find line with
  | some e =>
    { s with
      llc := s.llc.del line
      mem := match e.dram with | some bs => s.mem.write (line * 128) 128 fun i => bs.getD i 0 | none => s.mem
      psn := s.psn.setRange (line * 32) 32 fun i => e.dramPsn.getD (i / 16) false }
  | none => s
/-- The line dropped, after a write-back when dirty. -/
def State.evict (s : State) (line : Nat) : State := (s.writeBack line).dropLine line

/-- A line brought into its home slice (R212). A slice that already holds 16 lines may drop one, chosen freely; DESIGN CHOICE, log entry 7. -/
def State.fillLine (s : State) (line : Nat) : State :=
  let slice := homeSlice (line * 128)
  match s.llc.find line with
  | some _ => s.bump (llcCounter slice 0)
  | none =>
    let s := s.bump (llcCounter slice 1)
    let mine := (s.llc.map (·.1)).filter fun l => homeSlice (l * 128) = slice
    let s := if mine.length < 16 then s else
      let n := Config.choice s.free
      let s := { s with free := s.free + 1 }
      if n < mine.length ∨ mine.length ≥ 524288 then s.evict (mine.getD (n % mine.length) 0) else s
    { s with llc := s.llc.put line { dramPsn := blockPoison s.psn line } }

/-- The line marked dirty: HBM's bytes are kept beside it. -/
def State.dirtyLine (s : State) (line : Nat) : State :=
  match s.llc.find line with
  | some ⟨none, ps⟩ =>
    { s with llc := s.llc.put line { dram := some ((List.range 128).map fun i => s.mem.byte (line * 128 + i)), dramPsn := ps } }
  | _ => s

/-- How an access treats the LLC: allocate, not on a miss (an NT shape, R212), or forward to the stack (MS, R214). -/
inductive Alloc where
  | fill | nt | ms
deriving DecidableEq, Repr

/-- The line's part of an access at its home slice: its residency, and the poison granule the access meets (R229). -/
def State.touchLine (s : State) (al : Alloc) (wr : Bool) (line : Nat) : State × Nat :=
  match al with
  | .ms => ((s.evict line).bump (llcCounter (homeSlice (line * 128)) 3), 64)
  | .nt =>
    match s.llc.find line with
    | some _ => let s := s.fillLine line; (if wr then s.dirtyLine line else s, 32)
    | none => (s.bump (llcCounter (homeSlice (line * 128)) 1), 64)
  | .fill => let s := s.fillLine line; (if wr then s.dirtyLine line else s, 32)

/-- The residency effects of a read of `[a, a + n)` (R212, R214). -/
def State.touchRead (s : State) (al : Alloc) (a n : Nat) : State :=
  if region a = .hbm then (pieces 128 a n).foldl (fun s (l, _, _) => (s.touchLine al false (l / 128)).1) s else s

/-- `n` bytes written at a device-local address of HBM, SBM or a scratchpad. A scratchpad word written loses its C tag
(R208). -/
def State.poke (s : State) (al : Alloc) (a n : Nat) (f : Nat → Val 8) : State :=
  match region a with
  | .hbm => (pieces 128 a n).foldl (init := s) fun s (l, o, k) =>
      let (s, g) := s.touchLine al true (l / 128)
      s.putCells g l k fun i => f (o + i)
  | .sbm => s.putCells 4 a n f
  | .scratch => (pieces 4 a n).foldl (init := s) fun s (l, o, k) =>
      let c := s.cell l
      let s := s.putCells 4 c k fun i => f (o + i)
      { s with tagC := s.tagC.setRange (c / 4) 1 fun _ => false }
  | _ => s

/-- `n` bytes of HBM zeroed from `a` on, a multiple of 128 (R72): a line held is no longer. -/
def State.zeroHbm (s : State) (a n : Nat) : State :=
  { s with mem := s.mem.zero a n, psn := s.psn.clear (a / 4) (n / 4), llc := s.llc.filter fun e => e.1 < a / 128 ∨ (a + n) / 128 ≤ e.1 }
/-- A list of bytes written. -/
def State.pokeL (s : State) (al : Alloc) (a : Nat) (bs : List (Val 8)) : State := s.poke al a bs.length (byteAt bs)
/-- A clean little-endian number written in `n` bytes. -/
def State.pokeNat (s : State) (a n v : Nat) : State := s.poke .fill a n fun i => ⟨BitVec.ofNat 8 (v / 256 ^ i), false⟩

/-- A whole-range fill with zeros, of memory, poison and tags (boot, R381). -/
def State.zeroScratch (s : State) (k : Nat) : State :=
  let a := scratchAddr k 0
  { s with mem := s.mem.zero a 0x100000, psn := s.psn.clear (a / 4) 0x40000,
           tagF := s.tagF.clear (a / 4) 0x40000, tagC := s.tagC.clear (a / 4) 0x40000 }

/-! ## Tags (R208, R247) -/

/-- The word at a scratchpad address reads as full. A poisoned word reads as empty (R208). -/
def State.isFull (s : State) (a : Nat) : Bool := let c := s.cell a; s.tagF.contains (c / 4) && !s.psnAt c
/-- The word at a scratchpad address reads with C = 1. -/
def State.isCap (s : State) (a : Nat) : Bool := let c := s.cell a; s.tagC.contains (c / 4) && !s.psnAt c
/-- F of the word set or cleared. -/
def State.setF (s : State) (a : Nat) (b : Bool) : State := { s with tagF := s.tagF.setRange (s.cell a / 4) 1 fun _ => b }
/-- C of the word set or cleared. -/
def State.setC (s : State) (a : Nat) (b : Bool) : State := { s with tagC := s.tagC.setRange (s.cell a / 4) 1 fun _ => b }

end Sys2Proof.Machine
end

