-- ==== Sys2Proof/Machine/Regs.lean ====
section
/-! DEFINITION. The registers of a context bank (R106 to R110): one reader and one writer for each kind. -/
namespace Sys2Proof.Machine

/-- xN; x0 reads as 0 without poison (R108). -/
def Regs.rx (r : Regs) (n : Nat) : Val 64 := if n = 0 then ⟨0, false⟩ else r.x.get ⟨0, false⟩ n
/-- xN written; a write to x0 is discarded, and a poisoned value has value bits 0 (R108, R119). -/
def Regs.wx (r : Regs) (n : Nat) (v : Val 64) : Regs :=
  if n = 0 then r else { r with x := r.x.put n (if v.psn then ⟨0, true⟩ else v) }
/-- pN; p0 reads as 1 without poison (R108). -/
def Regs.rp (r : Regs) (n : Nat) : Val 1 := if n = 0 then ⟨1, false⟩ else r.p.get ⟨0, false⟩ n
/-- pN written; a write to p0 is discarded. -/
def Regs.wp (r : Regs) (n : Nat) (b : Bool) : Regs := if n = 0 then r else { r with p := r.p.put n ⟨.ofBool b, false⟩ }
/-- Lane `l` of vN. -/
def Regs.rv (r : Regs) (n l : Nat) : Val 32 := r.v.get ⟨0, false⟩ (64 * n + l)
/-- All lanes of vN written. -/
def Regs.wv (r : Regs) (n : Nat) (f : Nat → Val 32) : Regs :=
  { r with v := r.v.putRange (64 * n) 64 f }
/-- cN. -/
def Regs.rc (r : Regs) (n : Nat) : Cap := r.c.get {} n
/-- cN written. -/
def Regs.wc (r : Regs) (n : Nat) (c : Cap) : Regs := { r with c := r.c.put n c }
/-- hN. -/
def Regs.rh (r : Regs) (n : Nat) : Handle := r.h.get {} n
/-- hN written. -/
def Regs.wh (r : Regs) (n : Nat) (h : Handle) : Regs := { r with h := r.h.put n h }
/-- tN. -/
def Regs.rt (r : Regs) (n : Nat) : Val 32 := r.t.get ⟨0, false⟩ n
/-- tN written. -/
def Regs.wt (r : Regs) (n : Nat) (v : Val 32) : Regs := { r with t := r.t.put n v }
/-- fN. -/
def Regs.rf (r : Regs) (n : Nat) : FLink := r.f.get {} n
/-- fN written. -/
def Regs.wf (r : Regs) (n : Nat) (l : FLink) : Regs := { r with f := r.f.put n l }
/-- Element (row, column) of bank aN (R177). -/
def Regs.ra (r : Regs) (n row col : Nat) : Val 32 := r.a.get ⟨0, false⟩ (16384 * n + 128 * row + col)
/-- A row of aN written. -/
def Regs.wa (r : Regs) (n row : Nat) (f : Nat → Val 32) : Regs :=
  { r with a := r.a.putRange (16384 * n + 128 * row) 128 f }

/-- The top of the mask stack; all ones at depth 0 (R113). -/
def Regs.top (r : Regs) : Word64 := r.mask.getLast?.getD (BitVec.allOnes 64)
/-- A mask pushed; at depth 16 the bottom entry is lost (R166). -/
def Regs.pushMask (r : Regs) (m : Word64) : Regs :=
  { r with mask := (if r.mask.length = 16 then r.mask.drop 1 else r.mask) ++ [m] }
/-- Lane `l` is active (R151). -/
def Regs.active (r : Regs) (l : Nat) : Bool := r.top.getLsbD l
/-- Loop counter `i`, lc0 innermost (R136). -/
def Regs.loopCount (r : Regs) (i : Nat) : BitVec 32 := r.lc.getD i 0
/-- FCSR.RM as a code of R33 (R38). -/
def Regs.rm (r : Regs) : BitVec 2 := r.fcsr.extractLsb' 8 2
/-- Flags ORed into FCSR (R37). -/
def Regs.flag (r : Regs) (f : BitVec 5) : Regs := { r with fcsr := r.fcsr ||| f.setWidth 32 }

/-- The 8-bit permissions of a capability (R139): bit 0 R, 1 W, 2 X, 3 A, 4 CP, 5 SN, 6 SH, 7 K. -/
def Cap.perm (c : Cap) : BitVec 8 := c.bits.extractLsb' 16 8
/-- BASE. -/
def Cap.base (c : Cap) : Nat := (c.bits.extractLsb' 64 64).toNat
/-- LENGTH. -/
def Cap.len (c : Cap) : Nat := (c.bits.extractLsb' 24 40).toNat
/-- SHAPE. -/
def Cap.shape (c : Cap) : BitVec 16 := c.bits.extractLsb' 0 16
/-- A capability of the fields given. -/
def Cap.make (base : Nat) (len : Nat) (perm : BitVec 8) (shape : BitVec 16) (tag : Bool) : Cap :=
  { bits := BitVec.ofNat 64 base ++ BitVec.ofNat 40 len ++ perm ++ shape, tag }

/-- Permission bits of R139 and R258. -/
def permR : BitVec 8 := 1
def permW : BitVec 8 := 2
def permX : BitVec 8 := 4
def permA : BitVec 8 := 8
def permCP : BitVec 8 := 16
def permSN : BitVec 8 := 32
def permSH : BitVec 8 := 64

/-- Entries of `now` where they changed since `del`, of `old` elsewhere (R420: a reloaded slot reads again what a handler
wrote). -/
def Sparse.refresh {α : Type} [DecidableEq α] (old del now : Sparse α) : Sparse α :=
  (now.filter fun e => del.find e.1 ≠ some e.2).foldl (fun m e => m.put e.1 e.2) old

/-- What the slots of an image read when it is reloaded: operands and the rounding mode copied at issue (R39, R53, R107), and the
vector, accumulator, handle, mask, Seed and nest registers with what has changed since. -/
def Regs.refresh (old del now : Regs) : Regs :=
  { old with
    v := old.v.refresh del.v now.v
    a := old.a.refresh del.a now.a
    h := old.h.refresh del.h now.h
    seed := if now.seed = del.seed then old.seed else now.seed
    mask := if now.mask = del.mask then old.mask else now.mask
    nshadow := old.nshadow.refresh del.nshadow now.nshadow
    nactive := old.nactive.refresh del.nactive now.nactive }
/-- What a younger bundle reads of a register that an older slot has written (R54). Registers that are copied at issue are never
written so: the issue waits for them (R107). -/
def Regs.adopt (old now : Regs) (r : RegName) : Regs :=
  match r with
  | .v n => { old with v := old.v.splice (64 * n) 64 (now.v.filter fun e => e.1 / 64 = n) }
  | .mask => { old with mask := now.mask }
  | .seed => { old with seed := now.seed }
  | _ => old

end Sys2Proof.Machine
end

