-- ==== Sys2Proof/Machine/Launch.lean ====
section
/-! DEFINITION. Tokens and watermarks (R388 to R392), launches, the change of active bank (R49), cohorts (R72 to R75),
barrier objects (R397 to R401) and the steal pass (R64, R65). -/
namespace Sys2Proof.Machine

/-! ## Counters -/

/-- A core counter advanced by `n` (R409). -/
def State.addPerf (s : State) (core csr n : Nat) : State :=
  s.modCore core fun c => { c with perf := c.perf.put csr (c.perf.get 0 csr + BitVec.ofNat 48 n) }
/-- A free number drawn. -/
def State.draw (s : State) (f : Nat → Nat) : Nat × State := (f s.free, { s with free := s.free + 1 })

/-! ## Tokens (R388 to R392) -/

/-- A channel of a context. -/
def Ctx.chan (c : Ctx) (ch : Nat) : Chan := c.chans.get {} ch
/-- A channel replaced. -/
def Ctx.setChan (c : Ctx) (ch : Nat) (x : Chan) : Ctx := { c with chans := c.chans.put ch x }
/-- Every sequence of the channel below `n`, which it has issued, is finished (R390). -/
def Chan.passed (x : Chan) (n : BitVec 26) : Bool := n = x.w || (x.next - x.w).toNat < (n - x.w).toNat
/-- The watermark advanced across finished sequences (R390). -/
def Chan.advance (x : Chan) : Nat → Chan
  | 0 => x
  | n + 1 => if x.done.contains x.w then Chan.advance { x with w := x.w + 1, done := x.done.filter (· ≠ x.w) } n else x
/-- Sequence `s` finished (R390); one that is finished stays so. -/
def Chan.finish (x : Chan) (s : BitVec 26) : Chan :=
  if x.done.contains s ∨ (x.next - x.w).toNat ≤ (s - x.w).toNat then x
  else Chan.advance { x with done := x.done ++ [s] } (x.done.length + 1)
/-- Sequence `s` finished, failed or not. -/
def Chan.finishAs (x : Chan) (s : BitVec 26) (failed : Bool) : Chan :=
  let y := x.finish s
  { y with bad := (if failed then x.bad ++ [s] else x.bad).filter y.done.contains }
/-- A failure logged (R392). -/
def Chan.fail (x : Chan) (s : BitVec 26) (cause : BitVec 8) : Chan :=
  if x.log.length < 4 then { x with log := x.log ++ [(s, cause)] } else { x with ovf := true }
/-- The channel and the sequence of a token (R388). -/
def tokenChan (t : BitVec 32) : Nat := (t.extractLsb' 26 6).toNat
def tokenSeq (t : BitVec 32) : BitVec 26 := t.extractLsb' 0 26
/-- The token is satisfied (R390). -/
def Ctx.satisfied (c : Ctx) (t : BitVec 32) : Bool :=
  let x := c.chan (tokenChan t)
  !((tokenSeq t - x.w).toNat < (x.next - x.w).toNat)
/-- Every token the context has produced is satisfied. -/
def Ctx.allSatisfied (c : Ctx) : Bool := c.chans.all fun e => e.2.next = e.2.w

/-- The resident context of a placement number. -/
def State.ctxOf (s : State) (inc : Nat) : Option Nat :=
  (s.ctxs.find? fun e => e.2.occ = .resident ∧ e.2.inc = inc).map (·.1)

/-! ## Launches (R57, R59) -/

/-- The incomplete launch of a number. -/
def State.launch? (s : State) (n : Nat) : Option Launch := s.launches.find? fun l => l.num = n
/-- The launch a context belongs to. -/
def State.launchOf (s : State) (k : Nat) : Launch := (s.launch? (s.ctx k).regs.launch.toNat).getD { num := 0 }
/-- The launch changed by `f`. -/
def State.modLaunch (s : State) (n : Nat) (f : Launch → Launch) : State :=
  { s with launches := s.launches.map fun l => if l.num = n then f l else l }
/-- The range of R59 of task `i`. -/
def Launch.range (l : Launch) (i : Nat) : Nat × Nat := (i * l.steps / l.count, (i + 1) * l.steps / l.count)
/-- The save slot of a task (R425). -/
def Launch.slot (l : Launch) (task : Nat) : Nat := l.save + 0x200000 * task

/-! ## Banks (R49) -/

/-- A resident context that no page fault blocks (R48). -/
def Ctx.ready (c : Ctx) : Bool := c.occ = .resident && c.pf.isEmpty
/-- The core of a context. -/
def coreOf (k : Nat) : Nat := k / 2
/-- The bank of a context is the active one. -/
def State.isActive (s : State) (k : Nat) : Bool := (s.core (k / 2)).active = k % 2
/-- The active bank becomes that of context `k`; a change counts once in CORE.SWITCHES. -/
def State.activate (s : State) (k : Nat) : State :=
  if s.isActive k then s
  else (s.modCore (k / 2) fun c => { c with active := k % 2 }).addPerf (k / 2) 0x146 1
/-- The other bank of the core. -/
def otherBank (k : Nat) : Nat := if k % 2 = 0 then k + 1 else k - 1
/-- The standby takes over when it is ready (R49). -/
def State.handOver (s : State) (k : Nat) : State :=
  if (s.ctx (otherBank k)).ready then s.activate (otherBank k) else s
/-- Context `k` has become ready: it becomes active when the active bank holds no ready context (R49). -/
def State.wake (s : State) (k : Nat) : State :=
  if (s.ctx (2 * (k / 2) + (s.core (k / 2)).active)).ready then s else s.activate k

/-! ## Cohorts (R72, R73) -/

/-- The byte of a cohort's area that holds a task's bit. -/
def cohortByte (l : Launch) (cohort task : Nat) : Nat := l.cohorts + 512 * cohort + task / 8
/-- The task is a member. Cohort 0 holds every context of the launch that has not ended. -/
def State.member (s : State) (l : Launch) (cohort task : Nat) : Bool :=
  if cohort = 0 then task < l.count && !l.ended.contains task
  else (s.peek (cohortByte l cohort task)).v.getLsbD (task % 8)
/-- The membership of a cohort passes through the home slices (R234). -/
def State.readCohort (s : State) (l : Launch) (cohort : Nat) : State :=
  if cohort = 0 then s else s.touchRead .fill (l.cohorts + 512 * cohort) 512
/-- The members, by task. -/
def State.members (s : State) (l : Launch) (cohort : Nat) : List Nat := (List.range l.count).filter (s.member l cohort)
/-- The task's bit set or cleared. -/
def State.setMember (s : State) (l : Launch) (cohort task : Nat) (b : Bool) : State :=
  if cohort = 0 then s
  else
    let a := cohortByte l cohort task
    let v := (s.peek a).v
    s.pokeNat a 1 (if b then v ||| ((1 : Byte) <<< (task % 8)) else v &&& ~~~((1 : Byte) <<< (task % 8))).toNat

/-! ## Barrier objects (R397, R399) -/

/-- Fields of a barrier object. -/
def State.barCohort (s : State) (b : Nat) : Nat := s.peekNat b 2
def State.barScope (s : State) (b : Nat) : Nat := s.peekNat (b + 2) 1
def State.barFlag (s : State) (b i : Nat) : Bool := (s.peek (b + 3)).v.getLsbD i
def State.barRemain (s : State) (b : Nat) : Nat := s.peekNat (b + 4) 4
def State.barPhase (s : State) (b : Nat) : Word64 := BitVec.ofNat 64 (s.peekNat (b + 8) 8)
def State.barPending (s : State) (b : Nat) : Nat := s.peekNat (b + 16) 8
def State.barLaunch (s : State) (b : Nat) : Nat := s.peekNat (b + 24) 2
def State.barExpect (s : State) (b task : Nat) : Bool := (s.peek (b + 64 + task / 8)).v.getLsbD (task % 8)
/-- FLAGS: INIT, FAIL and LFAIL. -/
def State.setBarFlags (s : State) (b : Nat) (ini fail lfail : Bool) : State :=
  s.pokeNat (b + 3) 1 (ini.toNat + 2 * fail.toNat + 4 * lfail.toNat)
/-- EXPECT and REMAIN of the members as they are now. -/
def State.setExpect (s : State) (b : Nat) (ms : List Nat) : State :=
  let s := s.poke .fill (b + 64) 512 fun i =>
    ⟨(List.range 8).foldl (fun (v : Byte) j => if ms.contains (8 * i + j) then v ||| ((1 : Byte) <<< j) else v) 0, false⟩
  s.pokeNat (b + 4) 4 ms.length

/-- The directory entry of an object. -/
def State.bar? (s : State) (b : Nat) : Option BarEntry := s.bars.find? fun e => e.pa = b
/-- The directory entry changed. -/
def State.modBar (s : State) (b : Nat) (f : BarEntry → BarEntry) : State :=
  { s with bars := s.bars.map fun e => if e.pa = b then f e else e }

/-- A task's arrival takes effect: its EXPECT bit cleared and REMAIN one less. -/
def State.arriveBit (s : State) (b task : Nat) : State :=
  let a := b + 64 + task / 8
  let s := s.pokeNat a 1 ((s.peek a).v &&& ~~~((1 : Byte) <<< (task % 8))).toNat
  let s := s.pokeNat (b + 4) 4 (s.barRemain b + 0xFFFFFFFF)
  s.modBar b fun e => { e with begun := true }

/-- check(B) of R399, with the deferred arrivals it processes. `fuel` bounds the phases that can complete at once: each
needs an arrival that was deferred. -/
def State.barCheck (s : State) (b : Nat) : Nat → State
  | 0 => s
  | fuel + 1 =>
    if s.barRemain b = 0 ∧ s.barPending b = 0 then
      let s := (s.setBarFlags b (s.barFlag b 0) false (s.barFlag b 1)).pokeNat (b + 8) 8 ((s.barPhase b).toNat + 1)
      let l := (s.launch? (s.barLaunch b)).getD { num := 0 }
      let s := (s.readCohort l (s.barCohort b)).setExpect b (s.members l (s.barCohort b))
      let ds := ((s.bar? b).map (·.deferred)).getD []
      let s := s.modBar b fun e => { e with begun := false, deferred := [] }
      ds.foldl (init := s) fun s t =>
        if s.barExpect b t then
          let s := s.modBar b fun e => { e with phases := e.phases ++ [(t, s.barPhase b)] }
          (s.arriveBit b t).barCheck b fuel
        else s.modBar b fun e => { e with deferred := e.deferred ++ [t] }
    else s

/-- The fuel of a check: one phase now, and one for each deferred arrival. -/
def State.barFuel (s : State) (b : Nat) : Nat := ((s.bar? b).map fun e => e.deferred.length).getD 0 + 1

/-- A LEAVE, or the end of a task, reaches the objects of the cohort (R74, R398): a member that has not arrived arrives, and the object
is checked in any case (R399). -/
def State.leaveBars (s : State) (launch cohort task : Nat) : State :=
  (s.bars.filter fun e => e.launch = launch ∧ e.cohort = cohort).foldl (init := s) fun s e =>
    (if s.barExpect e.pa task then s.arriveBit e.pa task else s).barCheck e.pa (s.barFuel e.pa)

/-- JOIN (R73). -/
def State.joinCohort (s : State) (l : Launch) (cohort task : Nat) : State := s.setMember l cohort task true
/-- LEAVE (R73). A LEAVE on cohort 0 has no effect. -/
def State.leaveCohort (s : State) (l : Launch) (cohort task : Nat) : State :=
  if cohort = 0 ∨ !s.member l cohort task then s
  else (s.setMember l cohort task false).leaveBars l.num cohort task
/-- The ids of the cohorts a task is a member of, cohort 0 aside. -/
def State.cohortsOf (s : State) (l : Launch) (task : Nat) : List Nat :=
  (s.mem.filter fun e =>
    l.cohorts + 512 ≤ e.1 ∧ e.1 < l.cohorts + 0x2000000 ∧ (e.1 - l.cohorts) % 512 = task / 8 ∧ e.2.getLsbD (task % 8)).map
    fun e => (e.1 - l.cohorts) / 512
/-- A task that ends leaves every cohort (R75), cohort 0 by being counted as ended. -/
def State.leaveAll (s : State) (l : Launch) (task : Nat) : State :=
  let s := (s.cohortsOf l task).foldl (fun s i => s.leaveCohort l i task) s
  let s := s.modLaunch l.num fun l => { l with ended := l.ended.setRange task 1 fun _ => true }
  s.leaveBars l.num 0 task

/-- The bytes a registered command's finish subtracts (R401). -/
def State.barSubtract (s : State) (b n : Nat) (failed : Bool) : State :=
  let s := s.pokeNat (b + 16) 8 (s.barPending b + (2 ^ 64 - n % 2 ^ 64))
  let s := if failed then s.setBarFlags b (s.barFlag b 0) true (s.barFlag b 2) else s
  s.barCheck b (s.barFuel b)

/-- phase_in_progress(B) of R401. -/
def State.phaseInProgress (s : State) (b : Nat) : Bool :=
  (match s.bar? b with | some e => e.begun || !e.deferred.isEmpty | none => false) || s.barPending b ≠ 0

/-! ## The steal pass (R64, R65) -/

/-- The place of context `v` in the order in which thief `k` visits contexts (R64, steps 1 to 4). -/
def stealRank (k v : Nat) : Nat :=
  let core := k / 2
  let j := core % 8; let g := core / 8 % 16; let c := core / 128
  let w := v / 2
  let j' := w % 8; let g' := w / 8 % 16; let c' := w / 128
  if w = core then 0
  else if c' = c ∧ g' = g then 2 * ((j' + 8 - j) % 8) + v % 2
  else if c' = c then 100 + ((g' + 16 - g) % 16 * 8 + j') * 2 + v % 2
  else 10000 + (((c' + 16 - c) % 16 * 16 + g') * 8 + j') * 2 + v % 2

/-- A victim's exchange with a thief (R65): half of its range, rounded down, taken from the top. -/
def State.giveHalf (s : State) (v k : Nat) : State :=
  let c := s.ctx v
  let g := (c.regs.wrhi - c.regs.wrlo) / 2
  let s := s.modCtx v fun c => { c with regs := { c.regs with wrhi := c.regs.wrhi - g } }
  s.modCtx k fun t => { t with regs := { t.regs with wrlo := c.regs.wrhi - g, wrhi := c.regs.wrhi } }
/-- Context `v` can give a range to `k`: it is of the same launch and at least two steps remain to it. -/
def State.canGive (s : State) (v k : Nat) : Bool :=
  let c := s.ctx v
  v ≠ k && c.occ = .resident && c.regs.launch = (s.ctx k).regs.launch && c.regs.wrlo < c.regs.wrhi &&
    2 ≤ (c.regs.wrhi - c.regs.wrlo).toNat
/-- One pass: the first context of the launch with at least two steps left gives half, else the largest held range gives
half rounded up (R65). -/
def State.stealPass (s : State) (k : Nat) : State :=
  let l := (s.ctx k).regs.launch
  let give := (s.ctxs.map (·.1)).filter fun v => s.canGive v k
  match give.foldl (fun (b : Option Nat) v => match b with
      | none => some v
      | some w => if stealRank k v < stealRank k w then some v else b) none with
  | some v => s.giveHalf v k
  | none =>
    match (s.launch? l.toNat).bind fun l =>
        (l.held.filter fun h => h.lo < h.hi).foldl (fun (b : Option HeldRange) h => match b with
          | none => some h
          | some f =>
            if f.hi - f.lo < h.hi - h.lo ∨ (f.hi - f.lo = h.hi - h.lo ∧ h.task < f.task) then some h else b) none with
    | some h =>
      let g := (h.hi - h.lo + 1) / 2
      let s := s.modLaunch l.toNat fun l =>
        { l with held := l.held.map fun e => if e = h then { e with hi := h.hi - g } else e }
      s.modCtx k fun t =>
        { t with regs := { t.regs with wrlo := BitVec.ofNat 41 (h.hi - g), wrhi := BitVec.ofNat 41 h.hi } }
    | none => s

end Sys2Proof.Machine
end

