-- ==== Sys2Proof/Machine/Save.lean ====
section
/-! DEFINITION. CTX CSRs as they read (R61, R62, R112, R113, R415, R416), and the save slot (R425): written by saves, trap
delivery and termination, and read by a restore. -/
namespace Sys2Proof.Machine

/-! ## CTX CSRs -/

/-- CTX.XSTAT (R62). -/
def Ctx.xstat (c : Ctx) (k : Nat) : Word64 :=
  let r := c.regs
  (0 : BitVec 16) ++ r.launch ++ r.task ++ r.qdepth ++ (0 : BitVec 2) ++ r.prio ++ BitVec.ofBool r.openStep ++
    (0 : BitVec 7) ++ BitVec.ofBool (k % 2 = 1)
/-- CTX.STACKS (R113). -/
def Ctx.stacks (c : Ctx) : Word64 := BitVec.ofNat 64 (c.regs.ldepth * 256 + c.regs.mask.length)
/-- FF.CTL (R415). -/
def Ctx.ffctl (c : Ctx) : Word64 :=
  BitVec.ofNat 64 (c.pend.length * 4096 + c.regs.lost.toNat * 256 + c.regs.act.toNat * 4 + c.regs.mode.toNat)
/-- N.STATE (R190). -/
def Regs.nstate (r : Regs) : Word64 := BitVec.ofBool r.nrun ++ (0 : BitVec 23) ++ r.nsteps
/-- A CTX CSR as it reads, context id `k` (R112). -/
def Ctx.csr (c : Ctx) (k n : Nat) : Word64 :=
  match n with
  | 0 => c.regs.fcsr.setWidth 64
  | 1 => c.xstat k
  | 2 => c.regs.wrlo.setWidth 64
  | 3 => c.regs.wrhi.setWidth 64
  | 4 => c.regs.step.setWidth 64
  | 5 => c.stacks
  | 6 => c.regs.qmode
  | 8 => c.regs.lodS.setWidth 64
  | 9 => c.regs.lodVL.setWidth 64
  | 10 => c.regs.lodVA.setWidth 64
  | 0x10 => c.ffctl
  | n => if 0x11 ≤ n ∧ n < 0x3F then c.regs.ff.get 0 n else 0
/-- The number of the first CSR of frame `n` (R416). -/
def frameBase (n : Nat) : Nat := if n = 2 then 0x28 else 0x11

/-! ## Recorded bundles (R418) -/

/-- The issued bundles that have slots which have not taken effect, the oldest first, and the S sequencer's last. -/
def Ctx.flight (c : Ctx) : List Issue := c.older ++ c.issue :: c.younger
/-- The bundle of the S sequencer. -/
def Ctx.front (c : Ctx) : Issue := c.younger.getLastD c.issue
/-- The bundle holds a slot of a unit. -/
def Issue.has (i : Issue) (u : ExecUnit) : Bool := i.todo.any fun q => q.exu = u
/-- Slots of a queue that have not taken effect. -/
def Ctx.queued (c : Ctx) (u : ExecUnit) : List QSlot := c.flight.flatMap fun i => i.todo.filter fun q => q.exu = u
/-- The position of a queue: the bundle of its oldest slot that has not taken effect, or the S sequencer's position. -/
def Ctx.queuePc (c : Ctx) (u : ExecUnit) (pcS : Word64) : Word64 := ((c.flight.find? (·.has u)).map (·.addr)).getD pcS
/-- The S sequencer's position: the bundle after the issued one, or its target, or the bundle to issue. -/
def Ctx.resumePc (c : Ctx) : Word64 :=
  if c.front.has .s then c.front.target.getD c.front.next else c.pc

/-! ## Writing a save slot -/

/-- A table of `count` entries of `size` bytes written at `a`. -/
def State.pokeTab (s : State) (a count size : Nat) (f : Nat → Nat) : State :=
  s.poke .nt a (count * size) fun i => ⟨BitVec.ofNat 8 (f (i / size) / 256 ^ (i % size)), false⟩
/-- A bit map of `n` bits written. -/
def State.pokeBits (s : State) (a n : Nat) (f : Nat → Bool) : State :=
  s.pokeTab a ((n + 7) / 8) 1 fun i => (List.range 8).foldl (fun v j => v + (f (8 * i + j)).toNat * 2 ^ j) 0
/-- An opaque area of `n` bytes: what stands in it is private to the device (R414); DESIGN CHOICE, log entry 5. -/
def State.pokeOpaque (s : State) (a n stamp : Nat) : State :=
  s.poke .nt a n fun i => ⟨Config.byte stamp i, false⟩
/-- The opaque area still holds what the device wrote (R414). -/
def State.opaqueIntact (s : State) (a n stamp : Nat) : Bool :=
  (List.range n).all fun i => s.peek (a + i) = ⟨Config.byte stamp i, false⟩

/-- The image area of a level, or of a save (level 0). -/
def imageArea (level : Nat) : Nat := 0x9000 + 0x2000 * level

/-- The word of a channel's log entry in a save slot. -/
def logWord (e : Option (BitVec 26 × BitVec 8)) : Nat :=
  match e with | some (s, c) => s.toNat + c.toNat * 2 ^ 32 | none => 0

/-- Word `j` of a channel in a save slot: NEXT and W, the log entries, OVF; DESIGN CHOICE, log entry 9. -/
def Chan.word (x : Chan) (j : Nat) : Nat :=
  match j with
  | 0 => x.next.toNat + x.w.toNat * 2 ^ 32
  | 5 => x.ovf.toNat
  | 6 => 0
  | 7 => 0
  | j => logWord x.log[j - 1]?

/-- The slot of context `k` written at `a`: KIND, registers, and for a forced save or a termination the accumulators and
the sequencer positions; `win` adds the scratchpad window (R76, R425). -/
def State.writeSlot (s : State) (a k kind : Nat) (full win : Bool) : State :=
  let c := s.ctx k
  let r := c.regs
  let l := s.launchOf k
  let s := s.pokeTab a 1 8 fun _ => kind
  let pcS := c.resumePc
  let s := if full then s.pokeTab (a + 8) 5 8 fun i =>
      (([pcS, c.queuePc .vl pcS, c.queuePc .va pcS, c.queuePc .vs pcS, c.queuePc .mx pcS].getD i 0) : Word64).toNat else s
  let s := s.pokeTab (a + 0x40) 48 8 fun i => (c.csr k (0x10 + i)).toNat
  let s := s.pokeTab (a + 0x200) 64 8 fun i => (r.rx i).v.toNat
  let s := s.pokeBits (a + 0x400) 64 fun i => (r.rx i).psn
  let s := s.pokeTab (a + 0x408) 32 4 fun i => (r.rt i).v.toNat
  let s := s.pokeBits (a + 0x488) 32 fun i => (r.rt i).psn
  let s := s.pokeBits (a + 0x490) 128 fun i => i < 96 && (r.rp i).v = 1
  let s := s.pokeBits (a + 0x4A0) 96 fun i => (r.rp i).psn
  let s := s.pokeTab (a + 0x4B0) 4 4 fun i => (r.loopCount i).toNat
  let s := s.pokeTab (a + 0x4C0) 16 8 fun i => (r.mask.getD i 0).toNat
  let s := s.pokeTab (a + 0x540) 8 8 fun i =>
    let f := r.rf i
    f.valid.toNat * 2 ^ 63 + f.peer.toNat * 2 ^ 16 + f.endp.toNat
  let s := s.pokeTab (a + 0x580) 16 16 fun i => (r.rc i).bits.toNat
  let s := s.pokeBits (a + 0x680) 16 fun i => (r.rc i).tag
  let s := s.pokeBits (a + 0x682) 16 fun i => (r.rc i).psn
  let s := s.pokeTab (a + 0x690) 10 8 fun i => (c.csr k (if i < 7 then i else i + 1)).toNat
  let s := s.pokeTab (a + 0x800) 64 8 fun i => (r.nshadow.get 0 i).toNat
  let s := s.pokeTab (a + 0xA00) 64 8 fun i => (r.nactive.get 0 i).toNat
  let s := s.pokeTab (a + 0xC00) 1 8 fun _ => r.nstate.toNat
  let s := s.pokeTab (a + 0x1000) 512 8 fun i => (c.chan (i / 8)).word (i % 8)
  let s := s.pokeTab (a + 0x2000) 64 4 fun i => (r.seed.getD i 0).toNat
  let s := s.pokeTab (a + 0x4000) 4096 4 fun i => (r.v.get ⟨0, false⟩ i).v.toNat
  let s := s.pokeBits (a + 0x8000) 4096 fun i => (r.v.get ⟨0, false⟩ i).psn
  let s := if full then
      (s.pokeTab (a + 0x10000) 65536 4 fun i => (r.a.get ⟨0, false⟩ i).v.toNat).pokeBits (a + 0x50000) 65536
        fun i => (r.a.get ⟨0, false⟩ i).psn
    else s
  if win then
    let w := fun i => scratchAddr (k / 2) (l.swoff + i)
    let s0 := s
    let s := s.pokeBits (a + 0x60000) (l.swlen / 2) fun i =>
      if i % 2 = 0 then s0.isFull (w (i / 2 * 4)) else s0.isCap (w (i / 2 * 4))
    let s := s.pokeBits (a + 0x70000) (l.swlen / 4) fun i => (s0.peek (w (i * 4))).psn
    s.poke .nt (a + 0x100000) l.swlen fun i => ⟨(s0.peek (w i)).v, false⟩
  else s

/-! ## Reading a save slot -/

/-- Entry `i` of a table in memory, poisoned when any of its bytes is. -/
def State.tab (s : State) (a size i : Nat) : Nat × Bool :=
  let bs := s.peekN (a + size * i) size
  (leNat bs, anyPsn bs)
/-- Bit `i` of a map in memory. -/
def State.bitAt (s : State) (a i : Nat) : Bool := (s.peek (a + i / 8)).v.getLsbD (i % 8)
/-- A word with poison from the slot. -/
def State.tabVal (s : State) (w a size map i : Nat) : Val w :=
  let (v, p) := s.tab a size i
  if p || s.bitAt map i then ⟨0, true⟩ else ⟨BitVec.ofNat w v, false⟩
/-- A sparse table of the entries that differ from a default. -/
def sparseOf {α : Type} [DecidableEq α] (dflt : α) (n : Nat) (f : Nat → α) : Sparse α :=
  (List.range n).filterMap fun i => if f i = dflt then none else some (i, f i)

/-- Channel `n` of the slot at `a`. -/
def State.slotChan (s : State) (a n : Nat) : Chan :=
  let w : Word64 := BitVec.ofNat 64 (s.tab (a + 0x1000) 8 (8 * n)).1
  { next := w.extractLsb' 0 26
    w := w.extractLsb' 32 26
    log := (List.range 4).filterMap fun i =>
      let e : Word64 := BitVec.ofNat 64 (s.tab (a + 0x1000) 8 (8 * n + 1 + i)).1
      if e.extractLsb' 32 8 = 0 then none else some (e.extractLsb' 0 26, e.extractLsb' 32 8)
    ovf := s.bitAt (a + 0x1000 + 64 * n + 40) 0 }
/-- The register state that the slot at `a` holds, handles EMPTY (R111), and whether a kind without a poison bit was read
poisoned (R110). -/
def State.readSlot (s : State) (a : Nat) (full : Bool) : Regs × Sparse Chan × Bool :=
  let csr := fun i => BitVec.ofNat 64 (s.tab (a + 0x690) 8 i).1
  let ff := fun n => BitVec.ofNat 64 (s.tab (a + 0x40) 8 (n - 0x10)).1
  let xs : Word64 := csr 1
  let st : Word64 := csr 5
  let ctl : Word64 := ff 0x10
  let ns : Word64 := BitVec.ofNat 64 (s.tab (a + 0xC00) 8 0).1
  let r : Regs :=
    { x := (sparseOf ⟨0, false⟩ 64 fun i => s.tabVal 64 (a + 0x200) 8 (a + 0x400) i).del 0
      t := sparseOf ⟨0, false⟩ 32 fun i => s.tabVal 32 (a + 0x408) 4 (a + 0x488) i
      p := (sparseOf ⟨0, false⟩ 96 fun i =>
        ⟨.ofBool (s.bitAt (a + 0x490) i), s.bitAt (a + 0x4A0) i || (s.peek (a + 0x490 + i / 8)).psn⟩).del 0
      v := sparseOf ⟨0, false⟩ 4096 fun i => s.tabVal 32 (a + 0x4000) 4 (a + 0x8000) i
      a := if full then sparseOf ⟨0, false⟩ 65536 fun i => s.tabVal 32 (a + 0x10000) 4 (a + 0x50000) i else []
      c := sparseOf {} 16 fun i =>
        let (b, p) := s.tab (a + 0x580) 16 i
        { bits := BitVec.ofNat 128 b, tag := s.bitAt (a + 0x680) i, psn := p || s.bitAt (a + 0x682) i }
      f := sparseOf {} 8 fun i =>
        let w : Word64 := BitVec.ofNat 64 (s.tab (a + 0x540) 8 i).1
        { valid := w.getLsbD 63, peer := w.extractLsb' 16 14, endp := w.extractLsb' 0 8 }
      seed := (List.range 64).map fun i => BitVec.ofNat 32 (s.tab (a + 0x2000) 4 i).1
      mask := (List.range (st.toNat % 32)).map fun i => BitVec.ofNat 64 (s.tab (a + 0x4C0) 8 i).1
      lc := (List.range 4).map fun i => BitVec.ofNat 32 (s.tab (a + 0x4B0) 4 i).1
      ldepth := st.toNat / 256 % 8
      nshadow := sparseOf 0 64 fun i => BitVec.ofNat 64 (s.tab (a + 0x800) 8 i).1
      nactive := sparseOf 0 64 fun i => BitVec.ofNat 64 (s.tab (a + 0xA00) 8 i).1
      nrun := ns.getLsbD 63
      nsteps := ns.extractLsb' 0 40
      fcsr := (csr 0).extractLsb' 0 32
      launch := xs.extractLsb' 32 16
      task := xs.extractLsb' 20 12
      qdepth := xs.extractLsb' 13 7
      prio := xs.extractLsb' 9 2
      openStep := xs.getLsbD 8
      wrlo := (csr 2).extractLsb' 0 41
      wrhi := (csr 3).extractLsb' 0 41
      step := (csr 4).extractLsb' 0 41
      qmode := csr 6
      lodS := (csr 7).extractLsb' 0 48
      lodVL := (csr 8).extractLsb' 0 48
      lodVA := (csr 9).extractLsb' 0 48
      lost := ctl.getLsbD 8
      act := ctl.getLsbD 2
      mode := ctl.extractLsb' 0 2
      ff := (List.range 46).map fun i => (0x11 + i, ff (0x11 + i)) }
  let chans : Sparse Chan := sparseOf {} 64 fun n => s.slotChan a n
  let plain := [(0x40, 384), (0x4B0, 16), (0x4C0, 128), (0x540, 64), (0x690, 80), (0x800, 0x408), (0x1000, 4096), (0x2000, 256)]
  (r, chans, plain.any fun (o, n) => (List.range n).any fun i => (s.peek (a + o + i)).psn)

/-- The scratchpad window of the slot written back at the same offsets (R77). -/
def State.readWindow (s : State) (a k : Nat) (l : Launch) : State :=
  let s0 := s
  let s := s.poke .fill (scratchAddr (k / 2) l.swoff) l.swlen fun i =>
    let b := s0.peek (a + 0x100000 + i)
    ⟨b.v, b.psn || s0.bitAt (a + 0x70000) (i / 4)⟩
  (List.range (l.swlen / 4)).foldl (init := s) fun s i =>
    let w := scratchAddr (k / 2) (l.swoff + 4 * i)
    (s.setF w (s0.bitAt (a + 0x60000) (2 * i))).setC w (s0.bitAt (a + 0x60000) (2 * i + 1))

end Sys2Proof.Machine
end

