-- ==== Sys2Proof/Machine/Ops.lean ====
section
/-! DEFINITION. What every meaning ends in: a slot that has taken effect, one that waits, one that raises a cause, one that
takes the page-fault path. Taking an exception and returning from one (R412 to R420), the page-fault path (R422), the end
and the termination of a context (R67, R71, R426), step-boundary and forced saves (R76, R77). -/
namespace Sys2Proof.Machine

/-! ## Device registers of this chapter -/

def csrTrapEnt : Nat := 0x80000
def csrPfCtl : Nat := 0x80010
def csrDbgAttach : Nat := 0x80040

/-! ## The end of a context -/

/-- The requests of a slot of context `k`, or of its fetch; those of its entries in the replay queue. -/
def Owner.ofSlot (o : Owner) (k : Nat) : Bool := match o with | .slot j _ => j = k | _ => false
def Owner.ofReplay (o : Owner) (k : Nat) : Bool := match o with | .replay j _ => j = k | _ => false
/-- The bank is empty (R49). The accumulators stay (R78), GEN too (R422), and so does the reservation of R385. -/
def State.emptyBank (s : State) (k : Nat) : State :=
  let c := s.ctx k
  let s := s.setCtx k
    { gen := c.gen, lastLaunch := some (s.launchOf k).cmd, regs := { a := c.regs.a }, preempt := c.preempt }
  let s := s.modCore (k / 2) fun e => { e with replay := e.replay.filter fun r => r.ctx ≠ k }
  let s := { s with reqs := s.reqs.filter fun (r : Req) => r.owner.ofSlot k = false ∧ r.owner.ofReplay k = false }
  if s.isActive k then s.handOver k else s

/-- A context no longer stands in the way of a CODESWAP's completion (R68). -/
def State.passSwaps (s : State) (launch task : Nat) : State :=
  { s with swaps := s.swaps.map fun w => (w.1, w.2.filter fun t => t ≠ (launch, task)) }
/-- The bytes that a request reads or writes, from its address on. -/
def Ask.size : Ask → Nat
  | .read n => n | .write bs => bs.length | .atomic _ w8 .. => if w8 then 8 else 4 | .charm .. => 4 | _ => 0
/-- A request made: it takes the next number. -/
def State.numberReq (s : State) (r : Req) : State :=
  let host := if r.owner = .device then r.addr else ((s.hostWindow (r.addr % 2 ^ 50 - hostBase) r.act.size).map (·.1)).getD 0
  { s with reqs := s.reqs ++ [{ r with tag := s.nextReq, host, since := s.gt }], nextReq := s.nextReq + 1 }
/-- A request of the context that runs. -/
def State.addReq (s : State) (r : Req) : State :=
  let c := s.ctx s.cur
  s.numberReq { r with issue := c.issue.addr, launch := c.regs.launch.toNat, task := c.regs.task.toNat }

/-! ## Write-combining buffers drained (R254) -/

/-- The runs of valid bytes of a buffer, as posted writes. -/
def WcBuf.runs (w : WcBuf) : List (Nat × List (Val 8)) :=
  (w.bytes.foldl (fun (acc : List (Nat × List (Val 8))) e => match acc with
    | (lo, bs) :: rest => if lo + bs.length = e.1 then (lo, bs ++ [e.2]) :: rest else (e.1, [e.2]) :: acc
    | [] => [(e.1, [e.2])]) []).reverse
/-- A buffer of a placement drained: its bytes go to the host. -/
def State.sendBuf (s : State) (inc asid launch task : Nat) (issue : Word64) (w : WcBuf) : State :=
  w.runs.foldl (fun s (o, bs) =>
    s.numberReq { owner := .posted inc, addr := w.pa + o, act := .write bs, scope := 6, asid, launch, task, issue }) s
/-- A buffer of context `k` drained. -/
def State.drainWc (s : State) (k : Nat) (w : WcBuf) : State :=
  let c := s.ctx k
  s.sendBuf c.inc (s.launchOf k).asid c.regs.launch.toNat c.regs.task.toNat c.issue.addr w
/-- Every buffer of a context drained. -/
def State.drainAll (s : State) (k : Nat) : State :=
  let c := s.ctx k
  (c.wc.foldl (fun s w => s.drainWc k w) s).modCtx k fun c => { c with wc := [] }
/-- Every buffer of a saved context drained. -/
def State.drainSaved (s : State) (e : Ready) (v : Saved) : State :=
  let asid := ((s.launch? e.launch).map (·.asid)).getD 0
  v.wc.foldl (fun s w => s.sendBuf v.inc asid e.launch e.task 0 w) s

/-- The end of a task cancels its triggers (R406), and a group that it leads, or is about to bind, unbinds after the commands already
issued (R370). -/
def State.taskGone (s : State) (inc launch task k : Nat) : State :=
  let s := { s with trigs := s.trigs.filter fun t => t.inc ≠ inc }
  let ctl := s.csr 0xC00
  let leads := ctl.getLsbD 63 ∧ (ctl.extractLsb' 16 12).toNat = task ∧ (ctl.extractLsb' 0 16).toNat = launch
  let binds := s.cmds.any fun c => c.launch = launch && c.task = task && (match c.op with | .qbmap _ => true | _ => false)
  if leads ∨ binds = true then
    let e : Cmd :=
      { id := s.nextCmd, inc := 0, launch, task, ctx := k, asid := 0, token := 0, unit := .age, op := .qbmapEnd, since := s.gt }
    { s with cmds := s.cmds ++ [e], nextCmd := s.nextCmd + 1 }
  else s
/-- STEPEND with no step open, and exhaustion at placement (R60, R67): the task ends. Its stores to the host leave. Steps left in its
range stay untaken, and no context holds them: DEDUCED, log entry 52. -/
def State.endTask (s : State) (k : Nat) : State :=
  let c := s.ctx k
  let t := c.regs.task.toNat
  let l := s.launchOf k
  let s := (s.drainAll k).taskGone c.inc c.regs.launch.toNat t k
  ((s.leaveAll l t).passSwaps l.num t).emptyBank k

/-- A ready-list entry's place: by arrival, then launch, then task (R382). -/
def Ready.before (a b : Ready) : Bool :=
  a.arrival < b.arrival || (a.arrival = b.arrival && (a.launch < b.launch || (a.launch = b.launch && a.task < b.task)))
/-- An entry put at its place. -/
def State.enlist (s : State) (e : Ready) : State :=
  { s with ready := s.ready.filter (fun f => f.before e) ++ [e] ++ s.ready.filter fun f => !f.before e }

/-- Steps that task `t` gives back (R71): its remaining range, with the open step in front of it, as one held range; Untaken grows by the open step,
since it still counts the others (R63). `others` says whether another context of the launch is placed or saved. DEDUCED, log entry 50. -/
def State.giveBack (s : State) (l : Launch) (t : Nat) (open_ : Bool) (step wrlo wrhi : Nat) (others : Bool) : State :=
  let lo := if open_ then step else wrlo
  let hi := if wrlo < wrhi then wrhi else if open_ then step + 1 else lo
  let again := lo < hi && !l.faulted && (l.untaken = 0 || !others)
  let s := s.modLaunch l.num fun l =>
    { l with
      untaken := l.untaken + open_.toNat
      held := if lo < hi then l.held ++ [⟨t, lo, hi⟩] else l.held
      ended := if again then l.ended.filter (· ≠ t) else l.ended }
  if again then s.enlist { launch := l.num, task := t, prio := l.prio, arrival := s.gt, since := s.gt } else s
/-- Another context of a launch than `k` is placed, or one than task `t` is saved. -/
def State.othersOf (s : State) (launch k t : Nat) : Bool :=
  (s.ctxs.any fun e => e.1 ≠ k ∧ e.2.occ = .resident ∧ e.2.regs.launch.toNat = launch) ||
    (s.ready.any fun e => e.launch = launch ∧ e.task ≠ t ∧ e.saved.isSome) ||
    s.saving.any fun v => v.entry.launch = launch ∧ v.entry.task ≠ t
/-- The steps a terminated context returns. -/
def State.returnRange (s : State) (k : Nat) : State :=
  let r := (s.ctx k).regs
  let l := s.launchOf k
  s.giveBack l r.task.toNat r.openStep r.step.toNat r.wrlo.toNat r.wrhi.toNat (s.othersOf l.num k r.task.toNat)

/-- Commands of a placement that still wait in a TCE or send channel queue (R427). -/
def Cmd.queued (c : Cmd) (inc : Nat) : Bool :=
  c.inc = inc && c.phase = .queued && (match c.unit with | .tce _ => true | .send _ => true | _ => false)

/-- The barrier registrations of a command that stops: their subtractions set out for the barriers (R401). -/
def State.settleBars (s : State) (inc : Nat) (token : BitVec 32) (failed : Bool) : State :=
  let mine := fun r : Nat × Nat × BitVec 32 × Nat => r.2.1 = inc ∧ r.2.2.1 = token
  let go := (s.regd.filter fun r => mine r).map fun r => (r.1, r.2.2.2, failed)
  { s with regd := s.regd.filter (fun r => ¬ mine r), subs := s.subs ++ go }

/-- The slots of bundles that have not taken effect, and those of an image. -/
def slotCount (is : List Issue) : Nat := (is.map fun i => i.todo.length).sum
def Image.slots (i : Image) : Nat := slotCount (i.older ++ [i.issue])
/-- The tokens of slots of the MX queue that have not taken effect. -/
def issueToks (is : List Issue) : List (BitVec 32) := is.flatMap fun i => i.todo.filterMap fun q => q.tok
def imageToks (i : Option Image) : List (BitVec 32) := (i.map fun i => issueToks (i.older ++ [i.issue])).getD []
/-- Commands of a placement that wait in a queue are discarded, with the slots whose tokens are `toks`: the tokens count as failed, and
the placement's clasps abort (R323, R427). -/
def State.dropWork (s : State) (inc : Nat) (toks : List (BitVec 32)) : State :=
  let drop := s.cmds.filter fun d => d.queued inc
  let s := { s with
    cmds := s.cmds.filter fun d => !d.queued inc
    clasps := s.clasps.map fun (g : Clasp) => if g.inc = inc then { g with aborted := true } else g }
  (drop.map (·.token) ++ toks).foldl (fun s t => s.settleBars inc t true) s
/-- The task of a saved context is over: its slot gets KIND and the counts of what is dropped, its stores to the host leave, and cohorts
are left (R426, R427). -/
def State.endSaved (s : State) (l : Launch) (e : Ready) (v : Saved) (kind : Nat) : State :=
  let a := l.slot e.task
  let images := fun i : Option Image => (i.map Image.slots).getD 0
  let drop := (s.cmds.filter fun d => d.queued v.inc).length
  let s := s.pokeTab a 1 8 fun _ => kind
  let s := s.pokeTab (a + 0x30) 4 4 fun i =>
    [images v.image + images v.img1 + images v.img2, drop, v.replay.length, v.pend.length].getD i 0
  let s := s.dropWork v.inc (imageToks v.image ++ imageToks v.img1 ++ imageToks v.img2)
  (((s.drainSaved e v).taskGone v.inc l.num e.task v.ctx).leaveAll l e.task).passSwaps l.num e.task
/-- Launch `n` is marked faulted (R426): its unplaced tasks and saved contexts are removed and count as ended, and the save
slots of the latter get KIND 2 with FATAL. -/
def State.faultLaunch (s : State) (n : Nat) (cause : BitVec 8) : State :=
  match s.launch? n with
  | none => s
  | some l =>
    let gone := s.ready.filter fun e => e.launch = n
    let s := { s with ready := s.ready.filter fun e => e.launch ≠ n }
    let s := s.modLaunch n fun l => { l with faulted := true, cause := if l.faulted then l.cause else cause }
    gone.foldl (init := s) fun s e => match e.saved with
      | some v => s.endSaved l e v 0x102
      | none => (s.leaveAll l e.task).passSwaps n e.task
/-- Requests of the slots of context `k` that change something run to their answers as posted ones (R427). -/
def State.letGo (s : State) (k : Nat) : State :=
  let inc := (s.ctx k).inc
  { s with reqs := s.reqs.map fun (r : Req) => match r.act with
      | .read _ => r
      | _ => if (r.owner.ofSlot k || r.owner.ofReplay k) && r.ans.isNone then { r with owner := .posted inc } else r }
/-- A context terminated (R426, R427): the save slot gets KIND 2 and the counts of what is dropped, ranges return (R71),
cohorts are left, and the bank becomes empty. `fatal` marks the launch faulted with the cause. -/
def State.terminate (s : State) (k : Nat) (fatal : Option (BitVec 8)) : State :=
  let c := s.ctx k
  let l := s.launchOf k
  let t := c.regs.task.toNat
  let a := l.slot t
  let images := fun i : Option Image => (i.map Image.slots).getD 0
  let queued := s.cmds.filter fun d => d.queued c.inc
  let toks := issueToks c.flight ++ imageToks c.img1 ++ imageToks c.img2
  let replay := (s.core (k / 2)).replay.filter fun r => r.ctx = k
  let s := s.writeSlot a k (if fatal.isSome then 0x102 else 2) true false
  let s := s.pokeTab (a + 0x30) 4 4 fun i =>
    [slotCount c.flight + images c.img1 + images c.img2, queued.length, replay.length, c.pend.length].getD i 0
  let s := s.dropWork c.inc toks
  let s := match fatal with | some e => s.faultLaunch l.num e | none => s
  let s := (((((s.letGo k).drainAll k).taskGone c.inc l.num t k).leaveAll l t).passSwaps l.num t).returnRange k
  (s.modCtx k fun c => { c with gen := c.gen + 1 }).emptyBank k

/-! ## Saves (R76, R77) -/

/-- The images of a context's queues and of its S sequencer (R414). -/
def Ctx.image (c : Ctx) (stamp : Nat) : Image :=
  { issue := c.front, older := c.flight.dropLast.filter fun i => !i.todo.isEmpty, regs := c.regs, stamp, last := c.bundles }
/-- What a save keeps outside the slot. -/
def Ctx.saved (c : Ctx) (k : Nat) (forced : Bool) (stamp : Nat) (replay : List Parked) : Saved :=
  { forced, inc := c.inc, ctx := k, pend := c.pend, done := c.chans.map fun e => (e.1, e.2.done), bad := c.chans.map fun e => (e.1, e.2.bad), stamp,
    image := some (c.image stamp), img1 := c.img1, img2 := c.img2, pc := c.pc, chk := c.chk, gen := c.gen, pf := c.pf, replay, wc := c.wc
    bundles := c.bundles, mark := c.mark, placing := c.placing }

/-- Context `k` saved: at a step boundary, or by force. The bank serves `wanted` when the save completes (R385). -/
def State.save (s : State) (k : Nat) (forced : Bool) (wanted : Option (Nat × Nat)) : State :=
  let c := s.ctx k
  let l := s.launchOf k
  let t := c.regs.task.toNat
  let s := s.writeSlot (l.slot t) k (if forced then 1 else 0) forced forced
  let (stamp, s) := s.draw id
  let s := s.pokeOpaque (l.slot t + imageArea 0) 0x2000 stamp
  let s := s.pokeOpaque (l.slot t + 0x2100) 0x400 stamp
  let e : Ready :=
    { launch := l.num, task := t, prio := c.regs.prio.toNat, arrival := s.gt, since := s.gt
      saved := some (c.saved k forced stamp ((s.core (k / 2)).replay.filter fun r => r.ctx = k)) }
  let s := s.modLaunch l.num fun l =>
    { l with held := l.held ++ [⟨t, c.regs.wrlo.toNat, c.regs.wrhi.toNat⟩] }
  let s := s.modCore (k / 2) fun d => { d with replay := d.replay.filter fun r => r.ctx ≠ k }
  let s := { s with saving := s.saving ++ [({ ctx := k, entry := e, wanted } : Saving)] }
  { s with reqs := s.reqs.filter fun (r : Req) => r.owner.ofSlot k = false }.setCtx k
    { occ := .saving, gen := c.gen, lastLaunch := some l.cmd, regs := { a := c.regs.a, launch := c.regs.launch } }

/-! ## Placements, resident or saved (R391, R421) -/

/-- The ready-list entry, or the save in progress, that holds a placement. -/
def State.savedOf (s : State) (inc : Nat) : Option Ready :=
  (s.ready ++ s.saving.map (·.entry)).find? fun e => (e.saved.map (·.inc)) = some inc
/-- The saved part of a placement changed by `f`. -/
def State.modSaved (s : State) (inc : Nat) (f : Saved → Saved) : State :=
  let g := fun e : Ready => match e.saved with
    | some v => if v.inc = inc then { e with saved := some (f v) } else e
    | none => e
  { s with ready := s.ready.map g, saving := s.saving.map fun v => { v with entry := g v.entry } }
/-- The save slot of a saved placement. -/
def State.savedSlot (s : State) (e : Ready) : Nat := ((s.launch? e.launch).map fun l => l.slot e.task).getD 0
/-- A record for a placement, resident or saved; a sixteenth is lost (R421). None when the placement has ended. -/
def State.pendRecord (s : State) (inc : Nat) (r : AsyncRec) : Option State :=
  match s.ctxOf inc with
  | some k => some (s.modCtx k fun e =>
      if e.pend.length < 15 then { e with pend := e.pend ++ [r] } else { e with regs := { e.regs with lost := true } })
  | none =>
    (s.savedOf inc).map fun e =>
      if ((e.saved.map (·.pend)).getD []).length < 15 then s.modSaved inc fun v => { v with pend := v.pend ++ [r] }
      else
        let a := s.savedSlot e + 0x41
        s.pokeNat a 1 ((s.peek a).v ||| 1).toNat

/-! ## Taking an exception (R411 to R419) -/

/-- Causes of R411. -/
def Trap.illegalOpcode : Trap := { cause := 1 }
def Trap.illegalFunction : Trap := { cause := 2 }
def Trap.illegalTarget (a : Word64) : Trap := { cause := 3, addr := a }
def Trap.bundleOverrun : Trap := { cause := 4 }
def Trap.bundleConflict : Trap := { cause := 5 }
def Trap.privViolation : Trap := { cause := 6 }
/-- A register tag: kinds 0 x, 1 p, 2 v, 3 c, 4 h, 5 t, 6 f, 7 a. -/
def regTag (kind n : Nat) : Word64 := BitVec.ofNat 64 (kind * 256 + n)
def Trap.capTag (n : Nat) : Trap := { cause := 0x10, info := regTag 3 n }
def Trap.capBounds (a : Word64) (n : Nat) : Trap := { cause := 0x11, addr := a, info := regTag 3 n }
def Trap.capPerm (a : Word64) (n : Nat) : Trap := { cause := 0x12, addr := a, info := regTag 3 n }
def Trap.capWiden (n : Nat) : Trap := { cause := 0x13, info := regTag 3 n }
def Trap.shapeInvalid (a : Nat) : Trap := { cause := 0x14, addr := BitVec.ofNat 64 a }
def Trap.handleBounds (a : Word64) : Trap := { cause := 0x15, addr := a }
def Trap.align (a : Word64) : Trap := { cause := 0x16, addr := a }
def Trap.scratchBounds (a : Word64) : Trap := { cause := 0x17, addr := a }
def Trap.prot (a : Word64) : Trap := { cause := 0x22, addr := a }
/-- DEDUCED, log entry 32. -/
def Trap.poison (info : Word64) : Trap := { cause := 0x23, info }

/-- An exception to deliver: the cause, who raised it (0 S, 1 VL, 2 VA, 3 VS, 4 MX, 5 an engine), the slot, whether the
fetch of a bundle raised it, the address of the issued bundle whose S slot raised it, and an asynchronous record. -/
structure Exc where
  trap : Trap
  seq : Nat := 0
  slot : Nat := 0
  fetch : Bool := false
  svc : Bool := false
  issued : Word64 := 0
  async : Option AsyncRec := none
deriving DecidableEq, Repr

/-- The level at which a cause is delivered (R413), none when it is a fatal fault. -/
def State.level (s : State) (k : Nat) (svc : Bool) : Option Nat :=
  let m := (s.ctx k).regs.mode
  if m = 0 ∧ !svc ∧ (s.launchOf k).trapent ≠ 0 then some 1
  else if m = 2 ∨ (s.csr csrTrapEnt).extractLsb' 0 57 = 0 then none
  else some 2

/-- The entry of a level's handler (R413). -/
def State.handler (s : State) (k n : Nat) : Word64 :=
  if n = 1 then (s.launchOf k).trapent else ((s.csr csrTrapEnt).extractLsb' 0 57).signExtend 64

/-- FFn.CAUSE (R417). -/
def Exc.causeWord (e : Exc) (pmode : BitVec 2) : Word64 :=
  (1 : BitVec 1) ++ BitVec.ofBool e.async.isSome ++ BitVec.ofBool e.svc ++ BitVec.ofBool e.fetch ++ pmode ++
    (0 : BitVec 2) ++ BitVec.ofNat 3 e.seq ++ BitVec.ofNat 3 e.slot ++ (0 : BitVec 42) ++ e.trap.cause

/-- Frame `n` written (R416). -/
def Ctx.frame (c : Ctx) (n : Nat) (e : Exc) : Sparse Word64 :=
  let pcS := c.resumePc
  let o := (e.async.map (·.oper)).getD []
  let ws : List Word64 :=
    [e.causeWord c.regs.mode, pcS, c.queuePc .vl pcS, c.queuePc .va pcS, c.queuePc .vs pcS, c.queuePc .mx pcS,
     e.trap.addr, e.trap.info, (e.async.map fun r => r.token.setWidth 64).getD 0,
     (e.async.map (·.issue)).getD (if e.seq = 0 then e.issued else 0), (e.async.map fun r => r.prog.setWidth 64).getD 0] ++
    (List.range 8).map fun i => o.getD i 0
  ((List.range 19).map fun i => (frameBase n + i, ws.getD i 0)).foldl (fun f e => f.put e.1 e.2) c.regs.ff

/-- Taking an exception at level `n` (R414): the slots that have not taken effect go to image `n`, frame `n` is written,
the mode becomes `n`, and the S sequencer goes to the handler's entry, which is checked as a branch target. -/
def State.enterHandler (s : State) (k n : Nat) (e : Exc) : State :=
  let c := s.ctx k
  let (stamp, s) := s.draw id
  let img := c.image stamp
  let s := s.pokeOpaque ((s.launchOf k).slot c.regs.task.toNat + imageArea n) 0x2000 stamp
  { s with raised := s.raised + 1, reqs := s.reqs.filter fun (r : Req) => r.owner.ofSlot k = false }.setCtx k
    { c with
      issue := {}
      older := []
      younger := []
      img1 := if n = 1 then some img else c.img1
      img2 := if n = 2 then some img else c.img2
      regs := { c.regs with ff := c.frame n e, mode := BitVec.ofNat 2 n }
      pc := s.handler k n
      chk := true
      waits := []
      counted := []
      tally := []
      retry := 0
      tagWait := none }

/-- Taking an exception (R413): at level 1 or 2, or a fatal fault. A BREAK in a launch with a debugger attached halts the
context instead (R431). During a halt the frame is written and every sequencer stops (R430). -/
def State.takeException (s : State) (k : Nat) (e : Exc) : State :=
  let dbg := s.csr csrDbgAttach
  if e.trap.cause = 0x51 ∧ dbg.getLsbD 63 ∧ dbg.extractLsb' 0 16 = (s.ctx k).regs.launch ∧ (s.ctx k).regs.mode ≠ 2 then
    let n := (s.level k false).getD 2
    (s.enterHandler k n e).modCtx k fun c => { c with brk := true, halt := 31 }
  else match s.level k e.svc with
    | some n => (s.enterHandler k n e).modCtx k fun c => { c with halt := if c.halt = 0 then 0 else 31 }
    | none => { s with raised := s.raised + 1 }.terminate k (some e.trap.cause)

/-- A bundle whose S slots have taken effect stands with the queues. -/
def Ctx.settleBundle (c : Ctx) : Ctx :=
  if c.issue.has .s then c else { c with older := if c.issue.todo.isEmpty then c.older else c.older ++ [c.issue], issue := {} }
def State.settleBundle (s : State) (k : Nat) : State := s.modCtx k Ctx.settleBundle
/-- Returning from an exception (R420): TRAPRET in mode `n`, once every older slot has completed. -/
def State.returnFromException (s : State) (k : Nat) : State :=
  let c := s.ctx k
  let n := c.regs.mode.toNat
  let b := frameBase n
  if c.regs.act then
    (s.modCtx k fun c => { c with regs := { c.regs with act := false } }).terminate k none
  else
    let img := if n = 1 then c.img1 else c.img2
    let a := (s.launchOf k).slot c.regs.task.toNat + imageArea n
    match img with
    | some i =>
      if s.opaqueIntact a 0x2000 i.stamp then
        let cause := c.regs.ff.get 0 b
        let pcS := c.regs.ff.get 0 (b + 1)
        let fresh := fun b : Issue => { b with old := b.old.refresh i.regs c.regs }
        State.settleBundle (k := k) (s := s.setCtx k
          { c with
            issue := { fresh i.issue with next := pcS, target := none }
            older := i.older.map fresh
            img1 := if n = 1 then none else c.img1
            img2 := if n = 2 then none else c.img2
            regs := { c.regs with mode := cause.extractLsb' 58 2, ff := c.regs.ff.put b (cause &&& ~~~((1 : Word64) <<< 63)) }
            pc := pcS
            chk := true })
      else s.terminate k (some 0x22)
    | none =>
      let cause := c.regs.ff.get 0 b
      s.setCtx k
        { c with
          issue := {}
          regs := { c.regs with mode := cause.extractLsb' 58 2, ff := c.regs.ff.put b (cause &&& ~~~((1 : Word64) <<< 63)) }
          pc := c.regs.ff.get 0 (b + 1)
          chk := true }

/-! ## Slots and their requests -/

/-- The raiser code of a unit (R417). -/
def seqOf : ExecUnit → Nat
  | .s => 0 | .vl => 1 | .va => 2 | .vs => 3 | .mx => 4
/-- The slot that runs. -/
def State.slot (s : State) : QSlot :=
  let i := (s.ctx s.cur).issue
  (i.todo.find? fun q => q.idx = i.cur).getD { idx := i.cur, word := 0 }

/-- Who makes the requests of a slot: its context, its unit and its index; and who makes those of the fetch. -/
def slotOwner (k : Nat) (q : QSlot) : Owner := .slot k (8 * seqOf q.exu + q.idx)
def State.me (s : State) : Owner := slotOwner s.cur s.slot
def fetchOwner (k : Nat) : Owner := .slot k 40

/-! ## The page-fault path (R422) -/

/-- An access stands before another in program order (R419). -/
def PfReq.before (a b : PfReq) : Bool := a.num < b.num || (a.num = b.num && a.slot < b.slot)
/-- Requests that join a blocking: a page has one, that of its oldest access (R422, R424). -/
def joinPages (pf reqs : List PfReq) : List PfReq :=
  reqs.foldl (init := pf) fun pf q =>
    let same := fun p : PfReq => p.va.toNat / 0x10000 = q.va.toNat / 0x10000
    if pf.any same then
      pf.map fun p => if same p && q.before p then { q with sent := p.sent, answer := p.answer } else p
    else pf ++ [q]
/-- The oldest of some accesses. -/
def oldestPage (l : List PfReq) : Option PfReq :=
  l.foldl (fun o q => match o with | some p => if q.before p then some q else o | none => some q) none
/-- The context blocks on the pages requested, which join those of a blocking in which a slot that had begun finds them; with PF.CTL.EN = 0 a request is a fatal fault (R423). -/
def State.pageFault (s : State) (k : Nat) (reqs : List PfReq) : State :=
  let s := { s with raised := s.raised + 1, reqs := s.reqs.filter fun (r : Req) => r.owner ≠ fetchOwner k }
  if (s.csr csrPfCtl).getLsbD 63 then
    if (s.ctx k).ready then
      let s := s.modCtx k fun c => { c with gen := c.gen + 1, pf := reqs, waits := [], retry := 0, tagWait := none }
      if s.isActive k then s.handOver k else s
    else s.modCtx k fun c => { c with pf := joinPages c.pf reqs }
  else s.terminate k (some 0x20)

/-- A slot of the context waits for an answer of the host or a peer. -/
def State.asksOut (s : State) (k : Nat) : Bool := s.reqs.any fun r => r.owner.ofSlot k && r.owner ≠ fetchOwner k
/-- The last answer to a blocking has come, and what its slots had begun has ended (R418, R424): the context resumes, or takes PAGE_DENIED for the oldest denied access,
without the replay entries of the denied pages. -/
def State.resumePages (s : State) (k : Nat) : State :=
  let c := s.ctx k
  if c.pf.isEmpty || s.asksOut k || c.pf.any fun q => q.answer.isNone then s
  else
    let s := s.modCtx k fun c => { c with pf := [] }
    let bad := c.pf.filter fun q => q.answer = some false
    let s := match oldestPage bad with
      | none => s
      | some q =>
        let hit := fun r : Parked => r.ctx = k && r.parts.any fun x => bad.any fun q => q.va.toNat / 0x10000 = x.1
        let n := ((s.core (k / 2)).replay.filter hit).length
        let s := s.modCore (k / 2) fun d => { d with replay := d.replay.filter fun r => !hit r }
        s.takeException k { trap := { cause := 0x21, addr := q.va, info := BitVec.ofNat 64 n }, seq := q.seq, slot := q.slot
                            fetch := q.fetch, issued := q.issued }
    if (s.ctx k).ready then s.wake k else s

/-! ## The ways a slot ends -/

/-- The S sequencer leaves its bundle: control goes on, slots that wait in the queues stay there, and a TRAP, SVC, BRK or TRAPRET of the
bundle takes effect (R51, R138, R420). DEDUCED, log entry 16. -/
def State.endBundle (s : State) (k : Nat) : State :=
  let i := (s.ctx k).issue
  let rest : List Issue := if i.todo.isEmpty then [] else [{ i with endTrap := none, ret := false, target := none }]
  let s := s.modCtx k fun c => { c with pc := i.target.getD i.next, issue := {}, older := c.older ++ rest, stepOne := false }
  let code := fun c : BitVec 18 => c.setWidth 64
  if i.ret then s.returnFromException k
  else match i.endTrap with
    | some (.trap n c) => s.takeException k { trap := { cause := 0x50, info := code c }, slot := n, issued := i.addr }
    | some (.svc n c) => s.takeException k { trap := { cause := 0x50, info := code c }, slot := n, issued := i.addr, svc := true }
    | some (.brk n c) => s.takeException k { trap := { cause := 0x51, info := code c }, slot := n, issued := i.addr }
    | none => s

/-- The slot that runs has taken effect. After the last S slot of its bundle the S sequencer leaves it. -/
def State.retire (s : State) : State :=
  let c := s.ctx s.cur
  let todo := c.issue.todo.filter fun q => q.idx ≠ c.issue.cur
  let u := s.slot.exu
  let s := { s with asks := 0, reqs := s.reqs.filter fun r => r.owner ≠ s.me }.setCtx s.cur
    { c with
      issue := { c.issue with todo, full := none }
      waits := c.waits.filter (· ≠ u)
      counted := c.counted.filter (· ≠ u)
      tagWait := if u = ExecUnit.s then none else c.tagWait }
  if c.occ = .resident ∧ c.younger = [] ∧ todo.any (fun q => q.exu = .s) = false then s.endBundle s.cur else s

/-- The slot that runs waits (R50): it has not taken effect. -/
def State.stall (s : State) : State :=
  let u := s.slot.exu
  { s with asks := 0 }.modCtx s.cur fun c => { c with waits := if c.waits.contains u then c.waits else c.waits ++ [u] }

/-- The slot that runs raises a cause (R414). -/
def State.raise (s : State) (t : Trap) : State :=
  let q := s.slot
  let c := s.ctx s.cur
  { s with asks := 0 }.takeException s.cur
    { trap := t, seq := seqOf q.exu, slot := q.idx, issued := c.issue.addr }

/-- The slot that runs finds a queue full (R299): it waits, and the stall is counted once. -/
def State.stallFull (s : State) (csr : Nat) : State :=
  let s := if csr = 0 ∨ (s.ctx s.cur).waits.contains s.slot.exu = true then s else s.addPerf (s.cur / 2) csr 1
  s.stall.modCtx s.cur fun c => { c with issue := { c.issue with full := some csr } }

/-- How a slot's meaning may leave off: it waits, with the state that the wait has reached; it waits and starts over; it
waits for the answer to a new request; it finds a queue full; it raises a cause; it takes the page-fault path; the step has ended otherwise (a save, the end of the task); or it is parked and complete, and a cause or a blocking follows (R251, R261). -/
inductive Exit where
  | wait (s : State)
  | again
  | ask (r : Req)
  | full (csr : Nat)
  | raise (t : Trap)
  | page (s : State) (reqs : List PfReq)
  | gone (s : State)
  | parked (s : State) (t : Option Trap) (reqs : List PfReq)

/-- Meanings: a change of the state, or an exit. -/
abbrev M (α : Type) := StateT State (Except Exit) α

/-- A meaning left by an exit. -/
def exit {α : Type} (e : Exit) : M α := fun _ => .error e
/-- A meaning that raises a cause. -/
def raise {α : Type} (t : Trap) : M α := exit (.raise t)
/-- A meaning that finds a queue full. -/
def full {α : Type} (csr : Nat) : M α := exit (.full csr)
/-- A meaning that waits. -/
def hold {α : Type} : M α := exit .again
/-- A cause when the condition holds. -/
def raiseIf (b : Bool) (t : Trap) : M Unit := if b then raise t else pure ()
/-- A part of the state read. -/
def reads {α : Type} (f : State → α) : M α := fun s => .ok (f s, s)
/-- The state changed. -/
def change (f : State → State) : M Unit := fun s => .ok ((), f s)

/-- A failure of a store or an atomic that is reported as of asynchronous origin (R316). -/
def recordFail (t : Trap) : M Unit := change fun s =>
  let c := s.ctx s.cur
  (s.pendRecord c.inc { cause := t.cause, addr := t.addr, info := t.info, issue := c.issue.addr }).getD s
/-- A failure that R316 reports so. -/
def Trap.late (t : Trap) : Bool := t.cause = 0x40 || t.cause = 0x41

/-- Page requests of the slot that runs. -/
def State.ofSlot (s : State) (reqs : List PfReq) : List PfReq :=
  let i := (s.ctx s.cur).issue
  reqs.map fun r => { r with num := i.num, seq := seqOf s.slot.exu, slot := s.slot.idx, issued := i.addr }
/-- The step that a meaning takes. -/
def slotOut (m : M Unit) (s : State) : Host.Outcome State Fault Refusal :=
  match m s with
  | .ok (_, s') => .next s'.retire
  | .error (.wait s') => .next s'.stall
  | .error .again => .next s.stall
  | .error (.ask r) => .next (s.addReq r).stall
  | .error (.full n) => .next (s.stallFull n)
  | .error (.raise t) => .next (s.raise t)
  | .error (.page s' reqs) =>
    .next ({ s' with asks := 0, reqs := s'.reqs.filter fun (r : Req) => r.owner ≠ s.me }.pageFault s.cur (s.ofSlot reqs))
  | .error (.gone s') => .next s'
  | .error (.parked s' t reqs) =>
    let q := s.slot
    let i := (s.ctx s.cur).issue
    let s'' := s'.retire
    match t with
    | some t => .next (s''.takeException s.cur { trap := t, seq := seqOf q.exu, slot := q.idx, issued := i.addr })
    | none => .next (if reqs.isEmpty then s'' else s''.pageFault s.cur (s.ofSlot reqs))

/-! ## Registers of the context that runs -/

/-- The registers that the bundle read at issue (R54). -/
def State.old (s : State) : Regs := (s.ctx s.cur).issue.old
/-- The registers as they stand. -/
def State.regs (s : State) : Regs := (s.ctx s.cur).regs
/-- The registers changed. -/
def State.modRegs (s : State) (f : Regs → Regs) : State := s.modCtx s.cur fun c => { c with regs := f c.regs }

/-- A slot that only computes on registers: `f old cur` gives the new registers from those read at issue and those that
stand. -/
def regSlot (f : Regs → Regs → Regs) (s : State) : Host.Outcome State Fault Refusal :=
  .next (s.modRegs (f s.old)).retire

/-- A slot that computes on registers or raises a cause. -/
def trySlot (f : Regs → Regs → Except Trap Regs) (s : State) : Host.Outcome State Fault Refusal :=
  match f s.old s.regs with
  | .ok r => .next (s.modRegs fun _ => r).retire
  | .error t => .next (s.raise t)

/-- The new registers of `f`, in a meaning. -/
def setRegs (f : Regs → Regs) : M Unit := change fun s => s.modRegs f

/-- PF.TAIL (R423). -/
def csrPfTail : Nat := 0x80018
/-- SIG.CMD, which reads 1 until the report is written (R439), and the number of the request that writes it. -/
def csrSigCmd : Nat := 0x90328
def sigMark : Nat := 2 ^ 33

end Sys2Proof.Machine
end

