-- ==== Sys2Proof/Machine/Access.lean ====
section
/-! DEFINITION. Translation (R215 to R224), the checks of the address forms (R140, R204, R259), and loads and stores of one
agent at any target of R214: the L1 (R211), the replay queue (R251), write-combining buffers (R254), the host and peers. -/
namespace Sys2Proof.Machine

/-! ## Page-table entries (R219) -/

def leafX (e : Word64) : Bool := e.getLsbD 4
def leafW (e : Word64) : Bool := e.getLsbD 3
def leafR (e : Word64) : Bool := e.getLsbD 2
def leafCow (e : Word64) : Bool := e.getLsbD 12
def leafPz (e : Word64) : Bool := e.getLsbD 11
def leafMs (e : Word64) : Bool := e.getLsbD 13
/-- 0 SO, 1 RC, 2 UN. -/
def leafOrd (e : Word64) : BitVec 2 := e.extractLsb' 14 2
/-- The bytes of a page, by size code (R142): 64 KiB, 2 MiB, 1 GiB. -/
def pageBytes (size : Nat) : Nat := if size = 0 then 0x10000 else if size = 1 then 0x200000 else 0x40000000

/-- What a walk gives: a leaf and its size code, a page not present, or a cause. -/
inductive Walk where
  | ok (leaf : Word64) (size : Nat)
  | absent
  | fail (cause : BitVec 8)
deriving DecidableEq, Repr

/-- Bits 63:57 equal bit 56 (R215). -/
def canonical (va : Nat) : Bool := va / 2 ^ 56 = 0 || va / 2 ^ 56 = 0xFF
/-- The index of a level (R218). -/
def walkIndex (va lvl : Nat) : Nat :=
  match lvl with
  | 0 => va / 0x10000 % 32
  | 1 => va / 0x200000 % 512
  | 2 => va / 0x40000000 % 512
  | 3 => va / 0x8000000000 % 512
  | _ => va / 0x1000000000000 % 512
/-- A physical address in the HBM of this device. -/
def State.inHbm (s : State) (pa : Nat) : Bool := pa / 2 ^ 50 = s.peer && region (pa % 2 ^ 50) = .hbm
/-- A malformed entry at a level (R220). -/
def State.malformed (s : State) (e : Word64) (lvl : Nat) : Bool :=
  if e.getLsbD 1 then
    e.extractLsb' 5 6 ≠ 0 || 3 ≤ lvl || leafOrd e = 3 || (e.toNat / 0x10000 * 0x10000) % pageBytes lvl ≠ 0
  else e.extractLsb' 2 6 ≠ 0 || lvl = 0 || !s.inHbm (e.toNat / 256 * 256)

/-- A doubleword read through its home slice (R220). -/
def State.read64 (s : State) (a : Nat) : State × Val 64 :=
  let bs := s.peekN a 8
  (s.touchRead .fill a 8, ⟨BitVec.ofNat 64 (leNat bs), anyPsn bs⟩)
/-- One level of a walk (R220): the next table, or the end. -/
def State.walkLevel (s : State) (t va lvl : Nat) : State × Except Walk Nat :=
  let (s, e) := s.read64 (t % 2 ^ 50 + 8 * walkIndex va lvl)
  if e.psn then (s, .error (.fail 0x23))
  else if !e.v.getLsbD 0 then (s, .error .absent)
  else if s.malformed e.v lvl then (s, .error (.fail 0x22))
  else if e.v.getLsbD 1 then (s, .error (.ok e.v lvl))
  else (s, .ok (e.v.toNat / 256 * 256))
/-- The levels of a walk from the table at `t` (R220). -/
def walkFrom (va : Nat) : Nat → State → Nat → State × Walk
  | 0, s, t => match s.walkLevel t va 0 with | (s, .error w) => (s, w) | (s, .ok _) => (s, .fail 0x22)
  | lvl + 1, s, t => match s.walkLevel t va (lvl + 1) with
    | (s, .error w) => (s, w)
    | (s, .ok t) => walkFrom va lvl s t
/-- A walk in an address space (R220, R222). -/
def State.walk (s : State) (asid va : Nat) : State × Walk :=
  let root := s.csr (8 * asid)
  let t := root.toNat / 256 * 256
  if !canonical va then (s, .fail 0x22)
  else if !root.getLsbD 0 then (s, .fail 0x22)
  else if !s.inHbm t then (s, .fail 0x22)
  else walkFrom va 4 s t

/-! ## TLBs (R223) -/

/-- The TLB of a TCE, an STE, an AGE, the OFU, and that of the export window; a core's is at its id. -/
def tlbTce (core : Nat) : Nat := 0x1000 + core
def tlbSte (col : Nat) : Nat := 0x2000 + col
def tlbAge (col : Nat) : Nat := 0x2100 + col
def tlbOfu : Nat := 0x2200
def tlbExport : Nat := 0x2201

/-- The entry maps the address. -/
def TlbEntry.maps (e : TlbEntry) (asid va : Nat) : Bool :=
  e.asid = asid && va / pageBytes e.size = e.page / pageBytes e.size
/-- The TLB of a unit. -/
def State.tlb (s : State) (unit : Nat) : List TlbEntry := s.tlbs.get [] unit
/-- An entry filled. A TLB of 16 or more entries may drop one, chosen freely, and one of 256 does; DESIGN CHOICE, log entry 7. -/
def State.fillTlb (s : State) (unit : Nat) (e : TlbEntry) : State :=
  let t := s.tlb unit
  if t.length < 16 then { s with tlbs := s.tlbs.put unit (t ++ [e]) }
  else
    let (n, s) := s.draw Config.choice
    let t := if n < t.length ∨ 256 ≤ t.length then t.eraseIdx (n % t.length) else t
    { s with tlbs := s.tlbs.put unit (t ++ [e]) }
/-- A translation through a unit's TLB (R220, R223). -/
def State.translate (s : State) (unit asid va : Nat) : State × Walk :=
  if !canonical va then (s, .fail 0x22)
  else match (s.tlb unit).find? fun e => e.maps asid va with
    | some e => (s, .ok e.leaf e.size)
    | none =>
      match s.walk asid va with
      | (s, .ok leaf size) =>
        (s.fillTlb unit { asid, page := va / pageBytes size * pageBytes size, size, leaf }, .ok leaf size)
      | r => r

/-- The physical address under a leaf. -/
def physical (leaf : Word64) (size va : Nat) : Nat := leaf.toNat / 0x10000 * 0x10000 + va % pageBytes size

/-! ## Pieces of an access, one for each 64 KiB unit of a page (R241, R331) -/

/-- A part of an access that lies in one 64 KiB unit: virtual address, offset in the access, length, whether the page is present,
leaf, physical address. -/
structure Piece where
  va : Nat
  off : Nat
  len : Nat
  here : Bool := true
  leaf : Word64 := 0
  pa : Nat := 0
  /-- The page of the handle it goes through, while that page is not present and its size is not known. -/
  home : Option Word64 := none
deriving DecidableEq, Repr
/-- The 64 KiB unit that a piece waits for when it is not present. -/
def Piece.page (p : Piece) : Nat := ((p.home.map (·.toNat)).getD p.va) / 0x10000

/-- What the translation of a whole access gives: the pieces in address order, up to the first cause and its address. -/
structure Spread where
  ps : List Piece := []
  bad : Option (BitVec 8 × Nat) := none
deriving DecidableEq, Repr

/-- An address of the export window of another device (R217). -/
def State.exported (s : State) (pa : Nat) : Bool := pa / 2 ^ 50 ≠ s.peer && region (pa % 2 ^ 50) = .exportWin
/-- What a leaf says of the access at `pa` here: of an exported page only ORD, since the permissions, MS, COW and PZ come from the
target's entry, and are checked there (R217). -/
def State.governs (s : State) (leaf : Word64) (pa : Nat) : Word64 :=
  if s.exported pa then (leaf &&& 0xFFFFFFFFFFFFCFFF) ||| 0x81C else leaf

/-- The pages of `[va, va + n)` translated in address order, at most `fuel` of them. -/
def spreadFrom (unit asid va0 : Nat) : Nat → Nat → Nat → State → State × Spread
  | 0, _, _, s => (s, {})
  | _, _, 0, s => (s, {})
  | fuel + 1, off, n, s =>
    let va := (va0 + off) % 2 ^ 64
    match s.translate unit asid va with
    | (s, .fail c) => (s, { bad := some (c, va) })
    | (s, .absent) =>
      let len := min n (0x10000 - va % 0x10000)
      let (s, r) := spreadFrom unit asid va0 fuel (off + len) (n - len) s
      (s, { r with ps := { va, off, len, here := false } :: r.ps })
    | (s, .ok leaf size) =>
      let len := min n (0x10000 - va % 0x10000)
      let (s, r) := spreadFrom unit asid va0 fuel (off + len) (n - len) s
      let pa := physical leaf size va
      (s, { r with ps := { va, off, len, leaf := s.governs leaf pa, pa } :: r.ps })
/-- The pieces of `[va, va + n)`. -/
def State.spread (s : State) (unit asid va n : Nat) : State × Spread := spreadFrom unit asid va (n / 0x10000 + 2) 0 n s
/-- The addresses of the pages of an access that are not present. -/
def Spread.absent (r : Spread) : List Nat := (r.ps.filter fun p => !p.here).map (·.va)

/-- Where a physical address lies (R214, R216, R217). -/
inductive Target where
  | mem | host | remote | bad
deriving DecidableEq, Repr
def State.target (s : State) (pa : Nat) : Target :=
  if pa / 2 ^ 50 ≠ s.peer then .remote
  else match region (pa % 2 ^ 50) with
    | .hbm => .mem | .sbm => .mem | .scratch => .mem | .host => .host | _ => .bad

/-- Which permission a leaf must give (R221). -/
inductive Need where
  | read | write | atomic | fetch | none
deriving DecidableEq, Repr
def Need.ok (n : Need) (leaf : Word64) : Bool :=
  match n with
  | .read => leafR leaf | .write => leafW leaf | .atomic => leafR leaf && leafW leaf | .fetch => leafX leaf | .none => true
def Need.kind : Need → AccessKind
  | .read => .read | .write => .write | .atomic => .atomic | .fetch => .fetch | .none => .read

/-- A piece at the host that no window takes (R433). -/
def State.noWindow (s : State) (p : Piece) (need : Need) : Bool :=
  decide (s.target p.pa = .host) && (match s.hostWindow (p.pa % 2 ^ 50 - hostBase) p.len with
    | none => true
    | some (_, w) => !w && (match need with | .write => true | .atomic => true | _ => false))
/-- The first piece that a physical or permission check refuses (R216, R221, R258): CAP_PERM without SN, or PROT_FAULT. -/
def State.refusal (s : State) (ps : List Piece) (need : Need) (sn : Bool) : Option (BitVec 8 × Nat) :=
  match ps.find? fun p => p.here && s.target p.pa = .remote && !sn with
  | some p => some (0x12, p.va)
  | none =>
    match ps.find? fun p => p.here && (!need.ok p.leaf || s.target p.pa = .bad || s.noWindow p need) with
    | some p => some (0x22, p.va)
    | none => none

/-! ## Checks of a capability and of a scratchpad address -/

/-- R140, after the poison check. The cause, and the address of the first failing byte. -/
def Cap.check (c : Cap) (va size : Nat) (need : BitVec 8) : Option (BitVec 8 × Nat) :=
  if !c.tag then some (0x10, 0)
  else if need &&& ~~~c.perm ≠ 0 then some (0x12, va)
  else if va < c.base then some (0x11, va)
  else if c.base + c.len < va + size then some (0x11, max va (c.base + c.len))
  else none

/-- A scratchpad address (R179, R204) of a core: the device-local address, or none when it is not in bounds for `n`. -/
def scratchPlace (core a n : Nat) : Option Nat :=
  let core := core % 2048
  let off := a % 0x100000
  if 0x1000000 ≤ a then none
  else if 0x100000 < off + n then none
  else if a / 0x800000 % 2 = 1 then some (scratchAddr (core / 8 * 8 + a / 0x100000 % 8) off)
  else if a / 0x100000 % 8 = 0 then some (scratchAddr core off)
  else none

/-! ## The L1 (R211) -/

/-- The L1 emptied: an invalidation, or an acquire of cluster scope or wider. -/
def State.dropL1 (s : State) (core : Nat) : State := s.modCore core fun c => { c with l1 := [] }
/-- One line dropped. -/
def State.dropL1Line (s : State) (core line : Nat) : State := s.modCore core fun c => { c with l1 := c.l1.del line }
/-- `n` bytes of a line from offset `o` on written, with their poison by lane (R229, R231). -/
def L1Line.store (e : L1Line) (o n : Nat) (f : Nat → Val 8) : L1Line :=
  { e with
    bytes := e.bytes.mapIdx fun i b => if o ≤ i ∧ i < o + n then (f (i - o)).v else b
    psn := markPoison 4 e.psn o n fun i => (f i).psn }
/-- The L1's copies of the bytes a store of the core writes are updated. -/
def State.storeL1 (s : State) (core a n : Nat) (f : Nat → Val 8) : State :=
  if (s.core core).l1.isEmpty then s
  else s.modCore core fun c =>
    { c with l1 := (pieces 128 a n).foldl (init := c.l1) fun l (lo, o, k) =>
        match Sparse.find l (lo / 128) with
        | some e => Sparse.put l (lo / 128) (e.store (lo % 128) k fun i => f (o + i))
        | none => l }
/-- A load of HBM by a context of the core: each line is read from the L1 when it holds it, else it is filled; a poisoned
line is delivered and not allocated. -/
def State.loadL1 (s : State) (core asid va a n : Nat) : State × List (Val 8) :=
  (pieces 128 a n).foldl (init := (s, [])) fun (s, acc) (lo, o, k) =>
    let line := lo / 128
    match (s.core core).l1.find line with
    | some e => (s, acc ++ (List.range k).map fun i => ⟨e.bytes.getD (lo % 128 + i) 0, e.psn.contains ((lo % 128 + i) / 4)⟩)
    | none =>
      let s := s.touchRead .fill lo k
      let bs := s.peekN (line * 128) 128
      let out := acc ++ (List.range k).map fun i => byteAt bs (lo % 128 + i)
      if anyPsn bs then (s, out)
      else
        let c := s.core core
        let e : L1Line := { bytes := bs.map (·.v), asid, page := (va + o) / 0x10000 }
        if c.l1.length < 16 then (s.setCore core { c with l1 := c.l1.put line e }, out)
        else
          let (m, s) := s.draw Config.choice
          let l1 : Sparse L1Line := if m < c.l1.length ∨ 512 ≤ c.l1.length then c.l1.eraseIdx (m % c.l1.length) else c.l1
          (s.setCore core { c with l1 := l1.put line e }, out)

/-! ## Routes and send queues (R298, R299, R336) -/

def State.route (s : State) (p : Nat) : Word64 := s.csr (0x200000 + 8 * p)
/-- A peer with a valid route entry (R336). -/
def State.routed (s : State) (p : Nat) : Bool := (s.route p).getLsbD 63
def routeTr (e : Word64) : Bool := e.getLsbD 62
def routeVia (e : Word64) : Nat := (e.extractLsb' 48 14).toNat
def routeBsq (e : Word64) : Nat := (e.extractLsb' 38 10).toNat
def routeMsq (e : Word64) : Nat := (e.extractLsb' 28 10).toNat
def routeMsq2 (e : Word64) : Nat := (e.extractLsb' 18 10).toNat
def routeDup (e : Word64) : Bool := e.getLsbD 17
/-- The send queues that flits for a peer join: BSQ; MSQ, and with DUP MSQ2 as well (R335, R336). -/
def routeQueues (e : Word64) (bulk : Bool) : List Nat :=
  if bulk then [routeBsq e] else if routeDup e then [routeMsq e, routeMsq2 e] else [routeMsq e]
/-- A send queue takes `n` more flits: it holds 512 descriptors (R298). -/
def State.queueRoom (s : State) (sq n : Nat) : Bool := (s.sendq.get [] sq).length + n ≤ 512
/-- The flits of a packet with so many bytes of data. -/
def packetFlits (bytes : Nat) : Nat := 1 + (bytes + 255) / 256
/-- A packet with so many bytes of data for a peer finds room in its send queues, and none waits there before it (R299). -/
def State.roomFor (s : State) (dst : Nat) (bulk : Bool) (bytes : Nat) : Bool :=
  dst = s.peer || !s.routed dst || (routeQueues (s.route dst) bulk).all fun q =>
    s.queueRoom q (packetFlits bytes) && !s.outQ.any fun p => (routeQueues (s.route p.dst) p.bulk).contains q

/-! ## Requests to the host and to peers -/

/-- Requests of one kind, whatever they carry. -/
def Ask.kind : Ask → Nat
  | .read _ => 0 | .write _ => 1 | .stage .. => 2 | .atomic .. => 3 | .charm .. => 4 | .flush .. => 5 | .fifo .. => 6 | .clasp .. => 7
/-- A read or an atomic of a context waits for its own posted stores to the same bytes (R237). -/
def State.ownPosted (s : State) (who : Owner) (addr n : Nat) : Bool :=
  match who with
  | .slot k _ => s.reqs.any fun r => r.owner = .posted (s.ctx k).inc && r.ans.isNone && r.addr < addr + n && addr < r.addr + r.act.size
  | _ => false
/-- The answer to the next request that the running operation makes. The first time the request is made, and the operation
starts over when it has been answered: the access is performed once, with the translation of that time (R246, R252). -/
def ask (who : Owner) (addr : Nat) (act : Ask) (scope : BitVec 3) (asid : Nat) : M Answer := fun s =>
  match s.reqs.find? fun r => r.owner = who ∧ r.ix = s.asks ∧ r.act.kind = act.kind with
  | some r => match r.ans with
    | some a => .ok (a, { s with asks := s.asks + 1 })
    | none => .error .again
  | none =>
    if s.ownPosted who addr act.size then .error .again
    else .error (.ask { owner := who, ix := s.asks, addr, act, scope, asid, since := s.gt })
/-- The answer to the first request of the running operation, when it has come: what it asked for is done. -/
def answered (who : Owner) : M (Option Answer) := reads fun s =>
  (s.reqs.find? fun r => r.owner = who ∧ r.ix = 0).bind (·.ans)
/-- The operation waits for room in the send queue of a peer (R299). -/
def needRoom (dst bytes : Nat) : M Unit := fun s => if s.roomFor dst false bytes then .ok ((), s) else .error .again
/-- A request posted: the operation does not wait for its answer. -/
def post (who : Owner) (addr : Nat) (act : Ask) (scope : BitVec 3) (asid : Nat) : M Unit :=
  change fun s => s.addReq { owner := who, addr, act, scope, asid }

/-! ## Loads -/

/-- How an access to HBM meets the LLC (R212, R214). -/
def allocOf (leaf : Word64) (nt : Bool) : Alloc := if leafMs leaf then .ms else if nt then .nt else .fill

/-- An answer, with the address of the access for a failure. -/
def Answer.result (r : Answer) (va : Nat) : Except Trap (List (Val 8)) :=
  match r with
  | .data bs => .ok bs
  | .fail cause info => .error { cause, addr := BitVec.ofNat 64 va, info }
/-- The write-combining buffers from which an agent's reads of the host take their own stores (R237, R254). -/
def State.wcOf (s : State) (who : Owner) : List WcBuf := match who with | .slot k _ => (s.ctx k).wc | _ => []
/-- The bytes that an agent reads at `pa`, with those of its own buffered stores. -/
def wcForward (ws : List WcBuf) (pa : Nat) (bs : List (Val 8)) : List (Val 8) :=
  if ws.isEmpty then bs
  else bs.mapIdx fun i b => (ws.findSome? fun w => if (pa + i) / 64 * 64 = w.pa then w.bytes.find ((pa + i) % 64) else none).getD b
/-- The bytes of one piece read by an agent. `core` is the core whose L1 serves a context's load. -/
def loadPiece (who : Owner) (core : Option Nat) (nt : Bool) (asid : Nat) (p : Piece) : M (Except Trap (List (Val 8))) :=
  fun s =>
    let a := p.pa % 2 ^ 50
    match s.target p.pa with
    | .mem =>
      match core with
      | some k =>
        if region a = .hbm ∧ !leafMs p.leaf ∧ leafOrd p.leaf ≠ 0 then
          let (s, bs) := s.loadL1 k asid p.va a p.len
          .ok (.ok bs, s)
        else .ok (.ok (s.peekN a p.len), s.touchRead (allocOf p.leaf nt) a p.len)
      | none => .ok (.ok (s.peekN a p.len), s.touchRead (allocOf p.leaf nt) a p.len)
    | .bad => .ok (.error (.prot (BitVec.ofNat 64 p.va)), s)
    | _ => ((fun r => (wcForward (s.wcOf who) p.pa) <$> r.result p.va) <$> ask who p.pa (.read p.len) 4 asid) s

/-- The bytes of all pieces. -/
def loadPieces (who : Owner) (core : Option Nat) (nt : Bool) (asid : Nat) : List Piece → M (Except Trap (List (Val 8)))
  | [] => pure (.ok [])
  | p :: ps => do
    match ← loadPiece who core nt asid p with
    | .error t => pure (.error t)
    | .ok bs =>
      match ← loadPieces who core nt asid ps with
      | .error e => pure (.error e)
      | .ok rest => pure (.ok (bs ++ rest))

/-! ## Stores to local memory -/

/-- Bytes stored to local memory, with the L1 copy of the storing core updated. -/
def State.storeLocal (s : State) (core : Option Nat) (al : Alloc) (a n : Nat) (f : Nat → Val 8) : State :=
  let s := s.poke al a n f
  match core with
  | some k => if region a = .hbm then s.storeL1 k a n f else s
  | none => s

/-! ## Write-combining buffers (R254) -/

/-- Bytes of one 64-byte block stored to a host window through the buffers. A store to a fifth block drains one, chosen
freely, and a full buffer drains. DESIGN CHOICE, log entry 7. -/
def State.wcStore (s : State) (k pa : Nat) (bs : List (Val 8)) : State :=
  let blk := pa / 64 * 64
  let s :=
    if (s.ctx k).wc.any (fun w => w.pa = blk) ∨ (s.ctx k).wc.length < 4 then s
    else
      let (n, s) := s.draw Config.choice
      let i := n % 4
      match (s.ctx k).wc[i]? with
      | some w => (s.drainWc k w).modCtx k fun c => { c with wc := c.wc.eraseIdx i }
      | none => s
  let old := ((s.ctx k).wc.find? fun w => w.pa = blk).getD { pa := blk }
  let w : WcBuf := { old with bytes := old.bytes.putRange (pa % 64) bs.length (byteAt bs) }
  let s := s.modCtx k fun c => { c with wc := c.wc.filter fun w => w.pa ≠ blk }
  if w.bytes.length = 64 then s.drainWc k w
  else s.modCtx k fun c => { c with wc := c.wc ++ [w] }

/-! ## Stores of a context -/

/-- A store to an SO page of the host or of a peer: the slot waits for its answer (R240). -/
def askStore (p : Piece) (bs : List (Val 8)) (asid : Nat) : M Unit := do
  match (← ask (← reads State.me) p.pa (.write bs) 6 asid).result p.va with
  | .ok _ => pure ()
  | .error t => if t.late then recordFail t else raise t
/-- One piece of a context's store: local memory, a host window, or a peer (R214, R240, R254). -/
def storePiece (k : Nat) (nt : Bool) (asid : Nat) (p : Piece) (bs : List (Val 8)) : M Unit := fun s =>
  let a := p.pa % 2 ^ 50
  match s.target p.pa with
  | .mem => .ok ((), s.storeLocal (some (k / 2)) (allocOf p.leaf false) a p.len (byteAt bs))
  | .host =>
    if leafOrd p.leaf = 0 then askStore p bs asid s
    else if nt then post (.posted (s.ctx k).inc) p.pa (.write bs) 6 asid s
    else .ok ((), (pieces 64 p.pa p.len).foldl (fun s (lo, o, n) => s.wcStore k lo ((bs.drop o).take n)) s)
  | .remote =>
    if leafOrd p.leaf = 0 then askStore p bs asid s
    else (do
      needRoom (p.pa / 2 ^ 50) (if bs.length ≤ 16 then 0 else bs.length)
      post (.posted (s.ctx k).inc) p.pa (.write bs) 4 asid) s
  | .bad => .ok ((), s)

end Sys2Proof.Machine
end

