-- ==== Sys2Proof/Machine/Operands.lean ====
section
/-! DEFINITION. Operand forms: immediates with LIMM (R85), register operands with their poison (R119), the scratchpad, handle
and capability forms of R259, and the loads and stores of a slot, parked when they must be (R251, R261). -/
namespace Sys2Proof.Machine

/-! ## Immediates (R85) -/

/-- An immediate that extends by sign. -/
def State.immS {w : Nat} (s : State) (n : BitVec w) : Word64 :=
  match s.slot.limm with | some u => (u ++ n).signExtend 64 | none => n.signExtend 64
/-- An immediate that extends with zeros. -/
def State.immZ {w : Nat} (s : State) (n : BitVec w) : Word64 :=
  match s.slot.limm with | some u => (u ++ n).setWidth 64 | none => n.setWidth 64

/-! ## Register operands -/

/-- xN as read at issue; poison raises POISON_CONSUMED. -/
def xClean (n : Nat) : M Word64 := do
  let v ← reads fun s => s.old.rx n
  raiseIf v.psn (.poison (regTag 0 n))
  pure v.v
/-- pN as read at issue; poison raises POISON_CONSUMED. -/
def pClean (n : Nat) : M Bool := do
  let v ← reads fun s => s.old.rp n
  raiseIf v.psn (.poison (regTag 1 n))
  pure (v.v = 1)
/-- cN as read at issue; poison raises POISON_CONSUMED. -/
def cClean (n : Nat) : M Cap := do
  let c ← reads fun s => s.old.rc n
  raiseIf c.psn (.poison (regTag 3 n))
  pure c
/-- tN as read at issue; poison raises POISON_CONSUMED. -/
def tClean (n : Nat) : M (BitVec 32) := do
  let v ← reads fun s => s.old.rt n
  raiseIf v.psn (.poison (regTag 5 n))
  pure v.v
/-- The context that runs, and its core. -/
def self : M Nat := reads fun s => s.cur
def ownCore : M Nat := reads fun s => s.cur / 2
/-- The address space of the context that runs. -/
def ownAsid : M Nat := reads fun s => (s.launchOf s.cur).asid
/-- xN written, with the poison of the value (R119). -/
def setX (n : Nat) (v : Val 64) : M Unit := setRegs fun r => r.wx n v
/-- A byte offset: a register, or an immediate of 6 bits extended with zeros (R264, R270). -/
def offset (i : Bool) (b : BitVec 6) : M Word64 :=
  if i then reads fun s => s.immZ b else xClean b.toNat

/-! ## Waits that are counted -/

/-- A wait that counts its slot once in a core counter (R299, R409). -/
def stallOn {α : Type} (csr : Nat) : M α := fun s =>
  .error (.wait (if (s.ctx s.cur).waits.contains s.slot.exu then s else s.addPerf (s.cur / 2) csr 1))
/-- A wait that counts its cycles in a core counter (R393, R401). -/
def waitCycles {α : Type} (csr : Nat) : M α := fun s =>
  let (n, s) := s.draw Config.elapsed
  .error (.wait (s.addPerf (s.cur / 2) csr n))

/-! ## CORE CSRs (R112, R409) -/

/-- The core counters that R409 lists. -/
def perfListed (n : Nat) : Bool := (0x110 ≤ n && n < 0x12C) || (0x140 ≤ n && n < 0x148)
/-- A CORE CSR as it reads. -/
def State.coreCsr (s : State) (core n : Nat) : Word64 :=
  let c := s.core core
  if n = 0x100 then BitVec.ofNat 64 (s.peer % 2 ^ 14 * 2 ^ 16 + core)
  else if n = 0x101 then c.poisonZeroed.setWidth 64
  else if 0x108 ≤ n ∧ n < 0x110 then c.swz.get 0 (n - 0x108)
  else if n = 0x17E then BitVec.ofNat 64 (s.gt / 2 ^ 16)
  else if n = 0x17F then c.gtFrac.setWidth 64
  else if perfListed n then (c.perf.get 0 n).setWidth 64
  else 0
/-- The value of a CORE CSR that a slot is about to write stays readable to the slots of its bundle (R54). -/
def State.keepCore (s : State) (n : Nat) : State :=
  s.modCtx s.cur fun c =>
    if (c.issue.coreOld.find n).isSome then c
    else { c with issue := { c.issue with coreOld := c.issue.coreOld.put n (s.coreCsr (s.cur / 2) n) } }
/-- A CORE CSR as the bundle that runs reads it. -/
def State.oldCore (s : State) (n : Nat) : Word64 :=
  ((s.ctx s.cur).issue.coreOld.find n).getD (s.coreCsr (s.cur / 2) n)

/-! ## Scratchpad form -/

/-- The device-local address of a scratchpad access of `n` bytes at xA + off (R259). -/
def scratchAt (a : Word64) (n align : Nat) : M Nat := do
  raiseIf (a.toNat % 0x100000 % align ≠ 0) (.align a)
  match ← reads fun s => scratchPlace (s.cur / 2) a.toNat n with
  | some p => pure p
  | none => raise (.scratchBounds a)
/-- The scratchpad form with a register base and an offset. -/
def scratchForm (a : Nat) (i : Bool) (b : BitVec 6) (n align : Nat) : M Nat := do
  let base ← xClean a
  let off ← offset i b
  scratchAt (base + off) n align

/-! ## Handle form -/

/-- The requests of a page-fault path (R423). -/
def pageReqs (kind : AccessKind) (vas : List Nat) : List PfReq := vas.map fun va => { va := BitVec.ofNat 64 va, kind }
/-- The page-fault path for the pages at the addresses given. -/
def pageExit {α : Type} (kind : AccessKind) (vas : List Nat) : M α := fun s => .error (.page s (pageReqs kind vas))
/-- A handle written to the registers as they stand and as the bundle reads them (R111: walks and shootdowns do the same). -/
def State.setHandle (s : State) (k n : Nat) (h : Handle) : State :=
  s.modCtx k fun c => { c with regs := c.regs.wh n h, issue := { c.issue with old := c.issue.old.wh n h } }

/-- The handle made VALID by a translation on use (R109); none where the page is not present. -/
def retranslate (n : Nat) (h : Handle) : M (Option Handle) := do
  let asid ← ownAsid
  let w ← fun s => let (s', w) := s.translate (s.cur / 2) asid h.page.toNat; .ok (w, s')
  match w with
  | .ok leaf size =>
    let h' : Handle :=
      { st := .valid, page := BitVec.ofNat 64 (h.page.toNat / pageBytes size * pageBytes size), size, leaf }
    change fun s => s.setHandle s.cur n h'
    pure (some h')
  | .absent => pure none
  | .fail c => raise { cause := c, addr := h.page }
/-- The handle as a use finds it: none where its page is not present (R145). -/
def handleState (n : Nat) (h : Handle) : M (Option Handle) :=
  match h.st, h.walk with
  | .pending, _ => hold
  | .empty, .absent => do
    change fun s => s.setHandle s.cur n { h with walk := .asked }
    pure none
  | .empty, .asked => retranslate n h
  | .empty, .failed c => raise { cause := c, addr := h.page }
  | .empty, .none => raise (.prot h.page)
  | .stale, _ => retranslate n h
  | .valid, _ => pure (some h)
/-- The address that a handle access asks for while its page, whose size is not known, is not present. -/
def goneAddr (page : Word64) (va : Nat) : Nat := if (BitVec.ofNat 64 va - page).toNat < 0x10000 then va else page.toNat
/-- A handle access to a page that is not present, whose size is not known: a store gives a piece that parks (R251, R261), and meets the
page's end when it leaves; any other access takes the page-fault path and is made again (R422), and so does one that is not aligned. -/
def goneForm (page off : Word64) (size align : Nat) (kind : AccessKind) : M Piece :=
  if kind = .write ∧ off.toNat % align = 0 then
    pure { va := (page + off).toNat, off := 0, len := size, here := false, home := some page }
  else pageExit kind [goneAddr page (page + off).toNat]

/-- The piece an LDG, STG, LDA or STA touches (R259). `off` is the clean offset. -/
def handleForm (n : Nat) (off : Word64) (size align : Nat) (need : Need) : M Piece := do
  let h ← reads fun s => s.old.rh n
  match ← handleState n h with
  | none => goneForm h.page off size align need.kind
  | some h =>
    let va := h.page + off
    raiseIf (pageBytes h.size < off.toNat + size) (.handleBounds va)
    raiseIf (off.toNat % align ≠ 0) (.align va)
    let pa := physical h.leaf h.size va.toNat
    let leaf ← reads fun s => s.governs h.leaf pa
    raiseIf (!need.ok leaf) (.prot va)
    let p : Piece := { va := va.toNat, off := 0, len := size, leaf, pa }
    raiseIf (← reads fun s => decide (s.target p.pa = .bad) || s.noWindow p need) (.prot va)
    pure p

/-! ## Capability form -/

/-- R140 on cN for `[va, va + size)`. -/
def capCheck (n : Nat) (c : Cap) (va size : Nat) (need : BitVec 8) : M Unit :=
  match c.check va size need with
  | none => pure ()
  | some (cause, a) => raise { cause, addr := if cause = 0x10 then 0 else BitVec.ofNat 64 a, info := regTag 3 n }
/-- The pieces of a capability access (R259) through a unit's TLB; pages not present stay in the list, marked so. A load
takes the page-fault path before a later page's cause. -/
def capSpread (n : Nat) (c : Cap) (va size align : Nat) (perm : BitVec 8) (need : Need) (load : Bool) : M (List Piece) := do
  raiseIf (va % align ≠ 0) (.align (BitVec.ofNat 64 va))
  capCheck n c va size perm
  let asid ← ownAsid
  let r ← fun s => let (s', r) := s.spread (s.cur / 2) asid va size; .ok (r, s')
  if load && !r.absent.isEmpty then pageExit need.kind r.absent
  else
    match r.bad with
    | some (cause, a) => raise { cause, addr := BitVec.ofNat 64 a }
    | none =>
      match ← reads fun s => s.refusal r.ps need (c.perm &&& permSN ≠ 0) with
      | some (cause, a) => raise { cause, addr := BitVec.ofNat 64 a, info := if cause = 0x12 then regTag 3 n else 0 }
      | none => pure r.ps
/-- The capability form: cN with an offset register already read. -/
def capForm (n : Nat) (off : Word64) (size align : Nat) (perm : BitVec 8) (need : Need) (load : Bool) :
    M (Nat × List Piece) := do
  let c ← cClean n
  let va := (c.base + off.toNat) % 2 ^ 64
  pure (va, ← capSpread n c va size align perm need load)

/-! ## Loads of a slot -/

/-- The context's entries in the replay queue. -/
def State.parkedOf (s : State) (k : Nat) : List Parked := (s.core (k / 2)).replay.filter fun r => r.ctx = k
/-- The destination of a parked read-modify-write. -/
def Parked.dest (e : Parked) : Option Nat :=
  match e.op with
  | .store .. => none
  | .atomic _ _ _ _ _ d => some d
  | .sbop _ _ _ _ d => d
/-- A parked read-modify-write touches the bytes. -/
def Parked.rmwOn (r : Parked) (va n : Nat) : Bool :=
  match r.op with
  | .store .. => false
  | .atomic _ w8 a .. => a < va + n && va < a + (if w8 then 8 else 4)
  | .sbop _ m a .. => a < va + n && va < a + 4 * m
/-- The bytes that parked stores hold replace those read (R251). -/
def State.forward (s : State) (k va : Nat) (bs : List (Val 8)) : List (Val 8) :=
  let st := (s.parkedOf k).flatMap fun r => match r.op with | .store b _ => b | _ => []
  if st.isEmpty then bs
  else bs.mapIdx fun i b => ((st.reverse.find? fun e => e.1 = va + i).map (·.2)).getD b

/-- Where a part of an entry goes through: the page of its handle, or the page itself. -/
def Parked.base (e : Parked) (page : Nat) : Nat := (e.home.map (·.toNat)).getD (page * 0x10000)
/-- A part of an entry may be an access to an SO page: to one that is not present, too. -/
def State.partSo (s : State) (e : Parked) (page : Nat) : Bool :=
  match (s.walk (s.launchOf e.ctx).asid (e.base page)).2 with
  | .ok leaf _ => leafOrd leaf = 0
  | .absent => true
  | .fail _ => false
/-- The context has parked SO accesses: its younger SO accesses wait for them (R240, R251). -/
def State.parkedSo (s : State) (k : Nat) : Bool := (s.parkedOf k).any fun e => e.parts.any fun x => s.partSo e x.1
/-- An SO access waits for those that are parked. -/
def soWait (ps : List Piece) : M Unit := do
  if ← reads fun s => (ps.any fun p => p.here && leafOrd p.leaf = 0) && s.parkedSo s.cur then hold
/-- The bytes that a slot loads from the pieces of its access (R251, R262). -/
def slotLoad (ps : List Piece) (nt : Bool) : M (List (Val 8)) := do
  let k ← self
  let asid ← ownAsid
  soWait ps
  if ← reads fun s => (s.parkedOf k).any fun r => ps.any fun p => r.rmwOn p.va p.len then hold
  else
    match ← loadPieces (← reads State.me) (some (k / 2)) nt asid ps with
    | .error t => raise t
    | .ok bs =>
      match ps with
      | [] => pure bs
      | p :: _ => reads fun s => s.forward k p.va bs

/-! ## Stores of a slot -/

/-- A page's copy of R226 is in progress. -/
def State.copying (s : State) (asid va : Nat) : Bool := s.copies.any fun c => c.asid = asid ∧ c.page = va / 0x10000
/-- A copy can start: a pool page is free and the log has room (R227, R228). -/
def State.poolReady (s : State) : Bool :=
  s.pool.length < (s.csr 0x908).toNat % 2 ^ 32 &&
    ((s.csr 0x920).toNat + 2 ^ 32 - (s.csr 0x930).toNat % 2 ^ 32) % 2 ^ 32 < (s.csr 0x908).toNat % 2 ^ 32
/-- Why a piece of a store must park: a page not present, a copy that is due, or a page already parked on. -/
def State.parkReason (s : State) (k asid : Nat) (p : Piece) : Option ParkReason :=
  match ((s.parkedOf k).flatMap (·.parts)).find? fun x => x.1 = p.page with
  | some x => some x.2
  | none =>
    if !p.here then some .absent
    else if leafCow p.leaf then some (if s.copying asid p.va || s.poolReady then .cow else .pool)
    else none
/-- The reasons of the pieces of one access, in order: of two SO parts, the second waits for the first (R241). -/
def State.parkPlan (s : State) (k asid : Nat) : Bool → List (Piece × List (Val 8)) → List ((Piece × List (Val 8)) × Option ParkReason)
  | _, [] => []
  | so, w :: ws =>
    let so' := !w.1.here || leafOrd w.1.leaf = 0
    match s.parkReason k asid w.1 with
    | some r => (w, some r) :: s.parkPlan k asid (so || so') ws
    | none => (w, if so && so' then some .order else none) :: s.parkPlan k asid so ws

/-! ## Writers that wait for a copy (R226) -/

/-- A writer in the line still waits. -/
def State.stillWaits (s : State) (who : Owner) : Bool :=
  match who with
  | .replay k n => (s.parkedOf k).any fun e => e.num = n
  | .cmd n => s.cmds.any fun c => c.id = n && c.phase ≠ .stopped
  | .peer p => s.inbox.any fun e => e.src = p
  | .slot k _ => (s.ctx k).waits ≠ []
  | _ => false
/-- A writer joins the line of a page. -/
def State.joinLine (s : State) (who : Owner) (asid page : Nat) : State :=
  if s.cowLine.contains (asid, page, who) then s
  else { s with cowLine := (s.cowLine.filter fun w => s.stillWaits w.2.2) ++ [(asid, page, who)] }
/-- A writer leaves it. -/
def State.leaveLine (s : State) (who : Owner) (asid page : Nat) : State := { s with cowLine := s.cowLine.erase (asid, page, who) }
/-- Another writer came before it and still waits. -/
def State.cowAhead (s : State) (who : Owner) (asid page : Nat) : Bool :=
  let l := s.cowLine.filter fun w => w.1 = asid && w.2.1 = page && s.stillWaits w.2.2
  l.any (fun w => w.2.2 = who) && (l.head?.map (·.2.2)) ≠ some who
/-- A write of an agent other than a parked one: it waits for the copy of a COW page, and for the writers before it; `dry` is what it
meets when the copy cannot start (R228). -/
def cowGate (who : Owner) (asid : Nat) (ps : List Piece) (dry : Piece → M Unit) : M Unit := do
  match ps.find? fun p => leafCow p.leaf with
  | some p =>
    let pg := p.va / 0x10000
    if ← reads fun s => s.copying asid p.va || s.cowWant.contains (asid, pg) then
      fun s => .error (.wait (s.joinLine who asid pg))
    else if ← reads State.poolReady then
      fun s => .error (.wait { s.joinLine who asid pg with cowWant := s.cowWant ++ [(asid, pg)] })
    else dry p
  | none =>
    if ← reads fun s => ps.any fun p => s.cowAhead who asid (p.va / 0x10000) then hold
    else change fun s => ps.foldl (fun s p => s.leaveLine who asid (p.va / 0x10000)) s

/-! ## Parking (R251) -/

/-- The bytes of a parked store that wait for a page. -/
def Parked.bytesOn (e : Parked) (page : Nat) : List (Nat × Val 8) :=
  match e.op with
  | .store b _ => if e.home.isSome then b else b.filter fun x => x.1 / 0x10000 = page
  | _ => []
/-- The lowest address of its access in a page. -/
def Parked.addrOn (e : Parked) (page : Nat) : Nat :=
  match e.op with
  | .store .. => match e.bytesOn page with
    | [] => page * 0x10000
    | x :: xs => xs.foldl (fun m y => min m y.1) x.1
  | .atomic _ _ a .. => a
  | .sbop _ _ a .. => a
/-- The address of its page request. -/
def Parked.askOn (e : Parked) (page : Nat) : Nat := (e.home.map fun h => goneAddr h (e.addrOn page)).getD (e.addrOn page)
/-- The entry joins the queue; what this leads to: SNAP_POOL_EMPTY, or the page-fault path for the pages not present that no earlier
entry of the context waits for. -/
def parkExit {α : Type} (kind : AccessKind) (e : Parked) : M α := fun s =>
  let k := s.cur
  let queue := (s.core (k / 2)).replay
  let e := { e with num := s.parks }
  let fresh := e.parts.filter fun x => !(queue.any fun r => r.ctx = k ∧ (r.parts.any fun y => y.1 = x.1) = true)
  let s' := { s with parks := s.parks + 1 }.modCore (k / 2) fun c => { c with replay := c.replay ++ [e] }
  let s' := e.parts.foldl (fun s x => s.joinLine (.replay k e.num) (s.launchOf k).asid x.1) s'
  match fresh.find? fun x => x.2 = .pool with
  | some x => .error (.parked s' (some { cause := 0x27, addr := BitVec.ofNat 64 (e.addrOn x.1) }) [])
  | none => .error (.parked s' none (pageReqs kind ((fresh.filter fun x => x.2 = .absent).map fun x => e.askOn x.1)))
/-- While the core's queue is full, the next store or atomic of either context stalls (R251). -/
def replayRoom : M Unit := do
  if ← reads fun s => decide (16 ≤ (s.core (s.cur / 2)).replay.length) then stallOn 0x128

/-- The bytes that a slot stores, piece by piece: performed where the page allows it, parked where it does not, in one entry for the
slot (R261). `perm` is the permission set of the capability, for the check when an entry leaves. -/
def slotStore (nt : Bool) (perm : BitVec 8) (ws : List (Piece × List (Val 8))) : M Unit := do
  let k ← self
  let asid ← ownAsid
  let c ← reads fun s => s.ctx k
  replayRoom
  let plan ← reads fun s => s.parkPlan k asid false ws
  let late := plan.filterMap fun w => w.2.map fun r => (w.1, r)
  soWait ((plan.filter fun w => w.2.isNone).map (·.1.1))
  (plan.filter fun w => w.2.isNone).forM fun w => storePiece k nt asid w.1.1 w.1.2
  if late.isEmpty then pure ()
  else
    let pages := (late.map fun w => w.1.1.page).eraseDups
    parkExit .write
      { ctx := k, gen := c.gen, issue := c.issue.addr, perm, home := (late.head?).bind fun w => w.1.1.home
        parts := pages.map fun pg => (pg, ((late.find? fun w => w.1.1.page = pg).map (·.2)).getD .absent)
        op := .store (late.flatMap fun w => w.1.2.mapIdx fun i b => (w.1.1.va + i, b)) nt }

/-- The bytes of one contiguous access cut to its pieces. -/
def cutBytes (ps : List Piece) (bs : List (Val 8)) : List (Piece × List (Val 8)) :=
  ps.map fun p => (p, (bs.drop p.off).take p.len)

/-! ## Releases and acquires (R242, R243) -/

/-- The context's posted stores that are not acknowledged; host windows count at system scope. -/
def State.postedOut (s : State) (k : Nat) (system : Bool) : Bool :=
  s.reqs.any fun r => r.owner = .posted (s.ctx k).inc && (system || r.addr / 2 ^ 50 ≠ s.peer)
/-- A release at a scope waits until the older stores are performed (R242). -/
def releaseWait (scope : BitVec 3) : M Unit := fun s =>
  let k := s.cur
  if scope = 6 ∧ !(s.ctx k).wc.isEmpty then .error (.wait (s.drainAll k))
  else if !(s.parkedOf k).isEmpty || s.postedOut k (scope = 6) then .error .again
  else .ok ((), s)
/-- An acquire of cluster scope or wider drops the core's L1 (R243). -/
def acquireAt (scope : BitVec 3) : M Unit := change fun s => if 2 ≤ scope then s.dropL1 (s.cur / 2) else s

end Sys2Proof.Machine
end

