-- ==== Sys2Proof/Machine/Control.lean ====
section
/-! DEFINITION. Control transfers, the loop-counter stack, TRAP, SVC and BRK (R135, R136, R138). -/
namespace Sys2Proof.Machine

/-- The address of the bundle that runs, and of the next one. -/
def State.here (s : State) : Word64 := (s.ctx s.cur).issue.addr
def State.nextBundle (s : State) : Word64 := (s.ctx s.cur).issue.next
/-- The bundle's end goes to `t` (R81). -/
def State.jump (s : State) (t : Word64) : State := s.modCtx s.cur fun c => { c with issue := { c.issue with target := some t } }
/-- A transfer, taken or not. -/
def transferSlot (t : Option Word64) (f : Regs → Regs) (st : State) : Host.Outcome State Fault Refusal :=
  let s := st.modRegs f
  .next (match t with | some a => s.jump a | none => s).retire

/-! ## Targets, as the issue of a bundle knows them (R82, R135) -/

/-- An offset of 4-byte units from the bundle. -/
def State.rel {w : Nat} (s : State) (o : BitVec w) : Word64 := s.here + (o.signExtend 64 <<< 2)
/-- The top mask is zero in every lane. -/
def Regs.noLane (r : Regs) : Bool := r.top = 0
/-- LOOP branches. -/
def Regs.loops (r : Regs) : Bool := 0 < r.ldepth && 1 < r.loopCount 0
/-- LOOP.POP. -/
def Regs.loopPop (r : Regs) : Regs :=
  if 0 < r.ldepth then
    { r with lc := [r.loopCount 1, r.loopCount 2, r.loopCount 3, 0], ldepth := r.ldepth - 1 }
  else r

def execBr (o : BitVec 24) (st : State) : Host.Outcome State Fault Refusal := transferSlot (some (st.rel o)) id st
/-- BRI: the register plus the immediate in bytes; the link when D is not 0. -/
def execBri (d a : BitVec 6) (i : BitVec 12) (st : State) : Host.Outcome State Fault Refusal :=
  let x := st.old.rx a.toNat
  if x.psn then .next (st.raise (.poison (regTag 0 a.toNat)))
  else transferSlot (some (x.v + st.immS i)) (fun r => r.wx d.toNat ⟨st.nextBundle, false⟩) st
def execCall (o : BitVec 24) (st : State) : Host.Outcome State Fault Refusal :=
  transferSlot (some (st.rel o)) (fun r => r.wx 63 ⟨st.nextBundle, false⟩) st
def execRet (a : BitVec 6) (st : State) : Host.Outcome State Fault Refusal :=
  let x := st.old.rx a.toNat
  if x.psn then .next (st.raise (.poison (regTag 0 a.toNat))) else transferSlot (some x.v) id st
def execBrzm (o : BitVec 23) (st : State) : Host.Outcome State Fault Refusal :=
  transferSlot (if st.old.noLane then some (st.rel o) else none) id st
def execBrnzm (o : BitVec 23) (st : State) : Host.Outcome State Fault Refusal :=
  transferSlot (if st.old.noLane then none else some (st.rel o)) id st

/-- LOOP.PUSH (R136): the old lc3 is lost at depth 4. -/
def execLoopPush (a : BitVec 6) (st : State) : Host.Outcome State Fault Refusal :=
  trySlot (fun old r =>
    let x := old.rx a.toNat
    if x.psn then .error (.poison (regTag 0 a.toNat))
    else .ok { r with lc := [x.v.setWidth 32, old.loopCount 0, old.loopCount 1, old.loopCount 2],
                      ldepth := min (old.ldepth + 1) 4 }) st
def execLoopPop (st : State) : Host.Outcome State Fault Refusal :=
  regSlot (fun old r => { r with lc := old.loopPop.lc, ldepth := old.loopPop.ldepth }) st
def execLoop (o : BitVec 18) (st : State) : Host.Outcome State Fault Refusal :=
  let old := st.old
  if old.loops then
    transferSlot (some (st.rel o))
      (fun r => { r with lc := [old.loopCount 0 - 1, old.loopCount 1, old.loopCount 2, old.loopCount 3] }) st
  else transferSlot none (fun r => { r with lc := old.loopPop.lc, ldepth := old.loopPop.ldepth }) st

/-- TRAP, SVC, BRK (R138): the cause is raised at the end of the bundle. -/
def endTrapSlot (t : EndTrap) (st : State) : Host.Outcome State Fault Refusal :=
  .next (st.modCtx st.cur fun c => { c with issue := { c.issue with endTrap := some t } }).retire
def execTrap (c : BitVec 18) (st : State) : Host.Outcome State Fault Refusal := endTrapSlot (.trap st.slot.idx c) st
def execSvc (c : BitVec 18) (st : State) : Host.Outcome State Fault Refusal := endTrapSlot (.svc st.slot.idx c) st
def execBrk (c : BitVec 18) (st : State) : Host.Outcome State Fault Refusal := endTrapSlot (.brk st.slot.idx c) st

end Sys2Proof.Machine
end

