-- ==== Sys2Proof/Machine/System.lean ====
section
/-! DEFINITION. Steps, cohorts, banks, CSRs, the code table and the return from a handler (R49, R63 to R75, R146 to R149,
R420). -/
namespace Sys2Proof.Machine

/-! ## Closing a step (R66, R67) -/

/-- A queue slot of the context has not finished. -/
def Ctx.queueBusy (c : Ctx) : Bool := c.flight.any fun i => i.todo.any fun q => q.exu ≠ .s
/-- Every token produced since the open step was granted is satisfied; with `all`, every token. -/
def Ctx.tokensDone (c : Ctx) (all : Bool) : Bool :=
  c.chans.all fun e => e.2.next = e.2.w || (!all && e.2.next = c.mark.get 0 e.1)
/-- STEPEND may take effect: tokens, stores and queue slots are done. -/
def State.closable (s : State) (k : Nat) (all : Bool) : Bool :=
  let c := s.ctx k
  c.tokensDone all && (s.parkedOf k).isEmpty && !s.postedOut k false && !c.queueBusy
/-- OPEN cleared. -/
def State.closeStep (s : State) (k : Nat) : State := s.modCtx k fun c => { c with regs := { c.regs with openStep := false } }

/-! ## WTAKE (R63) -/

/-- A microsecond in units of GT. -/
def microsecond : Nat := 1000 * 2 ^ 16

/-- The code-table entry of a launch (R384). -/
def State.codeEntry (s : State) (l : Launch) : Word64 :=
  BitVec.ofNat 64 (s.peekNat ((s.csr 0x50010).toNat / 2 ^ 19 * 2 ^ 19 % 2 ^ 50 + 8 * l.code) 8)
/-- Its read passes through the home slice (R234). -/
def State.readCode (s : State) (l : Launch) : State :=
  s.touchRead .fill ((s.csr 0x50010).toNat / 2 ^ 19 * 2 ^ 19 % 2 ^ 50 + 8 * l.code) 8
/-- What a take gives: a step, exhaustion, or no range yet. -/
inductive Take where
  | granted (step : BitVec 41) | exhausted | none
deriving DecidableEq, Repr
/-- A step granted from the context's range. -/
def State.grant (s : State) (k : Nat) : State × Take :=
  let c := s.ctx k
  let t := c.regs.wrlo
  let s := s.setCtx k { c with
    regs := { c.regs with wrlo := t + 1, step := t, openStep := true }
    mark := c.chans.map fun e => (e.1, e.2.next) }
  let s := s.modLaunch c.regs.launch.toNat fun l => { l with untaken := l.untaken - 1 }
  (s.passSwaps c.regs.launch.toNat c.regs.task.toNat, .granted t)
/-- The loop of R63, with one steal pass. -/
def State.take (s : State) (k : Nat) : State × Take :=
  let l := s.launchOf k
  if l.faulted then (s, .exhausted)
  else if (s.ctx k).regs.wrlo < (s.ctx k).regs.wrhi then s.grant k
  else if l.untaken = 0 then (s, .exhausted)
  else
    let s' := s.stealPass k
    if (s'.ctx k).regs.wrlo < (s'.ctx k).regs.wrhi then s'.grant k else (s', .none)

/-- No range was obtained: the pass is made again after 1 µs. -/
def State.awaitRange (s : State) (k : Nat) : State := s.modCtx k fun c => { c with retry := s.gt + microsecond }
/-- WTAKE. A grant goes to the code-table entry, which is checked as a branch target (R147). -/
def execWtake (d : BitVec 6) (p : BitVec 7) (st : State) : Host.Outcome State Fault Refusal :=
  slotOut (do
    let k ← self
    if ← reads fun s => decide ((s.ctx k).retry ≠ 0) then hold
    let closes ← reads fun s => (s.ctx k).regs.openStep
    if closes then
      if ← reads fun s => !s.closable k false then hold
    change fun s => s.closeStep k
    match ← reads fun s => if closes then (s.ctx k).preempt else none with
    | some r => fun s => .error (.gone (s.save k false (some (r.launch, r.task))))
    | none =>
      let r ← fun s => let (s', r) := s.take k; .ok (r, s')
      match r with
      | .granted n =>
        let e ← reads fun s => s.codeEntry (s.launchOf k)
        setRegs fun r => (r.wx d.toNat ⟨n.setWidth 64, false⟩).wp p.toNat false
        change fun s => ((s.readCode (s.launchOf k)).jump e).modCtx k fun c => { c with chk := true }
      | .exhausted => setRegs fun r => (r.wx d.toNat ⟨BitVec.allOnes 64, false⟩).wp p.toNat true
      | .none => fun s => .error (.wait (s.awaitRange k))) st

/-- STEPEND (R66, R67). -/
def execStepend (st : State) : Host.Outcome State Fault Refusal :=
  let k := st.cur
  if (st.ctx k).regs.openStep then
    if !st.closable k false then .next st.stall
    else
      let s := (st.closeStep k).retire
      match (st.ctx k).preempt with
      | some r => .next (s.save k false (some (r.launch, r.task)))
      | none => .next s
  else if !st.closable k true then .next st.stall
  else .next (st.endTask k)

/-! ## JOIN, LEAVE (R73) -/

/-- The cohort id: (xA + imm) mod 2^16. -/
def cohortId (a : BitVec 6) (i : BitVec 12) : M Nat := do
  let x ← xClean a.toNat
  let v ← reads fun s => s.immZ i
  pure ((x + v).toNat % 2 ^ 16)
def execJoin (a : BitVec 6) (i : BitVec 12) (st : State) : Host.Outcome State Fault Refusal :=
  slotOut (do
    let n ← cohortId a i
    change fun s => s.joinCohort (s.launchOf s.cur) n s.regs.task.toNat) st
def execLeave (a : BitVec 6) (i : BitVec 12) (st : State) : Host.Outcome State Fault Refusal :=
  slotOut (do
    let n ← cohortId a i
    change fun s => s.leaveCohort (s.launchOf s.cur) n s.regs.task.toNat) st

/-! ## SWITCH, YIELD (R49) -/

def execSwitch (st : State) : Host.Outcome State Fault Refusal := .next (st.handOver st.cur).retire
/-- The entry that YIELD gives way to: of the same launch, or of a priority number not above the context's. -/
def State.yieldTo (s : State) (k : Nat) : Option Ready :=
  let r := (s.ctx k).regs
  (List.range 4).findSome? fun p =>
    s.ready.find? fun e => e.prio = p ∧ (e.launch = r.launch.toNat ∨ e.prio ≤ r.prio.toNat)
/-- YIELD. Before the save at the step boundary it waits as STEPEND does before the end of a task (R67): DEDUCED, log entry 51. -/
def execYield (st : State) : Host.Outcome State Fault Refusal :=
  let k := st.cur
  if (st.ctx (otherBank k)).ready then .next (st.handOver k).retire
  else
    match st.yieldTo k with
    | some e =>
      if (st.ctx k).regs.openStep then .next st.retire
      else if !st.closable k true then .next st.stall
      else .next (st.retire.save k false (some (e.launch, e.task)))
    | none => .next st.retire

/-! ## CSRR, CSRW (R112, R148) -/

/-- CSRR. A read of CORE.GTNS latches the fraction (R403). -/
def execCsrr (d : BitVec 6) (c : BitVec 12) (st : State) : Host.Outcome State Fault Refusal :=
  let n := c.toNat
  let k := st.cur
  let v := if n < 0x100 then { st.ctx k with regs := st.old }.csr k n else st.oldCore n
  let s := st.modRegs fun r => r.wx d.toNat ⟨v, false⟩
  .next (if n = 0x17E then (s.keepCore 0x17F).modCore (k / 2) fun e => { e with gtFrac := BitVec.ofNat 16 (s.gt % 2 ^ 16) } else s).retire

/-- The writable bits of CORE.SWZn (R205). -/
def swzMask : Word64 := 0x8000000F0FFF0FFF
/-- A CSR that has no RW and no W1C field, so that a CSRW raises PRIV_VIOLATION (R112, R148). -/
def csrReadOnly (n : Nat) : Bool :=
  (1 ≤ n && n < 6) || n = 0x100 || n = 0x17E || n = 0x17F ||
    (0x11 ≤ n && n < 0x3F && !(let i := (n - 0x11) % 23; i = 1 || (19 ≤ i && i < 23)))
/-- An image with the S image discarded (R416). -/
def Image.dropS (i : Image) : Image :=
  { i with issue := { i.issue with todo := i.issue.todo.filter fun q => q.exu ≠ .s, endTrap := none, ret := false } }
/-- CSRW of a CTX CSR. -/
def Ctx.writeCsr (c : Ctx) (n : Nat) (v : Word64) : Ctx :=
  let r := c.regs
  if n = 0 then { c with regs := { r with fcsr := (v.setWidth 32 &&& 0x31F) ||| c.issue.flags.setWidth 32 } }
  else if n = 6 then { c with regs := { r with qmode := (r.qmode &&& 0xF000) ||| (v &&& 0xFFF) } }
  else if n = 8 then { c with regs := { r with lodS := v.setWidth 48 } }
  else if n = 9 then { c with regs := { r with lodVL := v.setWidth 48 } }
  else if n = 10 then { c with regs := { r with lodVA := v.setWidth 48 } }
  else if n = 0x10 then { c with regs := { r with act := v.getLsbD 2, lost := r.lost && !v.getLsbD 8 } }
  else if n = 0x12 then { c with regs := { r with ff := r.ff.put n v }, img1 := c.img1.map Image.dropS }
  else if n = 0x29 then { c with regs := { r with ff := r.ff.put n v }, img2 := c.img2.map Image.dropS }
  else if 0x11 ≤ n ∧ n < 0x3F then { c with regs := { r with ff := r.ff.put n v } }
  else c
/-- CSRW of a CORE CSR; a number of R409 that is not listed ignores the write. -/
def Core.writeCsr (c : Core) (n : Nat) (v : Word64) : Core :=
  if n = 0x101 then { c with poisonZeroed := v.setWidth 48 }
  else if 0x108 ≤ n ∧ n < 0x110 then { c with swz := c.swz.put (n - 0x108) (v &&& swzMask) }
  else if perfListed n then { c with perf := c.perf.put n (v.setWidth 48) }
  else c
/-- Older slots of the MX queue, and the nests and OBCASTs of the context that still run, stand before a CSRW of CORE.SWZn (R206);
the slots of the other units do as memory slots (R54). -/
def State.swzWaits (s : State) : Bool :=
  let c := s.ctx s.cur
  (c.older.any (·.has .mx)) || (c.issue.todo.any fun q => q.exu = .mx && q.idx < c.issue.cur) ||
    s.cmds.any fun d => d.inc = c.inc && (d.unit = .nest || d.unit = .stage)
/-- CSRW. -/
def execCsrw (a : BitVec 6) (c : BitVec 12) (st : State) : Host.Outcome State Fault Refusal :=
  let n := c.toNat
  let k := st.cur
  let x := st.old.rx a.toNat
  if x.psn then .next (st.raise (.poison (regTag 0 a.toNat)))
  else if csrReadOnly n then .next (st.raise .privViolation)
  else if 0x108 ≤ n ∧ n < 0x110 ∧ st.swzWaits = true then .next st.stall
  else .next (if n < 0x100 then st.modCtx k fun e => e.writeCsr n x.v
    else (st.keepCore n).modCore (k / 2) fun e => e.writeCsr n x.v).retire

/-! ## CODESWAP, TRAPRET (R149, R420) -/

/-- The code-table entry of a code id written (R384). -/
def State.writeCode (s : State) (code : Nat) (v : Word64) : State :=
  s.pokeNat ((s.csr 0x50010).toNat / 2 ^ 19 * 2 ^ 19 % 2 ^ 50 + 8 * code) 8 v.toNat
/-- CODESWAP: privileged; in SYSTEM mode only (R412). -/
def execCodeswap (a b : BitVec 6) (st : State) : Host.Outcome State Fault Refusal :=
  if st.regs.mode ≠ 2 then .next (st.raise .privViolation)
  else
    slotOut (do
      let x ← xClean a.toNat
      let y ← xClean b.toNat
      change fun s => s.writeCode (x.toNat % 2 ^ 16) y) st
/-- TRAPRET: permitted in a handler's mode (R412). It waits until every queue of the context is empty, and takes effect at the
bundle's end (R81). DEDUCED, log entry 16. -/
def execTrapret (st : State) : Host.Outcome State Fault Refusal :=
  if st.regs.mode = 0 then .next (st.raise .privViolation)
  else if (st.ctx st.cur).queueBusy then .next st.stall
  else .next (st.modCtx st.cur fun c => { c with issue := { c.issue with ret := true } }).retire

end Sys2Proof.Machine
end

