-- ==== Sys2Proof/Machine/Place.lean ====
section
/-! DEFINITION. The dispatchers (R60, R63 to R65, R77, R381 to R385): placement of tasks and saved contexts, aging,
pre-emption, forced saves and their completion, steals. -/
namespace Sys2Proof.Machine

/-- The column of a context. -/
def columnOf (k : Nat) : Nat := k / 256
/-- Resident contexts of a column: DISP.COLc.OCC. -/
def State.occupancy (s : State) (col : Nat) : Nat :=
  (s.ctxs.filter fun e => columnOf e.1 = col ∧ e.2.occ = Occupancy.resident).length
/-- DISP.COLc.THRESH. -/
def State.threshold (s : State) (col : Nat) : Nat := (s.csr (0x50100 + 8 * col)).toNat % 512
/-- Fields of DISP.CFG. -/
def State.bypass (s : State) : Nat := (s.csr 0x50000).toNat / 2 ^ 48
def State.aging (s : State) : Nat := (s.csr 0x50000).toNat / 2 ^ 24 % 2 ^ 24
def State.grace (s : State) : Nat := (s.csr 0x50000).toNat % 2 ^ 24

/-! ## Placement (R60, R77, R78, R381) -/

/-- What a placement does to the core: with a core whose most recent occupant was of another launch, and with a bank whose
own was. -/
def State.prepare (s : State) (k : Nat) (l : Launch) : State :=
  let core := k / 2
  let bare := fun c : Ctx => { c with regs := { c.regs with a := [] } }
  if (s.core core).lastLaunch = some l.cmd then
    if (s.ctx k).lastLaunch = some l.cmd then s else s.modCtx k bare
  else
    let s := (s.zeroScratch core).modCore core fun e =>
      { e with
        lastLaunch := some l.cmd
        staging := []
        stagingPsn := []
        swz := sparseOf 0 8 fun i => l.swz.getD i 0 &&& swzMask }
    let s := (s.modCtx (2 * core) bare).modCtx (2 * core + 1) bare
    let bs := s.peekN l.simg l.silen
    (s.touchRead .fill l.simg l.silen).pokeL .fill (scratchAddr core 0) bs
/-- An unplaced task put into bank `k` (R60): the placement values, and a WTAKE to come. -/
def State.placeNew (s : State) (k : Nat) (l : Launch) (e : Ready) (h : HeldRange) : State :=
  let c := s.ctx k
  let r : Regs :=
    { a := c.regs.a
      c := [(0, { bits := l.arg, tag := true })]
      launch := BitVec.ofNat 16 l.num
      task := BitVec.ofNat 12 e.task
      qdepth := 64
      prio := BitVec.ofNat 2 e.prio
      wrlo := BitVec.ofNat 41 h.lo
      wrhi := BitVec.ofNat 41 h.hi }
  { s with nextInc := s.nextInc + 1 }.setCtx k
    { occ := .resident, inc := s.nextInc, regs := r, gen := c.gen + 1, placing := true, placedAt := s.gt, lastLaunch := c.lastLaunch }
/-- An image as a restore reloads it: handles are EMPTY (R111). -/
def Image.bare (i : Image) : Image :=
  let g := fun b : Issue => { b with old := { b.old with h := [] } }
  { i with issue := g i.issue, older := i.older.map g, regs := { i.regs with h := [] } }
/-- A saved context put into bank `k` (R77, R111): registers from its save slot, the range its dispatcher holds, the images,
the replay queue and the page requests it was saved with, which are sent again with the bank's GEN. A save image that was
changed reloads nothing: a fatal fault (R414). -/
def State.restore (s : State) (k : Nat) (l : Launch) (e : Ready) (h : HeldRange) (v : Saved) : State :=
  let c := s.ctx k
  let a := l.slot e.task
  let (r, chans, bad) := s.readSlot a v.forced
  let r : Regs :=
    { r with
      a := if v.forced then r.a else c.regs.a
      prio := BitVec.ofNat 2 e.prio
      wrlo := BitVec.ofNat 41 h.lo
      wrhi := BitVec.ofNat 41 h.hi }
  let img := (v.image.getD {}).bare
  let gen := c.gen + 1
  let pcS : Word64 := if v.forced then BitVec.ofNat 64 (s.tab (a + 8) 8 0).1 else v.pc
  let x : Ctx :=
    { occ := .resident
      inc := v.inc
      regs := r
      pc := pcS
      chk := v.chk
      issue := { img.issue with next := if img.issue.todo.isEmpty then img.issue.next else pcS }
      older := img.older
      bundles := v.bundles
      since := (s.nextCmd, v.bundles)
      mark := v.mark
      placing := v.placing
      img1 := v.img1.map Image.bare
      img2 := v.img2.map Image.bare
      gen
      pf := v.pf.map fun q => if q.answer.isSome then q else { q with sent := false }
      pend := v.pend
      chans := chans.map fun x => (x.1, { x.2 with done := v.done.get [] x.1, bad := v.bad.get [] x.1 })
      wc := v.wc
      placedAt := s.gt
      lastLaunch := c.lastLaunch
      badRestore := bad || (v.forced && (s.tab (a + 8) 8 0).2) }
  let whole := img.slots = 0 || s.opaqueIntact (a + imageArea 0) 0x2000 img.stamp
  let s := if v.forced then s.readWindow a k l else s
  let s := s.setCtx k x
  let s := s.modCore (k / 2) fun d => { d with replay := d.replay ++ v.replay.map fun q => { q with ctx := k, gen } }
  if whole then s else (s.modCtx k fun c => { c with issue := {}, older := [] }).terminate k (some 0x22)
/-- An entry of a ready list placed in bank `k`. -/
def State.place (s : State) (k : Nat) (e : Ready) : State :=
  match s.launch? e.launch with
  | none => s
  | some l =>
    let s := { s with ready := s.ready.filter fun (f : Ready) => !(f.launch = e.launch && f.task = e.task) }
    let s := (s.prepare k l).modCtx k fun c => { c with preempt := none }
    let h := (l.held.find? fun h => h.task = e.task).getD ⟨e.task, 0, 0⟩
    let s := s.modLaunch l.num fun l => { l with held := l.held.erase h }
    let s := match e.saved with
      | none => s.placeNew k l e h
      | some v => s.restore k l e h v
    if (s.ctx k).ready then s.wake k else s.resumePages k
/-- The placement's WTAKE (R60): a step begins the task, exhaustion ends it, and without a range it waits. -/
def State.firstTake (s : State) (k : Nat) : State :=
  match s.take k with
  | (s, .granted n) =>
    let e := s.codeEntry (s.launchOf k)
    (s.readCode (s.launchOf k)).modCtx k fun c =>
      { c with placing := false, pc := e, chk := true, regs := (c.regs.wx 1 ⟨n.setWidth 64, false⟩).wp 1 false }
  | (s, .exhausted) => s.endTask k
  | (s, .none) => s.awaitRange k

/-! ## COLUMN_DISPATCH (R382) -/

/-- A bank that can receive a context: empty, with no nest of an earlier occupant running (R197). -/
def State.bankFree (s : State) (k : Nat) : Bool :=
  (s.ctx k).occ = Occupancy.none && !(s.cmds.any fun c => c.ctx = k && c.unit = CmdUnit.nest && c.phase ≠ Phase.queued)
/-- A bank of the column that R385 keeps for an entry. -/
def State.reserved (s : State) (col : Nat) : Option (Nat × Preempt) :=
  s.ctxs.findSome? fun e =>
    if columnOf e.1 = col ∧ s.bankFree e.1 then e.2.preempt.map fun r => (e.1, r) else none
/-- The first empty bank of the column. -/
def State.firstFree (s : State) (col : Nat) : Option Nat := ((List.range 256).map fun i => 256 * col + i).find? s.bankFree
/-- The probe of an entry hits in a slice of the column. A walk for a probe leaves no trace; DEDUCED, log entry 10. -/
def State.probe (s : State) (col : Nat) (e : Ready) : Bool :=
  match s.launch? e.launch with
  | none => false
  | some l =>
    if l.probe = 0 then false
    else
      let va := ((l.arg.extractLsb' 64 64).toNat + e.task * l.probe) % 2 ^ 64
      match (s.walk l.asid va).2 with
      | .ok leaf size =>
        let pa := physical leaf size va
        s.inHbm pa && (s.llc.find (pa % 2 ^ 50 / 128)).isSome && decide (homeSlice (pa % 2 ^ 50) / 4 = col)
      | _ => false
/-- The lowest-numbered priority whose list is not empty. -/
def State.topList (s : State) : Option Nat := (List.range 4).find? fun p => s.ready.any fun e => e.prio = p
/-- The entry a dispatcher picks, and the entries it passes over. -/
def State.pick (s : State) (col : Nat) : Option (Ready × List Ready) :=
  match s.topList with
  | none => none
  | some p =>
    let w := (s.ready.filter fun e => e.prio = p).take (s.bypass + 1)
    match w.head? with
    | none => none
    | some first =>
      let passed := if w.any (s.probe col) then w.takeWhile fun e => !s.probe col e else []
      let e := (w.drop passed.length).headD first
      some (if passed.any fun q => q.bypassed + 1 = s.bypass then (first, passed) else (e, passed))
/-- An entry is the one of a launch and a task. -/
def Ready.is (e : Ready) (launch task : Nat) : Bool := e.launch = launch && e.task = task
/-- The columns that have taken an entry in a round: one that takes a second begins the next round. -/
def dealNext (d : KeySet) (col : Nat) : KeySet := if d.contains col then [col] else d ++ [col]
/-- COLUMN_DISPATCH. A bank kept for an entry that is gone serves R382 again. -/
def execColumnDispatch (col : BitVec 4) (st : State) : Host.Outcome State Fault Refusal :=
  .next (match st.reserved col.toNat with
    | some (k, r) =>
      match st.ready.find? fun e => e.is r.launch r.task with
      | some e => st.place k e
      | none => st.modCtx k fun c => { c with preempt := none }
    | none =>
      if st.occupancy col.toNat < st.threshold col.toNat then
        match st.firstFree col.toNat, st.pick col.toNat with
        | some k, some (e, passed) =>
          let up := fun q : Ready => if passed.any fun f => f.is q.launch q.task then { q with bypassed := q.bypassed + 1 } else q
          { st with ready := st.ready.map up, dealt := dealNext st.dealt col.toNat }.place k (up e)
        | _, _ => st
      else st)

/-! ## TASK_AGING (R383) -/

/-- An entry is due for promotion. -/
def State.aged (s : State) (e : Ready) : Bool := s.aging ≠ 0 && e.prio ≠ 0 && decide (e.since + s.aging * microsecond ≤ s.gt)
/-- TASK_AGING of the entry of a launch and a task. -/
def execTaskAging (launch : BitVec 16) (task : BitVec 12) (st : State) : Host.Outcome State Fault Refusal :=
  let up := fun e : Ready =>
    if e.is launch.toNat task.toNat && st.aged e then { e with prio := e.prio - 1, since := st.gt } else e
  .next { st with ready := st.ready.map up }

/-! ## PREEMPT_REQUEST, FORCED_SAVE, SAVE_COMPLETE (R385, R77) -/

/-- Every column is at its threshold. -/
def State.full (s : State) : Bool := (List.range 16).all fun c => s.threshold c ≤ s.occupancy c
/-- A request for the entry is outstanding. -/
def State.requested (s : State) (e : Ready) : Bool :=
  (s.ctxs.any fun c => match c.2.preempt with | some r => e.is r.launch r.task | none => false) ||
    s.saving.any fun v => match v.wanted with | some w => e.is w.1 w.2 | none => false
/-- The victim for the head entry of list `p`: of the column that holds the most contexts at the largest priority number
above `p`, the one placed earliest that no request names. DEDUCED, log entry 39. -/
def State.victim (s : State) (p : Nat) : Option Nat :=
  let res := s.ctxs.filter fun e => e.2.occ = Occupancy.resident ∧ p < e.2.regs.prio.toNat
  let q := res.foldl (fun m e => max m e.2.regs.prio.toNat) 0
  let at_ := res.filter fun e => e.2.regs.prio.toNat = q
  let count := fun col : Nat => (at_.filter fun e => columnOf e.1 = col).length
  let best := (List.range 16).foldl (fun b c => if count b < count c then c else b) 0
  ((at_.filter fun e => columnOf e.1 = best ∧ e.2.preempt.isNone).foldl (fun (b : Option (Nat × Ctx)) e => match b with
    | none => some e
    | some f => if e.2.placedAt < f.2.placedAt ∨ (e.2.placedAt = f.2.placedAt ∧ e.2.inc < f.2.inc) then some e else b) none).map (·.1)
/-- The request that list `p`'s head entry may make: the entry and the victim. -/
def State.wants (s : State) (p : Nat) : Option (Ready × Nat) :=
  match s.ready.find? fun e => e.prio = p with
  | none => none
  | some e => if s.full && !s.requested e then (s.victim p).map fun k => (e, k) else none
def execPreemptRequest (p : BitVec 2) (st : State) : Host.Outcome State Fault Refusal :=
  .next (match st.wants p.toNat with
    | some (e, k) => st.modCtx k fun c => { c with preempt := some { at_ := st.gt, launch := e.launch, task := e.task } }
    | none => st)
/-- The grace period of a request has passed; while the debugger halts the context the save waits (R428). -/
def State.graceOver (s : State) (k : Nat) : Bool :=
  let c := s.ctx k
  c.occ = Occupancy.resident && c.halt = 0 &&
    (match c.preempt with | some r => decide (r.at_ + s.grace * microsecond ≤ s.gt) | none => false)
/-- Engine commands already issued have run to their tokens, a collective in flight aside, and no access of a slot is out. -/
def State.quiet (s : State) (k : Nat) : Bool :=
  let inc := (s.ctx k).inc
  !(s.cmds.any fun c => c.inc = inc && c.unit ≠ CmdUnit.coll) && !s.asksOut k
def execForcedSave (ctx : BitVec 12) (st : State) : Host.Outcome State Fault Refusal :=
  let k := ctx.toNat
  .next (match (st.ctx k).preempt with
    | some r => if st.graceOver k && st.quiet k then st.save k true (some (r.launch, r.task)) else st
    | none => st)
/-- SAVE_COMPLETE: the saved context enters its list now, and the bank goes to the entry it is kept for. -/
def execSaveComplete (ctx : BitVec 12) (st : State) : Host.Outcome State Fault Refusal :=
  let k := ctx.toNat
  .next (match st.saving.find? fun v => v.ctx = k with
    | none => st
    | some v =>
      let s := { st with saving := st.saving.filter fun (w : Saving) => w.ctx ≠ k }
      let s := s.modCtx k fun c => { c with occ := .none, regs := { a := c.regs.a } }
      let s := s.enlist { v.entry with arrival := st.gt, since := st.gt }
      let s := if ((s.launch? v.entry.launch).map (·.faulted)) = some true then s.faultLaunch v.entry.launch 0 else s
      match v.wanted.bind fun w => s.ready.find? fun e => e.is w.1 w.2 with
      | some e => s.place k e
      | none => s)

/-! ## STEAL, STEAL_RETRY (R63, R65) -/

/-- A WTAKE of the context waits for a range. -/
def State.starved (s : State) (k : Nat) : Bool :=
  let c := s.ctx k
  c.occ = Occupancy.resident && c.retry ≠ 0 && !(c.regs.wrlo < c.regs.wrhi)
/-- STEAL: a thief's request reaches a victim, which gives half of its range or refuses. -/
def execSteal (thief victim : BitVec 12) (st : State) : Host.Outcome State Fault Refusal :=
  let k := thief.toNat
  let v := victim.toNat
  .next (if st.starved k && st.canGive v k then (st.giveHalf v k).modCtx k fun c => { c with retry := 0 } else st)
/-- STEAL_RETRY: a microsecond has passed, and the WTAKE repeats its pass. -/
def execStealRetry (ctx : BitVec 12) (st : State) : Host.Outcome State Fault Refusal :=
  let k := ctx.toNat
  .next (if st.starved k && (st.ctx k).retry ≤ st.gt then st.modCtx k fun c => { c with retry := 0 } else st)

end Sys2Proof.Machine
end

