-- ==== Sys2Proof/Machine/Engine.lean ====
section
/-! DEFINITION. Engine commands (R249, R250, R388 to R392, R421): issue, the range scoreboard, the accesses of an engine,
the finish of a command, and the triggers that a watermark crosses (R405). -/
namespace Sys2Proof.Machine

/-! ## Channels of a placement, resident or saved (R391) -/

/-- A channel of a placement; none when the placement has ended. -/
def State.chanAt (s : State) (inc ch : Nat) : Option Chan :=
  match s.ctxOf inc with
  | some k => some ((s.ctx k).chan ch)
  | none =>
    (s.savedOf inc).map fun e => { s.slotChan (s.savedSlot e) ch with
      done := Sparse.get [] ((e.saved.map (·.done)).getD []) ch, bad := Sparse.get [] ((e.saved.map (·.bad)).getD []) ch }
/-- A channel of a placement replaced. -/
def State.setChanAt (s : State) (inc ch : Nat) (x : Chan) : State :=
  match s.ctxOf inc with
  | some k => s.modCtx k fun c => c.setChan ch x
  | none =>
    match s.savedOf inc with
    | some e =>
      (s.pokeTab (s.savedSlot e + 0x1000 + 64 * ch) 8 8 x.word).modSaved inc fun v =>
        { v with done := v.done.put ch x.done, bad := v.bad.put ch x.bad }
    | none => s
/-- A token of a placement is satisfied (R390). -/
def State.tokenDone (s : State) (inc : Nat) (t : BitVec 32) : Bool :=
  match s.chanAt inc (tokenChan t) with
  | some x => !((tokenSeq t - x.w).toNat < (x.next - x.w).toNat)
  | none => true

/-! ## Triggers that an advance satisfies (R405) -/

/-- An item put behind those whose key is not larger. -/
def insertBy {α : Type} (key : α → Nat) (x : α) : List α → List α
  | [] => [x]
  | y :: ys => if key x < key y then x :: y :: ys else y :: insertBy key x ys
/-- Items by rising key; items of equal key keep their order. -/
def sortBy {α : Type} (key : α → Nat) : List α → List α
  | [] => []
  | x :: xs =>
    let r := sortBy key xs
    match r with
    | [] => [x]
    | y :: ys => if key x ≤ key y then x :: y :: ys else y :: insertBy key x ys
/-- A watermark at or past a threshold. -/
def crossedBy (w : BitVec 26) (thr : Word64) : Bool := (w - thr.extractLsb' 0 26).toNat < 2 ^ 25
/-- Watermark triggers that the advance of a channel from `w` to `w'` satisfies fire, the lower threshold first. -/
def State.crossChan (s : State) (inc ch : Nat) (w w' : BitVec 26) : State :=
  let hit := fun t : Trigger => t.inc = inc ∧ !t.isTime ∧ t.chan = ch ∧ crossedBy w' t.thresh
  { s with
    trigs := s.trigs.filter fun t => ¬ hit t
    fired := s.fired ++ sortBy (fun t => (t.thresh.extractLsb' 0 26 - w).toNat) (s.trigs.filter fun t => hit t) }
/-- Time triggers that an advance of GT satisfies fire, the lower threshold first. -/
def State.crossTime (s : State) : State :=
  let ns := BitVec.ofNat 64 (s.gt / 2 ^ 16)
  let hit := fun t : Trigger => t.isTime && t.thresh ≤ ns
  if s.trigs.any hit then
    { s with
      trigs := s.trigs.filter fun t => !hit t
      fired := s.fired ++ sortBy (fun t => t.thresh.toNat) (s.trigs.filter hit) }
  else s

/-! ## The finish of a command (R390, R392, R401, R421) -/

/-- OPER0 to OPER7 (R416): the capability operands, then the scalar ones. -/
def Cmd.oper (c : Cmd) : List Word64 :=
  let cs := c.caps.flatMap fun c => [c.bits.extractLsb' 0 64, c.bits.extractLsb' 64 64]
  (List.range 8).map fun i => if i < 4 then cs.getD i 0 else c.xs.getD (i - 4) 0
/-- A failure for a context that has terminated is counted in its save slot (R427). -/
def State.countFailure (s : State) (launch task : Nat) : State :=
  match s.launch? launch with
  | some l => let a := l.slot task + 0x3C; s.pokeNat a 4 (s.peekNat a 4 + 1)
  | none => s
/-- A failure recorded for the issuing context, which may be saved; a sixteenth record is lost (R421). For a terminated
context the record is counted in its save slot (R427). -/
def State.addRecord (s : State) (c : Cmd) (tok : BitVec 32) (t : Trap) : State :=
  let r : AsyncRec :=
    { cause := t.cause, addr := t.addr, info := t.info, token := tok, issue := c.issue, prog := BitVec.ofNat 40 c.prog
      oper := c.oper }
  match s.pendRecord c.inc r with
  | some s => s
  | none => s.countFailure c.launch c.task
/-- A token finished, with its failure if it failed. -/
def State.finishToken (s : State) (c : Cmd) (tok : BitVec 32) (fail : Option Trap) : State :=
  let ch := tokenChan tok
  let s := match s.chanAt c.inc ch with
    | none => s
    | some x =>
      let x := match fail with | some t => x.fail (tokenSeq tok) t.cause | none => x
      let y := x.finishAs (tokenSeq tok) fail.isSome
      (s.setChanAt c.inc ch y).crossChan c.inc ch x.w y.w
  s.settleBars c.inc tok fail.isSome
/-- Ranges of finished commands whose tokens are satisfied leave the scoreboard (R250). -/
def State.sweepBoard (s : State) (core : Nat) : State :=
  if (s.core core).board.isEmpty then s
  else
    let keep := fun r : Range => s.cmds.any (fun c => c.id = r.cmd) || !s.tokenDone r.inc r.token
    s.modCore core fun d => { d with board := d.board.filter keep }
/-- A command finished: its token, its record when it failed, its ranges. -/
def State.finishCmd (s : State) (c : Cmd) : State :=
  let s := s.finishToken c c.token c.fail
  let s := match c.fail with | some t => s.addRecord c c.token t | none => s
  State.sweepBoard { s with cmds := s.cmds.filter fun d => d.id ≠ c.id } (c.ctx / 2)

/-- A command by number. -/
def State.cmd? (s : State) (id : Nat) : Option Cmd := s.cmds.find? fun c => c.id = id
/-- A command changed by `f`. -/
def State.modCmd (s : State) (id : Nat) (f : Cmd → Cmd) : State :=
  { s with cmds := s.cmds.map fun c => if c.id = id then f c else c }
/-- A command stopped, with its failure if it failed: an earlier failure stays. -/
def State.stopCmd (s : State) (id : Nat) (fail : Option Trap) : State :=
  s.modCmd id fun c => { c with phase := .stopped, fail := c.fail <|> fail }

/-! ## The range scoreboard (R250) -/

/-- The ranges of a command in its own core's scratchpad. -/
def Cmd.own (c : Cmd) : List (Nat × Nat × Bool) := c.spans.filter fun r => r.1 / 0x100000 = scratchAddr (c.ctx / 2) 0 / 0x100000
/-- The command's ranges stand in the scoreboard. -/
def State.boarded (s : State) (c : Cmd) : Bool := c.own.isEmpty || (s.core (c.ctx / 2)).board.any fun r => r.cmd = c.id
/-- They fit its free entries. -/
def State.fits (s : State) (c : Cmd) : Bool := (s.core (c.ctx / 2)).board.length + c.own.length ≤ 64
/-- The command's ranges enter the scoreboard. -/
def State.board (s : State) (c : Cmd) : State :=
  let rs : List Range := c.own.map fun r =>
    { lo := r.1, hi := r.2.1, write := r.2.2, cmd := c.id, inc := c.inc, token := c.token }
  s.modCore (c.ctx / 2) fun d => { d with board := d.board ++ rs }
/-- Two ranges conflict. -/
def clash (a b : Nat × Nat × Bool) : Bool := a.1 < b.2.1 && b.1 < a.2.1 && (a.2.2 || b.2.2)
/-- An older command of the core still holds a range that conflicts. -/
def State.blocked (s : State) (c : Cmd) : Bool :=
  !c.own.isEmpty &&
    ((s.core (c.ctx / 2)).board.any (fun r => r.cmd < c.id && c.own.any fun x => clash x (r.lo, r.hi, r.write)) ||
      s.cmds.any fun d => d.id < c.id && d.ctx / 2 = c.ctx / 2 && !s.boarded d && c.own.any fun x => d.own.any fun y => clash x y)
/-- A vector access through a capability (R267, R268). -/
def QSlot.globalForm (q : QSlot) : Bool := (q.exu = .vl || q.exu = .vs) && q.word.getLsbD 2 && (q.word.extractLsb' 24 7 ≠ 0x5F)
/-- Whether a slot accesses the core's scratchpad by its address, and then whether it may write there, by its major (R259, R180). -/
def QSlot.scratch (q : QSlot) : Option Bool :=
  if q.globalForm then none
  else match (q.word.extractLsb' 24 7).toNat with
  | 0x58 => some false | 0x59 => some true | 0x5A => some true | 0x5B => some true | 0x5C => some false | 0x5D => some true
  | 0x5E => some (q.exu = .vs) | 0x5F => some false | 0x6C => some false | _ => none
/-- An issued bundle holds a slot that is older than the command and accesses a range of it. -/
def Issue.holds (i : Issue) (c : Cmd) : Bool :=
  i.todo.any fun q => (i.num < c.bundle || (i.num = c.bundle && q.idx < c.slot)) &&
    (match q.scratch with | some w => c.own.any fun r => w || r.2.2 | none => false)
/-- An older slot of the command's context that accesses its ranges has not completed: one that is issued, or one that an exception
after the command has put into an image. Every range counts as met. DEDUCED, log entry 14. -/
def State.olderSlot (s : State) (c : Cmd) : Bool :=
  !c.own.isEmpty && (match s.ctxOf c.inc with
    | some k =>
      let x := s.ctx k
      x.flight.any (·.holds c) ||
        [x.img1, x.img2].any fun i => i.any fun i => c.bundle ≤ i.last && (i.older ++ [i.issue]).any (·.holds c)
    | none => false)
/-- The tokens a command waits for are satisfied. -/
def State.depsDone (s : State) (c : Cmd) : Bool := c.deps.all fun t => s.tokenDone c.inc t
/-- A command may begin its accesses. -/
def State.cmdReady (s : State) (c : Cmd) : Bool :=
  s.depsDone c && (s.boarded c || s.fits c) && !s.blocked c && !s.olderSlot c
/-- A command begins: its ranges are in the scoreboard. -/
def State.startCmd (s : State) (c : Cmd) : State :=
  let s := if s.boarded c then s else s.board c
  s.modCmd c.id fun c => { c with phase := .running, since := s.gt }

/-! ## Issue (R389) -/

/-- The channel has room for `n` more tokens. -/
def Chan.room (x : Chan) (n : Nat) : Bool := (x.next - x.w).toNat + n < 2 ^ 25
/-- The next token of channel `ch`, which tD gets. -/
def newToken (d ch : Nat) : M (BitVec 32) := do
  let k ← self
  let x ← reads fun s => (s.ctx k).chan ch
  if !x.room 1 then full 0
  let tok : BitVec 32 := BitVec.ofNat 6 ch ++ x.next
  change fun s => (s.modCtx k fun c => c.setChan ch { x with next := x.next + 1 }).modRegs fun r => r.wt d ⟨tok, false⟩
  pure tok
/-- The token of the running slot of the MX queue: S gave it at issue (R193, R199). -/
def slotToken (d ch : Nat) : M (BitVec 32) := do
  match ← reads fun s => s.slot.tok with
  | some t => pure t
  | none => newToken d ch
/-- A command of the running slot, with what its issue read. -/
def State.newCmd (s : State) (tok : BitVec 32) (unit : CmdUnit) (op : CmdOp) (caps : List Cap) (xs : List Word64)
    (spans : List (Nat × Nat × Bool)) : Cmd :=
  let c := s.ctx s.cur
  { id := s.nextCmd, inc := c.inc, launch := c.regs.launch.toNat, task := c.regs.task.toNat, ctx := s.cur
    asid := (s.launchOf s.cur).asid, token := tok, unit, op, issue := c.issue.addr, bundle := c.issue.num, slot := s.slot.idx
    deps := s.slot.deps, caps, xs, spans, since := s.gt }
/-- A command added to the outstanding ones. -/
def State.addCmd (s : State) (e : Cmd) : State := { s with cmds := s.cmds ++ [e], nextCmd := s.nextCmd + 1 }
/-- A command issued by the running slot on channel `ch`: tD gets its token, and the command joins its unit's queue. -/
def issueCmd (d ch : Nat) (unit : CmdUnit) (op : CmdOp) (caps : List Cap) (xs : List Word64)
    (spans : List (Nat × Nat × Bool)) : M Unit := do
  let tok ← newToken d ch
  change fun s =>
    let e := s.newCmd tok unit op caps xs spans
    let s := s.addCmd e
    if s.fits e then s.board e else s
/-- Commands of a unit of a core that wait in its queue. -/
def State.queueOf (s : State) (core : Nat) (unit : CmdUnit) : List Cmd :=
  s.cmds.filter fun c => c.ctx / 2 = core && c.unit = unit && c.phase = .queued

/-! ## One unit of work -/

/-- A unit of work of command `id`: requests and causes are the command's. -/
def cmdOut (id : Nat) (m : M Unit) (s : State) : State :=
  let drop := fun s : State => { s with asks := 0, reqs := s.reqs.filter fun r => r.owner ≠ Owner.cmd id }
  match m { s with asks := 0 } with
  | .ok (_, s') => drop s'
  | .error (.wait s') => { s' with asks := 0 }
  | .error (.ask r) => s.addReq r
  | .error (.raise t) => (drop s).stopCmd id (some t)
  | .error _ => s

/-! ## Accesses of an engine (R310, R311) -/

/-- A write to a COW page waits for its copy, and for the writers before it, or fails when the copy cannot start (R226, R228). -/
def cowHold (who : Owner) (asid : Nat) (ps : List Piece) : M Unit :=
  cowGate who asid ps fun p => raise { cause := 0x27, addr := BitVec.ofNat 64 p.va }
/-- The pieces of an engine's access. A page not present fails with PAGE_FAULT; a write to a COW page waits for its copy, or
fails when the copy cannot start (R226, R228). -/
def engSpread (who : Owner) (tlb asid va n : Nat) (need : Need) (sn : Bool) : M (List Piece) := do
  let r ← fun s => let (s', r) := s.spread tlb asid va n; .ok (r, s')
  match r.absent with
  | a :: _ => raise { cause := 0x20, addr := BitVec.ofNat 64 a }
  | [] => pure ()
  match r.bad with
  | some (cause, a) => raise { cause, addr := BitVec.ofNat 64 a }
  | none => pure ()
  match ← reads fun s => s.refusal r.ps need sn with
  | some (cause, a) => raise { cause, addr := BitVec.ofNat 64 a }
  | none => pure ()
  let wr : Bool := match need with | .write => true | .atomic => true | _ => false
  if wr then cowHold who asid r.ps
  pure r.ps
/-- Bytes read by an engine. -/
def engLoad (c : Cmd) (nt : Bool) (ps : List Piece) : M (List (Val 8)) := do
  match ← loadPieces (.cmd c.id) none nt c.asid ps with
  | .ok bs => pure bs
  | .error t => raise t
/-- One piece written by an engine, and performed. -/
def engPut (c : Cmd) (nt : Bool) (p : Piece) (bs : List (Val 8)) : M Unit := do
  match ← reads fun s => s.target p.pa with
  | .mem => change fun s => s.storeLocal none (allocOf p.leaf nt) (p.pa % 2 ^ 50) p.len (byteAt bs)
  | .bad => raise (.prot (BitVec.ofNat 64 p.va))
  | _ =>
    match (← ask (.cmd c.id) p.pa (.write bs) 6 c.asid).result p.va with
    | .ok _ => pure ()
    | .error t => raise t
/-- Bytes written by an engine. -/
def engStore (c : Cmd) (nt : Bool) (ps : List Piece) (bs : List (Val 8)) : M Unit :=
  (cutBytes ps bs).forM fun w => engPut c nt w.1 w.2

/-! ## MX addresses (R179) -/

/-- The device-local address of an MX address for an extent, or none when it is not in bounds. -/
def mxPlace (core a n : Nat) : Option Nat := scratchPlace core a n
/-- An operand by MX address: its device-local address, or SCRATCH_BOUNDS. -/
def mxAt (a : Word64) (n : Nat) : M Nat := do
  match ← reads fun s => mxPlace (s.cur / 2) a.toNat n with
  | some p => pure p
  | none => raise (.scratchBounds a)

end Sys2Proof.Machine
end

