-- ==== Sys2Proof/Machine/Fetch.lean ====
section
/-! DEFINITION. Instruction fetch (R82, R83, R140, R258): the word at an address, and the check of a transfer's target. -/
namespace Sys2Proof.Machine

/-- The code capability of a launch (R379). -/
def Launch.code_ (l : Launch) : Cap := { bits := l.codeCap, tag := true }
/-- The word at `va` as context `k` fetches it. A page not present takes the page-fault path; a fetch whose bytes lie on the
host or a peer waits for them. DEDUCED, log entry 15; DEDUCED, log entry 36. -/
def fetchWord (k : Nat) (va : Word64) : M (BitVec 32) := do
  let l ← reads fun s => s.launchOf k
  match l.code_.check va.toNat 4 permX with
  | some (cause, a) => raise { cause, addr := BitVec.ofNat 64 a }
  | none => pure ()
  let w ← fun s => let (s', w) := s.translate (k / 2) l.asid va.toNat; .ok (w, s')
  match w with
  | .absent => fun s => .error (.page s [{ va, kind := .fetch }])
  | .fail c => raise { cause := c, addr := va }
  | .ok leaf size =>
    let pa := physical leaf size va.toNat
    let p : Piece := { va := va.toNat, off := 0, len := 4, leaf := ← reads fun s => s.governs leaf pa, pa }
    match ← reads fun s => s.refusal [p] .fetch (l.code_.perm &&& permSN ≠ 0) with
    | some (cause, _) => raise { cause, addr := va }
    | none =>
      match ← loadPiece (fetchOwner k) none false l.asid p with
      | .error t => raise t
      | .ok bs =>
        raiseIf (anyPsn bs) (.poison 0)
        pure (BitVec.ofNat 32 (leNat bs))
/-- The check of R82 on a target: the word before it has its stop bit set. A fault on the read is a fetch fault at the
target; when its page is absent, the page request names the word's own address (DEDUCED, log entry 54). `onFetch` makes such a fault of it. -/
def checkTarget (k : Nat) (t : Word64) : M (Except Trap Unit) := fun s =>
  if t.toNat % 4 ≠ 0 then .ok (.error (.illegalTarget t), s)
  else match fetchWord k (t - 4) s with
    | .ok (w, s') => .ok (if w.getLsbD 31 then .ok () else .error (.illegalTarget t), s')
    | .error (.raise f) => .error (.raise { f with addr := if f.cause = 0x10 ∨ f.cause = 0x23 then 0 else t })
    | .error e => .error e

end Sys2Proof.Machine
end

