-- ==== Sys2Proof/Machine/Queues.lean ====
section
/-! DEFINITION. The copy engine (R305 to R311), send channels (R312), FIFO link registers (R318 to R320), LOOPS (R137) and
clasps (R321 to R323). -/
namespace Sys2Proof.Machine

/-! ## Shape records (R209) -/

/-- The size of an element of a type code of R97, in units of 4 bits. -/
def typeHalf (t : Nat) : Nat := [2, 4, 8, 16, 2, 4, 8, 16, 16, 8, 4, 4, 2, 2, 1, 16, 16, 32].getD t 2
/-- A record: type, NT, dimensions. -/
structure Shape where
  type : Nat
  nt : Bool
  dims : List (Nat × Int)
deriving DecidableEq, Repr
/-- The record at unit `u` of the issuing core's scratchpad, read whole: POISON_CONSUMED or SHAPE_INVALID. -/
def readShape (u : Nat) : M Shape := do
  let core ← ownCore
  let off := 16 * u
  let bad := Trap.shapeInvalid off
  let hd ← reads fun s => s.peekN (scratchAddr core off) 16
  raiseIf (anyPsn hd) (.poison 0)
  let at_ := fun (bs : List (Val 8)) o n => leNat ((bs.drop o).take n)
  let n := at_ hd 0 1
  raiseIf (n = 0 ∨ 9 < n ∨ 0x100000 < off + 16 * (n + 1)) bad
  let es ← reads fun s => (List.range n).map fun i => s.peekN (scratchAddr core (off + 16 * (i + 1))) 16
  raiseIf (es.any anyPsn) (.poison 0)
  raiseIf (17 < at_ hd 1 1 ∨ 1 < at_ hd 2 2 ∨ at_ hd 4 12 ≠ 0) bad
  raiseIf (es.any fun e => at_ e 10 6 ≠ 0) bad
  pure { type := at_ hd 1 1, nt := at_ hd 2 2 = 1, dims := es.map fun e => (at_ e 0 4, (BitVec.ofNat 48 (at_ e 4 6)).toInt) }

/-! ## Resolution of COPY operands (R306 to R309) -/

/-- A COPY operand before resolution: a capability, or a scratch operand word. -/
inductive CopyArg where
  | cap (n : Nat) (c : Cap) | scratch (w : Word64)
/-- An operand field read: POISON_CONSUMED, CAP_TAG. -/
def copyArg (f : BitVec 6) : M CopyArg := do
  if f.toNat < 16 then
    let c ← cClean f.toNat
    raiseIf (!c.tag) (.capTag f.toNat)
    pure (.cap f.toNat c)
  else pure (.scratch (← xClean f.toNat))
/-- The checks on a scratch operand's fields. -/
def CopyArg.fields : CopyArg → M Unit
  | .cap .. => pure ()
  | .scratch w => do
    let len := (w.extractLsb' 40 21).toNat
    raiseIf (w.extractLsb' 61 3 ≠ 0 ∨ 2 ^ 20 < len) (.scratchBounds w)
    raiseIf (w.extractLsb' 24 16 ≠ 0 ∧ len ≠ 0) (.shapeInvalid (16 * (w.extractLsb' 24 16).toNat))
/-- The shape field and the flat length of an operand. -/
def CopyArg.shape : CopyArg → Nat
  | .cap _ c => c.shape.toNat | .scratch w => (w.extractLsb' 24 16).toNat
def CopyArg.len : CopyArg → Nat
  | .cap _ c => c.len | .scratch w => (w.extractLsb' 40 21).toNat
/-- The lowest and the highest element offset of a tensor. -/
def spanOf (dims : List (Nat × Int)) : Int × Int :=
  dims.foldl (fun r d => let e := ((d.1 : Int) - 1) * d.2; (r.1 + min 0 e, r.2 + max 0 e)) (0, 0)
/-- The element count. -/
def countOf (dims : List (Nat × Int)) : Nat := dims.foldl (fun n d => n * d.1) 1
/-- The byte offset of the lowest byte from the base, and the number of bytes spanned. -/
def byteSpan (half : Nat) (dims : List (Nat × Int)) : Int × Nat :=
  let r := spanOf dims
  let lo := (half * r.1) / 2
  (lo, (((half : Int) * r.2 + half - 1) / 2 + 1 - lo).toNat)
/-- The span checks of one operand, in the order of R309; its tensor and its scratchpad span. -/
def copyPlace (a : CopyArg) (half : Nat) (nt : Bool) (dims : List (Nat × Int)) (need : BitVec 8) :
    M (Tensor × List (Nat × Nat)) := do
  let empty := countOf dims = 0
  let (lo, n) := byteSpan half dims
  match a with
  | .cap i c =>
    if !empty then capCheck i c ((((c.base : Int) + lo) % 2 ^ 64).toNat) n (need ||| permCP)
    pure ({ glob := true, base := c.base, dims, nt, sn := c.perm &&& permSN ≠ 0 }, [])
  | .scratch w =>
    let core ← ownCore
    let addr := (w.extractLsb' 0 24).toNat
    let first := (addr : Int) + lo
    if empty then pure ({ glob := false, base := scratchAddr core (addr % 0x100000), dims, nt }, [])
    else
      raiseIf (first < 0 || (scratchPlace core first.toNat n).isNone) (.scratchBounds w)
      match scratchPlace core first.toNat n with
      | some p => pure ({ glob := false, base := (((p : Int) - lo)).toNat, dims, nt }, [(p, p + n)])
      | none => raise (.scratchBounds w)
/-- What COPY checks at issue before the space in its channel (R309): the command's operands. -/
def copyPlan (a b : BitVec 6) (c : BitVec 3) : M (CmdOp × List Cap × List Word64 × List (Nat × Nat × Bool)) := do
  let x ← copyArg a
  let y ← copyArg b
  x.fields
  y.fields
  let sx ← if x.shape = 0 then pure none else some <$> readShape x.shape
  let sy ← if y.shape = 0 then pure none else some <$> readShape y.shape
  let rec_ := 16 * (if x.shape = 0 then y.shape else x.shape)
  let half := match sx, sy with
    | some r, _ => typeHalf r.type
    | none, some r => typeHalf r.type
    | none, none => 2
  raiseIf (match sy with | some r => decide (typeHalf r.type ≠ half) | none => false) (.shapeInvalid rec_)
  let dims := fun (r : Option Shape) (len : Nat) => match r with
    | some r => r.dims
    | none => [(2 * len / half, 1)]
  raiseIf ((sx.isNone && decide (2 * x.len % half ≠ 0)) || (sy.isNone && decide (2 * y.len % half ≠ 0))) (.shapeInvalid rec_)
  let dx := dims sx x.len
  let dy := dims sy y.len
  raiseIf (countOf dx ≠ countOf dy ∨ 2 ^ 40 ≤ countOf dx) (.shapeInvalid rec_)
  let nt := fun r : Option Shape => (r.map (·.nt)).getD false
  -- capability operands first, then scratch operands, each source before destination
  let isCap := fun z : CopyArg => match z with | .cap .. => true | .scratch _ => false
  if !isCap x && isCap y then
    let (ty, ry) ← copyPlace y half (nt sy) dy permW
    let (tx, rx) ← copyPlace x half (nt sx) dx permR
    fin x y half tx ty rx ry
  else
    let (tx, rx) ← copyPlace x half (nt sx) dx permR
    let (ty, ry) ← copyPlace y half (nt sy) dy permW
    fin x y half tx ty rx ry
where
  fin (x y : CopyArg) (half : Nat) (tx ty : Tensor) (rx ry : List (Nat × Nat)) :
      M (CmdOp × List Cap × List Word64 × List (Nat × Nat × Bool)) :=
    let caps := [x, y].filterMap fun z => match z with | .cap _ c => some c | .scratch _ => none
    let xs := [x, y].filterMap fun z => match z with | .cap .. => none | .scratch w => some w
    pure (.copy half tx ty c, caps, xs, (rx.map fun r => (r.1, r.2, false)) ++ ry.map fun r => (r.1, r.2, true))
/-- The channel has room for a command more. -/
def State.channelRoom (s : State) (core : Nat) (u : CmdUnit) : Bool :=
  (s.queueOf core u).length < (match u with | .tce _ => 32 | _ => 16)
/-- COPY. -/
def execCopy (d a b : BitVec 6) (c h : BitVec 3) (st : State) : Host.Outcome State Fault Refusal :=
  slotOut (do
    let (op, caps, xs, spans) ← copyPlan a b c
    if ← reads fun s => !s.channelRoom (s.cur / 2) (.tce h.toNat) then full (0x114 + h.toNat)
    issueCmd d.toNat h.toNat (.tce h.toNat) op caps xs spans) st

/-- The offset of element `e` from the base, in elements (R308). -/
def elemOffset (dims : List (Nat × Int)) (e : Nat) : Int :=
  (dims.foldr (fun d (r : Nat × Int) => (r.1 / d.1, r.2 + ((r.1 % d.1 : Nat) : Int) * d.2)) (e, 0)).2
/-- The address of element `e` in units of 4 bits. -/
def Tensor.place (t : Tensor) (half e : Nat) : Nat := (((2 * t.base : Nat) : Int) + (half : Int) * elemOffset t.dims e).toNat
/-- Bytes of an operand read and written by the copy engine. -/
def tensorLoad (c : Cmd) (t : Tensor) (a n : Nat) : M (List (Val 8)) := do
  if t.glob then engLoad c t.nt (← engSpread (.cmd c.id) (tlbTce (c.ctx / 2)) c.asid (a % 2 ^ 64) n .read t.sn)
  else reads fun s => s.peekN a n
def tensorStore (c : Cmd) (t : Tensor) (a : Nat) (bs : List (Val 8)) : M Unit := do
  if t.glob then engStore c t.nt (← engSpread (.cmd c.id) (tlbTce (c.ctx / 2)) c.asid (a % 2 ^ 64) bs.length .write t.sn) bs
  else change fun s => s.pokeL .fill a bs
/-- The bytes of the destination as they stand, for a write of a part or for what a write replaces. -/
def tensorOld (c : Cmd) (t : Tensor) (a n : Nat) : M (List (Val 8)) := do
  if t.glob then engLoad c t.nt (← engSpread (.cmd c.id) (tlbTce (c.ctx / 2)) c.asid (a % 2 ^ 64) n .write t.sn)
  else reads fun s => s.peekN a n
/-- The unit of work starts over with requests of its own. -/
def startOver (c : Cmd) : M Unit := fun s =>
  .error (.wait { s with reqs := s.reqs.filter fun (r : Req) => r.owner ≠ Owner.cmd c.id })
/-- Nibble `v` put at nibble `i` of a word. -/
def putNibble (w i v : Nat) : Nat := w - w / 16 ^ i % 16 * 16 ^ i + v * 16 ^ i
/-- One E2M1 element written at the host or at a peer as one step of its home point on the byte (R308): a compare and swap of the word
that holds it, made again when another agent has changed the word. A poisoned element poisons the word; a word that is poisoned
stays so. -/
def nibbleFar (c : Cmd) (nt : Bool) (p : Piece) (odd v : Nat) (psn : Bool) : M Unit := do
  if psn then engPut c nt p [⟨BitVec.ofNat 8 (v * 16 ^ odd), true⟩]
  else
    let a := p.pa / 4 * 4
    let get := fun (q : Ask) => do
      match (← ask (.cmd c.id) a q 6 c.asid).result p.va with
      | .ok bs => pure bs
      | .error t => raise t
    let old ← get (.read 4)
    if !anyPsn old then
      let w := leNat old
      let new := putNibble w (2 * (p.pa % 4) + odd) v
      let got ← get (.atomic 1 false (BitVec.ofNat 64 new) (BitVec.ofNat 64 w) 0)
      if !anyPsn got && leNat got ≠ w then startOver c
/-- The bytes `x` of element `e` written. A 4-bit element changes its own half of its byte, in one step (R238, R308). -/
def putElem (c : Cmd) (half : Nat) (src dst : Tensor) (e : Nat) (x : List (Val 8)) : M Unit := do
  let a := src.place half e
  let b := dst.place half e
  if half = 1 then
    let v := (byteAt x 0).v.toNat / 16 ^ (a % 2) % 16
    let ps ← if dst.glob then engSpread (.cmd c.id) (tlbTce (c.ctx / 2)) c.asid (b / 2 % 2 ^ 64) 1 .write dst.sn else pure []
    match ← reads fun s => ps.find? fun p => s.target p.pa = .host || s.target p.pa = .remote with
    | some p => nibbleFar c dst.nt p (b % 2) v (anyPsn x)
    | none =>
      let y ← tensorOld c dst (b / 2) 1
      tensorStore c dst (b / 2) [⟨BitVec.ofNat 8 (putNibble (byteAt y 0).v.toNat (b % 2) v), anyPsn x⟩]
  else tensorStore c dst (b / 2) x
/-- One element copied. -/
def copyElem (c : Cmd) (half : Nat) (src dst : Tensor) (e : Nat) : M Unit := do
  putElem c half src dst e (← tensorLoad c src (src.place half e / 2) (max 1 (half / 2)))
/-- Elements from `e` on that lie side by side in both operands, up to the end of the destination's 128-byte line: they are
read and written together. -/
def runLength (half : Nat) (src dst : Tensor) (e : Nat) : Nat :=
  match src.dims.getLast?, dst.dims.getLast? with
  | some (n, 1), some (m, 1) =>
    let a := src.place half e
    let b := dst.place half e
    let k := max 1 (min (min (n - e % n) (m - e % m)) ((256 - b % 256) / half))
    if half ≠ 1 then k else if a % 2 = 0 ∧ b % 2 = 0 ∧ 2 ≤ k then k / 2 * 2 else 1
  | _, _ => 1
/-- A run of elements copied. -/
def copyRun (c : Cmd) (half : Nat) (src dst : Tensor) (e k : Nat) : M Unit :=
  if half * k % 2 = 1 then copyElem c half src dst e
  else do tensorStore c dst (dst.place half e / 2) (← tensorLoad c src (src.place half e / 2) (half * k / 2))
/-- How many of the `n` elements from `e` on lie side by side. -/
def sideBySide (half : Nat) (t : Tensor) (e : Nat) : Nat → Nat
  | 0 => 0
  | n + 1 =>
    let k := sideBySide half t e n
    if k = n ∧ t.place half (e + n) = t.place half e + n * half then n + 1 else k
/-- The elements of the packet that begins at element `e`: the longest run whose bytes at the destination are consecutive, at most 1,792 of
them, within one 64 KiB-aligned block (R456). A 4-bit element that shares its byte with one before the run goes alone (R308). -/
def packetLength (half : Nat) (dst : Tensor) (e : Nat) : Nat :=
  let b := dst.place half e
  let k := sideBySide half dst e (min (countOf dst.dims - e) (min 3584 (2 ^ 17 - b % 2 ^ 17) / half))
  if half ≠ 1 then max 1 k else if b % 2 = 0 ∧ 2 ≤ k then k / 2 * 2 else 1
/-- The bytes of `k` whole-byte elements from `e` on, in enumeration order; `fuel` is at least `k`. -/
def gatherBytes (c : Cmd) (half : Nat) (src : Tensor) : Nat → Nat → Nat → M (List (Val 8))
  | 0, _, _ => pure []
  | fuel + 1, e, k =>
    if k = 0 then pure []
    else do
      let r := max 1 (sideBySide half src e k)
      let x ← tensorLoad c src (src.place half e / 2) (half * r / 2)
      pure (x ++ (← gatherBytes c half src fuel (e + r) (k - r)))
/-- The 4-bit element `e`. -/
def loadNibble (c : Cmd) (src : Tensor) (e : Nat) : M (Val 8) := do
  let a := src.place 1 e
  let x ← tensorLoad c src (a / 2) 1
  pure ⟨BitVec.ofNat 8 ((byteAt x 0).v.toNat / 16 ^ (a % 2) % 16), (byteAt x 0).psn⟩
/-- The bytes of `k` pairs of 4-bit elements from `e` on. -/
def gatherPairs (c : Cmd) (src : Tensor) (e k : Nat) : M (List (Val 8)) :=
  (List.range k).mapM fun i => do
    let lo ← loadNibble c src (e + 2 * i)
    let hi ← loadNibble c src (e + 2 * i + 1)
    pure ⟨lo.v ||| (hi.v <<< 4), lo.psn || hi.psn⟩
/-- One packet of remote writes (R456). -/
def copyPacket (c : Cmd) (half : Nat) (src dst : Tensor) (e k : Nat) : M Unit :=
  if half * k % 2 = 1 then copyElem c half src dst e
  else do
    let bs ← if half = 1 then gatherPairs c src e (k / 2) else gatherBytes c half src k e k
    tensorStore c dst (dst.place half e / 2) bs
/-- Element `e` of a destination lies at a peer. -/
def farElem (c : Cmd) (half : Nat) (dst : Tensor) (e : Nat) : M Bool :=
  if dst.glob then do
    let ps ← engSpread (.cmd c.id) (tlbTce (c.ctx / 2)) c.asid (dst.place half e / 2 % 2 ^ 64) (max 1 (half / 2)) .write dst.sn
    reads fun s => ps.any fun p => s.target p.pa = .remote
  else pure false
/-- The bytes of the operands may overlap. -/
def overlapping (half : Nat) (src dst : Tensor) : Bool :=
  let (x, n) := byteSpan half src.dims
  let (y, m) := byteSpan half dst.dims
  let lo := (src.base : Int) + x
  let hi := (dst.base : Int) + y
  src.glob = dst.glob && lo < hi + m && hi < lo + n
/-- Bytes from `a` on as they stood before the command: what it has replaced, and what it has not. -/
def beforeBytes (old : Sparse (Val 8)) (a : Nat) (bs : List (Val 8)) : List (Val 8) := bs.mapIdx fun i b => (old.find (a + i)).getD b
/-- What a write replaces, kept: the first one counts. -/
def keepBytes (old : Sparse (Val 8)) (a : Nat) (bs : List (Val 8)) : Sparse (Val 8) :=
  old.putRange a bs.length fun i => (old.find (a + i)).getD (byteAt bs i)
/-- A free choice drawn. -/
def drawM : M Nat := fun s => let (n, s') := s.draw Config.choice; .ok (n, s')
/-- One element between operands that overlap: the source element as it stood before the command, or as an earlier element
has left it; the choice is free (R310). -/
def copyFree (c : Cmd) (half : Nat) (src dst : Tensor) (e : Nat) : M Unit := do
  let a := src.place half e / 2
  let b := dst.place half e / 2
  let n := max 1 (half / 2)
  let now ← tensorLoad c src a n
  let gone ← tensorOld c dst b n
  let r ← drawM
  putElem c half src dst e (if r % 2 = 0 then now else beforeBytes c.orig a now)
  change fun s => s.modCmd c.id fun d => { d with pos := e + 1, prog := e + 1, orig := keepBytes c.orig b gone }
/-- One unit of a COPY: a packet of writes to a peer, or a run of elements, in enumeration order; an element between operands that
overlap. -/
def State.copyWork (s : State) (c : Cmd) (half : Nat) (src dst : Tensor) : State :=
  if countOf src.dims ≤ c.pos then s.stopCmd c.id none
  else if overlapping half src dst then cmdOut c.id (copyFree c half src dst c.pos) s
  else cmdOut c.id (do
    let far ← farElem c half dst c.pos
    let k := if far then packetLength half dst c.pos else runLength half src dst c.pos
    if far then copyPacket c half src dst c.pos k else copyRun c half src dst c.pos k
    change fun s => s.modCmd c.id fun d => { d with pos := d.pos + k, prog := d.pos + k }) s

/-! ## SEND (R312) -/

/-- A clasp of the context is open on a send channel. DEDUCED, log entry 33. -/
def Regs.claspOpen (r : Regs) (h : Nat) : Bool := r.qmode.getLsbD (12 + h)
/-- What SEND checks at issue before the space in its channel. -/
def sendPlan (a b : BitVec 6) (l : BitVec 4) (h : BitVec 2) : M (CmdOp × List Cap × List Word64 × List (Nat × Nat × Bool)) := do
  let c ← cClean a.toNat
  let x ← xClean b.toNat
  let len := 16 * (l.toNat + 1)
  raiseIf (c.base % 16 ≠ 0) (.align (BitVec.ofNat 64 c.base))
  raiseIf (x.toNat % 16 ≠ 0) (.align x)
  capCheck a.toNat c c.base len permW
  let p ← mxAt x len
  let g ← reads fun s => s.regs.claspOpen h.toNat
  pure (.send c.base p len (c.perm &&& permSN ≠ 0) g, [c], [x], [(p, p + len, false)])
def execSend (d a b : BitVec 6) (l : BitVec 4) (h : BitVec 2) (st : State) : Host.Outcome State Fault Refusal :=
  slotOut (do
    let (op, caps, xs, spans) ← sendPlan a b l h
    if ← reads fun s => !s.channelRoom (s.cur / 2) (.send h.toNat) then full (0x11C + h.toNat)
    issueCmd d.toNat (9 + h.toNat) (.send h.toNat) op caps xs spans) st

/-- The open group of a placement on a channel. -/
def State.clasp? (s : State) (inc ch : Nat) : Option Clasp := s.clasps.find? fun g => g.inc = inc ∧ g.ch = ch
/-- A group changed by `f`. -/
def State.modClasp (s : State) (grp : Nat) (f : Clasp → Clasp) : State :=
  { s with clasps := s.clasps.map fun g => if g.grp = grp then f g else g }
/-- The channel of a send command. -/
def Cmd.sendCh (c : Cmd) : Nat := match c.unit with | .send h => h | _ => 0
/-- The request of a group's SEND carries its group and staging slot. -/
def claspStore (g : Clasp) (bs : List (Val 8)) : Ask := .stage bs g.grp (g.slot.getD 0)
/-- A SEND at the head of its channel: an access to local memory is performed, any other goes out as one request for each
page, and the command waits for the answers. -/
def sendWork (c : Cmd) (va src len : Nat) (sn grp : Bool) : M Unit := do
  let ps ← engSpread (.cmd c.id) tlbOfu c.asid va len .write sn
  let bs ← reads fun s => s.peekN src len
  if grp then
    match ← reads fun s => s.clasp? c.inc c.sendCh with
    | none => raise { cause := 0x42 }
    | some g =>
      raiseIf g.aborted { cause := 0x42, info := BitVec.ofNat 64 g.peer }
      if g.slot.isNone then hold
      let big := 65536 < g.bytes + len
      raiseIf (ps.any fun p => p.pa / 2 ^ 50 ≠ g.peer) (.prot (BitVec.ofNat 64 va))
      raiseIf big { cause := 0x42, info := BitVec.ofNat 64 g.peer }
      (cutBytes ps bs).forM fun w => do
        match (← ask (.cmd c.id) w.1.pa (claspStore g w.2) 4 c.asid).result w.1.va with
        | .ok _ => pure ()
        | .error t => raise t
      change fun s => s.modClasp g.grp fun g => { g with bytes := g.bytes + len }
  else engStore c false ps bs
  change fun s => (s.modCmd c.id fun d => { d with prog := len }).stopCmd c.id none
def State.sendWork (s : State) (c : Cmd) (va src len : Nat) (sn grp : Bool) : State :=
  let s' := cmdOut c.id (Machine.sendWork c va src len sn grp) s
  if grp ∧ ((s'.cmd? c.id).map (·.fail)).getD none ≠ none then
    match s'.clasp? c.inc c.sendCh with
    | some g => s'.modClasp g.grp fun g => { g with aborted := true }
    | none => s'
  else s'

/-! ## Clasps (R321 to R323) -/

/-- CLOPEN. -/
def execClopen (d a : BitVec 6) (h : BitVec 2) (st : State) : Host.Outcome State Fault Refusal :=
  slotOut (do
    let x ← xClean a.toNat
    let peer := x.toNat % 2 ^ 14
    raiseIf (← reads fun s => !s.routed peer && decide (peer ≠ s.peer)) { cause := 0x41, info := BitVec.ofNat 64 peer }
    raiseIf (← reads fun s => s.regs.claspOpen h.toNat) (.prot 0)
    if ← reads fun s => !s.channelRoom (s.cur / 2) (.send h.toNat) then full (0x11C + h.toNat)
    issueCmd d.toNat 17 (.send h.toNat) (.clopen peer) [] [x] []
    setRegs fun r => { r with qmode := r.qmode ||| ((1 : Word64) <<< (12 + h.toNat)) }) st
/-- CLCLOSE. -/
def execClclose (d : BitVec 6) (h : BitVec 2) (st : State) : Host.Outcome State Fault Refusal :=
  slotOut (do
    raiseIf (← reads fun s => !s.regs.claspOpen h.toNat) (.prot 0)
    if ← reads fun s => !s.channelRoom (s.cur / 2) (.send h.toNat) then full (0x11C + h.toNat)
    issueCmd d.toNat 17 (.send h.toNat) .clclose [] [] []
    setRegs fun r => { r with qmode := r.qmode &&& ~~~((1 : Word64) <<< (12 + h.toNat)) }) st
/-- A group of the device is given up. -/
def State.freeClasp (s : State) (grp : Nat) : State := { s with clasps := s.clasps.filter fun (x : Clasp) => x.grp ≠ grp }
/-- The record of a group's close, which the fabric carries. -/
def isClose (grp : Nat) (r : Rec) : Bool := r.rtype = 11 && r.aux = 1 && r.data % 2 ^ 16 = grp
/-- A CLOPEN at the head of its channel takes a group, asks the peer for a slot, and stops when the peer has answered. A
refusal for good aborts the group, which then ends with its commands (R323). -/
def clopenWork (c : Cmd) (peer : Nat) : M Unit := do
  let g ← match ← reads fun s => s.clasp? c.inc c.sendCh with
    | some g => pure g
    | none =>
      match ← reads fun s => (List.range 256).find? fun n => !s.clasps.any fun g => g.grp = n with
      | none => hold
      | some n =>
        let g : Clasp := { grp := n, inc := c.inc, ctx := c.ctx, ch := c.sendCh, peer }
        fun s => .error (.wait { s with clasps := s.clasps ++ [g] })
  if g.aborted then hold
  match ← ask (.cmd c.id) (peer * 2 ^ 50) (.clasp 0 g.grp 0) 4 c.asid with
  | .data bs =>
    change fun s =>
      (s.modClasp g.grp fun g => { g with slot := some (byteAt bs 0).v.toNat }).stopCmd c.id none
  | .fail .. => fun s => .error (.wait (s.modClasp g.grp fun g => { g with aborted := true }))
def State.clopenWork (s : State) (c : Cmd) (peer : Nat) : State := cmdOut c.id (Machine.clopenWork c peer) s
/-- The peer is known to hold the close of a group: its flit was sent, and an acknowledgment has covered it (R322, R332). DEDUCED, log
entry 33. -/
def State.closeHeld (s : State) (g : Clasp) : Bool :=
  let here := fun f : Flit => f.kind = 1 && isClose g.grp
    { rtype := (f.body.getD 0 0).toNat, aux := (f.body.getD 4 0).toNat
      data := (f.body.getD 16 0).toNat + (f.body.getD 17 0).toNat * 256 }
  !g.recalled && (s.reqs.any fun r => (r.sentAt.isSome || r.query) && (match r.act with | .clasp 1 n _ => n = g.grp | _ => false)) &&
    !((s.sendq.any fun q => q.2.any fun f => f.dst = g.peer && f.src = s.peer && here f) ||
      (s.links.get {} g.peer).una.any fun u => here u.flit)
/-- A CLCLOSE at the head of its channel sends the close, and stops at the committed acknowledgment; the group is free again. When
the peer cannot be reached the writes stand if it holds the close, and the group aborts if not (R323). -/
def clcloseWork (c : Cmd) : M Unit := do
  match ← reads fun s => s.clasp? c.inc c.sendCh with
  | none => raise { cause := 0x42 }
  | some g =>
    let held ← reads fun s => s.closeHeld g
    if (g.aborted && !held) || g.slot.isNone then hold
    match ← ask (.cmd c.id) (g.peer * 2 ^ 50) (.clasp 1 g.grp (g.slot.getD 0)) 4 c.asid with
    | .data _ => change fun s => (s.freeClasp g.grp).stopCmd c.id none
    | .fail cause info =>
      if cause = 0x41 && held then change fun s => (s.freeClasp g.grp).stopCmd c.id (some { cause, info })
      else fun s => .error (.wait (s.modClasp g.grp fun g => { g with aborted := true }))
def State.clcloseWork (s : State) (c : Cmd) : State := cmdOut c.id (Machine.clcloseWork c) s

/-! ## FIFO link registers (R318 to R320) -/

/-- Words pushed through fN of a placement that are in flight. -/
def State.inFlight (s : State) (inc f : Nat) : Nat := (s.reqs.filter fun r => r.owner = .link inc f).length
/-- fN as it stands, or PROT_FAULT. -/
def boundLink (f : Nat) : M FLink := do
  let l ← reads fun s => s.regs.rf f
  raiseIf (!l.valid) (.prot 0)
  pure l
/-- A binding changes once no word of fN is in flight. -/
def rebind (f : Nat) (l : FLink) : M Unit := do
  if ← reads fun s => decide (s.inFlight (s.ctx s.cur).inc f ≠ 0) then hold
  setRegs fun r => r.wf f l
def execFbind (d a : BitVec 6) (st : State) : Host.Outcome State Fault Refusal :=
  slotOut (do
    let x ← xClean a.toNat
    rebind d.toNat { valid := true, peer := x.extractLsb' 0 14, endp := x.extractLsb' 16 8 }) st
def execFunbind (d : BitVec 6) (st : State) : Host.Outcome State Fault Refusal := slotOut (rebind d.toNat {}) st
/-- FPUSH, FPUSH.EOS. -/
def push (eos : Bool) (d a : BitVec 6) (st : State) : Host.Outcome State Fault Refusal :=
  slotOut (do
    let x ← xClean a.toNat
    let l ← boundLink d.toNat
    let p := l.peer.toNat
    raiseIf (← reads fun s => !s.routed p && decide (p ≠ s.peer)) { cause := 0x41, info := BitVec.ofNat 64 p }
    let inc ← reads fun s => (s.ctx s.cur).inc
    if 64 ≤ (← reads fun s => s.inFlight inc d.toNat) then full (0x120 + d.toNat)
    needRoom p 0
    post (.link inc d.toNat) (p * 2 ^ 50) (.fifo l.endp.toNat eos ⟨x.extractLsb' 0 32, false⟩) 4 0) st
def execFpush (d a : BitVec 6) (st : State) : Host.Outcome State Fault Refusal := push false d a st
def execFpushEos (d a : BitVec 6) (st : State) : Host.Outcome State Fault Refusal := push true d a st
/-- The oldest word of the endpoint that fN names; the slot waits while it is empty. -/
def headWord (f : Nat) : M (Nat × Val 32 × Bool) := do
  let l ← boundLink f
  match ← reads fun s => s.fifos.get [] l.endp.toNat with
  | [] => hold
  | w :: _ => pure (l.endp.toNat, w)
/-- The oldest word of an endpoint removed. -/
def State.popWord (s : State) (e : Nat) : State := { s with fifos := s.fifos.put e ((s.fifos.get [] e).drop 1) }
def execFpop (d a : BitVec 6) (st : State) : Host.Outcome State Fault Refusal :=
  slotOut (do
    let (e, w, eos) ← headWord a.toNat
    change fun s => s.popWord e
    setX d.toNat ⟨BitVec.ofNat 64 (eos.toNat * 2 ^ 32 + w.v.toNat), w.psn⟩) st
/-- LOOPS (R137). The issue of its bundle has waited for the word and checked the target (R82); DEDUCED, log entry 22. -/
def execLoops (f : BitVec 6) (p : BitVec 7) (o : BitVec 11) (st : State) : Host.Outcome State Fault Refusal :=
  slotOut (do
    let (e, _, eos) ← headWord f.toNat
    if eos then change fun s => s.popWord e
    else change fun s => s.jump (s.rel o)
    setRegs fun r => r.wp p.toNat eos) st

end Sys2Proof.Machine
end

