-- ==== Sys2Proof/Machine/Fabric.lean ====
section
/-! DEFINITION. The fabric's transport: records, flits, packets and streams (R330 to R337), requests on their way to peers and
their answers (R315, R316). -/
namespace Sys2Proof.Machine

/-! ## Records and flits (R330, R331) -/

/-- The low `n` bytes of a number, little-endian. -/
def leBytes (n v : Nat) : List Byte := (List.range n).map fun i => BitVec.ofNat 8 (v / 256 ^ i)
/-- Bytes as a little-endian number. -/
def natOf : List Byte → Nat
  | [] => 0
  | b :: bs => b.toNat + 256 * natOf bs
/-- `n` bytes from `o` on. -/
def cut (bs : List Byte) (o n : Nat) : Nat := natOf ((bs.drop o).take n)
/-- A record's 32 bytes. -/
def Rec.bytes (r : Rec) : List Byte :=
  leBytes 1 r.rtype ++ leBytes 1 r.attr ++ leBytes 2 r.tag ++ leBytes 4 r.aux ++ leBytes 8 r.addr ++ leBytes 16 r.data
/-- A record read from its 32 bytes. -/
def Rec.ofBytes (bs : List Byte) (psn : Bool) : Rec :=
  { rtype := cut bs 0 1, attr := cut bs 1 1, tag := cut bs 2 2, aux := cut bs 4 4, addr := cut bs 8 8, data := cut bs 16 16, psn }
/-- POISON of a body: bit g for the bytes 32g to 32g + 31. -/
def poisonBits (p : Nat → Bool) : BitVec 8 := BitVec.ofNat 8 ((List.range 8).foldl (fun n g => n + (p g).toNat * 2 ^ g) 0)
/-- The CRC-24 of RFC 4880. -/
def crc24 (bs : List Byte) : BitVec 24 :=
  bs.foldl (fun (c : BitVec 24) (b : Byte) => (List.range 8).foldl (fun (c : BitVec 24) (_ : Nat) =>
    if c.getLsbD 23 then (c <<< 1) ^^^ 0x864CFB else c <<< 1) (c ^^^ BitVec.ofNat 24 (b.toNat * 0x10000))) 0xB704CE
/-- Header bits 127:24, the most significant byte first, and the body; DEDUCED, log entry 24. -/
def crcBytes (f : BitVec 2176) : List Byte :=
  ((List.range 13).map fun i => f.extractLsb' (2168 - 8 * i) 8) ++ (List.range 256).map fun i => f.extractLsb' (8 * i) 8
/-- A flit as it stands on a line: the header above the body, body byte i in bits 8i + 7 to 8i. -/
def Flit.wire (f : Flit) (ack sport cport cclass ccount : Nat) : BitVec 2176 :=
  let body := BitVec.ofNat 2048 (natOf f.body)
  let head : BitVec 104 :=
    BitVec.ofNat 14 f.dst ++ BitVec.ofNat 14 f.src ++ BitVec.ofNat 4 f.kind ++ BitVec.ofNat 19 f.seq ++ BitVec.ofNat 19 ack ++
      BitVec.ofNat 5 sport ++ BitVec.ofNat 5 cport ++ BitVec.ofNat 6 cclass ++ BitVec.ofNat 7 ccount ++ BitVec.ofBool f.plane ++
      BitVec.ofBool f.last ++ BitVec.ofBool f.transit ++ f.poison
  head ++ crc24 (crcBytes (head ++ (0 : BitVec 24) ++ body)) ++ body
/-- A field of a flit's header, by its bits in R330. -/
def hdr (f : BitVec 2176) (hi lo : Nat) : Nat := (f.extractLsb' (2048 + lo) (hi - lo + 1)).toNat
/-- The flit of a line, without what holds for one hop. -/
def Flit.ofWire (f : BitVec 2176) : Flit :=
  { dst := hdr f 127 114, src := hdr f 113 100, kind := hdr f 99 96, seq := hdr f 95 77, plane := hdr f 34 34 = 1
    last := hdr f 33 33 = 1, transit := hdr f 32 32 = 1, poison := BitVec.ofNat 8 (hdr f 31 24)
    body := (List.range 256).map fun i => f.extractLsb' (8 * i) 8 }
/-- CRC holds. -/
def crcGood (f : BitVec 2176) : Bool := crc24 (crcBytes f) = f.extractLsb' 2048 24
/-- A kind that a stream numbers. -/
def Flit.sequenced (f : Flit) : Bool := f.kind = 0 || f.kind = 1 || f.kind = 3

/-! ## Send queues (R334 to R336) -/

/-- Flits put at the end of a send queue. -/
def State.enqueue (s : State) (sq : Nat) (fs : List Flit) : State := { s with sendq := s.sendq.put sq (s.sendq.get [] sq ++ fs) }
/-- The stream to and from a peer. -/
def State.link (s : State) (p : Nat) : Link := s.links.get {} p
def State.setLink (s : State) (p : Nat) (l : Link) : State := { s with links := s.links.put p l }
/-- Flits bound for BSQ or MSQ of an entry, and with DUP their copies on the second plane (R335). -/
def State.enqueueFor (s : State) (e : Word64) (bulk : Bool) (fs : List Flit) : State :=
  if bulk then s.enqueue (routeBsq e) fs
  else
    let s := s.enqueue (routeMsq e) fs
    if routeDup e then s.enqueue (routeMsq2 e) (fs.map fun f => { f with plane := true }) else s
/-- The flits of a packet: its RECORDS or HOLD flit, and the DATA flits of its bytes (R334). -/
def Packet.flits (p : Packet) (src : Nat) : List Flit :=
  let n := (p.data.length + 255) / 256
  let first : Flit :=
    { dst := p.dst, src, kind := p.kind, last := n = 0, poison := poisonBits fun g => (p.recs.getD g { rtype := 0 }).psn
      body := p.recs.flatMap Rec.bytes }
  first :: (List.range n).map fun i =>
    let bs := (p.data.drop (256 * i)).take 256
    { dst := p.dst, src, kind := 0, last := i + 1 = n, poison := poisonBits fun g => anyPsn ((bs.drop (32 * g)).take 32)
      body := bs.map (·.v) }
/-- A packet placed in its send queues: its flits take the next numbers of the stream (R332, R334). -/
def State.queuePacket (s : State) (p : Packet) : State :=
  let l := s.link p.dst
  let fs := (p.flits s.peer).mapIdx fun i (f : Flit) => { f with seq := (l.next + i) % 2 ^ 19 }
  (s.setLink p.dst { l with next := (l.next + fs.length) % 2 ^ 19 }).enqueueFor (s.route p.dst) p.bulk fs
/-- A flit of this device that its stream's buffer already holds. -/
def Link.holds (l : Link) (f : Flit) : Bool := l.una.any fun u => u.flit.seq = f.seq
/-- RESP, DONE and REFUSE: answers that are complete in themselves. -/
def Rec.answers (r : Rec) : Bool := r.rtype = 8 || r.rtype = 9 || r.rtype = 10
/-- A RECORDS flit with answer records only. -/
def Flit.answersOnly (f : Flit) : Bool :=
  f.kind = 1 && !f.body.isEmpty && (List.range (f.body.length / 32)).all fun i => (Rec.ofBytes ((f.body.drop (32 * i)).take 32) false).answers
/-- The flit at the tail of a packet's send queue which takes the packet's one answer record: a RECORDS flit to the same device that
carries only answers, has not started and has a free position (R456). -/
def State.tailFor (s : State) (p : Packet) : Option Flit :=
  let e := s.route p.dst
  let q := if p.bulk then routeBsq e else routeMsq e
  if p.recs.length = 1 ∧ p.recs.all Rec.answers = true ∧ (s.outQ.any fun o => (routeQueues (s.route o.dst) o.bulk).contains q) = false then
    (s.sendq.get [] q).getLast?.filter fun f =>
      f.answersOnly && f.src = s.peer && f.dst = p.dst && !f.plane && f.body.length < 256 && !(s.link p.dst).holds f
  else none
/-- A record added to a flit, and to its copy of the second plane. -/
def State.addRec (s : State) (f : Flit) (r : Rec) : State :=
  let g := { f with body := f.body ++ r.bytes, poison := f.poison ||| (BitVec.ofNat 8 (r.psn.toNat * 2 ^ (f.body.length / 32))) }
  let put := fun x : Flit => if x.src = f.src ∧ x.dst = f.dst ∧ x.seq = f.seq ∧ x.kind = 1 then { g with plane := x.plane } else x
  { s with sendq := s.sendq.map fun e => (e.1, e.2.map put) }
/-- A packet placed, or kept until its send queues have room (R299). An answer joins the flit at the tail where it can (R456). -/
def State.placePacket (s : State) (p : Packet) : State :=
  match s.tailFor p, p.recs with
  | some f, r :: _ => s.addRec f r
  | _, _ =>
  if s.roomFor p.dst p.bulk p.data.length then s.queuePacket p else { s with outQ := s.outQ ++ [p] }
/-- A record for a peer, which may be this device. -/
def State.sendRec (s : State) (dst : Nat) (bulk : Bool) (r : Rec) (data : List (Val 8)) : State :=
  if dst = s.peer then { s with inbox := s.inbox ++ [{ src := dst, rec_ := r, data }] }
  else s.placePacket { dst, bulk, kind := if r.rtype = 0x0C ∧ r.aux % 256 = 3 then 3 else 1, recs := [r], data }
/-- The queue of a flit in transit, by its kind (R337). -/
def Flit.bulk (f : Flit) : Bool := f.kind = 0
/-- What waits for room in a send queue takes it, in order (R299, R333); `release` frees the cell of a flit in transit. -/
def State.unblock (release : State → Nat → State) (s : State) : State :=
  let s := s.outQ.foldl (fun s p => s.placePacket p) { s with outQ := [] }
  s.passing.foldl (init := { s with passing := [] }) fun s e =>
    let r := s.route e.2.dst
    if (routeQueues r e.2.bulk).all (s.queueRoom · 1) then release (s.enqueueFor r e.2.bulk [e.2]) e.1
    else { s with passing := s.passing ++ [e] }

/-! ## Requests (R331, R336, R337) -/

/-- The record and the bytes of a request, whose TAG is in `tag`. -/
def Req.packet (r : Req) : Rec × List (Val 8) :=
  let b : Rec := { rtype := 0, attr := r.scope.toNat, tag := r.tag, addr := r.addr % 2 ^ 50 }
  match r.act with
  | .read n => ({ b with rtype := 1, aux := n }, [])
  | .write bs =>
    if bs.length ≤ 16 then ({ b with rtype := 2, aux := bs.length, data := leNat bs, psn := anyPsn bs }, [])
    else ({ b with rtype := 3, aux := bs.length }, bs)
  | .stage bs g n => ({ b with rtype := 3, aux := bs.length, data := g + n * 2 ^ 16 + 2 ^ 24 }, bs)
  | .atomic op w8 v c ord =>
    ({ b with
        rtype := 5, aux := op + w8.toNat * 16 + ord.toNat * 32 + (decide (r.scope = 6)).toNat * 128
        data := if op = 1 then c.toNat + v.toNat * 2 ^ 64 else v.toNat }, [])
  | .charm i x y ord => ({ b with rtype := 6, aux := i % 64 + ord.toNat * 64, data := x.toNat + y.toNat * 2 ^ 64 }, [])
  | .flush n inv => ({ b with rtype := 13, aux := n + inv.toNat * 2 ^ 16 }, [])
  | .fifo e eos w => ({ b with rtype := 7, aux := e, data := w.v.toNat + eos.toNat * 2 ^ 32, psn := w.psn }, [])
  | .clasp op g n => ({ b with rtype := 11, aux := if r.query then 4 else op, data := g + n * 2 ^ 16 }, [])
/-- A request that leaves for a peer; one through an f register or of a clasp may go to this device itself. -/
def State.outbound (s : State) (r : Req) : Bool :=
  r.owner ≠ .device && (r.addr / 2 ^ 50 ≠ s.peer || (match r.act with | .fifo .. => true | .clasp .. => true | .stage .. => true | _ => false))
/-- A request whose packet goes to BSQ (R336). Copies of the CP are taken as engine transfers; DEDUCED, log entry 24. -/
def State.bulkReq (s : State) (r : Req) : Bool :=
  match r.owner with
  | .cmd n => match (s.cmd? n).map (·.op) with
    | some (CmdOp.send ..) => false
    | some (CmdOp.clopen _) => false
    | some CmdOp.clclose => false
    | _ => true
  | .cp _ => true
  | _ => false
/-- A request has its answer. A request of the device with an odd number is a page request, which counts in PF.TAIL and asks for
its vector once it is written (R423). A store that fails after its slot has completed is reported as of asynchronous origin. -/
def State.answer (s : State) (r : Req) (a : Answer) : State :=
  let gone := { s with reqs := s.reqs.filter fun (q : Req) => q.tag ≠ r.tag }
  let report := fun inc : Nat => match a with
    | .fail cause info => (gone.pendRecord inc { cause, addr := BitVec.ofNat 64 r.addr, info, issue := r.issue }).getD (gone.countFailure r.launch r.task)
    | .data _ => gone
  match r.owner with
  | .posted inc => report inc
  | .link inc _ => report inc
  | .device =>
    if r.ix = sigMark then (match a with | .data _ => gone.setCsr csrSigCmd 0 | .fail .. => gone)
    else if r.ix % 2 = 1 then
      { gone with irqs := gone.irqs ++ [r.ix / 2] }.setCsr csrPfTail (BitVec.ofNat 64 (((s.csr csrPfTail).toNat + 1) % 2 ^ 32))
    else gone
  | _ => { s with reqs := s.reqs.map fun (q : Req) => if q.tag = r.tag then { q with ans := some a } else q }
/-- TAG of a request (R331): its number, and in bit 15 whether its packets go to BSQ, by which the target sends its answer there too
(R336). DESIGN CHOICE, log entry 24. -/
def State.wireTag (s : State) (r : Req) : Nat := r.tag % 2 ^ 15 + (s.bulkReq r).toNat * 2 ^ 15
/-- The agent of a request (R235): a context has one for its slots, its posted stores, its parked ones and its pushes. -/
def State.agentOf (s : State) (o : Owner) : Owner :=
  match o with
  | .slot k _ => .posted (s.ctx k).inc
  | .replay k _ => .posted (s.ctx k).inc
  | .link inc _ => .posted inc
  | o => o
/-- A request waits for an older one of the same agent that has no answer: one that was refused, to the same page (R315), a word
pushed through the same f register (R318), a write of bytes that it accesses (R237). Requests are cut to 64 KiB units (R331), which
stand for the page. DEDUCED, log entry 34. Two requests with one TAG are not out together. -/
def State.behind (s : State) (r : Req) : Bool :=
  s.reqs.any fun q => q.tag < r.tag && q.ans.isNone &&
    ((s.agentOf q.owner = s.agentOf r.owner &&
        ((q.addr / 2 ^ 16 = r.addr / 2 ^ 16 && (q.hold ≠ 0 || q.refused ≠ 0)) ||
          (q.owner = r.owner && (match q.owner with | .link .. => true | _ => false)) ||
          (q.addr < r.addr + r.act.size && r.addr < q.addr + q.act.size && q.act.kind = 1))) ||
      (q.queued && s.wireTag q = s.wireTag r && q.addr / 2 ^ 50 = r.addr / 2 ^ 50))
/-- A request sent. -/
def State.sendReq (s : State) (r : Req) : State :=
  let p := r.addr / 2 ^ 50
  let (rc, bs) := { r with tag := s.wireTag r }.packet
  if p ≠ s.peer ∧ !s.routed p then s.answer r (.fail 0x41 (BitVec.ofNat 64 p))
  else
    let s := { s with reqs := s.reqs.map fun (q : Req) => if q.tag = r.tag then { q with queued := true } else q }
    s.sendRec p (s.bulkReq r) rc bs
/-- Requests that wait to be sent, sent in order, where the send queue has room. -/
def State.pump (s : State) : State :=
  (s.reqs.filter fun r => s.outbound r && !r.queued && r.ans.isNone && r.hold = 0).foldl
    (fun s r => if s.behind r || !s.roomFor (r.addr / 2 ^ 50) (s.bulkReq r) r.packet.2.length then s else s.sendReq r) s

/-! ## Packets received (R331, R334) -/

/-- OFU.BADFLIT. -/
def csrBadFlit : Nat := 0x1000A8
/-- A record that asks this device for something. -/
def Rec.isRequest (r : Rec) : Bool := r.rtype ∉ [4, 8, 9, 10]
/-- A record that opens a packet with data. -/
def Rec.opens (r : Rec) : Bool := r.rtype = 3 || r.rtype = 4 || (r.rtype = 0x0C && r.aux % 256 = 4)
/-- The bytes that a data-carrying record announces. -/
def Rec.count (r : Rec) : Nat := if r.rtype = 0x0C then r.aux / 256 % 2 ^ 11 else r.aux
/-- One record of a received packet. -/
def State.takeRec (s : State) (src : Nat) (r : Rec) (data : List (Val 8)) : State :=
  if r.rtype = 0 then s
  else if 0x0D < r.rtype ∨ (r.rtype = 0x0B ∧ 4 < r.aux) ∨ (r.rtype = 0x0C ∧ 4 < r.aux % 256) ∨ (r.isRequest ∧ src ≠ s.peer ∧ !s.routed src) then s.bump csrBadFlit
  else { s with inbox := s.inbox ++ [{ src, rec_ := r, data := if r.opens then data.take r.count else [] }] }
/-- A packet that is complete: its records are performed in the order of the stream. -/
def State.takePacket (s : State) (src : Nat) (fs : List Flit) : State :=
  match fs with
  | [] => s
  | f :: ds =>
    let data := ds.flatMap fun d => d.body.mapIdx fun i b => (⟨b, d.poison.getLsbD (i / 32)⟩ : Val 8)
    if f.kind = 0 then s
    else (List.range 8).foldl (fun s i => s.takeRec src (Rec.ofBytes ((f.body.drop (32 * i)).take 32) (f.poison.getLsbD i)) data) s

end Sys2Proof.Machine
end

