-- ==== Sys2Proof/Machine/Flags.lean ====
section
/-! DEFINITION. The floating-point flags (R37, R38) and the values of the floating-point formats with their flags: formats
(R26), special values (R27, R34), rounding (R33, R35). -/
namespace Sys2Proof.Machine

/-! ## Flags (R38): bit 4 IV, 3 DZ, 2 OF, 1 UF, 0 NX -/

def fIV : BitVec 5 := 16
def fDZ : BitVec 5 := 8
def fOF : BitVec 5 := 4
def fUF : BitVec 5 := 2
def fNX : BitVec 5 := 1

/-! ## Formats (R26) -/

/-- A format: exponent bits, fraction bits, and whether it has infinities, only NaNs, or neither. -/
inductive Special where
  | ieee | nanOnly | none
deriving DecidableEq, Repr
structure Fmt where
  e : Nat
  f : Nat
  sp : Special := .ieee
deriving DecidableEq, Repr

def Fmt.f64 : Fmt := ⟨11, 52, .ieee⟩
def Fmt.f32 : Fmt := ⟨8, 23, .ieee⟩
def Fmt.f16 : Fmt := ⟨5, 10, .ieee⟩
def Fmt.bf16 : Fmt := ⟨8, 7, .ieee⟩
def Fmt.e5m2 : Fmt := ⟨5, 2, .ieee⟩
def Fmt.e4m3 : Fmt := ⟨4, 3, .nanOnly⟩
def Fmt.e2m1 : Fmt := ⟨2, 1, .none⟩
/-- The width in bits. -/
def Fmt.width (t : Fmt) : Nat := 1 + t.e + t.f
/-- The bias. -/
def Fmt.bias (t : Fmt) : Nat := 2 ^ (t.e - 1) - 1
/-- The exponent of the smallest subnormal. -/
def Fmt.emin (t : Fmt) : Int := 1 - (t.bias : Int) - t.f
/-- The largest finite magnitude, as significand and exponent. -/
def Fmt.maxSig (t : Fmt) : Nat := match t.sp with | .nanOnly => 2 ^ (t.f + 1) - 2 | _ => 2 ^ (t.f + 1) - 1
def Fmt.maxExp (t : Fmt) : Int :=
  (match t.sp with | .ieee => (2 ^ t.e - 2 : Int) | _ => (2 ^ t.e - 1 : Int)) - t.bias - t.f
/-- The canonical NaN; E2M1 has none and delivers +0 (R27, R34). -/
def Fmt.nan (t : Fmt) : Nat :=
  match t.sp with | .ieee => (2 ^ t.e - 1) * 2 ^ t.f + 2 ^ (t.f - 1) | .nanOnly => 2 ^ (t.e + t.f) - 1 | .none => 0
/-- Infinity's magnitude bits. -/
def Fmt.infBits (t : Fmt) : Nat := (2 ^ t.e - 1) * 2 ^ t.f
/-- The sign bit. -/
def Fmt.sign (t : Fmt) (neg : Bool) : Nat := neg.toNat * 2 ^ (t.e + t.f)

/-- The value of an encoding: a NaN, an infinity, or (−1)^neg × m × 2^e exactly. -/
inductive Fl where
  | nan (sig : Bool)
  | inf (neg : Bool)
  | num (neg : Bool) (m : Nat) (e : Int)
deriving DecidableEq, Repr

/-- The value of bits in a format (R26, R27). -/
def Fmt.value (t : Fmt) (b : Nat) : Fl :=
  let frac := b % 2 ^ t.f
  let ex := b / 2 ^ t.f % 2 ^ t.e
  let neg := b / 2 ^ (t.e + t.f) % 2 = 1
  let fin := Fl.num neg (if ex = 0 then frac else 2 ^ t.f + frac) ((max ex 1 : Int) - t.bias - t.f)
  match t.sp with
  | .ieee =>
    if ex = 2 ^ t.e - 1 then (if frac = 0 then .inf neg else .nan (frac / 2 ^ (t.f - 1) = 0)) else fin
  | .nanOnly => if ex = 2 ^ t.e - 1 ∧ frac = 2 ^ t.f - 1 then .nan false else fin
  | .none => fin

def Fl.isNan : Fl → Bool | .nan _ => true | _ => false
def Fl.isSig : Fl → Bool | .nan s => s | _ => false
def Fl.isInf : Fl → Bool | .inf _ => true | _ => false
def Fl.isZero : Fl → Bool | .num _ m _ => m = 0 | _ => false
def Fl.isNeg : Fl → Bool | .nan _ => false | .inf n => n | .num n _ _ => n
/-- The sign changed. -/
def Fl.flip (c : Bool) : Fl → Fl
  | .nan s => .nan s | .inf n => .inf (n != c) | .num n m e => .num (n != c) m e

/-! ## Rounding (R33, R34) -/

/-- The number of bits of a magnitude. -/
def bitLen (m : Nat) : Nat := if m = 0 then 0 else Nat.log2 m + 1

/-- The magnitude m × 2^e, with `sticky` standing for a further part below one unit of m, on the grid of `prec` bits and
least exponent `emin`: significand, exponent, and whether the value changed. `up odd rem sh sticky` says whether the
magnitude between two grid points, `rem / 2^sh` of the way, goes up. -/
def onGrid (prec : Nat) (emin : Int) (up : Bool → Nat → Nat → Bool → Bool) (m : Nat) (e : Int) (sticky : Bool) :
    Nat × Int × Bool :=
  let q := max (e + bitLen m - prec) emin
  if q ≤ e then
    -- the value has no more bits than the grid; a sticky part below the grid's unit counts as a remainder
    let keep := m * 2 ^ (e - q).toNat
    let u := sticky && up (keep % 2 = 1) 0 1 true
    (keep + u.toNat, q, sticky)
  else
    let sh := (q - e).toNat
    let keep := m >>> sh
    let rem := m % 2 ^ sh
    let u := up (keep % 2 = 1) rem sh sticky
    (keep + u.toNat, q, rem ≠ 0 || sticky)

/-- The rounding modes of R33: 0 RNE, 1 RTZ, 2 RDN, 3 RUP. -/
def roundUp (mode : BitVec 2) (neg odd : Bool) (rem sh : Nat) (sticky : Bool) : Bool :=
  match mode.toNat with
  | 0 => 2 * rem > 2 ^ sh || (2 * rem = 2 ^ sh && (sticky || odd))
  | 1 => false
  | 2 => neg && (rem ≠ 0 || sticky)
  | _ => !neg && (rem ≠ 0 || sticky)

/-- The bits of the magnitude m × 2^q, which the format holds exactly. -/
def Fmt.encode (t : Fmt) (m : Nat) (q : Int) : Nat :=
  if m = 0 then 0
  else
    let top := q + Nat.log2 m
    if 1 - (t.bias : Int) ≤ top then
      (top + t.bias).toNat * 2 ^ t.f + (m * 2 ^ t.f / 2 ^ Nat.log2 m - 2 ^ t.f)
    else m * 2 ^ (q - t.emin).toNat

/-- The magnitude exceeds the largest finite value (R33). -/
def Fmt.exceeds (t : Fmt) (m : Nat) (q : Int) : Bool :=
  if q ≥ t.maxExp then t.maxSig < m * 2 ^ (q - t.maxExp).toNat
  else t.maxSig * 2 ^ (t.maxExp - q).toNat < m

/-- The result of an overflow (R33, R34): `toInf` where IEEE 754 gives an infinity. -/
def Fmt.overflow (t : Fmt) (sat neg toInf : Bool) : Nat :=
  let top := t.encode t.maxSig t.maxExp
  match t.sp with
  | .ieee => t.sign neg + (if toInf then t.infBits else top)
  | .nanOnly => if toInf ∧ !sat then t.nan else t.sign neg + top
  | .none => t.sign neg + top

/-- An overflow under a mode gives an infinity. -/
def overflowsToInf (mode : BitVec 2) (neg : Bool) : Bool :=
  match mode.toNat with | 0 => true | 1 => false | 2 => neg | _ => !neg

/-- A value that lies on the grid, delivered: the bits and the flags OF, UF, NX (R37). -/
def Fmt.deliver (t : Fmt) (sat neg toInf : Bool) (g : Nat × Int × Bool) : Nat × BitVec 5 :=
  let (m, q, inexact) := g
  if t.exceeds m q then (t.overflow sat neg toInf, fOF ||| fNX)
  else
    let tiny := decide (m ≠ 0) && decide (q + (Nat.log2 m : Int) < 1 - (t.bias : Int))
    (t.sign neg + t.encode m q, if inexact then (if tiny then fUF ||| fNX else fNX) else 0)

/-- round(x, fmt, mode) of (−1)^neg × (m + sticky part) × 2^e (R33). -/
def Fmt.round (t : Fmt) (mode : BitVec 2) (sat neg : Bool) (m : Nat) (e : Int) (sticky : Bool) : Nat × BitVec 5 :=
  t.deliver sat neg (overflowsToInf mode neg) (onGrid (t.f + 1) t.emin (roundUp mode neg) m e sticky)

/-- A NaN delivered (R27, R34): E2M1 takes +0 with IV. -/
def Fmt.nanOut (t : Fmt) (sig : Bool) : Nat × BitVec 5 := (t.nan, if sig ∨ t.sp = .none then fIV else 0)
/-- An infinity delivered (R34, R37). -/
def Fmt.infOut (t : Fmt) (sat neg : Bool) : Nat × BitVec 5 :=
  match t.sp with
  | .ieee => (t.sign neg + t.infBits, 0)
  | .nanOnly => if sat then (t.overflow true neg true, fIV ||| fNX) else (t.nan, fIV)
  | .none => (t.overflow true neg true, fIV ||| fNX)
/-- An exact value converted to a format. -/
def Fmt.ofFl (t : Fmt) (mode : BitVec 2) (sat : Bool) (x : Fl) : Nat × BitVec 5 :=
  match x with
  | .nan s => t.nanOut s
  | .inf n => t.infOut sat n
  | .num n m e => if m = 0 then (t.sign n, 0) else t.round mode sat n m e false

/-! ## Exact sums and products -/

/-- The exact product; 0 × ∞ is a NaN. -/
def Fl.mul : Fl → Fl → Fl
  | .nan _, _ => .nan false
  | _, .nan _ => .nan false
  | .inf a, y => if y.isZero then .nan false else .inf (a != y.isNeg)
  | x, .inf b => if x.isZero then .nan false else .inf (x.isNeg != b)
  | .num a m e, .num b n f => .num (a != b) (m * n) (e + f)

/-- Terms that are finite, as signed significands at exponent `e0`. -/
def sumAt (e0 : Int) : List Fl → Int
  | [] => 0
  | .num n m e :: ts => (if n then -1 else 1) * (m * 2 ^ (e - e0).toNat : Nat) + sumAt e0 ts
  | _ :: ts => sumAt e0 ts
/-- The least exponent of the terms. -/
def leastExp : List Fl → Int
  | [] => 0
  | [.num _ _ e] => e
  | .num _ m e :: ts => if m = 0 ∧ !ts.isEmpty then leastExp ts else min e (leastExp ts)
  | _ :: ts => leastExp ts
/-- The exact sum of terms rounded once (R33, R44): the canonical NaN when a term is a NaN or both infinities occur; an
infinity; or the rounded sum, an exact zero being +0, or −0 under RDN and when every term is −0. DEDUCED, log entry 29. -/
def Fmt.sum (t : Fmt) (mode : BitVec 2) (ts : List Fl) : Nat × BitVec 5 :=
  if ts.any Fl.isNan then (t.nan, 0)
  else
    let pinf := ts.any fun x => x.isInf && !x.isNeg
    let ninf := ts.any fun x => x.isInf && x.isNeg
    if pinf && ninf then (t.nan, fIV)
    else if pinf || ninf then (t.sign ninf + t.infBits, 0)
    else
      let e0 := leastExp ts
      let v := sumAt e0 ts
      if v = 0 then (t.sign (mode = 2 || ts.all fun x => x.isZero && x.isNeg), 0)
      else t.round mode false (v < 0) v.natAbs e0 false

/-! ## Stochastic rounding (R35) -/

/-- The Seed advanced. -/
def seedStep (s : BitVec 32) : BitVec 32 :=
  let s := s ^^^ (s <<< 13)
  let s := s ^^^ (s >>> 17)
  s ^^^ (s <<< 5)
/-- The conversion with the drawn value `s`. -/
def Fmt.stochastic (t : Fmt) (sat : Bool) (s : BitVec 32) (x : Fl) : Nat × BitVec 5 :=
  match x with
  | .nan g => t.nanOut g
  | .inf n => t.infOut sat n
  | .num n m e =>
    if m = 0 then (t.sign n, 0)
    else
      let up := fun (_ : Bool) (rem sh : Nat) (_ : Bool) => decide (s.toNat * 2 ^ sh < rem * 2 ^ 32)
      let lo := (onGrid (t.f + 1) t.emin (fun _ _ _ _ => false) m e false)
      let g := onGrid (t.f + 1) t.emin up m e false
      t.deliver sat n (g.1 ≠ lo.1) g

end Sys2Proof.Machine
end

