-- ==== Sys2Proof/Machine/ScalarInt.lean ====
section
/-! DEFINITION. Integer arithmetic, logic, shifts, bit fields, comparisons, predicates and selection (R121 to R131), and the
slots that do nothing of their own (R85 to R88). -/
namespace Sys2Proof.Machine

/-! ## Results (R118, R119) -/

/-- An x result of two x operands: poisoned when either is (R119). -/
def int2 (d a b : BitVec 6) (f : Word64 → Word64 → Word64) (st : State) : Host.Outcome State Fault Refusal :=
  regSlot (fun old r =>
    let x := old.rx a.toNat
    let y := old.rx b.toNat
    r.wx d.toNat ⟨f x.v y.v, x.psn || y.psn⟩) st
/-- An x result of one x operand and a value that is never poisoned. -/
def int1 (d a : BitVec 6) (f : Word64 → Word64) (st : State) : Host.Outcome State Fault Refusal :=
  regSlot (fun old r =>
    let x := old.rx a.toNat
    r.wx d.toNat ⟨f x.v, x.psn⟩) st
/-- An x result of xD, xA and xB. -/
def int3 (d a b : BitVec 6) (f : Word64 → Word64 → Word64 → Word64) (st : State) : Host.Outcome State Fault Refusal :=
  regSlot (fun old r =>
    let z := old.rx d.toNat
    let x := old.rx a.toNat
    let y := old.rx b.toNat
    r.wx d.toNat ⟨f z.v x.v y.v, z.psn || x.psn || y.psn⟩) st

/-- The low half, extended by sign or with zeros (R118). -/
def lo32 (x : Word64) : BitVec 32 := x.setWidth 32
def sext32 (x : BitVec 32) : Word64 := x.signExtend 64
def zext32 (x : BitVec 32) : Word64 := x.setWidth 64
/-- An exact integer clamped to a range of `n` bits (R30, R121). -/
def clampS (n : Nat) (e : Int) : BitVec n := BitVec.ofInt n (max (-2 ^ (n - 1)) (min (2 ^ (n - 1) - 1) e))
def clampZ (n : Nat) (e : Int) : BitVec n := BitVec.ofInt n (max 0 (min (2 ^ n - 1) e))
/-- An exact value `e` of the operands as signed or unsigned integers of `n` bits, clamped (R121). -/
def satS (n : Nat) (e : Int → Int → Int) (x y : Word64) : BitVec n :=
  clampS n (e (x.setWidth n).toInt (y.setWidth n).toInt)
def satZ (n : Nat) (e : Int → Int → Int) (x y : Word64) : BitVec n :=
  clampZ n (e (x.setWidth n).toNat (y.setWidth n).toNat)

/-! ## Slots without an effect of their own -/

/-- NOP (R88). -/
def execNop (st : State) : Host.Outcome State Fault Refusal := regSlot (fun _ r => r) st
/-- LIMM (R85): its target takes the immediate; the slot itself does nothing. -/
def execLimm (st : State) : Host.Outcome State Fault Refusal := regSlot (fun _ r => r) st
/-- PGUARD (R86): its guards were judged at issue; the slot itself does nothing. -/
def execPguard (st : State) : Host.Outcome State Fault Refusal := regSlot (fun _ r => r) st
/-- DEPS (R87): its target takes the tokens; the slot itself does nothing. -/
def execDeps (st : State) : Host.Outcome State Fault Refusal := regSlot (fun _ r => r) st

/-! ## ADD, SUB, ADDI (R121, R122) -/

def execAdd (d a b : BitVec 6) (st : State) : Host.Outcome State Fault Refusal := int2 d a b (· + ·) st
def execAddS32 (d a b : BitVec 6) (st : State) : Host.Outcome State Fault Refusal :=
  int2 d a b (fun x y => sext32 (lo32 x + lo32 y)) st
def execAddZ32 (d a b : BitVec 6) (st : State) : Host.Outcome State Fault Refusal :=
  int2 d a b (fun x y => zext32 (lo32 x + lo32 y)) st
def execAddSatS64 (d a b : BitVec 6) (st : State) : Host.Outcome State Fault Refusal :=
  int2 d a b (satS 64 (· + ·)) st
def execAddSatZ64 (d a b : BitVec 6) (st : State) : Host.Outcome State Fault Refusal :=
  int2 d a b (satZ 64 (· + ·)) st
def execAddSatS32 (d a b : BitVec 6) (st : State) : Host.Outcome State Fault Refusal :=
  int2 d a b (fun x y => sext32 (satS 32 (· + ·) x y)) st
def execAddSatZ32 (d a b : BitVec 6) (st : State) : Host.Outcome State Fault Refusal :=
  int2 d a b (fun x y => zext32 (satZ 32 (· + ·) x y)) st
def execSub (d a b : BitVec 6) (st : State) : Host.Outcome State Fault Refusal := int2 d a b (· - ·) st
def execSubS32 (d a b : BitVec 6) (st : State) : Host.Outcome State Fault Refusal :=
  int2 d a b (fun x y => sext32 (lo32 x - lo32 y)) st
def execSubZ32 (d a b : BitVec 6) (st : State) : Host.Outcome State Fault Refusal :=
  int2 d a b (fun x y => zext32 (lo32 x - lo32 y)) st
def execSubSatS64 (d a b : BitVec 6) (st : State) : Host.Outcome State Fault Refusal :=
  int2 d a b (satS 64 (· - ·)) st
def execSubSatZ64 (d a b : BitVec 6) (st : State) : Host.Outcome State Fault Refusal :=
  int2 d a b (satZ 64 (· - ·)) st
def execSubSatS32 (d a b : BitVec 6) (st : State) : Host.Outcome State Fault Refusal :=
  int2 d a b (fun x y => sext32 (satS 32 (· - ·) x y)) st
def execSubSatZ32 (d a b : BitVec 6) (st : State) : Host.Outcome State Fault Refusal :=
  int2 d a b (fun x y => zext32 (satZ 32 (· - ·) x y)) st
def execAddi (d a : BitVec 6) (i : BitVec 12) (st : State) : Host.Outcome State Fault Refusal :=
  int1 d a (· + st.immS i) st

/-! ## MUL (R123), DIV (R29, R124) -/

def execMul (d a b : BitVec 6) (st : State) : Host.Outcome State Fault Refusal := int2 d a b (· * ·) st
def execMulhS64 (d a b : BitVec 6) (st : State) : Host.Outcome State Fault Refusal :=
  int2 d a b (fun x y => ((x.signExtend 128) * (y.signExtend 128)).extractLsb' 64 64) st
def execMulhZ64 (d a b : BitVec 6) (st : State) : Host.Outcome State Fault Refusal :=
  int2 d a b (fun x y => ((x.setWidth 128) * (y.setWidth 128)).extractLsb' 64 64) st
def execMulS32 (d a b : BitVec 6) (st : State) : Host.Outcome State Fault Refusal :=
  int2 d a b (fun x y => sext32 (lo32 x) * sext32 (lo32 y)) st
def execMulZ32 (d a b : BitVec 6) (st : State) : Host.Outcome State Fault Refusal :=
  int2 d a b (fun x y => zext32 (lo32 x) * zext32 (lo32 y)) st
def execMla (d a b : BitVec 6) (st : State) : Host.Outcome State Fault Refusal :=
  int3 d a b (fun z x y => z + x * y) st

/-- Signed quotient of R29: truncated toward zero; by 0 all ones; the most negative by −1 gives itself. -/
def divS {n : Nat} (x y : BitVec n) : BitVec n := if y = 0 then BitVec.allOnes n else x.sdiv y
/-- Unsigned quotient of R29: by 0 all ones. -/
def divZ {n : Nat} (x y : BitVec n) : BitVec n := if y = 0 then BitVec.allOnes n else x / y
/-- Signed remainder of R29: by 0 the dividend. -/
def remS {n : Nat} (x y : BitVec n) : BitVec n := if y = 0 then x else x.srem y
/-- Unsigned remainder of R29: by 0 the dividend. -/
def remZ {n : Nat} (x y : BitVec n) : BitVec n := if y = 0 then x else x % y

def execDivS64 (d a b : BitVec 6) (st : State) : Host.Outcome State Fault Refusal := int2 d a b divS st
def execDivZ64 (d a b : BitVec 6) (st : State) : Host.Outcome State Fault Refusal := int2 d a b divZ st
def execRemS64 (d a b : BitVec 6) (st : State) : Host.Outcome State Fault Refusal := int2 d a b remS st
def execRemZ64 (d a b : BitVec 6) (st : State) : Host.Outcome State Fault Refusal := int2 d a b remZ st
def execDivS32 (d a b : BitVec 6) (st : State) : Host.Outcome State Fault Refusal :=
  int2 d a b (fun x y => sext32 (divS (lo32 x) (lo32 y))) st
def execDivZ32 (d a b : BitVec 6) (st : State) : Host.Outcome State Fault Refusal :=
  int2 d a b (fun x y => zext32 (divZ (lo32 x) (lo32 y))) st
def execRemS32 (d a b : BitVec 6) (st : State) : Host.Outcome State Fault Refusal :=
  int2 d a b (fun x y => sext32 (remS (lo32 x) (lo32 y))) st
def execRemZ32 (d a b : BitVec 6) (st : State) : Host.Outcome State Fault Refusal :=
  int2 d a b (fun x y => zext32 (remZ (lo32 x) (lo32 y))) st

/-! ## LOGIC (R125) -/

def execAnd (d a b : BitVec 6) (st : State) : Host.Outcome State Fault Refusal := int2 d a b (· &&& ·) st
def execOr (d a b : BitVec 6) (st : State) : Host.Outcome State Fault Refusal := int2 d a b (· ||| ·) st
def execXor (d a b : BitVec 6) (st : State) : Host.Outcome State Fault Refusal := int2 d a b (· ^^^ ·) st
def execAndn (d a b : BitVec 6) (st : State) : Host.Outcome State Fault Refusal := int2 d a b (fun x y => x &&& ~~~y) st
def execOrn (d a b : BitVec 6) (st : State) : Host.Outcome State Fault Refusal := int2 d a b (fun x y => x ||| ~~~y) st
def execXnor (d a b : BitVec 6) (st : State) : Host.Outcome State Fault Refusal := int2 d a b (fun x y => ~~~(x ^^^ y)) st
def execNand (d a b : BitVec 6) (st : State) : Host.Outcome State Fault Refusal := int2 d a b (fun x y => ~~~(x &&& y)) st
def execNor (d a b : BitVec 6) (st : State) : Host.Outcome State Fault Refusal := int2 d a b (fun x y => ~~~(x ||| y)) st
def execAndi (d a i : BitVec 6) (st : State) : Host.Outcome State Fault Refusal := int1 d a (· &&& st.immS i) st
def execOri (d a i : BitVec 6) (st : State) : Host.Outcome State Fault Refusal := int1 d a (· ||| st.immS i) st
def execXori (d a i : BitVec 6) (st : State) : Host.Outcome State Fault Refusal := int1 d a (· ^^^ st.immS i) st
def execAndni (d a i : BitVec 6) (st : State) : Host.Outcome State Fault Refusal :=
  int1 d a (fun x => x &&& ~~~st.immS i) st
def execOrni (d a i : BitVec 6) (st : State) : Host.Outcome State Fault Refusal :=
  int1 d a (fun x => x ||| ~~~st.immS i) st
def execXnori (d a i : BitVec 6) (st : State) : Host.Outcome State Fault Refusal :=
  int1 d a (fun x => ~~~(x ^^^ st.immS i)) st
def execNandi (d a i : BitVec 6) (st : State) : Host.Outcome State Fault Refusal :=
  int1 d a (fun x => ~~~(x &&& st.immS i)) st
def execNori (d a i : BitVec 6) (st : State) : Host.Outcome State Fault Refusal :=
  int1 d a (fun x => ~~~(x ||| st.immS i)) st

/-! ## SHIFT (R126) -/

/-- A shift on 64 bits, or on the low 32 bits with the sign extended; the amount is reduced modulo the width. -/
def shift (w : Bool) (f : {n : Nat} → BitVec n → Nat → BitVec n) (x : Word64) (n : Nat) : Word64 :=
  if w then sext32 (f (lo32 x) (n % 32)) else f x (n % 64)

def execShl (d a b : BitVec 6) (w : Bool) (st : State) : Host.Outcome State Fault Refusal :=
  int2 d a b (fun x y => shift w (fun v n => v <<< n) x y.toNat) st
def execShr (d a b : BitVec 6) (w : Bool) (st : State) : Host.Outcome State Fault Refusal :=
  int2 d a b (fun x y => shift w (fun v n => v >>> n) x y.toNat) st
def execSar (d a b : BitVec 6) (w : Bool) (st : State) : Host.Outcome State Fault Refusal :=
  int2 d a b (fun x y => shift w BitVec.sshiftRight x y.toNat) st
def execRol (d a b : BitVec 6) (w : Bool) (st : State) : Host.Outcome State Fault Refusal :=
  int2 d a b (fun x y => shift w BitVec.rotateLeft x y.toNat) st
def execRor (d a b : BitVec 6) (w : Bool) (st : State) : Host.Outcome State Fault Refusal :=
  int2 d a b (fun x y => shift w BitVec.rotateRight x y.toNat) st
def execShli (d a n : BitVec 6) (w : Bool) (st : State) : Host.Outcome State Fault Refusal :=
  int1 d a (fun x => shift w (fun v n => v <<< n) x n.toNat) st
def execShri (d a n : BitVec 6) (w : Bool) (st : State) : Host.Outcome State Fault Refusal :=
  int1 d a (fun x => shift w (fun v n => v >>> n) x n.toNat) st
def execSari (d a n : BitVec 6) (w : Bool) (st : State) : Host.Outcome State Fault Refusal :=
  int1 d a (fun x => shift w BitVec.sshiftRight x n.toNat) st
def execRoli (d a n : BitVec 6) (w : Bool) (st : State) : Host.Outcome State Fault Refusal :=
  int1 d a (fun x => shift w BitVec.rotateLeft x n.toNat) st
def execRori (d a n : BitVec 6) (w : Bool) (st : State) : Host.Outcome State Fault Refusal :=
  int1 d a (fun x => shift w BitVec.rotateRight x n.toNat) st

/-! ## BITS, MINMAX (R127) -/

/-- The place of the lowest 1 bit, or `n` when there is none. -/
def ctz {n : Nat} (x : BitVec n) : Nat := ((List.range n).find? fun i => x.getLsbD i).getD n
/-- The number of 0 bits above the highest 1 bit. -/
def clz {n : Nat} (x : BitVec n) : Nat := ((List.range n).find? fun i => x.getMsbD i).getD n
/-- The number of 1 bits. -/
def popc {n : Nat} (x : BitVec n) : Nat := ((List.range n).filter fun i => x.getLsbD i).length
/-- Byte 7 exchanged with byte 0, and so on. -/
def bswap (x : Word64) : Word64 :=
  x.extractLsb' 0 8 ++ x.extractLsb' 8 8 ++ x.extractLsb' 16 8 ++ x.extractLsb' 24 8 ++ x.extractLsb' 32 8 ++
    x.extractLsb' 40 8 ++ x.extractLsb' 48 8 ++ x.extractLsb' 56 8

def execClz (d a : BitVec 6) (st : State) : Host.Outcome State Fault Refusal := int1 d a (fun x => BitVec.ofNat 64 (clz x)) st
def execCtz (d a : BitVec 6) (st : State) : Host.Outcome State Fault Refusal := int1 d a (fun x => BitVec.ofNat 64 (ctz x)) st
def execPopc (d a : BitVec 6) (st : State) : Host.Outcome State Fault Refusal := int1 d a (fun x => BitVec.ofNat 64 (popc x)) st
def execBrev (d a : BitVec 6) (st : State) : Host.Outcome State Fault Refusal := int1 d a BitVec.reverse st
def execBswap (d a : BitVec 6) (st : State) : Host.Outcome State Fault Refusal := int1 d a bswap st
def execMinS64 (d a b : BitVec 6) (st : State) : Host.Outcome State Fault Refusal :=
  int2 d a b (fun x y => if y.slt x then y else x) st
def execMaxS64 (d a b : BitVec 6) (st : State) : Host.Outcome State Fault Refusal :=
  int2 d a b (fun x y => if x.slt y then y else x) st
def execMinZ64 (d a b : BitVec 6) (st : State) : Host.Outcome State Fault Refusal :=
  int2 d a b (fun x y => if y < x then y else x) st
def execMaxZ64 (d a b : BitVec 6) (st : State) : Host.Outcome State Fault Refusal :=
  int2 d a b (fun x y => if x < y then y else x) st

/-! ## BFX, BFI, EXT (R128) -/

/-- `n` ones in the low bits. -/
def ones (n : Nat) : Word64 := BitVec.ofNat 64 (2 ^ n - 1)
def execBfx (d a p l : BitVec 6) (st : State) : Host.Outcome State Fault Refusal :=
  int1 d a (fun x => (x >>> p.toNat) &&& ones (l.toNat + 1)) st
def execBfi (d a p l : BitVec 6) (st : State) : Host.Outcome State Fault Refusal :=
  let m := ones (l.toNat + 1) <<< p.toNat
  regSlot (fun old r =>
    let z := old.rx d.toNat
    let x := old.rx a.toNat
    r.wx d.toNat ⟨(z.v &&& ~~~m) ||| ((x.v <<< p.toNat) &&& m), z.psn || x.psn⟩) st
def execExtZ (d a w : BitVec 6) (st : State) : Host.Outcome State Fault Refusal :=
  int1 d a (fun x => x &&& ones (w.toNat + 1)) st
def execExtS (d a w : BitVec 6) (st : State) : Host.Outcome State Fault Refusal :=
  int1 d a (fun x => (x <<< (63 - w.toNat)).sshiftRight (63 - w.toNat)) st

/-! ## CMP, CMPI (R129) -/

/-- The condition of a code. -/
def condition (c : BitVec 3) (x b : Word64) : Bool :=
  match c.toNat with
  | 0 => x = b
  | 1 => x ≠ b
  | 2 => x.slt b
  | 3 => !x.slt b
  | 4 => x < b
  | 5 => !(x < b)
  | 6 => x &&& b ≠ 0
  | _ => x &&& b = 0

def execCmp (p : BitVec 7) (a b : BitVec 6) (c : BitVec 3) (st : State) : Host.Outcome State Fault Refusal :=
  trySlot (fun old r =>
    let x := old.rx a.toNat
    let y := old.rx b.toNat
    if x.psn then .error (.poison (regTag 0 a.toNat))
    else if y.psn then .error (.poison (regTag 0 b.toNat))
    else .ok (r.wp p.toNat (condition c x.v y.v))) st
/-- CMPI extends its immediate by sign, but for the unsigned conditions 4 and 5. -/
def execCmpi (p : BitVec 7) (a i : BitVec 6) (c : BitVec 3) (st : State) : Host.Outcome State Fault Refusal :=
  let b := if c = 4 ∨ c = 5 then st.immZ i else st.immS i
  trySlot (fun old r =>
    let x := old.rx a.toNat
    if x.psn then .error (.poison (regTag 0 a.toNat)) else .ok (r.wp p.toNat (condition c x.v b))) st

/-! ## PLOGIC (R130) -/

/-- A predicate of two predicates. -/
def pred2 (d a b : BitVec 7) (f : Bool → Bool → Bool) (st : State) : Host.Outcome State Fault Refusal :=
  trySlot (fun old r =>
    let x := old.rp a.toNat
    let y := old.rp b.toNat
    if x.psn then .error (.poison (regTag 1 a.toNat))
    else if y.psn then .error (.poison (regTag 1 b.toNat))
    else .ok (r.wp d.toNat (f (x.v = 1) (y.v = 1)))) st

def execPand (d a b : BitVec 7) (st : State) : Host.Outcome State Fault Refusal := pred2 d a b (· && ·) st
def execPor (d a b : BitVec 7) (st : State) : Host.Outcome State Fault Refusal := pred2 d a b (· || ·) st
def execPxor (d a b : BitVec 7) (st : State) : Host.Outcome State Fault Refusal := pred2 d a b (· != ·) st
def execPandn (d a b : BitVec 7) (st : State) : Host.Outcome State Fault Refusal := pred2 d a b (fun x y => x && !y) st
def execPorn (d a b : BitVec 7) (st : State) : Host.Outcome State Fault Refusal := pred2 d a b (fun x y => x || !y) st
def execPmov (d a : BitVec 7) (st : State) : Host.Outcome State Fault Refusal := pred2 d a a (fun x _ => x) st
def execPnot (d a : BitVec 7) (st : State) : Host.Outcome State Fault Refusal := pred2 d a a (fun x _ => !x) st
def execPxnor (d a b : BitVec 7) (st : State) : Host.Outcome State Fault Refusal := pred2 d a b (· == ·) st

/-! ## SEL (R131) -/

/-- The value that `f` chooses from pN, xA and xD, with its own poison. -/
def select (d a : BitVec 6) (p : BitVec 7) (f : Bool → Val 64 → Val 64 → Val 64) (st : State) :
    Host.Outcome State Fault Refusal :=
  trySlot (fun old r =>
    let q := old.rp p.toNat
    if q.psn then .error (.poison (regTag 1 p.toNat))
    else .ok (r.wx d.toNat (f (q.v = 1) (old.rx a.toNat) (old.rx d.toNat)))) st

def execSel (d a : BitVec 6) (p : BitVec 7) (st : State) : Host.Outcome State Fault Refusal :=
  select d a p (fun q x z => if q then x else z) st
def execSelz (d a : BitVec 6) (p : BitVec 7) (st : State) : Host.Outcome State Fault Refusal :=
  select d a p (fun q x _ => if q then x else ⟨0, false⟩) st
def execSeln (d a : BitVec 6) (p : BitVec 7) (st : State) : Host.Outcome State Fault Refusal :=
  select d a p (fun q x z => if q then z else x) st

end Sys2Proof.Machine
end

