-- ==== Sys2Proof/Machine/ScalarFp.lean ====
section
/-! DEFINITION. Floating-point operations on bits of a format, with their flags (R33, R37, R132 to R134), and the scalar
floating-point slots. -/
namespace Sys2Proof.Machine

/-! ## Operations on the bits of a format -/

/-- IV for a signalling operand (R37). -/
def sigFlag (xs : List Fl) : BitVec 5 := if xs.any Fl.isSig then fIV else 0
/-- x + y, or x − y. -/
def fpAdd (t : Fmt) (mode : BitVec 2) (sub : Bool) (x y : Nat) : Nat × BitVec 5 :=
  let a := t.value x
  let b := (t.value y).flip sub
  let r := t.sum mode [a, b]
  (r.1, r.2 ||| sigFlag [a, b])
/-- x × y. -/
def fpMul (t : Fmt) (mode : BitVec 2) (x y : Nat) : Nat × BitVec 5 :=
  let a := t.value x
  let b := t.value y
  if a.isNan || b.isNan then (t.nan, sigFlag [a, b])
  else match a.mul b with
    | .nan _ => (t.nan, fIV)
    | p => t.ofFl mode false p
/-- (−1)^np × x × y + (−1)^nc × z, rounded once. -/
def fpFma (t : Fmt) (mode : BitVec 2) (np nc : Bool) (x y z : Nat) : Nat × BitVec 5 :=
  let a := t.value x
  let b := t.value y
  let c := (t.value z).flip nc
  let p := (a.mul b).flip np
  let inv : BitVec 5 := if p.isNan && !a.isNan && !b.isNan then fIV else 0
  let r := t.sum mode [p, c]
  (r.1, r.2 ||| sigFlag [a, b, c] ||| inv)
/-- x / y. -/
def fpDiv (t : Fmt) (mode : BitVec 2) (x y : Nat) : Nat × BitVec 5 :=
  let a := t.value x
  let b := t.value y
  let neg := a.isNeg != b.isNeg
  match a, b with
  | .nan _, _ => (t.nan, sigFlag [a, b])
  | _, .nan _ => (t.nan, sigFlag [a, b])
  | .inf _, .inf _ => (t.nan, fIV)
  | .inf _, .num .. => (t.sign neg + t.infBits, 0)
  | .num .., .inf _ => (t.sign neg, 0)
  | .num _ m e, .num _ n f =>
    if n = 0 then (if m = 0 then (t.nan, fIV) else (t.sign neg + t.infBits, fDZ))
    else if m = 0 then (t.sign neg, 0)
    else
      let k := t.f + 4 + bitLen n
      t.round mode false neg (m * 2 ^ k / n) (e - f - k) (m * 2 ^ k % n ≠ 0)
/-- √x. -/
def fpSqrt (t : Fmt) (mode : BitVec 2) (x : Nat) : Nat × BitVec 5 :=
  match t.value x with
  | .nan s => (t.nan, if s then fIV else 0)
  | .inf n => if n then (t.nan, fIV) else (t.infBits, 0)
  | .num neg m e =>
    if m = 0 then (t.sign neg, 0)
    else if neg then (t.nan, fIV)
    else
      let k0 := 2 * (t.f + 4)
      let k := if (e - k0) % 2 = 0 then k0 else k0 + 1
      let n := m * 2 ^ k
      let r := rootOf n
      t.round mode false false r ((e - k) / 2) (r * r ≠ n)
where
  /-- The integer square root, by its bits from the highest down. -/
  rootOf (n : Nat) : Nat :=
    ((List.range 90).reverse).foldl (fun r i => if (r + 2 ^ i) * (r + 2 ^ i) ≤ n then r + 2 ^ i else r) 0

/-- The order of two values, none with a NaN; +0 and −0 are equal. -/
def Fl.cmp : Fl → Fl → Option Ordering
  | .nan _, _ => none
  | _, .nan _ => none
  | .inf a, .inf b => some (compare b.toNat a.toNat)
  | .inf a, _ => some (if a then .lt else .gt)
  | _, .inf b => some (if b then .gt else .lt)
  | .num a m e, .num b n f =>
    let e0 := min e f
    let x : Int := (if a then -1 else 1) * (m * 2 ^ (e - e0).toNat : Nat)
    let y : Int := (if b then -1 else 1) * (n * 2 ^ (f - e0).toNat : Nat)
    some (compare x y)
/-- FMIN and FMAX (R132): the operand itself; −0 below +0; a NaN gives way to a number. -/
def fpMinMax (t : Fmt) (mx : Bool) (x y : Nat) : Nat × BitVec 5 :=
  let a := t.value x
  let b := t.value y
  let fl := sigFlag [a, b]
  if a.isNan && b.isNan then (t.nan, fl)
  else if a.isNan then (y, fl)
  else if b.isNan then (x, fl)
  else
    let less := match a.cmp b with | some .lt => true | some .eq => a.isNeg && !b.isNeg | _ => false
    (if less != mx then x else y, fl)
/-- The class bits of R132. -/
def fpClass (t : Fmt) (x : Nat) : Nat :=
  match t.value x with
  | .nan s => if s then 0x100 else 0x200
  | .inf n => if n then 1 else 0x80
  | .num n m _ =>
    let sub := decide (m < 2 ^ t.f)
    if m = 0 then (if n then 8 else 0x10)
    else if sub then (if n then 4 else 0x20)
    else (if n then 2 else 0x40)
/-- The condition of FCMP and of VCMP's float forms, with IV (R133): 0 eq, 1 lt, 2 le, 3 un, 4 ne. -/
def fpCond (t : Fmt) (c x y : Nat) : Bool × BitVec 5 :=
  let a := t.value x
  let b := t.value y
  let o := a.cmp b
  let r := match c with
    | 0 => o == some .eq
    | 1 => o == some .lt
    | 2 => o == some .lt || o == some .eq
    | 3 => o == none
    | _ => o != some .eq
  (r, if (c = 1 ∨ c = 2) ∧ o = none then fIV else sigFlag [a, b])

/-! ## Conversions (R30, R40, R134) -/

/-- (−1)^neg × m × 2^e rounded to an integer, and whether it changed. -/
def roundInt (mode : BitVec 2) (neg : Bool) (m : Nat) (e : Int) : Int × Bool :=
  if 0 ≤ e then ((if neg then -1 else 1) * (m * 2 ^ e.toNat : Nat), false)
  else
    let sh := (-e).toNat
    let keep := m >>> sh
    let rem := m % 2 ^ sh
    let u := roundUp mode neg (keep % 2 = 1) rem sh false
    ((if neg then -1 else 1) * (keep + u.toNat : Nat), rem ≠ 0)
/-- A value converted to the integers of [lo, hi] (R40). -/
def Fl.toRange (x : Fl) (mode : BitVec 2) (lo hi : Int) : Int × BitVec 5 :=
  match x with
  | .nan _ => (0, fIV)
  | .inf n => (if n then lo else hi, fIV ||| fNX)
  | .num n m e =>
    let (v, ch) := roundInt mode n m e
    if v < lo then (lo, fIV ||| fNX) else if hi < v then (hi, fIV ||| fNX) else (v, if ch then fNX else 0)
/-- A value times 2^32: the scale of Q32.32 (R30). -/
def Fl.scale (k : Int) : Fl → Fl | .num n m e => .num n m (e + k) | x => x
/-- An integer as an exact value. -/
def Fl.ofInt (v : Int) (e : Int) : Fl := .num (v < 0) v.natAbs e
/-- A float rounded to an integral value of its own format (R134). -/
def fpRint (t : Fmt) (mode : BitVec 2) (x : Nat) : Nat × BitVec 5 :=
  match t.value x with
  | .nan s => (t.nan, if s then fIV else 0)
  | .inf _ => (x, 0)
  | .num n m e =>
    if m = 0 then (x, 0)
    else
      let (v, ch) := roundInt mode n m e
      (if v = 0 then t.sign n else (t.ofFl mode false (Fl.ofInt v 0)).1, if ch then fNX else 0)

/-- The range of an integer type: bits and signedness. -/
def rangeLo (n : Nat) (signed : Bool) : Int := if signed then -2 ^ (n - 1) else 0
def rangeHi (n : Nat) (signed : Bool) : Int := if signed then 2 ^ (n - 1) - 1 else 2 ^ n - 1

/-- A numeric type of FCVT and VCVT: a float format, an integer, or Q32.32. -/
inductive NumType where
  | fl (t : Fmt) | int (n : Nat) (signed : Bool) | q32
deriving DecidableEq, Repr
/-- The width of a type. -/
def NumType.width : NumType → Nat | .fl t => t.width | .int n _ => n | .q32 => 64
/-- The signed or unsigned value of bits. -/
def intOf (n : Nat) (signed : Bool) (x : Nat) : Int := if signed then (BitVec.ofNat n x).toInt else (x % 2 ^ n : Nat)
/-- The bits of an integer in `n` bits. -/
def bitsOf (n : Nat) (v : Int) : Nat := (BitVec.ofInt n v).toNat
/-- The conversion table of R134, with the modes and saturation of VCVT. -/
def convert (src dst : NumType) (mode : BitVec 2) (sat : Bool) (x : Nat) : Nat × BitVec 5 :=
  match src, dst with
  | .fl s, .fl t =>
    if s = t then fpRint t mode x
    else
      let r := t.ofFl mode sat (s.value x)
      (r.1, r.2 ||| sigFlag [s.value x])
  | .fl s, .int n g =>
    let r := (s.value x).toRange mode (rangeLo n g) (rangeHi n g)
    (bitsOf n r.1, r.2)
  | .int n g, .fl t => t.ofFl mode sat (Fl.ofInt (intOf n g x) 0)
  | .int n g, .int m h =>
    (bitsOf m (max (rangeLo m h) (min (rangeHi m h) (intOf n g x))), 0)
  | .fl s, .q32 =>
    let r := ((s.value x).scale 32).toRange mode (rangeLo 64 true) (rangeHi 64 true)
    (bitsOf 64 r.1, r.2)
  | .q32, .fl t => t.ofFl mode sat (Fl.ofInt (intOf 64 true x) (-32))
  | .q32, .int n g =>
    let r := (Fl.ofInt (intOf 64 true x) (-32)).toRange mode (rangeLo n g) (rangeHi n g)
    (bitsOf n r.1, r.2)
  | .int n g, .q32 =>
    let r := (Fl.ofInt (intOf n g x) 32).toRange mode (rangeLo 64 true) (rangeHi 64 true)
    (bitsOf 64 r.1, r.2)
  | .q32, .q32 => (x, 0)

/-! ## The scalar slots -/

/-- fmt of R132. -/
def scalarFmt (t : BitVec 2) : Fmt := match t.toNat with | 0 => .f64 | 1 => .f32 | 2 => .f16 | _ => .bf16
/-- The low bits that hold an operand of a width (R118). -/
def Val.low (v : Val 64) (w : Nat) : Nat := v.v.toNat % 2 ^ w
/-- The state with flags set by a slot: in FCSR, and in the record that a CSRW of FCSR in the bundle keeps (R39, R90). -/
def State.setFlags (s : State) (f : BitVec 5) : State :=
  s.modCtx s.cur fun c => { c with regs := c.regs.flag f, issue := { c.issue with flags := c.issue.flags ||| f } }
/-- A floating-point slot: an x result with flags; poisoned, and without flags, when an operand is poisoned (R119). -/
def fpSlot (d : BitVec 6) (srcs : List (BitVec 6)) (f : Regs → Nat × BitVec 5) (st : State) :
    Host.Outcome State Fault Refusal :=
  let old := st.old
  if srcs.any fun a => (old.rx a.toNat).psn then regSlot (fun _ r => r.wx d.toNat ⟨0, true⟩) st
  else
    let r := f old
    .next ((st.modRegs fun c => c.wx d.toNat ⟨BitVec.ofNat 64 r.1, false⟩).setFlags r.2).retire
/-- Operand bits of a format. -/
def Regs.fx (r : Regs) (t : Fmt) (a : BitVec 6) : Nat := Val.low (r.rx a.toNat) t.width

def execFadd (d a b : BitVec 6) (t r : BitVec 2) (st : State) : Host.Outcome State Fault Refusal :=
  let f := scalarFmt t
  fpSlot d [a, b] (fun o => fpAdd f r false (o.fx f a) (o.fx f b)) st
def execFsub (d a b : BitVec 6) (t r : BitVec 2) (st : State) : Host.Outcome State Fault Refusal :=
  let f := scalarFmt t
  fpSlot d [a, b] (fun o => fpAdd f r true (o.fx f a) (o.fx f b)) st
def execFmul (d a b : BitVec 6) (t r : BitVec 2) (st : State) : Host.Outcome State Fault Refusal :=
  let f := scalarFmt t
  fpSlot d [a, b] (fun o => fpMul f r (o.fx f a) (o.fx f b)) st
def execFmin (d a b : BitVec 6) (t : BitVec 2) (st : State) : Host.Outcome State Fault Refusal :=
  let f := scalarFmt t
  fpSlot d [a, b] (fun o => fpMinMax f false (o.fx f a) (o.fx f b)) st
def execFmax (d a b : BitVec 6) (t : BitVec 2) (st : State) : Host.Outcome State Fault Refusal :=
  let f := scalarFmt t
  fpSlot d [a, b] (fun o => fpMinMax f true (o.fx f a) (o.fx f b)) st
/-- The four fused forms: signs of the product and of xD. -/
def fmaSlot (np nc : Bool) (d a b : BitVec 6) (t r : BitVec 2) (st : State) : Host.Outcome State Fault Refusal :=
  let f := scalarFmt t
  fpSlot d [d, a, b] (fun o => fpFma f r np nc (o.fx f a) (o.fx f b) (o.fx f d)) st
def execFfma (d a b : BitVec 6) (t r : BitVec 2) (st : State) : Host.Outcome State Fault Refusal :=
  fmaSlot false false d a b t r st
def execFfms (d a b : BitVec 6) (t r : BitVec 2) (st : State) : Host.Outcome State Fault Refusal :=
  fmaSlot false true d a b t r st
def execFfnma (d a b : BitVec 6) (t r : BitVec 2) (st : State) : Host.Outcome State Fault Refusal :=
  fmaSlot true false d a b t r st
def execFfnms (d a b : BitVec 6) (t r : BitVec 2) (st : State) : Host.Outcome State Fault Refusal :=
  fmaSlot true true d a b t r st
def execFdiv (d a b : BitVec 6) (t r : BitVec 2) (st : State) : Host.Outcome State Fault Refusal :=
  let f := scalarFmt t
  fpSlot d [a, b] (fun o => fpDiv f r (o.fx f a) (o.fx f b)) st
def execFsqrt (d a : BitVec 6) (t r : BitVec 2) (st : State) : Host.Outcome State Fault Refusal :=
  let f := scalarFmt t
  fpSlot d [a] (fun o => fpSqrt f r (o.fx f a)) st
def execFclass (d a : BitVec 6) (t : BitVec 2) (st : State) : Host.Outcome State Fault Refusal :=
  let f := scalarFmt t
  fpSlot d [a] (fun o => (fpClass f (o.fx f a), 0)) st

/-- FCMP (R133): a poisoned operand raises POISON_CONSUMED (R119). -/
def execFcmp (p : BitVec 7) (a b : BitVec 6) (t : BitVec 2) (c : BitVec 3) (st : State) :
    Host.Outcome State Fault Refusal :=
  let f := scalarFmt t
  let old := st.old
  if (old.rx a.toNat).psn then .next (st.raise (.poison (regTag 0 a.toNat)))
  else if (old.rx b.toNat).psn then .next (st.raise (.poison (regTag 0 b.toNat)))
  else
    let r := fpCond f c.toNat (old.fx f a) (old.fx f b)
    .next ((st.modRegs fun q => q.wp p.toNat r.1).setFlags r.2).retire

/-- The types of FCVT (R134); code 5 with its Q bit is q32. -/
def fcvtType (c : BitVec 3) (q : Bool) : NumType :=
  match c.toNat with
  | 0 => .fl .f64 | 1 => .fl .f32 | 2 => .fl .f16 | 3 => .fl .bf16
  | 4 => .int 32 true | 5 => if q then .q32 else .int 64 true | 6 => .int 32 false | _ => .int 64 false
/-- A result in an x register: s32 extends by sign, all others with zeros (R118). -/
def NumType.extend (t : NumType) (x : Nat) : Nat := if t = .int 32 true then (sext32 (BitVec.ofNat 32 x)).toNat else x
/-- FCVT (R134): `e` destination, `g` source, `z` QD, `q` QS. -/
def execFcvt (d a : BitVec 6) (e g : BitVec 3) (q z : Bool) (r : BitVec 2) (st : State) :
    Host.Outcome State Fault Refusal :=
  let src := fcvtType g q
  let dst := fcvtType e z
  fpSlot d [a] (fun o =>
    let v := convert src dst r false (Val.low (o.rx a.toNat) src.width)
    (dst.extend v.1, v.2)) st

end Sys2Proof.Machine
end

