-- ==== Sys2Proof/Machine/Tree.lean ====
section
/-! DEFINITION. Node pools and the search-tree engine (R280 to R296): the TREE instructions, and the indivisible operations
of which a command consists. One unit of work is one such operation. -/
namespace Sys2Proof.Machine

/-! ## Accesses of an STE -/

/-- The pool that a command names: its base, the physical address of its descriptor, and its home column (R280). -/
def Cmd.cap (c : Cmd) : Cap := c.caps.headD {}
def Cmd.poolBase (c : Cmd) : Nat := c.cap.base
def Cmd.poolPa (c : Cmd) : Nat := c.path.headD 0
/-- The column of an SBM or HBM byte (R15, R216). -/
def homeColumn (a : Nat) : Nat := if region a = .sbm then a / 0x1000000 % 16 else homeSlice a / 4
/-- The column whose STE runs a command. -/
def Cmd.steCol (c : Cmd) : Nat := match c.unit with | .ste n => n | _ => 0
/-- A cause with the pool's address. -/
def poolTrap (c : Cmd) (cause : BitVec 8) : Trap := { cause, addr := BitVec.ofNat 64 c.poolBase }
/-- The pieces of `[va, va + n)` of a pool: inside cA, and in the kind of memory that holds the descriptor (R294). -/
def steSpread (c : Cmd) (va n : Nat) (need : Need) : M (List Piece) := do
  match c.cap.check va n permR with
  | some (cause, a) => raise { cause, addr := BitVec.ofNat 64 a, info := regTag 3 c.reg }
  | none => pure ()
  let ps ← engSpread (.cmd c.id) (tlbSte c.steCol) c.asid va n need true
  let wrong ← reads fun s => ps.any fun p => p.pa / 2 ^ 50 ≠ s.peer || region (p.pa % 2 ^ 50) ≠ region (c.poolPa % 2 ^ 50)
  raiseIf wrong (poolTrap c 0x22)
  pure ps
/-- Bytes of a pool read. -/
def steLoad (c : Cmd) (va n : Nat) (need : Need := .read) : M (List (Val 8)) := do
  engLoad c false (← steSpread c va n need)
/-- Bytes of a pool written. -/
def steStore (c : Cmd) (va : Nat) (bs : List (Val 8)) : M Unit := do
  engStore c false (← steSpread c va bs.length .write) bs
/-- A clean number written in `n` bytes. -/
def stePut (c : Cmd) (va n v : Nat) : M Unit := steStore c va (toBytes n v false)
/-- A field of bytes read, and its poison. -/
def fieldOf (bs : List (Val 8)) (o n : Nat) : Nat := leNat ((bs.drop o).take n)
def fieldPsn (bs : List (Val 8)) (o n : Nat) : Bool := anyPsn ((bs.drop o).take n)

/-! ## Descriptor, records, nodes (R281, R282, R284) -/

def noNode : Nat := 0xFFFFFFFF
/-- The descriptor as one serialised step reads it; poison is control data (R294). -/
def readDesc (c : Cmd) (need : Need := .read) : M (List (Val 8)) := do
  let d ← steLoad c c.poolBase 128 need
  raiseIf (fieldPsn d 0 0x44 || fieldPsn d 0x48 8) (.poison 0)
  pure d
/-- The descriptor of an initialised pool. -/
def poolDesc (c : Cmd) (need : Need := .read) : M (List (Val 8)) := do
  let d ← readDesc c need
  raiseIf (!(fieldOf d 0 1).testBit 7) (poolTrap c 0x22)
  pure d
/-- A field of the descriptor written. -/
def putDesc (c : Cmd) (o n v : Nat) : M Unit := stePut c (c.poolBase + o) n v
/-- Offsets of descriptor fields. -/
def dRoot : Nat := 0x20
def dFree : Nat := 0x24
def dFreeBlks : Nat := 0x28
def dPend : Nat := 0x2C
def dPendBlks : Nat := 0x30
def dInUse : Nat := 0x34
def dSeq : Nat := 0x38
def dBatchNo : Nat := 0x3C
def dBCount : Nat := 0x40
def dBStart : Nat := 0x48
/-- The address of a record's header and path. -/
def Cmd.header (c : Cmd) (slot : Nat) : Nat := c.poolBase + 0x1000 + 16 * slot
def Cmd.recPath (c : Cmd) (slot : Nat) : Nat := c.poolBase + 0x2000 + 256 * slot
/-- The address of a node of a pool of `nodes` nodes, or CAP_BOUNDS (R287). -/
def nodeVa (c : Cmd) (nodes i : Nat) : M Nat := do
  let va := c.poolBase + 0x12000 + 32 * i
  raiseIf (nodes ≤ i) { cause := 0x11, addr := BitVec.ofNat 64 va, info := regTag 3 c.reg }
  pure va
/-- A snapshot of a node (R282, R287). -/
def snapshot (c : Cmd) (nodes i : Nat) : M (List (Val 8)) := do
  let bs ← steLoad c (← nodeVa c nodes i) 32
  raiseIf (anyPsn bs) (.poison 0)
  pure bs
/-- A node's fields. -/
def nN (b : List (Val 8)) : Nat := fieldOf b 0 4
def nVL (b : List (Val 8)) : Nat := fieldOf b 4 2
def nFlags (b : List (Val 8)) : Nat := fieldOf b 6 2
def nW (b : List (Val 8)) : Word64 := BitVec.ofNat 64 (fieldOf b 8 8)
def nP (b : List (Val 8)) : Nat := fieldOf b 0x10 2
def nCount (b : List (Val 8)) : Nat := fieldOf b 0x12 2
def nCBase (b : List (Val 8)) : Nat := fieldOf b 0x14 4
def nParent (b : List (Val 8)) : Nat := fieldOf b 0x18 4

/-! ## The score (R286) -/

/-- round(m / d × 2^e, FP32, RNE) of a sign and a magnitude. -/
def roundQuot (neg : Bool) (m d : Nat) (e : Int) : Nat :=
  (Fmt.f32.round 0 false neg (m * 2 ^ 64 / d) (e - 64) (decide (m * 2 ^ 64 % d ≠ 0))).1
/-- s of R286. -/
def sqrtScore (np : Nat) : Nat :=
  let r := fpSqrt.rootOf (np * 2 ^ 64)
  if np = 0 then 0 else (Fmt.f32.round 0 false false r (-32) (decide (r * r ≠ np * 2 ^ 64))).1
/-- q of R286. -/
def meanScore (r : TreeRun) (n vl : Nat) (w : Word64) : Nat :=
  if n = 0 then r.fpu
  else
    let v := (w - BitVec.ofNat 64 vl * r.vlw).toInt
    roundQuot (v < 0) v.natAbs n (-32)
/-- u of R286; +0 when np is 0. -/
def priorScore (r : TreeRun) (n p s : Nat) : Nat :=
  if r.np = 0 then 0
  else match Fmt.f32.value r.cpuct, Fmt.f32.value s with
  | .nan _, _ => Fmt.f32.nan
  | .inf g, _ => if p = 0 ∨ s = 0 then Fmt.f32.nan else Fmt.f32.sign g + Fmt.f32.infBits
  | .num g m e, .num _ m' e' => roundQuot g (m * p * m') (1 + n) (e + e' - 16)
  | .num .., _ => 0
/-- The score of a child: N, VL, W, P of its snapshot. -/
def treeScore (r : TreeRun) (n vl : Nat) (w : Word64) (p : Nat) : Nat :=
  (fpAdd .f32 0 false (meanScore r (n + vl) vl w) (priorScore r (n + vl) p (sqrtScore r.np))).1
/-- A score as it compares: a NaN counts as −∞. -/
def scoreKey (b : Nat) : Fl := match Fmt.f32.value b with | .nan _ => .inf true | x => x
/-- A score is above another. -/
def scoreAbove (a b : Nat) : Bool := (scoreKey a).cmp (scoreKey b) = some .gt

/-! ## Steps of TRSEL (R285, R287) -/

/-- The run of a tree command, and its change. -/
def Cmd.run (c : Cmd) : TreeRun := c.tree.getD {}
def setRun (c : Cmd) (pos : Nat) (r : TreeRun) : M Unit :=
  change fun s => s.modCmd c.id fun d => { d with pos, tree := some r, phase := .running }
/-- The lowest slot from `n` on whose VALID and RSV are 0, with its RFLAGS. -/
def freeSlot (c : Cmd) : Nat → Nat → M (Option (Nat × Nat))
  | 0, _ => pure none
  | k + 1, n => do
    let h ← steLoad c (c.header n) 16
    raiseIf (fieldPsn h 4 4) (.poison 0)
    let f := fieldOf h 5 1
    if f.testBit 0 || f.testBit 3 then freeSlot c k (n + 1) else pure (some (n, f))
/-- The pool's parameters from its descriptor. -/
def runOf (d : List (Val 8)) : TreeRun :=
  { nodes := fieldOf d 4 4, blk := fieldOf d 8 2, cpuct := fieldOf d 0x10 4, fpu := fieldOf d 0x14 4
    vlw := BitVec.ofNat 64 (fieldOf d 0x18 8), two := (fieldOf d 0 1).testBit 0 }
/-- A TRSEL waits at its home STE for a slot. -/
def slotWait (c : Cmd) : M Unit := change fun s => s.modCmd c.id fun d => { d with phase := .waiting }
/-- The serialised step that reserves a slot and reads ROOT. -/
def treeReserve (c : Cmd) : M Unit := do
  let d ← poolDesc c .atomic
  let used := fieldOf d dInUse 4
  if 256 ≤ used then slotWait c
  else
    match ← freeSlot c 256 0 with
    | none => slotWait c
    | some (n, f) =>
      stePut c (c.header n + 5) 1 (f ||| 8)
      putDesc c dInUse 4 (used + 1)
      setRun c 1 { runOf d with slot := n, path := [fieldOf d dRoot 4] }
/-- The snapshot of the node that the descent has reached. -/
def treeVisit (c : Cmd) : M Unit := do
  let r := c.run
  let x ← snapshot c r.nodes (r.path.getLastD 0)
  let f := nFlags x
  if !f.testBit 0 || f.testBit 1 || nCount x = 0 then setRun c 4 { r with flags := if f.testBit 1 then 2 else 0 }
  else setRun c 2 { r with np := nN x + nVL x, ccount := nCount x, cbase := nCBase x, i := 0, best := none, flags := 0 }
/-- The snapshot of one child, and its score. After the last child the descent goes on, or the leaf is FULL. -/
def treeChild (c : Cmd) : M Unit := do
  let r := c.run
  if r.i < r.ccount then
    let y ← snapshot c r.nodes ((r.cbase + r.i) % 2 ^ 32)
    let v := treeScore r (nN y) (nVL y) (nW y) (nP y)
    let best := if nVL y = 0xFFFF then r.best else match r.best with
      | none => some (r.i, v)
      | some b => if scoreAbove v b.2 then some (r.i, v) else some b
    setRun c 2 { r with i := r.i + 1, best }
  else match r.best with
    | none => setRun c 4 { r with flags := 4 }
    | some _ =>
      raiseIf (r.path.length = 64) (poolTrap c 0x34)
      setRun c 3 r
/-- The indivisible increment at the chosen child. -/
def treeStep (c : Cmd) : M Unit := do
  let r := c.run
  let y := (r.cbase + ((r.best.map (·.1)).getD 0)) % 2 ^ 32
  let va ← nodeVa c r.nodes y
  let b ← steLoad c (va + 4) 4 .atomic
  raiseIf (anyPsn b) (.poison 0)
  let n := fieldOf b 0 2
  if n < 0xFFFF then
    stePut c (va + 4) 2 (n + 1)
    setRun c 1 { r with path := r.path ++ [y] }
  else setRun c 4 { r with flags := 4 }
/-- A TRSEL whose record belongs to the open batch of the pool at `pa`. -/
def Cmd.inBatch (c : Cmd) (pa : Nat) : Bool :=
  c.poolPa = pa && c.phase = .waiting && c.pos = 5 && (match c.op with | .trsel _ => true | _ => false)
/-- The open batch of a pool closed: the tokens of its TRSELs are satisfied, or fail. -/
def State.closeBatch (s : State) (pa : Nat) (fail : Option Trap) : State :=
  { s with cmds := s.cmds.map fun c => if c.inBatch pa then { c with phase := .stopped, fail := c.fail <|> fail } else c }
/-- The members of a pool's open batch. -/
def State.batch (s : State) (pa : Nat) : List Cmd := s.cmds.filter fun c => c.inBatch pa
/-- The record, the result word, and the append to the open batch. -/
def treeRecord (c : Cmd) (res : Nat) : M Unit := do
  let r := c.run
  let d ← readDesc c .atomic
  let no := fieldOf d dBatchNo 4
  let seq := fieldOf d dSeq 4
  let count := fieldOf d dBCount 4
  let ns ← reads fun s => s.gt / 2 ^ 16
  steStore c (c.recPath r.slot) ((List.range 64).flatMap fun j => toBytes 4 (r.path.getD j noNode) false)
  steStore c (c.header r.slot)
    (toBytes 4 (r.path.getLastD 0) false ++ toBytes 1 r.path.length false ++ toBytes 1 (1 + r.flags) false ++
      toBytes 2 c.ctx false ++ toBytes 4 no false ++ toBytes 4 seq false)
  putDesc c dSeq 4 (seq + 1)
  change fun s => s.pokeL .fill res (toBytes 4 (r.slot + no % 2 ^ 24 * 256) false)
  if count = 0 then putDesc c dBStart 8 ns
  let due ← reads fun s => match s.batch c.poolPa with
    | e :: _ => e.run.due
    | [] => (if count = 0 then ns else fieldOf d dBStart 8) + fieldOf d 0xC 4
  setRun c 5 { r with due }
  change fun s => s.modCmd c.id fun e => { e with phase := .waiting }
  if fieldOf d 0xA 2 ≤ count + 1 then
    putDesc c dBCount 4 0
    putDesc c dBatchNo 4 (no + 1)
    change fun s => s.closeBatch c.poolPa none
  else putDesc c dBCount 4 (count + 1)
/-- The steps of a TRSEL. -/
def trselStep (c : Cmd) (res : Nat) : M Unit :=
  match c.pos with
  | 0 => treeReserve c
  | 1 => treeVisit c
  | 2 => treeChild c
  | 3 => treeStep c
  | _ => treeRecord c res

/-! ## Steps of TREXP (R289) -/

def stopDone (c : Cmd) : M Unit := change fun s => s.stopCmd c.id none
/-- The header of a VALID record. -/
def validHeader (c : Cmd) (slot : Nat) : M (List (Val 8)) := do
  let h ← steLoad c (c.header slot) 16
  raiseIf (anyPsn h) (.poison 0)
  raiseIf (!(fieldOf h 5 1).testBit 0) (poolTrap c 0x22)
  pure h
/-- The test and set at the leaf. -/
def expandLeaf (c : Cmd) (slot k : Nat) : M Unit := do
  let d ← poolDesc c
  let h ← validHeader c slot
  let r := runOf d
  raiseIf (r.blk < k) { cause := 0x11, addr := BitVec.ofNat 64 c.poolBase, info := regTag 3 c.reg }
  let va ← nodeVa c r.nodes (fieldOf h 0 4)
  let b ← steLoad c (va + 4) 4 .atomic
  raiseIf (anyPsn b) (.poison 0)
  let f := fieldOf b 2 2
  if f.testBit 0 || f.testBit 1 || f.testBit 2 then stopDone c
  else if k = 0 then
    stePut c (va + 6) 2 (f ||| 2)
    stopDone c
  else
    stePut c (va + 6) 2 (f ||| 4)
    setRun c 1 { r with slot, path := [fieldOf h 0 4] }
/-- The prior words checked, and a block popped. -/
def popBlock (c : Cmd) (k prior : Nat) : M Unit := do
  let r := c.run
  raiseIf (← reads fun s => anyPsn (s.peekN prior (4 * k))) (.poison 0)
  let d ← readDesc c .atomic
  let b := fieldOf d dFree 4
  raiseIf (b = noNode) (poolTrap c 0x33)
  let n ← snapshot c r.nodes (b * r.blk)
  putDesc c dFree 4 (nCBase n)
  setRun c 2 { r with cbase := b * r.blk, i := 0 }
/-- One node of the block written. -/
def writeChild (c : Cmd) (k prior : Nat) : M Unit := do
  let r := c.run
  let va ← nodeVa c r.nodes (r.cbase + r.i)
  if r.i < k then
    let w ← reads fun s => s.peekNat (prior + 4 * r.i) 4
    steStore c va (toBytes 16 0 false ++ toBytes 2 (w % 2 ^ 16) false ++ toBytes 2 0 false ++ toBytes 4 noNode false ++
      toBytes 4 (r.path.headD 0) false ++ toBytes 2 (w / 2 ^ 16) false ++ toBytes 2 0 false)
  else steStore c va (toBytes 24 0 false ++ toBytes 4 noNode false ++ toBytes 4 0 false)
  setRun c (if r.i + 1 < r.blk then 2 else 3) { r with i := r.i + 1 }
/-- The leaf's update, in one operation, once its children are written. -/
def linkChildren (c : Cmd) (k : Nat) : M Unit := do
  let r := c.run
  let va ← nodeVa c r.nodes (r.path.headD 0)
  let b ← steLoad c va 32 .atomic
  raiseIf (fieldPsn b 4 4) (.poison 0)
  let f := nFlags b
  stePut c (va + 6) 2 (if f.testBit 2 then (f ||| 1) - 4 else f ||| 1)
  stePut c (va + 0x12) 2 k
  stePut c (va + 0x14) 4 r.cbase
  setRun c 4 { r with path := [] }
/-- FREEBLKS counts one block less. -/
def countBlock (c : Cmd) : M Unit := do
  let d ← readDesc c .atomic
  putDesc c dFreeBlks 4 (fieldOf d dFreeBlks 4 + 2 ^ 32 - 1)
  stopDone c
/-- The steps of a TREXP. -/
def trexpStep (c : Cmd) (slot k prior : Nat) : M Unit :=
  match c.pos with
  | 0 => expandLeaf c slot k
  | 1 => popBlock c k prior
  | 2 => writeChild c k prior
  | 3 => linkChildren c k
  | _ => countBlock c

/-! ## Steps of TRBACK (R290) -/

/-- The record and its path read. -/
def backStart (c : Cmd) (slot : Nat) : M Unit := do
  let d ← poolDesc c
  let h ← validHeader c slot
  let n := fieldOf h 4 1
  let p ← steLoad c (c.recPath slot) (4 * n)
  raiseIf (anyPsn p) (.poison 0)
  setRun c 1 { runOf d with slot, path := (List.range n).map fun j => fieldOf p (4 * j) 4, i := n }
/-- The operation at one node of the path; poisoned words stay. -/
def backNode (c : Cmd) (v : Word64) (vo : Bool) : M Unit := do
  let r := c.run
  let j := r.i - 1
  let vj := if r.two && (r.path.length - 1 - j) % 2 = 1 then -v else v
  let va ← nodeVa c r.nodes (r.path.getD j 0)
  let b ← steLoad c va 32 .atomic
  if !vo && !fieldPsn b 8 8 then stePut c (va + 8) 8 (nW b + vj).toNat
  if !vo && !fieldPsn b 0 4 then stePut c va 4 (min (nN b + 1) 0xFFFFFFFF)
  if 1 ≤ j && !fieldPsn b 4 4 && 0 < nVL b then stePut c (va + 4) 2 (nVL b - 1)
  setRun c 1 { r with i := j }
/-- The record released. -/
def backEnd (c : Cmd) (slot : Nat) : M Unit := do
  let h ← steLoad c (c.header slot) 16
  raiseIf (fieldPsn h 4 4) (.poison 0)
  let d ← readDesc c .atomic
  let f := fieldOf h 5 1
  stePut c (c.header slot + 5) 1 (f / 2 * 2)
  putDesc c dInUse 4 (fieldOf d dInUse 4 + 2 ^ 32 - 1)
  stopDone c
/-- The steps of a TRBACK or TRBACK.VO. -/
def trbackStep (c : Cmd) (slot : Nat) (v : Word64) (vo : Bool) : M Unit :=
  match c.tree with
  | none => backStart c slot
  | some r => if r.i = 0 then backEnd c slot else backNode c v vo

/-! ## TRROOT and its walk (R283, R291) -/

/-- A command without a token: the walk of a TRROOT. -/
def walkCmd (c : Cmd) (id : Nat) (r : TreeRun) : Cmd :=
  { c with id, inc := 0, token := 0, op := .trwalk, deps := [], spans := [], phase := .running, fail := none, pos := 0, tree := some r }
/-- The serialised step of a TRROOT. -/
def trrootStep (c : Cmd) (x : Nat) : M Unit := do
  let d ← poolDesc c .atomic
  if (fieldOf d 0 1).testBit 6 then hold
  raiseIf (fieldOf d dInUse 4 ≠ 0) (poolTrap c 0x22)
  let r := fieldOf d dRoot 4
  let nodes := fieldOf d 4 4
  let va ← nodeVa c nodes x
  let b ← steLoad c (va + 0x18) 4 .atomic
  raiseIf (anyPsn b) (.poison 0)
  raiseIf (fieldOf b 0 4 ≠ r) (poolTrap c 0x22)
  putDesc c dRoot 4 x
  stePut c (va + 0x18) 4 noNode
  putDesc c 0 1 (fieldOf d 0 1 + 64)
  change fun s =>
    let w := walkCmd c s.nextCmd { runOf d with walk := [.root r x] }
    State.stopCmd { s with cmds := s.cmds ++ [w], nextCmd := s.nextCmd + 1 } c.id none
/-- A block pushed on the pending list. -/
def pushBlock (c : Cmd) (b : Nat) : M Unit := do
  let r := c.run
  let va ← nodeVa c r.nodes (b * r.blk)
  let f ← steLoad c (va + 4) 4 .atomic
  raiseIf (anyPsn f) (.poison 0)
  let d ← readDesc c .atomic
  stePut c (va + 6) 2 (fieldOf f 2 2 ||| 0x8000)
  stePut c (va + 0x14) 4 (fieldOf d dPend 4)
  putDesc c dPend 4 b
  putDesc c dPendBlks 4 (fieldOf d dPendBlks 4 + 1)
  change fun s => s.modCmd c.id fun e => { e with tree := some { r with walk := r.walk.drop 1, pushed := r.pushed ++ [b] } }
/-- What a node adds to the walk: its children's subtrees, then their block. The old root adds its own block, then the
subtrees of its children but the new root. DEDUCED, log entry 41. -/
def walkNode (c : Cmd) (y : Nat) (but : Option Nat) : M Unit := do
  let r := c.run
  let n ← snapshot c r.nodes y
  let cs := ((List.range (nCount n)).map fun i => (nCBase n + i) % 2 ^ 32).filter fun z => some z ≠ but
  let below := if (nFlags n).testBit 0 then cs.map WalkItem.subtree else []
  let more := match but with
    | some _ => WalkItem.block (y / r.blk) :: below
    | none => if (nFlags n).testBit 0 then below ++ [WalkItem.block (nCBase n / r.blk)] else []
  change fun s => s.modCmd c.id fun e => { e with tree := some { r with walk := more ++ r.walk.drop 1 } }
/-- The end of the walk: the pending list, as far as its last block `b`, joins the front of the free list with its `n` blocks. -/
def walkEnd (c : Cmd) (join : Option (Nat × Nat)) : M Unit := do
  let r := c.run
  let d ← readDesc c .atomic
  match join with
  | none => pure ()
  | some (b, n) =>
    let va ← nodeVa c r.nodes (b * r.blk)
    stePut c (va + 0x14) 4 (fieldOf d dFree 4)
    putDesc c dFree 4 (fieldOf d dPend 4)
    putDesc c dFreeBlks 4 (fieldOf d dFreeBlks 4 + n)
  putDesc c dPend 4 noNode
  putDesc c dPendBlks 4 0
  let m := fieldOf d 0 1
  putDesc c 0 1 (if m.testBit 6 then m - 64 else m)
/-- One item of a walk. What it cannot read or write is left out (R291). -/
def State.walkStep (s : State) (c : Cmd) : State :=
  let r := c.run
  let next : List WalkItem := match r.walk with
    | .root y _ :: ws => .block (y / r.blk) :: ws
    | ws => ws.drop 1
  let skip := s.modCmd c.id fun e => { e with tree := some { r with walk := next } }
  let m := match r.walk with
    | [] => pure ()
    | .block b :: _ => pushBlock c b
    | .subtree y :: _ => walkNode c y none
    | .root y z :: _ => walkNode c y (some z)
  match m s with
  | .ok (_, s') => s'
  | .error (.wait s') => s'
  | .error (.raise _) => skip
  | .error _ => s
/-- A block of the pending list whose first node can be written, so that the list can be joined behind it. -/
def joinable (c : Cmd) (b : Nat) : M Unit := do
  let _ ← steSpread c (← nodeVa c c.run.nodes (b * c.run.blk)) 32 .write
/-- A walk's step tried: it is done, it waits, it cannot be done. -/
def State.tries (s : State) (m : M Unit) : State × Option Bool :=
  match m s with
  | .ok (_, s') => (s', some true)
  | .error (.raise _) => (s, some false)
  | .error (.wait s') => (s', none)
  | .error _ => (s, none)
/-- The end of a walk whose items are done. The list is joined behind the block pushed first whose first node can be written; blocks
pushed before it are lost to the free list. A descriptor whose page is not present is waited for; one that is poisoned keeps its
words. DEDUCED, log entry 41. -/
def State.walkEnd (s : State) (c : Cmd) : State :=
  let bs := c.run.pushed
  let ts := bs.zipIdx.map fun e => (e, s.tries (joinable c e.1))
  match (ts.find? fun t => t.2.2 ≠ some false) with
  | some (_, s', none) => s'
  | t =>
    match Machine.walkEnd c (t.map fun t => (t.1.1, bs.length - t.1.2)) s with
    | .ok (_, s') => { s' with cmds := s'.cmds.filter fun d => d.id ≠ c.id }
    | .error (.wait s') => s'
    | .error (.raise t) => if t.cause = 0x20 then s else { s with cmds := s.cmds.filter fun d => d.id ≠ c.id }
    | .error _ => s

/-! ## TRPOOL (R295) -/

/-- The parameter block checked; poison fails before any check of it. -/
def poolBlock (blk : Nat) : M (List (Val 8)) := do
  let p ← reads fun s => s.peekN blk 32
  raiseIf (anyPsn p) (.poison 0)
  pure p
/-- SHAPE_INVALID for a malformed block. -/
def checkBlock (p : List (Val 8)) (blk : Nat) : M Unit := do
  let nodes := fieldOf p 4 4
  let bn := fieldOf p 8 2
  let pow := (List.range 9).any fun i => bn = 2 ^ i
  raiseIf (!pow || decide (nodes % bn ≠ 0 ∨ nodes < 2 * bn) || decide (fieldOf p 0xA 2 = 0 ∨ 256 < fieldOf p 0xA 2) ||
    decide (1 < fieldOf p 0 1 ∨ fieldOf p 1 3 ≠ 0)) (.shapeInvalid (blk % 0x100000))
/-- The steps of a TRPOOL.INIT: the checks with the descriptor, the headers, block 0, and the other blocks' links. -/
def trinitStep (c : Cmd) (blk : Nat) : M Unit := do
  match c.tree with
  | none =>
    let p ← poolBlock blk
    let d ← steLoad c c.poolBase 128 .atomic
    let sick := fieldPsn d 0 0x44 || fieldPsn d 0x48 8
    let mode := if sick then 0 else fieldOf d 0 1
    if mode.testBit 6 then hold
    raiseIf (mode.testBit 7 && decide (fieldOf d dInUse 4 ≠ 0)) (poolTrap c 0x22)
    checkBlock p blk
    let nodes := fieldOf p 4 4
    match c.cap.check c.poolBase (0x12000 + 32 * nodes) permR with
    | some (cause, a) => raise { cause, addr := BitVec.ofNat 64 a, info := regTag 3 c.reg }
    | none => pure ()
    let n := fieldOf p 8 2
    steStore c c.poolBase
      (toBytes 1 (fieldOf p 0 1 + 128) false ++ p.drop 1 ++ toBytes 4 0 false ++ toBytes 4 1 false ++
        toBytes 4 (nodes / n - 1) false ++ toBytes 4 noNode false ++ toBytes 80 0 false)
    change fun s => s.closeBatch c.poolPa none
    setRun c 1 { runOf p with i := 0 }
  | some r =>
    let n := r.nodes / r.blk
    if c.pos = 1 then
      steStore c (c.header 0) (toBytes 4096 0 false)
      setRun c 2 r
    else if r.i < r.blk then
      let va ← nodeVa c r.nodes r.i
      steStore c va (if r.i = 0 then toBytes 20 0 false ++ toBytes 8 0xFFFFFFFFFFFFFFFF false ++ toBytes 4 0 false
        else toBytes 32 0 false)
      setRun c 2 { r with i := r.i + 1 }
    else
      let b := r.i - r.blk + 1
      if n ≤ b then stopDone c
      else
        let va ← nodeVa c r.nodes (b * r.blk)
        stePut c (va + 6) 2 0x8000
        stePut c (va + 0x14) 4 (if b + 1 < n then b + 1 else noNode)
        setRun c 2 { r with i := r.i + 1 }
/-- The step of a TRPOOL.PARAM. -/
def trparamStep (c : Cmd) (blk : Nat) : M Unit := do
  let p ← poolBlock blk
  let _ ← poolDesc c .atomic
  checkBlock p blk
  steStore c (c.poolBase + 0xA) (p.drop 0xA)
  stopDone c

/-! ## Failure (R294) -/

/-- Steps of an undo that go together, on the nodes or words at `vas`: each is skipped where it meets a page that is not present or a
poisoned word; while one of them waits for a copy of its page (R226), none is made. The second part says whether they are done. -/
def State.undo (s : State) (c : Cmd) (vas : List Nat) (ms : List (M Unit)) : State × Bool :=
  match (vas.map fun va => s.tries do let _ ← steSpread c va 4 .write).find? fun t => t.2.isNone with
  | some (s', _) => (s', false)
  | none => (ms.foldl (fun s m => (s.tries m).1) s, true)
/-- The address of a node for an undo. -/
def Cmd.nodeAt (c : Cmd) (y : Nat) : Nat := c.poolBase + 0x12000 + 32 * y
/-- A virtual loss removed. -/
def loseOne (c : Cmd) (y : Nat) : M Unit := do
  let va ← nodeVa c c.run.nodes y
  let b ← steLoad c (va + 4) 4 .atomic
  raiseIf (anyPsn b) (.poison 0)
  if 0 < fieldOf b 0 2 then stePut c (va + 4) 2 (fieldOf b 0 2 - 1)
/-- The reserved slot released: RSV, then INUSE. -/
def freeRsv (c : Cmd) : M Unit := do
  let h ← steLoad c (c.header c.run.slot) 16
  raiseIf (fieldPsn h 4 4) (.poison 0)
  let f := fieldOf h 5 1
  stePut c (c.header c.run.slot + 5) 1 (if f.testBit 3 then f - 8 else f)
def freeUse (c : Cmd) : M Unit := do
  let d ← steLoad c (c.poolBase + dInUse) 4 .atomic
  raiseIf (anyPsn d) (.poison 0)
  putDesc c dInUse 4 (fieldOf d 0 4 + 2 ^ 32 - 1)
/-- PEND cleared. -/
def clearPend (c : Cmd) : M Unit := do
  let va ← nodeVa c c.run.nodes (c.run.path.headD 0)
  let b ← steLoad c (va + 4) 4 .atomic
  raiseIf (anyPsn b) (.poison 0)
  let f := fieldOf b 2 2
  stePut c (va + 6) 2 (if f.testBit 2 then f - 4 else f)
/-- One step of the undo of a failed command. -/
def State.treeUndo (s : State) (c : Cmd) : State :=
  let r := c.run
  match c.op with
  | .trsel _ =>
    if c.tree.isNone then s.stopCmd c.id none
    else if 1 < r.path.length then
      let y := r.path.getLastD 0
      match s.undo c [c.nodeAt y + 4] [loseOne c y] with
      | (s, true) => s.modCmd c.id fun d => { d with tree := some { r with path := r.path.dropLast } }
      | (s, false) => s
    else match s.undo c [c.header r.slot + 4, c.poolBase + dInUse] [freeRsv c, freeUse c] with
      | (s, true) => s.stopCmd c.id none
      | (s, false) => s
  | .trexp .. =>
    if r.path.isEmpty then s.stopCmd c.id none
    else match s.undo c [c.nodeAt (r.path.headD 0) + 4] [clearPend c] with
      | (s, true) => s.stopCmd c.id none
      | (s, false) => s
  | _ => s.stopCmd c.id none

/-! ## Work -/

/-- The start of a tree command at its home STE: the descriptor's place gives the column (R280). -/
def State.treeStart (s : State) (c : Cmd) : State :=
  let s := s.startCmd c
  match engSpread (.cmd c.id) (tlbSte (c.ctx / 256)) c.asid c.poolBase 1 .none true s with
  | .ok ([p], s') =>
    if s'.target p.pa = .mem ∧ region (p.pa % 2 ^ 50) ≠ .scratch then
      s'.modCmd c.id fun d => { d with path := [p.pa], unit := .ste (homeColumn (p.pa % 2 ^ 50)) }
    else s'.stopCmd c.id (some (poolTrap c 0x22))
  | .error (.raise t) => s.stopCmd c.id (some t)
  | _ => s.stopCmd c.id (some (poolTrap c 0x22))
/-- One indivisible operation of a running tree command. -/
def State.treeWork (s : State) (c : Cmd) : State :=
  if c.fail.isSome then s.treeUndo c
  else
    let m : M Unit := match c.op with
      | .trsel res => trselStep c res
      | .trexp slot k prior => trexpStep c slot k prior
      | .trback slot v vo => trbackStep c slot v vo
      | .trroot x => trrootStep c x
      | .trinit blk => trinitStep c blk
      | .trparam blk => trparamStep c blk
      | _ => hold
    match m s with
    | .ok (_, s') => s'
    | .error (.wait s') => s'
    | .error (.raise t) => s.modCmd c.id fun d => { d with fail := some t }
    | .error _ => s

/-! ## Instructions (R292, R293) -/

/-- The checks that the forms share, and the command's issue. -/
def treeIssue (d a : BitVec 6) (c : Cap) (op : CmdOp) (xs : List Word64) (spans : List (Nat × Nat × Bool)) : M Unit := do
  issueCmd d.toNat 13 (.ste 0) op [c] xs spans
  change fun s => s.modCmd (s.nextCmd - 1) fun e => { e with reg := a.toNat }
/-- Checks 2 and 3. -/
def treeCap (a : BitVec 6) (c : Cap) : M Unit := do
  raiseIf (c.base % 128 ≠ 0) (.align (BitVec.ofNat 64 c.base))
  capCheck a.toNat c c.base 0x12000 (permR ||| permW ||| permA)
def execTrsel (d a b : BitVec 6) (st : State) : Host.Outcome State Fault Refusal :=
  slotOut (do
    let c ← cClean a.toNat
    let x ← xClean b.toNat
    treeCap a c
    let p ← scratchAt x 4 4
    treeIssue d a c (.trsel p) [x] [(p, p + 4, true)]) st
def execTrexp (d a b : BitVec 6) (st : State) : Host.Outcome State Fault Refusal :=
  slotOut (do
    let c ← cClean a.toNat
    let x ← xClean b.toNat
    let y ← xClean (b.toNat + 1)
    treeCap a c
    let k := (x.extractLsb' 16 16).toNat
    let slot := (x.extractLsb' 0 8).toNat
    if k = 0 then treeIssue d a c (.trexp slot 0 0) [x, y] []
    else
      let p ← scratchAt y (4 * k) 4
      treeIssue d a c (.trexp slot k p) [x, y] [(p, p + 4 * k, false)]) st
/-- TRBACK and TRBACK.VO. -/
def trback (vo : Bool) (d a b : BitVec 6) (st : State) : Host.Outcome State Fault Refusal :=
  slotOut (do
    let c ← cClean a.toNat
    let x ← xClean b.toNat
    let y ← xClean (b.toNat + 1)
    treeCap a c
    treeIssue d a c (.trback (x.extractLsb' 0 8).toNat y vo) [x, y] []) st
def execTrback (d a b : BitVec 6) (st : State) : Host.Outcome State Fault Refusal := trback false d a b st
def execTrbackVo (d a b : BitVec 6) (st : State) : Host.Outcome State Fault Refusal := trback true d a b st
def execTrroot (d a b : BitVec 6) (st : State) : Host.Outcome State Fault Refusal :=
  slotOut (do
    let c ← cClean a.toNat
    let x ← xClean b.toNat
    treeCap a c
    treeIssue d a c (.trroot (x.extractLsb' 0 32).toNat) [x] []) st
/-- TRPOOL.INIT and TRPOOL.PARAM. -/
def trpool (ini : Bool) (d a b : BitVec 6) (st : State) : Host.Outcome State Fault Refusal :=
  slotOut (do
    let c ← cClean a.toNat
    let x ← xClean b.toNat
    treeCap a c
    let p ← scratchAt x 32 16
    treeIssue d a c (if ini then .trinit p else .trparam p) [x] [(p, p + 32, false)]) st
def execTrpoolInit (d a b : BitVec 6) (st : State) : Host.Outcome State Fault Refusal := trpool true d a b st
def execTrpoolParam (d a b : BitVec 6) (st : State) : Host.Outcome State Fault Refusal := trpool false d a b st

end Sys2Proof.Machine
end

