-- ==== Sys2Proof/Machine/Coll.lean ====
section
/-! DEFINITION. Collectives (R351 to R355): COLL, its descriptor, and the steps of a member's Bangle. One unit of work reads
or writes one element, or sends or receives one chunk. -/
namespace Sys2Proof.Machine

/-! ## Elements (R97, R354) -/

/-- The floating-point format of a type code that reduces. -/
def redFmt (t : Nat) : Option Fmt := if t = 8 then some .f64 else if t = 9 then some .f32 else if t = 10 then some .f16
  else if t = 11 then some .bf16 else none
/-- A type code that a reduction accepts (R353). -/
def reducible (t : Nat) : Bool := t ∈ [2, 3, 6, 7, 8, 9, 10, 11, 15]
/-- op of R354: ADD, MIN, MAX; `acc` is the left operand. -/
def redOp (t red : Nat) (acc x : Val 128) : Val 128 :=
  let w := 4 * typeHalf t
  let a := acc.v.toNat
  let b := x.v.toNat
  let v := match redFmt t with
    | some f => if red = 0 then (fpAdd f 0 false a b).1 else (fpMinMax f (red = 2) a b).1
    | none =>
      let signed := t ≠ 6 ∧ t ≠ 7
      let less := decide (intOf w signed a < intOf w signed b)
      if red = 0 then (a + b) % 2 ^ w else if less = decide (red = 1) then a else b
  if acc.psn || x.psn then ⟨0, true⟩ else ⟨BitVec.ofNat 128 v, false⟩
/-- Elements of `half` × 4 bits as bytes. -/
def packElems (half : Nat) (es : List (Val 128)) : List (Val 8) :=
  if half = 1 then
    (List.range ((es.length + 1) / 2)).map fun i =>
      let a := es.getD (2 * i) ⟨0, false⟩
      let b := es.getD (2 * i + 1) ⟨0, false⟩
      ⟨BitVec.ofNat 8 (a.v.toNat % 16 + b.v.toNat % 16 * 16), a.psn || b.psn⟩
  else es.flatMap fun e => toBytes (half / 2) e.v.toNat e.psn
/-- `n` elements from bytes. -/
def unpackElems (half n : Nat) (bs : List (Val 8)) : List (Val 128) :=
  (List.range n).map fun i =>
    if half = 1 then
      let b := byteAt bs (i / 2)
      ⟨BitVec.ofNat 128 (b.v.toNat / 16 ^ (i % 2) % 16), b.psn⟩
    else
      let e := (bs.drop (i * (half / 2))).take (half / 2)
      ⟨BitVec.ofNat 128 (leNat e), anyPsn e⟩
/-- The bytes of `n` elements. -/
def elemBytes (half n : Nat) : Nat := (n * half + 1) / 2

/-! ## Tensors -/

def countAll (ext : List Nat) : Nat := ext.foldl (· * ·) 1
/-- The elements whose index along dimension `e` lies in [lo, hi), row-major. -/
def cutDim (ext : List Nat) (e lo hi : Nat) (xs : List (Val 128)) : List (Val 128) :=
  let inner := countAll (ext.drop (e + 1))
  (List.range (countAll (ext.take e))).flatMap fun o => (xs.drop ((o * ext.getD e 1 + lo) * inner)).take ((hi - lo) * inner)
/-- Parts joined along dimension `d`; `ext` are the extents of the dimensions, of which `d` does not count. -/
def joinDim (ext : List Nat) (d : Nat) (ps : List (List (Val 128))) : List (Val 128) :=
  let outer := countAll (ext.take d)
  (List.range outer).flatMap fun o => ps.flatMap fun p => (p.drop (o * (p.length / outer))).take (p.length / outer)
/-- Chunk `i` of `n` things in `s` (R354). -/
def chunkLo (n s i : Nat) : Nat := i * n / s

/-! ## The descriptor (R352, R353) -/

/-- The roles of the axes of a record, by dimension. -/
def axisDim (rec_ : List Nat) (a : Nat) : Option Nat := rec_.findIdx? (· = a)
/-- The steps, in their order. -/
def collPlan (naxes : Nat) (src dst : List Nat) (partial_ : Bool) : List (Nat × CollStep) :=
  let axes := (List.range naxes).map (· + 1)
  let red := axes.filterMap fun a => match axisDim src a, axisDim dst a with
    | none, none => if partial_ then some (a, .allReduce) else none
    | none, some e => if partial_ then some (a, .reduceScatter e) else none
    | _, _ => none
  let swap := axes.filterMap fun a => match axisDim src a, axisDim dst a with
    | some d, some e => if d = e then none else some (a, CollStep.allToAll d e)
    | _, _ => none
  let gather := axes.filterMap fun a => match axisDim src a, axisDim dst a with
    | some d, none => some (a, CollStep.allGather d)
    | _, _ => none
  red ++ swap ++ gather
/-- The local extents under a record. -/
def localExt (extents sizes rec_ : List Nat) : List Nat :=
  extents.mapIdx fun i x => let a := rec_.getD i 0; if a = 0 then x else x / sizes.getD (a - 1) 1
/-- The descriptor's fields are in their ranges, and the layouts are those of a collective (R353). -/
def collValid (ds : List (Val 8)) (plist : List Nat) (me m : Nat) : Bool :=
  let f := fieldOf ds
  let ndim := f 4 1
  let naxes := f 5 1
  let sizes := (List.range 3).map fun i => f (8 + 2 * i) 2
  let ext := (List.range ndim).map fun i => f (0x10 + 4 * i) 4
  let dims := fun o => (List.range ndim).map fun i => f (o + i) 1
  let src := dims 0x20
  let dst := dims 0x28
  let recOk := fun (o : Nat) (r : List Nat) =>
    r.all (fun a => a ≤ naxes) && ((List.range naxes).all fun a => r.count (a + 1) ≤ 1) &&
      ((List.range 4).all fun i => i < ndim || f (o + i) 1 = 0) && f (o + 4) 1 ≤ 1
  let even := fun (r : List Nat) => (List.range ndim).all fun i =>
    r.getD i 0 = 0 || (sizes.getD (r.getD i 0 - 1) 0 ≠ 0 && ext.getD i 0 % sizes.getD (r.getD i 0 - 1) 1 = 0)
  let part := f 0x24 1 = 1
  f 2 1 ≤ 17 && f 3 1 ≤ 2 && 1 ≤ ndim && ndim ≤ 4 && 1 ≤ naxes && naxes ≤ 3 && 1 ≤ f 6 2 && f 6 2 ≤ 16384 &&
    ((List.range 3).all fun i => i < naxes || sizes.getD i 0 = 0) && f 0xE 2 = 0 && f 0x25 3 = 0 && f 0x2D 3 = 0 && f 0x34 12 = 0 &&
    (sizes.take naxes).foldl (· * ·) 1 = f 6 2 * m && recOk 0x20 src && recOk 0x28 dst && even src && even dst &&
    f 0x2C 1 = 0 && (!part || (List.range naxes).any fun a => (axisDim src (a + 1)).isNone) && plist.count me = 1 &&
    (reducible (f 2 1) || (collPlan naxes src dst part).all fun e => match e.2 with
      | .allReduce => false | .reduceScatter _ => false | _ => true)
/-- The collective of a descriptor, for local member `l` of `m`. DESIGN CHOICE, log entry 6. -/
def collOf (ds : List (Val 8)) (plist : List Nat) (me m l launch ord : Nat) : CollDesc :=
  let f := fieldOf ds
  let ndim := f 4 1
  let naxes := f 5 1
  let src := (List.range ndim).map fun i => f (0x20 + i) 1
  let dst := (List.range ndim).map fun i => f (0x28 + i) 1
  { cohort := f 0 2, launch, ord, type := f 2 1, red := f 3 1, extents := (List.range ndim).map fun i => f (0x10 + 4 * i) 4
    sizes := (List.range naxes).map fun i => f (8 + 2 * i) 2, src, dst, plan := collPlan naxes src dst (f 0x24 1 = 1), plist
    mine := plist.findIdx (· = me), m, l
    digest := Config.digest (((ds.map (·.v)).mapIdx fun i b => if 0x30 ≤ i ∧ i < 0x34 then 0 else b) ++ plist.flatMap fun p => leBytes 2 p) }

/-! ## Members -/

/-- The rank of a member, and its coordinate on an axis (axis 1 outermost). -/
def CollDesc.rank (d : CollDesc) : Nat := d.mine * d.m + d.l
def CollDesc.stride (d : CollDesc) (a : Nat) : Nat := (d.sizes.drop a).foldl (· * ·) 1
def CollDesc.size (d : CollDesc) (a : Nat) : Nat := d.sizes.getD (a - 1) 1
def CollDesc.coord (d : CollDesc) (a : Nat) : Nat := d.rank / d.stride a % d.size a
/-- The rank of the ring member with coordinate `c` on axis `a`. -/
def CollDesc.peerAt (d : CollDesc) (a c : Nat) : Nat := d.rank + c * d.stride a - d.coord a * d.stride a
/-- The device of a rank, and its place there. -/
def CollDesc.deviceOf (d : CollDesc) (r : Nat) : Nat := d.plist.getD (r / d.m) 0
/-- The id of what member `a` sends to member `b`; DESIGN CHOICE, log entry 25. -/
def CollDesc.id (d : CollDesc) (a b : Nat) : Nat :=
  d.cohort + d.launch % 2 ^ 16 * 2 ^ 16 + a % d.m * 2 ^ 32 + b % d.m * 2 ^ 44 + d.ord % 2 ^ 7 * 2 ^ 56
/-- The other members. -/
def CollDesc.others (d : CollDesc) : List Nat := (List.range (d.plist.length * d.m)).filter (· ≠ d.rank)
/-- A control record to a member. -/
def State.collCtl (s : State) (d : CollDesc) (sub r data tag : Nat) : State :=
  s.sendRec (d.deviceOf r) false { rtype := 0x0C, tag, aux := sub, data := d.id d.rank r + data * 2 ^ 64 } []
/-- A control record to every other member. -/
def State.collTell (s : State) (d : CollDesc) (sub data tag : Nat) : State := d.others.foldl (fun s r => s.collCtl d sub r data tag) s
/-- At most 1,792 bytes of step `t` to a member, `off` the place of the first in this device's stream for the step (R331). -/
def State.collSend (s : State) (dev id t off : Nat) (bs : List (Val 8)) : State :=
  s.sendRec dev true { rtype := 0x0C, aux := 4 + bs.length * 256, data := id + off * 2 ^ 64 + t * 2 ^ 104 } bs
/-- The next record of a chunk, once the send queue has room (R299): what has left of it then, and the state; none while it waits. -/
def State.collPart (s : State) (dev id t off part : Nat) (bs : List (Val 8)) : Option (Nat × State) :=
  let p := (bs.drop part).take 1792
  if p.isEmpty then some (part, s)
  else if s.roomFor dev true p.length then some (part + p.length, s.collSend dev id t (off + part) p)
  else none
/-- Received bytes of a stream, and the same without the first `n`. -/
def State.strm (s : State) (id src step : Nat) : List (Val 8) :=
  ((s.strms.find? fun e => e.id = id ∧ e.src = src ∧ e.step = step).map (·.bytes)).getD []
def State.takeStrm (s : State) (id src step n : Nat) : State :=
  let rest := s.strms.map fun (e : Strm) => if e.id = id ∧ e.src = src ∧ e.step = step then { e with bytes := e.bytes.drop n } else e
  { s with strms := rest.filter fun (e : Strm) => !e.bytes.isEmpty }
def State.addStrm (s : State) (id src step : Nat) (bs : List (Val 8)) : State :=
  if s.strms.any fun e => e.id = id ∧ e.src = src ∧ e.step = step then
    { s with strms := s.strms.map fun e => if e.id = id ∧ e.src = src ∧ e.step = step then { e with bytes := e.bytes ++ bs } else e }
  else { s with strms := s.strms ++ [{ id, src, step, bytes := bs }] }

/-! ## COLL (R351) -/

/-- COLL_LAYOUT and COLL_TIMEOUT. -/
def collTrap (cause : BitVec 8) (cohort : Nat) : Trap := { cause, info := BitVec.ofNat 64 cohort }
/-- The members of a cohort on this device by ascending context id; tasks that are not resident follow. -/
def State.collMembers (s : State) (l : Launch) (cohort : Nat) : List Nat :=
  sortBy (fun t => ((s.ctxs.find? fun e => e.2.occ = .resident ∧ e.2.regs.launch.toNat = l.num ∧ e.2.regs.task.toNat = t).map
    (·.1)).getD (4096 + t)) (s.members l cohort)
/-- COLL. -/
def execColl (d a b : BitVec 6) (st : State) : Host.Outcome State Fault Refusal :=
  slotOut (do
    let c ← cClean a.toNat
    let e ← cClean (a.toNat + 1)
    let x ← xClean b.toNat
    let p ← scratchAt x 64 16
    let ds ← reads fun s => s.peekN p 64
    raiseIf (anyPsn ds) (.poison 0)
    let n := fieldOf ds 6 2
    let q ← scratchAt (BitVec.ofNat 64 (fieldOf ds 0x30 4)) (2 * n) 2
    let ps ← reads fun s => s.peekN q (2 * n)
    raiseIf (anyPsn ps) (.poison 0)
    let plist := (List.range n).map fun i => fieldOf ps (2 * i) 2
    let cohort := fieldOf ds 0 2
    let k ← self
    let l ← reads fun s => s.launchOf k
    change fun s => s.readCohort l cohort
    let task ← reads fun s => s.regs.task.toNat
    let ord := l.colls.get 0 (cohort * 4096 + task)
    let set ← reads fun s => ((s.collSets.find? fun t => t.launch = l.num ∧ t.cohort = cohort ∧ t.ord = ord).map (·.tasks)).getD
      (s.collMembers l cohort)
    let me ← reads fun s => s.peer
    raiseIf (!set.contains task || !collValid ds plist me set.length) (collTrap 0x44 cohort)
    let far ← reads fun s => plist.find? fun p => p ≠ me && !s.routed p
    match far with
    | some p => raise { cause := 0x41, info := BitVec.ofNat 64 p }
    | none => pure ()
    let g := collOf ds plist me set.length (set.findIdx (· = task)) l.num ord
    let half := typeHalf g.type
    let nsrc := elemBytes half (countAll (localExt g.extents g.sizes g.src))
    let ndst := elemBytes half (countAll (localExt g.extents g.sizes g.dst))
    capCheck a.toNat c c.base nsrc permR
    capCheck (a.toNat + 1) e e.base ndst permW
    if 64 ≤ (← reads fun s => (s.cmds.filter fun x => x.unit = .coll).length) then full 0x12A
    let ch ← reads fun s => (s.ctx k).chan 15
    if !ch.room 3 then full 0
    issueCmd d.toNat 15 .coll (.coll g) [c, e] [x] []
    change fun s =>
      let s := s.modCmd (s.nextCmd - 1) fun y => { y with reg := a.toNat, coll := some {} }
      let s := s.modRegs fun r => (r.wt (d.toNat + 1) ⟨BitVec.ofNat 6 15 ++ (ch.next + 1), false⟩).wt (d.toNat + 2)
        ⟨BitVec.ofNat 6 15 ++ (ch.next + 2), false⟩
      let s := s.modCtx k fun x => x.setChan 15 { x.chan 15 with next := ch.next + 3 }
      let s := s.modLaunch l.num fun l => { l with colls := l.colls.put (cohort * 4096 + task) (ord + 1) }
      if s.collSets.any fun t => t.launch = l.num ∧ t.cohort = cohort ∧ t.ord = ord then s
      else { s with collSets := s.collSets ++ [{ launch := l.num, cohort, ord, tasks := set }] }) st

/-! ## A member's Bangle (R354, R355) -/

def Cmd.coll_ (c : Cmd) : CollRun := c.coll.getD {}
/-- The 64 KiB pages of `[va, va + n)`. -/
def pagesOf (va n : Nat) : List Nat := (pieces 0x10000 va n).map fun p => p.1 / 0x10000
/-- A note whose digest is not the member's own. -/
def State.badDigest (s : State) (d : CollDesc) : Bool :=
  d.others.any fun r => s.notes.any fun n => n.id = d.id r d.rank && n.src = d.deviceOf r &&
    (match n.digest with | some g => g ≠ d.digest | none => false)
/-- BANGLE_COLL_START: every page of both operands is translated and pinned, and the start records leave. -/
def State.collStart (s : State) (c : Cmd) (d : CollDesc) : State :=
  let s := s.startCmd c
  let half := typeHalf d.type
  let ext := localExt d.extents d.sizes d.src
  let nsrc := elemBytes half (countAll ext)
  let ndst := elemBytes half (countAll (localExt d.extents d.sizes d.dst))
  let a := c.cap
  let b := c.caps.getD 1 {}
  let s := cmdOut c.id (do
    let _ ← engSpread (.cmd c.id) tlbOfu c.asid a.base nsrc .read (a.perm &&& permSN ≠ 0)
    let _ ← engSpread (.cmd c.id) tlbOfu c.asid b.base ndst .write (b.perm &&& permSN ≠ 0)
    change fun s =>
      let pg := (pagesOf a.base nsrc ++ pagesOf b.base ndst).map fun p => (some c.id, c.asid, p)
      ({ s with pins := s.pins ++ pg } : State).modCmd c.id fun e => { e with pos := 0, coll := some { extents := ext } }) s
  let s := s.collTell d 0 d.digest.toNat 0
  match s.notes.findSome? fun n => if d.others.any fun r => n.id = d.id r d.rank && n.src = d.deviceOf r then n.abort else none with
  | some cause =>
    (s.stopCmd c.id (some (collTrap cause d.cohort))).modCmd c.id fun e => { e with coll := some { e.coll.getD {} with told := true } }
  | none => if s.badDigest d then s.stopCmd c.id (some (collTrap 0x44 d.cohort)) else s
/-- The run changed; progress restarts the clock of COLL_TIMEOUT. -/
def State.setColl (s : State) (c : Cmd) (pos : Nat) (r : CollRun) : State :=
  s.modCmd c.id fun e => { e with pos, coll := some r, since := s.gt }
/-- The source read, an element at a time. Once it is in the chunk buffers, the first token is satisfied. -/
def State.collRead (s : State) (c : Cmd) (d : CollDesc) : State :=
  let r := c.coll_
  let half := typeHalf d.type
  let n := countAll r.extents
  if elemBytes half n ≤ r.raw.length then
    (s.finishToken c c.token none).setColl c 1 { r with buf := unpackElems half n r.raw, raw := [], toks := 1 }
  else
    cmdOut c.id (do
      let a := c.cap
      let bs ← engLoad c false (← engSpread (.cmd c.id) tlbOfu c.asid (a.base + r.raw.length) (max 1 (half / 2)) .read (a.perm &&& permSN ≠ 0))
      change fun s => s.setColl c 0 { r with raw := r.raw ++ bs }) s
/-- The chunk that hop `r.hop` sends and the one it receives, by coordinate. -/
def CollRun.hopChunks (r : CollRun) (s j : Nat) : Nat × Nat :=
  let t := r.hop + 1
  if r.gather then ((j + s + 1 - t) % s, (j + s - t) % s) else ((j + s - t) % s, (j + 2 * s - t - 1) % s)
/-- The chunks of a step as it begins. -/
def CollRun.begin_ (r : CollRun) (k : CollStep) (s j : Nat) : CollRun :=
  let cutAt := fun e => (List.range s).map fun i =>
    let n := r.extents.getD e 1
    cutDim r.extents e (chunkLo n s i) (chunkLo n s (i + 1)) r.buf
  match k with
  | .allReduce => { r with parts := (List.range s).map fun i => (r.buf.drop (chunkLo r.buf.length s i)).take (chunkLo r.buf.length s (i + 1) - chunkLo r.buf.length s i) }
  | .reduceScatter e => { r with parts := cutAt e }
  | .allToAll _ e => { r with parts := cutAt e }
  | .allGather _ => { r with parts := (List.range s).map fun i => if i = j then r.buf else [], gather := true }
/-- The end of a step: the tensor it leaves. -/
def CollRun.finish (r : CollRun) (k : CollStep) (s j : Nat) : CollRun :=
  let base := { r with step := r.step + 1, parts := [], hop := 0, gather := false, sent := false, part := 0, off := 0 }
  match k with
  | .allReduce => { base with buf := r.parts.flatten }
  | .reduceScatter e =>
    let n := r.extents.getD e 1
    { base with buf := r.parts.getD j [], extents := r.extents.set e (chunkLo n s (j + 1) - chunkLo n s j) }
  | .allToAll dd e =>
    let n := r.extents.getD e 1
    let ext := r.extents.set e (chunkLo n s (j + 1) - chunkLo n s j)
    { base with buf := joinDim ext dd r.parts, extents := ext.set dd (ext.getD dd 1 * s) }
  | .allGather dd => { base with buf := joinDim r.extents dd r.parts, extents := r.extents.set dd (r.extents.getD dd 1 * s) }
/-- A ring hop of a reduction or a gather: a chunk leaves for the next member, then one arrives from the one before. -/
def State.collHop (s : State) (c : Cmd) (d : CollDesc) (k : CollStep) (a : Nat) : State :=
  let r := c.coll_
  let n := d.size a
  let j := d.coord a
  let half := typeHalf d.type
  let (out, inn) := r.hopChunks n j
  let nextM := d.peerAt a ((j + 1) % n)
  let prev := d.peerAt a ((j + n - 1) % n)
  if !r.sent then
    let bs := packElems half (r.parts.getD out [])
    match s.collPart (d.deviceOf nextM) (d.id d.rank nextM) r.step r.off r.part bs with
    | some (k, s) => s.setColl c 1 (if k < bs.length then { r with part := k } else { r with sent := true, part := 0, off := r.off + k })
    | none => s
  else
    let own := r.parts.getD inn []
    let m := match k with | .allGather _ => (r.parts.getD j []).length | _ => own.length
    let src := d.deviceOf prev
    let id := d.id prev d.rank
    let bs := s.strm id src r.step
    if bs.length < elemBytes half m then s
    else
      let got := unpackElems half m bs
      let new := if r.gather then got else (got.zip own).map fun e => redOp d.type d.red e.1 e.2
      (s.takeStrm id src r.step (elemBytes half m)).setColl c 1
        { r with parts := r.parts.set inn new, hop := r.hop + 1, sent := false }
/-- One chunk of an all-to-all: the chunks for the others leave in coordinate order, then theirs arrive. -/
def State.collSwap (s : State) (c : Cmd) (d : CollDesc) (a : Nat) : State :=
  let r := c.coll_
  let n := d.size a
  let j := d.coord a
  let half := typeHalf d.type
  let own := (r.parts.getD j []).length
  if r.hop < n then
    let m := d.peerAt a r.hop
    let bs := if r.hop = j then [] else packElems half (r.parts.getD r.hop [])
    match s.collPart (d.deviceOf m) (d.id d.rank m) r.step 0 r.part bs with
    | some (k, s) => s.setColl c 1 (if k < bs.length then { r with part := k } else { r with hop := r.hop + 1, part := 0 })
    | none => s
  else
    let i := r.hop - n
    if i = j then s.setColl c 1 { r with hop := r.hop + 1 }
    else
      let m := d.peerAt a i
      let bs := s.strm (d.id m d.rank) (d.deviceOf m) r.step
      if bs.length < elemBytes half own then s
      else (s.takeStrm (d.id m d.rank) (d.deviceOf m) r.step (elemBytes half own)).setColl c 1
        { r with parts := r.parts.set i (unpackElems half own bs), hop := r.hop + 1 }
/-- One unit of a step of the plan. -/
def State.collStep (s : State) (c : Cmd) (d : CollDesc) (a : Nat) (k : CollStep) : State :=
  let r := c.coll_
  let n := d.size a
  let j := d.coord a
  if r.parts.isEmpty then s.setColl c 1 (r.begin_ k n j)
  else match k with
    | .allToAll .. => if 2 * n ≤ r.hop then s.setColl c 1 (r.finish k n j) else s.collSwap c d a
    | .allReduce =>
      if n - 1 ≤ r.hop then s.setColl c 1 (if r.gather then r.finish k n j else { r with hop := 0, gather := true, sent := false })
      else s.collHop c d k a
    | _ => if n - 1 ≤ r.hop then s.setColl c 1 (r.finish k n j) else s.collHop c d k a
/-- The part of the tensor that a member keeps where an axis shards a destination dimension and no source dimension. -/
def CollRun.keep (r : CollRun) (d : CollDesc) : CollRun :=
  ((List.range d.sizes.length).map (· + 1)).foldl (init := r) fun r a =>
    if d.plan.any fun e => e.1 = a then r
    else match axisDim d.src a, axisDim d.dst a with
      | none, some e =>
        let n := r.extents.getD e 1 / d.size a
        { r with buf := cutDim r.extents e (d.coord a * n) ((d.coord a + 1) * n) r.buf, extents := r.extents.set e n }
      | _, _ => r
/-- The destination written, an element at a time; then the second token is satisfied and the members are told. -/
def State.collWrite (s : State) (c : Cmd) (d : CollDesc) : State :=
  let r := c.coll_
  let half := typeHalf d.type
  let n := countAll r.extents
  if elemBytes half n ≤ c.prog then
    ((s.finishToken c (c.token + 1) none).setColl c 3 { r with toks := 2 }).collTell d 2 0 0
  else
    cmdOut c.id (do
      let b := c.caps.getD 1 {}
      let sn := b.perm &&& permSN ≠ 0
      let odd := decide (half = 1 ∧ n % 2 = 1)
      let left := elemBytes half n - c.prog
      let last := odd && decide (left = 1)
      let u := min (if odd && !last then left - 1 else left) (128 - (b.base + c.prog) % 128)
      let bs := ((packElems half r.buf).drop c.prog).take u
      let bs ← if last then do
          let old ← engLoad c false (← engSpread (.cmd c.id) tlbOfu c.asid (b.base + c.prog) 1 .write sn)
          pure [⟨BitVec.ofNat 8 ((byteAt old 0).v.toNat / 16 * 16 + (byteAt bs 0).v.toNat % 16), (byteAt bs 0).psn⟩]
        else pure bs
      engStore c false (← engSpread (.cmd c.id) tlbOfu c.asid (b.base + c.prog) bs.length .write sn) bs
      change fun s => (s.setColl c 2 r).modCmd c.id fun e => { e with prog := c.prog + u }) s
/-- Every other member has reported finished. -/
def State.allFinished (s : State) (d : CollDesc) : Bool :=
  d.others.all fun r => s.notes.any fun n => n.id = d.id r d.rank && n.src = d.deviceOf r && n.finished
/-- One unit of a collective's work. -/
def State.collWork (s : State) (c : Cmd) (d : CollDesc) : State :=
  match c.pos with
  | 0 => s.collRead c d
  | 1 =>
    match d.plan[c.coll_.step]? with
    | some (a, k) => s.collStep c d a k
    | none => (s.setColl c 2 (c.coll_.keep d)).modCmd c.id fun e => { e with prog := 0 }
  | 2 => s.collWrite c d
  | _ => if s.allFinished d then s.stopCmd c.id none else s
/-- The end of a member's collective: the tokens that are not satisfied finish, a failure is recorded once and told around
the ring, and the pages are free. -/
def State.collFinish (s : State) (c : Cmd) (d : CollDesc) : State :=
  let r := c.coll_
  let s := (List.range 3).foldl (fun s i => if r.toks ≤ i then s.finishToken c (c.token + BitVec.ofNat 32 i) c.fail else s) s
  let s := match c.fail with
    | some t =>
      let s := s.addRecord c (c.token + BitVec.ofNat 32 r.toks) t
      if r.told then s else s.collTell d 1 0 t.cause.toNat
    | none => s
  let mine := fun id : Nat => d.others.any fun r => d.id r d.rank = id || d.id d.rank r = id
  { s with
    cmds := s.cmds.filter fun e => e.id ≠ c.id
    pins := s.pins.filter fun p => p.1 ≠ some c.id
    notes := s.notes.filter fun n => !mine n.id
    strms := s.strms.filter fun e => !mine e.id }

/-! ## Records received (R331, R355) -/

/-- A member of this device to which a collective id is sent. -/
def State.collFor (s : State) (id : Nat) : Option (Cmd × CollDesc) :=
  s.cmds.findSome? fun c => match c.op with
    | .coll d => if id < 2 ^ 63 ∧ d.cohort = id % 2 ^ 16 ∧ d.launch % 2 ^ 16 = id / 2 ^ 16 % 2 ^ 16 ∧ d.l = id / 2 ^ 44 % 2 ^ 12 ∧
        d.ord % 2 ^ 7 = id / 2 ^ 56 % 2 ^ 7 then some (c, d) else none
    | _ => none
/-- A note added. -/
def State.note (s : State) (id src : Nat) (digest : Option Word64) (fin : Bool) : State :=
  match s.notes.find? fun n => n.id = id ∧ n.src = src with
  | some _ => { s with notes := s.notes.map fun n =>
      if n.id = id ∧ n.src = src then { n with digest := n.digest <|> digest, finished := n.finished || fin } else n }
  | none => { s with notes := s.notes ++ [{ id, src, digest, finished := fin }] }
/-- A start record: its digest is compared with the member's own. -/
def State.collStarted (s : State) (src : Nat) (r : Rec) : State :=
  let id := r.data % 2 ^ 64
  let s := s.note id src (some (BitVec.ofNat 64 (r.data / 2 ^ 64))) false
  match s.collFor id with
  | some (c, d) =>
    if c.phase = .running ∧ BitVec.ofNat 64 (r.data / 2 ^ 64) ≠ d.digest then s.stopCmd c.id (some (collTrap 0x44 d.cohort)) else s
  | none => s
/-- An abort record: the member fails with the same cause, or will when it begins. -/
def State.collAborted (s : State) (src : Nat) (r : Rec) : State :=
  match s.collFor (r.data % 2 ^ 64) with
  | some (c, d) =>
    if c.phase = .stopped then s
    else (s.stopCmd c.id (some (collTrap (BitVec.ofNat 8 r.tag) d.cohort))).modCmd c.id fun e => { e with coll := some { c.coll_ with told := true } }
  | none =>
    let id := r.data % 2 ^ 64
    let s := s.note id src none false
    { s with notes := s.notes.map fun n => if n.id = id ∧ n.src = src then { n with abort := some (BitVec.ofNat 8 r.tag) } else n }
/-- The neighbours of a member in the ring of its present step. -/
def CollDesc.ring (d : CollDesc) (step : Nat) : List Nat :=
  match d.plan[step]? with
  | some (a, _) =>
    let n := d.size a
    let j := d.coord a
    ([d.peerAt a ((j + 1) % n), d.peerAt a ((j + n - 1) % n)].filter (· ≠ d.rank)).eraseDups
  | none => []
/-- COLL_TIMEOUT (R355): no progress for OFU.COLL.TIMEOUT µs. -/
def State.collLate (s : State) (c : Cmd) : Bool :=
  c.phase = .running && (s.csr 0x100098).toNat % 2 ^ 32 * 1000 * 2 ^ 16 ≤ s.gt - c.since

end Sys2Proof.Machine
end

