-- ==== Sys2Proof/Machine/FabricEvents.lean ====
section
/-! DEFINITION. Events of the fabric: slots and flits (R328 to R334, R339 to R342), timers (R315, R332, R337), line conditions
(R345, R346, R348), the credit snapshot (R408), the table switch (R344) and the step of GT (R402). -/
namespace Sys2Proof.Machine

/-- GT.NS. -/
def State.ns (s : State) : Nat := s.gt / 2 ^ 16

/-! ## Rotations and cells (R339 to R341) -/

/-- A rotation as its registers give it. -/
structure Rot where
  en : Bool
  base : Nat
  len : Nat
  slot : Nat
  guard : Nat
  mask : Nat
deriving DecidableEq, Repr

/-- The rotation whose registers begin at an offset. -/
def State.rotAt (s : State) (off : Nat) : Rot :=
  let r := s.csr off
  { en := r.getLsbD 0, base := (s.csr (off + 8)).toNat, len := (r.extractLsb' 32 11).toNat, slot := (r.extractLsb' 15 17).toNat
    guard := (r.extractLsb' 4 11).toNat, mask := (r.extractLsb' 48 16).toNat }
/-- The active rotation: bulk, or message. -/
def State.rot (s : State) (bulk : Bool) : Rot := s.rotAt (if bulk then 0x100000 else 0x100010)
/-- Slots of a rotation begun since its BASE, the current one not counted. -/
def State.slotNow (s : State) (bulk : Bool) : Option Nat :=
  let r := s.rot bulk
  if r.en ∧ r.base ≤ s.ns ∧ r.len ≠ 0 ∧ r.slot ≠ 0 then some ((s.ns - r.base) / r.slot) else none
/-- A transmitter's cell: port, transmitter, TW, CLASS, SQ. -/
structure SlotCell where
  port : Nat
  tx : Nat
  tw : Bool
  cls : Nat
  sq : Nat
deriving DecidableEq, Repr

/-- The valid cells of a slot in the slot table at `base`. -/
def State.cellsAt (s : State) (base slot : Nat) : List SlotCell :=
  let lo := base + 2048 * slot
  let ws : List (Nat × Word64) := s.dev.filter fun e => lo ≤ e.1 ∧ e.1 < lo + 2048
  let two := ws.flatMap fun e => [(e.1 - lo, e.2.extractLsb' 0 32), (e.1 - lo + 4, e.2.extractLsb' 32 32)]
  (two.filter fun e : Nat × BitVec 32 => e.2.getLsbD 31).map fun e =>
    { port := e.1 / 64, tx := e.1 / 4 % 16, tw := e.2.getLsbD 30, cls := (e.2.extractLsb' 24 6).toNat, sq := (e.2.extractLsb' 0 10).toNat }
/-- The cells that the transmitters of a rotation read in the current slot. -/
def State.cellsNow (s : State) (bulk : Bool) : List SlotCell :=
  match s.slotNow bulk with
  | some n =>
    let mask := (s.rot false).mask
    (s.cellsAt (if bulk then 0x1000000 else 0x1400000) (n % (s.rot bulk).len)).filter fun c => mask.testBit c.tx = !bulk
  | none => []

/-! ## Lines (R328, R345, R346, R348) -/

/-- The register that holds a line's state. -/
def lineReg (port line : Nat) : Nat := 0x100100 + 8 * (4 * port + line / 32)
/-- The state of a line: 0 OK, 1 RETUNING, 2 LOST. That of an external port stands in OFU.LINE_STATE; port 32 + c is the mesh of
column c, where line `i` and its twin `i + 64` are those of transmitter `i`. -/
def State.lineState (s : State) (port line : Nat) : Nat :=
  if 32 ≤ port then s.mesh.get 0 (128 * (port - 32) + line % 128) else (s.csr (lineReg port line)).toNat / 4 ^ (line % 32) % 4
/-- A line's state written. -/
def State.setLine (s : State) (port line v : Nat) : State :=
  if 32 ≤ port then
    let key := 128 * (port - 32) + line % 128
    { s with mesh := if v = 0 then s.mesh.del key else s.mesh.put key v }
  else
    let sh := 2 * (line % 32)
    s.setCsr (lineReg port line) ((s.csr (lineReg port line) &&& ~~~((3 : Word64) <<< sh)) ||| (BitVec.ofNat 64 v <<< sh))
/-- The line that a cell's transmitter drives: the one the cell names, else its twin, where no other transmitter of the port
drives the class (R346). -/
def State.lineFor (s : State) (all : List SlotCell) (c : SlotCell) : Option Nat :=
  let want := c.cls + (if c.tw then 64 else 0)
  let twin := c.cls + (if c.tw then 0 else 64)
  if s.lineState c.port want = 0 then some want
  else if s.lineState c.port twin = 0 && !(all.any fun d => d.port = c.port && d.tx ≠ c.tx && d.cls = c.cls) then some twin
  else none

/-! ## Credits and advertisements (R333) -/

/-- The key of a neighbour, a port and a class. -/
def creditKey (nbr port cls : Nat) : Nat := (nbr * 32 + port) * 64 + cls
/-- The sender's count of free cells. -/
def State.freeCells (s : State) (key : Nat) : Nat := 64 - (s.sent.get 0 key + 128 - s.ccount.get 0 key) % 128
/-- An acknowledgment or an advertisement is owed to a device. -/
def State.owe (s : State) (p : Nat) : State :=
  let l := s.link p
  if l.owed.isSome then s else s.setLink p { l with owed := some s.gt }
/-- A cell released. -/
def State.releaseCell (s : State) (key : Nat) : State :=
  { s with released := s.released.put key ((s.released.get 0 key + 1) % 128)
           adverts := if s.adverts.contains key then s.adverts else s.adverts ++ [key] }.owe (key / 2048)

/-! ## SLOT_START (R342) -/

/-- The neighbour that a flit goes to next (R336). -/
def State.nextHop (s : State) (p : Nat) : Nat := if routeTr (s.route p) then routeVia (s.route p) else p
/-- Flits in the retransmit buffer; a copy on the second plane is the same flit. -/
def State.buffered (s : State) : Nat :=
  s.links.foldl (fun n e => n + (e.2.una.filter fun u =>
    !u.flit.plane || !(e.2.una.any fun v => v.flit.seq = u.flit.seq && !v.flit.plane)).length) 0
/-- A sequence number lies 2^17 or more beyond another of the stream (R332). DEDUCED, log entry 34. -/
def farBeyond (seq old : Nat) : Bool :=
  let d := (seq + 2 ^ 19 - old) % 2 ^ 19
  decide (2 ^ 17 ≤ d ∧ d < 2 ^ 18)
/-- A flit that is not resent may leave (R332). The flits of its stream that no ACK covers are those sent and those queued.
DEDUCED, log entry 34. -/
def State.mayStart (s : State) (f : Flit) : Bool :=
  if f.src = s.peer && f.sequenced then
    let l := s.link f.dst
    let far := fun g : Flit => farBeyond f.seq g.seq
    l.holds f || (s.buffered < 16384 && !(l.una.any fun u => far u.flit) &&
      !(s.sendq.any fun q => q.2.any fun g => g.src = s.peer && g.dst = f.dst && g.sequenced && far g))
  else decide (s.buffered < 16384)
/-- The next flit of a queue, and whether it is resent. -/
def State.nextFlit (s : State) (sq : Nat) : Option (Flit × Bool) :=
  match s.links.findSome? fun e => e.2.una.find? fun u => u.again && decide (u.sq = sq) with
  | some u => some (u.flit, true)
  | none => match s.sendq.get [] sq with
    | f :: _ => if s.mayStart f then some (f, false) else none
    | [] => none
/-- The time of a request's first send, taken from the record that leaves. -/
def State.stampSent (s : State) (f : Flit) : State :=
  if f.kind = 1 ∧ f.src = s.peer then
    let r := Rec.ofBytes (f.body.take 32) false
    if r.isRequest then
      { s with reqs := s.reqs.map fun (q : Req) =>
          if q.queued ∧ q.sentAt.isNone ∧ q.addr / 2 ^ 50 = f.dst ∧ s.wireTag q = r.tag then { q with sentAt := some s.gt } else q }
    else s
  else s
/-- A flit put on a line. It carries the acknowledgment of its stream's other direction and one advertisement; what is still to be
advertised to the device remains owed. -/
def State.emit (s : State) (f : Flit) (port line sq : Nat) : State :=
  let nbr := s.nextHop f.dst
  let key := creditKey nbr port (line % 64)
  let adv := (s.adverts.find? fun k => k / 2048 = nbr).getD (creditKey nbr 0 0)
  let own := f.src = s.peer
  let ack := if own then ((s.link f.dst).got + 2 ^ 19 - 1) % 2 ^ 19 else f.ack
  let w := f.wire ack port (adv / 64 % 32) (adv % 64) (s.released.get 0 adv)
  let s := { s with
    onWire := s.onWire ++ [(port, line, w)]
    sent := s.sent.put key ((s.sent.get 0 key + 1) % 128)
    adverts := s.adverts.filter (· ≠ adv) }
  let more := s.adverts.any fun k => k / 2048 = f.dst
  if own ∧ f.sequenced then
    let l := s.link f.dst
    let u : Sent := { flit := f, at_ := s.gt, port, line, sq }
    let same := fun x : Sent => x.flit.seq = f.seq && x.flit.plane = f.plane
    let una := if l.una.any same then l.una.map fun (x : Sent) => if same x then u else x else l.una ++ [u]
    (s.setLink f.dst { l with una, owed := if more then some s.gt else none }).stampSent f
  else if own ∧ more then s.owe f.dst
  else s
/-- The time of a flit on a fiber, 10.24 ns, in hundredths of a unit of GT (R328). -/
def flitTime : Nat := 1024 * 2 ^ 16
/-- The end of the window of slot `n` of a rotation, in the same unit (R340). -/
def State.windowEnd (s : State) (bulk : Bool) (n : Nat) : Nat :=
  let r := s.rot bulk
  (r.base + n * r.slot + r.slot - r.guard) * 2 ^ 16 * 100
/-- When the transmitter of a cell can begin its next flit. -/
def State.txTime (s : State) (c : SlotCell) : Nat := max (s.gt * 100) (s.txFree.get 0 (16 * c.port + c.tx))
/-- The flit that a transmitter can start: the next one of its queue, where its (j, k) pair has credit and it can finish within the
window. -/
def State.canSend (s : State) (fin : Nat) (c : SlotCell) (line : Nat) : Option (Flit × Bool) :=
  match s.nextFlit c.sq with
  | none => none
  | some x =>
    if s.freeCells (creditKey (s.nextHop x.1.dst) c.port (line % 64)) = 0 ∨ fin < s.txTime c + flitTime then none else some x
/-- A transmitter takes the next flit of its queue. -/
def State.transmit (fin : Nat) (s : State) (c : SlotCell) (line : Nat) : State :=
  match s.canSend fin c line with
  | none => s
  | some (f, again) =>
    let s := { s with txFree := s.txFree.put (16 * c.port + c.tx) (s.txTime c + flitTime) }.emit f c.port line c.sq
    if again then s else { s with sendq := s.sendq.put c.sq ((s.sendq.get [] c.sq).drop 1) }
/-- At most `n` flits of each transmitter, the transmitters in turn. -/
def State.drain (fin : Nat) (ts : List (SlotCell × Nat)) : Nat → State → State
  | 0, s => s
  | n + 1, s =>
    if ts.all fun t => (s.canSend fin t.1 t.2).isNone then s
    else State.drain fin ts n (ts.foldl (fun s t => s.transmit fin t.1 t.2) s)
/-- The cells of a rotation's current slot with the lines that their transmitters drive. -/
def State.senders (s : State) (bulk : Bool) : List (SlotCell × Nat) :=
  let all := s.cellsNow true ++ s.cellsNow false
  (s.cellsNow bulk).filterMap fun c => (s.lineFor all c).map fun l => (c, l)
/-- A rotation's slot begins, or a transmitter of the slot has a flit, and credit and time for it, that it had not before. -/
def State.slotDue (s : State) (bulk : Bool) : Bool :=
  !s.syncLost && (match s.slotNow bulk with
    | some n => s.lastSlot.get 0 bulk.toNat ≠ n + 1 ||
        (s.senders bulk).any fun t => (s.canSend (s.windowEnd bulk n) t.1 t.2).isSome
    | none => false)
/-- SLOT_START of the bulk or the message rotation: every transmitter whose cell is valid drains its queue within the window. What
joins its queue, or gets credit, later in the slot leaves then (R342). -/
def execSlotStart (bulk : Bool) (st : State) : Host.Outcome State Fault Refusal :=
  .next (match st.slotNow bulk with
    | some n =>
      if st.slotDue bulk then
        let fresh := decide (st.lastSlot.get 0 bulk.toNat ≠ n + 1)
        State.drain (st.windowEnd bulk n) (st.senders bulk) (st.windowEnd bulk n / flitTime)
          { st with lastSlot := st.lastSlot.put bulk.toNat (n + 1), onWire := if fresh then [] else st.onWire }
      else st
    | none => st)

/-! ## FLIT_RECEIVE, ACK, SYNC (R330 to R334, R337) -/

/-- An acknowledgment covers a sequence number. -/
def covers (ack seq : Nat) : Bool := (ack + 2 ^ 19 - seq) % 2 ^ 19 < 2 ^ 18
/-- An acknowledgment from a peer: what it covers leaves the retransmit buffer, and copies that are still queued leave too. -/
def State.acked (s : State) (p ack : Nat) : State :=
  let l := s.link p
  let mine := fun f : Flit => f.dst = p && f.src = s.peer && f.sequenced && l.holds f && covers ack f.seq
  let keep := fun e : Nat × List Flit => (e.1, e.2.filter fun f => !mine f)
  let s := { s with sendq := s.sendq.map keep }
  s.setLink p { l with una := l.una.filter fun u => !covers ack u.flit.seq }
/-- Flits that continue the stream without a gap. -/
def Link.advance (l : Link) : Nat → Link
  | 0 => l
  | n + 1 =>
    match l.held.find? fun e => e.2.seq = l.got with
    | some e => Link.advance { l with held := l.held.erase e, open_ := l.open_ ++ [e], got := (l.got + 1) % 2 ^ 19 } n
    | none => l
/-- Packets that are whole are taken in order, and their cells released. -/
def State.takeWhole (src : Nat) : Nat → State → State
  | 0, s => s
  | n + 1, s =>
    let l := s.link src
    if l.open_.any fun e => e.2.last then
      let k := (l.open_.takeWhile fun e => !e.2.last).length + 1
      let s := (s.setLink src { l with open_ := l.open_.drop k }).takePacket src ((l.open_.take k).map (·.2))
      State.takeWhole src n ((l.open_.take k).foldl (fun s e => s.releaseCell e.1) s)
    else s
/-- A flit of a stream to this device. -/
def State.streamIn (s : State) (key : Nat) (f : Flit) : State :=
  let l := s.link f.src
  let old := covers ((l.got + 2 ^ 19 - 1) % 2 ^ 19) f.seq || l.held.any fun e => e.2.seq = f.seq
  if old then (s.releaseCell key).owe f.src
  else
    let l := { l with held := l.held ++ [(key, f)] }
    let l := l.advance l.held.length
    (State.takeWhole f.src l.open_.length (s.setLink f.src l)).owe f.src
/-- A flit that a transit peer forwards, or discards and counts. It keeps its cell until the send queue has room (R333). -/
def State.forwardFlit (s : State) (key : Nat) (f : Flit) : State :=
  let e := s.route f.dst
  if !f.transit && e.getLsbD 63 && !routeTr e then
    State.unblock State.releaseCell { s with passing := s.passing ++ [(key, { f with transit := true })] }
  else (s.bump csrBadFlit).releaseCell key
/-- What follows every turn: what waits for room in a send queue, and requests for peers, set out (R299). -/
def State.setOut (s : State) : State := (s.unblock State.releaseCell).pump
/-- A flit that arrives from a neighbour's port on a class; `ctl` says which kinds for this device are meant. -/
def State.flitIn (s : State) (w : BitVec 2176) (nbr port cls : Nat) (ctl : Nat → Bool) : State :=
  let key := creditKey nbr port cls
  if !crcGood w then if ctl 0 then s.releaseCell key else s
  else
    let f : Flit := { Flit.ofWire w with ack := hdr w 76 58 }
    let mine := decide (f.dst = s.peer)
    if (!mine && !ctl 0) || (mine && !ctl f.kind) then s
    else
      let s := { s with ccount := s.ccount.put (creditKey nbr (hdr w 52 48) (hdr w 47 42)) (hdr w 41 35) }
      if 5 ≤ f.kind then (s.bump csrBadFlit).releaseCell key
      else if !mine then s.forwardFlit key f
      else
        let s := s.acked f.src f.ack
        if f.sequenced then s.streamIn key f else s.releaseCell key
/-- FLIT_RECEIVE: a flit that is bad, in transit, or of a stream to this device. -/
def execFlitReceive (flit : BitVec 2176) (nbr : BitVec 14) (port : BitVec 5) (cls : BitVec 6) (st : State) :
    Host.Outcome State Fault Refusal :=
  .next (st.flitIn flit nbr.toNat port.toNat cls.toNat fun k => k ≠ 2 && k ≠ 4)
/-- ACK: an ACK flit for this device. -/
def execAck (flit : BitVec 2176) (nbr : BitVec 14) (port : BitVec 5) (cls : BitVec 6) (st : State) : Host.Outcome State Fault Refusal :=
  .next (st.flitIn flit nbr.toNat port.toNat cls.toNat fun k => k = 2)
/-- SYNC: a flit with an IEEE 1588 message. What the servo makes of its timestamp is the rate of GT, which is time; DEDUCED, log entry
26. -/
def execSync (flit : BitVec 2176) (nbr : BitVec 14) (port : BitVec 5) (cls : BitVec 6) (st : State) : Host.Outcome State Fault Refusal :=
  .next (st.flitIn flit nbr.toNat port.toNat cls.toNat fun k => k = 4)

/-! ## Timers (R315, R332, R337) -/

/-- Flits of the stream to a peer that are due to be sent again. -/
def State.resendDue (s : State) (p : Nat) : Bool :=
  (s.link p).una.any fun u => !u.again && decide (u.at_ + (s.csr 0x100090).toNat % 2 ^ 32 * 2 ^ 16 ≤ s.gt)
/-- RETRANSMIT_TIMEOUT of the stream to a peer. -/
def execRetransmitTimeout (p : BitVec 14) (st : State) : Host.Outcome State Fault Refusal :=
  let l := st.link p.toNat
  let late := fun u : Sent => u.at_ + (st.csr 0x100090).toNat % 2 ^ 32 * 2 ^ 16 ≤ st.gt
  .next (if st.resendDue p.toNat then
      st.setLink p.toNat { l with una := l.una.map fun (u : Sent) => { u with again := u.again || decide (late u) } }
    else st)
/-- An acknowledgment or advertisement has been owed for 1 µs, and the message queue has room. DEDUCED, log entry 34. -/
def State.ackDue (s : State) (p : Nat) : Bool :=
  match (s.link p).owed with
  | some t => decide (t + microsecond ≤ s.gt) && s.routed p && (routeQueues (s.route p) false).all (s.queueRoom · 1)
  | none => false
/-- ACK_TIMER: an ACK flit to a device leads its message queue, and its copy that of the second plane (R335). -/
def execAckTimer (p : BitVec 14) (st : State) : Host.Outcome State Fault Refusal :=
  let n := p.toNat
  .next (if st.ackDue n then
      let e := st.route n
      let f : Flit := { dst := n, src := st.peer, kind := 2, body := List.replicate 256 0 }
      let lead := fun (s : State) (q : Nat) (f : Flit) => { s with sendq := s.sendq.put q (f :: s.sendq.get [] q) }
      let s := lead (st.setLink n { st.link n with owed := none }) (routeMsq e) f
      if routeDup e then lead s (routeMsq2 e) { f with plane := true } else s
    else st)
/-- A request has had no answer for OFU.LINK.E2E µs. -/
def State.answerLate (s : State) (r : Req) : Bool :=
  r.ans.isNone && (match r.sentAt with
    | some t => decide (t + (s.csr 0x100090).toNat / 2 ^ 32 * microsecond ≤ s.gt)
    | none => false)
/-- E2E_TIMEOUT of request `n`. A clasp's close asks once for its status (R322) before it fails. -/
def execE2eTimeout (n : Nat) (st : State) : Host.Outcome State Fault Refusal :=
  .next (match st.reqs.find? fun r => r.tag = n with
    | some r =>
      if st.answerLate r then
        match r.act, r.query with
        | .clasp 1 _ _, false =>
          { st with reqs := st.reqs.map fun (q : Req) => if q.tag = n then { q with query := true, queued := false, sentAt := none } else q }
        | _, _ => st.answer r (.fail 0x41 (BitVec.ofNat 64 (r.addr / 2 ^ 50)))
      else st
    | none => st)
/-- A held request is due. -/
def State.retryDue (s : State) (r : Req) : Bool := r.ans.isNone && r.hold ≠ 0 && decide (r.hold ≤ s.gt)
/-- RETRY_RESEND of request `n`. -/
def execRetryResend (n : Nat) (st : State) : Host.Outcome State Fault Refusal :=
  .next { st with reqs := st.reqs.map fun (q : Req) =>
    if q.tag = n ∧ st.retryDue q = true then { q with hold := 0, queued := false } else q }

/-! ## Line conditions (R345, R346, R348) -/

/-- A vector raised when a record joins an empty queue (R435). -/
def State.raiseFor (s : State) (empty : Bool) (en lo : Nat) : State :=
  let r := s.csr 0x90100
  if empty ∧ r.getLsbD en then { s with irqs := s.irqs ++ [(r.extractLsb' lo 8).toNat] } else s
/-- A record joins OFU.EVENT. -/
def State.lineEvent (s : State) (code port line : Nat) : State :=
  let w := BitVec.ofNat 64 (code * 2 ^ 56 + port % 64 * 2 ^ 50 + line % 128 * 2 ^ 43 + s.ns % 2 ^ 43)
  if s.ofuEvents.length < 16 then
    { s with ofuEvents := s.ofuEvents ++ [w] }.raiseFor s.ofuEvents.isEmpty 16 0
  else { s with ofuOvf := true }
/-- Flits that a line carried are sent again. -/
def State.resendLine (s : State) (port : Nat) (p : Nat → Bool) : State :=
  { s with links := s.links.map fun e =>
      (e.1, { e.2 with una := e.2.una.map fun (u : Sent) => { u with again := u.again || (decide (u.port = port) && p u.line) } }) }
/-- A line that weakens or drifts becomes RETUNING. -/
def State.weaken (s : State) (code : Nat) (port : BitVec 6) (line : BitVec 7) : State :=
  let j := port.toNat
  let s := s.lineEvent code j line.toNat
  if s.lineState j line.toNat = 0 then (s.setLine j line.toNat 1).resendLine j (· = line.toNat) else s
/-- A port number that names an external port or a column's mesh. -/
def portValid (port : BitVec 6) : Bool := port.toNat < 48
def execLineWeak (port : BitVec 6) (line : BitVec 7) (st : State) : Host.Outcome State Fault Refusal :=
  .next (if portValid port then st.weaken 1 port line else st)
def execLineDrift (port : BitVec 6) (line : BitVec 7) (st : State) : Host.Outcome State Fault Refusal :=
  .next (if portValid port then st.weaken 2 port line else st)
/-- MESH.SPARE of a column. -/
def meshSpare (col : Nat) : Nat := 0x100500 + 8 * col
/-- Both lines of a mesh transmitter are lost. -/
def State.meshDark (s : State) (col tx : Nat) : Bool := s.lineState (32 + col) tx = 2 && s.lineState (32 + col) (tx + 64) = 2
/-- The transmitter whose traffic spare `60 + i` of a column carries. -/
def State.spareFor (s : State) (col i : Nat) : Option Nat :=
  let b := ((s.csr (meshSpare col)).extractLsb' (8 * i) 8).toNat
  if 128 ≤ b then some (b % 128) else none
/-- The traffic of transmitter `tx` handed to the lowest spare that is unused and not lost. -/
def State.handSpare (s : State) (col tx : Nat) : State :=
  let set := fun (s : State) (i b : Nat) => s.setCsr (meshSpare col)
    ((s.csr (meshSpare col) &&& ~~~((0xFF : Word64) <<< (8 * i))) ||| (BitVec.ofNat 64 b <<< (8 * i)))
  match (List.range 4).find? fun i => (s.spareFor col i).isNone && !s.meshDark col (60 + i) with
  | some i => set s i (128 + tx)
  | none => s
/-- A transmitter of a column's mesh has lost a line. When it has lost both, a spare takes its traffic, or that of the transmitter for
which it stood in as a spare. DEDUCED, log entry 34. -/
def State.meshLost (s : State) (col tx : Nat) : State :=
  if !s.meshDark col tx then s
  else if tx < 60 then
    if (List.range 4).any fun i => s.spareFor col i = some tx then s else s.handSpare col tx
  else match s.spareFor col (tx - 60) with
    | some t => (s.setCsr (meshSpare col) (s.csr (meshSpare col) &&& ~~~((0xFF : Word64) <<< (8 * (tx - 60))))).handSpare col t
    | none => s
def execLineLost (port : BitVec 6) (line : BitVec 7) (st : State) : Host.Outcome State Fault Refusal :=
  let j := port.toNat
  .next (if portValid port then
      let s := ((st.lineEvent 3 j line.toNat).setLine j line.toNat 2).resendLine j (· = line.toNat)
      if j < 32 then s else s.meshLost (j - 32) (line.toNat % 64)
    else st)

/-! ## The mesh between the columns (R17, R19, R330, R348) -/

/-- The column that internal transmitter `i`, 0 to 59, of column `c` serves (R17). -/
def meshDest (c i : Nat) : Nat := (c + 1 + i / 4) % 16
/-- The transmitters of column `c` that serve column `d`. -/
def meshGroup (c d : Nat) : List Nat := (List.range 60).filter fun i => meshDest c i = d
/-- The line that a mesh transmitter drives: its own, else the twin, while it is OK. -/
def State.meshLine (s : State) (c i : Nat) : Option Nat :=
  if s.lineState (32 + c) i = 0 then some i else if s.lineState (32 + c) (i + 64) = 0 then some (i + 64) else none
/-- The transmitters that carry the traffic from column `c` to column `d`, with the lines they drive: those of the group, and the
spares that stand in for some of them. -/
def State.meshCarriers (s : State) (c d : Nat) : List (Nat × Nat) :=
  let g := meshGroup c d
  let spares := (List.range 4).filterMap fun i => match s.spareFor c i with | some t => if g.contains t then some (60 + i) else none | none => none
  (g ++ spares).filterMap fun i => (s.meshLine c i).map fun l => (i, l)
/-- Column `c` reaches column `d` itself. -/
def State.meshDirect (s : State) (c d : Nat) : Bool := c = d || !(s.meshCarriers c d).isEmpty
/-- The columns that a mesh flit from `c` to `d` passes: none between them, or when the whole group is lost the lowest column whose
paths from `c` and to `d` are intact (R348). -/
def State.meshPath (s : State) (c d : Nat) : Option (List Nat) :=
  if s.meshDirect c d then some [c, d]
  else ((List.range 16).find? fun r => r ≠ c && r ≠ d && s.meshDirect c r && s.meshDirect r d).map fun r => [c, r, d]
/-- A mesh flit as it stands on a line: DST and SRC hold column numbers, and SPORT, CPORT and CCLASS are 0 (R19, R330). -/
def meshWire (f : Flit) (from_ to_ ack ccount : Nat) : BitVec 2176 :=
  { f with dst := to_ % 16, src := from_ % 16 }.wire ack 0 0 0 ccount
/-- What a mesh flit carries, read from a line: the columns from and to which it goes, and the flit. -/
def ofMeshWire (w : BitVec 2176) : Nat × Nat × Flit := (hdr w 103 100, hdr w 117 114, Flit.ofWire w)
/-- COMB_LOST. LINE of its record is not stated: a free value. -/
def execCombLost (port : BitVec 5) (st : State) : Host.Outcome State Fault Refusal :=
  let (n, s) := st.draw Config.number
  let s := s.lineEvent 4 port.toNat n
  .next (((List.range 128).foldl (fun s l => s.setLine port.toNat l 2) s).resendLine port.toNat fun _ => true)
/-- SYNC_LOST fences every transmitter. PORT and LINE of its record are not stated: free values. DEDUCED, log entry 38. -/
def execSyncLost (st : State) : Host.Outcome State Fault Refusal :=
  let (m, s) := st.draw Config.number
  let (n, s) := s.draw Config.number
  .next { s.lineEvent 5 m n with syncLost := true }
/-- SYNC_RESTORED: transmission resumes at the next slot boundary. -/
def execSyncRestored (st : State) : Host.Outcome State Fault Refusal :=
  let now := fun b : Bool => match st.slotNow b with | some n => n + 1 | none => st.lastSlot.get 0 b.toNat
  .next (if st.syncLost then { st with syncLost := false, lastSlot := (st.lastSlot.put 0 (now false)).put 1 (now true) } else st)
/-- RETUNE_COMPLETE: a RETUNING line becomes OK. -/
def execRetuneComplete (port : BitVec 6) (line : BitVec 7) (st : State) : Host.Outcome State Fault Refusal :=
  .next (if st.lineState port.toNat line.toNat = 1 then st.setLine port.toNat line.toNat 0 else st)
/-- PORT_REQUALIFY: the LOST lines of a port return to OK. -/
def execPortRequalify (port : BitVec 6) (st : State) : Host.Outcome State Fault Refusal :=
  let j := port.toNat
  .next (if j < 32 then (List.range 128).foldl (fun s l => if s.lineState j l = 2 then s.setLine j l 0 else s) st
    else if j < 48 then
      ((List.range 128).foldl (fun s l => if s.lineState j l = 2 then s.setLine j l 0 else s) st).setCsr (meshSpare (j - 32)) 0
    else st)
/-- OFU_EVENT_READ: the oldest record leaves the queue, and OVF is cleared. -/
def execOfuEventRead (st : State) : Host.Outcome State Fault Refusal :=
  let w := st.ofuEvents.headD 0 ||| (if st.ofuOvf then 0x8000000000000000 else 0)
  .next { st with readOut := w, ofuEvents := st.ofuEvents.drop 1, ofuOvf := false }

/-! ## OFU_CRED_SEL_WRITE (R408) -/

/-- OFU.CRED of a selection. -/
def State.credWord (s : State) (v : Word64) : Word64 :=
  let key := creditKey (v.extractLsb' 16 14).toNat (v.extractLsb' 8 5).toNat (v.extractLsb' 0 6).toNat
  BitVec.ofNat 64 (s.freeCells key * 2 ^ 16 + s.sent.get 0 key % 128 * 2 ^ 8 + s.ccount.get 0 key % 128)
def execOfuCredSelWrite (v : Word64) (st : State) : Host.Outcome State Fault Refusal :=
  let v := v &&& 0x3FFF1F3F
  .next ((st.setCsr 0x70010 v).setCsr 0x70018 (st.credWord v))

/-! ## TABLE_SWITCH (R344) -/

/-- The entries of `[a, a + n)` and of `[b, b + n)` exchanged, where the first range lies below the second. -/
def swapRange {α : Type} (m : Sparse α) (a b n : Nat) : Sparse α :=
  m.filter (fun e => e.1 < a) ++ (m.filter fun e => b ≤ e.1 && e.1 < b + n).map (fun e => (e.1 - (b - a), e.2)) ++
    m.filter (fun e => a + n ≤ e.1 && e.1 < b) ++ (m.filter fun e => a ≤ e.1 && e.1 < a + n).map (fun e => (e.1 + (b - a), e.2)) ++
    m.filter fun e => b + n ≤ e.1
/-- Every active table exchanged with its shadow. -/
def State.swapTables (s : State) : State :=
  let d := swapRange s.dev 0x100000 0x100040 0x20
  let d := swapRange d 0x200000 0x300000 0x20000
  let d := swapRange d 0x1000000 0x1200000 0x200000
  { s with dev := swapRange d 0x1400000 0x1420000 0x20000 }
/-- The queue that a flit in queue `sq` of a peer moves to as the peer's entry changes; a copy on the second plane goes to MSQ where
the new entry has no second plane. -/
def movedQueue (old new : Word64) (f : Flit) (sq : Nat) : Nat :=
  if f.plane then if routeDup new then routeMsq2 new else routeMsq new
  else if sq = routeBsq old ∧ (sq ≠ routeMsq old ∨ f.kind = 0) then routeBsq new
  else routeMsq new
/-- Queued flits move to the queues of changed entries; flits in the retransmit buffer are resent there. -/
def State.moveFlits (s : State) (old : Nat → Word64) : State :=
  let dest := fun (f : Flit) (sq : Nat) =>
    if old f.dst = s.route f.dst then sq else movedQueue (old f.dst) (s.route f.dst) f sq
  let all : List (Nat × Flit × Bool) := s.sendq.flatMap fun e => e.2.map fun f => (dest f e.1, f, decide (dest f e.1 = e.1))
  let keep : Sparse (List Flit) := s.sendq.map fun e => (e.1, e.2.filter fun f => dest f e.1 = e.1)
  let put := fun (q : Sparse (List Flit)) (e : Nat × Flit × Bool) => q.put e.1 (q.get [] e.1 ++ [e.2.1])
  let turn := fun u : Sent => { u with sq := dest u.flit u.sq, again := u.again || decide (old u.flit.dst ≠ s.route u.flit.dst) }
  let links := s.links.map fun e => (e.1, { e.2 with una := e.2.una.map turn })
  { s with sendq := (all.filter fun e => !e.2.2).foldl put keep, links }
/-- The cells of the active tables that name a queue of an entry. -/
def State.pathCells (s : State) (e : Word64) : List (Nat × Word64) :=
  let q := fun c : BitVec 32 => c.getLsbD 31 && decide ((c.extractLsb' 0 10).toNat ∈
    [routeBsq e, routeMsq e] ++ if routeDup e then [routeMsq2 e] else [])
  let tab := s.dev.filter fun x => (0x1000000 ≤ x.1 && x.1 < 0x1200000) || (0x1400000 ≤ x.1 && x.1 < 0x1420000)
  (tab.map fun x => (x.1,
    (if q (x.2.extractLsb' 32 32) then x.2.extractLsb' 32 32 else 0) ++ (if q (x.2.extractLsb' 0 32) then x.2.extractLsb' 0 32 else 0))).filter
    fun x => x.2 ≠ 0
/-- The request of a group's close. -/
def Req.closes (r : Req) (grp : Nat) : Bool := match r.act with | .clasp 1 n _ => n = grp | _ => false
/-- A group's close called back before the peer is known to hold it: in its flit, which keeps its place in the stream, an abort takes
its place, and the peer is asked what became of the group (R322, R323). DEDUCED, log entry 33. -/
def State.recallClose (s : State) (g : Clasp) : State :=
  let turn := fun f : Flit =>
    if f.dst = g.peer ∧ f.src = s.peer ∧ f.kind = 1 ∧ isClose g.grp (Rec.ofBytes (f.body.take 32) false) = true then
      { f with body := f.body.set 4 3 }
    else f
  { s with
    sendq := s.sendq.map fun e => (e.1, e.2.map turn)
    outQ := s.outQ.map fun p => if p.dst = g.peer then { p with recs := p.recs.map fun r => if isClose g.grp r then { r with aux := 3 } else r } else p
    links := s.links.map fun e => (e.1, { e.2 with una := e.2.una.map fun (u : Sent) => { u with flit := turn u.flit } })
    clasps := s.clasps.map fun (x : Clasp) => if x.grp = g.grp then { x with recalled := true } else x
    reqs := s.reqs.map fun (r : Req) => if r.closes g.grp then { r with query := true, queued := false, sentAt := none } else r }
/-- A group whose peer's path has changed: it aborts, but if its close is on its way the peer has the last word, and if the peer holds
the close it is committed. -/
def State.pathChanged (s : State) (g : Clasp) : State :=
  match s.reqs.find? fun r => r.closes g.grp with
  | some r =>
    if r.ans.isSome || g.recalled || s.closeHeld g then s
    else if !r.queued && !r.query then s.modClasp g.grp fun x => { x with aborted := true }
    else s.recallClose g
  | none => s.modClasp g.grp fun x => { x with aborted := true }
/-- Groups whose peer's path differs from what it was. -/
def State.abortPaths (s : State) (before : State) : State :=
  let same := fun p => p = s.peer || (s.route p = before.route p && s.pathCells (s.route p) = before.pathCells (before.route p))
  (s.clasps.filter fun g => !same g.peer).foldl State.pathChanged s
/-- The time of an armed switch has come. -/
def State.switchDue (s : State) : Bool := (s.csr 0x100088).getLsbD 63 && decide ((s.csr 0x100080).toNat ≤ s.ns)
/-- TABLE_SWITCH. -/
def execTableSwitch (st : State) : Host.Outcome State Fault Refusal :=
  let c := (st.csr 0x100088).toNat % 2 ^ 32
  .next (if !st.switchDue then st
    else if st.syncLost then st.setCsr 0x100088 (BitVec.ofNat 64 (5 * 2 ^ 60 + c))
    else
      let s := (st.swapTables.moveFlits st.route).abortPaths st
      s.setCsr 0x100088 (BitVec.ofNat 64 (2 ^ 60 + (c + 1) % 2 ^ 32)))

/-! ## GT_STEP (R402) -/

/-- GT_STEP: firmware steps GT forward by `amount` × 2^-16 ns while SYNC_LOST holds; time triggers that it crosses fire. -/
def execGtStep (amount : Word64) (st : State) : Host.Outcome State Fault Refusal :=
  .next (if st.syncLost then { st with gt := st.gt + amount.toNat }.crossTime else st)

end Sys2Proof.Machine
end

