-- ==== Sys2Proof/Machine/VectorLanes.lean ====
section
/-! DEFINITION. Elements and lanes of vector registers (R32, R150 to R153), and the approximations of R41. -/
namespace Sys2Proof.Machine

/-! ## Elements -/

/-- An element: its bits, its poison, and the flags that produced it. -/
structure Elt where
  v : Nat := 0
  psn : Bool := false
  fl : BitVec 5 := 0
deriving DecidableEq, Repr

/-- A poisoned element: value bits 0, no flag (R152). -/
def Elt.bad : Elt := { psn := true }

/-- Element `e` of width `w` of vN (R32, R150); a 64-bit element is poisoned when either lane is (R152). -/
def Regs.elt (r : Regs) (n w e : Nat) : Elt :=
  if w = 64 then
    let lo := r.rv n (2 * e)
    let hi := r.rv n (2 * e + 1)
    { v := lo.v.toNat + hi.v.toNat * 2 ^ 32, psn := lo.psn || hi.psn }
  else
    let x := r.rv n (e * w / 32)
    { v := x.v.toNat / 2 ^ (e * w % 32) % 2 ^ w, psn := x.psn }
/-- The low `w` bits of xN as an element (R153). -/
def Regs.scalar (r : Regs) (n w : Nat) : Elt := { v := (r.rx n).v.toNat % 2 ^ w, psn := (r.rx n).psn }
/-- Element `e` of vB, or xB with BS = 1 (R153). -/
def Regs.second (r : Regs) (bs : Bool) (b w e : Nat) : Elt := if bs then r.scalar b w else r.elt b w e

/-- The elements of one lane put together. -/
def packLane (w : Nat) (es : List Elt) : Elt :=
  es.foldr (fun e acc => { v := e.v % 2 ^ w + 2 ^ w * acc.v, psn := e.psn || acc.psn, fl := e.fl ||| acc.fl }) {}
/-- The two lanes of a 64-bit element. -/
def splitLanes (e : Elt) : List Elt := [{ v := e.v % 2 ^ 32, psn := e.psn, fl := e.fl }, { v := e.v / 2 ^ 32 % 2 ^ 32, psn := e.psn }]
/-- What an instruction writes to the 64 lanes, `f` its element function: nothing where the mask lane is clear (R150,
R151). -/
def Regs.lanes (r : Regs) (w : Nat) (f : Nat → Elt) : List (Option Elt) :=
  if w = 64 then
    (List.range 32).flatMap fun e => if r.active (2 * e) then (splitLanes (f e)).map some else [none, none]
  else
    (List.range 64).map fun l =>
      if r.active l then some (packLane w ((List.range (32 / w)).map fun i => f (l * (32 / w) + i))) else none
/-- The lanes written to vN; a lane without a value keeps its bits. -/
def Regs.wLanes (r : Regs) (n : Nat) (ls : List (Option Elt)) : Regs :=
  { r with v := r.v.splice (64 * n) ls.length (ls.mapIdx fun l o =>
      (64 * n + l, match o with | some e => ⟨BitVec.ofNat 32 e.v, e.psn⟩ | none => r.rv n l)) }
/-- The flags of the lanes (R39). -/
def flagsOf (ls : List (Option Elt)) : BitVec 5 := ls.foldl (fun f o => match o with | some e => f ||| e.fl | none => f) 0

/-- A vector slot: the lanes of vD, from the registers read at issue. -/
def vecSlot (d : BitVec 6) (f : Regs → List (Option Elt)) (st : State) : Host.Outcome State Fault Refusal :=
  let ls := f st.old
  .next ((st.modRegs fun r => r.wLanes d.toNat ls).setFlags (flagsOf ls)).retire

/-- An element of clean operands by `g`; a poisoned operand makes it poisoned (R152). -/
def lift1 (a : Elt) (g : Nat → Nat × BitVec 5) : Elt :=
  if a.psn then .bad else let r := g a.v; { v := r.1, fl := r.2 }
def lift2 (a b : Elt) (g : Nat → Nat → Nat × BitVec 5) : Elt :=
  if a.psn || b.psn then .bad else let r := g a.v b.v; { v := r.1, fl := r.2 }
def lift3 (a b c : Elt) (g : Nat → Nat → Nat → Nat × BitVec 5) : Elt :=
  if a.psn || b.psn || c.psn then .bad else let r := g a.v b.v c.v; { v := r.1, fl := r.2 }

/-- Element types 0 to 15 of R97. -/
def eltType (v : BitVec 4) : NumType :=
  match v.toNat with
  | 0 => .int 8 true | 1 => .int 16 true | 2 => .int 32 true | 3 => .int 64 true
  | 4 => .int 8 false | 5 => .int 16 false | 6 => .int 32 false | 7 => .int 64 false
  | 8 => .fl .f64 | 9 => .fl .f32 | 10 => .fl .f16 | 11 => .fl .bf16
  | 12 => .fl .e5m2 | 13 => .fl .e4m3 | 14 => .fl .e2m1 | _ => .q32
/-- The integers of a type; q32 acts as s64 (R157). -/
def NumType.asInt : NumType → Nat × Bool | .int n g => (n, g) | _ => (64, true)
/-- The width in bits of W (R161, R167, R172). -/
def widthOf (w : BitVec 2) : Nat := 8 * 2 ^ w.toNat

/-! ## Approximations (R41) -/

/-- A positive value (m + sticky part) × 2^e rounded to 12 significant bits and delivered as FP32. -/
def approxOut (neg : Bool) (m : Nat) (e : Int) (sticky : Bool) : Nat × BitVec 5 :=
  Fmt.f32.deliver false neg true (onGrid 12 Fmt.f32.emin (roundUp 0 neg) m e sticky)
/-- ±∞, +0 of FP32. -/
def f32Inf (neg : Bool) : Nat := Fmt.f32.sign neg + Fmt.f32.infBits
/-- VRCPE. -/
def approxRcp (x : Nat) : Nat × BitVec 5 :=
  match Fmt.f32.value x with
  | .nan s => Fmt.f32.nanOut s
  | .inf n => (Fmt.f32.sign n, 0)
  | .num n m e =>
    if m = 0 then (f32Inf n, fDZ)
    else
      let k := bitLen m + 16
      approxOut n (2 ^ k / m) (-k - e) (2 ^ k % m ≠ 0)
/-- VRSQRTE. -/
def approxRsqrt (x : Nat) : Nat × BitVec 5 :=
  match Fmt.f32.value x with
  | .nan s => Fmt.f32.nanOut s
  | .inf n => if n then (Fmt.f32.nan, fIV) else (0, 0)
  | .num n m e =>
    if m = 0 then (f32Inf n, fDZ)
    else if n then (Fmt.f32.nan, fIV)
    else
      -- 1 / √(m × 2^e) with e even
      let m := if e % 2 = 0 then m else 2 * m
      let e := if e % 2 = 0 then e else e - 1
      let r := fpSqrt.rootOf (2 ^ 80 / m)
      approxOut false r (-40 - e / 2) (r * r * m ≠ 2 ^ 80)

/-- ln 2 in units of 2^-200. -/
def ln2 : Nat := 1113844574712631719546256151097547306333272293549090750737802
/-- e^y − 1 in units of 2^-200, for y in the same units below 1: the power series, each term rounded down. -/
def expSum (y : Nat) : Nat :=
  ((List.range 45).foldl (fun (p : Nat × Nat) i =>
    let t := p.2 * y / 2 ^ 200 / (i + 1)
    (p.1 + t, t)) (0, 2 ^ 200)).1
/-- VEXP2E. -/
def approxExp2 (x : Nat) : Nat × BitVec 5 :=
  match Fmt.f32.value x with
  | .nan s => Fmt.f32.nanOut s
  | .inf n => (if n then 0 else f32Inf false, 0)
  | .num n m e =>
    if m = 0 then (Fmt.f32.encode 1 0, 0)
    -- magnitudes of 2^8 and more leave the range of FP32 either way
    else if 8 < (Nat.log2 m : Int) + e then (if n then approxOut false 1 (-200) false else approxOut false 1 200 false)
    else
      -- x × 2^149 is an integer
      let v : Int := (if n then -1 else 1) * (m * 2 ^ (e + 149).toNat : Nat)
      let i := v / 2 ^ 149
      let f := (v % 2 ^ 149).toNat
      if f = 0 then approxOut false 1 i false
      else approxOut false (2 ^ 200 + expSum (f * ln2 / 2 ^ 149)) (i - 200) true

/-- ln((1 + z) / (1 − z)) in units of 2^-200, for z in the same units, at most 1/3: the power series. -/
def lnSum (z : Nat) : Nat :=
  let zz := z * z / 2 ^ 200
  2 * ((List.range 65).foldl (fun (p : Nat × Nat) i => (p.1 + p.2 / (2 * i + 1), p.2 * zz / 2 ^ 200)) (0, z)).1
/-- VLOG2E. The exact 0 of log2 1.0 is delivered as +0: DEDUCED, log entry 49. -/
def approxLog2 (x : Nat) : Nat × BitVec 5 :=
  match Fmt.f32.value x with
  | .nan s => Fmt.f32.nanOut s
  | .inf n => if n then (Fmt.f32.nan, fIV) else (f32Inf false, 0)
  | .num n m e =>
    if m = 0 then (f32Inf true, fDZ)
    else if n then (Fmt.f32.nan, fIV)
    else
      let k := Nat.log2 m
      let i : Int := e + k
      let z := (m - 2 ^ k) * 2 ^ 200 / (m + 2 ^ k)
      if m = 2 ^ k then (if i = 0 then (0, 0) else approxOut (i < 0) i.natAbs 0 false)
      else
        let v : Int := i * 2 ^ 200 + (lnSum z * 2 ^ 200 / ln2 : Nat)
        approxOut (v < 0) v.natAbs (-200) true

end Sys2Proof.Machine
end

