-- ==== Sys2Proof/Machine/Scratch.lean ====
section
/-! DEFINITION. Scratchpad words (R264 to R266) and vector access (R267 to R269). -/
namespace Sys2Proof.Machine

/-! ## LDS, STS (R264) -/

/-- A loaded value in an x register: extended, poisoned when a byte is. -/
def loaded (bs : List (Val 8)) (sx : Bool) : Val 64 :=
  let n := bs.length * 8
  if anyPsn bs then ⟨0, true⟩
  else ⟨if sx then (BitVec.ofNat n (leNat bs)).signExtend 64 else BitVec.ofNat 64 (leNat bs), false⟩
/-- Bytes read at a device-local address. -/
def peekM (a n : Nat) : M (List (Val 8)) := reads fun s => s.peekN a n

/-- LDS: `c` CAP, `x` SX, `z` SZ. -/
def execLds (d a b : BitVec 6) (i c x : Bool) (z : BitVec 2) (st : State) : Host.Outcome State Fault Refusal :=
  let n := if c then 16 else 2 ^ z.toNat
  slotOut (do
    let p ← scratchForm a.toNat i b n n
    let bs ← peekM p n
    if c then
      let tag ← reads fun s => (List.range 4).all fun j => s.isCap (p + 4 * j)
      setRegs fun r => r.wc d.toNat (if anyPsn bs then { psn := true } else { bits := BitVec.ofNat 128 (leNat bs), tag })
    else setX d.toNat (loaded bs x)) st
/-- STS. -/
def execSts (d a b : BitVec 6) (i c : Bool) (z : BitVec 2) (st : State) : Host.Outcome State Fault Refusal :=
  let n := if c then 16 else 2 ^ z.toNat
  slotOut (do
    let p ← scratchForm a.toNat i b n n
    if c then
      let v ← reads fun s => s.old.rc d.toNat
      change fun s =>
        let s := s.pokeL .fill p (toBytes 16 v.bits.toNat v.psn)
        (List.range 4).foldl (fun s j => s.setC (p + 4 * j) v.tag) s
    else
      let v ← reads fun s => s.old.rx d.toNat
      change fun s => s.pokeL .fill p (toBytes n v.v.toNat v.psn)) st

/-! ## LDT, STT (R265, R266) -/

/-- A wait of the full/empty test of the word at scratchpad address `a`: the time it began is kept, and its place among the waiting
operations (R247). -/
def tagHold {α : Type} (a : Word64) : M α := fun s =>
  match (s.ctx s.cur).tagWait with
  | some (b, _) => if b = a then .error (.wait s) else .error (.wait (s.modCtx s.cur fun c => { c with tagWait := some (a, s.gt) }))
  | none =>
    .error (.wait ({ s with tagLine := s.tagLine.filter (· ≠ s.cur) ++ [s.cur] }.modCtx s.cur fun c => { c with tagWait := some (a, s.gt) }))
/-- The address of a tagged access of `n` bytes, in both forms. -/
def tagForm (a : Nat) (i : Bool) (b : BitVec 6) (n : Nat) : M (Word64 × Nat) := do
  let base ← xClean a
  let off ← offset i b
  pure (base + off, ← scratchAt (base + off) n n)
/-- Every word of the access is full, or every one is empty. -/
def State.allFull (s : State) (p n : Nat) (full : Bool) : Bool :=
  (List.range (n / 4)).all fun j => s.isFull (p + 4 * j) == full
/-- F of every word set or cleared. -/
def State.setTags (s : State) (p n : Nat) (b : Bool) : State := (List.range (n / 4)).foldl (fun s j => s.setF (p + 4 * j) b) s
/-- The bytes of a tagged access. -/
def tagBytes (w : Bool) : Nat := if w then 8 else 4
/-- LDF and LDFE: an acquire at cluster scope once the test succeeds. -/
def loadTagged (empty : Bool) (d a b : BitVec 6) (i w x : Bool) (st : State) : Host.Outcome State Fault Refusal :=
  let n := tagBytes w
  slotOut (do
    let (va, p) ← tagForm a.toNat i b n
    if ← reads fun s => !s.allFull p n true then tagHold va
    let bs ← peekM p n
    setX d.toNat (loaded bs x)
    if empty then change fun s => s.setTags p n false
    acquireAt 2) st
def execLdf (d a b : BitVec 6) (i w x : Bool) (st : State) : Host.Outcome State Fault Refusal :=
  loadTagged false d a b i w x st
def execLdfe (d a b : BitVec 6) (i w x : Bool) (st : State) : Host.Outcome State Fault Refusal :=
  loadTagged true d a b i w x st
/-- STE and STF: a release at cluster scope; `test` waits for the words to be empty. -/
def storeTagged (test : Bool) (d a b : BitVec 6) (i w : Bool) (st : State) : Host.Outcome State Fault Refusal :=
  let n := tagBytes w
  slotOut (do
    let (va, p) ← tagForm a.toNat i b n
    releaseWait 2
    if test then
      if ← reads fun s => !s.allFull p n false then tagHold va
    let v ← reads fun s => s.old.rx d.toNat
    change fun s => (s.pokeL .fill p (toBytes n v.v.toNat v.psn)).setTags p n true) st
def execSte (d a b : BitVec 6) (i w : Bool) (st : State) : Host.Outcome State Fault Refusal := storeTagged true d a b i w st
def execStf (d a b : BitVec 6) (i w : Bool) (st : State) : Host.Outcome State Fault Refusal := storeTagged false d a b i w st
def execTagclr (a b : BitVec 6) (i w : Bool) (st : State) : Host.Outcome State Fault Refusal :=
  slotOut (do
    let (_, p) ← tagForm a.toNat i b (tagBytes w)
    change fun s => s.setTags p (tagBytes w) false) st

/-! ## Vector access to scratchpad (R267 to R269) -/

/-- The active lanes. -/
def activeLanes : M (List Nat) := reads fun s => (List.range 64).filter s.old.active
/-- The device-local address of each lane, all checked before any is accessed. -/
def lanePlaces (addr : Nat → Word64) (ls : List Nat) : M (List (Nat × Nat)) :=
  ls.mapM fun l => do pure (l, ← scratchAt (addr l) 4 4)
/-- The words at the places loaded into lanes of vD. -/
def loadLanes (d : Nat) (ps : List (Nat × Nat)) : M Unit := do
  let vs ← reads fun s => ps.map fun p => (p.1, s.peekN p.2 4)
  setRegs fun r => r.wLanes d ((List.range 64).map fun l => ((vs.find? fun v => v.1 = l).map fun v =>
    ({ v := leNat v.2, psn := anyPsn v.2 } : Elt)).map fun e => if e.psn then .bad else e)
/-- Lanes of vD stored at the places, the highest lane last. -/
def storeLanes (d : Nat) (ps : List (Nat × Nat)) : M Unit :=
  change fun s => ps.foldl (fun t p => t.pokeL .fill p.2 (toBytes 4 (s.old.rv d p.1).v.toNat (s.old.rv d p.1).psn)) s

/-- Row and strided access: `step` gives a lane's distance. -/
def vecScratch (store : Bool) (d a : BitVec 6) (step : M (Nat → Word64)) (st : State) : Host.Outcome State Fault Refusal :=
  slotOut (do
    let ls ← activeLanes
    if ls.isEmpty then pure ()
    else
      let base ← xClean a.toNat
      let f ← step
      let ps ← lanePlaces (fun l => base + f l) ls
      if store then storeLanes d.toNat ps else loadLanes d.toNat ps) st
/-- Distances of a row of words. -/
def rowStep : M (Nat → Word64) := pure fun l => BitVec.ofNat 64 (4 * l)
/-- Distances of a stride in xB. -/
def strideStep (b : BitVec 6) : M (Nat → Word64) := do
  let x ← xClean b.toNat
  pure fun l => BitVec.ofNat 64 (l * x.toNat)
/-- Bank order (R206): lane `l` meets the cell of bank `l` in the row of xA. -/
def vecBank (store : Bool) (d a : BitVec 6) (st : State) : Host.Outcome State Fault Refusal :=
  slotOut (do
    let ls ← activeLanes
    if ls.isEmpty then pure ()
    else
      let base ← xClean a.toNat
      let p ← scratchAt base 256 256
      let key ← reads fun s => swzKey (s.core ((p - scratchBase) / 0x100000)) (p % 0x100000 / 256)
      let ps := ls.map fun l => (l, p + (l ^^^ key) * 4)
      if store then storeLanes d.toNat ps else loadLanes d.toNat ps) st

def execVld (d a : BitVec 6) (st : State) : Host.Outcome State Fault Refusal := vecScratch false d a rowStep st
def execVldBank (d a : BitVec 6) (st : State) : Host.Outcome State Fault Refusal := vecBank false d a st
def execVldStr (d a b : BitVec 6) (st : State) : Host.Outcome State Fault Refusal := vecScratch false d a (strideStep b) st
def execVst (d a : BitVec 6) (st : State) : Host.Outcome State Fault Refusal := vecScratch true d a rowStep st
def execVstBank (d a : BitVec 6) (st : State) : Host.Outcome State Fault Refusal := vecBank true d a st
def execVstStr (d a b : BitVec 6) (st : State) : Host.Outcome State Fault Refusal := vecScratch true d a (strideStep b) st

/-- Byte offsets of an index vector; an active poisoned lane raises POISON_CONSUMED (R268). -/
def indexStep (b : BitVec 6) (ls : List Nat) : M (Nat → Word64) := do
  let r ← reads fun s => s.old
  raiseIf (ls.any fun l => (r.rv b.toNat l).psn) (.poison (regTag 2 b.toNat))
  pure fun l => (r.rv b.toNat l).v.setWidth 64
/-- Gather and scatter. -/
def vecIndexed (store : Bool) (d a b : BitVec 6) (st : State) : Host.Outcome State Fault Refusal :=
  vecScratch store d a (do indexStep b (← activeLanes)) st
def execVldg (d a b : BitVec 6) (st : State) : Host.Outcome State Fault Refusal := vecIndexed false d a b st
def execVstg (d a b : BitVec 6) (st : State) : Host.Outcome State Fault Refusal := vecIndexed true d a b st

/-- VLDT (R269): elements of 8 × 2^`e` bits transposed out of 64 words. -/
def execVldt (d a b : BitVec 6) (e : BitVec 2) (st : State) : Host.Outcome State Fault Refusal :=
  let k := 4 / 2 ^ e.toNat
  let w := 32 / k
  slotOut (do
    let ls ← activeLanes
    if ls.isEmpty then pure ()
    else
      let base ← xClean a.toNat
      let f ← strideStep b
      let ps ← lanePlaces (fun l => base + f l) (List.range 64)
      let ws ← reads fun s => ps.map fun p => s.peekN p.2 4
      setRegs fun r => r.wLanes d.toNat ((List.range 64).map fun l =>
        if ls.contains l then
          let q := l / (64 / k)
          let j := l % (64 / k)
          let es := (List.range k).map fun t =>
            let bs := ws.getD (k * j + t) []
            ({ v := leNat bs / 2 ^ (w * q) % 2 ^ w, psn := anyPsn bs } : Elt)
          let x := packLane w es
          some (if x.psn then .bad else x)
        else none)) st

end Sys2Proof.Machine
end

