-- ==== Sys2Proof/Machine/GlobalMem.lean ====
section
/-! DEFINITION. Global loads and stores, acquiring and releasing ones (R267, R268, R270, R271), fences (R245, R277) and
cache control (R255, R278). -/
namespace Sys2Proof.Machine

/-! ## `.zp` (R232, R262) -/

/-- With `.zp` every page must have PZ set. -/
def zpCheck (zp : Bool) (ps : List Piece) : M Unit :=
  match ps.find? fun p => p.here && zp && !leafPz p.leaf with
  | some p => raise (.prot (BitVec.ofNat 64 p.va))
  | none => pure ()
/-- Whether an exported page has PZ set, the target's entry says (R217), and no record asks for it: the access fails or not, freely. DESIGN
CHOICE, log entry 47. -/
def zpFar (zp : Bool) (ps : List Piece) : M Unit := do
  match ← reads fun s => ps.find? fun p => p.here && zp && s.exported p.pa with
  | some p =>
    let n ← fun s => let (n, s) := s.draw Config.choice; .ok (n, s)
    raiseIf (n % 2 = 1) (.prot (BitVec.ofNat 64 p.va))
  | none => pure ()
/-- CORE.POISON_ZEROED advanced. -/
def State.addZeroed (s : State) (n : Nat) : State :=
  (s.keepCore 0x101).modCore (s.cur / 2) fun c => { c with poisonZeroed := c.poisonZeroed + BitVec.ofNat 48 n }
/-- The bytes of one destination under `.zp`: zeros, counted, when one is poisoned. -/
def zpBytes (zp : Bool) (bs : List (Val 8)) : M (List (Val 8)) :=
  if zp && anyPsn bs then do
    change fun s => s.addZeroed 1
    pure (toBytes bs.length 0 false)
  else pure bs

/-! ## Scalar access (R270, R271) -/

/-- LDG: `zp` ZP, `x` SX. -/
def execLdg (d : BitVec 6) (h : BitVec 4) (b : BitVec 6) (i zp x : Bool) (z : BitVec 2) (st : State) :
    Host.Outcome State Fault Refusal :=
  slotOut (do
    let off ← offset i b
    let p ← handleForm h.toNat off (2 ^ z.toNat) 1 .read
    zpCheck zp [p]
    let bs ← slotLoad [p] false
    zpFar zp [p]
    setX d.toNat (loaded (← zpBytes zp bs) x)) st
/-- The low bytes of xD as stored. -/
def storeBytes (d : BitVec 6) (n : Nat) : M (List (Val 8)) := reads fun s =>
  let v := s.old.rx d.toNat
  toBytes n v.v.toNat v.psn
/-- STG: `n` NT. -/
def execStg (d : BitVec 6) (h : BitVec 4) (b : BitVec 6) (i n : Bool) (z : BitVec 2) (st : State) :
    Host.Outcome State Fault Refusal :=
  slotOut (do
    let off ← offset i b
    let p ← handleForm h.toNat off (2 ^ z.toNat) 1 .write
    let bs ← storeBytes d (2 ^ z.toNat)
    slotStore n permSN [(p, bs)]) st
/-- LDA: an acquire at scope `c`. -/
def execLda (d : BitVec 6) (h : BitVec 4) (b : BitVec 6) (z : BitVec 2) (c : BitVec 3) (st : State) :
    Host.Outcome State Fault Refusal :=
  slotOut (do
    let off ← xClean b.toNat
    let p ← handleForm h.toNat off (2 ^ z.toNat) (2 ^ z.toNat) .read
    let bs ← slotLoad [p] false
    setX d.toNat (loaded bs false)
    acquireAt c) st
/-- STA: a release at scope `c`; at system scope a store to the host stays in no buffer. -/
def execSta (d : BitVec 6) (h : BitVec 4) (b : BitVec 6) (z : BitVec 2) (c : BitVec 3) (st : State) :
    Host.Outcome State Fault Refusal :=
  slotOut (do
    let off ← xClean b.toNat
    let p ← handleForm h.toNat off (2 ^ z.toNat) (2 ^ z.toNat) .write
    releaseWait c
    let bs ← storeBytes d (2 ^ z.toNat)
    slotStore (c = 6) permSN [(p, bs)]) st

/-! ## Vector access through a capability (R267, R268) -/

/-- The parts of pieces that hold the bytes `[o, o + n)` of an access. -/
def cutPieces (ps : List Piece) (o n : Nat) : List Piece :=
  ps.filterMap fun p =>
    let lo := max p.off o
    let hi := min (p.off + p.len) (o + n)
    if lo < hi then some { p with va := p.va + (lo - p.off), off := lo - o, len := hi - lo, pa := p.pa + (lo - p.off) } else none
/-- Maximal runs of rising lane numbers: first lane and length. -/
def laneRuns : List Nat → List (Nat × Nat)
  | [] => []
  | l :: ls =>
    match laneRuns ls with
    | (m, n) :: rest => if m = l + 1 then (l, n + 1) :: rest else (l, 1) :: (m, n) :: rest
    | [] => [(l, 1)]
/-- The word of lane `l` in bytes loaded run by run. -/
def wordOf (rs : List ((Nat × Nat) × List (Val 8))) (l : Nat) : List (Val 8) :=
  match rs.find? fun r => r.1.1 ≤ l && l < r.1.1 + r.1.2 with
  | some r => (r.2.drop (4 * (l - r.1.1))).take 4
  | none => []
/-- Words loaded into lanes of vD, each a destination of its own under `.zp`. -/
def deliverLanes (d : Nat) (zp : Bool) (ls : List Nat) (word : Nat → List (Val 8)) : M Unit := do
  let ws ← ls.mapM fun l => do pure (l, ← zpBytes zp (word l))
  setRegs fun r => r.wLanes d ((List.range 64).map fun l => (ws.find? fun v => v.1 = l).map fun v =>
    if anyPsn v.2 then Elt.bad else { v := leNat v.2 })
/-- The bytes of lane `l` of vD as stored. -/
def laneBytes (d l : Nat) : M (List (Val 8)) := reads fun s => toBytes 4 (s.old.rv d l).v.toNat (s.old.rv d l).psn

/-- The span of the active lanes at cA.BASE + xB: capability, first lane, pieces. -/
def spanForm (c : BitVec 4) (b : BitVec 6) (ls : List Nat) (perm : BitVec 8) (need : Need) (load : Bool) :
    M (Nat × List Piece) := do
  let lo := ls.headD 0
  let off ← xClean b.toNat
  let (_, ps) ← capForm c.toNat (off + BitVec.ofNat 64 (4 * lo)) (4 * (ls.getLastD 0 - lo + 1)) 4 perm need load
  pure (lo, ps)
def execVldG (d : BitVec 6) (c : BitVec 4) (b : BitVec 6) (z : Bool) (st : State) : Host.Outcome State Fault Refusal :=
  slotOut (do
    let ls ← activeLanes
    if ls.isEmpty then pure ()
    else
      let (lo, ps) ← spanForm c b ls permR .read true
      zpCheck z ps
      let rs ← (laneRuns ls).mapM fun r => do
        pure (r, ← slotLoad (cutPieces ps (4 * (r.1 - lo)) (4 * r.2)) false)
      zpFar z ps
      deliverLanes d.toNat z ls (wordOf rs)) st
def execVstG (d : BitVec 6) (c : BitVec 4) (b : BitVec 6) (n : Bool) (st : State) : Host.Outcome State Fault Refusal :=
  slotOut (do
    let ls ← activeLanes
    if ls.isEmpty then pure ()
    else
      let (lo, ps) ← spanForm c b ls permW .write false
      let perm ← reads fun s => (s.old.rc c.toNat).perm
      let ws ← (laneRuns ls).mapM fun r => do
        let bs ← (List.range r.2).mapM fun j => laneBytes d.toNat (r.1 + j)
        pure (cutBytes (cutPieces ps (4 * (r.1 - lo)) (4 * r.2)) bs.flatten)
      slotStore n perm ws.flatten) st

/-- The pieces of each active lane's word at cA.BASE + vB lane, all checked before any is accessed; pages not present come
before a later lane's cause when the access is a load. -/
def gather (n : Nat) (c : Cap) (f : Nat → Word64) (perm : BitVec 8) (need : Need) (load : Bool) :
    List Nat → List Nat → M (List (Nat × List Piece))
  | [], gone => if load && !gone.isEmpty then pageExit need.kind gone else pure []
  | l :: ls, gone => fun s =>
    let va := (c.base + (f l).toNat) % 2 ^ 64
    match capSpread n c va 4 4 perm need load s with
    | .ok (ps, s) => match gather n c f perm need load ls gone s with
      | .ok (r, s) => .ok ((l, ps) :: r, s)
      | .error e => .error e
    | .error (.page s rs) => gather n c f perm need load ls (gone ++ rs.map fun r => r.va.toNat) s
    | .error e => if load && !gone.isEmpty then pageExit need.kind gone s else .error e
/-- The base and the index lanes of an indexed global access. -/
def gatherForm (c : BitVec 4) (b : BitVec 6) (ls : List Nat) (perm : BitVec 8) (need : Need) (load : Bool) :
    M (List (Nat × List Piece)) := do
  let cap ← cClean c.toNat
  let f ← indexStep b ls
  gather c.toNat cap f perm need load ls []
def execVldgG (d : BitVec 6) (c : BitVec 4) (b : BitVec 6) (z : Bool) (st : State) : Host.Outcome State Fault Refusal :=
  slotOut (do
    let ls ← activeLanes
    if ls.isEmpty then pure ()
    else
      let ps ← gatherForm c b ls permR .read true
      ps.forM fun p => zpCheck z p.2
      let rs ← ps.mapM fun p => do pure (p.1, ← slotLoad p.2 false)
      zpFar z (ps.flatMap (·.2))
      deliverLanes d.toNat z ls fun l => ((rs.find? fun r => r.1 = l).map (·.2)).getD []) st
def execVstgG (d : BitVec 6) (c : BitVec 4) (b : BitVec 6) (n : Bool) (st : State) : Host.Outcome State Fault Refusal :=
  slotOut (do
    let ls ← activeLanes
    if ls.isEmpty then pure ()
    else
      let ps ← gatherForm c b ls permW .write false
      let perm ← reads fun s => (s.old.rc c.toNat).perm
      let ws ← ps.mapM fun p => do pure (cutBytes p.2 (← laneBytes d.toNat p.1))
      slotStore n perm ws.flatten) st

/-! ## FENCE (R245, R277) -/

/-- `t` and `m` are SUCC.S and SUCC.L, `e` SUCC.E, `p` and `q` PRED.S and PRED.L. The accesses of a context are performed in
program order, so only its stores that are parked or posted hold a fence; those to UN pages hold it whether or not `u` is set. -/
def execFence (u e t m p q : Bool) (c : BitVec 3) (st : State) : Host.Outcome State Fault Refusal :=
  slotOut (do
    let _ := u
    if (p || q) && (e || t || m) then
      if p then releaseWait c
      if q && m then acquireAt c
    else pure ()) st

/-! ## Cache control (R255, R278) -/

/-- The lines of the device's HBM that pieces touch, on pages with MS clear, and all lines of HBM they touch. -/
def State.linesOf (s : State) (ps : List Piece) (ms : Bool) : List Nat :=
  (ps.filter fun p => p.here && s.target p.pa = .mem && region (p.pa % 2 ^ 50) = .hbm && (ms || !leafMs p.leaf)).flatMap fun p =>
    (pieces 128 (p.pa % 2 ^ 50) p.len).map fun q => q.1 / 128
/-- PREFETCH: lines of the first 64 KiB; dropped on any failure. -/
def execPrefetch (d : BitVec 6) (c : BitVec 4) (b : BitVec 6) (o : Bool) (st : State) : Host.Outcome State Fault Refusal :=
  let m : M Unit := do
    let len ← xClean d.toNat
    if len = 0 then pure ()
    else
      let off ← xClean b.toNat
      let (_, ps) ← capForm c.toNat off len.toNat 1 permR .read true
      let first := cutPieces ps 0 (min len.toNat 0x10000)
      change fun s => (s.linesOf first false).foldl (fun s l => s.fillLine l) s
      if o then
        let asid ← ownAsid
        change fun s => (first.filter fun p => s.target p.pa = .mem && region (p.pa % 2 ^ 50) = .hbm && !leafMs p.leaf &&
          leafOrd p.leaf ≠ 0).foldl (fun s p => (s.loadL1 (s.cur / 2) asid p.va (p.pa % 2 ^ 50) p.len).1) s
  match m st with
  | .ok (_, s) => .next s.retire
  | .error _ => .next st.retire
/-- FLUSH: `o` invalidates. Remote lines are flushed at their target, by 64 KiB blocks. -/
def execFlush (d : BitVec 6) (c : BitVec 4) (b : BitVec 6) (o : Bool) (st : State) : Host.Outcome State Fault Refusal :=
  slotOut (do
    let len ← xClean d.toNat
    let off ← xClean b.toNat
    let _ ← cClean c.toNat
    if len = 0 then pure ()
    else
      let (_, ps) ← capForm c.toNat off len.toNat 1 permR .read true
      let asid ← ownAsid
      match ← reads fun s => ps.find? fun p => s.copying asid p.va with
      | some p => pageExit .read [p.va]
      | none => pure ()
      soWait ps
      let k ← self
      (← reads fun s => ps.filter fun p => s.target p.pa = .remote).forM fun p =>
        (pieces 0x10000 (p.pa / 128 * 128) (p.pa % 128 + p.len)).forM fun (a, _, n) => do
          match (← ask (← reads State.me) a (.flush (a % 128 + n) o) 4 asid).result p.va with
          | .ok _ => pure ()
          | .error t => raise t
      change fun s =>
        let s := (s.linesOf ps false).foldl (fun s l => if o then s.evict l else s.writeBack l) s
        (s.linesOf ps true).foldl (fun s l => s.dropL1Line (k / 2) l) s) st
/-- DISCARD. -/
def execDiscard (d : BitVec 6) (c : BitVec 4) (b : BitVec 6) (st : State) : Host.Outcome State Fault Refusal :=
  slotOut (do
    let len ← xClean d.toNat
    let off ← xClean b.toNat
    let cap ← cClean c.toNat
    if len = 0 then pure ()
    else
      let va := (cap.base + off.toNat) % 2 ^ 64
      raiseIf (len.toNat % 128 ≠ 0) (.align (BitVec.ofNat 64 va))
      let (_, ps) ← capForm c.toNat off len.toNat 128 permW .write true
      let k ← self
      let asid ← ownAsid
      match ← reads fun s => ps.find? fun p => (s.parkReason k asid p).isSome with
      | some p => fun s => .error (.page { s with cowWant := s.cowWant ++ [(asid, p.page)] } (pageReqs .write [p.va]))
      | none => pure ()
      soWait ps
      change fun s =>
        let s := (s.linesOf ps false).foldl (fun s l => s.dropLine l) s
        (s.linesOf ps true).foldl (fun s l => s.dropL1Line (k / 2) l) s) st

end Sys2Proof.Machine
end

