-- ==== Sys2Proof/Machine/Atomic.lean ====
section
/-! DEFINITION. Atomics (R246, R272) and SBM bank operations (R279). -/
namespace Sys2Proof.Machine

/-! ## The read-modify-write (R272) -/

/-- The new value of OP on `n`-bit words: operand `v`, and for CAS the compared value `c` with `v` the swapped one. -/
def rmwNew (op n old v c : Nat) : Nat :=
  let b := fun x => BitVec.ofNat n x
  let less (s : Bool) : Bool := if s then decide ((b old).toInt < (b v).toInt) else decide (old < v)
  let f := if n = 64 then Fmt.f64 else Fmt.f32
  match op with
  | 0 => v
  | 1 => if old = c then v else old
  | 2 => (old + v) % 2 ^ n
  | 3 => old &&& v
  | 4 => old ||| v
  | 5 => old ^^^ v
  | 6 => if less true then old else v
  | 7 => if less true then v else old
  | 8 => if less false then old else v
  | 9 => if less false then v else old
  | 10 => (fpAdd f 0 false old v).1
  | 11 => (fpMinMax f false old v).1
  | _ => (fpMinMax f true old v).1
/-- A read-modify-write of local memory: the old bytes; a poisoned target is left unchanged. -/
def State.rmwLocal (s : State) (core : Option Nat) (al : Alloc) (a n op v c : Nat) : State × List (Val 8) :=
  let bs := s.peekN a n
  if anyPsn bs then (s.touchRead al a n, bs)
  else (s.storeLocal core al a n fun i => ⟨BitVec.ofNat 8 (rmwNew op (8 * n) (leNat bs) v c / 256 ^ i), false⟩, bs)

/-! ## ATOM -/

/-- Why a read-modify-write of one piece must park. -/
def rmwPark (p : Piece) : M (Option ParkReason) := do
  replayRoom
  reads fun s => s.parkReason s.cur (s.launchOf s.cur).asid p
/-- A parked read-modify-write; `acq` is the scope of an acquire form. -/
def parkRmw {α : Type} (p : Piece) (why : ParkReason) (perm : BitVec 8) (op : ParkOp) (acq : Option (BitVec 3)) : M α := fun s =>
  let c := s.ctx s.cur
  parkExit .atomic { ctx := s.cur, gen := c.gen, issue := c.issue.addr, parts := [(p.page, why)], op, perm, acq } s
/-- The old value as an x result, zero-extended, poisoned when a byte is. -/
def oldValue (bs : List (Val 8)) : Val 64 := loaded bs false
/-- An atomic at the host waits until the context's buffered stores to the block have gone there (R237). -/
def wcClear (p : Piece) : M Unit := fun s =>
  match (s.ctx s.cur).wc.find? fun w => w.pa = p.pa / 64 * 64 with
  | some w => .error (.wait ((s.drainWc s.cur w).modCtx s.cur fun c => { c with wc := c.wc.erase w }))
  | none => .ok ((), s)
/-- The piece of an atomic's target performed at its executing point (R214); the host performs OP 0 to 2 only (R434). -/
def rmwAt (who : Owner) (core : Option Nat) (asid : Nat) (scope : BitVec 3) (ord : BitVec 2) (p : Piece) (op v c : Nat) : M (Except Trap (List (Val 8))) :=
  fun s =>
    match s.target p.pa with
    | .mem =>
      let (s, bs) := s.rmwLocal core (allocOf p.leaf false) (p.pa % 2 ^ 50) p.len op v c
      .ok (.ok bs, s)
    | .bad => .ok (.error (.prot (BitVec.ofNat 64 p.va)), s)
    | t => if t = .host ∧ 3 ≤ op then .ok (.error (.prot (BitVec.ofNat 64 p.va)), s) else ((fun r => r.result p.va) <$>
        ask who p.pa (.atomic op (p.len = 8) (BitVec.ofNat 64 v) (BitVec.ofNat 64 c) ord) scope asid) s
/-- What an atomic ends in: xD with the old value and the acquire, or a failure, which R316 reports late with an open value in xD. -/
def atomEnd (d : Nat) (acq : Option (BitVec 3)) (r : Except Trap (List (Val 8))) : M Unit := do
  match r with
  | .error t =>
    if t.late then
      recordFail t
      let n ← fun s => let (n, s) := s.draw Config.number; .ok (n, s)
      setX d ⟨BitVec.ofNat 64 n, false⟩
    else raise t
  | .ok bs =>
    setX d (oldValue bs)
    match acq with
    | some scope => acquireAt scope
    | none => pure ()
/-- ATOM: `r` ORD, `w` W, `x` SC. A host or a peer that has answered has performed it. -/
def atom (op : Nat) (d : BitVec 6) (r : BitVec 2) (c : BitVec 4) (b : BitVec 6) (w x : Bool) (st : State) :
    Host.Outcome State Fault Refusal :=
  let n := if w then 8 else 4
  slotOut (do
    let x0 ← xClean d.toNat
    let x1 ← if op = 1 then xClean (d.toNat + 1) else pure 0
    let v := (if op = 1 then x1 else x0).toNat % 2 ^ (8 * n)
    let cmp := if op = 1 then x0.toNat % 2 ^ (8 * n) else 0
    let off ← xClean b.toNat
    let perm ← reads fun s => (s.old.rc c.toNat).perm
    let acqAt := fun scope : BitVec 3 => if r = 1 || r = 3 then some scope else none
    match ← answered (← reads State.me) with
    | some a =>
      let cap ← cClean c.toNat
      atomEnd d.toNat (acqAt (if x then 6 else 5)) (a.result (cap.base + off.toNat))
    | none =>
    let (_, ps) ← capForm c.toNat off n n permA .atomic false
    match ps with
    | [] => pure ()
    | p :: _ =>
      let near ← reads fun s => decide (s.target p.pa = .mem)
      let scope : BitVec 3 := if x then 6 else if near then 4 else 5
      if r = 2 || r = 3 then releaseWait scope
      let acq := acqAt scope
      match ← rmwPark p with
      | some why => parkRmw p why perm (.atomic op w p.va (BitVec.ofNat 64 v) (BitVec.ofNat 64 cmp) d.toNat) acq
      | none =>
        let k ← self
        let asid ← ownAsid
        soWait [p]
        wcClear p
        atomEnd d.toNat acq (← rmwAt (← reads State.me) (some (k / 2)) asid scope r p op v cmp)) st

def execAtomSwap (d : BitVec 6) (r : BitVec 2) (c : BitVec 4) (b : BitVec 6) (w x : Bool) (st : State) :
    Host.Outcome State Fault Refusal := atom 0 d r c b w x st
def execAtomCas (d : BitVec 6) (r : BitVec 2) (c : BitVec 4) (b : BitVec 6) (w x : Bool) (st : State) :
    Host.Outcome State Fault Refusal := atom 1 d r c b w x st
def execAtomAdd (d : BitVec 6) (r : BitVec 2) (c : BitVec 4) (b : BitVec 6) (w x : Bool) (st : State) :
    Host.Outcome State Fault Refusal := atom 2 d r c b w x st
def execAtomAnd (d : BitVec 6) (r : BitVec 2) (c : BitVec 4) (b : BitVec 6) (w x : Bool) (st : State) :
    Host.Outcome State Fault Refusal := atom 3 d r c b w x st
def execAtomOr (d : BitVec 6) (r : BitVec 2) (c : BitVec 4) (b : BitVec 6) (w x : Bool) (st : State) :
    Host.Outcome State Fault Refusal := atom 4 d r c b w x st
def execAtomXor (d : BitVec 6) (r : BitVec 2) (c : BitVec 4) (b : BitVec 6) (w x : Bool) (st : State) :
    Host.Outcome State Fault Refusal := atom 5 d r c b w x st
def execAtomMinS (d : BitVec 6) (r : BitVec 2) (c : BitVec 4) (b : BitVec 6) (w x : Bool) (st : State) :
    Host.Outcome State Fault Refusal := atom 6 d r c b w x st
def execAtomMaxS (d : BitVec 6) (r : BitVec 2) (c : BitVec 4) (b : BitVec 6) (w x : Bool) (st : State) :
    Host.Outcome State Fault Refusal := atom 7 d r c b w x st
def execAtomMinZ (d : BitVec 6) (r : BitVec 2) (c : BitVec 4) (b : BitVec 6) (w x : Bool) (st : State) :
    Host.Outcome State Fault Refusal := atom 8 d r c b w x st
def execAtomMaxZ (d : BitVec 6) (r : BitVec 2) (c : BitVec 4) (b : BitVec 6) (w x : Bool) (st : State) :
    Host.Outcome State Fault Refusal := atom 9 d r c b w x st
def execAtomFadd (d : BitVec 6) (r : BitVec 2) (c : BitVec 4) (b : BitVec 6) (w x : Bool) (st : State) :
    Host.Outcome State Fault Refusal := atom 10 d r c b w x st
def execAtomFmin (d : BitVec 6) (r : BitVec 2) (c : BitVec 4) (b : BitVec 6) (w x : Bool) (st : State) :
    Host.Outcome State Fault Refusal := atom 11 d r c b w x st
def execAtomFmax (d : BitVec 6) (r : BitVec 2) (c : BitVec 4) (b : BitVec 6) (w x : Bool) (st : State) :
    Host.Outcome State Fault Refusal := atom 12 d r c b w x st

/-! ## SBOP (R279) -/

/-- One word's new value: 0 FILL, 1 ADD, 2 FADD, 3 MAX.S32. -/
def sbopNew (op old v : Nat) : Nat :=
  match op with
  | 0 => v
  | 1 => (old + v) % 2 ^ 32
  | 2 => (fpAdd .f32 0 false old v).1
  | _ => if (BitVec.ofNat 32 old).toInt < (BitVec.ofNat 32 v).toInt then v else old
/-- The run of `n` words at a device-local SBM address; a poisoned word is left as it is, unless it is filled. -/
def State.sbopRun (s : State) (op a n v : Nat) : State :=
  (List.range n).foldl (init := s) fun s i =>
    let bs := s.peekN (a + 4 * i) 4
    if op ≠ 0 ∧ anyPsn bs then s else s.pokeNat (a + 4 * i) 4 (sbopNew op (leNat bs) v)
/-- SBOP: `r` RET, `n` count − 1. DEDUCED, log entry 31. -/
def sbop (op : Nat) (d : BitVec 6) (c : BitVec 4) (b : BitVec 6) (r : Bool) (n : BitVec 5) (st : State) :
    Host.Outcome State Fault Refusal :=
  let cnt := n.toNat + 1
  slotOut (do
    let v ← xClean d.toNat
    let off ← xClean b.toNat
    let perm ← reads fun s => (s.old.rc c.toNat).perm
    let (va, ps) ← capForm c.toNat off (4 * cnt) 4 permA .atomic false
    raiseIf (128 < va % 128 + 4 * cnt) (.align (BitVec.ofNat 64 va))
    match ps with
    | [] => pure ()
    | p :: _ =>
      raiseIf (← reads fun s => p.here && !(decide (s.target p.pa = .mem) && decide (region (p.pa % 2 ^ 50) = .sbm)))
        (.prot (BitVec.ofNat 64 va))
      match ← rmwPark p with
      | some why => parkRmw p why perm (.sbop op cnt va (v.setWidth 32) (if r then some d.toNat else none)) none
      | none =>
        soWait [p]
        let a := p.pa % 2 ^ 50
        let old ← peekM a 4
        change fun s => s.sbopRun op a cnt (v.toNat % 2 ^ 32)
        if r then setX d.toNat (oldValue old)) st
def execSbopFill (d : BitVec 6) (c : BitVec 4) (b : BitVec 6) (r : Bool) (n : BitVec 5) (st : State) :
    Host.Outcome State Fault Refusal := sbop 0 d c b r n st
def execSbopAdd (d : BitVec 6) (c : BitVec 4) (b : BitVec 6) (r : Bool) (n : BitVec 5) (st : State) :
    Host.Outcome State Fault Refusal := sbop 1 d c b r n st
def execSbopFadd (d : BitVec 6) (c : BitVec 4) (b : BitVec 6) (r : Bool) (n : BitVec 5) (st : State) :
    Host.Outcome State Fault Refusal := sbop 2 d c b r n st
def execSbopMax (d : BitVec 6) (c : BitVec 4) (b : BitVec 6) (r : Bool) (n : BitVec 5) (st : State) :
    Host.Outcome State Fault Refusal := sbop 3 d c b r n st

end Sys2Proof.Machine
end

