-- ==== Sys2Proof/Machine/Charm.lean ====
section
/-! DEFINITION. Charms: RV32IM routines on a 128-byte line (R273 to R276), and ATOMX. -/
namespace Sys2Proof.Machine

/-! ## The charm core (R274) -/

/-- Registers m1 to m31, the pc, the copy of the line, and the cycles counted. -/
structure CharmCore where
  m : Sparse (BitVec 32) := []
  pc : Nat := 0
  line : List Byte
  cycles : Nat := 0
deriving DecidableEq, Repr

/-- How a routine ends: ECALL with m10 and m11 and the line, or a cause with the pc. -/
inductive CharmEnd where
  | done (m10 m11 : BitVec 32) (line : List Byte)
  | fail (cause : BitVec 8) (pc : Nat)
deriving DecidableEq, Repr

/-- A register; m0 reads as 0. -/
def CharmCore.get (c : CharmCore) (n : Nat) : BitVec 32 := if n = 0 then 0 else c.m.get 0 n
/-- A register written, and the pc and the cycles advanced. -/
def CharmCore.put (c : CharmCore) (n : Nat) (v : BitVec 32) (cy : Nat) : CharmCore :=
  { c with m := if n = 0 then c.m else c.m.put n v, pc := c.pc + 4, cycles := c.cycles + cy }

/-- Immediates of RV32. -/
def rvI (w : BitVec 32) : BitVec 32 := (w.extractLsb' 20 12).signExtend 32
def rvS (w : BitVec 32) : BitVec 32 := (w.extractLsb' 25 7 ++ w.extractLsb' 7 5).signExtend 32
def rvB (w : BitVec 32) : BitVec 32 :=
  (w.extractLsb' 31 1 ++ w.extractLsb' 7 1 ++ w.extractLsb' 25 6 ++ w.extractLsb' 8 4 ++ 0#1).signExtend 32
def rvU (w : BitVec 32) : BitVec 32 := w.extractLsb' 12 20 ++ 0#12
def rvJ (w : BitVec 32) : BitVec 32 :=
  (w.extractLsb' 31 1 ++ w.extractLsb' 12 8 ++ w.extractLsb' 20 1 ++ w.extractLsb' 21 10 ++ 0#1).signExtend 32

/-- The result of an OP or OP-IMM instruction: funct3, and the alternative bit of SUB, SRA. -/
def rvAlu (f3 : Nat) (alt : Bool) (x y : BitVec 32) : BitVec 32 :=
  let sh := y.toNat % 32
  match f3 with
  | 0 => if alt then x - y else x + y
  | 1 => x <<< sh
  | 2 => if x.slt y then 1 else 0
  | 3 => if x.ult y then 1 else 0
  | 4 => x ^^^ y
  | 5 => if alt then x.sshiftRight sh else x >>> sh
  | 6 => x ||| y
  | _ => x &&& y
/-- The M extension, with R29's division. -/
def rvMul (f3 : Nat) (x y : BitVec 32) : BitVec 32 :=
  let hi := fun z : BitVec 64 => z.extractLsb' 32 32
  match f3 with
  | 0 => x * y
  | 1 => hi (x.signExtend 64 * y.signExtend 64)
  | 2 => hi (x.signExtend 64 * y.setWidth 64)
  | 3 => hi (x.setWidth 64 * y.setWidth 64)
  | 4 => divS x y
  | 5 => divZ x y
  | 6 => remS x y
  | _ => remZ x y
/-- A branch is taken. -/
def rvTaken (f3 : Nat) (x y : BitVec 32) : Bool :=
  match f3 with
  | 0 => x = y | 1 => x ≠ y | 4 => x.slt y | 5 => !x.slt y | 6 => x.ult y | _ => !x.ult y

/-- `n` bytes of the line. -/
def CharmCore.load (c : CharmCore) (a n : Nat) : Nat := leNat ((List.range n).map fun i => ⟨c.line.getD (a + i) 0, false⟩)
/-- `n` bytes of the line written. -/
def CharmCore.store (c : CharmCore) (a n v : Nat) : CharmCore :=
  { c with line := c.line.mapIdx fun i b => if a ≤ i ∧ i < a + n then BitVec.ofNat 8 (v / 256 ^ (i - a)) else b
           pc := c.pc + 4, cycles := c.cycles + 1 }

/-- One instruction (R274, R275): the core after it, or the end of the routine. -/
def CharmCore.step (c : CharmCore) (code : List (BitVec 32)) : Except CharmEnd CharmCore :=
  let bad : Except CharmEnd CharmCore := .error (.fail 0x26 c.pc)
  if 0x40 ≤ c.pc ∨ c.pc % 4 ≠ 0 then bad
  else
    let w := code.getD (c.pc / 4) 0
    let op := (w.extractLsb' 0 7).toNat
    let rd := (w.extractLsb' 7 5).toNat
    let f3 := (w.extractLsb' 12 3).toNat
    let f7 := (w.extractLsb' 25 7).toNat
    let x := c.get (w.extractLsb' 15 5).toNat
    let y := c.get (w.extractLsb' 20 5).toNat
    let jump := fun (t : BitVec 32) => ({ c with pc := t.toNat, cycles := c.cycles + 1 } : CharmCore)
    let pc32 := BitVec.ofNat 32 c.pc
    match op with
    | 0x37 => .ok (c.put rd (rvU w) 1)
    | 0x17 => .ok (c.put rd (pc32 + rvU w) 1)
    | 0x6F => .ok { c.put rd (pc32 + 4) 1 with pc := (pc32 + rvJ w).toNat }
    | 0x67 => if f3 = 0 then .ok { c.put rd (pc32 + 4) 1 with pc := ((x + rvI w) &&& 0xFFFFFFFE).toNat } else bad
    | 0x63 =>
      if f3 = 2 ∨ f3 = 3 then bad
      else if rvTaken f3 x y then .ok (jump (pc32 + rvB w)) else .ok (jump (pc32 + 4))
    | 0x03 =>
      let a := (x + rvI w).toNat
      let n := 2 ^ (f3 % 4)
      if f3 = 3 ∨ 6 ≤ f3 ∨ a % n ≠ 0 ∨ 0x80 < a + n then bad
      else
        let v := c.load a n
        .ok (c.put rd (if f3 < 4 then (BitVec.ofNat (8 * n) v).signExtend 32 else BitVec.ofNat 32 v) 1)
    | 0x23 =>
      let a := (x + rvS w).toNat
      let n := 2 ^ f3
      if 3 ≤ f3 ∨ a % n ≠ 0 ∨ 0x80 < a + n then bad else .ok (c.store a n y.toNat)
    | 0x13 =>
      if (f3 = 1 ∧ f7 ≠ 0) ∨ (f3 = 5 ∧ f7 ≠ 0 ∧ f7 ≠ 0x20) then bad
      else .ok (c.put rd (rvAlu f3 (f3 = 5 && f7 = 0x20) x (rvI w)) 1)
    | 0x33 =>
      if f7 = 1 then .ok (c.put rd (rvMul f3 x y) (if 4 ≤ f3 then 33 else 1))
      else if f7 = 0 ∨ (f7 = 0x20 ∧ (f3 = 0 ∨ f3 = 5)) then .ok (c.put rd (rvAlu f3 (f7 = 0x20) x y) 1)
      else bad
    | 0x73 => if w = 0x73 then .error (.done (c.get 10) (c.get 11) c.line) else bad
    | _ => bad
/-- The routine, with the cycles bounded (R275). -/
def CharmCore.run (code : List (BitVec 32)) : Nat → CharmCore → CharmEnd
  | 0, c => .fail 0x25 c.pc
  | n + 1, c =>
    if 256 ≤ c.cycles then .fail 0x25 c.pc
    else match c.step code with
      | .error e => e
      | .ok c => c.run code n

/-! ## A request at the home slice (R273, R276) -/

def csrCharm : Nat := 0xA00
/-- The end of routine `id` on the line of `a`: arguments `a0` and `a1`. -/
def State.charmEnd (s : State) (a id : Nat) (a0 a1 : Word64) : CharmEnd :=
  let base := s.csr csrCharm
  if !base.getLsbD 0 then .fail 0x26 0
  else
    let t := base.toNat / 4096 * 4096 % 2 ^ 50 + 64 * id
    let code := (List.range 16).map fun i => BitVec.ofNat 32 (s.peekNat (t + 4 * i) 4)
    let line := (s.peekN (a / 128 * 128) 128).map (·.v)
    let m : Sparse (BitVec 32) :=
      [(10, a0.extractLsb' 0 32), (11, a0.extractLsb' 32 32), (12, a1.extractLsb' 0 32), (13, a1.extractLsb' 32 32),
        (14, BitVec.ofNat 32 (a % 128))]
    CharmCore.run code 257 { m, line }
/-- A sector of the line is poisoned. -/
def State.linePoisoned (s : State) (a : Nat) : Bool := anyPsn (s.peekN (a / 128 * 128) 128)
/-- The entry of the charm table of routine `id` passes through its home slice. -/
def State.charmFetch (s : State) (id : Nat) : State :=
  let base := s.csr csrCharm
  if base.getLsbD 0 then s.touchRead .fill (base.toNat / 4096 * 4096 % 2 ^ 50 + 64 * id) 64 else s
/-- A charm performed: a poisoned line gives a poisoned result; otherwise the line is written and m10, m11 returned. The line is fetched
in any case, on an MS page after its write-back (R214). -/
def State.charm (s : State) (ms : Bool) (a id : Nat) (a0 a1 : Word64) : State × Answer :=
  let al : Alloc := if ms then .ms else .fill
  let b := a / 128 * 128
  if s.linePoisoned a then (s.touchRead al b 128, .data (toBytes 8 0 true))
  else match s.charmEnd a id a0 a1 with
    | .done x y line =>
      ((s.charmFetch id).pokeL al b (line.map fun b => ⟨b, false⟩), .data (toBytes 8 (y.toNat * 2 ^ 32 + x.toNat) false))
    | .fail cause pc => ((s.touchRead al b 128).charmFetch id, .fail cause (BitVec.ofNat 64 pc))

/-! ## ATOMX (R273) -/

/-- What an ATOMX of the line at `pa` ends in. The core drops its own copy of a line of this device. -/
def charmDone (d : Nat) (acqAt : BitVec 3 → Option (BitVec 3)) (pa : Nat) (r : Except Trap (List (Val 8))) : M Unit := do
  match r with
  | .error t => raise t
  | .ok bs =>
    let near ← reads fun s => decide (s.target pa = .mem)
    setX d (oldValue bs)
    if near then change fun s => s.dropL1Line (s.cur / 2) (pa % 2 ^ 50 / 128)
    match acqAt (if near then 4 else 5) with
    | some scope => acquireAt scope
    | none => pure ()
/-- ATOMX: the request goes to the home slice, where CHARM_RUN performs it, and the slot waits for its answer. The bit above
the routine number says that the page has MS set. DEDUCED, log entry 31. -/
def execAtomx (d : BitVec 6) (r : BitVec 2) (c : BitVec 4) (b i : BitVec 6) (st : State) : Host.Outcome State Fault Refusal :=
  slotOut (do
    let x0 ← xClean d.toNat
    let x1 ← xClean (d.toNat + 1)
    let off ← xClean b.toNat
    let acqAt := fun scope : BitVec 3 => if r = 1 || r = 3 then some scope else none
    match ← answered (← reads State.me) with
    | some a =>
      let cap ← cClean c.toNat
      let va := (cap.base + off.toNat) % 2 ^ 64
      let r := (← reads fun s => s.reqs.find? fun r => r.owner = s.me)
      charmDone d.toNat acqAt ((r.map (·.addr)).getD 0) (a.result va)
    | none =>
    let (va, ps) ← capForm c.toNat off 4 4 permA .atomic true
    match ps with
    | [] => pure ()
    | p :: _ =>
      let far ← reads fun s => decide (s.target p.pa = .remote)
      raiseIf (region (p.pa % 2 ^ 50) ≠ .hbm && !(far && decide (region (p.pa % 2 ^ 50) = .exportWin))) (.prot (BitVec.ofNat 64 va))
      let k ← self
      let asid ← ownAsid
      if ← reads fun s => (s.parkReason k asid p).isSome then
        fun s => .error (.page { s with cowWant := s.cowWant ++ [(asid, va / 0x10000)] } (pageReqs .atomic [va]))
      let near ← reads fun s => decide (s.target p.pa = .mem)
      let scope : BitVec 3 := if near then 4 else 5
      if r = 2 || r = 3 then releaseWait scope
      soWait [p]
      charmDone d.toNat acqAt p.pa
        ((← ask (← reads State.me) p.pa (.charm (i.toNat + 64 * (leafMs p.leaf).toNat) x0 x1 r) scope asid).result va)) st

end Sys2Proof.Machine
end

