-- ==== Sys2Proof/Machine/Matrix.lean ====
section
/-! DEFINITION. The matrix engine (R174 to R197): the MMA step, nest registers, NGO and the walk, the accumulator family, OBCAST. -/
namespace Sys2Proof.Machine

/-! ## Formats (R175) -/

/-- The depth of a step, bytes of an A row and of a B row. -/
def mmaK (f : Nat) : Nat := if f = 2 then 64 else if f = 4 ∨ f = 5 then 16 else 32
def mmaBRow (f : Nat) : Nat := if f = 2 then 64 else if f = 4 ∨ f = 5 then 256 else 128
/-- The bits of an element. -/
def mmaBits (f : Nat) : Nat := if f = 2 then 4 else if f = 4 ∨ f = 5 then 16 else 8
/-- The floating-point format; s8 has none. -/
def mmaFmt (f : Nat) : Fmt :=
  match f with | 0 => .e4m3 | 1 => .e5m2 | 2 => .e2m1 | 4 => .bf16 | _ => .f16

/-- The options and addresses of a step: format, block scale, zero skipping, B from the staging buffer, pitches, device-local
addresses of A, B and the scale vectors; B is an offset when it comes from the staging buffer. -/
structure MmaStep where
  fmt : Nat
  bs : Bool
  zs : Bool
  stg : Bool
  apitch : Nat
  bpitch : Nat
  a : Nat
  b : Nat
  sa : Nat
  sb : Nat
deriving DecidableEq, Repr

/-- Byte `o` of the B operand's memory. -/
def State.bByte (s : State) (core : Nat) (stg : Bool) (o : Nat) : Val 8 :=
  if stg then let c := s.core core; ⟨c.staging.byte o, c.stagingPsn.contains (o / 4)⟩ else s.peek o
/-- An element of `w` bits, number `j` from address `o` on. -/
def elemAt (get : Nat → Val 8) (o w j : Nat) : Nat × Bool :=
  if w = 4 then let b := get (o + j / 2); (b.v.toNat / 16 ^ (j % 2) % 16, b.psn)
  else if w = 8 then let b := get (o + j); (b.v.toNat, b.psn)
  else let b := get (o + 2 * j); let c := get (o + 2 * j + 1); (b.v.toNat + 256 * c.v.toNat, b.psn || c.psn)
/-- A[i][k] and B[k][j]. -/
def State.mmaA (s : State) (m : MmaStep) (i k : Nat) : Nat × Bool := elemAt s.peek (m.a + i * m.apitch) (mmaBits m.fmt) k
def State.mmaB (s : State) (core : Nat) (m : MmaStep) (k j : Nat) : Nat × Bool :=
  elemAt (s.bByte core m.stg) (m.b + k * m.bpitch) (mmaBits m.fmt) j
/-- The scale byte of element `k` of row or column `i` (R176). -/
def State.scaleAt (s : State) (v : Nat) (f i k : Nat) : Val 8 := s.peek (v + i * (mmaK f / 32) + k / 32)
/-- A scaled element (R28). -/
def scaled (x : Fl) (sc : Byte) : Fl := if sc = 0xFF then .nan false else
  match x with | .num n m e => .num n m (e + (sc.toNat : Int) - 127) | y => y

/-- The result of a step in one element (R44, R180). -/
def State.mmaElem (s : State) (core : Nat) (m : MmaStep) (acc : Val 32) (i j : Nat) : Val 32 :=
  let ks := List.range (mmaK m.fmt)
  let bad := acc.psn || ks.any fun k => (s.mmaA m i k).2 || (s.mmaB core m k j).2 ||
    (m.bs && ((s.scaleAt m.sa m.fmt i k).psn || (s.scaleAt m.sb m.fmt j k).psn))
  if bad then ⟨0, true⟩
  else if m.fmt = 3 then
    ⟨ks.foldl (fun t k => t + (BitVec.ofNat 8 (s.mmaA m i k).1).signExtend 32 *
      (BitVec.ofNat 8 (s.mmaB core m k j).1).signExtend 32) acc.v, false⟩
  else
    let t := mmaFmt m.fmt
    let val := fun (x : Nat) (sc : Byte) => if m.bs then scaled (t.value x) sc else t.value x
    let term := fun k =>
      let x := val (s.mmaA m i k).1 (s.scaleAt m.sa m.fmt i k).v
      if m.zs && x.isZero then Fl.num false 0 0
      else x.mul (val (s.mmaB core m k j).1 (s.scaleAt m.sb m.fmt j k).v)
    ⟨BitVec.ofNat 32 (Fmt.f32.sum 0 (Fmt.f32.value acc.v.toNat :: ks.map term)).1, false⟩
/-- The cycles of a step (R177). -/
def State.mmaCycles (s : State) (m : MmaStep) : Nat :=
  if !m.zs then 32
  else
    let live := fun i k =>
      if m.fmt = 3 then (s.mmaA m i k).1 ≠ 0
      else !((mmaFmt m.fmt).value (s.mmaA m i k).1).isZero || (m.bs && (s.scaleAt m.sa m.fmt i k).v = 0xFF)
    let u := fun g => ((List.range 8).flatMap fun i => (List.range (mmaK m.fmt)).filter fun k => live (8 * g + i) k).length
    (List.range 16).foldl (fun c g => max c ((4 * u g + mmaK m.fmt - 1) / mmaK m.fmt)) 2

/-- A bank written whole. -/
def Regs.setBank (r : Regs) (n : Nat) (f : Nat → Nat → Val 32) : Regs :=
  { r with a := r.a.putRange (16384 * n) 16384 fun e => f (e / 128) (e % 128) }
/-- A bank of +0. -/
def Regs.zeroBank (r : Regs) (n : Nat) : Regs := { r with a := r.a.splice (16384 * n) 16384 [] }
/-- A step into bank `n` of context `k`. -/
def State.mmaInto (s : State) (k n : Nat) (m : MmaStep) : State :=
  let r := (s.ctx k).regs
  let t := s.modCtx k fun c => { c with regs := c.regs.setBank n fun i j => s.mmaElem (k / 2) m (r.ra n i j) i j }
  (t.addPerf (k / 2) 0x142 1).addPerf (k / 2) 0x143 (32 - s.mmaCycles m)

/-! ## What holds MX and VA slots (R181 to R183) -/

/-- The running nest of a core. -/
def State.nestOn (s : State) (core : Nat) : Option Cmd :=
  s.cmds.find? fun c => c.unit = .nest && c.ctx / 2 = core && c.phase ≠ .queued
/-- The running nest of a context. -/
def State.nestOf (s : State) (k : Nat) : Option Cmd := (s.nestOn (k / 2)).filter fun c => c.inc = (s.ctx k).inc
/-- The bank that a slot of the ACC family names (R184). -/
def accBank (w : BitVec 32) : Option Nat :=
  if w.extractLsb' 24 7 ≠ 0x6F then none
  else some (if w.extractLsb' 0 6 = 0 then w.extractLsb' 12 6 else w.extractLsb' 18 6).toNat
/-- An ACCMERGE holds the bank until the slice accepts. -/
def State.bankHeld (s : State) (inc n : Nat) : Bool :=
  s.cmds.any fun c => c.inc = inc && c.phase ≠ .stopped && (match c.op with | .accmerge _ _ b _ => b = n | _ => false)

/-! ## Nest registers (R188 to R192) -/

/-- The writable bits of a nest register. -/
def nestMask (i : Nat) : Word64 :=
  if i = 0 then 0x7FF else if i = 1 ∨ i = 2 then 0xFFFFFF else if i = 3 then 0xFFFFFFFFFF else if i = 4 then 0xFFFFFFFFFFFF
  else if i = 5 then 0xFFFFFFFFFFF else if i = 6 then 0xFFFF
  else if i % 4 = 0 then 0xFFFFFFFF1FFFFFFF else if i % 4 = 1 then 0xFFFFFFFFFFFFFFFF else 0xFFFFFFFFFF
/-- A level of a nest (R191). -/
structure Level where
  count : Nat
  mg : Bool
  dr : Bool
  z : Bool
  cstr : Nat
  astr : Int
  bstr : Int
  sastr : Int
  sbstr : Int
  ostr : Int
deriving DecidableEq, Repr
/-- A copy of the nest registers, by index. -/
abbrev Nest := Nat → Word64
/-- Level `l` of a copy. -/
def Nest.level (n : Nest) (l : Nat) : Level :=
  let c := n (0x10 + 4 * l)
  let t := n (0x11 + 4 * l)
  { count := (c.extractLsb' 32 32).toNat, mg := c.getLsbD 28, dr := c.getLsbD 27, z := c.getLsbD 26
    cstr := (c.extractLsb' 24 2).toNat, astr := (c.extractLsb' 0 24).toInt, bstr := (t.extractLsb' 40 24).toInt
    sastr := (t.extractLsb' 20 20).toInt, sbstr := (t.extractLsb' 0 20).toInt
    ostr := ((n (0x12 + 4 * l)).extractLsb' 0 40).toInt }
/-- Fields of N.CFG, N.PITCH, N.SCALE and N.DRAIN. -/
def Nest.fmt (n : Nest) : Nat := (n 0).toNat % 8
def Nest.zs (n : Nest) : Bool := (n 0).getLsbD 3
def Nest.bs (n : Nest) : Bool := (n 0).getLsbD 4
def Nest.stg (n : Nest) : Bool := (n 0).getLsbD 5
def Nest.count (n : Nest) : Nat := ((n 0).extractLsb' 6 3).toNat
def Nest.cbank (n : Nest) : Nat := ((n 0).extractLsb' 9 2).toNat
def Nest.apitch (n : Nest) : Nat := ((n 3).extractLsb' 0 20).toNat
def Nest.bpitch (n : Nest) : Nat := ((n 3).extractLsb' 20 20).toNat
def Nest.ascb (n : Nest) : Nat := ((n 4).extractLsb' 0 24).toNat
def Nest.bscb (n : Nest) : Nat := ((n 4).extractLsb' 24 24).toNat
def Nest.dbase (n : Nest) : Nat := ((n 5).extractLsb' 0 24).toNat
def Nest.dpitch (n : Nest) : Nat := ((n 5).extractLsb' 24 20).toNat
/-- The levels in use, outermost first. -/
def Nest.levels (n : Nest) : List Level := (List.range n.count).map n.level

/-! ## Footprints (R179, R195) -/

/-- Lowest and highest value of a sum of index × stride over the levels. -/
def reach (ls : List Level) (f : Level → Int) : Int × Int :=
  ls.foldl (fun r l => let e := ((l.count : Int) - 1) * f l; (r.1 + min 0 e, r.2 + max 0 e)) (0, 0)
/-- Every sum with each index at its lowest or highest. -/
def corners (ls : List Level) (f : Level → Int) : List Int :=
  ls.foldl (fun r l => r ++ r.map fun x => x + ((l.count : Int) - 1) * f l) [0]
/-- Every sum with each index at each of its values satisfies `f`. -/
def everySum (str : Level → Int) (f : Int → Bool) : List Level → Int → Bool
  | [], x => f x
  | l :: ls, x => (List.range l.count).all fun i => everySum str f ls (x + (i : Int) * str l)
/-- An MX operand is in bounds at an offset. -/
def mxInside (core base n : Nat) (o : Int) : Bool := 0 ≤ (base : Int) + o && (mxPlace core ((base : Int) + o).toNat n).isSome
/-- An MX operand is in bounds at every corner. -/
def mxCorners (core : Nat) (base : Nat) (n : Nat) (cs : List Int) : Bool :=
  cs.all (mxInside core base n)
/-- So is a staging operand. -/
def stgCorners (base n : Nat) (cs : List Int) : Bool :=
  cs.all fun o => 0 ≤ (base : Int) + o && (base : Int) + o + n ≤ 65536
/-- Extents of A, B, a scale vector and a drain (R179). -/
def aExtent (apitch : Nat) : Nat := 127 * apitch + 32
def bExtent (fmt bpitch : Nat) : Nat := (mmaK fmt - 1) * bpitch + mmaBRow fmt
def scaleExtent (fmt : Nat) : Nat := 128 * mmaK fmt / 32
def drainExtent (dpitch : Nat) : Nat := 127 * dpitch + 512
/-- The levels above level `l`, whose indices place the tile of its pass. -/
def Nest.outer (n : Nest) (l : Nat) : List Level := n.levels.take l
/-- valid(Shadow) (R195). -/
def Nest.valid (n : Nest) (core : Nat) (merge : Bool) : Bool :=
  let ls := n.levels
  let idx := List.range n.count
  let drains := idx.filter fun l => (n.level l).dr
  1 ≤ n.count && n.count ≤ 6 && n.fmt < 6 && (!n.bs || n.fmt < 3) &&
  ls.all (fun l => l.count ≠ 0) && ls.foldl (fun p l => p * l.count) 1 ≤ 2 ^ 32 &&
  (n 1).toNat % 32 = 0 && (n 2).toNat % 32 = 0 && n.apitch % 32 = 0 && n.bpitch % 32 = 0 &&
  ls.all (fun l => l.astr % 32 = 0 && l.bstr % 32 = 0) &&
  mxCorners core (n 1).toNat (aExtent n.apitch) (corners ls (·.astr)) &&
  (if n.stg then stgCorners (n 2).toNat (bExtent n.fmt n.bpitch) (corners ls (·.bstr))
   else mxCorners core (n 2).toNat (bExtent n.fmt n.bpitch) (corners ls (·.bstr))) &&
  (!n.bs || (mxCorners core n.ascb (scaleExtent n.fmt) (corners ls (·.sastr)) &&
    mxCorners core n.bscb (scaleExtent n.fmt) (corners ls (·.sbstr)))) &&
  (drains.isEmpty || (512 ≤ n.dpitch && n.dpitch % 4 = 0 && n.dbase % 4 = 0)) &&
  (merge || ls.all fun l => !l.mg) &&
  drains.all fun d => (n.outer d).all (fun l => l.ostr % 4 = 0) &&
    everySum (·.ostr) (mxInside core n.dbase (drainExtent n.dpitch)) (n.outer d) 0
/-- The banks that the walk reaches (R183). -/
def Nest.lease (n : Nest) : List Nat :=
  (n.levels.foldl (fun bs l => (bs.flatMap fun b => (List.range (min l.count 4)).map fun i => (b + i * l.cstr) % 4).eraseDups)
    [n.cbank % 4])
/-- Offsets of merge targets: the lowest and the highest of all merge actions. -/
def Nest.mergeReach (n : Nest) : List Int :=
  match ((List.range n.count).filter fun l => (n.level l).mg).map fun l => reach (n.outer l) (·.ostr) with
  | [] => []
  | r :: rs => let x := rs.foldl (fun a b => (min a.1 b.1, max a.2 b.2)) r; [x.1, x.2]
/-- The device-local address of an MX address that R195 has checked. -/
def mxRaw (core : Nat) (a : Int) : Nat :=
  let a := a.toNat
  scratchAddr (if a / 0x800000 % 2 = 1 then core / 8 * 8 + a / 0x100000 % 8 else core) (a % 0x100000)

/-! ## The walk (R194) -/

/-- The indices of step `t`, outermost first. -/
def Nest.index (n : Nest) (t : Nat) : List Nat :=
  (n.levels.foldr (fun l (r : Nat × List Nat) => (r.1 / l.count, r.1 % l.count :: r.2)) (t, [])).2
/-- Σ index × stride over the levels above `l`. -/
def Nest.sum (n : Nest) (idx : List Nat) (l : Nat) (f : Level → Int) : Int :=
  (((n.levels.zip idx).take l).map fun e => (e.2 : Int) * f e.1).foldl (· + ·) 0
/-- The bank of the tile of a pass of level `l`; of a step when `l` is the level count. -/
def Nest.bank (n : Nest) (idx : List Nat) (l : Nat) : Nat :=
  (n.cbank + (n.sum idx l fun v => (v.cstr : Int)).toNat) % 4
/-- A pass of level `l` starts before step `idx`, or ends after it. -/
def startsPass (idx : List Nat) (l : Nat) : Bool := (idx.drop l).all (· = 0)
def Nest.endsPass (n : Nest) (idx : List Nat) (l : Nat) : Bool := ((n.levels.zip idx).drop l).all fun e => e.2 + 1 = e.1.count
/-- The step at an index. -/
def Nest.step (n : Nest) (core : Nat) (idx : List Nat) : MmaStep :=
  let at_ := fun (base : Nat) (f : Level → Int) => (base : Int) + n.sum idx n.count f
  { fmt := n.fmt, bs := n.bs, zs := n.zs, stg := n.stg, apitch := n.apitch, bpitch := n.bpitch
    a := mxRaw core (at_ (n 1).toNat (·.astr))
    b := if n.stg then (at_ (n 2).toNat (·.bstr)).toNat else mxRaw core (at_ (n 2).toNat (·.bstr))
    sa := mxRaw core (at_ n.ascb (·.sastr)), sb := mxRaw core (at_ n.bscb (·.sbstr)) }
/-- What a walk does after a step: drains and merges of the passes that end, the innermost first. -/
inductive NestAct where
  | drain (l : Nat) | merge (l : Nat)
deriving DecidableEq, Repr
def Nest.acts (n : Nest) (idx : List Nat) : List NestAct :=
  ((List.range n.count).reverse.filter fun l => n.endsPass idx l).flatMap fun l =>
    (if (n.level l).dr then [.drain l] else []) ++ (if (n.level l).mg then [.merge l] else [])
/-- The steps of a walk. -/
def Nest.steps (n : Nest) : Nat := n.levels.foldl (fun p l => p * l.count) 1

/-- The registers a running nest took at its promotion. -/
def Cmd.nest (c : Cmd) : Nest := fun i => (c.vals.getD i ⟨0, false⟩).v
/-- A drain: the tile's rows to scratchpad, poison included. -/
def State.drainTile (s : State) (k : Nat) (n : Nest) (idx : List Nat) (l : Nat) : State :=
  let bank := n.bank idx l
  let base := (n.dbase : Int) + n.sum idx l (·.ostr)
  (List.range 128).foldl (init := s) fun s r =>
    s.poke .fill (mxRaw (k / 2) (base + ((r * n.dpitch : Nat) : Int))) 512 fun i =>
      let v := (s.ctx k).regs.ra bank r (i / 4)
      ⟨v.v.extractLsb' (8 * (i % 4)) 8, v.psn⟩
/-- A tile's contents, by element. -/
def Regs.tile (r : Regs) (n : Nat) : Sparse (Val 32) :=
  (r.a.filter fun e => 16384 * n ≤ e.1 ∧ e.1 < 16384 * (n + 1)).map fun e => (e.1 - 16384 * n, e.2)
/-- The request of a merge to the pieces of its tile: P, P2 and the MS of their leaves (R198). -/
def mergeReq (cmd asid va n : Nat) (ps : List Piece) (data : Option (Sparse (Val 32))) : MergeReq :=
  let p := ps.headD { va, off := 0, len := 0 }
  let q := ps[1]?
  { cmd, p := p.pa % 2 ^ 50, p2 := q.map fun q => q.pa % 2 ^ 50, n, data, asid, va
    ms := (leafMs p.leaf, (q.map fun q => leafMs q.leaf).getD false) }
/-- A merge action: its contribution is sent, and the walk waits until it is accepted. -/
def nestMerge (c : Cmd) (n : Nest) (idx : List Nat) (l : Nat) : M Unit := do
  let cap := c.caps.head?.getD {}
  let va := (((cap.base : Int) + (c.xs.headD 0).toNat + n.sum idx l (·.ostr)) % 2 ^ 64).toNat
  let ps ← engSpread (.cmd c.id) (c.ctx / 2) c.asid va 65536 .write (cap.perm &&& permSN ≠ 0)
  raiseIf (← reads fun s => ps.any fun p => !s.inHbm p.pa) (.prot (BitVec.ofNat 64 va))
  change fun s =>
    let r := mergeReq c.id c.asid va ((n 6).toNat + 1) ps (some ((s.ctx c.ctx).regs.tile (n.bank idx l)))
    ({ s with mergeQ := s.mergeQ ++ [r] } : State).modCmd c.id fun d => { d with phase := .waiting }
/-- One unit of a walk: a step with the zeroing before it, a drain, or a merge action. A merge action that fails sends
nothing, and the walk goes on (R196). -/
def State.nestWork (s : State) (c : Cmd) : State :=
  let n := c.nest
  let t := c.pos / 16
  let a := c.pos % 16
  let idx := n.index t
  let acts := n.acts idx
  let k := c.ctx
  let go := fun (s : State) =>
    if a < acts.length then s.modCmd c.id fun d => { d with pos := c.pos + 1 }
    else if t + 1 < n.steps then s.modCmd c.id fun d => { d with pos := 16 * (t + 1) }
    else s.modCmd c.id fun d => { d with phase := .stopped }
  if a = 0 then
    let s := ((List.range n.count).filter fun l => (n.level l).z && startsPass idx l).foldl
      (fun s l => s.modCtx k fun x => { x with regs := x.regs.zeroBank (n.bank idx l) }) s
    let s := s.mmaInto k (n.bank idx n.count) (n.step (k / 2) idx)
    go (s.modCtx k fun x => if x.inc = c.inc then { x with regs := { x.regs with nsteps := x.regs.nsteps + 1 } } else x)
  else match acts[a - 1]? with
    | some (.drain l) => go (s.drainTile k n idx l)
    | some (.merge l) =>
      let s' := cmdOut c.id (nestMerge c n idx l) s
      match (s'.cmd? c.id).map (·.phase) with
      | some Phase.stopped =>
        let s' := s'.modCmd c.id fun d => { d with phase := .running, fail := match d.fail with
          | some t => some (if t.cause = 0x20 ∨ t.cause = 0x27 ∨ t.cause = 0x32 then t else { t with cause := 0x22 })
          | none => none }
        go s'
      | _ => s'
    | none => go s

/-- The smallest byte ranges that cover the reads and the drain writes of a walk (R196). -/
def Nest.spans (n : Nest) (core : Nat) : List (Nat × Nat × Bool) :=
  let span := fun (w : Bool) (base : Int) (ext : Nat) (x : Int × Int) => (mxRaw core (base + x.1), mxRaw core (base + x.2) + ext, w)
  let ls := n.levels
  let drains := (List.range n.count).filter fun l => (n.level l).dr
  [span false (n 1).toNat (aExtent n.apitch) (reach ls (·.astr))] ++
    (if n.stg then [] else [span false (n 2).toNat (bExtent n.fmt n.bpitch) (reach ls (·.bstr))]) ++
    (if n.bs then [span false n.ascb (scaleExtent n.fmt) (reach ls (·.sastr)),
      span false n.bscb (scaleExtent n.fmt) (reach ls (·.sbstr))] else []) ++
    drains.map fun l => span true n.dbase (drainExtent n.dpitch) (reach (n.outer l) (·.ostr))
/-- A nest is promoted (R193): the shadow copy becomes active, the banks are leased, the ranges stand in the scoreboard. -/
def State.promote (s : State) (e : Cmd) : State :=
  let s := s.modCtx e.ctx fun x => { x with regs := { x.regs with nactive := x.regs.nshadow, nrun := true, nsteps := 0 } }
  (s.addCmd e).board e

/-! ## Slots -/

/-- The MX address checks of MMA (R180). -/
def mxAligned (a : Word64) (n : Nat) : M Nat := mxAt a n
/-- MMA. -/
def execMma (d a b : BitVec 6) (g bs z : Bool) (f : BitVec 3) (st : State) : Host.Outcome State Fault Refusal :=
  slotOut (do
    let xa ← reads fun s => s.old.rx a.toNat
    raiseIf xa.psn (.poison (regTag 0 a.toNat))
    let xb ← xClean b.toNat
    let n : Nest ← reads fun s => fun i => s.regs.nactive.get 0 i
    raiseIf (xa.v.toNat % 32 ≠ 0 ∨ n.apitch % 32 ≠ 0) (.align xa.v)
    let pa ← mxAt xa.v (aExtent n.apitch)
    raiseIf (xb.toNat % 32 ≠ 0 ∨ n.bpitch % 32 ≠ 0) (.align xb)
    let ext := bExtent f.toNat n.bpitch
    let pb ← if g then do
        raiseIf (65536 < xb.toNat + ext) (.scratchBounds xb)
        pure xb.toNat
      else mxAt xb ext
    let scale := fun v => if bs then mxAt (BitVec.ofNat 64 v) (scaleExtent f.toNat) else pure 0
    let sa ← scale n.ascb
    let sb ← scale n.bscb
    let k ← self
    if ← reads fun s => (s.nestOn (k / 2)).isSome || s.bankHeld (s.ctx k).inc d.toNat then hold
    change fun s => s.mmaInto k d.toNat
      { fmt := f.toNat, bs, zs := z, stg := g, apitch := n.apitch, bpitch := n.bpitch, a := pa, b := pb, sa, sb }) st

/-- NSET, NSET.A, NGET, NGET.A (R192). -/
def nestWait : M Unit := do if ← reads fun s => (s.nestOf s.cur).isSome then hold
def execNset (a i : BitVec 6) (st : State) : Host.Outcome State Fault Refusal :=
  slotOut (do
    let x ← xClean a.toNat
    setRegs fun r => { r with nshadow := r.nshadow.put i.toNat (x &&& nestMask i.toNat) }) st
def execNsetA (a i : BitVec 6) (st : State) : Host.Outcome State Fault Refusal :=
  slotOut (do
    let x ← xClean a.toNat
    nestWait
    setRegs fun r => { r with nactive := r.nactive.put i.toNat (x &&& nestMask i.toNat) }) st
def execNget (d i : BitVec 6) (st : State) : Host.Outcome State Fault Refusal :=
  slotOut (do
    setRegs fun r => r.wx d.toNat ⟨if i = 7 then r.nstate else r.nshadow.get 0 i.toNat, false⟩) st
def execNgetA (d i : BitVec 6) (st : State) : Host.Outcome State Fault Refusal :=
  slotOut (do
    if i ≠ 7 then nestWait
    setRegs fun r => r.wx d.toNat ⟨if i = 7 then r.nstate else r.nactive.get 0 i.toNat, false⟩) st

/-- What NGO checks at the head of the MX queue (R193): the first cause. -/
def ngoCheck (merge : Bool) (a b : BitVec 6) : M (Option Trap) := do
  let c ← reads fun s => s.old.rc a.toNat
  let x ← reads fun s => s.old.rx b.toNat
  let n : Nest ← reads fun s => fun i => s.regs.nshadow.get 0 i
  let core ← ownCore
  let va := fun o : Int => (((c.base : Int) + x.v.toNat + o) % 2 ^ 64).toNat
  if merge && c.psn then pure (some (.poison (regTag 3 a.toNat)))
  else if merge && x.psn then pure (some (.poison (regTag 0 b.toNat)))
  else if !n.valid core merge then pure (some { cause := 0x31 })
  else if !merge then pure none
  else
    match n.mergeReach.findSome? fun o => c.check (va o) 65536 permW with
    | some (cause, e) => pure (some { cause, addr := if cause = 0x10 then 0 else BitVec.ofNat 64 e, info := regTag 3 a.toNat })
    | none =>
      let strides := ((List.range n.count).filter fun l => (n.level l).mg).flatMap fun l => n.outer l
      if va 0 % 128 ≠ 0 ∨ strides.any fun l => l.ostr % 128 ≠ 0 then pure (some (.align (BitVec.ofNat 64 (va 0)))) else pure none
/-- An older slot of the VA queue, or an ACCMERGE that no slice has accepted, names one of the banks (R183). -/
def State.bankBusy (s : State) (bs : List Nat) : Bool :=
  let c := s.ctx s.cur
  let names := fun q : QSlot => q.exu = .va && (match accBank q.word with | some b => bs.contains b | none => false)
  (c.older.any fun i => i.todo.any names) || (c.issue.todo.any fun q => q.idx < c.issue.cur && names q) || bs.any (s.bankHeld c.inc)
/-- NGO at the head of the MX queue. One whose checks fail finishes its token with the failure, and the cause is raised. -/
def ngo (merge : Bool) (d a b : BitVec 6) (st : State) : Host.Outcome State Fault Refusal :=
  slotOut (do
    let k ← self
    let deps ← reads fun s => s.slot.deps
    if ← reads fun s => (s.nestOn (k / 2)).isSome || deps.any fun t => !(s.ctx k).satisfied t then hold
    match ← ngoCheck merge a b with
    | none =>
      let n : Nest ← reads fun s => fun i => s.regs.nshadow.get 0 i
      if ← reads fun s => s.bankBusy n.lease then hold
      let c ← reads fun s => s.old.rc a.toNat
      let x ← reads fun s => (s.old.rx b.toNat).v
      let spans := n.spans (k / 2)
      if ← reads fun s => !s.cmdReady (s.newCmd 0 .nest (.nest merge) [] [] spans) then hold
      let tok ← slotToken d.toNat 8
      change fun s =>
        let e := s.newCmd tok .nest (.nest merge) (if merge then [c] else []) (if merge then [x] else []) spans
        s.promote { e with phase := .running, path := n.lease, vals := (List.range 64).map fun i => (⟨n i, false⟩ : Val 64) }
    | some t =>
      let tok ← slotToken d.toNat 8
      fun s =>
        let ch := (s.ctx k).chan 8
        let y := (if (s.ctx k).satisfied tok then ch else ch.fail (tokenSeq tok) t.cause).finish (tokenSeq tok)
        let inc := (s.ctx k).inc
        let s := (s.modCtx k fun e => e.setChan 8 y).crossChan inc 8 ch.w y.w
        .error (.gone ((s.settleBars inc tok true).raise t))) st
def execNgo (d : BitVec 6) (st : State) : Host.Outcome State Fault Refusal := ngo false d 0 0 st
def execNgoM (d a b : BitVec 6) (st : State) : Host.Outcome State Fault Refusal := ngo true d a b st

/-! ## The ACC family (R184) -/

/-- A VA slot that names a bank that a running nest leases waits and counts in LOD_VA; one that an ACCMERGE holds waits. -/
def bankWait (n : Nat) : M Unit := do
  let k ← self
  let c ← reads fun s => s.ctx k
  if ← reads fun s => ((s.nestOf k).map fun e => e.path.contains n).getD false then
    fun s => .error (.wait (if c.counted.contains .va then s else s.modCtx k fun c =>
      { c with counted := .va :: c.counted, regs := { c.regs with lodVA := c.regs.lodVA + 1 } }))
  if ← reads fun s => s.bankHeld c.inc n then hold
/-- The row and the half that an index names. -/
def accIndex (b : BitVec 6) : M (Nat × Nat) := do
  let x ← xClean b.toNat
  pure (x.toNat / 2 % 128, x.toNat % 2 * 64)
def execAccrd (d a b : BitVec 6) (st : State) : Host.Outcome State Fault Refusal :=
  slotOut (do
    let (r, h) ← accIndex b
    bankWait a.toNat
    let old ← reads fun s => s.old
    setRegs fun g => g.wv d.toNat fun l => if old.active l then g.ra a.toNat r (h + l) else g.rv d.toNat l) st
def execAccwr (d a b : BitVec 6) (st : State) : Host.Outcome State Fault Refusal :=
  slotOut (do
    let (r, h) ← accIndex b
    bankWait d.toNat
    let old ← reads fun s => s.old
    setRegs fun g => g.wa d.toNat r fun j =>
      if h ≤ j ∧ j < h + 64 ∧ old.active (j - h) then old.rv a.toNat (j - h) else g.ra d.toNat r j) st
def execAccz (d : BitVec 6) (st : State) : Host.Outcome State Fault Refusal :=
  slotOut (do
    bankWait d.toNat
    setRegs fun g => g.zeroBank d.toNat) st

/-! ## OBCAST (R186) -/

def execObcast (d a b l : BitVec 6) (st : State) : Host.Outcome State Fault Refusal :=
  slotOut (do
    let x ← xClean a.toNat
    let y ← xClean b.toNat
    let len := (l.toNat + 1) * 1024
    let doff := y.toNat % 65536
    raiseIf (x.toNat % 32 ≠ 0) (.align x)
    raiseIf (doff % 32 ≠ 0) (.align y)
    raiseIf (2 ^ 20 < x.toNat + len) (.scratchBounds x)
    raiseIf (2 ^ 24 ≤ y.toNat ∨ 65536 < doff + len) (.scratchBounds y)
    let core ← ownCore
    let src := scratchAddr core x.toNat
    let mask := y.toNat / 65536 % 256
    let op := CmdOp.obcast src doff len mask
    let spans := if mask = 0 then [] else [(src, src + len, false)]
    if ← reads fun s => !s.cmdReady (s.newCmd 0 .stage op [] [x, y] spans) then hold
    let tok ← slotToken d.toNat 8
    change fun s =>
      let bs := if mask = 0 then [] else s.peekN src len
      let e := s.newCmd tok .stage op [] [x, y] spans
      (s.addCmd { e with phase := .running, raw := bs }).board e) st
/-- A 32-byte unit written to a staging buffer, whole, with its poison by word. -/
def State.stageUnit (s : State) (core dst : Nat) (bs : List (Val 8)) : State :=
  s.modCore core fun c =>
    { c with
      staging := c.staging.write dst 32 fun i => (byteAt bs i).v
      stagingPsn := c.stagingPsn.setRange (dst / 4) 8 fun w => (byteAt bs (4 * w)).psn }
/-- One unit of an OBCAST: a 32-byte unit of what its slot read, to one core. -/
def State.obcastWork (s : State) (c : Cmd) (doff len mask : Nat) : State :=
  let cores := (List.range 8).filter fun j => mask.testBit j
  let units := len / 32
  if cores.length * units ≤ c.pos then s.stopCmd c.id none
  else
    let core := c.ctx / 2 / 8 * 8 + cores.getD (c.pos / units) 0
    let u := 32 * (c.pos % units)
    (s.stageUnit core (doff + u) (c.raw.drop u)).modCmd c.id fun d => { d with pos := d.pos + 1 }

/-! ## MOPEN and ACCMERGE (R199) -/

/-- The target of a merge: its capability, the offset, its address, its contributor count, and the pieces of the tile. -/
def mergeForm (a b : BitVec 6) (n1 : Word64) : M (Cap × Word64 × Nat × Nat × List Piece) := do
  raiseIf (65535 < n1.toNat) .illegalFunction
  let c ← cClean a.toNat
  let x ← xClean b.toNat
  let va := (c.base + x.toNat) % 2 ^ 64
  capCheck a.toNat c va 65536 permW
  raiseIf (va % 128 ≠ 0) (.align (BitVec.ofNat 64 va))
  let ps ← capSpread a.toNat c va 65536 1 permW .write true
  raiseIf (← reads fun s => ps.any fun p => !s.inHbm p.pa) (.prot (BitVec.ofNat 64 va))
  pure (c, x, va, n1.toNat + 1, ps)
/-- The request leaves for the slice, and the slot leaves the MX queue (R181): the command waits for the slice. A tile on a page with
COW waits for its copy, or the command fails when the copy cannot start (R228). -/
def mergeSend (d : Nat) (op : CmdOp) (c : Cap) (x : Word64) (va n : Nat) (ps : List Piece) (data : State → Option (Sparse (Val 32))) :
    M Unit := do
  let asid ← ownAsid
  if ← reads fun s => !s.cmdReady (s.newCmd 0 .merge op [c] [x] []) then hold
  let dry ← reads fun s => ps.find? fun p => leafCow p.leaf && !s.copying asid p.va && !s.cowWant.contains (asid, p.va / 0x10000) && !s.poolReady
  if dry.isNone then cowHold (← reads State.me) asid ps
  let tok ← slotToken d 16
  change fun s =>
    let e := s.newCmd tok .merge op [c] [x] []
    match dry with
    | some p => s.addCmd { e with phase := .stopped, fail := some { cause := 0x27, addr := BitVec.ofNat 64 p.va } }
    | none => { s.addCmd { e with phase := .waiting } with mergeQ := s.mergeQ ++ [mergeReq e.id asid va n ps (data s)] }
def execMopen (d a b : BitVec 6) (n : BitVec 5) (st : State) : Host.Outcome State Fault Refusal :=
  slotOut (do
    let (c, x, va, n, ps) ← mergeForm a b (← reads fun s => s.immZ n)
    mergeSend d.toNat (.mopen va n) c x va n ps fun _ => none) st
def execAccmerge (d a b : BitVec 6) (n : BitVec 2) (z : Bool) (k : BitVec 2) (st : State) : Host.Outcome State Fault Refusal :=
  slotOut (do
    let (c, x, va, n, ps) ← mergeForm a b (← reads fun s => s.immZ n)
    let inc ← reads fun s => (s.ctx s.cur).inc
    if ← reads fun s => s.bankHeld inc k.toNat || ((s.nestOf s.cur).map fun e => e.path.contains k.toNat).getD false then hold
    mergeSend d.toNat (.accmerge va n k.toNat z) c x va n ps fun s => some (s.regs.tile k.toNat)) st

/-! ## The merge buffers (R200) -/

/-- The slice of a target. -/
def MergeReq.slice (r : MergeReq) : Nat := homeSlice r.p
/-- The open buffers of a slice. -/
def State.openIn (s : State) (slice : Nat) : List MergeBuf := s.merges.filter fun b => homeSlice b.p = slice
/-- A request answered: the command goes on, or stops when the request was its own. -/
def State.mergeAnswer (s : State) (r : MergeReq) (fail : Option Trap) : State :=
  let s := { s with mergeQ := s.mergeQ.filter fun q => q ≠ r }
  match s.cmd? r.cmd with
  | none => s
  | some c =>
    match c.op with
    | .nest _ => s.modCmd c.id fun d => { d with phase := .running, pos := d.pos + 1, fail := d.fail <|> fail }
    | .accmerge _ _ b zr =>
      let s := if zr && fail.isNone && s.ctxOf c.inc = some c.ctx then
        s.modCtx c.ctx fun x => { x with regs := x.regs.zeroBank b } else s
      s.stopCmd c.id fail
    | _ => match fail with | some t => s.stopCmd c.id (some t) | none => s
/-- MERGE_OVERFLOW at a target. -/
def mergeOverflow (r : MergeReq) : Trap := { cause := 0x32, addr := BitVec.ofNat 64 r.p }
/-- A slice handles a request: an open or a contribution. -/
def State.mergeTake (s : State) (r : MergeReq) : State :=
  let add := fun b : MergeBuf => match r.data with
    | some d => { b with parts := b.parts ++ [d], uses := b.uses ++ [(r.asid, r.va)] }
    | none => { b with opener := some r.cmd, uses := b.uses ++ [(r.asid, r.va)] }
  match s.merges.find? fun b => b.p = r.p with
  | some b =>
    if b.n ≠ r.n ∨ b.p2 ≠ r.p2 ∨ (match r.data with | none => b.opener.isSome | some _ => decide (b.parts.length = b.n)) = true then
      s.mergeAnswer r (some (mergeOverflow r))
    else State.mergeAnswer { s with merges := s.merges.map fun x => if x.p = r.p then add x else x } r none
  | none =>
    if (s.openIn r.slice).length < 8 then
      State.mergeAnswer { s with merges := s.merges ++ [add { p := r.p, p2 := r.p2, n := r.n, ms := r.ms }] } r none
    else { s with mergeQ := s.mergeQ.map fun q => if q = r then { q with refused := some s.gt } else q }
/-- The element that a merge writes (R45). -/
def mergeSum (vs : List (Val 32)) : Val 32 :=
  if vs.any (·.psn) then ⟨0, true⟩ else ⟨BitVec.ofNat 32 (Fmt.f32.sum 0 (vs.map fun v => Fmt.f32.value v.v.toNat)).1, false⟩
/-- A buffer is ready to close. -/
def MergeBuf.full (b : MergeBuf) : Bool := b.opener.isSome && b.parts.length = b.n
/-- The close of a merge: every element written, the opener's command stopped, the buffer free. Lines of a page with MS are written as
R214 says. -/
def State.mergeClose (s : State) (b : MergeBuf) : State :=
  let first := min 65536 (0x10000 - b.p % 0x10000)
  let at_ := fun e => match b.p2 with
    | some q => if 4 * e < first then b.p + 4 * e else q + (4 * e - first)
    | none => b.p + 4 * e
  let al := fun e => if (if b.p2.isSome ∧ first ≤ 4 * e then b.ms.2 else b.ms.1) then Alloc.ms else .fill
  let s := (List.range 512).foldl (init := s) fun s line =>
    let vs := (List.range 32).map fun i => mergeSum (b.parts.map fun d => d.get ⟨0, false⟩ (32 * line + i))
    s.poke (al (32 * line)) (at_ (32 * line)) 128 fun i =>
      let v := vs.getD (i / 4) ⟨0, false⟩
      ⟨v.v.extractLsb' (8 * (i % 4)) 8, v.psn⟩
  let s := { s with merges := s.merges.filter fun x => x.p ≠ b.p }
  match b.opener with | some id => s.stopCmd id none | none => s
/-- A slice handles a request. A buffer that an earlier request has made ready is closed before it (R200). -/
def State.mergeHandle (s : State) (r : MergeReq) : State :=
  (((s.openIn r.slice).filter MergeBuf.full).foldl State.mergeClose s).mergeTake r

end Sys2Proof.Machine
end

