-- ==== Sys2Proof/Machine/Qubit.lean ====
section
/-! DEFINITION. The amplitude gate engine (R356 to R372): the AGE instructions, the group, and the work of the AGEs. One unit
of work is the sectors of an amplitude group, one leaf, or one step with a partner. -/
namespace Sys2Proof.Machine

/-! ## The group (R356 to R361) -/

def csrAgeCtl : Nat := 0xC00
def csrAgeSeq : Nat := 0xC08
def csrAgeDone : Nat := 0xC10
/-- Fields of AGE.CTL. -/
def State.ageBound (s : State) : Bool := (s.csr csrAgeCtl).getLsbD 63
def State.ageBroken (s : State) : Bool := (s.csr csrAgeCtl).getLsbD 62
def State.ageFmt (s : State) : Fmt := if (s.csr csrAgeCtl).getLsbD 56 then .f64 else .f32
def State.lbits (s : State) : Nat := ((s.csr csrAgeCtl).extractLsb' 50 6).toNat
def State.gbits (s : State) : Nat := ((s.csr csrAgeCtl).extractLsb' 46 4).toNat
def State.devIdx (s : State) : Nat := ((s.csr csrAgeCtl).extractLsb' 32 14).toNat
/-- Bytes of a part and of an amplitude. -/
def State.partSize (s : State) : Nat := if (s.csr csrAgeCtl).getLsbD 56 then 8 else 4
def State.ampSize (s : State) : Nat := 2 * s.partSize
/-- The map (R359, R361). -/
def State.qmap (s : State) (q : Nat) : Nat := ((s.csr (0xC40 + 8 * (q / 8))).extractLsb' (8 * (q % 8)) 8).toNat
def State.setQmap (s : State) (f : Nat → Nat) : State :=
  (List.range 8).foldl (fun s m => s.setCsr (0xC40 + 8 * m)
    (BitVec.ofNat 64 ((List.range 8).foldl (fun n b => n + f (8 * m + b) % 256 * 256 ^ b) 0))) s
/-- The map as a list of 64 entries. -/
def State.qmaps (s : State) : List Nat := (List.range 64).map s.qmap
/-- The entries of two qubits exchanged. -/
def swapEntries (m : List Nat) (a b : Nat) : List Nat := (m.set a (m.getD b 0xFF)).set b (m.getD a 0xFF)
/-- The qubit at a physical bit. -/
def qubitAt (m : List Nat) (p : Nat) : Nat := m.findIdx (· = p)

/-! ## Amplitudes (R357) -/

/-- An amplitude: the bits of its parts, and its poison. -/
structure Amp where
  re : Nat := 0
  im : Nat := 0
  psn : Bool := false
deriving DecidableEq, Repr
/-- The byte offset in the region of local physical index `i` (column above the ℓ local bits). -/
def State.ampOffset (s : State) (i : Nat) : Nat :=
  let e := s.ampSize
  let a := 4096 / e
  let c := i / 2 ^ s.lbits
  let l := i % 2 ^ s.lbits
  65536 * (l / a) + 4096 * (8 * (c % 2) + c / 2) + e * (l % a)
/-- Its device-local address, and the page's MS. -/
def State.ampPlace (s : State) (i : Nat) : Nat × Alloc :=
  let o := s.ampOffset i
  let p := s.age.pages.getD (o / 65536) (0, false)
  ((p.1 + o % 65536) % 2 ^ 50, if p.2 then .ms else .fill)
/-- An amplitude from its bytes, and its bytes. -/
def ampOf (w : Nat) (bs : List (Val 8)) : Amp := { re := leNat (bs.take w), im := leNat ((bs.drop w).take w), psn := anyPsn bs }
def Amp.bytes (w : Nat) (a : Amp) : List (Val 8) :=
  if a.psn then toBytes (2 * w) 0 true else toBytes w a.re false ++ toBytes w a.im false
/-- An amplitude read from memory. -/
def State.amp (s : State) (i : Nat) : Amp := ampOf s.partSize (s.peekN (s.ampPlace i).1 s.ampSize)
/-- An amplitude as the command that runs has left it: what its earlier phases have made of it, else that of memory (R365). -/
def State.ampIn (s : State) (r : AgeRun) (i : Nat) : Amp :=
  match r.amps.find i with
  | some (re, im, psn) => { re, im, psn }
  | none => s.amp i
/-- The map as the command that runs has left it. -/
def State.mapIn (s : State) (r : AgeRun) : List Nat := r.map.getD s.qmaps
/-- Amplitudes in a 32-byte sector. -/
def State.perSector (s : State) : Nat := min (32 / s.ampSize) (2 ^ s.lbits)
/-- A sector (its number among the device's) with the amplitudes that `f` gives; nothing is written when it gives none. -/
def State.writeSector (s : State) (f : Nat → Option Amp) (sec : Nat) : State :=
  let n := s.perSector
  let is := (List.range n).map fun j => sec * n + j
  if is.all fun i => (f i).isNone then s
  else
    let (a, al) := s.ampPlace (sec * n)
    s.pokeL al a (is.flatMap fun i => ((f i).getD (s.amp i)).bytes s.partSize)
/-- The same in a command: amplitudes that several phases move stand in the run until it puts them in force (R365). -/
def State.putSector (s : State) (r : AgeRun) (f : Nat → Option Amp) (sec : Nat) : AgeRun × State :=
  if r.staged then
    let n := s.perSector
    ((List.range n).foldl (fun (r : AgeRun) j =>
      match f (sec * n + j) with
      | some a => { r with amps := r.amps.put (sec * n + j) (a.re, a.im, a.psn) }
      | none => r) r, s)
  else (r, s.writeSector f sec)
/-- Index `i` with bit `b` set, and the orbit of sectors under index bits. -/
def orbit (bits : List Nat) (sec : Nat) : List Nat := bits.foldl (fun o b => o ++ o.map fun x => x ^^^ 2 ^ b) [sec]
/-- The sectors of the group of sector `sec` rewritten when `sec` is the group's least: the new amplitudes come from the old
ones by `f`; `bits` are the index bits that `f` moves along. A sector that nothing in it changes is not read (R367). -/
def State.sectorGroup (s : State) (r : AgeRun) (bits : List Nat) (sec : Nat) (f : (Nat → Amp) → Nat → Option Amp) : AgeRun × State :=
  let n := s.perSector
  let high := (bits.filter fun b => n ≤ 2 ^ b ∧ b < s.lbits + 4).map fun b => b - Nat.log2 n
  let secs := orbit high.eraseDups sec
  if secs.any fun x => x < sec then (r, s)
  else
    let new := f (s.ampIn r)
    let out := secs.map fun x => (x, (List.range n).map fun j => (x * n + j, new (x * n + j)))
    let live := out.filter fun e => e.2.any fun a => a.2.isSome
    let s1 := live.foldl (fun (s : State) e => let (a, al) := s.ampPlace (e.1 * n); s.touchRead al a (n * s.ampSize)) s
    live.foldl (fun rs e => rs.2.putSector rs.1 (fun i => ((e.2.find? fun a => a.1 = i).map (·.2)).getD none) e.1) (r, s1)
/-- Sectors of the device. -/
def State.sectors (s : State) : Nat := 2 ^ (s.lbits + 4) / s.perSector

/-! ## Gates (R46, R366, R367) -/

/-- Targets and controls of a qubit operand: qubit, required value. -/
def targetsOf (q : Word64) (k : Nat) : List Nat := (List.range k).map fun j => (q.extractLsb' (6 * j) 6).toNat
def controlsOf (q : Word64) (n : Nat) : List (Nat × Bool) :=
  (List.range n).map fun m => ((q.extractLsb' (18 + 6 * m) 6).toNat, q.getLsbD (54 + m))
/-- Fields beyond the counts are 0. -/
def gateFields (q : Word64) (k n : Nat) : Bool :=
  (q.extractLsb' 60 4 = 0) && ((List.range 3).all fun j => j < k || q.extractLsb' (6 * j) 6 = 0) &&
    (List.range 6).all fun m => m < n || (q.extractLsb' (18 + 6 * m) 6 = 0 && !q.getLsbD (54 + m))
/-- The physical index on this device with its device bits. -/
def State.fullIndex (s : State) (i : Nat) : Nat := i + s.devIdx * 2 ^ (s.lbits + 4)
/-- Every control holds at a device's index, under a map. -/
def State.controlled (s : State) (m : List Nat) (cs : List (Nat × Bool)) (i : Nat) : Bool :=
  cs.all fun c => (s.fullIndex i).testBit (m.getD c.1 0xFF) = c.2
/-- Product terms of a complex product: real part, imaginary part. -/
def mulTerms (t : Fmt) (ur ui : Nat) (a : Amp) : List Fl × List Fl :=
  let f := t.value
  ([(f ur).mul (f a.re), ((f ui).mul (f a.im)).flip true], [(f ur).mul (f a.im), (f ui).mul (f a.re)])
/-- Element `n` of an operator read from its bytes. -/
def opElem (w : Nat) (bs : List (Val 8)) (n : Nat) : Nat × Nat :=
  let e := ampOf w ((bs.drop (2 * w * n)).take (2 * w))
  (e.re, e.im)
/-- The new amplitude at `i` of a gate (R46), none where a control fails. -/
def State.gateAt (s : State) (qm : List Nat) (diag : Bool) (ts : List Nat) (cs : List (Nat × Bool)) (u : List (Val 8)) (get : Nat → Amp) (i : Nat) :
    Option Amp :=
  if !s.controlled qm cs i then none
  else
    let t := s.ageFmt
    let w := s.partSize
    let bits := ts.map fun q => qm.getD q 0xFF
    let r := (List.range bits.length).foldl (fun n j => n + (i.testBit (bits.getD j 0)).toNat * 2 ^ j) 0
    let at_ := fun m => (List.range bits.length).foldl (fun (x : Nat) j =>
      let p := bits.getD j 0
      if x.testBit p = m.testBit j then x else x ^^^ 2 ^ p) i
    let k := 2 ^ bits.length
    let terms := if diag then
        let e := opElem w u r
        [(mulTerms t e.1 e.2 (get i), (get i).psn)]
      else (List.range k).map fun m =>
        let e := opElem w u (k * r + m)
        (mulTerms t e.1 e.2 (get (at_ m)), (get (at_ m)).psn)
    if terms.any fun x => x.2 then some { psn := true }
    else some { re := (t.sum 0 (terms.flatMap fun x => x.1.1)).1, im := (t.sum 0 (terms.flatMap fun x => x.1.2)).1 }
/-- exchange(x, h) on one device: bits x and h of the index change places (R368). -/
def swapAt (x h : Nat) (get : Nat → Amp) (i : Nat) : Option Amp :=
  if i.testBit x = i.testBit h then none else some (get (i ^^^ 2 ^ x ^^^ 2 ^ h))
/-- The exchanges that bring a gate's targets into local bits, in order, and the map after them (R367). -/
def gatherTargets (l : Nat) (ts : List Nat) (m : List Nat) : List (Nat × Nat) × List Nat :=
  ts.foldl (init := ([], m)) fun (xs, m) q =>
    let x := m.getD q 0xFF
    if x < l then (xs, m)
    else match ((List.range l).reverse).find? fun p => !ts.contains (qubitAt m p) with
      | some h => (xs ++ [(x, h)], swapEntries m q (qubitAt m h))
      | none => (xs, m)
/-- The phases of a QBSWAP (R370). -/
def swapPhases (l x y q1 q2 : Nat) : List AgePhase :=
  if x = y then []
  else if x < l ∧ y < l then [.exchange x y false, .entries q1 q2]
  else if x < l then [.exchange y x false, .entries q1 q2]
  else if y < l then [.exchange x y false, .entries q1 q2]
  else [.exchange x (l - 1) false, .exchange y (l - 1) false, .exchange x (l - 1) false, .entries q1 q2]
/-- A phase reaches a partner device. -/
def AgePhase.far (p : AgePhase) (l : Nat) : Bool :=
  match p with | .exchange x _ _ => l + 4 ≤ x | .level _ => true | _ => false
/-- A phase moves or changes amplitudes, which several of a command do at once for others (R365). -/
def AgePhase.moves (p : AgePhase) : Bool := match p with | .exchange .. => true | .gate => true | _ => false

/-! ## The start of a command (R363, R364, R370) -/

def Cmd.ageRun (c : Cmd) : AgeRun := c.age.getD {}
def qbTrap (c : Cmd) (cause : BitVec 8) : Trap := { cause, addr := BitVec.ofNat 64 c.cap.base }
def qbInvalid : Trap := { cause := 0x35 }
/-- A scratchpad operand: ALIGN_FAULT, SCRATCH_BOUNDS; its device-local address. -/
def ageAt (c : Cmd) (a n align : Nat) : M Nat := do
  raiseIf (a % align ≠ 0) (.align (BitVec.ofNat 64 a))
  match mxPlace (c.ctx / 2) a n with
  | some p => pure p
  | none => raise (.scratchBounds (BitVec.ofNat 64 a))
/-- A scratchpad operand that is read: poison is control data. -/
def ageBytes (c : Cmd) (a n align : Nat) : M (List (Val 8)) := do
  let p ← ageAt c a n align
  let bs ← reads fun s => s.peekN p n
  raiseIf (anyPsn bs) (.poison 0)
  pure bs
/-- The task of a command leads the bound group. -/
def State.ageLedBy (s : State) (c : Cmd) : Bool :=
  let ctl := s.csr csrAgeCtl
  ctl.getLsbD 63 && decide ((ctl.extractLsb' 16 12).toNat = c.task ∧ (ctl.extractLsb' 0 16).toNat = c.launch)
/-- The issuer is the leader of the bound group, which is not broken unless `broken` allows it. -/
def ageLeader (c : Cmd) (broken : Bool) : M Unit := do
  raiseIf (← reads fun s => !s.ageLedBy c) (.prot 0)
  raiseIf ((← reads State.ageBroken) && !broken) qbInvalid
/-- The qubits named: in use, and none twice. -/
def ageQubits (qs : List Nat) : M Unit := do
  raiseIf (← reads fun s => qs.any fun q => s.qmap q = 0xFF) qbInvalid
  raiseIf (qs.eraseDups.length ≠ qs.length) qbInvalid
/-- The phases of a command: a digest comparison first when a phase reaches a partner; last what they made is put in force, when they
move amplitudes. -/
def agePhases (l : Nat) (ps : List AgePhase) : List AgePhase :=
  (if ps.any fun p => p.far l then [.digest] else []) ++ ps ++ if ps.any AgePhase.moves then [.commit] else []
/-- The run of a command whose checks have passed. -/
def ageBegin (c : Cmd) (ps : List AgePhase) (read : List (Val 8)) : M Unit := change fun s =>
  let d := Config.digest (leBytes 4 (c.path.headD 0) ++ c.xs.flatMap (fun x => leBytes 8 x.toNat) ++ read.map (·.v))
  let run : AgeRun := { c.ageRun with todo := agePhases s.lbits ps, bytes := read, digest := d, staged := 1 < (ps.filter AgePhase.moves).length }
  s.modCmd c.id fun e => { e with age := some run }
/-- QBMAP (R370). -/
def ageBind (c : Cmd) (desc : Nat) : M Unit := do
  raiseIf (← reads fun s => s.ageBound && s.ageBroken) qbInvalid
  raiseIf (← reads State.ageBound) (.prot 0)
  let ds ← ageBytes c desc 128 16
  let f := fieldOf ds
  let g := f 2 1
  let ps ← if 0 < g then ageBytes c (f 8 4) (2 * 2 ^ g) 2 else pure []
  let plist := (List.range (2 ^ g)).map fun i => fieldOf ps (2 * i) 2
  let l := f 1 1
  let map := (List.range 64).map fun q => f (0x40 + q) 1
  let used := map.filter (· ≠ 0xFF)
  let n := l + 4 + g
  let ok := f 0 1 ≤ 1 && 1 ≤ l && l ≤ 32 - f 0 1 && g ≤ 14 && f 3 1 = 0 && f 4 2 < 2 ^ g && f 6 2 = 0 && f 0xC 52 = 0 &&
    used.length = n && (List.range n).all fun b => used.contains b
  raiseIf (!ok) qbInvalid
  let me ← reads fun s => s.peer
  if 0 < g then
    raiseIf (plist.getD (f 4 2) 0 ≠ me) qbInvalid
    match ← reads fun s => plist.find? fun p => p ≠ me && !s.routed p with
    | some p => raise { cause := 0x41, info := BitVec.ofNat 64 p }
    | none => pure ()
  let base := c.cap.base
  raiseIf (base % 65536 ≠ 0) (.align (BitVec.ofNat 64 base))
  let e := if f 0 1 = 0 then 8 else 16
  let size := 65536 * ((2 ^ l * e + 4095) / 4096)
  match c.cap.check base size (permR ||| permW) with
  | some (cause, a) => raise { cause, addr := BitVec.ofNat 64 a, info := regTag 3 c.reg }
  | none => pure ()
  let home := c.ctx / 256
  let pcs ← engSpread (.cmd c.id) (tlbAge home) c.asid base size .atomic true
  raiseIf (← reads fun s => pcs.any fun p => !s.inHbm p.pa) (.prot (BitVec.ofNat 64 base))
  let pages := pcs.flatMap fun p => (List.range (p.len / 65536)).map fun i => (p.pa + 65536 * i, leafMs p.leaf)
  change fun s =>
    let ctl : Word64 := (2 : BitVec 2) ++ (0 : BitVec 5) ++ BitVec.ofNat 1 (f 0 1) ++ BitVec.ofNat 6 l ++ BitVec.ofNat 4 g ++
      BitVec.ofNat 14 (f 4 2) ++ (0 : BitVec 4) ++ BitVec.ofNat 12 c.task ++ BitVec.ofNat 16 c.launch
    let s := ((s.setCsr csrAgeCtl ctl).setCsr csrAgeSeq 1).setCsr csrAgeDone 0
    let s := s.setQmap fun q => map.getD q 0xFF
    let pins := (pagesOf base size).map fun p => (none, c.asid, p)
    { s with age := { base, asid := c.asid, home, plist, pages }, pins := s.pins ++ pins }.modCmd c.id fun d =>
      { d with age := some { c.ageRun with seq := 1 } }
/-- The group unbinds. -/
def State.ageUnbind (s : State) : State :=
  let s := (s.setCsr csrAgeCtl (s.csr csrAgeCtl &&& 0x7FFFFFFFFFFFFFFF)).setQmap fun _ => 0xFF
  { s with pins := s.pins.filter fun p => p.1 ≠ none }
/-- What a command checks and reads before it touches an amplitude. -/
def ageChecks (c : Cmd) : M Unit := do
  let l ← reads State.lbits
  let e ← reads State.ampSize
  let g ← reads State.gbits
  let m ← reads State.qmaps
  let levels := (List.range g).map AgePhase.level
  match c.op with
  | .qbmap desc => ageBind c desc
  | .qbmapSet a => do
    ageLeader c false
    let bs ← ageBytes c a 64 16
    let new := bs.map fun b => b.v.toNat
    let used := fun (x : List Nat) => x.filter (· ≠ 0xFF)
    raiseIf (!(decide ((used new).length = (used m).length) && (used m).all fun p => new.contains p)) qbInvalid
    change fun s => s.setQmap fun q => new.getD q 0xFF
  | .qbmapGet a => do
    ageLeader c true
    let p ← ageAt c a 64 16
    change fun s => s.pokeL .fill p (m.flatMap fun x => toBytes 1 x false)
  | .qbmapEnd => do
    -- the AGE's own, at the end of a task, when that task does not lead the group
    if c.inc ≠ 0 ∨ (← reads fun s => s.ageLedBy c) = true then
      ageLeader c true
      change State.ageUnbind
  | .qbgate diag k n q u => do
    ageLeader c false
    raiseIf (!gateFields q k n || decide (l < k)) qbInvalid
    let ts := targetsOf q k
    ageQubits (ts ++ (controlsOf q n).map (·.1))
    let bs ← ageBytes c u (e * (if diag then 2 ^ k else 2 ^ k * 2 ^ k)) 16
    let (xs, _) := gatherTargets l ts m
    ageBegin c (xs.map (fun x => .exchange x.1 x.2 true) ++ [.gate]) bs
  | .qbswap q => do
    ageLeader c false
    let q1 := (q.extractLsb' 0 6).toNat
    let q2 := (q.extractLsb' 8 6).toNat
    raiseIf (q &&& ~~~(0x3F3F : Word64) ≠ 0) qbInvalid
    raiseIf (m.getD q1 0xFF = 0xFF ∨ m.getD q2 0xFF = 0xFF) qbInvalid
    ageBegin c (swapPhases l (m.getD q1 0xFF) (m.getD q2 0xFF) q1 q2) []
  | .qbnorm a => do
    ageLeader c false
    let _ ← ageAt c a 8 8
    ageBegin c ([.leaves] ++ levels ++ [.result]) []
  | .qbprob o a => do
    ageLeader c false
    let n := (o.extractLsb' 60 3).toNat
    raiseIf (n = 0 || decide (6 < n) || o.getLsbD 63 || !gateFields (o &&& 0x0FFFFFFFFFFFFFFF) 0 n) qbInvalid
    ageQubits ((controlsOf o n).map (·.1))
    let _ ← ageAt c a 8 8
    ageBegin c ([.leaves] ++ levels ++ [.result]) []
  | .qbcoll o a => do
    ageLeader c false
    let n := (o.extractLsb' 60 3).toNat
    raiseIf (n = 0 || decide (6 < n) || o.getLsbD 63 || !gateFields (o &&& 0x0FFFFFFFFFFFFFFF) 0 n) qbInvalid
    ageQubits ((controlsOf o n).map (·.1))
    let _ ← ageAt c a 8 8
    ageBegin c ([.leaves] ++ levels ++ [.result, .collapse]) []
  | _ => pure ()
/-- The scratchpad ranges that a command reads or writes, as they stand when it starts: the peer list of a QBMAP, which its descriptor
names, and the operator of a gate in the format of the group (R250, R363). -/
def State.ageSpans (s : State) (c : Cmd) : List (Nat × Nat × Bool) :=
  let span := fun (a n : Nat) => ((mxPlace (c.ctx / 2) a n).map fun p => (p, p + n, false)).toList
  match c.op with
  | .qbmap desc =>
    let bs := (mxPlace (c.ctx / 2) desc 128).map fun p => s.peekN p 128
    c.spans ++ (match bs with
      | some bs => if fieldOf bs 2 1 = 0 ∨ 14 < fieldOf bs 2 1 then [] else span (fieldOf bs 8 4) (2 * 2 ^ fieldOf bs 2 1)
      | none => [])
  | .qbgate diag k _ _ u => span u (s.ampSize * (if diag then 2 ^ k else 4 ^ k))
  | _ => c.spans
/-- A command with these ranges, and the scoreboard with them in the place of those that its issue entered. -/
def State.ageBoard (s : State) (c : Cmd) : Cmd × State :=
  let c := { c with spans := s.ageSpans c }
  (c, (s.modCore (c.ctx / 2) fun d => { d with board := d.board.filter fun r => r.cmd ≠ c.id }).modCmd c.id fun e => { e with spans := c.spans })
/-- AGE_COMMAND_START: the next SEQ, the checks and reads of the command. Scratchpad addresses of an operand that fail leave the
group unchanged. -/
def State.ageStart (s : State) (c : Cmd) : State :=
  let s0 := s
  let (c, s) := s.ageBoard c
  let s := s.startCmd c
  let n := ((s.csr csrAgeSeq).toNat + 1) % 2 ^ 40
  let s := s.setCsr csrAgeSeq (BitVec.ofNat 64 n)
  let c := { c with age := some { seq := n } }
  let s := s.modCmd c.id fun e => { e with age := c.age }
  match ageChecks c s with
  | .ok (_, s') => s'
  | .error (.wait s') => { s' with dev := s0.dev }.modCmd c.id fun e => { e with phase := .queued }
  | .error (.raise t) => s.stopCmd c.id (some t)
  | .error _ => s0

/-! ## Partners (R368, R372) -/

/-- The collective id of a command. -/
def ageId (c : Cmd) : Nat := 2 ^ 63 + c.ageRun.seq
/-- The other devices of the group. -/
def State.agePeers (s : State) : List Nat := s.age.plist.filter (· ≠ s.peer)
/-- A control record to every other device of the group. -/
def State.ageTell (s : State) (c : Cmd) (sub data tag : Nat) : State :=
  s.agePeers.foldl (fun s p => s.sendRec p false { rtype := 0x0C, tag, aux := sub, data := ageId c + data * 2 ^ 64 } []) s
/-- The run changed, with progress. -/
def State.setAge (s : State) (c : Cmd) (r : AgeRun) : State := s.modCmd c.id fun e => { e with age := some r, since := s.gt }
/-- The phase is done. -/
def State.agePop (s : State) (c : Cmd) (r : AgeRun) : State := s.setAge c { r with todo := r.todo.drop 1, i := 0, sent := false }
/-- A failure after the group may have changed: the group is broken on every device. -/
def State.ageBreak (s : State) (c : Cmd) (t : Trap) (tell : Bool) : State :=
  let s := (s.setCsr csrAgeCtl (s.csr csrAgeCtl ||| 0x4000000000000000)).stopCmd c.id (some t)
  if tell then s.ageTell c 1 0 t.cause.toNat else s
/-- The comparison of digests among all devices. -/
def State.ageDigest (s : State) (c : Cmd) (r : AgeRun) : State :=
  let note := fun p => s.notes.find? fun n => n.id = ageId c ∧ n.src = p
  match s.agePeers.find? fun p => !s.routed p with
  | some p => s.ageBreak c { cause := 0x41, info := BitVec.ofNat 64 p } true
  | none =>
  if !r.sent then (s.ageTell c 0 r.digest.toNat 0).setAge c { r with sent := true }
  else if s.agePeers.any fun p => match (note p).bind (·.digest) with | some d => d ≠ r.digest | none => false then
    s.stopCmd c.id (some qbInvalid)
  else if s.agePeers.all fun p => ((note p).bind (·.digest)).isSome then s.agePop c r
  else s
/-- How many of the first `n` local indices have bit `h` equal to `v`. -/
def countBit (n h : Nat) (v : Bool) : Nat :=
  let q := n % 2 ^ (h + 1)
  n / 2 ^ (h + 1) * 2 ^ h + if v then q - 2 ^ h else min q (2 ^ h)
/-- exchange(x, h) with a partner device, a sector at a time: what leaves is sent first, then what arrives is stored. -/
def State.ageFar (s : State) (c : Cmd) (r : AgeRun) (x h : Nat) : State :=
  let n := s.perSector
  let total := s.sectors
  let b := s.devIdx.testBit (x - s.lbits - 4)
  let p := s.age.plist.getD (s.devIdx ^^^ 2 ^ (x - s.lbits - 4)) 0
  let w := s.partSize
  let sec := r.i % total
  let is := (List.range n).map fun j => sec * n + j
  let step := 16 * r.ord + sec * n / 2 ^ s.lbits
  if !s.routed p then s.ageBreak c { cause := 0x41, info := BitVec.ofNat 64 p } true
  else if r.i < total then
    let out := is.filter fun i => i.testBit h ≠ b
    let off := countBit (sec * n % 2 ^ s.lbits) h (!b) * 2 * w
    if out.isEmpty then s.setAge c { r with i := r.i + 1 }
    else match s.collPart p (ageId c) step off 0 (out.flatMap fun i => (s.ampIn r i).bytes w) with
      | some (_, s) => s.setAge c { r with i := r.i + 1 }
      | none => s
  else
    let inn := is.filter fun i => i.testBit h ≠ b
    let bs := s.strm (ageId c) p step
    if bs.length < inn.length * 2 * w then s
    else
      let at_ := fun i => (inn.findIdx? (· = i)).map fun j => ampOf w ((bs.drop (2 * w * j)).take (2 * w))
      let (r, s) := (s.takeStrm (ageId c) p step (inn.length * 2 * w)).putSector r at_ sec
      s.setAge c { r with i := r.i + 1 }

/-! ## Reductions (R371, R372) -/

/-- A sum node. -/
def State.ageAdd (s : State) (a b : Val 64) : Val 64 :=
  if a.psn || b.psn then ⟨0, true⟩ else ⟨BitVec.ofNat 64 (fpAdd s.ageFmt 0 false a.v.toNat b.v.toNat).1, false⟩
/-- A leaf put on the stack: subtrees of one height join, the earlier one on the left. -/
def State.pushSum (s : State) : Nat → List (Nat × Val 64) → Nat × Val 64 → List (Nat × Val 64)
  | 0, st, x => x :: st
  | fuel + 1, (l, v) :: st, x => if l = x.1 then s.pushSum fuel st (l + 1, s.ageAdd v x.2) else x :: (l, v) :: st
  | _ + 1, [], x => [x]
/-- The qubits that a leaf must match. -/
def Cmd.outcome (c : Cmd) : List (Nat × Bool) :=
  match c.op with
  | .qbprob o _ => controlsOf o (o.extractLsb' 60 3).toNat
  | .qbcoll o _ => controlsOf o (o.extractLsb' 60 3).toNat
  | _ => []
/-- A leaf (R371). -/
def State.leaf (s : State) (a : Amp) : Val 64 :=
  let t := s.ageFmt
  if a.psn then ⟨0, true⟩
  else ⟨BitVec.ofNat 64 (t.sum 0 [(t.value a.re).mul (t.value a.re), (t.value a.im).mul (t.value a.im)]).1, false⟩
/-- The root so far. -/
def AgeRun.root (r : AgeRun) : Val 64 := (r.stack.headD (0, ⟨0, false⟩)).2
/-- A device level: both partners send their roots and add the two, the lower device's on the left. -/
def State.ageLevel (s : State) (c : Cmd) (r : AgeRun) (l : Nat) : State :=
  let p := s.age.plist.getD (s.devIdx ^^^ 2 ^ l) 0
  if !s.routed p then s.ageBreak c { cause := 0x41, info := BitVec.ofNat 64 p } true
  else if !r.sent then
    match s.collPart p (ageId c) (128 + l) 0 0 (toBytes 8 r.root.v.toNat r.root.psn) with
    | some (_, s) => s.setAge c { r with sent := true }
    | none => s
  else
    let bs := s.strm (ageId c) p (128 + l)
    if bs.length < 8 then s
    else
      let got : Val 64 := ⟨BitVec.ofNat 64 (leNat (bs.take 8)), anyPsn (bs.take 8)⟩
      let sum := if s.devIdx.testBit l then s.ageAdd got r.root else s.ageAdd r.root got
      (s.takeStrm (ageId c) p (128 + l) 8).agePop c { r with stack := [(0, sum)] }
/-- round(1 / √P, fmt, RNE) of a positive finite P, and whether P is one. -/
def invSqrt (t : Fmt) (p : Nat) : Option Nat :=
  match t.value p with
  | .num false m e =>
    if m = 0 then none
    else
      let (m, e) := if e % 2 = 0 then (m, e) else (2 * m, e - 1)
      let r := fpSqrt.rootOf (2 ^ 176 / m)
      some (t.round 0 false false r (-88 - e / 2) (decide (r * r * m ≠ 2 ^ 176))).1
  | _ => none
/-- A sector of the collapse: matching amplitudes are scaled or kept, the others become +0. -/
def State.ageCollapse (s : State) (c : Cmd) (r : AgeRun) : State :=
  let t := s.ageFmt
  let k := if r.root.psn then none else invSqrt t r.root.v.toNat
  let f := fun i =>
    if s.controlled s.qmaps c.outcome i then
      let a := s.amp i
      match k with
      | some k => if a.psn then some a else some { re := (fpMul t 0 a.re k).1, im := (fpMul t 0 a.im k).1 }
      | none => if a.psn then some a else none
    else some {}
  (s.writeSector f r.i).setAge c { r with i := r.i + 1 }

/-! ## Work -/

/-- The place of a result word. -/
def Cmd.resultAt (c : Cmd) : Nat := match c.op with | .qbnorm a => a | .qbprob _ a => a | .qbcoll _ a => a | _ => 0
/-- One unit of an AGE command. -/
def State.ageWork (s : State) (c : Cmd) : State :=
  let r := c.ageRun
  match r.todo with
  | [] => s.stopCmd c.id none
  | .digest :: _ => s.ageDigest c r
  | .exchange x h relabel :: _ =>
    let far := decide (s.lbits + 4 ≤ x)
    if far ∧ r.i < 2 * s.sectors then s.ageFar c r x h
    else if !far ∧ r.i < s.sectors then
      let (r, s) := s.sectorGroup r [x, h] r.i (swapAt x h)
      s.setAge c { r with i := r.i + 1 }
    else
      let m := s.mapIn r
      s.agePop c { r with ord := r.ord + far.toNat, map := some (if relabel then swapEntries m (qubitAt m x) (qubitAt m h) else m) }
  | .entries a b :: _ => s.agePop c { r with map := some (swapEntries (s.mapIn r) a b) }
  | .gate :: _ =>
    if s.sectors ≤ r.i then s.agePop c r
    else match c.op with
      | .qbgate diag k n q _ =>
        let ts := targetsOf q k
        let m := s.mapIn r
        let (r, s) := s.sectorGroup r (ts.map fun q => m.getD q 0xFF) r.i (s.gateAt m diag ts (controlsOf q n) r.bytes)
        s.setAge c { r with i := r.i + 1 }
      | _ => s.agePop c r
  | .leaves :: _ =>
    if 2 ^ (s.lbits + 4) ≤ r.i then s.agePop c r
    else
      let on := s.controlled s.qmaps c.outcome r.i
      let (a, al) := s.ampPlace r.i
      let v := if on then s.leaf (s.amp r.i) else ⟨0, false⟩
      let s1 := if on then s.touchRead al a s.ampSize else s
      s1.setAge c { r with i := r.i + 1, stack := s.pushSum 64 r.stack (0, v) }
  | .level l :: _ => s.ageLevel c r l
  | .result :: _ =>
    match mxPlace (c.ctx / 2) c.resultAt 8 with
    | some p => (s.pokeL .fill p (toBytes 8 r.root.v.toNat r.root.psn)).agePop c r
    | none => s.agePop c r
  | .collapse :: _ => if s.sectors ≤ r.i then s.agePop c r else s.ageCollapse c r
  | .commit :: _ =>
    if r.staged ∧ r.i < s.sectors then
      (s.writeSector (fun i => (r.amps.find i).map fun a => { re := a.1, im := a.2.1, psn := a.2.2 }) r.i).setAge c { r with i := r.i + 1 }
    else (match r.map with | some m => s.setQmap fun q => m.getD q 0xFF | none => s).agePop c { r with staged := false, amps := [], map := none }
/-- The end of an AGE command: DONE, and what the Bangles hold of it. -/
def State.ageFinish (s : State) (c : Cmd) : State :=
  let s := s.setCsr csrAgeDone (BitVec.ofNat 64 c.ageRun.seq)
  let id := ageId c
  ({ s with notes := s.notes.filter fun n => n.id ≠ id, strms := s.strms.filter fun e => e.id ≠ id } : State).finishCmd c
/-- An abort record of a device of the group for an AGE command: it fails with the partner's cause, and the group is broken also where
it has finished or has not begun (R364). -/
def State.ageAborted (s : State) (src : Nat) (r : Rec) : State :=
  match s.cmds.find? fun c => c.unit = .age ∧ c.phase = .running ∧ ageId c = r.data % 2 ^ 64 with
  | some c => s.ageBreak c { cause := BitVec.ofNat 8 r.tag } false
  | none => if s.ageBound && s.age.plist.contains src then s.setCsr csrAgeCtl (s.csr csrAgeCtl ||| 0x4000000000000000) else s
/-- A step with a partner makes no progress for OFU.COLL.TIMEOUT µs (R364). -/
def State.ageLate (s : State) (c : Cmd) : Bool :=
  c.phase = .running && (match c.ageRun.todo with | p :: _ => p = .digest || p.far s.lbits | [] => false) &&
    (s.csr 0x100098).toNat % 2 ^ 32 * 1000 * 2 ^ 16 ≤ s.gt - c.since

/-! ## Instructions (R363, R366, R369) -/

/-- The issue of an AGE command; a full queue stalls the bundle. -/
def ageIssue (d : BitVec 6) (op : CmdOp) (caps : List Cap) (xs : List Word64) (spans : List (Nat × Nat × Bool)) : M Unit := do
  if 16 ≤ (← reads fun s => (s.cmds.filter fun c => c.unit = .age && c.phase = .queued).length) then full 0x129
  let w ← reads fun s => s.slot.word
  issueCmd d.toNat 14 .age op caps xs spans
  change fun s => s.modCmd (s.nextCmd - 1) fun e => { e with path := [w.toNat] }
/-- The range that an operand of `n` bytes enters in the scoreboard. -/
def ageSpan (a : Word64) (n : Nat) (write : Bool) : M (List (Nat × Nat × Bool)) :=
  reads fun s => ((mxPlace (s.cur / 2) a.toNat n).map fun p => (p, p + n, write)).toList
/-- QBGATE and QBDIAG. -/
def qbgate (diag : Bool) (d a b : BitVec 6) (n : BitVec 3) (k : BitVec 2) (st : State) : Host.Outcome State Fault Refusal :=
  slotOut (do
    let x ← xClean a.toNat
    let y ← xClean b.toNat
    let e ← reads fun s => if s.ageBound then s.ampSize else 16
    let sp ← ageSpan y (e * (if diag then 2 ^ k.toNat else 4 ^ k.toNat)) false
    ageIssue d (.qbgate diag k.toNat n.toNat x y.toNat) [] [x, y] sp) st
def execQbgate (d a b : BitVec 6) (n : BitVec 3) (k : BitVec 2) (st : State) : Host.Outcome State Fault Refusal :=
  qbgate false d a b n k st
def execQbdiag (d a b : BitVec 6) (n : BitVec 3) (k : BitVec 2) (st : State) : Host.Outcome State Fault Refusal :=
  qbgate true d a b n k st
def execQbmap (d a b : BitVec 6) (st : State) : Host.Outcome State Fault Refusal :=
  slotOut (do
    let c ← cClean a.toNat
    let x ← xClean b.toNat
    raiseIf (!c.tag) (.capTag a.toNat)
    ageIssue d (.qbmap x.toNat) [c] [x] (← ageSpan x 128 false)
    change fun s => s.modCmd (s.nextCmd - 1) fun e => { e with reg := a.toNat }) st
/-- A form with one scratchpad operand of `n` bytes. -/
def ageWord (d b : BitVec 6) (n : Nat) (write : Bool) (op : Word64 → CmdOp) (st : State) : Host.Outcome State Fault Refusal :=
  slotOut (do
    let x ← xClean b.toNat
    ageIssue d (op x) [] [x] (← ageSpan x n write)) st
def execQbmapSet (d b : BitVec 6) (st : State) : Host.Outcome State Fault Refusal :=
  ageWord d b 64 false (fun x => .qbmapSet x.toNat) st
def execQbmapGet (d b : BitVec 6) (st : State) : Host.Outcome State Fault Refusal :=
  ageWord d b 64 true (fun x => .qbmapGet x.toNat) st
def execQbmapEnd (d : BitVec 6) (st : State) : Host.Outcome State Fault Refusal := slotOut (ageIssue d .qbmapEnd [] [] []) st
def execQbswap (d a : BitVec 6) (st : State) : Host.Outcome State Fault Refusal :=
  slotOut (do
    let x ← xClean a.toNat
    ageIssue d (.qbswap x) [] [x] []) st
def execQbnorm (d b : BitVec 6) (st : State) : Host.Outcome State Fault Refusal :=
  ageWord d b 8 true (fun x => .qbnorm x.toNat) st
/-- QBPROB and QBCOLL. -/
def qboutcome (coll : Bool) (d a b : BitVec 6) (st : State) : Host.Outcome State Fault Refusal :=
  slotOut (do
    let x ← xClean a.toNat
    let y ← xClean b.toNat
    ageIssue d (if coll then .qbcoll x y.toNat else .qbprob x y.toNat) [] [x, y] (← ageSpan y 8 true)) st
def execQbprob (d a b : BitVec 6) (st : State) : Host.Outcome State Fault Refusal := qboutcome false d a b st
def execQbcoll (d a b : BitVec 6) (st : State) : Host.Outcome State Fault Refusal := qboutcome true d a b st

end Sys2Proof.Machine
end

