-- ==== Sys2Proof/Machine/Work.lean ====
section
/-! DEFINITION. Which engine commands can start or go on, one unit of a command's work, and the finish of a command (R305,
R312, R351, R363, R390). -/
namespace Sys2Proof.Machine

/-! ## Starts -/

/-- The first queued command of a unit of a core. -/
def State.headOf (s : State) (c : Cmd) : Bool := ((s.queueOf (c.ctx / 2) c.unit).head?.map (·.id)) = some c.id
/-- A send channel starts its next command once the one before it has stopped: the SENDs of a channel are performed in issue order, and
a clasp opens when the one before it has closed (R249, R312, R322). -/
def State.sendFree (s : State) (c : Cmd) : Bool :=
  s.cmds.all fun d => !(d.unit = c.unit && d.ctx / 2 = c.ctx / 2 && d.phase = .running && d.id < c.id)
/-- A queued command may start. -/
def State.startable (s : State) (c : Cmd) : Bool :=
  c.phase = .queued && s.cmdReady c && (match c.unit with
    | .tce _ => s.headOf c
    | .send _ => s.headOf c && s.sendFree c
    | .nest => false
    | .stage => false
    | .merge => false
    | .age => !(s.cmds.any fun d => d.unit = .age && (d.phase ≠ .queued || d.id < c.id)) &&
        (let (d, t) := s.ageBoard c; t.fits d && !t.blocked d)
    | _ => true)
/-- A command started. -/
def State.start (s : State) (c : Cmd) : State :=
  match c.unit, c.op with
  | .ste _, _ => s.treeStart c
  | .age, _ => s.ageStart c
  | .coll, .coll d => s.collStart c d
  | _, _ => s.startCmd c

/-! ## Work -/

/-- One unit of work of a running command. -/
def State.workOn (s : State) (c : Cmd) : State :=
  match c.op with
  | .copy half src dst _ => s.copyWork c half src dst
  | .send va src len sn grp => s.sendWork c va src len sn grp
  | .clopen peer => s.clopenWork c peer
  | .clclose => s.clcloseWork c
  | .nest _ => s.nestWork c
  | .obcast _ doff len mask => s.obcastWork c doff len mask
  | .mopen .. => s
  | .accmerge .. => s
  | .coll d => s.collWork c d
  | .trwalk => s.walkStep c
  | _ => match c.unit with
    | .age => s.ageWork c
    | _ => s.treeWork c
/-- A turn of an engine command: a running command does a unit of work. -/
def State.work (s : State) (id : Nat) : State :=
  match s.cmd? id with
  | none => s
  | some c =>
    if c.phase = .running then s.workOn c else s
/-- A command whose turn is not an event of its own. -/
def State.workable (_ : State) (c : Cmd) : Bool :=
  c.phase = .running && !(match c.op with | .trwalk => c.run.walk.isEmpty | _ => false)

/-! ## The finish of a stopped command (R390) -/

/-- A command of a clasp group whose failure is the group's. -/
def Cmd.ofGroup (c : Cmd) : Bool :=
  match c.op with
  | .send _ _ _ _ g => g && c.fail.isSome
  | .clopen _ => c.fail.isSome
  | .clclose => decide ((c.fail.map (·.cause)) = some 0x42)
  | _ => false
/-- The finish of a command of a group that has aborted: no record of its own (R323). -/
def State.finishQuiet (s : State) (c : Cmd) : State :=
  let s := s.finishToken c c.token c.fail
  State.sweepBoard { s with cmds := s.cmds.filter fun d => d.id ≠ c.id } (c.ctx / 2)
/-- A nest whose walk has ended: the lease ends with its token (R196). -/
def State.nestFinish (s : State) (c : Cmd) : State :=
  (match s.ctxOf c.inc with
    | some k => s.modCtx k fun x => { x with regs := { x.regs with nrun := false } }
    | none => s.modCtx c.ctx fun (x : Ctx) => if x.occ = Occupancy.none then { x with regs := { x.regs with nrun := false } } else x).finishCmd c
/-- COMMAND_FINISH. Requests that a stopped command has left behind are nobody's. -/
def State.finish (s : State) (c : Cmd) : State :=
  if c.phase ≠ .stopped then s
  else
    let s := { s with reqs := s.reqs.filter fun (r : Req) => r.owner ≠ Owner.cmd c.id }
    match c.unit, c.op with
    | .coll, .coll d => s.collFinish c d
    | .age, _ => s.ageFinish c
    | .nest, _ => s.nestFinish c
    | _, _ => if c.ofGroup then s.finishQuiet c else s.finishCmd c

end Sys2Proof.Machine
end

