-- ==== Sys2Proof/Machine/MemEvents.lean ====
section
/-! DEFINITION. Events of memory: translations that complete (R145), the replay queue (R251), charms (R273 to R275),
shootdowns (R223), snapshot copies and the snapshot registers (R225 to R228), soft errors (R229, R230), the host's accesses
(R257, R432), the timeout of a full/empty wait (R266). -/
namespace Sys2Proof.Machine

/-! ## TRANS_COMPLETE (R145) -/

/-- A pending handle completes: with what the TLB held when TRANS issued, or with what the walk gives. -/
def execTransComplete (ctx : BitVec 12) (n : BitVec 4) (st : State) : Host.Outcome State Fault Refusal :=
  let k := ctx.toNat
  let h := (st.ctx k).regs.rh n.toNat
  .next (if (st.ctx k).occ = Occupancy.resident ∧ h.st = HandleState.pending then
      if h.leaf ≠ 0 then st.setHandle k n.toNat { h with st := .valid }
      else match st.translate (k / 2) (st.launchOf k).asid h.page.toNat with
        | (s, .ok leaf size) =>
          s.setHandle k n.toNat { st := .valid, page := BitVec.ofNat 64 (h.page.toNat / pageBytes size * pageBytes size), size, leaf }
        | (s, .absent) => s.setHandle k n.toNat { h with st := .empty, walk := .absent }
        | (s, .fail c) => s.setHandle k n.toNat { h with st := .empty, walk := .failed c }
    else st)

/-! ## REPLAY_DEPART (R251) -/

/-- The permission need of a parked access. -/
def Parked.need (e : Parked) : Need := match e.op with | .store .. => .write | _ => .atomic
/-- The bytes that its part on a page spans. -/
def Parked.sizeOn (e : Parked) (page : Nat) : Nat :=
  match e.op with
  | .store .. => (e.bytesOn page).foldl (fun m x => max m (x.1 + 1 - e.addrOn page)) 1
  | .atomic _ w8 .. => if w8 then 8 else 4
  | .sbop _ n .. => 4 * n
/-- Who makes its requests. -/
def Parked.owner (e : Parked) : Owner := .replay e.ctx e.num
/-- An xD written by an entry that leaves. Bundles that name it have not issued. -/
def State.lateX (s : State) (k d : Nat) (v : Val 64) : State := s.modCtx k fun c => { c with regs := c.regs.wx d v }
/-- The part of an entry on a page done with; after its last part the entry leaves its queue. -/
def State.partDone (s : State) (e : Parked) (page : Nat) : State :=
  let rest := fun r : Parked =>
    { r with
      parts := r.parts.filter fun x => x.1 ≠ page
      op := match r.op with
        | .store b nt => .store (b.filter fun x => !((e.bytesOn page).any fun y => y.1 = x.1)) nt
        | op => op }
  let s := (s.modCore (e.ctx / 2) fun c =>
    { c with replay := (c.replay.map fun r => if r.num = e.num then rest r else r).filter fun r => !r.parts.isEmpty })
  { s with reqs := s.reqs.filter fun (r : Req) => r.owner ≠ e.owner }.leaveLine e.owner (s.launchOf e.ctx).asid page
/-- A part that fails on leaving: its context takes the cause as of asynchronous origin, and an xD becomes 0 with poison. -/
def State.parkFail (s : State) (e : Parked) (page : Nat) (t : Trap) : State :=
  let s := s.partDone e page
  let s := (s.pendRecord (s.ctx e.ctx).inc { cause := t.cause, addr := t.addr, info := t.info, issue := e.issue }).getD s
  match e.dest with
  | some d => s.lateX e.ctx d ⟨0, true⟩
  | none => s
/-- A run of bytes that a parked store writes at `q`. Of two SO stores to the host or to a peer the second waits for the answer to the
first (R240). -/
def parkPut (e : Parked) (asid : Nat) (nt : Bool) (q : Piece) (bs : List (Val 8)) : M Unit := do
  let k := e.ctx
  match ← reads fun s => s.target q.pa with
  | .mem => change fun s => s.storeLocal (some (k / 2)) (allocOf q.leaf false) (q.pa % 2 ^ 50) q.len (byteAt bs)
  | t =>
    let inc ← reads fun s => (s.ctx k).inc
    if leafOrd q.leaf = 0 then
      match (← ask e.owner q.pa (.write bs) 6 asid).result q.va with
      | .ok _ => pure ()
      | .error t => raise t
    else if t = .host && !nt then
      change fun s => (pieces 64 q.pa q.len).foldl (fun s (lo, o, n) => s.wcStore k lo ((bs.drop o).take n)) s
    else post (.posted inc) q.pa (.write bs) (if t = .host then 6 else 4) asid
/-- The part of an entry on a page performed at its piece. -/
def parkDo (e : Parked) (page asid : Nat) (p : Piece) : M Unit := do
  let k := e.ctx
  match e.op with
  | .store _ nt =>
    (WcBuf.runs { pa := 0, bytes := e.bytesOn page }).forM fun r =>
      let o := r.1 - e.addrOn page
      parkPut e asid nt { p with va := p.va + o, len := r.2.length, pa := p.pa + o } r.2
    change fun s => s.partDone e page
  | .atomic op _ a v cmp d =>
    let r ← match ← answered e.owner with
      | some r => pure (r.result a)
      | none =>
        let near ← reads fun s => decide (s.target p.pa = .mem)
        rmwAt e.owner (some (k / 2)) asid (e.acq.getD (if near then 4 else 5)) 0 p op v.toNat cmp.toNat
    match r with
    | .error t => raise t
    | .ok bs =>
      change fun s => (s.partDone e page).lateX k d (oldValue bs)
      match e.acq with
      | some sc => change fun s => if 2 ≤ sc then s.dropL1 (k / 2) else s
      | none => pure ()
  | .sbop op n a v d =>
    raiseIf (← reads fun s => !(decide (s.target p.pa = .mem) && decide (region (p.pa % 2 ^ 50) = .sbm))) (.prot (BitVec.ofNat 64 a))
    let old ← reads fun s => s.peekN (p.pa % 2 ^ 50) 4
    change fun s => (s.sbopRun op (p.pa % 2 ^ 50) n v.toNat).partDone e page
    match d with
    | some x => change fun s => s.lateX k x (oldValue old)
    | none => pure ()
/-- A parked access before the part of `e` on a page may be an SO access of its context: an SO part waits for it (R240, R241). -/
def State.soBefore (s : State) (e : Parked) (page : Nat) : Bool :=
  ((s.parkedOf e.ctx).takeWhile (·.num ≠ e.num)).any (fun f => f.parts.any fun x => s.partSo f x.1) ||
    (e.parts.takeWhile (·.1 ≠ page)).any fun x => s.partSo e x.1
/-- A part of an entry that is translated allows it to leave: no copy is due or pending, no writer came before it. -/
def State.partFree (s : State) (e : Parked) (page : Nat) (leaf : Word64) : Bool :=
  !leafCow leaf && !s.cowAhead e.owner (s.launchOf e.ctx).asid page && !(leafOrd leaf = 0 && s.soBefore e page)
/-- The part of an entry on a page tries to leave: it translates again. A page that is not present takes the page-fault path again once
the context is not blocked; a page whose copy is due stays. What goes through a handle meets the end of its page. -/
def State.depart (s : State) (e : Parked) (page : Nat) : State :=
  let k := e.ctx
  let s := { s with cur := k, asks := 0 }
  let asid := (s.launchOf k).asid
  let a := e.addrOn page
  let drop := fun s : State => { s with asks := 0, reqs := s.reqs.filter fun (r : Req) => r.owner ≠ e.owner }
  let go := fun (s : State) (p : Piece) => match parkDo e page asid p s with
    | .ok (_, s') => { s' with asks := 0 }
    | .error (.ask q) => s.addReq q
    | .error (.raise t) => (drop s).parkFail e page t
    | .error _ => s
  if s.reqs.any fun r => r.owner = e.owner ∧ r.ans.isSome then go s { va := a, off := 0, len := 0 }
  else match s.translate (k / 2) asid (e.base page) with
    | (s, .fail c) => s.parkFail e page { cause := c, addr := BitVec.ofNat 64 a }
    | (s, .absent) => if (s.ctx k).pf.isEmpty then s.pageFault k (pageReqs e.need.kind [e.askOn page]) else s
    | (s, .ok leaf size) =>
      let n := e.sizeOn page
      let off := a - e.base page
      let va := match e.home with
        | some h => h.toNat / pageBytes size * pageBytes size + off
        | none => a
      let pa := physical leaf size va
      let p : Piece := { va, off := 0, len := n, leaf := s.governs leaf pa, pa }
      if e.home.isSome ∧ pageBytes size < off + n then s.parkFail e page (.handleBounds (BitVec.ofNat 64 va))
      else match s.refusal [p] e.need (e.perm &&& permSN ≠ 0) with
        | some (c, a) => s.parkFail e page { cause := c, addr := BitVec.ofNat 64 a }
        | none => if s.partFree e page p.leaf then go s p else s
/-- The page of an entry allows its part to leave, as the tables stand: nothing is fetched for the question. -/
def State.mayLeave (s : State) (e : Parked) (page : Nat) : Bool :=
  match (s.walk (s.launchOf e.ctx).asid (e.base page)).2 with
  | .absent => (s.ctx e.ctx).pf.isEmpty
  | .ok leaf size => s.partFree e page (s.governs leaf (physical leaf size (e.base page)))
  | .fail _ => true
/-- The entries of a core's replay queue that can leave, each with the first page it can leave by: no older entry waits for that page,
and no request of the entry is out. -/
def State.departing (s : State) (core : Nat) : List (Parked × Nat) :=
  let q := (s.core core).replay
  let space := fun e : Parked => (s.launchOf e.ctx).asid
  q.zipIdx.filterMap fun e =>
    if s.reqs.any fun r => r.owner = e.1.owner && r.ans.isNone then none
    else (e.1.parts.find? fun x =>
      !((q.take e.2).any fun f => space f = space e.1 && f.parts.any fun y => y.1 = x.1) && s.mayLeave e.1 x.1).map fun x => (e.1, x.1)
/-- REPLAY_DEPART of the `n`th entry that can leave. -/
def execReplayDepart (core : BitVec 11) (n : BitVec 4) (st : State) : Host.Outcome State Fault Refusal :=
  .next (match (st.departing core.toNat)[n.toNat]? with
    | some (e, page) => st.depart e page
    | none => st)

/-! ## CHARM_RUN, CHARM_TIMEOUT (R273 to R275) -/

/-- The charm request of a number: its address, routine, whether its page has MS set, and its arguments. -/
def Req.charm? (r : Req) : Option (Nat × Nat × Bool × Word64 × Word64) :=
  match r.act with
  | .charm i x y _ => some (r.addr % 2 ^ 50, i % 64, decide (64 ≤ i), x, y)
  | _ => none
/-- A charm that the home slice runs; `late` picks the routines that run out of cycles. -/
def State.runCharm (s : State) (r : Req) (late : Bool) : State :=
  match r.charm? with
  | some (a, i, ms, x, y) =>
    if s.outbound r || r.ans.isSome then s
    else
      let (s', ans) := s.charm ms a i x y
      let out := match ans with | .fail c _ => decide (c = 0x25) | _ => false
      if out = late then s'.answer r ans else s
  | none => s
/-- CHARM_RUN of request number `n`. -/
def execCharmRun (n : Nat) (st : State) : Host.Outcome State Fault Refusal :=
  .next (match st.reqs.find? fun r => r.tag = n with | some r => st.runCharm r false | none => st)
/-- CHARM_TIMEOUT of request number `n`: its routine counts 256 cycles without an ECALL. -/
def execCharmTimeout (n : Nat) (st : State) : Host.Outcome State Fault Refusal :=
  .next (match st.reqs.find? fun r => r.tag = n with | some r => st.runCharm r true | none => st)

/-! ## Shootdowns (R223) -/

def csrShootVa : Nat := 0x810
def csrShootCtl : Nat := 0x818
/-- A 64 KiB unit of an address space lies in the range. -/
def Shoot.hits (x : Shoot) (asid unit : Nat) : Bool :=
  x.asid = asid && (x.all || (x.page ≤ unit % 2 ^ 41 && unit % 2 ^ 41 < x.page + x.count))
/-- Some unit of a page lies in the range. -/
def Shoot.hitsPage (x : Shoot) (asid va size : Nat) : Bool :=
  let n := pageBytes size / 0x10000
  let u := va / 0x10000 / n * n % 2 ^ 41
  x.asid = asid && (x.all || (x.page < u + n && u < x.page + x.count))
/-- A context's handles changed where they stand. -/
def Ctx.mapHandles (c : Ctx) (f : Handle → Handle) : Ctx :=
  let g := fun r : Regs => { r with h := r.h.map fun e => (e.1, f e.2) }
  let i := fun b : Issue => { b with old := g b.old }
  let m := fun j : Image => { j with issue := i j.issue, older := j.older.map i, regs := g j.regs }
  { c with
    regs := g c.regs, issue := i c.issue, older := c.older.map i, younger := c.younger.map i, img1 := c.img1.map m, img2 := c.img2.map m }
/-- Buffered stores to the host that used the address space's translations leave (R223, R254). -/
def State.drainSpace (s : State) (asid : Nat) : State :=
  let s := (s.ctxs.map (·.1)).foldl (fun s k => if (s.launchOf k).asid = asid then s.drainAll k else s) s
  let saved := (s.ready ++ s.saving.map (·.entry)).filterMap fun e => e.saved.map fun v => (e, v)
  saved.foldl (init := s) fun s x =>
    if ((s.launch? x.1.launch).map (·.asid)) = some asid then (s.drainSaved x.1 x.2).modSaved x.2.inc fun v => { v with wc := [] } else s
/-- Steps 1 to 3: TLBs, handles and L1s. -/
def State.shootNow (s : State) (x : Shoot) : State :=
  let stale := fun h : Handle =>
    if (h.st = .valid ∨ h.st = .pending) ∧ x.hitsPage x.asid h.page.toNat h.size then { h with st := HandleState.stale } else h
  let clean := fun c : Core => { c with l1 := c.l1.filter fun l => !x.hits l.2.asid l.2.page }
  { s with
    tlbs := s.tlbs.map fun t => (t.1, t.2.filter fun e => !x.hitsPage e.asid e.page e.size)
    ctxs := s.ctxs.map fun e => (e.1, if (s.launchOf e.1).asid = x.asid then e.2.mapHandles stale else e.2)
    cores := s.cores.map fun e => (e.1, clean e.2) }
/-- A shootdown begins: what came before it is what it waits for. -/
def State.beginShoot (s : State) (asid : Nat) (all : Bool) (page count : Nat) : State × Shoot :=
  let s := s.drainSpace asid
  let x : Shoot := { asid, all, page, count, before := s.nextReq }
  (s.shootNow x, x)
/-- SHOOTDOWN: a write of TLB.SHOOT_CTL. -/
def execShootdown (v : Word64) (st : State) : Host.Outcome State Fault Refusal :=
  let ctl := v &&& 0x400000FFFFFFFFFF
  .next (if (st.csr csrShootCtl).getLsbD 63 then st
    else
      let count := (v.extractLsb' 8 32).toNat
      if !v.getLsbD 62 && count = 0 then st.setCsr csrShootCtl ctl
      else
        let (s, x) := st.beginShoot (v.toNat % 256) (v.getLsbD 62) ((st.csr csrShootVa).extractLsb' 16 41).toNat count
        State.setCsr { s with shoot := some x } csrShootCtl (ctl ||| 0x8000000000000000))
/-- Step 4: no older access of the space is out, no merge and no pin of the range is held. DEDUCED, log entry 41. -/
def State.shootDone (s : State) (x : Shoot) : Bool :=
  !(s.reqs.any fun r => r.asid = x.asid && r.tag < x.before && r.ans.isNone) &&
    !(s.merges.any fun b => b.uses.any fun u => x.hits u.1 (u.2 / 0x10000) || x.hits u.1 ((u.2 + 65535) / 0x10000)) &&
    !(s.mergeQ.any fun r => r.refused.isNone && (x.hits r.asid (r.va / 0x10000) || x.hits r.asid ((r.va + 65535) / 0x10000))) &&
    !(s.pins.any fun p => x.hits p.2.1 p.2.2) &&
    !(s.stages.any fun e => e.2.pages.any fun p => x.hits p.1 p.2)
/-- SHOOTDOWN_COMPLETE: BUSY returns to 0. -/
def execShootdownComplete (st : State) : Host.Outcome State Fault Refusal :=
  .next (match st.shoot with
    | some x =>
      if st.shootDone x then State.setCsr { st with shoot := none } csrShootCtl ((st.csr csrShootCtl) &&& 0x7FFFFFFFFFFFFFFF)
      else st
    | none => st)

/-! ## Snapshot copies (R225 to R228) -/

/-- The leaf entry of `va`, and its address, from the table at `t` down. -/
def pteFrom (va : Nat) : Nat → State → Nat → State × Walk × Nat
  | 0, s, t => match s.walkLevel t va 0 with
    | (s, .error w) => (s, w, t % 2 ^ 50 + 8 * walkIndex va 0)
    | (s, .ok _) => (s, .fail 0x22, 0)
  | lvl + 1, s, t => match s.walkLevel t va (lvl + 1) with
    | (s, .error w) => (s, w, t % 2 ^ 50 + 8 * walkIndex va (lvl + 1))
    | (s, .ok t) => pteFrom va lvl s t
/-- A walk that gives the leaf of an address, and where it stands. -/
def State.pte (s : State) (asid va : Nat) : State × Walk × Nat :=
  let root := s.csr (8 * asid)
  let t := root.toNat / 256 * 256
  if !canonical va then (s, .fail 0x22, 0)
  else if !root.getLsbD 0 then (s, .fail 0x22, 0)
  else if !s.inHbm t then (s, .fail 0x22, 0)
  else pteFrom va 4 s t

def csrPoolBase : Nat := 0x900
def csrPoolPages : Nat := 0x908
def csrInUse : Nat := 0x910
def csrLogBase : Nat := 0x918
def csrLogHead : Nat := 0x920
def csrSnapReturn : Nat := 0x928
def csrLogTail : Nat := 0x930
/-- The pool pages allocated, and SNAP.INUSE. -/
def State.setPool (s : State) (p : KeySet) : State := State.setCsr { s with pool := p } csrInUse (BitVec.ofNat 64 p.length)
/-- Pages of parked accesses whose entries have COW set, by address space. -/
def State.cowParked (s : State) : List (Nat × Nat) :=
  s.cores.flatMap fun c => c.2.replay.flatMap fun e => e.parts.filterMap fun x =>
    let asid := (s.launchOf e.ctx).asid
    match (s.walk asid (e.base x.1)).2 with
    | .ok leaf _ => if leafCow leaf then some (asid, x.1) else none
    | _ => none
/-- A page of an address space for which a writer waits. -/
def State.cowWaits (s : State) (asid page : Nat) : Bool := s.cowWant.contains (asid, page) || s.cowParked.contains (asid, page)
/-- The next part of a copy from a host window or from a peer, where a page of this device's tables may lie (R217). -/
def State.copyPart (s : State) (c : Copying) (leaf : Word64) (size dst : Nat) : State :=
  let va := c.page * 0x10000 + c.pos
  let p : Piece := { va, off := 0, len := 1024, leaf, pa := physical leaf size va }
  let who := Owner.copier c.pool
  let drop := fun s : State => { s with asks := 0, reqs := s.reqs.filter fun (r : Req) => r.owner ≠ who }
  match loadPiece who none false c.asid p { s with asks := 0 } with
  | .ok (.ok bs, s) =>
    { (drop s).pokeL .fill (dst + c.pos) bs with copies := s.copies.map fun d => if d = c then { c with pos := c.pos + 1024 } else d }
  | .ok (.error _, s) => drop s
  | .error (.ask r) => s.numberReq r
  | .error _ => s
/-- COW_COPY: the copier takes the lowest free pool page and copies the page through the home slices; a page of the host or of a peer
comes part by part. DEDUCED, log entry 46. -/
def execCowCopy (asid : BitVec 8) (page : BitVec 48) (st : State) : Host.Outcome State Fault Refusal :=
  let n := asid.toNat
  let va := page.toNat * 0x10000
  let poolPage := fun i : Nat => (st.csr csrPoolBase).toNat / 0x10000 * 0x10000 % 2 ^ 50 + i * 0x10000
  let forget := fun s : State => { s with cowWant := s.cowWant.filter fun w => w ≠ (n, page.toNat) }
  .next (match st.pte n va, st.copies.find? fun c => c.asid = n ∧ c.page = page.toNat with
    | (s, .ok leaf size, _), some c => if c.pos < 0x10000 then s.copyPart c leaf size (poolPage c.pool) else st
    | _, some _ => st
    | (s, .ok leaf size, _), none =>
      if !st.cowWaits n page.toNat then st
      else if leafCow leaf && st.poolReady then
        match (List.range ((st.csr csrPoolPages).toNat % 2 ^ 32)).find? fun i => !st.pool.contains i with
        | some i =>
          let pa := physical leaf size va
          let s := s.setPool (s.pool.setRange i 1 fun _ => true)
          if s.target pa = .mem then
            let bs := s.peekN (pa % 2 ^ 50) 0x10000
            { (s.touchRead .fill (pa % 2 ^ 50) 0x10000).pokeL .fill (poolPage i) bs with copies := s.copies ++ [⟨n, page.toNat, i, 0x10000⟩] }
          else { s with copies := s.copies ++ [⟨n, page.toNat, i, 0⟩] }
        | none => st
      else forget s
    | (s, _, _), none => forget s)
/-- COW leaves a leaf of an address space wherever it is held: the TLBs, and the handles. -/
def State.clearCow (s : State) (asid va : Nat) : State :=
  let off := fun e : Word64 => e &&& 0xFFFFFFFFFFFFEFFF
  let h := fun h : Handle => if h.page.toNat / 0x10000 = va / 0x10000 then { h with leaf := off h.leaf } else h
  { s with
    tlbs := s.tlbs.map fun t => (t.1, t.2.map fun e => if e.maps asid va then { e with leaf := off e.leaf } else e)
    ctxs := s.ctxs.map fun e => (e.1, if (s.launchOf e.1).asid = asid then e.2.mapHandles h else e.2) }
/-- COW_COPY_COMPLETE: the log entry, the PTE, the TLBs; the parked writes may go on. -/
def execCowCopyComplete (asid : BitVec 8) (page : BitVec 48) (st : State) : Host.Outcome State Fault Refusal :=
  let n := asid.toNat
  let va := page.toNat * 0x10000
  .next (match st.copies.find? fun c => c.asid = n ∧ c.page = page.toNat ∧ c.pos = 0x10000 with
    | none => st
    | some c =>
      let head := (st.csr csrLogHead).toNat
      let a := (st.csr csrLogBase).toNat / 16 * 16 % 2 ^ 50 + 16 * (head % (st.csr csrPoolPages).toNat)
      let (free, s) := st.draw Config.number
      let id := ((s.lockets.find? fun l => l.1 = n ∧ l.2.1 = page.toNat).map (·.2.2)).getD (free % 2 ^ 16)
      let s := s.pokeNat a 8 (va % 2 ^ 57 + n * 256)
      let s := s.pokeNat (a + 8) 8 (id * 2 ^ 48 + c.pool)
      let s := s.setCsr csrLogHead (BitVec.ofNat 64 ((head + 1) % 2 ^ 32))
      let s := match s.pte n va with
        | (s, .ok leaf _, at_) => s.pokeNat at_ 8 (leaf &&& 0xFFFFFFFFFFFFEFFF).toNat
        | (s, _, _) => s
      let s := s.clearCow n va
      { s with
        copies := s.copies.filter fun d => d ≠ c
        cowWant := s.cowWant.filter fun w => w ≠ (n, page.toNat)
        lockets := s.lockets.filter fun l => !(l.1 = n && l.2.1 = page.toNat) })
/-- SNAP_RETURN: a write of SNAP.RETURN frees a pool page. -/
def execSnapReturn (v : Word64) (st : State) : Host.Outcome State Fault Refusal :=
  .next (st.setPool (st.pool.setRange (v.toNat % 2 ^ 32) 1 fun _ => false))
/-- SNAP_LOG_TAIL_WRITE: ignored when it would pass the head. -/
def execSnapLogTailWrite (v : Word64) (st : State) : Host.Outcome State Fault Refusal :=
  let w : BitVec 32 := v.setWidth 32
  let head : BitVec 32 := (st.csr csrLogHead).setWidth 32
  let tail : BitVec 32 := (st.csr csrLogTail).setWidth 32
  .next (if head - tail < w - tail then st else st.setCsr csrLogTail (w.setWidth 64))
/-- SNAP_LOG_BASE_WRITE. -/
def execSnapLogBaseWrite (v : Word64) (st : State) : Host.Outcome State Fault Refusal :=
  .next (((st.setCsr csrLogBase (v &&& 0xFFFFFFFFFFFFFFF0)).setCsr csrLogHead 0).setCsr csrLogTail 0)
/-- SNAP_POOL_PAGES_WRITE: ignored while a pool page is allocated. -/
def execSnapPoolPagesWrite (v : Word64) (st : State) : Host.Outcome State Fault Refusal :=
  .next (if st.pool.isEmpty then ((st.setCsr csrPoolPages (v &&& 0xFFFFFFFF)).setCsr csrLogHead 0).setCsr csrLogTail 0 else st)

/-! ## Soft errors (R229, R230) -/

/-- The counter of a site: `ue` for a poisoned granule, else for a correction. -/
def siteCounter (e : ErrSite) (ue : Bool) : Nat :=
  let col := fun c : Nat => 0x20000 + (if ue then 0x80 else 0) + 8 * (c % 16)
  match e with
  | .hbm a => 0x20100 + (if ue then 0x40 else 0) + 8 * (a.toNat / 4096 % 8)
  | .llc a => col (homeSlice a.toNat / 4)
  | .sbm a => col (a.toNat / 2 ^ 24)
  | .scratch core _ => col (core.toNat / 128)
  | .staging core _ => col (core.toNat / 128)
  | .reg ctx _ _ => col (ctx.toNat / 256)
  | .l1 core _ _ => col (core.toNat / 128)
  | .queue ctx _ _ => col (ctx.toNat / 256)
  | .fifo _ _ => col (Config.fifoColumn)
/-- Words of memory that became poisoned, and their count. -/
def State.spoil (s : State) (w n : Nat) : State × Bool :=
  ({ s with psn := s.psn.setRange w n fun _ => true }, !((List.range n).all fun i => s.psn.contains (w + i)))
/-- A copied operand poisoned in a bundle. -/
def Issue.spoil (i : Issue) (n : Nat) : Issue := { i with old := i.old.wx n ⟨0, true⟩ }
/-- The granule of a site poisoned, and whether it was clean before. A block of HBM below a resident line is poisoned beside the line,
which goes on to be read. A register h has no poison bit to keep (R106, R110). -/
def State.poisonSite (s : State) (e : ErrSite) : State × Bool :=
  match e with
  | .hbm a =>
    let line := a.toNat / 128
    let b := a.toNat / 64 % 2
    match s.llc.find line with
    | some e =>
      ({ s with llc := s.llc.put line { e with dramPsn := (List.range 2).map fun i => i = b || e.dramPsn.getD i false } },
        !e.dramPsn.getD b false)
    | none => s.spoil (a.toNat / 64 * 16) 16
  | .llc a => if (s.llc.find (a.toNat / 128)).isSome then s.spoil (a.toNat / 32 * 8) 8 else (s, false)
  | .sbm a => s.spoil ((sbmBase + a.toNat) / 4) 1
  | .scratch core off => s.spoil (s.cell (scratchAddr core.toNat off.toNat) / 4) 1
  | .staging core w =>
    (s.modCore core.toNat fun c => { c with stagingPsn := c.stagingPsn.setRange w.toNat 1 fun _ => true },
      !(s.core core.toNat).stagingPsn.contains w.toNat)
  | .reg ctx kind i =>
    let k := ctx.toNat
    let r := (s.ctx k).regs
    let n := i.toNat
    let put := fun r : Regs => s.modCtx k fun c => { c with regs := r }
    match kind with
    | .x => if n % 64 = 0 then (s, false) else (put (r.wx (n % 64) ⟨0, true⟩), !(r.rx (n % 64)).psn)
    | .v => (put { r with v := r.v.put (n % 4096) ⟨0, true⟩ }, !(r.v.get ⟨0, false⟩ (n % 4096)).psn)
    | .c => (put (r.wc (n % 16) { r.rc (n % 16) with psn := true }), !(r.rc (n % 16)).psn)
    | .t => (put (r.wt (n % 32) { r.rt (n % 32) with psn := true }), !(r.rt (n % 32)).psn)
    | .a => (put { r with a := r.a.put n ⟨0, true⟩ }, !(r.a.get ⟨0, false⟩ n).psn)
    | .p => if n % 128 = 0 ∨ 96 ≤ n % 128 then (s, false) else (put { r with p := r.p.put (n % 128) ⟨0, true⟩ }, !(r.rp (n % 128)).psn)
    | .h => (s, true)
  | .l1 core line lane =>
    match (s.core core.toNat).l1.find line.toNat with
    | some e =>
      (s.modCore core.toNat fun c => { c with l1 := Sparse.put c.l1 line.toNat { e with psn := KeySet.setRange e.psn lane.toNat 1 fun _ => true } },
        !e.psn.contains lane.toNat)
    | none => (s, false)
  | .queue ctx b n =>
    let c := s.ctx ctx.toNat
    match c.older[b.toNat]? with
    | some i =>
      if n.toNat = 0 then (s, false)
      else (s.modCtx ctx.toNat fun c => { c with older := c.older.set b.toNat (i.spoil n.toNat) }, !(i.old.rx n.toNat).psn)
    | none =>
      if n.toNat = 0 ∨ b.toNat ≠ c.older.length ∨ c.issue.todo.isEmpty then (s, false)
      else (s.modCtx ctx.toNat fun c => { c with issue := c.issue.spoil n.toNat }, !(c.issue.old.rx n.toNat).psn)
  | .fifo endp i =>
    let q := s.fifos.get [] endp.toNat
    match q[i.toNat]? with
    | some w => ({ s with fifos := s.fifos.put endp.toNat (q.set i.toNat (⟨w.1.v, true⟩, w.2)) }, !w.1.psn)
    | none => (s, false)
/-- SOFT_ERROR_CORRECTED: rewritten in place, and counted. -/
def execSoftErrorCorrected (site : ErrSite) (st : State) : Host.Outcome State Fault Refusal := .next (st.bump (siteCounter site false))
/-- SOFT_ERROR_UNCORRECTED: the granule becomes poisoned; a new one is counted. DEDUCED, log entry 43. -/
def execSoftErrorUncorrected (site : ErrSite) (st : State) : Host.Outcome State Fault Refusal :=
  let (s, fresh) := st.poisonSite site
  .next (if fresh then s.bump (siteCounter site true) else s)

/-! ## HOST_MEM_ACCESS (R257, R432, R437) -/

/-- BOOT.STATUS.STATE is READY. -/
def State.booted (s : State) : Bool := (s.csr 0x90200).toNat % 8 = 4
/-- A CXL.mem request for a 64-byte block of HBM, performed at the line's home slice as on a page with MS clear: the line is
allocated. Before READY a write is dropped. DEDUCED, log entry 48. -/
def execHostMemAccess (write : Bool) (block : BitVec 33) (data : BitVec 512) (psn : Bool) (st : State) :
    Host.Outcome State Fault Refusal :=
  let a := block.toNat * 64
  .next (if !st.booted then st
    else if write then st.poke .fill a 64 fun i => ⟨data.extractLsb' (8 * i) 8, psn⟩
    else st.touchRead .fill a 64)

/-! ## TAG_TIMEOUT (R266) -/

/-- 2^24 cycles of 1,050 MHz in units of GT. DEDUCED, log entry 42. -/
def tagLimit : Nat := 2 ^ 24 * 1000 * 2 ^ 16 / 1050
/-- A full/empty wait has reached its limit. -/
def State.tagDue (s : State) (k : Nat) : Bool :=
  match (s.ctx k).tagWait with
  | some (_, t) => decide (t + tagLimit ≤ s.gt)
  | none => false
/-- TAG_TIMEOUT: the slot that waits raises the cause, and has no effect. -/
def execTagTimeout (ctx : BitVec 12) (st : State) : Host.Outcome State Fault Refusal :=
  let k := ctx.toNat
  let c := st.ctx k
  .next (match c.tagWait, c.issue.todo.find? fun q => q.exu = ExecUnit.s with
    | some (a, _), some q =>
      if st.tagDue k ∧ c.occ = Occupancy.resident then
        st.takeException k { trap := { cause := 0x24, addr := a }, slot := q.idx, issued := c.issue.addr }
      else st
    | _, _ => st)

end Sys2Proof.Machine
end

