-- ==== Sys2Proof/Machine/RecordEvents.lean ====
section
/-! DEFINITION. Records received from peers (R331): requests performed here (R217, R278, R318, R322), and answers to this
device's own (R315, R316). Records of one source are performed in the order of its stream. -/
namespace Sys2Proof.Machine

/-! ## The record at the head of a source's stream -/

/-- The oldest record of a source, when it is one of those that `p` names. -/
def State.recHead (s : State) (src : Nat) (p : Rec → Bool) : Option In :=
  (s.inbox.find? fun e => e.src = src).bind fun e => if p e.rec_ then some e else none
/-- A record done with. -/
def State.recDone (s : State) (e : In) : State := { s with inbox := s.inbox.erase e }
/-- The meaning `f` of the head record of a source. -/
def State.onHead (s : State) (src : BitVec 14) (p : Rec → Bool) (f : In → State → State) : Host.Outcome State Fault Refusal :=
  .next (match s.recHead src.toNat p with | some e => f e s | none => s)
/-- A request of a peer performed: it goes once it is done, and stays while it waits for a copy or for the host. -/
def recOut (e : In) (m : M Unit) (s : State) : State :=
  match m { s with asks := 0 } with
  | .ok (_, s') => State.recDone { s' with asks := 0, reqs := s'.reqs.filter fun (r : Req) => r.owner ≠ Owner.peer e.src } e
  | .error (.wait s') => { s' with asks := 0 }
  | .error (.ask r) => s.addReq r
  | .error _ => s
/-- A record sent back; it goes the way of the request it answers (R336). DESIGN CHOICE, log entry 24. -/
def reply (e : In) (rtype aux data : Nat) (psn : Bool) (bytes : List (Val 8)) : M Unit := change fun s =>
  s.sendRec e.src (e.rec_.tag.testBit 15) { rtype, tag := e.rec_.tag, aux, addr := if rtype = 4 then e.rec_.addr else 0, data, psn } bytes
/-- RESP with a result of up to 16 bytes. -/
def respond (e : In) (v : Nat) (psn : Bool) : M Unit := reply e 8 0 v psn []
/-- RESP or DONE with a cause; FF.INFO goes with it, DEDUCED, log entry 27. -/
def failBack (e : In) (rtype : Nat) (cause : BitVec 8) (info : Word64) : M Unit := reply e rtype cause.toNat info.toNat false []
/-- A failure of a clasp: it names this device (R411). -/
def claspBack (e : In) (rtype : Nat) : M Unit := do
  let me ← reads fun s => s.peer
  failBack e rtype 0x42 (BitVec.ofNat 64 me)
/-- REFUSE with the hint of OFU.RETRY (R314, R317). -/
def refuseBack (e : In) (reason : Nat) : M Unit := do
  let hint ← reads fun s => (s.csr 0xB18).toNat % 2 ^ 32
  reply e 10 reason hint false []

/-! ## Where a request lands (R217, R226, R228) -/

/-- What a peer's address leads to: the pieces, a cause, or a refusal. -/
inductive Landing where
  | ok (ps : List Piece) | fail (cause : BitVec 8) | refuse (reason : Nat)
deriving DecidableEq, Repr

/-- The pieces of an address below the export window: no translation. The initiator has checked its own entry; its MS is `ms`
(R217). -/
def State.landDirect (s : State) (addr n : Nat) (need : Need) (ms : Bool) : Landing :=
  let p : Piece := { va := addr, off := 0, len := n, leaf := if ms then 0x2000 else 0, pa := s.peer * 2 ^ 50 + addr }
  if s.target p.pa = .bad ∨ region (addr + n - 1) ≠ region addr ∨ s.noWindow p need = true then .fail 0x22 else .ok [p]
/-- A request's address resolved. A write to a COW page waits for its copy. MS of the initiator's entry, which no field of a record
shows, is free: DESIGN CHOICE, log entry 27. -/
def landAt (src addr n : Nat) (need : Need) : M Landing := do
  if region addr ≠ .exportWin then
    let m ← fun s => let (m, s) := s.draw Config.choice; .ok (m, s)
    reads fun s => s.landDirect addr n need (m % 2 = 1)
  else
    let x ← reads fun s => s.csr 0x800
    if !x.getLsbD 8 then pure (.fail 0x22)
    else
      let asid := x.toNat % 256
      let r ← fun s => let (s', r) := s.spread tlbExport asid (addr % 2 ^ 49) n; .ok (r, s')
      let wr : Bool := match need with | .write => true | .atomic => true | _ => false
      if !r.absent.isEmpty then pure (.refuse 0)
      else if r.bad.isSome then pure (.fail 0x22)
      else if ← reads fun s => (s.refusal r.ps need false).isSome then pure (.fail 0x22)
      else if ← reads fun s => wr && !s.poolReady && r.ps.any fun p => leafCow p.leaf && !s.copying asid p.va &&
          !s.cowWant.contains (asid, p.va / 0x10000) then pure (.refuse 1)
      else
        if wr then cowGate (.peer src) asid r.ps fun _ => hold
        pure (.ok r.ps)
/-- A request resolved, or answered with what keeps it from being performed. -/
def landing (e : In) (n : Nat) (need : Need) (rtype : Nat) (f : List Piece → M Unit) : M Unit := do
  match ← landAt e.src e.rec_.addr n need with
  | .ok ps => f ps
  | .fail c => failBack e rtype c 0
  | .refuse r => refuseBack e r

/-! ## READ, WRITE, WBLK, ATOM, CHARM, FLUSH, FIFO -/

/-- READ: RESP for up to 16 bytes, else an RBLK packet. -/
def execRead (src : BitVec 14) (st : State) : Host.Outcome State Fault Refusal :=
  st.onHead src (fun r => r.rtype = 1) fun e => recOut e (landing e e.rec_.aux .read 8 fun ps => do
    match ← loadPieces (.peer e.src) none false 0 ps with
    | .error t => failBack e 8 t.cause t.info
    | .ok bs => if bs.length ≤ 16 then respond e (leNat bs) (anyPsn bs) else reply e 4 bs.length 0 false bs)
/-- One piece of a peer's write performed. -/
def peerPut (e : In) (p : Piece) (bs : List (Val 8)) : M (Except Trap Unit) := do
  match ← reads fun s => s.target p.pa with
  | .mem =>
    change fun s => s.storeLocal none (allocOf p.leaf false) (p.pa % 2 ^ 50) p.len (byteAt bs)
    pure (.ok ())
  | _ =>
    match (← ask (.peer e.src) p.pa (.write bs) 6 0).result p.va with
    | .ok _ => pure (.ok ())
    | .error t => pure (.error t)
/-- The pieces of a peer's write performed in order, up to the first that fails. -/
def peerStore (e : In) : List (Piece × List (Val 8)) → M (Except Trap Unit)
  | [] => pure (.ok ())
  | w :: ws => do
    match ← peerPut e w.1 w.2 with
    | .error t => pure (.error t)
    | .ok _ => peerStore e ws
/-- A write performed and acknowledged. -/
def peerWrite (e : In) (bs : List (Val 8)) : M Unit :=
  landing e bs.length .write 9 fun ps => do
    match ← peerStore e (cutBytes ps bs) with
    | .error t => failBack e 9 t.cause t.info
    | .ok _ => reply e 9 0 0 false []
def execWrite (src : BitVec 14) (st : State) : Host.Outcome State Fault Refusal :=
  st.onHead src (fun r => r.rtype = 2) fun e =>
    recOut e (peerWrite e ((leBytes (min e.rec_.aux 16) e.rec_.data).map fun b => ⟨b, e.rec_.psn⟩))

/-- The staging slot of a group of an initiator. -/
def State.stageOf (s : State) (src grp : Nat) : Option (Nat × Stage) := s.stages.find? fun x => x.2.src = src ∧ x.2.grp = grp
/-- The group that a CLASP record, or a WBLK of a group, names. -/
def Rec.group (r : Rec) : Nat := r.data % 2 ^ 16
/-- CLASP.STAGE.BASE. -/
def State.stageBase (s : State) : Nat := (s.csr 0xB00).toNat / 2 ^ 24 * 2 ^ 24 % 2 ^ 50
/-- The data of a group's SEND staged, with its destination translated (R322). -/
def stageWrite (e : In) : M Unit :=
  landing e e.data.length .write 9 fun ps => do
    match ← reads fun s => s.stageOf e.src e.rec_.group with
    | none => claspBack e 9
    | some (slot, g) =>
      if 65536 < g.used + e.data.length then claspBack e 9
      else if ← reads fun s => ps.any fun p => s.target p.pa ≠ .mem then failBack e 9 0x22 0
      else
        change fun s =>
          let asid := (s.csr 0x800).toNat % 256
          let pages := if region e.rec_.addr = .exportWin then ps.map fun p => (asid, p.va / 0x10000) else []
          let g := { g with
            writes := g.writes ++ (cutBytes ps e.data).map fun w => (w.1.pa % 2 ^ 50, leafMs w.1.leaf, w.2)
            pages := g.pages ++ pages
            used := g.used + e.data.length }
          { s.pokeL .fill (s.stageBase + 65536 * slot + g.used - e.data.length) e.data with stages := s.stages.put slot g }
        reply e 9 0 0 false []
/-- WBLK: a block write, or the data of a group's SEND. -/
def execWblk (src : BitVec 14) (st : State) : Host.Outcome State Fault Refusal :=
  st.onHead src (fun r => r.rtype = 3) fun e =>
    recOut e (if e.rec_.data.testBit 24 then stageWrite e else peerWrite e e.data)
/-- ATOM. -/
def execAtom (src : BitVec 14) (st : State) : Host.Outcome State Fault Refusal :=
  st.onHead src (fun r => r.rtype = 5) fun e =>
    let a := e.rec_.aux
    let op := a % 16
    let lo := e.rec_.data % 2 ^ 64
    let hi := e.rec_.data / 2 ^ 64
    let n := if a.testBit 4 then 8 else 4
    recOut e (if 13 ≤ op then failBack e 8 0x22 0 else landing e n .atomic 8 fun ps => do
      match ps with
      | [] => failBack e 8 0x22 0
      | p :: _ =>
        match ← rmwAt (.peer e.src) none 0 6 (BitVec.ofNat 2 (a / 32)) p op (if op = 1 then hi else lo) lo with
        | .error t => failBack e 8 t.cause t.info
        | .ok bs => respond e (leNat bs) (anyPsn bs))
/-- CHARM: it runs at the home slice of an HBM line. -/
def execCharm (src : BitVec 14) (st : State) : Host.Outcome State Fault Refusal :=
  st.onHead src (fun r => r.rtype = 6) fun e => recOut e (landing e 4 .atomic 8 fun ps => do
    match ps with
    | [] => failBack e 8 0x22 0
    | p :: _ =>
      if region (p.pa % 2 ^ 50) ≠ .hbm then failBack e 8 0x22 0
      else
        let d := e.rec_.data
        let a ← fun s =>
          let (s', a) := s.charm (leafMs p.leaf) (p.pa % 2 ^ 50) (e.rec_.aux % 64) (BitVec.ofNat 64 d) (BitVec.ofNat 64 (d / 2 ^ 64))
          .ok (a, s')
        match a with
        | .data bs => respond e (leNat bs) (anyPsn bs)
        | .fail c i => failBack e 8 c i)
/-- FLUSH: a run of lines flushed, or flushed and dropped, at their home slices. -/
def execFlushRecord (src : BitVec 14) (st : State) : Host.Outcome State Fault Refusal :=
  st.onHead src (fun r => r.rtype = 13) fun e => recOut e (landing e (128 * (e.rec_.aux % 2 ^ 16)) .read 9 fun ps => do
    change fun s => (s.linesOf ps false).foldl (fun s l => if e.rec_.aux.testBit 16 then s.evict l else s.writeBack l) s
    reply e 9 0 0 false [])
/-- FIFO: a word joins an endpoint, or is refused while it is full. -/
def execFifo (src : BitVec 14) (st : State) : Host.Outcome State Fault Refusal :=
  st.onHead src (fun r => r.rtype = 7) fun e =>
    let n := e.rec_.aux % 256
    recOut e (do
      let q ← reads fun s => s.fifos.get [] n
      if 512 ≤ q.length then refuseBack e 3
      else
        change fun s => { s with fifos := s.fifos.put n (q ++ [(⟨BitVec.ofNat 32 e.rec_.data, e.rec_.psn⟩, e.rec_.data.testBit 32)]) }
        reply e 9 0 0 false [])

/-! ## Answers (R315, R316) -/

/-- The request of this device that a record of a peer answers. -/
def State.askedOf (s : State) (e : In) : Option Req :=
  s.reqs.find? fun r => r.ans.isNone && r.queued && decide (r.addr / 2 ^ 50 = e.src ∧ s.wireTag r = e.rec_.tag)
/-- The result of a request: so many bytes of a RESP. -/
def Req.resultBytes (r : Req) : Nat :=
  match r.act with
  | .read n => n
  | .atomic _ w8 _ _ _ => if w8 then 8 else 4
  | .charm .. => 8
  | .clasp .. => 1
  | _ => 0
/-- An answer reaches its request. -/
def State.answered (s : State) (e : In) (f : Req → Answer) : State :=
  let s := s.recDone e
  match s.askedOf e with | some r => s.answer r (f r) | none => s
/-- RESP. -/
def execResp (src : BitVec 14) (st : State) : Host.Outcome State Fault Refusal :=
  st.onHead src (fun r => r.rtype = 8) fun e s => s.answered e fun r =>
    if e.rec_.aux = 0 then .data (toBytes r.resultBytes e.rec_.data e.rec_.psn)
    else .fail (BitVec.ofNat 8 e.rec_.aux) (BitVec.ofNat 64 e.rec_.data)
/-- DONE. -/
def execDone (src : BitVec 14) (st : State) : Host.Outcome State Fault Refusal :=
  st.onHead src (fun r => r.rtype = 9) fun e s => s.answered e fun _ =>
    if e.rec_.aux = 0 then .data [] else .fail (BitVec.ofNat 8 e.rec_.aux) (BitVec.ofNat 64 e.rec_.data)
/-- RBLK. -/
def execRblk (src : BitVec 14) (st : State) : Host.Outcome State Fault Refusal :=
  st.onHead src (fun r => r.rtype = 4) fun e s => s.answered e fun _ => .data e.data
/-- REFUSE: the request is held for the hint; the eighth counted refusal fails it. -/
def execRefuse (src : BitVec 14) (st : State) : Host.Outcome State Fault Refusal :=
  st.onHead src (fun r => r.rtype = 10) fun e s =>
    let s := s.recDone e
    match s.askedOf e with
    | none => s
    | some r =>
      let n := if e.rec_.aux = 3 then r.refused else r.refused + 1
      if 8 ≤ n then s.answer r (.fail 0x40 (BitVec.ofNat 64 e.src))
      else
        let until_ := max 1 (s.gt + e.rec_.data % 2 ^ 64 * 2 ^ 16)
        { s with reqs := s.reqs.map fun (q : Req) => if q.tag = r.tag then { q with refused := n, hold := until_, sentAt := none } else q }

/-! ## Clasps (R322, R323) -/

/-- A CLASP record of a sub-operation. DEDUCED, log entry 37. -/
def claspSub (n : Nat) (r : Rec) : Bool := r.rtype = 11 && r.aux = n
/-- The status of a group forgotten, or set. -/
def State.forget (s : State) (src grp : Nat) : State :=
  { s with closed := s.closed.filter fun x => !(x.1 = src && x.2.1 = grp) }
def State.settleGroup (s : State) (slot src grp : Nat) (committed : Bool) : State :=
  { s.forget src grp with stages := s.stages.del slot, closed := (s.forget src grp).closed ++ [(src, grp, committed)] }
/-- CLASP_OPEN: a staging slot is reserved. -/
def execClaspOpen (src : BitVec 14) (st : State) : Host.Outcome State Fault Refusal :=
  st.onHead src (claspSub 0) fun e => recOut e (do
    let g := e.rec_.group
    if ← reads fun s => !(s.csr 0xB00).getLsbD 0 then claspBack e 8
    else
      match ← reads fun s => ((s.stageOf e.src g).map (·.1)) <|> (List.range 256).find? fun i => (s.stages.find i).isNone with
      | none => refuseBack e 2
      | some i =>
        change fun s => { s.forget e.src g with stages := s.stages.put i { src := e.src, grp := g } }
        respond e i false)
/-- CLASP_CLOSE: the staged writes are performed in SEND order, one at a step, and then acknowledged. -/
def execClaspClose (src : BitVec 14) (st : State) : Host.Outcome State Fault Refusal :=
  st.onHead src (claspSub 1) fun e s =>
    let g := e.rec_.group
    match s.stageOf e.src g with
    | some (i, x) =>
      match x.writes with
      | w :: ws => { s.pokeL (if w.2.1 then .ms else .fill) w.1 w.2.2 with stages := s.stages.put i { x with writes := ws } }
      | [] => recOut e (reply e 11 2 (g + i * 2 ^ 16) false []) (s.settleGroup i e.src g true)
    | none => recOut e (claspBack e 8) s
/-- CLASP_COMMITTED at the initiator. -/
def execClaspCommitted (src : BitVec 14) (st : State) : Host.Outcome State Fault Refusal :=
  st.onHead src (claspSub 2) fun e s => s.answered e fun _ => .data []
/-- CLASP_STATUS_QUERY: answered from the status kept. -/
def execClaspStatusQuery (src : BitVec 14) (st : State) : Host.Outcome State Fault Refusal :=
  st.onHead src (claspSub 4) fun e s =>
    let g := e.rec_.group
    match s.closed.find? fun x => x.1 = e.src ∧ x.2.1 = g with
    | some (_, _, true) => recOut e (reply e 11 2 (e.rec_.data % 2 ^ 24) false []) s
    | some (_, _, false) => recOut e (claspBack e 8) s
    | none => s.recDone e
/-- The commands of a group: those of its channel up to its CLCLOSE. -/
def State.groupCmds (s : State) (g : Clasp) : List Cmd :=
  let mine := s.cmds.filter fun c => c.inc = g.inc && c.unit = CmdUnit.send g.ch &&
    (match c.op with | .send _ _ _ _ grp => grp | .clopen _ => true | .clclose => true | _ => false)
  let n := (mine.takeWhile fun c => c.op ≠ CmdOp.clclose).length
  mine.take (n + 1)
/-- The bit of a send channel in CTX.QMODE.CLASP of a placement cleared, resident or saved (R327). -/
def State.clearClasp (s : State) (inc ch : Nat) : State :=
  let off := fun q : Word64 => q &&& ~~~((1 : Word64) <<< (12 + ch))
  match s.ctxOf inc with
  | some k => s.modCtx k fun c => { c with regs := { c.regs with qmode := off c.regs.qmode } }
  | none =>
    match s.savedOf inc with
    | some e =>
      let a := s.savedSlot e + 0x690 + 8 * 6
      s.pokeTab a 1 8 fun _ => (off (BitVec.ofNat 64 (s.peekNat a 8))).toNat
    | none => s
/-- A group that has aborted ends at its initiator: what is not satisfied fails, the context takes one record, the peer is told, and
the clasp is no longer open on its channel. -/
def State.endGroup (s : State) (g : Clasp) : State :=
  let t : Trap := { cause := 0x42, info := BitVec.ofNat 64 g.peer }
  let cs := s.groupCmds g
  let s := s.recallClose g
  let s := cs.foldl (fun s c => if c.phase = .stopped then s else s.stopCmd c.id (some t)) s
  let s := { s with reqs := s.reqs.filter fun (r : Req) => !(cs.any fun c => r.owner = Owner.cmd c.id) }
  let s := match cs.head? with
    | some c => s.addRecord c c.token t
    | none => (s.pendRecord g.inc { cause := t.cause, info := t.info }).getD s
  let s := s.sendRec g.peer false { rtype := 11, aux := 3, data := g.grp + g.slot.getD 0 * 2 ^ 16 } []
  let s := s.freeClasp g.grp
  if cs.any fun c => c.op = CmdOp.clclose then s else s.clearClasp g.inc g.ch
/-- A group that has aborted, before its commit point (R323). -/
def State.abortDue (s : State) (n : Nat) : Option Clasp := s.clasps.find? fun g => g.grp = n && g.aborted && !s.closeHeld g
/-- CLASP_ABORT: at the peer (`far`), the abort record of initiator `n` discards what is staged; at the initiator, group `n`
ends. -/
def execClaspAbort (far : Bool) (n : BitVec 14) (st : State) : Host.Outcome State Fault Refusal :=
  if far then
    st.onHead n (claspSub 3) fun e s =>
      let g := e.rec_.group
      let s := s.recDone e
      match s.stageOf e.src g with
      | some (i, _) => ((s.settleGroup i e.src g false).bump 0xB08).setCsr 0xB10 (BitVec.ofNat 64 (e.src * 2 ^ 16 + g % 256))
      | none => s
  else .next (match st.abortDue n.toNat with | some g => st.endGroup g | none => st)

/-! ## Collectives (R354, R355) -/

/-- A COLL record of a sub-operation. -/
def collSub (n : Nat) (r : Rec) : Bool := r.rtype = 12 && r.aux % 256 = n
/-- HOLD: the neighbour waits, as it does without it. -/
def execHold (src : BitVec 14) (st : State) : Host.Outcome State Fault Refusal := st.onHead src (collSub 3) fun e s => s.recDone e
/-- COLL_START. -/
def execCollStart (src : BitVec 14) (st : State) : Host.Outcome State Fault Refusal :=
  st.onHead src (collSub 0) fun e s => (s.recDone e).collStarted e.src e.rec_
/-- COLL_ABORT, of a collective or of an AGE command. -/
def execCollAbort (src : BitVec 14) (st : State) : Host.Outcome State Fault Refusal :=
  st.onHead src (collSub 1) fun e s =>
    if 2 ^ 63 ≤ e.rec_.data % 2 ^ 64 then (s.recDone e).ageAborted e.src e.rec_ else (s.recDone e).collAborted e.src e.rec_
/-- COLL_FINISHED. -/
def execCollFinished (src : BitVec 14) (st : State) : Host.Outcome State Fault Refusal :=
  st.onHead src (collSub 2) fun e s => (s.recDone e).note (e.rec_.data % 2 ^ 64) e.src none true
/-- COLL_DATA: a chunk is kept until the step combines it. -/
def execCollData (src : BitVec 14) (st : State) : Host.Outcome State Fault Refusal :=
  st.onHead src (collSub 4) fun e s =>
    (s.recDone e).addStrm (e.rec_.data % 2 ^ 64) e.src (e.rec_.data / 2 ^ 104 % 256) e.data

end Sys2Proof.Machine
end

