-- ==== Sys2Proof/Machine/Cp.lean ====
section
/-! DEFINITION. The command processor (R225, R325, R326, R343, R373 to R381, R384): fetch and acceptance of Zhoask entries,
the commands, their completion, and the completion of launches. -/
namespace Sys2Proof.Machine

/-! ## Entries (R373) -/

/-- A little-endian field of an entry. -/
def entryField (e : BitVec 512) (o n : Nat) : Nat := (e.extractLsb' (8 * o) (8 * n)).toNat
/-- The bytes from `o` to `p` − 1 are 0. -/
def entryZero (e : BitVec 512) (o p : Nat) : Bool := entryField e o (p - o) = 0
/-- The operand bytes that an OP does not use are 0. -/
def operandsClean (e : BitVec 512) : Bool :=
  entryZero e 0x1C 0x20 && (match entryField e 0 1 with
    | 1 => entryZero e 0x28 0x40
    | 2 => entryZero e 0x38 0x40
    | 3 => entryZero e 0x30 0x40
    | 4 => entryZero e 0x30 0x40
    | 5 => entryZero e 0x21 0x28 && entryZero e 0x36 0x40
    | 6 => entryZero e 0x22 0x28 && entryZero e 0x30 0x40
    | 7 => entryZero e 0x21 0x28 && (if entryField e 0x20 1 = 1 then entryZero e 0x30 0x40 else entryZero e 0x3C 0x40)
    | _ => false)
/-- An entry that keeps R373. -/
def entryGood (e : BitVec 512) : Bool :=
  let nh := entryField e 2 1
  operandsClean e && entryField e 1 1 < 4 && nh ≤ 6 && entryField e 8 8 % 8 = 0 &&
    (List.range 6).all fun i =>
      let h := entryField e (0x10 + 2 * i) 2
      if i < nh then h / 4096 % 8 = 0 else h = 0
/-- The handles of an entry: index and W. -/
def entrySlots (e : BitVec 512) : List (Nat × Bool) :=
  (List.range (entryField e 2 1)).map fun i =>
    let h := entryField e (0x10 + 2 * i) 2
    (h % 4096, h.testBit 15)
def CpCmd.f (c : CpCmd) (o n : Nat) : Nat := entryField c.entry o n
def CpCmd.op (c : CpCmd) : Nat := c.f 0 1
/-- A captured handle's fields (R376). -/
def handleV (h : BitVec 128) : Bool := h.getLsbD 127
def handleKeep (h : BitVec 128) : Bool := h.getLsbD 126
def handleLen (h : BitVec 128) : Nat := (h.extractLsb' 64 40).toNat
def handleBase (h : BitVec 128) : Nat := (h.extractLsb' 0 50).toNat
/-- An entry of the buffer-handle table. -/
def State.bufHandle (s : State) (i : Nat) : BitVec 128 := s.csr (0x60008 + 16 * i) ++ s.csr (0x60000 + 16 * i)

/-! ## ZHOASK_FETCH (R326, R377) -/

/-- Registers of queue `n` (R325). -/
def zqBase (n : Nat) : Nat := 0x40000 + 0x20 * n
def State.zqHead (s : State) (n : Nat) : BitVec 32 := (s.csr (zqBase n + 0x10)).setWidth 32
def State.zqTail (s : State) (n : Nat) : BitVec 32 := (s.csr (zqBase n + 0x18)).setWidth 32
def State.zqCtl (s : State) (n : Nat) : Word64 := s.csr (zqBase n + 8)
/-- 2^LOG2SIZE. -/
def State.zqSize (s : State) (n : Nat) : Nat :=
  let l := (s.zqCtl n).toNat % 32
  2 ^ (if 4 ≤ l ∧ l ≤ 16 then l else 4)
/-- An accepted WAIT that has not completed blocks its queue. -/
def State.waitBlocks (s : State) (n : Nat) : Bool := s.cps.any fun c => c.queue = n && c.op = 4 && c.result.isNone
/-- A queue that the CP may read. -/
def State.zqReady (s : State) (n : Nat) : Bool :=
  (s.zqCtl n).getLsbD 63 && !(s.zqCtl n).getLsbD 62 && s.zqHead n ≠ s.zqTail n && !s.waitBlocks n
/-- PRIO of a queue. -/
def State.zqPrio (s : State) (n : Nat) : Nat := (s.zqCtl n).toNat / 256 % 4
/-- The queue whose turn it is: by PRIO, in rotation within a priority. -/
def State.zqPick (s : State) : Option Nat :=
  (List.range 4).findSome? fun p =>
    ((List.range 64).map fun i => (s.lastQueue.get 63 p + 1 + i) % 64).find? fun n => s.zqReady n && s.zqPrio n = p
/-- The host physical address of the entry that the CP reads next: HEAD mod 2^LOG2SIZE in the ring at BASE. -/
def State.zqEntryAt (s : State) (n : Nat) : Nat :=
  (s.csr (zqBase n)).toNat / 4096 * 4096 + 64 * ((s.zqHead n).toNat % s.zqSize n)
/-- A command put among the accepted ones. -/
def State.accept (s : State) (q : Nat) (e : BitVec 512) : State :=
  let id := s.nextCp
  let s := { s with nextCp := id + 1 }
  if !entryGood e then { s with cps := s.cps ++ [{ id, queue := q, entry := e, started := true, result := some (1, 0) }] }
  else
    let hs := entrySlots e
    let c : CpCmd := { id, queue := q, entry := e, slots := hs.map fun h => (h.1, h.2, s.bufHandle h.1) }
    let (s, deps) := hs.foldl (init := (s, ([] : List Nat))) fun (s, ds) h =>
      let w := (s.writers.find h.1).toList
      if h.2 then ({ s with writers := s.writers.put h.1 id, readers := s.readers.put h.1 [] }, ds ++ w ++ s.readers.get [] h.1)
      else ({ s with readers := s.readers.put h.1 (s.readers.get [] h.1 ++ [id]) }, ds ++ w)
    let serial := if e.getLsbD 8 then (s.cps.filter fun d => d.queue = q).map (·.id) else []
    { s with cps := s.cps ++ [{ c with deps := (deps ++ serial).filter (· ≠ id) }] }
/-- ZHOASK_FETCH: the CP reads the entry of the queue whose turn it is, the 64 bytes that the host holds at `zqEntryAt`, or finds an
overrun. -/
def execZhoaskFetch (q : BitVec 6) (entry : BitVec 512) (st : State) : Host.Outcome State Fault Refusal :=
  let n := q.toNat
  .next (if st.zqPick = some n ∧ st.cps.length < 1024 then
      if st.zqSize n < (st.zqTail n - st.zqHead n).toNat then st.setCsr (zqBase n + 8) (st.zqCtl n ||| 0x4000000000000000)
      else State.accept { st.setCsr (zqBase n + 0x10) ((st.zqHead n + 1).setWidth 64) with
        lastQueue := st.lastQueue.put (st.zqPrio n) n } n entry
    else st)

/-! ## Starts and completions (R374, R377, R378) -/

/-- An accepted command. -/
def State.cp? (s : State) (n : Nat) : Option CpCmd := s.cps.find? fun c => c.id = n
def State.modCp (s : State) (n : Nat) (f : CpCmd → CpCmd) : State := { s with cps := s.cps.map fun c => if c.id = n then f c else c }
/-- A command's own work is done. -/
def State.cpDone (s : State) (n status detail : Nat) : State := s.modCp n fun c => { c with result := some (status, detail) }
/-- A command may start. -/
def CpCmd.startable (c : CpCmd) : Bool := !c.started && c.deps.isEmpty
/-- CP_COMMAND_START of command `n`. A LAUNCH first empties every L1. -/
def execCpCommandStart (n : Nat) (st : State) : Host.Outcome State Fault Refusal :=
  .next (match st.cp? n with
    | some c =>
      if c.startable then
        let s := if c.op = 1 then { st with cores := st.cores.map fun e => (e.1, { e.2 with l1 := [] }) } else st
        s.modCp n fun c => { c with started := true }
      else st
    | none => st)
/-- The number that marks a request of the CP for command `n`'s completion word. -/
def completionIx (n : Nat) : Nat := 2 * n
/-- The flush of a KEEP range: dirty lines are written to HBM, none is dropped (R213). -/
def State.flushRange (s : State) (base len : Nat) : State :=
  ((s.llc.map (·.1)).filter fun l => decide (base < l * 128 + 128) && decide (l * 128 < base + len)).foldl (fun s l => s.writeBack l) s
/-- The completion word. -/
def CpCmd.word (c : CpCmd) : Nat :=
  let r := c.result.getD (0, 0)
  c.f 4 4 * 2 ^ 32 + r.2 % 2 ^ 24 * 2 ^ 8 + r.1
/-- A finished command leaves the CP: it drops out of every set, and the vector is raised. -/
def State.cpRetire (s : State) (c : CpCmd) : State :=
  let s := { s with
    cps := (s.cps.filter fun d => d.id ≠ c.id).map fun d => { d with deps := d.deps.filter (· ≠ c.id) }
    writers := s.writers.filter fun e => e.2 ≠ c.id
    readers := s.readers.map fun e => (e.1, e.2.filter (· ≠ c.id)) }
  if c.entry.getLsbD 9 ∧ c.f 1 1 < 4 then { s with irqs := s.irqs ++ [c.f 3 1] } else s
/-- CP_COMMAND_COMPLETE of command `n`: KEEP ranges are flushed and the completion word leaves; once the host has it, the
vector is raised. -/
def execCpCommandComplete (n : Nat) (st : State) : Host.Outcome State Fault Refusal :=
  .next (match st.cp? n with
    | some c =>
      if c.result.isNone ∨ st.reqs.any (fun r => r.owner = Owner.cp n) = true then st
      else if !c.posted then
        let s := (c.slots.filter fun h => h.2.1 && handleV h.2.2 && handleKeep h.2.2).foldl
          (fun s h => s.flushRange (handleBase h.2.2) (handleLen h.2.2)) st
        let s := s.modCp n fun c => { c with posted := true }
        let a := c.f 8 8
        if a = 0 ∨ a % 8 ≠ 0 then s
        else s.addReq { owner := .device, ix := completionIx n, addr := a, act := .write (toBytes 8 c.word false), scope := 6 }
      else if st.reqs.any fun r => r.owner = Owner.device && r.ix = completionIx n then st
      else st.cpRetire c
    | none => st)

/-! ## A command's work -/

/-- A unit of work of command `n`: a cause completes it with FAULT. -/
def cpOut (n : Nat) (m : M Unit) (s : State) : State :=
  let drop := fun s : State => { s with asks := 0, reqs := s.reqs.filter fun (r : Req) => r.owner ≠ Owner.cp n }
  match m { s with asks := 0 } with
  | .ok (_, s') => drop s'
  | .error (.wait s') => { s' with asks := 0 }
  | .error (.ask r) => s.addReq r
  | .error (.raise t) => (drop s).cpDone n 8 t.cause.toNat
  | .error _ => s
/-- A command of an OP that has started and whose work is not done runs `f`; a named handle with V = 0 gives RANGE. -/
def State.cpRun (s : State) (n op : Nat) (f : CpCmd → State → State) : Host.Outcome State Fault Refusal :=
  .next (match s.cp? n with
    | some c =>
      if !c.started || c.result.isSome || c.op ≠ op then s
      else if c.slots.any fun h => !handleV h.2.2 then s.cpDone n 2 0
      else f c s
    | none => s)
/-- Handle slot `i`. -/
def CpCmd.slot (c : CpCmd) (i : Nat) : Option (Bool × BitVec 128) := (c.slots[i]?).map (·.2)
/-- The address of `len` bytes at an offset in slot `i` that has W as given; none gives RANGE. -/
def CpCmd.place (c : CpCmd) (i : Nat) (w : Bool) (off len : Nat) : Option Nat :=
  match c.slot i with
  | some (w', h) => if w' = w ∧ off + len ≤ handleLen h then some (handleBase h + off) else none
  | none => none
/-- The pieces of a device-local address of R216. -/
def cpSpread (a n : Nat) (need : Need) : M (List Piece) := do
  match ← reads fun s => s.landDirect a n need false with
  | .ok ps => pure ps
  | _ => raise { cause := 0x22 }
def cpLoad (n a len : Nat) : M (List (Val 8)) := do
  match ← loadPieces (.cp n) none false 0 (← cpSpread a len .read) with
  | .ok bs => pure bs
  | .error t => raise t
def cpStore (n a : Nat) (bs : List (Val 8)) : M Unit := do
  (← cpSpread a bs.length .write).forM fun p => do
    match ← reads fun s => s.target p.pa with
    | .mem => change fun s => s.storeLocal none .fill (p.pa % 2 ^ 50) p.len (byteAt bs)
    | _ =>
      match (← ask (.cp n) p.pa (.write bs) 6 0).result p.va with
      | .ok _ => pure ()
      | .error t => raise t

/-! ## COPY, SIGNAL, WAIT (R375) -/

/-- Some bytes of a COPY: up to the end of the destination's 128-byte line, or one between ranges that overlap. -/
def cpCopyRun (c : CpCmd) (a b len : Nat) : M Unit :=
  if a < b + len ∧ b < a + len then do
    let now ← cpLoad c.id (a + c.pos) 1
    let gone ← cpLoad c.id (b + c.pos) 1
    let r ← drawM
    cpStore c.id (b + c.pos) (if r % 2 = 0 then now else beforeBytes c.orig (a + c.pos) now)
    change fun s => s.modCp c.id fun d => { d with pos := c.pos + 1, orig := keepBytes c.orig (b + c.pos) gone }
  else do
    let k := min (len - c.pos) (128 - (b + c.pos) % 128)
    cpStore c.id (b + c.pos) (← cpLoad c.id (a + c.pos) k)
    change fun s => s.modCp c.id fun d => { d with pos := c.pos + k }
/-- CP_COPY: some bytes of command `n`. -/
def execCpCopy (n : Nat) (st : State) : Host.Outcome State Fault Refusal :=
  st.cpRun n 2 fun c s =>
    let len := c.f 0x30 8
    match c.place 0 false (c.f 0x20 8) len, c.place 1 true (c.f 0x28 8) len with
    | some a, some b => if len ≤ c.pos then s.cpDone n 0 0 else cpOut n (cpCopyRun c a b len) s
    | _, _ => s.cpDone n 2 0
/-- The doubleword of a SIGNAL or a WAIT. -/
def CpCmd.dword (c : CpCmd) (w : Bool) : Option Nat := if c.f 0x20 8 % 8 = 0 then c.place 0 w (c.f 0x20 8) 8 else none
/-- SIGNAL of command `n`. -/
def execSignal (n : Nat) (st : State) : Host.Outcome State Fault Refusal :=
  st.cpRun n 3 fun c s =>
    match c.dword true with
    | some a => cpOut n (do
        cpStore n a (toBytes 8 (c.f 0x28 8) false)
        change fun s => s.cpDone n 0 0) s
    | none => s.cpDone n 2 0
/-- The word of a WAIT read: a clean value that has reached V completes it. -/
def State.waitRead (s : State) (c : CpCmd) : State :=
  match c.dword false with
  | some a => cpOut c.id (do
      let bs ← cpLoad c.id a 8
      change fun s =>
        if !anyPsn bs && decide (c.f 0x28 8 ≤ leNat bs) then s.cpDone c.id 0 0
        else s.modCp c.id fun d => { d with polled := some s.gt }) s
  | none => s.cpDone c.id 2 0
/-- WAIT of command `n`: the first read. -/
def execWait (n : Nat) (st : State) : Host.Outcome State Fault Refusal :=
  st.cpRun n 4 fun c s => if c.polled.isNone then s.waitRead c else s
/-- WAIT_POLL of command `n`: a later read. -/
def execWaitPoll (n : Nat) (st : State) : Host.Outcome State Fault Refusal :=
  st.cpRun n 4 fun c s => if c.polled.isSome then s.waitRead c else s

/-! ## SNAP (R225) -/

/-- The walks of a range of pages: leaf, place of the entry, by page. -/
def State.snapWalks (s : State) (asid va n : Nat) : State × List (Nat × Walk × Nat) :=
  (List.range n).foldl (init := (s, [])) fun x i =>
    let a := (va + i * 0x10000) % 2 ^ 64
    let (s, w) := x.1.pte asid a
    (s, x.2 ++ [(a, w)])
/-- COW set in the entries of present pages, which belong to a locket. -/
def State.setCow (s : State) (asid locket : Nat) (ws : List (Nat × Walk × Nat)) : State :=
  ws.foldl (init := s) fun s w =>
    match w.2.1 with
    | .ok leaf _ =>
      let s := s.pokeNat w.2.2 8 (leaf ||| 0x1000).toNat
      { s with lockets := (s.lockets.filter fun l => !(l.1 = asid && l.2.1 = w.1 / 0x10000)) ++ [(asid, w.1 / 0x10000, locket)] }
    | _ => s
/-- SNAP of command `n`: the whole range is decided first; COW is set and the range is shot down; when the shootdown is done
the command is. -/
def execSnap (n : Nat) (st : State) : Host.Outcome State Fault Refusal :=
  st.cpRun n 5 fun c s =>
    match c.shoot with
    | some x => if s.shootDone x then s.cpDone n 0 (min c.pos (2 ^ 24 - 1)) else s
    | none =>
      let asid := c.f 0x20 1
      let va := c.f 0x28 8
      let (s, ws) := s.snapWalks asid va (c.f 0x30 4)
      if va % 0x10000 ≠ 0 ∨ !(s.csr (8 * asid)).getLsbD 0 ∨
          ws.any (fun w => match w.2.1 with | .fail _ => true | _ => false) = true then s.cpDone n 2 0
      else if ws.any fun w => match w.2.1 with | .ok _ size => size ≠ 0 | _ => false then s.cpDone n 4 0
      else
        let skipped := (ws.filter fun w => w.2.1 = Walk.absent).length
        let (s, x) := (s.setCow asid (c.f 0x34 2) ws).beginShoot asid false (va / 0x10000 % 2 ^ 41) (c.f 0x30 4)
        s.modCp n fun c => { c with shoot := some x, pos := skipped }

/-! ## CODESWAP (R68, R384) -/

/-- Contexts of launches of a code id, placed or saved. -/
def State.onCode (s : State) (code : Nat) : List (Nat × Nat) :=
  let of := fun l : Nat => ((s.launch? l).map (·.code)) = some code
  (s.ctxs.filter fun e => e.2.occ = Occupancy.resident ∧ of e.2.regs.launch.toNat).map (fun e => (e.2.regs.launch.toNat, e.2.regs.task.toNat)) ++
    ((s.ready.filter fun e => e.saved.isSome ∧ of e.launch) ++ (s.saving.map (·.entry)).filter fun e => of e.launch).map
      fun e => (e.launch, e.task)
/-- CP_CODESWAP of command `n`. -/
def execCpCodeswap (n : Nat) (st : State) : Host.Outcome State Fault Refusal :=
  st.cpRun n 6 fun c s =>
    if s.swaps.any fun w => w.1 = n then s
    else
      let code := c.f 0x20 2
      { s.writeCode code (BitVec.ofNat 64 (c.f 0x28 8)) with swaps := s.swaps ++ [(n, s.onCode code)] }
/-- CODESWAP_COMPLETION of command `n`. -/
def execCodeswapCompletion (n : Nat) (st : State) : Host.Outcome State Fault Refusal :=
  .next (match st.swaps.find? fun w => w.1 = n with
    | some (_, []) => State.cpDone { st with swaps := st.swaps.filter fun w => w.1 ≠ n } n 0 0
    | _ => st)

/-! ## TABLE (R343) -/

/-- The shadow copies: where each begins, and its length. -/
def shadows : List (Nat × Nat) := [(0x100040, 0x20), (0x300000, 0x20000), (0x1200000, 0x200000), (0x1420000, 0x20000)]
/-- The bits of a shadow doubleword that are not reserved (R336, R339, R341). -/
def shadowMask (off : Nat) : Word64 :=
  if off = 0x100040 then 0x000007FFFFFFFFF1
  else if off = 0x100050 then 0xFFFF07FFFFFFFFF1
  else if 0x300000 ≤ off ∧ off < 0x320000 then 0xFFFFFFFFFFFE0000
  else if 0x1200000 ≤ off then 0xFF0003FFFF0003FF
  else 0xFFFFFFFFFFFFFFFF
/-- FAB.SWITCH_CTL with another STATUS. -/
def State.setStatus (s : State) (v : Nat) : State :=
  s.setCsr 0x100088 ((s.csr 0x100088 &&& 0x8FFFFFFFFFFFFFFF) ||| BitVec.ofNat 64 (v * 2 ^ 60))
/-- What every TABLE meets first: PRIV, BUSY. -/
def State.tableGate (s : State) (c : CpCmd) (f : State → State) : State :=
  if !(s.csr 0x50008).getLsbD c.queue then s.cpDone c.id 3 0
  else if (s.csr 0x100088).getLsbD 63 then (s.setStatus 6).cpDone c.id 7 0
  else f s
/-- TABLE_WRITE of command `n`; a KIND of 2 or more gives RANGE. -/
def execTableWrite (n : Nat) (st : State) : Host.Outcome State Fault Refusal :=
  st.cpRun n 7 fun c s =>
    if c.f 0x20 1 = 1 then s
    else if 2 ≤ c.f 0x20 1 then (if (s.csr 0x50008).getLsbD c.queue then s.cpDone n 2 0 else s.cpDone n 3 0)
    else s.tableGate c fun s =>
      let off := c.f 0x28 8
      let src := c.f 0x30 8
      let len := c.f 0x38 4
      let fits := shadows.any fun t => t.1 ≤ off && off + len ≤ t.1 + t.2
      if len % 8 ≠ 0 ∨ off % 8 ≠ 0 ∨ fits = false ∨ 2 ^ 39 < src + len then s.cpDone n 2 0
      else
        let t := (s.touchRead .fill src len)
        ((List.range (len / 8)).foldl (fun (t : State) i =>
          t.setCsr (off + 8 * i) (BitVec.ofNat 64 (s.peekNat (src + 8 * i) 8) &&& shadowMask (off + 8 * i))) t).cpDone n 0 0
/-- A shadow rotation within its ranges, where it will run. -/
def Rot.good (r : Rot) (bulk : Bool) : Bool :=
  !r.en || (1 ≤ r.len && r.len ≤ (if bulk then 1024 else 64) && 32 ≤ r.slot && r.slot ≤ 65536 && 8 ≤ r.guard && r.guard ≤ 2000 &&
    r.guard < r.slot)
/-- A shadow route entry within its ranges. -/
def routeGood (me : Nat) (e : Word64) : Bool :=
  !(routeDup e && (routeMsq2 e = routeMsq e || routeTr e)) && !(routeTr e && routeVia e = me)
/-- Two transmitters of a port that drive one class in a slot (R329). -/
def clashing : List SlotCell → Bool
  | [] => false
  | c :: cs => (cs.any fun d => d.port = c.port && d.cls = c.cls) || clashing cs
/-- The checks of ARM, in order: the status of the completion word and of FAB.SWITCH_CTL. -/
def State.armStatus (s : State) (t : Nat) : Nat × Nat :=
  let b := s.rotAt 0x100040
  let m := s.rotAt 0x100050
  let routes := s.dev.filter fun e => 0x300000 ≤ e.1 ∧ e.1 < 0x320000
  let bad := fun (r : Rot) (base : Nat) (bulk : Bool) =>
    r.en && (List.range r.len).any fun n => clashing ((s.cellsAt base n).filter fun c => m.mask.testBit c.tx = !bulk)
  let a := s.rot true
  let run := a.en && decide (a.base ≤ s.ns)
  if !b.good true || !m.good false || !(routes.all fun e => routeGood s.peer e.2) then (2, 2)
  else if bad b 0x1200000 true || bad m 0x1420000 false then (5, 3)
  else if t < s.ns + 10000 ∨ (run = true ∧ (t - a.base) % (a.len * a.slot) ≠ 0) then (6, 4)
  else (0, 1)
/-- TABLE_ARM of command `n`. -/
def execTableArm (n : Nat) (st : State) : Host.Outcome State Fault Refusal :=
  st.cpRun n 7 fun c s =>
    if c.f 0x20 1 ≠ 1 then s
    else s.tableGate c fun s =>
      let t := c.f 0x28 8
      let (status, code) := s.armStatus t
      let s := (s.setCsr 0x100080 (BitVec.ofNat 64 t)).setStatus code
      (if status = 0 then s.setCsr 0x100088 (s.csr 0x100088 ||| 0x8000000000000000) else s).cpDone n status 0

/-! ## LAUNCH (R57, R59, R379, R380) -/

/-- A field of the operator block. -/
def State.opField (s : State) (a o n : Nat) : Nat := s.peekNat (a + o) n
/-- `[a, a + n)` lies in local HBM. -/
def fitsHbm (a n : Nat) : Bool := a + n ≤ 2 ^ 39
/-- The extents of an operator block, and their product. -/
def State.opExtents (s : State) (a : Nat) : List Nat := (List.range 6).map fun i => s.opField a (8 + 4 * i) 4
def State.opSteps (s : State) (a : Nat) : Nat := (s.opExtents a).foldl (· * ·) 1
/-- The operator block keeps R379 and R380. -/
def State.opGood (s : State) (a : Nat) : Bool :=
  let f := s.opField a
  let ndim := f 3 1
  let c := f 6 2
  f 2 1 < 4 && 1 ≤ ndim && ndim ≤ 6 && f 5 1 = 0 && 1 ≤ c && c ≤ 4096 &&
    ((s.opExtents a).drop ndim).all (· = 1) && s.opSteps a ≤ 2 ^ 40 &&
    f 0x40 8 % 0x10000 = 0 && fitsHbm (f 0x40 8) 0x2000000 && f 0x48 8 % 0x200000 = 0 && fitsHbm (f 0x48 8) (0x200000 * c) &&
    f 0x50 4 % 4096 = 0 && f 0x54 4 % 4096 = 0 && f 0x50 4 + f 0x54 4 ≤ 0x100000 && f 0x58 8 % 256 = 0 && f 0x60 4 ≤ 0x100000 &&
    fitsHbm (f 0x58 8) (f 0x60 4) && f 0x64 4 = 0 && f 0x78 8 = 0 && f 0xC0 64 = 0 && (s.csr (8 * f 4 1)).getLsbD 0
/-- The next launch number that no incomplete launch holds. DESIGN CHOICE, log entry 23. -/
def State.freeLaunch (s : State) : Nat :=
  (((List.range 65536).map fun i => (s.nextLaunch + i) % 65536).find? fun n => (s.launch? n).isNone).getD 0
/-- The launch of an operator block. -/
def State.opLaunch (s : State) (a num cmd : Nat) : Launch :=
  let f := s.opField a
  { num, code := f 0 2, prio := f 2 1, asid := f 4 1, count := f 6 2, steps := s.opSteps a, arg := BitVec.ofNat 128 (f 0x20 16)
    codeCap := BitVec.ofNat 128 (f 0x30 16), cohorts := f 0x40 8, save := f 0x48 8, swoff := f 0x50 4, swlen := f 0x54 4
    simg := f 0x58 8, silen := f 0x60 4, trapent := BitVec.ofNat 64 (f 0x68 8), probe := f 0x70 8
    swz := (List.range 8).map fun i => BitVec.ofNat 64 (f (0x80 + 8 * i) 8), untaken := s.opSteps a, cmd }
/-- A launch created: its cohorts but cohort 0 start empty (R72), and its tasks with their ranges join the ready list in task order. -/
def State.createLaunch (s : State) (l : Launch) : State :=
  let s := s.zeroHbm (l.cohorts + 512) (512 * 0xFFFF)
  let held := (List.range l.count).map fun i => (⟨i, (l.range i).1, (l.range i).2⟩ : HeldRange)
  let s := { s with launches := s.launches ++ [{ l with held }], nextLaunch := (l.num + 1) % 65536 }
  (List.range l.count).foldl (fun s i =>
    s.enlist { launch := l.num, task := i, prio := l.prio, arrival := s.gt, since := s.gt }) s
/-- LAUNCH of command `n`. -/
def execLaunch (n : Nat) (st : State) : Host.Outcome State Fault Refusal :=
  st.cpRun n 1 fun c s =>
    let a := c.f 0x20 8
    if s.launches.any fun l => l.cmd = n then s
    else if a % 256 ≠ 0 ∨ !fitsHbm a 256 then s.cpDone n 2 0
    else
      let t := s.touchRead .fill a 256
      if anyPsn (s.peekN a 256) then t.cpDone n 8 0x23
      else if !s.opGood a then t.cpDone n 2 0
      else t.createLaunch (s.opLaunch a s.freeLaunch n)

/-! ## LAUNCH_COMPLETE (R380, R381, R426) -/

/-- Every task has ended, and no step is left to take unless the launch is faulted. -/
def Launch.over_ (l : Launch) : Bool := ((List.range l.count).all fun i => l.ended.contains i) && (l.faulted || l.untaken = 0)
/-- Its contexts' stores to the host and to peers are performed: it is drained to system scope (R378, R381). -/
def State.drained (s : State) (l : Launch) : Bool :=
  !(s.reqs.any fun r => r.launch = l.num && r.ans.isNone && (match r.owner with | .posted _ => true | _ => false))
/-- LAUNCH_COMPLETE of a launch. -/
def execLaunchComplete (launch : BitVec 16) (st : State) : Host.Outcome State Fault Refusal :=
  let n := launch.toNat
  .next (match st.launch? n with
    | some l =>
      if !l.over_ || !st.drained l then st
      else
        let dbg := st.csr csrDbgAttach
        let s := { st with
          launches := st.launches.filter fun (m : Launch) => m.num ≠ n
          bars := st.bars.filter fun (b : BarEntry) => b.launch ≠ n
          collSets := st.collSets.filter fun (t : CollSet) => t.launch ≠ n }
        let s := if dbg.getLsbD 63 ∧ dbg.extractLsb' 0 16 = launch then s.setCsr csrDbgAttach (dbg &&& 0x7FFFFFFFFFFFFFFF) else s
        s.cpDone l.cmd (if l.faulted then 8 else 0) (if l.faulted then l.cause.toNat else 0)
    | none => st)

end Sys2Proof.Machine
end

