-- ==== Sys2Proof/Machine/EngineEvents.lean ====
section
/-! DEFINITION. Events of the engines: starts and finishes of commands (R305, R312, R390), the merge buffers (R199, R200), the
tree's batches, slots and walks (R283, R285), triggers (R405), barriers (R401), collectives that wait or fail (R355). -/
namespace Sys2Proof.Machine

/-! ## Starts -/

/-- A queued command of the units that `p` names starts. -/
def State.startIf (s : State) (p : CmdUnit → Bool) (n : Nat) : State :=
  match s.cmd? n with
  | some c => if p c.unit && s.startable c then s.start c else s
  | none => s
/-- TCE_COMMAND_START of command `n`. -/
def execTceCommandStart (n : Nat) (st : State) : Host.Outcome State Fault Refusal :=
  .next (st.startIf (fun u => match u with | .tce _ => true | _ => false) n)
/-- SEND_CHANNEL_START: the channel reads the source of its head command, and queues its flit. -/
def execSendChannelStart (n : Nat) (st : State) : Host.Outcome State Fault Refusal :=
  let s := st.startIf (fun u => match u with | .send _ => true | _ => false) n
  .next (if ((st.cmd? n).map (·.phase)) = some Phase.queued ∧ ((s.cmd? n).map (·.phase)) = some Phase.running then s.work n else s)
/-- STE_COMMAND_START of command `n`. -/
def execSteCommandStart (n : Nat) (st : State) : Host.Outcome State Fault Refusal :=
  .next (st.startIf (fun u => match u with | .ste _ => true | _ => false) n)
/-- AGE_COMMAND_START of command `n`. -/
def execAgeCommandStart (n : Nat) (st : State) : Host.Outcome State Fault Refusal :=
  .next (st.startIf (fun u => match u with | .age => true | _ => false) n)
/-- BANGLE_COLL_START of command `n`. -/
def execBangleCollStart (n : Nat) (st : State) : Host.Outcome State Fault Refusal :=
  .next (st.startIf (fun u => match u with | .coll => true | _ => false) n)

/-! ## Finishes -/

/-- COMMAND_FINISH of command `n`, a nest aside. -/
def execCommandFinish (n : Nat) (st : State) : Host.Outcome State Fault Refusal :=
  .next (match st.cmd? n with
    | some c => if c.unit = CmdUnit.nest then st else st.finish c
    | none => st)
/-- NEST_COMPLETE of command `n` (R196). -/
def execNestComplete (n : Nat) (st : State) : Host.Outcome State Fault Refusal :=
  .next (match st.cmd? n with
    | some c => if c.unit = CmdUnit.nest then st.finish c else st
    | none => st)

/-! ## Merge buffers -/

/-- The request that a slice handles next, of those with or without data. -/
def State.mergeNext (s : State) (slice : Nat) (data : Bool) : Option MergeReq :=
  match s.mergeQ.find? fun r => r.slice = slice ∧ r.refused.isNone with
  | some r => if r.data.isSome = data then some r else none
  | none => none
/-- MERGE_OPEN at a slice. -/
def execMergeOpen (slice : BitVec 6) (st : State) : Host.Outcome State Fault Refusal :=
  .next (match st.mergeNext slice.toNat false with | some r => st.mergeHandle r | none => st)
/-- MERGE_CONTRIBUTE at a slice. -/
def execMergeContribute (slice : BitVec 6) (st : State) : Host.Outcome State Fault Refusal :=
  .next (match st.mergeNext slice.toNat true with | some r => st.mergeHandle r | none => st)
/-- MERGE_CLOSE at a slice: a buffer with its opener and all its contributions is written and freed. -/
def execMergeClose (slice : BitVec 6) (st : State) : Host.Outcome State Fault Refusal :=
  .next (match (st.openIn slice.toNat).find? MergeBuf.full with | some b => st.mergeClose b | none => st)
/-- A refused request of command `n` is due again. -/
def State.mergeDue (s : State) (n : Nat) : Option MergeReq :=
  s.mergeQ.find? fun r => decide (r.cmd = n) && (match r.refused with | some t => decide (t + microsecond ≤ s.gt) | none => false)
/-- MERGE_RESEND: the MXE sends a refused request of command `n` again. -/
def execMergeResend (n : Nat) (st : State) : Host.Outcome State Fault Refusal :=
  .next (match st.mergeDue n with
    | some r => { st with mergeQ := st.mergeQ.filter (fun q => q ≠ r) ++ [{ r with refused := none }] }
    | none => st)

/-! ## The search tree -/

/-- RESERVE_SLOT: a TRSEL that waits for a slot tries again. -/
def execReserveSlot (n : Nat) (st : State) : Host.Outcome State Fault Refusal :=
  .next (match st.cmd? n with
    | some c =>
      match c.op with
      | .trsel _ =>
        if c.phase = Phase.waiting ∧ c.pos = 0 then
          (st.modCmd n fun d => { d with phase := .running }).treeWork { c with phase := .running }
        else st
      | _ => st
    | none => st)
/-- The batch of a waiting TRSEL is due. -/
def State.batchDue (s : State) (c : Cmd) : Bool := c.phase = .waiting && c.pos = 5 && decide (c.run.due ≤ s.gt / 2 ^ 16)
/-- The close of the open batch at its timeout. -/
def timeoutBatch (c : Cmd) : M Unit := do
  let d ← readDesc c .atomic
  putDesc c dBCount 4 0
  putDesc c dBatchNo 4 (fieldOf d dBatchNo 4 + 1)
  change fun s => s.closeBatch c.poolPa none
/-- BATCH_TIMEOUT, named by a member `n` of the batch. A descriptor that cannot be read or written fails the tokens. -/
def execBatchTimeout (n : Nat) (st : State) : Host.Outcome State Fault Refusal :=
  .next (match st.cmd? n with
    | some c =>
      if st.batchDue c then
        match timeoutBatch c st with
        | .ok (_, s) => s
        | .error (.wait s) => s
        | .error (.raise t) => st.closeBatch c.poolPa (some t)
        | .error _ => st
      else st
    | none => st)
/-- END_OF_WALK of walk `n`. -/
def execEndOfWalk (n : Nat) (st : State) : Host.Outcome State Fault Refusal :=
  .next (match st.cmd? n with
    | some c =>
      match c.op with
      | .trwalk => if c.run.walk.isEmpty then st.walkEnd c else st
      | _ => st
    | none => st)

/-! ## TRIGGER_FIRE (R405) -/

/-- The write of a fired trigger: translated again, checked, performed as a release at device scope. -/
def triggerWrite (t : Trigger) : M Unit := do
  let need := if t.add then Need.atomic else Need.write
  let r ← fun s => let (s', r) := s.spread t.core t.asid t.va.toNat 8; .ok (r, s')
  let wrong ← reads fun s => !r.absent.isEmpty || r.bad.isSome || (s.refusal r.ps need false).isSome || r.ps.any fun p => s.target p.pa ≠ .mem
  match r.ps with
  | p :: _ =>
    if wrong then change fun s => s.addPerf t.core 0x147 1
    else
      cowGate .device t.asid [p] fun _ => hold
      if t.add then
        change fun s => (s.rmwLocal none (allocOf p.leaf false) (p.pa % 2 ^ 50) 8 2 t.value.toNat 0).1
      else change fun s => s.storeLocal none (allocOf p.leaf false) (p.pa % 2 ^ 50) 8 (byteAt (toBytes 8 t.value.toNat false))
  | [] => change fun s => s.addPerf t.core 0x147 1
/-- TRIGGER_FIRE: the first write of the fired triggers. -/
def execTriggerFire (st : State) : Host.Outcome State Fault Refusal :=
  .next (match st.fired with
    | [] => st
    | t :: ts =>
      match triggerWrite t st with
      | .ok (_, s) => { s with fired := ts }
      | .error (.wait s) => s
      | .error _ => st)

/-! ## BARRIER_SUBTRACT (R401) -/

/-- BARRIER_SUBTRACT: the bytes of a registered command leave PENDING, and the phase is checked. -/
def execBarrierSubtract (st : State) : Host.Outcome State Fault Refusal :=
  .next (match st.subs with
    | [] => st
    | (o, n, failed) :: rest => State.barSubtract { st with subs := rest } o n failed)

/-! ## COLL_TIMEOUT, HOLD_TIMER (R355) -/

/-- COLL_TIMEOUT of a collective or an AGE command `n`. -/
def execCollTimeout (n : Nat) (st : State) : Host.Outcome State Fault Refusal :=
  .next (match st.cmd? n with
    | some c =>
      match c.op with
      | .coll d => if st.collLate c then st.stopCmd n (some (collTrap 0x43 d.cohort)) else st
      | _ => if c.unit = CmdUnit.age ∧ st.ageLate c = true then st.ageBreak c { cause := 0x43 } true else st
    | none => st)
/-- This device has begun the collective of an id, or the AGE command of one (R368). -/
def State.begun_ (s : State) (id : Nat) : Bool :=
  if id < 2 ^ 63 then (s.collFor id).isSome else decide (id - 2 ^ 63 ≤ (s.csr csrAgeSeq).toNat)
/-- The HOLD flits that are due, by collective id and peer: a member that has not issued what a peer has begun, or whose link is
fenced while its ring's step goes on, sends one every microsecond (R355, R372). DEDUCED, log entry 25. -/
def State.holds (s : State) : List (Nat × Nat) :=
  let due := fun x : Nat × Nat => !(s.notes.any fun n => n.id = x.1 && n.src = x.2 && decide (s.gt < n.heldAt + microsecond))
  let late := (s.notes.filter fun n => n.digest.isSome && !s.begun_ n.id).map fun n => (n.id, n.src)
  let fenced := if !s.syncLost then [] else s.cmds.flatMap fun c => match c.op with
    | .coll d => if c.phase = .running then (d.ring c.coll_.step).map fun r => (d.id d.rank r, d.deviceOf r) else []
    | _ => []
  (late ++ fenced).filter fun x => due x && s.roomFor x.2 false 0
/-- HOLD_TIMER: a HOLD flit to the peer `src` for collective `n`. -/
def execHoldTimer (n : Nat) (src : BitVec 14) (st : State) : Host.Outcome State Fault Refusal :=
  .next (if st.holds.contains (n, src.toNat) then
      let s := st.note n src.toNat none false
      State.sendRec { s with notes := s.notes.map fun m => if m.id = n ∧ m.src = src.toNat then { m with heldAt := s.gt } else m }
        src.toNat false { rtype := 0x0C, aux := 3, data := n } []
    else st)

end Sys2Proof.Machine
end

