-- ==== Sys2Proof/Machine/FaultEvents.lean ====
section
/-! DEFINITION. Asynchronous records (R421), page requests and answers (R423, R424), FLT.KILL (R426, R427) and the debugger
(R429 to R431). -/
namespace Sys2Proof.Machine

/-! ## ASYNC_FAULT_DELIVERY (R421) -/

/-- A record may be delivered: the context is active and ready, in mode NORMAL, between bundles and not halted. -/
def State.recordDue (s : State) (k : Nat) : Bool :=
  let c := s.ctx k
  c.ready && s.isActive k && decide (c.regs.mode = 0) && c.issue.todo.isEmpty && decide (c.halt = 0) && !c.placing && !c.pend.isEmpty
/-- ASYNC_FAULT_DELIVERY: the oldest record of a context. -/
def execAsyncFaultDelivery (ctx : BitVec 12) (st : State) : Host.Outcome State Fault Refusal :=
  let k := ctx.toNat
  .next (match (st.ctx k).pend with
    | r :: rest =>
      if st.recordDue k then
        (st.modCtx k fun c => { c with pend := rest }).takeException k
          { trap := { cause := r.cause, addr := r.addr, info := r.info }, seq := 5, async := some r }
      else st
    | [] => st)

/-! ## PF_REQUEST_WRITE, PF_ANSWER (R423, R424) -/

def csrPfBase : Nat := 0x80008
def csrPfHead : Nat := 0x80020
def csrPfStale : Nat := 0x80030
/-- 2^LOG2SIZE of the ring. -/
def State.pfSize (s : State) : Nat :=
  let l := (s.csr csrPfCtl).toNat % 32
  2 ^ (if 6 ≤ l ∧ l ≤ 16 then l else 6)
/-- The ring has room, and no record is on its way to it. -/
def State.pfRoom (s : State) : Bool :=
  !(s.reqs.any fun r => r.owner = Owner.device && r.ix ≠ sigMark && r.ix % 2 = 1) && decide (((s.csr csrPfTail).toNat + 2 ^ 32 - (s.csr csrPfHead).toNat % 2 ^ 32) % 2 ^ 32 < s.pfSize)
/-- The code of a kind of access. -/
def AccessKind.code : AccessKind → Nat
  | .read => 0 | .write => 1 | .fetch => 2 | .atomic => 3
/-- The record of a request. -/
def pfRecord (q : PfReq) (ctx gen asid launch : Nat) : List (Val 8) :=
  toBytes 8 q.va.toNat false ++ toBytes 2 ctx false ++ toBytes 2 gen false ++ toBytes 1 asid false ++
    toBytes 1 q.kind.code false ++ toBytes 2 launch false ++ toBytes 16 0 false
/-- A record posted at the ring's tail; TAIL and IVEC follow it. DEDUCED, log entry 20; DEDUCED, log entry 44. -/
def State.postPage (s : State) (r : List (Val 8)) : State :=
  let n := (s.csr csrPfTail).toNat % 2 ^ 32
  let a := (s.csr csrPfBase).toNat / 4096 * 4096 + 32 * (n % s.pfSize)
  let vec := (s.csr csrPfCtl).toNat / 256 % 256
  s.addReq { owner := .device, ix := 2 * vec + 1, addr := a, act := .write r, scope := 6 }
/-- The first request that is not in the ring and not answered. -/
def unsent (pf : List PfReq) : Option PfReq := pf.find? fun q => !q.sent && q.answer.isNone
/-- It is in the ring now. -/
def markSent : List PfReq → List PfReq
  | [] => []
  | q :: qs => if !q.sent && q.answer.isNone then { q with sent := true } :: qs else q :: markSent qs
/-- The saved context that was blocked in bank `k` and has such a request. -/
def State.savedUnsent (s : State) (k : Nat) : Option (Ready × Saved × PfReq) :=
  (s.ready ++ s.saving.map (·.entry)).findSome? fun e =>
    e.saved.bind fun v => if v.ctx = k then (unsent v.pf).map fun q => (e, v, q) else none
/-- PF_REQUEST_WRITE: the next request of bank `ctx`, or of a context saved from it, goes to the host ring. -/
def execPfRequestWrite (ctx : BitVec 12) (st : State) : Host.Outcome State Fault Refusal :=
  let k := ctx.toNat
  let c := st.ctx k
  .next (if !(st.csr csrPfCtl).getLsbD 63 || !st.pfRoom then st
    else match unsent c.pf, st.savedUnsent k with
      | some q, _ =>
        (st.modCtx k fun c => { c with pf := markSent c.pf }).postPage
          (pfRecord q k c.gen.toNat (st.launchOf k).asid c.regs.launch.toNat)
      | none, some (e, v, q) =>
        (st.modSaved v.inc fun v => { v with pf := markSent v.pf }).postPage
          (pfRecord q k v.gen.toNat (((st.launch? e.launch).map (·.asid)).getD 0) e.launch)
      | none, none => st)
/-- The oldest request without an answer gets one. -/
def answerPage (ok : Bool) : List PfReq → List PfReq
  | [] => []
  | q :: qs => if q.answer.isNone then { q with answer := some ok } :: qs else q :: answerPage ok qs
/-- A blocking with a request that has no answer. -/
def openPages (pf : List PfReq) : Bool := pf.any fun q => q.answer.isNone
/-- PF_ANSWER: a write of PF.ANSWER, for a resident or a saved context. -/
def execPfAnswer (v : Word64) (st : State) : Host.Outcome State Fault Refusal :=
  let k := (v.extractLsb' 0 12).toNat
  let gen := v.extractLsb' 48 16
  let ok := v.extractLsb' 40 8 = 0
  let c := st.ctx k
  .next (if c.occ = .resident ∧ c.gen = gen ∧ openPages c.pf = true then
      (st.modCtx k fun c => { c with pf := answerPage ok c.pf }).resumePages k
    else match (st.ready ++ st.saving.map (·.entry)).findSome? fun e =>
        e.saved.bind fun v => if v.ctx = k ∧ v.gen = gen ∧ openPages v.pf = true then some v.inc else none with
      | some inc => st.modSaved inc fun v => { v with pf := answerPage ok v.pf }
      | none => st.bump csrPfStale)

/-! ## FLT_KILL (R426, R427) -/

/-- A saved context terminated: its slot gets KIND 2 and the counts of what is dropped, and its steps return. -/
def State.killSaved (s : State) (e : Ready) (v : Saved) : State :=
  match s.launch? e.launch with
  | none => s
  | some l =>
    let (r, _, _) := s.readSlot (l.slot e.task) v.forced
    let h := (l.held.find? fun h => h.task = e.task).getD ⟨e.task, 0, 0⟩
    let s := { s with
      ready := s.ready.filter fun (f : Ready) => !(f.launch = e.launch && f.task = e.task)
      saving := s.saving.filter fun (w : Saving) => !(w.entry.launch = e.launch && w.entry.task = e.task) }
    let s := s.modLaunch l.num fun l => { l with held := l.held.erase h }
    let s := s.endSaved l e v 2
    let l := (s.launch? l.num).getD l
    s.giveBack l e.task r.openStep r.step.toNat h.lo h.hi (s.othersOf l.num 4096 e.task)
/-- The resident contexts of a launch. -/
def State.residents (s : State) (launch : Nat) : List Nat :=
  (s.ctxs.filter fun e => e.2.occ = Occupancy.resident ∧ e.2.regs.launch.toNat = launch).map (·.1)
/-- Banks whose save was in progress and is gone are empty. -/
def State.sweepSaving (s : State) : State :=
  { s with ctxs := s.ctxs.map fun e =>
      if e.2.occ = Occupancy.saving ∧ !(s.saving.any fun v => v.ctx = e.1) then
        (e.1, { e.2 with occ := Occupancy.none, regs := { a := e.2.regs.a } })
      else e }
/-- FLT_KILL: a task, placed or saved, or the whole launch, which is then faulted. DEDUCED, log entry 45. -/
def execFltKill (v : Word64) (st : State) : Host.Outcome State Fault Refusal :=
  let n := (v.extractLsb' 32 16).toNat
  let t := (v.extractLsb' 0 12).toNat
  .next (if (st.launch? n).isNone then st
    else if v.getLsbD 63 then (st.residents n).foldl (fun s k => s.terminate k (some 0)) (st.faultLaunch n 0)
    else match (st.residents n).find? fun k => (st.ctx k).regs.task.toNat = t with
      | some k => st.terminate k none
      | none =>
        match (st.ready ++ st.saving.map (·.entry)).find? fun e => e.launch = n && e.task = t && e.saved.isSome with
        | some e => (match e.saved with | some x => st.killSaved e x | none => st).sweepSaving
        | none => st)

/-! ## The debugger (R429 to R431) -/

def csrDbgSel : Nat := 0x80048
def csrDbgReg : Nat := 0x80058
def csrDbgData : Nat := 0x80060
/-- DBG_ATTACH. It has no effect when it names a launch that no incomplete launch holds (R380). -/
def execDbgAttach (v : Word64) (st : State) : Host.Outcome State Fault Refusal :=
  let v := v &&& 0x800000000000FFFF
  .next (if v.getLsbD 63 ∧ (st.launch? (v.toNat % 2 ^ 16)).isNone then st else st.setCsr csrDbgAttach v)
/-- The context that DBG.ATTACH and DBG.SEL name. -/
def State.debugged (s : State) : Option Nat :=
  let a := s.csr csrDbgAttach
  if a.getLsbD 63 then
    (s.residents (a.toNat % 2 ^ 16)).find? fun k => (s.ctx k).regs.task.toNat = (s.csr csrDbgSel).toNat % 2 ^ 12
  else none
/-- The bit of a unit in HALT and STOPPED. -/
def unitBit : ExecUnit → Nat
  | .s => 0 | .vl => 1 | .va => 2 | .vs => 3 | .mx => 4
/-- A request comes from a slot of the unit with raiser code `u`. -/
def Owner.unit (o : Owner) (k u : Nat) : Bool := match o with | .slot j n => j = k && n / 8 = u | _ => false
/-- A unit has begun a slot that waits for an answer of the host or a peer. -/
def State.begun (s : State) (k : Nat) (u : ExecUnit) : Bool := s.reqs.any fun r => r.owner.unit k (seqOf u)
/-- A unit that is halted and has reached a bundle boundary: a queue applies its slots of a bundle together (R418); the S sequencer, unless
it waits, has the rest of its bundle before it. -/
def State.stopped (s : State) (k : Nat) (u : ExecUnit) : Bool :=
  let c := s.ctx k
  c.halt.getLsbD (unitBit u) && !s.begun k u &&
    (u ≠ .s || (!c.stepOne && (c.waits.contains .s || !c.issue.has .s)))
/-- Every sequencer is stopped. -/
def State.allStopped (s : State) (k : Nat) : Bool := [ExecUnit.s, .vl, .va, .vs, .mx].all (s.stopped k)
/-- HALT written: an interrupted full/empty wait starts over (R430). -/
def Ctx.halted (c : Ctx) (h : BitVec 5) : Ctx := { c with halt := h, stepOne := false, tagWait := if h.getLsbD 0 then none else c.tagWait }
/-- DBG_HALT: a write of DBG.HALT that neither steps nor releases a BREAK. -/
def execDbgHalt (v : Word64) (st : State) : Host.Outcome State Fault Refusal :=
  let h := v.extractLsb' 0 5
  .next (match st.debugged with
    | some k => if v.getLsbD 16 ∨ (h = 0 ∧ (st.ctx k).brk = true) then st else st.modCtx k fun c => c.halted h
    | none => st)
/-- A stop at a BREAK released: TRAPRET of its frame (R431). -/
def State.releaseBreak (s : State) (k : Nat) : State :=
  (s.modCtx k fun c => { c.halted 0 with brk := false }).returnFromException k
/-- DBG_RELEASE: HALT = 0 while BRK is set. -/
def execDbgRelease (v : Word64) (st : State) : Host.Outcome State Fault Refusal :=
  .next (match st.debugged with
    | some k => if !v.getLsbD 16 ∧ v.extractLsb' 0 5 = 0 ∧ (st.ctx k).brk = true then st.releaseBreak k else st
    | none => st)
/-- DBG_STEP: the S sequencer issues one bundle and halts; the other sequencers follow HALT. -/
def execDbgStep (v : Word64) (st : State) : Host.Outcome State Fault Refusal :=
  let h := v.extractLsb' 0 5
  .next (if !v.getLsbD 16 then st
    else match st.debugged with
      | some k =>
        let s := if h = 0 ∧ (st.ctx k).brk = true then st.releaseBreak k else st
        s.modCtx k fun c => { c.halted (h ||| 1) with stepOne := true }
      | none => st)

/-! ### Registers (R429, R430) -/

/-- The value of a register's 64-bit word, none where there is none. -/
def State.debugRead (s : State) (k kind num word : Nat) : Option Word64 :=
  let c := s.ctx k
  let r := c.regs
  let one := fun v : Word64 => if word = 0 then some v else none
  match kind with
  | 0 => if num < 64 then one (r.rx num).v else none
  | 1 => if num < 96 then one ((r.rp num).v.setWidth 64) else none
  | 2 => if num < 64 ∧ word < 32 then some ((r.rv num (2 * word + 1)).v ++ (r.rv num (2 * word)).v) else none
  | 3 => if num < 16 ∧ word < 2 then some ((r.rc num).bits.extractLsb' (64 * word) 64) else none
  | 4 => if num < 32 then one ((r.rt num).v.setWidth 64) else none
  | 5 => if num < 8 then
      let f := r.rf num
      one (BitVec.ofNat 64 (f.valid.toNat * 2 ^ 63 + f.peer.toNat * 2 ^ 16 + f.endp.toNat)) else none
  | 6 => if num < 4 then one ((r.loopCount num).setWidth 64) else none
  | 7 => if num < 0x100 then one (c.csr k num) else if num < 0x180 then one (s.coreCsr (k / 2) num) else none
  | 8 => if num < 512 ∧ word < 64 then
      some ((r.ra (num / 128) (num % 128) (2 * word + 1)).v ++ (r.ra (num / 128) (num % 128) (2 * word)).v) else none
  | 9 => if num < 16 then one (r.mask.getD num 0) else none
  | _ => none
/-- Two 32-bit elements of a table from the halves of a word, clean. -/
def putPair (m : Sparse (Val 32)) (i : Nat) (d : Word64) : Sparse (Val 32) :=
  (m.put i ⟨d.extractLsb' 0 32, false⟩).put (i + 1) ⟨d.extractLsb' 32 32, false⟩
/-- Registers with a word written: its poison is cleared, and a c register's tag. -/
def Regs.debugWrite (r : Regs) (kind num word : Nat) (d : Word64) : Regs :=
  match kind with
  | 0 => r.wx num ⟨d, false⟩
  | 1 => r.wp num (d.getLsbD 0)
  | 2 => { r with v := putPair r.v (64 * num + 2 * word) d }
  | 3 =>
    let b := (r.rc num).bits
    r.wc num { bits := if word = 0 then b.extractLsb' 64 64 ++ d else d ++ b.extractLsb' 0 64 }
  | 4 => r.wt num ⟨d.setWidth 32, false⟩
  | 5 => r.wf num { valid := d.getLsbD 63, peer := d.extractLsb' 16 14, endp := d.extractLsb' 0 8 }
  | 6 => { r with lc := r.lc.set num (d.setWidth 32) }
  | 8 => { r with a := putPair r.a (16384 * (num / 128) + 128 * (num % 128) + 2 * word) d }
  | 9 => { r with mask := r.mask.set num d }
  | _ => r
/-- A write that the spec refuses: a read-only CSR; a mask stack entry above the depth. -/
def Ctx.debugRefused (c : Ctx) (kind num : Nat) : Bool :=
  (kind = 7 && csrReadOnly num) || (kind = 9 && c.regs.mask.length ≤ num)
/-- A register written. Vector, accumulator and mask registers are what slots that still wait will read. DEDUCED, log entry 35. -/
def State.debugWrite (s : State) (k kind num word : Nat) (d : Word64) : State :=
  if kind = 7 then
    if num < 0x100 then s.modCtx k fun c => c.writeCsr num d else s.modCore (k / 2) fun c => c.writeCsr num d
  else s.modCtx k fun c =>
    let i := fun b : Issue => if kind = 2 ∨ kind = 8 ∨ kind = 9 then { b with old := b.old.debugWrite kind num word d } else b
    { c with regs := c.regs.debugWrite kind num word d, issue := i c.issue, older := c.older.map i }
/-- DBG.REG after an access: its RW fields, and ERR. -/
def dbgReg (v : Word64) (err : Bool) : Word64 := (v &&& 0x0000000F000FFFFF) ||| (if err then 0x4000000000000000 else 0)
/-- An access through DBG.REG. -/
def State.debugAccess (s : State) (v : Word64) : Option (Nat × Nat × Nat × Nat) :=
  let kind := (v.extractLsb' 32 4).toNat
  let num := (v.extractLsb' 8 12).toNat
  let word := (v.extractLsb' 0 8).toNat
  s.debugged.bind fun k => if s.allStopped k && (s.debugRead k kind num word).isSome then some (k, kind, num, word) else none
/-- DBG_REG_READ: a write of DBG.REG with WR = 0. -/
def execDbgRegRead (v : Word64) (st : State) : Host.Outcome State Fault Refusal :=
  .next (if v.getLsbD 63 then st
    else match st.debugAccess v with
      | some (k, kind, num, word) => (st.setCsr csrDbgReg (dbgReg v false)).setCsr csrDbgData ((st.debugRead k kind num word).getD 0)
      | none => st.setCsr csrDbgReg (dbgReg v true))
/-- DBG_REG_WRITE: a write of DBG.REG with WR = 1. -/
def execDbgRegWrite (v : Word64) (st : State) : Host.Outcome State Fault Refusal :=
  .next (if !v.getLsbD 63 then st
    else match st.debugAccess v with
      | some (k, kind, num, word) =>
        if (st.ctx k).debugRefused kind num then st.setCsr csrDbgReg (dbgReg v true)
        else (st.debugWrite k kind num word (st.csr csrDbgData)).setCsr csrDbgReg (dbgReg v false)
      | none => st.setCsr csrDbgReg (dbgReg v true))

end Sys2Proof.Machine
end

