-- ==== Sys2Proof/Machine/HostEvents.lean ====
section
/-! DEFINITION. Boot and recovery (R437, R438), the attestation report (R439), clocks and power (R25, R440 to R443), writes of
device registers (R6) and completions of the host link (R434). -/
namespace Sys2Proof.Machine

/-! ## Boot (R436, R437) -/

def csrBootStatus : Nat := 0x90200
def csrBootPeer : Nat := 0x90208
/-- BOOT.STATUS with a STATE and an ERR. -/
def State.boot (s : State) (stage err : Nat) : State := s.setCsr csrBootStatus (BitVec.ofNat 64 (stage + 256 * err))
/-- BOOT.STATUS.STATE. -/
def State.bootStage (s : State) : Nat := (s.csr csrBootStatus).toNat % 8
/-- The device state is lost. The flash keeps its image. -/
def State.lose (s : State) : State := { agenda := s.agenda, free := s.free, flash := s.flash }
/-- VERIFY, from a cold reset: the boot ROM checks the image; a good one leads to WAIT_CFG, any other to RECOVERY with ERR,
whose value is a free choice between the two that R437 gives. -/
def State.verify (s : State) : State :=
  let s := s.lose
  if s.flash then s.boot 2 0
  else
    let (e, s) := s.draw Config.choice
    s.boot 5 (1 + e % 2)
/-- COLD_RESET. -/
def execColdReset (st : State) : Host.Outcome State Fault Refusal := .next st.verify
/-- BOOT_PEER_WRITE: in WAIT_CFG it leads to INIT. -/
def execBootPeerWrite (v : Word64) (st : State) : Host.Outcome State Fault Refusal :=
  let s := st.setCsr csrBootPeer (v &&& 0x3FFF)
  .next (if st.bootStage = 2 then s.boot 3 0 else s)
/-- The fields of a step-table entry (R441). -/
def stepMask : Word64 := 0x80000007FFFFFFFF
/-- Firmware writes the step table. Its entries are not stated: free values. DESIGN CHOICE, log entry 19. -/
def State.loadSteps (s : State) : State :=
  (List.range 8).foldl (fun s k =>
    let (v, s) := s.draw Config.number
    s.setCsr (0xA0000 + 8 * k) (BitVec.ofNat 64 v &&& stepMask)) s
/-- INIT_COMPLETE: every word of SRAM and HBM is written (R203), CORE.ID.PEER and the step table; the device is READY. -/
def execInitComplete (st : State) : Host.Outcome State Fault Refusal :=
  .next (if st.bootStage = 3 then
      ({ st with mem := [], psn := [], tagF := [], tagC := [], llc := [], peer := (st.csr csrBootPeer).toNat % 2 ^ 14 }.loadSteps).boot 4 0
    else st)

/-! ## Recovery (R438), loss of power, thermal trip (R440) -/

/-- RECOVERY_GO: a write of 1 to RECOV.GO in READY or RECOVERY. DEDUCED, log entry 17. -/
def execRecoveryGo (v : Word64) (st : State) : Host.Outcome State Fault Refusal :=
  .next (if v.getLsbD 0 ∧ (st.bootStage = 4 ∨ st.bootStage = 5) then { st.boot 5 0 with updating := true } else st)
/-- FLASH_UPDATE_COMPLETE: the boot ROM's verdict on the new image, 0 good, 1 a bad magic or length, 2 or 3 a bad signature. A good
image replaces the one in flash and the device restarts at VERIFY. -/
def execFlashUpdateComplete (result : BitVec 2) (st : State) : Host.Outcome State Fault Refusal :=
  .next (if !st.updating then st
    else if result = 0 then { st with flash := true }.verify
    else { st.boot 5 (min result.toNat 2) with updating := false })
/-- POWER_LOSS. During the flash write it leaves no valid image; whether the write of an update has begun is a free choice. -/
def execPowerLoss (st : State) : Host.Outcome State Fault Refusal :=
  let (w, s) := st.draw Config.choice
  .next (if st.updating then { s.lose with flash := st.flash && decide (w % 2 = 0) } else st.lose)
/-- THERMAL_TRIP. -/
def execThermalTrip (st : State) : Host.Outcome State Fault Refusal := .next (st.lose.boot 6 0)

/-! ## SIG_CMD (R439) -/

/-- SIG_CMD: a write of 1 to SIG.CMD makes the MC write 256 bytes of report and up to 1,024 of certificate at SIG.DST. How the
report lies in its bytes is not stated, and digests and signatures are the MC's: free values. DEDUCED, log entry 20. -/
def execSigCmd (v : Word64) (st : State) : Host.Outcome State Fault Refusal :=
  .next (if v.getLsbD 0 ∧ st.csr csrSigCmd = 0 ∧ st.booted = true then
      let (n, s) := st.draw Config.choice
      let (k, s) := s.draw id
      let bs : List (Val 8) := (List.range (256 + n % 1025)).map fun i => ⟨Config.byte k i, false⟩
      (s.addReq { owner := .device, ix := sigMark, addr := (st.csr 0x90320).toNat / 4096 * 4096, act := .write bs, scope := 6 }).setCsr
        csrSigCmd 1
    else st)

/-! ## Clocks (R441, R442) -/

/-- An entry of the step table in use. -/
def stepGood (e : Word64) : Bool :=
  let f := (e.extractLsb' 16 16).toNat
  let v := (e.extractLsb' 0 16).toNat
  e.getLsbD 63 && decide (350 ≤ f ∧ f ≤ 1050 ∧ f % 25 = 0 ∧ 450 ≤ v ∧ v ≤ 650)
def State.stepEntry (s : State) (k : Nat) : Word64 := s.csr (0xA0000 + 8 * k)
/-- CLK.COLc.CUR. -/
def State.curStep (s : State) (col : Nat) : Nat := (s.csr (0xA0100 + 8 * col)).toNat % 8
def State.setStep (s : State) (col k : Nat) : State := s.setCsr (0xA0100 + 8 * col) (BitVec.ofNat 64 (k % 8))
/-- MARGIN_WARNING: the column moves to the ONWARN step of its current step. -/
def execMarginWarning (col : BitVec 4) (st : State) : Host.Outcome State Fault Refusal :=
  let e := st.stepEntry (st.curStep col.toNat)
  .next (if stepGood e then st.setStep col.toNat (e.extractLsb' 32 3).toNat else st)

/-! ## Power (R25, R440, R443) -/

def colReg (col : Nat) : Nat := 0xA0300 + 8 * col
/-- PWR.COLc.DUTY in sixteenths. -/
def State.duty (s : State) (col : Nat) : Nat := ((s.csr (colReg col)).extractLsb' 40 5).toNat
def State.setDuty (s : State) (col d : Nat) : State :=
  s.setCsr (colReg col) ((s.csr (colReg col) &&& 0xFFFFE0FFFFFFFFFF) ||| (BitVec.ofNat 64 d <<< 40))
/-- A record joins PWR.EVENT: CODE 1 THERMAL_CAP, 2 POWER_CAP. -/
def State.powerEvent (s : State) (code col : Nat) : State :=
  let w := BitVec.ofNat 64 (code * 2 ^ 56 + col * 2 ^ 48 + s.ns % 2 ^ 43)
  if s.pwrEvents.length < 16 then { s with pwrEvents := s.pwrEvents ++ [w] }.raiseFor s.pwrEvents.isEmpty 17 8
  else { s with pwrOvf := true }
/-- The demand of a column in W. -/
def demandOf (draw duty : Nat) : Nat := min 4095 ((draw * 16 + duty - 1) / duty)
/-- What is left of the budget shared equally, and repeatedly, in whole watts among columns that still demand more. DESIGN
CHOICE, log entry 19. -/
def shareOut : Nat → Nat → List (Nat × Nat) → List (Nat × Nat)
  | 0, _, gs => gs
  | n + 1, left, gs =>
    let k := (gs.filter fun g => g.2 < g.1).length
    if k = 0 ∨ left < k then gs
    else
      let gs' := gs.map fun g => (g.1, min g.1 (g.2 + left / k))
      shareOut n (left - ((gs'.map (·.2)).sum - (gs.map (·.2)).sum)) gs'
/-- The grants for the demands of the columns. -/
def grantsOf (budget : Nat) (demands : List Nat) : List Nat :=
  let gs := demands.map fun d => (d, min d (budget / 16))
  (shareOut 17 (budget - (gs.map (·.2)).sum) gs).map (·.2)
/-- One cap action: the duty first, and at its floor the next step below. -/
def State.capColumn (s : State) (col : Nat) : State :=
  if 4 < s.duty col then s.setDuty col (s.duty col - 1)
  else match ((List.range (s.curStep col)).reverse).find? fun k => stepGood (s.stepEntry k) with
    | some k => s.setStep col k
    | none => s
/-- One release action: the next step above first, then the duty. -/
def State.easeColumn (s : State) (col : Nat) : State :=
  match (List.range 8).find? fun k => decide (s.curStep col < k) && stepGood (s.stepEntry k) with
  | some k => s.setStep col k
  | none => if s.duty col < 16 then s.setDuty col (s.duty col + 1) else s
/-- A column's part of an interval. -/
def State.arbitrate (s : State) (col grant draw temp demand : Nat) : State :=
  let hot := decide ((s.csr 0xA0200).toNat / 2 ^ 16 % 2 ^ 8 < temp)
  let more := decide (grant < draw)
  let n := s.clear.get 0 col
  let s := s.setCsr (colReg col)
    (BitVec.ofNat 64 (grant % 2 ^ 12 + draw % 2 ^ 12 * 2 ^ 16 + temp % 2 ^ 8 * 2 ^ 32 + s.duty col * 2 ^ 40 + demand % 2 ^ 12 * 2 ^ 48))
  if hot || more then
    let s := { s.capColumn col with clear := s.clear.put col 0 }
    let s := if hot then s.powerEvent 1 col else s
    if more then s.powerEvent 2 col else s
  else
    let s := { s with clear := s.clear.put col (n + 1) }
    if 10 ≤ n && !s.clamped then s.easeColumn col else s
/-- The length of an arbiter interval in units of GT. -/
def intervalLength : Nat := 10 * microsecond
/-- An interval of the arbiter has ended. -/
def State.intervalDue (s : State) : Bool := decide (s.arbiterAt + intervalLength ≤ s.gt)
/-- ARBITER_INTERVAL, with what the sensors measured: draws in W, temperatures in °C, column 0 in the low bits. -/
def execArbiterInterval (draws : BitVec 192) (temps : BitVec 128) (st : State) : Host.Outcome State Fault Refusal :=
  .next (if !st.intervalDue then st
    else
      let draw := fun c : Nat => (draws.extractLsb' (12 * c) 12).toNat
      let temp := fun c : Nat => (temps.extractLsb' (8 * c) 8).toNat
      let demand := fun c : Nat => demandOf (draw c) (st.duty c)
      let gs := grantsOf (min ((st.csr 0xA0200).toNat % 2 ^ 12) 3200) ((List.range 16).map demand)
      (List.range 16).foldl (fun s c => s.arbitrate c (gs.getD c 0) (draw c) (temp c) (demand c))
        { st with arbiterAt := st.gt / intervalLength * intervalLength })
/-- PWR_EVENT_READ: the oldest record leaves the queue, and OVF is cleared. -/
def execPwrEventRead (st : State) : Host.Outcome State Fault Refusal :=
  let w := st.pwrEvents.headD 0 ||| (if st.pwrOvf then 0x8000000000000000 else 0)
  .next { st with readOut := w, pwrEvents := st.pwrEvents.drop 1, pwrOvf := false }
/-- PACKAGE_POWER_CLAMP: every column goes to the duty floor and step 0. -/
def execPackagePowerClamp (st : State) : Host.Outcome State Fault Refusal :=
  .next (if st.clamped then st
    else (List.range 16).foldl (fun s c => ((s.setDuty c 4).setStep c 0).powerEvent 2 c) { st with clamped := true })
/-- PACKAGE_POWER_RELEASE: the arbiter may raise columns again. -/
def execPackagePowerRelease (st : State) : Host.Outcome State Fault Refusal := .next { st with clamped := false }

/-! ## REGISTER_WRITE (R6) -/

/-- The RW bits of the register at an offset; a register with a row of its own has none here. -/
def rwMask (o : Nat) : Word64 :=
  if o % 8 ≠ 0 then 0
  else if o < 0x800 then ~~~0xFE
  else if o = 0x800 then 0x1FF
  else if o = 0x810 then 0x01FFFFFFFFFF0000
  else if o = 0x900 then ~~~0xFFFF
  else if o = 0xA00 then ~~~0xFFE
  else if o = 0xB00 then ~~~0xFFFFFE
  else if o = 0xB08 then 0xFFFFFFFFFFFF
  else if o = 0xB18 then 0xFFFFFFFF
  else if 0x10000 ≤ o ∧ o < 0x11000 then if o % 0x40 < 0x20 then 0xFFFFFFFFFFFF else 0
  else if 0x20000 ≤ o ∧ o < 0x20180 then 0xFFFFFFFFFFFF
  else if 0x40000 ≤ o ∧ o < 0x40800 then
    if o % 0x20 = 0 then ~~~0xFFF else if o % 0x20 = 8 then 0x800000000000031F else if o % 0x20 = 0x18 then 0xFFFFFFFF else 0
  else if o = 0x50000 ∨ o = 0x50008 then ~~~0
  else if o = 0x50010 then ~~~0x7FFFF
  else if 0x50100 ≤ o ∧ o < 0x50180 then 0x1FF
  else if 0x60000 ≤ o ∧ o < 0x70000 then if o % 16 = 0 then 0x3FFFFFFFFFFFF else 0xC00000FFFFFFFFFF
  else if o = 0x80000 then 0x1FFFFFFFFFFFFFF
  else if o = 0x80008 then ~~~0xFFF
  else if o = 0x80010 then 0x800000000000FF1F
  else if o = 0x80020 then 0xFFFFFFFF
  else if o = 0x80030 then 0xFFFFFFFFFFFF
  else if o = csrDbgSel then 0xFFF
  else if o = csrDbgData then ~~~0
  else if 0x90000 ≤ o ∧ o < 0x90100 then if o % 16 = 0 then 0xC07FFFFFFFFFF000 else ~~~0xFFF
  else if o = 0x90100 then 0x3FFFF
  else if o = 0x90210 then ~~~0xFFF
  else if o = 0x90218 then ~~~0
  else if 0x90300 ≤ o ∧ o < 0x90320 then ~~~0
  else if o = 0x90320 then ~~~0xFFF
  else if 0xA0000 ≤ o ∧ o < 0xA0040 then stepMask
  else if o = 0xA0040 then 0xFF
  else if o = 0xA0200 then 0xFF0FFF
  else if o = 0x100090 then ~~~0
  else if o = 0x100098 then 0xFFFFFFFF
  else if o = csrBadFlit then 0xFFFFFFFFFFFF
  else 0
/-- The RW bits that a write reaches now: BASE and LOG2SIZE of a Zhoask queue hold while it is served (R325). -/
def State.writable (s : State) (o : Nat) : Word64 :=
  if 0x40000 ≤ o ∧ o < 0x40800 ∧ (s.csr (o / 0x20 * 0x20 + 8)).getLsbD 63 then
    if o % 0x20 = 0 then 0 else if o % 0x20 = 8 then 0x8000000000000300 else rwMask o
  else rwMask o
/-- The bits of a register that a written 1 clears: OVR of ZQ.CTL. -/
def clearMask (o : Nat) : Word64 := if 0x40000 ≤ o ∧ o < 0x40800 ∧ o % 0x20 = 8 then 0x4000000000000000 else 0
/-- A write reaches the register at an offset (R437). -/
def State.reaches (s : State) (o : Nat) : Bool := s.booted || decide (0x90200 ≤ o ∧ o < 0x90300)
/-- REGISTER_WRITE: RW bits are stored, W1C bits cleared where v has a 1, the others stay. -/
def execRegisterWrite (off : BitVec 32) (v : Word64) (st : State) : Host.Outcome State Fault Refusal :=
  let o := off.toNat
  let m := st.writable o
  .next (if st.reaches o ∧ (m ||| clearMask o) ≠ 0 then
      st.setCsr o (((st.csr o &&& ~~~m) ||| (v &&& m)) &&& ~~~(v &&& clearMask o))
    else st)

/-- What a driver's read of the register at an offset returns (R6): what was last stored there, with the RO fields that the device
keeps elsewhere (R386, R402, R429); a write-only register has nothing stored and reads as 0, and so does every register outside
0x90200 to 0x902FF until READY (R437). A read that changes its register has a row of its own, and leaves its value in `readOut`. -/
def State.readReg (s : State) (o : Nat) : Word64 :=
  if !s.reaches o then 0
  else if o = 0x70000 then BitVec.ofNat 64 s.ns
  else if o = 0x70008 then BitVec.ofNat 64 (s.gt % 2 ^ 16)
  else if o = 0x80050 then
    match s.debugged with
    | some k =>
      let bit := fun u : ExecUnit => (s.stopped k u).toNat * 2 ^ (8 + unitBit u)
      BitVec.ofNat 64 ((s.ctx k).brk.toNat * 2 ^ 63 + ([ExecUnit.s, .vl, .va, .vs, .mx].map bit).sum + (s.ctx k).halt.toNat)
    | none => 0
  else if 0x50100 ≤ o ∧ o < 0x50180 ∧ o % 8 = 0 then s.csr o ||| BitVec.ofNat 64 (s.occupancy ((o - 0x50100) / 8) * 2 ^ 32)
  else s.csr o

/-- What a CXL.mem read of a 64-byte block of HBM returns: the block as its home slice holds it, with poison that reaches the host
(R231, R432); until READY, poisoned data (R437). -/
def State.hostReads (s : State) (block : Nat) : List (Val 8) :=
  (s.peekN (block * 64) 64).map fun b => if s.booted then b else ⟨0, true⟩

/-! ## HOST_LINK_COMPLETION (R434) -/

/-- The number of bytes that answer a request: those read, or an atomic's old value. -/
def Ask.answerBytes : Ask → Nat
  | .read n => n
  | .atomic _ w8 .. => if w8 then 8 else 4
  | _ => 0
/-- A request that the host link carries. -/
def State.hostBound (s : State) (r : Req) : Bool :=
  r.ans.isNone && !s.outbound r && (match r.act with | .read _ => true | .write _ => true | .atomic .. => true | _ => false)
/-- HOST_LINK_COMPLETION of request `n`: with an error status, or with the bytes it asked for. DEDUCED, log entry 44. -/
def execHostLinkCompletion (n : Nat) (err : Bool) (data : List (Val 8)) (st : State) : Host.Outcome State Fault Refusal :=
  .next (match st.reqs.find? fun r => r.tag = n with
    | some r =>
      if !st.hostBound r then st
      else if err then st.answer r (.fail 0x22 0)
      else if data.length = r.act.answerBytes then st.answer r (.data data)
      else st
    | none => st)

/-! ## Which events can happen (R437) -/

/-- An event that can happen before the device is READY: those of boot, recovery and the supply, and the writes of 0x90200 to
0x902FF. -/
def bootEvent : Instr → Bool
  | .coldReset => true
  | .bootPeerWrite _ => true
  | .initComplete => true
  | .recoveryGo _ => true
  | .flashUpdateComplete _ => true
  | .powerLoss => true
  | .thermalTrip => true
  | .registerWrite _ _ => true
  | .hostMemAccess .. => true
  | _ => false
/-- The device takes part in an event: READY, or an event of boot. After a thermal trip only a cold reset or the loss of the supply
counts (R440). -/
def State.admits (s : State) (e : Instr) : Bool :=
  match s.bootStage with
  | 4 => true
  | 6 => (match e with | .coldReset => true | .powerLoss => true | _ => false)
  | _ => bootEvent e

end Sys2Proof.Machine
end

