-- ==== Sys2Proof/Machine/Capability.lean ====
section
/-! DEFINITION. Capabilities and handles (R139 to R145). -/
namespace Sys2Proof.Machine

/-! ## CNARROW (R141) -/

/-- A narrowed capability: the new base and length from the old ones, or CAP_WIDEN. -/
def narrow (d a : BitVec 6) (v : M Word64) (f : Nat → Nat → Nat → Option (Nat × Nat)) (st : State) :
    Host.Outcome State Fault Refusal :=
  slotOut (do
    let c ← cClean a.toNat
    let v ← v
    raiseIf (!c.tag) (.capTag a.toNat)
    match f c.base c.len v.toNat with
    | some (b, n) => setRegs fun r => r.wc d.toNat (Cap.make b n c.perm c.shape true)
    | none => raise (.capWiden a.toNat)) st
/-- The three forms. Bases add modulo 2^64. -/
def narrowOff (b n v : Nat) : Option (Nat × Nat) := if n < v then none else some ((b + v) % 2 ^ 64, n - v)
def narrowLen (b n v : Nat) : Option (Nat × Nat) := if n < v then none else some (b, v)
def narrowBase (b n v : Nat) : Option (Nat × Nat) := if v < b ∨ b + n < v then none else some (v, b + n - v)

def execCnarrowOff (d a b : BitVec 6) (st : State) : Host.Outcome State Fault Refusal :=
  narrow d a (xClean b.toNat) narrowOff st
def execCnarrowLen (d a b : BitVec 6) (st : State) : Host.Outcome State Fault Refusal :=
  narrow d a (xClean b.toNat) narrowLen st
def execCnarrowBase (d a b : BitVec 6) (st : State) : Host.Outcome State Fault Refusal :=
  narrow d a (xClean b.toNat) narrowBase st
def execCnarrowiOff (d a i : BitVec 6) (st : State) : Host.Outcome State Fault Refusal :=
  narrow d a (pure (st.immZ i)) narrowOff st
def execCnarrowiLen (d a i : BitVec 6) (st : State) : Host.Outcome State Fault Refusal :=
  narrow d a (pure (st.immZ i)) narrowLen st
def execCnarrowiBase (d a i : BitVec 6) (st : State) : Host.Outcome State Fault Refusal :=
  narrow d a (pure (st.immZ i)) narrowBase st

/-! ## CPERM, CGET, CSHAPE, CMINT (R142 to R144) -/

/-- CPERM: a permission the source lacks raises CAP_WIDEN; a cleared SH also makes the capability flat. -/
def execCperm (d a : BitVec 6) (m : BitVec 8) (st : State) : Host.Outcome State Fault Refusal :=
  slotOut (do
    let c ← cClean a.toNat
    raiseIf (!c.tag) (.capTag a.toNat)
    raiseIf (m &&& ~~~c.perm ≠ 0) (.capWiden a.toNat)
    setRegs fun r => r.wc d.toNat (Cap.make c.base c.len m (if m &&& permSH = 0 then 0 else c.shape) true)) st

/-- CGET: a field of a capability; poison gives a poisoned result (R119). -/
def cget (d a : BitVec 6) (f : Cap → Word64) (st : State) : Host.Outcome State Fault Refusal :=
  regSlot (fun old r => r.wx d.toNat ⟨f (old.rc a.toNat), (old.rc a.toNat).psn⟩) st
def execCgetBase (d a : BitVec 6) (st : State) : Host.Outcome State Fault Refusal := cget d a (fun c => BitVec.ofNat 64 c.base) st
def execCgetLen (d a : BitVec 6) (st : State) : Host.Outcome State Fault Refusal := cget d a (fun c => BitVec.ofNat 64 c.len) st
def execCgetPerm (d a : BitVec 6) (st : State) : Host.Outcome State Fault Refusal := cget d a (fun c => c.perm.setWidth 64) st
def execCgetShape (d a : BitVec 6) (st : State) : Host.Outcome State Fault Refusal := cget d a (fun c => c.shape.setWidth 64) st
def execCgetTag (d a : BitVec 6) (st : State) : Host.Outcome State Fault Refusal :=
  cget d a (fun c => if c.tag then 1 else 0) st
def execCgetHi (d a : BitVec 6) (st : State) : Host.Outcome State Fault Refusal := cget d a (fun c => c.bits.extractLsb' 64 64) st
def execCgetLo (d a : BitVec 6) (st : State) : Host.Outcome State Fault Refusal := cget d a (fun c => c.bits.extractLsb' 0 64) st

/-- CSHAPE (R143): the header is read from the issuing core's scratchpad. Its CAP_PERM has FF.ADDR 0, its POISON_CONSUMED the register tag 0: DEDUCED,
log entry 55. -/
def execCshape (d a b : BitVec 6) (st : State) : Host.Outcome State Fault Refusal :=
  slotOut (do
    let c ← cClean a.toNat
    let x ← xClean b.toNat
    raiseIf (!c.tag) (.capTag a.toNat)
    if x = 0 then pure ()
    else
      let off := x.toNat * 16
      raiseIf (c.perm &&& permSH = 0) (.capPerm 0 a.toNat)
      raiseIf (0xFFFF < x.toNat) (.shapeInvalid off)
      let h ← reads fun s => s.peekN (scratchAddr (s.cur / 2) off) 2
      raiseIf (anyPsn h) (.poison 0)
      let count := (byteAt h 0).v.toNat
      raiseIf (count = 0 ∨ 9 < count ∨ 17 < (byteAt h 1).v.toNat) (.shapeInvalid off)
      raiseIf (0x100000 < off + 16 * (count + 1)) (.shapeInvalid off)
    setRegs fun r => r.wc d.toNat (Cap.make c.base c.len c.perm (x.setWidth 16) true)) st

/-- CMINT (R144): privileged; in SYSTEM mode only (R412). -/
def execCmint (d a b : BitVec 6) (st : State) : Host.Outcome State Fault Refusal :=
  if st.regs.mode ≠ 2 then .next (st.raise .privViolation)
  else
    slotOut (do
      let x ← xClean a.toNat
      let y ← xClean b.toNat
      let len := y.toNat / 2 ^ 24
      let neg := x.getLsbD 56
      raiseIf (!canonical x.toNat) (.capBounds x d.toNat)
      raiseIf (!neg && 2 ^ 56 < x.toNat + len) (.capBounds (BitVec.ofNat 64 (2 ^ 56)) d.toNat)
      raiseIf (neg && 2 ^ 64 < x.toNat + len) (.capBounds 0 d.toNat)
      setRegs fun r => r.wc d.toNat { bits := x ++ y, tag := true }) st

/-! ## TRANS, HGET, HDROP (R142, R145) -/

/-- TRANS: hD becomes PENDING. The core TLB is read at once; what it gave stands in the handle until the translation
completes (TRANS_COMPLETE). -/
def execTrans (d a : BitVec 6) (st : State) : Host.Outcome State Fault Refusal :=
  slotOut (do
    let x ← xClean a.toNat
    raiseIf (!canonical x.toNat) (.prot x)
    let asid ← ownAsid
    let hit ← reads fun s => (s.tlb (s.cur / 2)).find? fun e => e.maps asid x.toNat
    let size := (hit.map (·.size)).getD 0
    setRegs fun r => r.wh d.toNat
      { st := .pending, page := BitVec.ofNat 64 (x.toNat / pageBytes size * pageBytes size), size
        leaf := (hit.map (·.leaf)).getD 0 }) st

/-- The state code of HGET. -/
def HandleState.code : HandleState → Word64
  | .empty => 0 | .pending => 1 | .valid => 2 | .stale => 3
def execHgetState (d a : BitVec 6) (st : State) : Host.Outcome State Fault Refusal :=
  regSlot (fun old r => r.wx d.toNat ⟨HandleState.code (old.rh a.toNat).st, false⟩) st
def execHgetPage (d a : BitVec 6) (st : State) : Host.Outcome State Fault Refusal :=
  regSlot (fun old r => r.wx d.toNat ⟨(old.rh a.toNat).page, false⟩) st
def execHgetSize (d a : BitVec 6) (st : State) : Host.Outcome State Fault Refusal :=
  regSlot (fun old r => r.wx d.toNat ⟨BitVec.ofNat 64 (old.rh a.toNat).size, false⟩) st
def execHdrop (d : BitVec 6) (st : State) : Host.Outcome State Fault Refusal :=
  regSlot (fun _ r => r.wh d.toNat {}) st

end Sys2Proof.Machine
end

