-- ==== Sys2Proof/Machine/Counters.lean ====
section
/-! DEFINITION. Token waits, WAITC, barriers, triggers and QCTL (R300 to R303, R388 to R406). -/
namespace Sys2Proof.Machine

/-! ## Token waits (R393, R394) -/

/-- An observation that a command has finished acts as an acquire for its writes (R249). -/
def tokenAcquire : M Unit := change fun s => s.dropL1 (s.cur / 2)
/-- TWAIT. DEDUCED, log entry 36. -/
def execTwait (a : BitVec 6) (st : State) : Host.Outcome State Fault Refusal :=
  slotOut (do
    let t ← tClean a.toNat
    if ← reads fun s => !(s.ctx s.cur).satisfied t then waitCycles 0x144
    tokenAcquire) st
/-- TWAIT.CH: every sequence below the NEXT that the bundle read at issue is finished. -/
def execTwaitCh (c : BitVec 6) (st : State) : Host.Outcome State Fault Refusal :=
  slotOut (do
    let x ← reads fun s => (s.ctx s.cur).chan c.toNat
    let n ← reads fun s => (s.ctx s.cur).issue.nexts.get 0 c.toNat
    if !x.passed n then waitCycles 0x144
    tokenAcquire) st

/-- The status word of R394. -/
def statusWord (sat fail ovf : Bool) (cause : BitVec 8) (ch : Nat) (seq : BitVec 26) : Word64 :=
  BitVec.ofBool sat ++ BitVec.ofBool fail ++ BitVec.ofBool ovf ++ (0 : BitVec 5) ++ cause ++ (0 : BitVec 16) ++
    BitVec.ofNat 6 ch ++ seq
/-- TSTAT. -/
def execTstat (d a : BitVec 6) (st : State) : Host.Outcome State Fault Refusal :=
  slotOut (do
    let t ← tClean a.toNat
    let c ← reads fun s => s.ctx s.cur
    let x := c.chan (tokenChan t)
    let hit := x.log.find? fun e => e.1 = tokenSeq t
    let sat := c.satisfied t
    setX d.toNat
      ⟨statusWord sat hit.isSome x.ovf ((hit.map (·.2)).getD 0) (tokenChan t) x.w, false⟩
    if sat then tokenAcquire) st
/-- TSTAT.LOG. -/
def execTstatLog (d c : BitVec 6) (st : State) : Host.Outcome State Fault Refusal :=
  slotOut (do
    let k ← self
    let x ← reads fun s => (s.ctx k).chan c.toNat
    let e := x.log.head?
    setX d.toNat ⟨statusWord e.isSome false x.ovf ((e.map (·.2)).getD 0) c.toNat ((e.map (·.1)).getD 0), false⟩
    change fun s => s.modCtx k fun y => y.setChan c.toNat { x with log := x.log.drop 1, ovf := false }) st

/-! ## WAITC (R395, R396) -/

/-- A request that a context's slot made. -/
def Req.ofCtx (r : Req) (k inc : Nat) : Bool :=
  r.ans.isNone && ((r.owner.ofSlot k && r.owner ≠ fetchOwner k) || r.owner = .posted inc)
/-- Engine commands of a context issued, since it was last restored, and not finished; those that still stand in the MX queue have a
token. -/
def State.engOut (s : State) (k : Nat) : Nat :=
  let c := s.ctx k
  let images := [c.img1, c.img2].flatMap fun i => (i.map fun i => i.older ++ [i.issue]).getD []
  (s.cmds.filter fun d => d.inc = c.inc && c.since.1 ≤ d.id).length +
    (issueToks ((c.flight ++ images).filter fun i => c.since.2 < i.num)).length
/-- A counter of R395. -/
def State.outstanding (s : State) (k kind : Nat) : Nat :=
  let mine := s.reqs.filter fun r => r.ofCtx k (s.ctx k).inc
  let loads := mine.filter fun r => match r.act with | .read _ => true | _ => false
  let queued := fun u : ExecUnit => (((s.ctx k).queued u).filter (·.globalForm)).length
  match kind with
  | 0 => loads.length + queued .vl
  | 1 => (mine.length - loads.length) + queued .vs + (s.parkedOf k).length + (s.ctx k).wc.length
  | 2 => s.engOut k
  | _ => (mine.filter fun r => r.addr / 2 ^ 50 ≠ s.peer).length
/-- WAITC. -/
def execWaitc (a i : BitVec 6) (k : BitVec 2) (st : State) : Host.Outcome State Fault Refusal :=
  slotOut (do
    let x ← xClean a.toNat
    let n := (x + (← reads fun s => s.immZ i)).toNat
    let c ← self
    let count ← reads fun s => s.outstanding c k.toNat
    if k = 1 ∧ n < count ∧ (← reads fun s => !(s.ctx c).wc.isEmpty) then fun s => .error (.wait (s.drainAll c))
    if n < count then hold) st

/-! ## Barriers (R397 to R401) -/

/-- A barrier object of a slot: its device-local address. A write to a COW page waits for the copy of R226. -/
def barAt (a : BitVec 6) : M Nat := do
  let (va, ps) ← capForm a.toNat 0 1024 1024 (permR ||| permW ||| permA) .atomic true
  match ps with
  | p :: _ =>
    raiseIf (← reads fun s => decide (s.target p.pa ≠ .mem ∨ ¬ (region (p.pa % 2 ^ 50) = .sbm ∨
      (region (p.pa % 2 ^ 50) = .hbm ∧ leafMs p.leaf = false)))) (.prot (BitVec.ofNat 64 va))
    cowGate (← reads State.me) (← ownAsid) [p] fun _ => raise { cause := 0x27, addr := BitVec.ofNat 64 va }
    pure (p.pa % 2 ^ 50)
  | [] => raise (.prot (BitVec.ofNat 64 va))
/-- PROT_FAULT of the barrier home. -/
def barRefuse (b : Bool) (o : Nat) : M Unit := raiseIf b (.prot (BitVec.ofNat 64 o))

/-- BARINIT. -/
def execBarinit (a b : BitVec 6) (st : State) : Host.Outcome State Fault Refusal :=
  slotOut (do
    let x ← xClean b.toNat
    let o ← barAt a
    let scope := x.toNat / 2 ^ 16 % 8
    let cohort := x.toNat % 2 ^ 16
    barRefuse (4 < scope) o
    let ini ← reads fun s => s.barFlag o 0
    barRefuse (ini && (← reads fun s => s.phaseInProgress o)) o
    barRefuse (← reads fun s => (s.bar? o).isNone && 1024 ≤ s.bars.length) o
    change fun s =>
      let l := s.launchOf s.cur
      let e : BarEntry := { pa := o, launch := l.num, cohort }
      let s := { s with bars := s.bars.filter (fun e : BarEntry => e.pa ≠ o) ++ [e] }
      let s := s.pokeNat o 4 (cohort + scope * 2 ^ 16 + 2 ^ 24)
      let s := s.pokeNat (o + 16) 8 0
      let s := s.pokeNat (o + 24) 2 l.num
      let s := if ini then s else s.pokeNat (o + 8) 8 0
      (s.readCohort l cohort).setExpect o (s.members l cohort)) st

/-- The launch and membership checks of an arrival. -/
def barMember (o : Nat) : M Unit := do
  let l ← reads fun s => s.launchOf s.cur
  let t ← reads fun s => s.regs.task.toNat
  change fun s => s.readCohort l (s.barCohort o)
  barRefuse (← reads fun s => !s.barFlag o 0 || decide (s.barLaunch o ≠ l.num) || !s.member l (s.barCohort o) t) o
/-- BARARR: a release at the barrier's scope, then the arrival, or a deferred arrival that waits. -/
def execBararr (d a : BitVec 6) (st : State) : Host.Outcome State Fault Refusal :=
  slotOut (do
    let o ← barAt a
    releaseWait (BitVec.ofNat 3 (← reads fun s => s.barScope o))
    barMember o
    let t ← reads fun s => s.regs.task.toNat
    let e ← reads fun s => s.bar? o
    match (e.map (·.phases)).bind fun ps => ps.find? fun p => p.1 = t with
    | some p =>
      setX d.toNat ⟨p.2, false⟩
      change fun s => s.modBar o fun e => { e with phases := e.phases.filter fun q => q.1 ≠ t }
    | none =>
      if ((e.map (·.deferred)).getD []).contains t then waitCycles 0x145
      else if ← reads fun s => s.barExpect o t then
        setX d.toNat ⟨← reads fun s => s.barPhase o, false⟩
        change fun s => (s.arriveBit o t).barCheck o (s.barFuel o)
      else fun s => (waitCycles 0x145 : M Unit) (s.modBar o fun e => { e with deferred := e.deferred ++ [t] })) st

/-- BAREXP: xB bytes registered against the command of tD; where that has finished, behind an older one of its channel, the subtraction
follows at once. -/
def execBarexp (d a b : BitVec 6) (st : State) : Host.Outcome State Fault Refusal :=
  slotOut (do
    let x ← xClean b.toNat
    let t ← tClean d.toNat
    let o ← barAt a
    let c ← reads fun s => s.ctx s.cur
    if c.satisfied t ∨ x = 0 then pure ()
    else
      let p ← reads fun s => s.barPending o
      barRefuse (2 ^ 63 ≤ p + x.toNat) o
      let ch := c.chan (tokenChan t)
      change fun s =>
        let s := s.pokeNat (o + 16) 8 (p + x.toNat)
        if ch.done.contains (tokenSeq t) then { s with subs := s.subs ++ [(o, x.toNat, ch.bad.contains (tokenSeq t))] }
        else { s with regd := s.regd ++ [(o, c.inc, t, x.toNat)] }) st

/-- The number of the phase that BARWAIT and BARTRY compare, and the acquire of an observation. -/
def barSeen (a b : BitVec 6) : M (Nat × Bool) := do
  let x ← xClean b.toNat
  let o ← barAt a
  pure (o, decide (x < (← reads fun s => s.barPhase o)))
/-- BARWAIT. -/
def execBarwait (d a b : BitVec 6) (st : State) : Host.Outcome State Fault Refusal :=
  slotOut (do
    let (o, seen) ← barSeen a b
    if !seen then waitCycles 0x145
    acquireAt (BitVec.ofNat 3 (← reads fun s => s.barScope o))
    setX d.toNat ⟨← reads fun s => BitVec.ofNat 64 ((s.barFlag o 2).toNat * 2 ^ 63 + (s.barPhase o).toNat), false⟩) st
/-- BARTRY. -/
def execBartry (p : BitVec 7) (a b : BitVec 6) (st : State) : Host.Outcome State Fault Refusal :=
  slotOut (do
    let (o, seen) ← barSeen a b
    if seen then acquireAt (BitVec.ofNat 3 (← reads fun s => s.barScope o))
    setRegs fun r => r.wp p.toNat seen) st

/-! ## Triggers (R404 to R406) -/

/-- The trigger ids a placement has armed. -/
def State.armed (s : State) (inc : Nat) : List Nat := (s.trigs.filter fun t => t.inc = inc).map (·.id)
/-- TRIGAT and TRIGCNT: the parameter block, the target, and a free trigger. -/
def trig (isTime : Bool) (d a b : BitVec 6) (st : State) : Host.Outcome State Fault Refusal :=
  slotOut (do
    let k ← self
    let c ← cClean a.toNat
    let x ← xClean b.toNat
    let p ← scratchAt x 32 16
    let blk ← reads fun s => s.peekN p 32
    raiseIf (anyPsn blk) (.poison 0)
    let at_ := fun o n => leNat ((blk.drop o).take n)
    let thr := at_ 0 8
    let src := at_ 0x18 1
    let act := at_ 0x19 1
    raiseIf (decide (1 < act ∨ at_ 0x1A 6 ≠ 0) || (if isTime then decide (src ≠ 0) else decide (2 ^ 26 ≤ thr ∨ 64 ≤ src)))
      (.shapeInvalid (x.toNat % 0x100000))
    let va := (c.base + at_ 0x10 8) % 2 ^ 64
    let ps ← capSpread a.toNat c va 8 8 (if act = 1 then permW ||| permA else permW) (if act = 1 then .atomic else .write) true
    raiseIf (← reads fun s => ps.any fun p => decide (s.target p.pa ≠ .mem)) (.prot (BitVec.ofNat 64 va))
    let inc ← reads fun s => (s.ctx k).inc
    let used ← reads fun s => s.armed inc
    match (List.range 8).find? fun i => !used.contains i with
    | none => full 0x12B
    | some id =>
      let asid ← ownAsid
      let t : Trigger :=
        { inc, core := k / 2, asid, id, isTime, thresh := BitVec.ofNat 64 thr, chan := src, va := BitVec.ofNat 64 va
          value := BitVec.ofNat 64 (at_ 8 8), add := act = 1 }
      setX d.toNat ⟨BitVec.ofNat 64 id, false⟩
      change fun s =>
        let now := if isTime then decide (t.thresh.toNat ≤ s.gt / 2 ^ 16) else crossedBy ((s.ctx k).chan src).w t.thresh
        if now then { s with fired := s.fired ++ [t] } else { s with trigs := s.trigs ++ [t] }) st
def execTrigat (d a b : BitVec 6) (st : State) : Host.Outcome State Fault Refusal := trig true d a b st
def execTrigcnt (d a b : BitVec 6) (st : State) : Host.Outcome State Fault Refusal := trig false d a b st
/-- TRIGCAN. -/
def execTrigcan (d a : BitVec 6) (st : State) : Host.Outcome State Fault Refusal :=
  slotOut (do
    let x ← xClean a.toNat
    let inc ← reads fun s => (s.ctx s.cur).inc
    let id := x.toNat % 8
    let hit ← reads fun s => (s.armed inc).contains id
    setX d.toNat ⟨if hit then 1 else 0, false⟩
    change fun s => { s with trigs := s.trigs.filter fun t => ¬ (t.inc = inc ∧ t.id = id) }) st

/-! ## QCTL (R300 to R303) -/

/-- QDEPTH, QDEPTH.X. -/
def execQdepth (n : BitVec 6) (st : State) : Host.Outcome State Fault Refusal :=
  regSlot (fun _ r => { r with qdepth := BitVec.ofNat 7 (n.toNat + 1) }) st
def execQdepthX (a : BitVec 6) (st : State) : Host.Outcome State Fault Refusal :=
  slotOut (do
    let x ← xClean a.toNat
    setRegs fun r => { r with qdepth := BitVec.ofNat 7 (min (max (x.toNat % 128) 1) 64) }) st
/-- The RW fields of CTX.QMODE (R303). -/
def setQmode (r : Regs) (v : BitVec 12) : Regs := { r with qmode := (r.qmode &&& 0xF000) ||| v.setWidth 64 }
def execQmode (a : BitVec 6) (st : State) : Host.Outcome State Fault Refusal :=
  slotOut (do
    let x ← xClean a.toNat
    setRegs fun r => setQmode r (x.extractLsb' 0 12)) st
def execQmodei (m : BitVec 12) (st : State) : Host.Outcome State Fault Refusal := regSlot (fun _ r => setQmode r m) st

/-- Slots of a unit's queue that have not taken effect. -/
def State.slotsQueued (s : State) (k : Nat) (u : ExecUnit) : Nat := ((s.ctx k).queued u).length
/-- The word of QSTAT. -/
def qstatWord (stalls : BitVec 48) (bound clasp strict : Bool) (cap occ : Nat) : Word64 :=
  stalls.extractLsb' 0 24 ++ (0 : BitVec 5) ++ BitVec.ofBool bound ++ BitVec.ofBool clasp ++ BitVec.ofBool strict ++
    BitVec.ofNat 16 cap ++ BitVec.ofNat 16 occ
/-- QSTAT (R302). -/
def State.qstat (s : State) (k n : Nat) : Word64 :=
  let stall := fun csr => (s.core (k / 2)).perf.get 0 csr
  let q := (s.ctx k).regs.qmode
  if n < 4 then
    let u : ExecUnit := match n with | 0 => .vl | 1 => .va | 2 => .vs | _ => .mx
    qstatWord (stall (0x110 + n)) false false false (if n = 3 then 16 else 64) (s.slotsQueued k u)
  else if n < 16 then
    qstatWord (stall (0x114 + (n - 8))) false false (q.getLsbD (n - 8)) 32 (s.queueOf (k / 2) (.tce (n - 8))).length
  else if n < 20 then
    qstatWord (stall (0x11C + (n - 16))) false (q.getLsbD (12 + (n - 16))) (q.getLsbD (8 + (n - 16))) 16
      (s.queueOf (k / 2) (.send (n - 16))).length
  else if n = 20 then qstatWord (stall 0x128) false false false 16 (s.core (k / 2)).replay.length
  else
    let f := (s.ctx k).regs.rf (n - 24)
    qstatWord (stall (0x120 + (n - 24))) f.valid false false 512
      (if f.valid then (s.fifos.get [] f.endp.toNat).length else 0)
def execQstat (d n : BitVec 6) (st : State) : Host.Outcome State Fault Refusal :=
  .next (st.modRegs fun r => r.wx d.toNat ⟨st.qstat st.cur n.toNat, false⟩).retire

end Sys2Proof.Machine
end

