-- ==== Sys2Proof/Machine/Mask.lean ====
section
/-! DEFINITION. Compares and the mask stack (R165, R166). -/
namespace Sys2Proof.Machine

/-! ## VCMP (R165) -/

/-- The result of COND on two elements, with flags: 0 eq, 1 ne, 2 lt, 3 le, 4 gt, 5 ge, 6 un. -/
def vecCond (ty : NumType) (c : Nat) (x y : Nat) : Bool × BitVec 5 :=
  match ty with
  | .fl t =>
    match c with
    | 0 => fpCond t 0 x y
    | 1 => fpCond t 4 x y
    | 2 => fpCond t 1 x y
    | 3 => fpCond t 2 x y
    | 4 => fpCond t 1 y x
    | 5 => fpCond t 2 y x
    | _ => fpCond t 3 x y
  | _ =>
    let (n, g) := ty.asInt
    let i := intOf n g x
    let j := intOf n g y
    (match c with | 0 => i = j | 1 => i ≠ j | 2 => i < j | 3 => i ≤ j | 4 => j < i | _ => j ≤ i, 0)
/-- The elements a lane evaluates: those whose mask lane it is, or the 64-bit element that occupies it. -/
def laneElts (w l : Nat) : List Nat := if w = 64 then [l / 2] else (List.range (32 / w)).map fun i => l * (32 / w) + i
/-- VCMP: `y` ANY, `x` BS. -/
def execVcmp (y : Bool) (c : BitVec 3) (a b : BitVec 6) (x : Bool) (v : BitVec 4) (st : State) :
    Host.Outcome State Fault Refusal :=
  let ty := eltType v
  let w := ty.width
  let old := st.old
  let on := (List.range 64).filter old.active
  let es := on.map fun l => (l, (laneElts w l).map fun e => (old.elt a.toNat w e, old.second x b.toNat w e))
  match es.findSome? fun p => p.2.findSome? fun q =>
      if q.1.psn then some (regTag 2 a.toNat)
      else if q.2.psn then some (regTag (if x then 0 else 2) b.toNat) else none with
  | some t => .next (st.raise (.poison t))
  | none =>
    let rs := es.map fun p => (p.1, p.2.map fun q => vecCond ty c.toNat q.1.v q.2.v)
    let m : Word64 := rs.foldl (fun m p =>
      if (if y then p.2.any (·.1) else p.2.all (·.1)) then m ||| ((1 : Word64) <<< p.1) else m) 0
    let fl := rs.foldl (fun f p => p.2.foldl (fun f q => f ||| q.2) f) (0 : BitVec 5)
    .next ((st.modRegs fun r => r.pushMask m).setFlags fl).retire

/-! ## MASK (R166) -/

/-- The lanes of vA that are not 0. -/
def Regs.nonzero (r : Regs) (a : Nat) : Word64 :=
  (List.range 64).foldl (fun m l => if (r.rv a l).v ≠ 0 then m ||| ((1 : Word64) <<< l) else m) 0
/-- MPUSH of a vector: `f` gives the mask from the lanes and the top. -/
def pushLanes (a : BitVec 6) (f : Word64 → Word64 → Word64) (st : State) : Host.Outcome State Fault Refusal :=
  trySlot (fun old r =>
    if (List.range 64).any fun l => (old.rv a.toNat l).psn then .error (.poison (regTag 2 a.toNat))
    else .ok (r.pushMask (f (old.nonzero a.toNat) old.top))) st
/-- MPUSH of xA. -/
def pushScalar (a : BitVec 6) (f : Word64 → Word64 → Word64) (st : State) : Host.Outcome State Fault Refusal :=
  trySlot (fun old r =>
    if (old.rx a.toNat).psn then .error (.poison (regTag 0 a.toNat))
    else .ok (r.pushMask (f (old.rx a.toNat).v old.top))) st
def execMpush (a : BitVec 6) (st : State) : Host.Outcome State Fault Refusal := pushLanes a (· &&& ·) st
def execMpushRaw (a : BitVec 6) (st : State) : Host.Outcome State Fault Refusal := pushLanes a (fun m _ => m) st
def execMpushX (a : BitVec 6) (st : State) : Host.Outcome State Fault Refusal := pushScalar a (· &&& ·) st
def execMpushXRaw (a : BitVec 6) (st : State) : Host.Outcome State Fault Refusal := pushScalar a (fun m _ => m) st
def execMinv (st : State) : Host.Outcome State Fault Refusal :=
  regSlot (fun old r =>
    match old.mask.reverse with
    | [] => r
    | [m] => { r with mask := [~~~m] }
    | m :: below :: rest => { r with mask := rest.reverse ++ [below, ~~~m &&& below] }) st
def execMpop (n : BitVec 4) (st : State) : Host.Outcome State Fault Refusal :=
  regSlot (fun old r => { r with mask := old.mask.take (old.mask.length - (n.toNat + 1)) }) st
def execMdup (st : State) : Host.Outcome State Fault Refusal := regSlot (fun old r => r.pushMask old.top) st
def execMall (st : State) : Host.Outcome State Fault Refusal := regSlot (fun _ r => r.pushMask (BitVec.allOnes 64)) st

end Sys2Proof.Machine
end

