-- ==== Sys2Proof/Machine/Vector.lean ====
section
/-! DEFINITION. Vector arithmetic, approximations, logic, shifts, conversions, permutations, reductions, dot products,
sequences and Seeds (R156 to R164, R167 to R173). -/
namespace Sys2Proof.Machine

/-! ## Element-wise arithmetic (R156, R157) -/

/-- An integer result: exact value, clamped or wrapped (R29). -/
def intResult (n : Nat) (g sat : Bool) (x : Int) : Nat :=
  bitsOf n (if sat then max (rangeLo n g) (min (rangeHi n g) x) else x)
/-- The slots of R157: an operation on integers and one on a float format. -/
def arith (d a b : BitVec 6) (bs : Bool) (v : BitVec 4) (int : Nat → Bool → Int → Int → Nat)
    (fl : Fmt → BitVec 2 → Nat → Nat → Nat × BitVec 5) (st : State) : Host.Outcome State Fault Refusal :=
  let ty := eltType v
  let w := ty.width
  vecSlot d (fun old => old.lanes w fun e =>
    lift2 (old.elt a.toNat w e) (old.second bs b.toNat w e) fun x y =>
      match ty with
      | .fl t => fl t old.rm x y
      | _ => let (n, g) := ty.asInt; (int n g (intOf n g x) (intOf n g y), 0)) st
def execVadd (d a b : BitVec 6) (c o : Bool) (v : BitVec 4) (st : State) : Host.Outcome State Fault Refusal :=
  arith d a b c v (fun n g x y => intResult n g o (x + y)) (fun t m x y => fpAdd t m false x y) st
def execVsub (d a b : BitVec 6) (c o : Bool) (v : BitVec 4) (st : State) : Host.Outcome State Fault Refusal :=
  arith d a b c v (fun n g x y => intResult n g o (x - y)) (fun t m x y => fpAdd t m true x y) st
def execVmul (d a b : BitVec 6) (c o : Bool) (v : BitVec 4) (st : State) : Host.Outcome State Fault Refusal :=
  arith d a b c v (fun n g x y => intResult n g o (x * y)) (fun t m x y => fpMul t m x y) st
def execVmin (d a b : BitVec 6) (c : Bool) (v : BitVec 4) (st : State) : Host.Outcome State Fault Refusal :=
  arith d a b c v (fun n _ x y => bitsOf n (min x y)) (fun t _ x y => fpMinMax t false x y) st
def execVmax (d a b : BitVec 6) (c : Bool) (v : BitVec 4) (st : State) : Host.Outcome State Fault Refusal :=
  arith d a b c v (fun n _ x y => bitsOf n (max x y)) (fun t _ x y => fpMinMax t true x y) st
/-- The quotient of R29 as an exact value. -/
def quotient (n : Nat) (g : Bool) (x y : Int) : Nat :=
  if y = 0 then 2 ^ n - 1 else bitsOf n (if g then x.tdiv y else x / y)
def execVdiv (d a b : BitVec 6) (c : Bool) (v : BitVec 4) (st : State) : Host.Outcome State Fault Refusal :=
  arith d a b c v quotient fpDiv st

/-- VFMA and VFMS: the product's sign by NP, the accumulator's by `nc`. -/
def fusedVec (nc : Bool) (d a b : BitVec 6) (bs np : Bool) (v : BitVec 4) (st : State) :
    Host.Outcome State Fault Refusal :=
  match eltType v with
  | .fl t =>
    let w := t.width
    vecSlot d (fun old => old.lanes w fun e =>
      lift3 (old.elt a.toNat w e) (old.second bs b.toNat w e) (old.elt d.toNat w e) fun x y z =>
        fpFma t old.rm np nc x y z) st
  | _ => .next (st.raise .illegalFunction)
def execVfma (d a b : BitVec 6) (c o : Bool) (v : BitVec 4) (st : State) : Host.Outcome State Fault Refusal :=
  fusedVec false d a b c o v st
def execVfms (d a b : BitVec 6) (c o : Bool) (v : BitVec 4) (st : State) : Host.Outcome State Fault Refusal :=
  fusedVec true d a b c o v st

/-- A slot of one vector source. -/
def unaryVec (d a : BitVec 6) (w : Nat) (f : BitVec 2 → Nat → Nat × BitVec 5) (st : State) :
    Host.Outcome State Fault Refusal :=
  vecSlot d (fun old => old.lanes w fun e => lift1 (old.elt a.toNat w e) (f old.rm)) st
def execVsqrt (d a : BitVec 6) (v : BitVec 4) (st : State) : Host.Outcome State Fault Refusal :=
  match eltType v with
  | .fl t => unaryVec d a t.width (fpSqrt t) st
  | _ => .next (st.raise .illegalFunction)

/-- VABS and VNEG (R158): a float's sign bit changes, and a NaN becomes canonical, without a flag. -/
def signVec (neg : Bool) (d a : BitVec 6) (sat : Bool) (v : BitVec 4) (st : State) : Host.Outcome State Fault Refusal :=
  let ty := eltType v
  unaryVec d a ty.width (fun _ x =>
    match ty with
    | .fl t =>
      let mag := x % 2 ^ (t.width - 1)
      (if (t.value x).isNan then t.nan else if neg then t.sign (!(t.value x).isNeg) + mag else mag, 0)
    | _ =>
      let (n, g) := ty.asInt
      let i := intOf n g x
      (intResult n g sat (if neg then -i else i.natAbs), 0)) st
def execVabs (d a : BitVec 6) (x : Bool) (v : BitVec 4) (st : State) : Host.Outcome State Fault Refusal :=
  signVec false d a x v st
def execVneg (d a : BitVec 6) (x : Bool) (v : BitVec 4) (st : State) : Host.Outcome State Fault Refusal :=
  signVec true d a x v st

/-! ## Approximations (R159) -/

def execVrcpe (d a : BitVec 6) (st : State) : Host.Outcome State Fault Refusal :=
  unaryVec d a 32 (fun _ => approxRcp) st
def execVrsqrte (d a : BitVec 6) (st : State) : Host.Outcome State Fault Refusal :=
  unaryVec d a 32 (fun _ => approxRsqrt) st
def execVexp2e (d a : BitVec 6) (st : State) : Host.Outcome State Fault Refusal :=
  unaryVec d a 32 (fun _ => approxExp2) st
def execVlog2e (d a : BitVec 6) (st : State) : Host.Outcome State Fault Refusal :=
  unaryVec d a 32 (fun _ => approxLog2) st

/-! ## Logic and shifts (R160, R161) -/

/-- A bitwise operation on elements of width `w`, without flags. -/
def bitVec (w : Nat) (d a b : BitVec 6) (bs : Bool) (f : BitVec w → BitVec w → BitVec w) (st : State) :
    Host.Outcome State Fault Refusal :=
  vecSlot d (fun old => old.lanes w fun e =>
    lift2 (old.elt a.toNat w e) (old.second bs b.toNat w e) fun x y =>
      ((f (BitVec.ofNat w x) (BitVec.ofNat w y)).toNat, 0)) st
def execVand (d a b : BitVec 6) (c : Bool) (st : State) : Host.Outcome State Fault Refusal :=
  bitVec 32 d a b c (· &&& ·) st
def execVor (d a b : BitVec 6) (c : Bool) (st : State) : Host.Outcome State Fault Refusal :=
  bitVec 32 d a b c (· ||| ·) st
def execVxor (d a b : BitVec 6) (c : Bool) (st : State) : Host.Outcome State Fault Refusal :=
  bitVec 32 d a b c (· ^^^ ·) st
def execVandn (d a b : BitVec 6) (c : Bool) (st : State) : Host.Outcome State Fault Refusal :=
  bitVec 32 d a b c (fun x y => x &&& ~~~y) st
def execVorn (d a b : BitVec 6) (c : Bool) (st : State) : Host.Outcome State Fault Refusal :=
  bitVec 32 d a b c (fun x y => x ||| ~~~y) st
def execVxnor (d a b : BitVec 6) (c : Bool) (st : State) : Host.Outcome State Fault Refusal :=
  bitVec 32 d a b c (fun x y => ~~~(x ^^^ y)) st
def execVnand (d a b : BitVec 6) (c : Bool) (st : State) : Host.Outcome State Fault Refusal :=
  bitVec 32 d a b c (fun x y => ~~~(x &&& y)) st
def execVnor (d a b : BitVec 6) (c : Bool) (st : State) : Host.Outcome State Fault Refusal :=
  bitVec 32 d a b c (fun x y => ~~~(x ||| y)) st

def execVshl (d a b : BitVec 6) (c : Bool) (w : BitVec 2) (st : State) : Host.Outcome State Fault Refusal :=
  bitVec (widthOf w) d a b c (fun x y => x <<< (y.toNat % widthOf w)) st
def execVshr (d a b : BitVec 6) (c : Bool) (w : BitVec 2) (st : State) : Host.Outcome State Fault Refusal :=
  bitVec (widthOf w) d a b c (fun x y => x >>> (y.toNat % widthOf w)) st
def execVsar (d a b : BitVec 6) (c : Bool) (w : BitVec 2) (st : State) : Host.Outcome State Fault Refusal :=
  bitVec (widthOf w) d a b c (fun x y => x.sshiftRight (y.toNat % widthOf w)) st
def execVrol (d a b : BitVec 6) (c : Bool) (w : BitVec 2) (st : State) : Host.Outcome State Fault Refusal :=
  bitVec (widthOf w) d a b c (fun x y => x.rotateLeft (y.toNat % widthOf w)) st
def execVror (d a b : BitVec 6) (c : Bool) (w : BitVec 2) (st : State) : Host.Outcome State Fault Refusal :=
  bitVec (widthOf w) d a b c (fun x y => x.rotateRight (y.toNat % widthOf w)) st

/-! ## Conversions (R162 to R164) -/

/-- The types of VCVT: DST 15 is E4M3 with saturation, SRC 15 is q32. -/
def cvtDst (e : BitVec 4) : NumType := if e = 15 then .fl .e4m3 else eltType e
/-- An element as an exact value. -/
def NumType.exact (t : NumType) (x : Nat) : Fl :=
  match t with
  | .fl f => f.value x
  | .int n g => Fl.ofInt (intOf n g x) 0
  | .q32 => Fl.ofInt (intOf 64 true x) (-32)
/-- One element converted, with the Seed `s` where the conversion is stochastic. -/
def cvtElt (src dst : NumType) (mode : BitVec 2) (sat : Bool) (seed : Option (BitVec 32)) (x : Elt) : Elt :=
  lift1 x fun v =>
    match seed, dst with
    | some s, .fl t => let r := t.stochastic sat s (src.exact v); (r.1, r.2 ||| sigFlag [src.exact v])
    | _, _ => convert src dst mode sat v
/-- The Seed after `n` advances. -/
def seedAfter (s : BitVec 32) : Nat → BitVec 32
  | 0 => s
  | n + 1 => seedStep (seedAfter s n)
/-- A lane after the elements `es` of width `w` have been written at the slots given: bits and poison (R152). -/
def patchLane (w : Nat) (old : Val 32) (es : List (Nat × Elt)) : Elt :=
  let bits := es.foldl (fun v (p : Nat × Elt) =>
    let sh := p.1 * w
    v - v / 2 ^ sh % 2 ^ w * 2 ^ sh + p.2.v % 2 ^ w * 2 ^ sh) old.v.toNat
  let psn := es.any fun p => p.2.psn
  { v := bits, psn := psn || (decide (es.length * w < 32) && old.psn), fl := es.foldl (fun f p => f ||| p.2.fl) 0 }
/-- The units of R163: bits of a unit, elements it converts. -/
def cvtUnit (ws wd : Nat) : Nat × Nat :=
  let u := max 32 (max ws wd)
  (u, u / max ws wd)
/-- The elements that unit `u` converts, by destination slot. -/
def Regs.cvtSlots (r : Regs) (a : Nat) (src dst : NumType) (sat sr : Bool) (part u : Nat) : List (Nat × Elt) :=
  let ws := src.width
  let wd := dst.width
  let (bits, k) := cvtUnit ws wd
  let seed := r.seed.getD (u * bits / 32) 0
  (List.range k).map fun i =>
    let si := if ws < wd then part * k + i else i
    let di := if wd < ws then part * k + i else i
    (di, cvtElt src dst r.rm sat (if sr then some (seedAfter seed (i + 1)) else none) (r.elt a ws (u * (bits / ws) + si)))
/-- The lanes a conversion writes. -/
def Regs.cvtLanes (r : Regs) (d a : Nat) (src dst : NumType) (sat sr : Bool) (part : Nat) : List (Option Elt) :=
  let wd := dst.width
  let (bits, _) := cvtUnit src.width wd
  (List.range (2048 / bits)).flatMap fun u =>
    let first := u * bits / 32
    if r.active first then
      let es := r.cvtSlots a src dst sat sr part u
      if wd = 64 then es.flatMap fun e => (splitLanes e.2).map some
      else (List.range (bits / 32)).map fun l =>
        let mine := es.filter fun e => e.1 * wd / 32 = l
        if mine.isEmpty then none
        else some (patchLane wd (r.rv d (first + l)) (mine.map fun e => (e.1 - l * 32 / wd, e.2)))
    else List.replicate (bits / 32) none
/-- The Seeds after a stochastic conversion: each active unit's first lane has advanced once per element (R36). -/
def Regs.cvtSeeds (old cur : Regs) (ws wd : Nat) : Regs :=
  let (bits, k) := cvtUnit ws wd
  { cur with seed := cur.seed.mapIdx fun l s => if l % (bits / 32) = 0 ∧ old.active l then seedAfter s k else s }
/-- DEDUCED, log entry 30. -/
def execVcvt (d a : BitVec 6) (e g : BitVec 4) (r : Bool) (p : BitVec 3) (st : State) : Host.Outcome State Fault Refusal :=
  let src := eltType g
  let dst := cvtDst e
  let ls := st.old.cvtLanes d.toNat a.toNat src dst (e = 15) r p.toNat
  let s := st.modRegs fun c => c.wLanes d.toNat ls
  let s := if r then s.modRegs fun c => Regs.cvtSeeds st.old c src.width dst.width else s
  .next (s.setFlags (flagsOf ls)).retire

/-! ## Lanes and registers (R167) -/

def execVbcast (d a : BitVec 6) (w : BitVec 2) (st : State) : Host.Outcome State Fault Refusal :=
  vecSlot d (fun old => old.lanes (widthOf w) fun _ => lift1 (old.scalar a.toNat (widthOf w)) fun x => (x, 0)) st
/-- The index operand: xB mod n with its poison, or the immediate. -/
def Regs.index (r : Regs) (i : Bool) (b : BitVec 6) (w : Nat) : Nat × Bool :=
  if i then (b.toNat, false) else ((r.rx b.toNat).v.toNat % (2048 / w), (r.rx b.toNat).psn)
/-- VEXT: `x` sign extension. It reads whatever the mask. -/
def execVext (d a b : BitVec 6) (x i : Bool) (w : BitVec 2) (st : State) : Host.Outcome State Fault Refusal :=
  let w := widthOf w
  regSlot (fun old r =>
    let (n, p) := old.index i b w
    let e := old.elt a.toNat w n
    r.wx d.toNat ⟨if x then (BitVec.ofNat w e.v).signExtend 64 else BitVec.ofNat 64 e.v, e.psn || p⟩) st
def execVins (d a b : BitVec 6) (i : Bool) (w : BitVec 2) (st : State) : Host.Outcome State Fault Refusal :=
  let w := widthOf w
  vecSlot d (fun old =>
    let (n, p) := old.index i b w
    let x := old.scalar a.toNat w
    let e : Elt := if x.psn || p then .bad else x
    (List.range 64).map fun l =>
      if !old.active (n * w / 32) then none
      else if w = 64 then (if l / 2 = n then (splitLanes e)[l % 2]? else none)
      else if l = n * w / 32 then some (patchLane w (old.rv d.toNat l) [(n % (32 / w), e)]) else none) st

/-! ## Permutations (R168) -/

/-- Each active lane written whole by `f`; a poisoned lane has value bits 0. -/
def laneSlot (d : BitVec 6) (f : Regs → Nat → Val 32) (st : State) : Host.Outcome State Fault Refusal :=
  vecSlot d (fun old => (List.range 64).map fun l =>
    if old.active l then some (let x := f old l; if x.psn then .bad else { v := x.v.toNat }) else none) st
def execVperm (d a b : BitVec 6) (st : State) : Host.Outcome State Fault Refusal :=
  laneSlot d (fun old l =>
    let i := old.rv b.toNat l
    let x := old.rv a.toNat (i.v.toNat % 64)
    ⟨x.v, x.psn || i.psn⟩) st
def execVperm2 (d a b : BitVec 6) (st : State) : Host.Outcome State Fault Refusal :=
  laneSlot d (fun old l =>
    let i := old.rv b.toNat l
    let j := i.v.toNat % 128
    let x := if j < 64 then old.rv a.toNat j else old.rv d.toNat (j - 64)
    ⟨x.v, x.psn || i.psn⟩) st
def execVpermB (d a b : BitVec 6) (st : State) : Host.Outcome State Fault Refusal :=
  laneSlot d (fun old l =>
    let i := old.rv b.toNat l
    let xs := (List.range 4).map fun k => old.elt a.toNat 8 (i.v.toNat / 256 ^ k % 256)
    let x := packLane 8 xs
    ⟨BitVec.ofNat 32 x.v, x.psn || i.psn⟩) st
def execVxswz (d a b : BitVec 6) (st : State) : Host.Outcome State Fault Refusal :=
  laneSlot d (fun old l =>
    let k := old.rx b.toNat
    let x := old.rv a.toNat (l ^^^ (k.v.toNat % 64))
    ⟨x.v, x.psn || k.psn⟩) st
def execVxswzi (d a i : BitVec 6) (st : State) : Host.Outcome State Fault Refusal :=
  laneSlot d (fun old l => old.rv a.toNat (l ^^^ i.toNat)) st

/-! ## VMOV (R169) -/

def execVmov (d a : BitVec 6) (st : State) : Host.Outcome State Fault Refusal := laneSlot d (fun old l => old.rv a.toNat l) st
def execVmovZ (d a : BitVec 6) (st : State) : Host.Outcome State Fault Refusal :=
  vecSlot d (fun old => (List.range 64).map fun l =>
    some (if old.active l then (let x := old.rv a.toNat l; if x.psn then .bad else { v := x.v.toNat }) else {})) st
def execVmovM (d : BitVec 6) (st : State) : Host.Outcome State Fault Refusal :=
  vecSlot d (fun old => (List.range 64).map fun l => some { v := if old.active l then 2 ^ 32 - 1 else 0 }) st

/-! ## Reductions (R43, R170) -/

/-- One level of the tree of R43, flags gathered. -/
def treeLevel (f : Nat → Nat → Nat × BitVec 5) : List Nat → List Nat × BitVec 5
  | x :: y :: xs =>
    let r := f x y
    let (ys, g) := treeLevel f xs
    (r.1 :: ys, r.2 ||| g)
  | xs => (xs, 0)
/-- The tree; `fuel` levels. -/
def tree (f : Nat → Nat → Nat × BitVec 5) : Nat → List Nat → Nat × BitVec 5
  | 0, xs => (xs.headD 0, 0)
  | k + 1, xs =>
    let (ys, g) := treeLevel f xs
    let (r, h) := tree f k ys
    (r, g ||| h)
/-- VRED: the float operation with its identity, the integer operation with its identity. -/
def reduce (d a : BitVec 6) (v : BitVec 4) (fl : Fmt → BitVec 2 → Nat → Nat → Nat × BitVec 5) (idf : Fmt → Nat)
    (int : Int → Int → Int) (idi : Nat → Bool → Int) (st : State) : Host.Outcome State Fault Refusal :=
  let ty := eltType v
  let w := ty.width
  vecSlot d (fun old =>
    let n := 2048 / w
    let act := fun e => old.active (e * w / 32)
    let psn := (List.range n).any fun e => act e && (old.elt a.toNat w e).psn
    let wide : Bool := match ty with | .fl t => t.width = 64 | _ => true
    let r : Elt :=
      if psn then .bad
      else match ty with
        | .fl t =>
          let x := tree (fl t old.rm) (Nat.log2 n) ((List.range n).map fun e => if act e then (old.elt a.toNat w e).v else idf t)
          { v := x.1, fl := x.2 }
        | _ =>
          let (m, g) := ty.asInt
          { v := bitsOf 64 (((List.range n).map fun e =>
              if act e then intOf m g (old.elt a.toNat w e).v else idi m g).foldl int (idi m g)) }
    ((if wide then splitLanes r else [r]).map some) ++ List.replicate (if wide then 62 else 63) none) st
def execVredAdd (d a : BitVec 6) (v : BitVec 4) (st : State) : Host.Outcome State Fault Refusal :=
  reduce d a v (fun t m x y => fpAdd t m false x y) (fun t => t.sign true) (· + ·) (fun _ _ => 0) st
def execVredMin (d a : BitVec 6) (v : BitVec 4) (st : State) : Host.Outcome State Fault Refusal :=
  reduce d a v (fun t _ x y => fpMinMax t false x y) (fun t => t.nan) min rangeHi st
def execVredMax (d a : BitVec 6) (v : BitVec 4) (st : State) : Host.Outcome State Fault Refusal :=
  reduce d a v (fun t _ x y => fpMinMax t true x y) (fun t => t.nan) max rangeLo st

/-! ## VDOT (R171) -/

/-- The products of one lane, the accumulator first. -/
def dotFloat (t : Fmt) (mode : BitVec 2) (acc x y : Nat) : Nat × BitVec 5 :=
  let k := 32 / t.width
  let at_ := fun (z i : Nat) => t.value (z / 2 ^ (t.width * i) % 2 ^ t.width)
  let c := Fmt.f32.value acc
  let as := (List.range k).map (at_ x)
  let bs := (List.range k).map (at_ y)
  let ps := (List.range k).map fun i => (at_ x i).mul (at_ y i)
  let inv := (List.range k).any fun i => ((at_ x i).mul (at_ y i)).isNan && !(at_ x i).isNan && !(at_ y i).isNan
  let r := Fmt.f32.sum mode (c :: ps)
  (r.1, r.2 ||| sigFlag (c :: as ++ bs) ||| (if inv then fIV else 0))
/-- Integers: the exact sum, wrapped or clamped. -/
def dotInt (n : Nat) (g sat : Bool) (acc x y : Nat) : Nat :=
  intResult 32 g sat ((List.range (32 / n)).foldl (fun s i =>
    s + intOf n g (x / 2 ^ (n * i) % 2 ^ n) * intOf n g (y / 2 ^ (n * i) % 2 ^ n)) (intOf 32 g acc))
def execVdot (d a b : BitVec 6) (c sat : Bool) (v : BitVec 4) (st : State) : Host.Outcome State Fault Refusal :=
  let ty := eltType v
  vecSlot d (fun old => old.lanes 32 fun l =>
    lift3 (old.elt d.toNat 32 l) (old.elt a.toNat 32 l) (old.second c b.toNat 32 l) fun acc x y =>
      match ty with
      | .fl t => dotFloat t old.rm acc x y
      | _ => let (n, g) := ty.asInt; (dotInt n g sat acc x y, 0)) st

/-! ## VIOTA, VSEED (R172, R173) -/

def execViota (d a b : BitVec 6) (w : BitVec 2) (st : State) : Host.Outcome State Fault Refusal :=
  vecSlot d (fun old => old.lanes (widthOf w) fun e =>
    lift2 (old.scalar a.toNat 64) (old.scalar b.toNat 64) fun x y => ((x + e * y) % 2 ^ widthOf w, 0)) st
def execViotaM (d : BitVec 6) (st : State) : Host.Outcome State Fault Refusal :=
  vecSlot d (fun old => old.lanes 32 fun l => { v := ((List.range l).filter old.active).length }) st

/-- A Seed as stored: never 0 (R36). -/
def seedOf (x : BitVec 32) : BitVec 32 := if x = 0 then 1 else x
/-- VSEED: every active lane's Seed by `f`; nothing when a source is poisoned. -/
def execVseed (a : BitVec 6) (st : State) : Host.Outcome State Fault Refusal :=
  trySlot (fun old r =>
    if (List.range 64).any fun l => old.active l && (old.rv a.toNat l).psn then .error (.poison (regTag 2 a.toNat))
    else .ok { r with seed := r.seed.mapIdx fun l s => if old.active l then seedOf (old.rv a.toNat l).v else s }) st
def execVseedX (a : BitVec 6) (st : State) : Host.Outcome State Fault Refusal :=
  trySlot (fun old r =>
    let x := old.rx a.toNat
    if x.psn then .error (.poison (regTag 0 a.toNat))
    else
      let f := fun (l : Nat) (s : BitVec 32) =>
        if old.active l then seedOf (x.v.setWidth 32 ^^^ BitVec.ofNat 32 ((l + 1) * 0x9E3779B9)) else s
      .ok { r with seed := r.seed.mapIdx f }) st
def execVseedrd (d : BitVec 6) (st : State) : Host.Outcome State Fault Refusal :=
  laneSlot d (fun old l => ⟨old.seed.getD l 0, false⟩) st

end Sys2Proof.Machine
end

