-- ==== Sys2Proof/Machine/Dispatch.lean ====
section
/-! DEFINITION. The dispatch of an instruction to its meaning: one arm per constructor. -/
namespace Sys2Proof.Machine

def exec (inst : Instr) (st : State) : Host.Outcome State Fault Refusal :=
  match inst with
  | .nop _ => Sys2Proof.Machine.execNop st
  | .limm _ _ => Sys2Proof.Machine.execLimm st
  | .pguard _ _ _ _ => Sys2Proof.Machine.execPguard st
  | .deps _ _ _ _ _ => Sys2Proof.Machine.execDeps st
  | .add _ d a b => Sys2Proof.Machine.execAdd d a b st
  | .addS32 _ d a b => Sys2Proof.Machine.execAddS32 d a b st
  | .addZ32 _ d a b => Sys2Proof.Machine.execAddZ32 d a b st
  | .addSatS64 _ d a b => Sys2Proof.Machine.execAddSatS64 d a b st
  | .addSatZ64 _ d a b => Sys2Proof.Machine.execAddSatZ64 d a b st
  | .addSatS32 _ d a b => Sys2Proof.Machine.execAddSatS32 d a b st
  | .addSatZ32 _ d a b => Sys2Proof.Machine.execAddSatZ32 d a b st
  | .sub _ d a b => Sys2Proof.Machine.execSub d a b st
  | .subS32 _ d a b => Sys2Proof.Machine.execSubS32 d a b st
  | .subZ32 _ d a b => Sys2Proof.Machine.execSubZ32 d a b st
  | .subSatS64 _ d a b => Sys2Proof.Machine.execSubSatS64 d a b st
  | .subSatZ64 _ d a b => Sys2Proof.Machine.execSubSatZ64 d a b st
  | .subSatS32 _ d a b => Sys2Proof.Machine.execSubSatS32 d a b st
  | .subSatZ32 _ d a b => Sys2Proof.Machine.execSubSatZ32 d a b st
  | .addi _ d a i => Sys2Proof.Machine.execAddi d a i st
  | .mul _ d a b => Sys2Proof.Machine.execMul d a b st
  | .mulhS64 _ d a b => Sys2Proof.Machine.execMulhS64 d a b st
  | .mulhZ64 _ d a b => Sys2Proof.Machine.execMulhZ64 d a b st
  | .mulS32 _ d a b => Sys2Proof.Machine.execMulS32 d a b st
  | .mulZ32 _ d a b => Sys2Proof.Machine.execMulZ32 d a b st
  | .mla _ d a b => Sys2Proof.Machine.execMla d a b st
  | .divS64 _ d a b => Sys2Proof.Machine.execDivS64 d a b st
  | .divZ64 _ d a b => Sys2Proof.Machine.execDivZ64 d a b st
  | .remS64 _ d a b => Sys2Proof.Machine.execRemS64 d a b st
  | .remZ64 _ d a b => Sys2Proof.Machine.execRemZ64 d a b st
  | .divS32 _ d a b => Sys2Proof.Machine.execDivS32 d a b st
  | .divZ32 _ d a b => Sys2Proof.Machine.execDivZ32 d a b st
  | .remS32 _ d a b => Sys2Proof.Machine.execRemS32 d a b st
  | .remZ32 _ d a b => Sys2Proof.Machine.execRemZ32 d a b st
  | .and _ d a b => Sys2Proof.Machine.execAnd d a b st
  | .or _ d a b => Sys2Proof.Machine.execOr d a b st
  | .xor _ d a b => Sys2Proof.Machine.execXor d a b st
  | .andn _ d a b => Sys2Proof.Machine.execAndn d a b st
  | .orn _ d a b => Sys2Proof.Machine.execOrn d a b st
  | .xnor _ d a b => Sys2Proof.Machine.execXnor d a b st
  | .nand _ d a b => Sys2Proof.Machine.execNand d a b st
  | .nor _ d a b => Sys2Proof.Machine.execNor d a b st
  | .andi _ d a i => Sys2Proof.Machine.execAndi d a i st
  | .ori _ d a i => Sys2Proof.Machine.execOri d a i st
  | .xori _ d a i => Sys2Proof.Machine.execXori d a i st
  | .andni _ d a i => Sys2Proof.Machine.execAndni d a i st
  | .orni _ d a i => Sys2Proof.Machine.execOrni d a i st
  | .xnori _ d a i => Sys2Proof.Machine.execXnori d a i st
  | .nandi _ d a i => Sys2Proof.Machine.execNandi d a i st
  | .nori _ d a i => Sys2Proof.Machine.execNori d a i st
  | .shl _ d a b w => Sys2Proof.Machine.execShl d a b w st
  | .shr _ d a b w => Sys2Proof.Machine.execShr d a b w st
  | .sar _ d a b w => Sys2Proof.Machine.execSar d a b w st
  | .rol _ d a b w => Sys2Proof.Machine.execRol d a b w st
  | .ror _ d a b w => Sys2Proof.Machine.execRor d a b w st
  | .shli _ d a n w => Sys2Proof.Machine.execShli d a n w st
  | .shri _ d a n w => Sys2Proof.Machine.execShri d a n w st
  | .sari _ d a n w => Sys2Proof.Machine.execSari d a n w st
  | .roli _ d a n w => Sys2Proof.Machine.execRoli d a n w st
  | .rori _ d a n w => Sys2Proof.Machine.execRori d a n w st
  | .clz _ d a => Sys2Proof.Machine.execClz d a st
  | .ctz _ d a => Sys2Proof.Machine.execCtz d a st
  | .popc _ d a => Sys2Proof.Machine.execPopc d a st
  | .brev _ d a => Sys2Proof.Machine.execBrev d a st
  | .bswap _ d a => Sys2Proof.Machine.execBswap d a st
  | .minS64 _ d a b => Sys2Proof.Machine.execMinS64 d a b st
  | .maxS64 _ d a b => Sys2Proof.Machine.execMaxS64 d a b st
  | .minZ64 _ d a b => Sys2Proof.Machine.execMinZ64 d a b st
  | .maxZ64 _ d a b => Sys2Proof.Machine.execMaxZ64 d a b st
  | .bfx _ d a p l => Sys2Proof.Machine.execBfx d a p l st
  | .bfi _ d a p l => Sys2Proof.Machine.execBfi d a p l st
  | .extZ _ d a w => Sys2Proof.Machine.execExtZ d a w st
  | .extS _ d a w => Sys2Proof.Machine.execExtS d a w st
  | .cmp _ p a b c => Sys2Proof.Machine.execCmp p a b c st
  | .cmpi _ p a i c => Sys2Proof.Machine.execCmpi p a i c st
  | .pand _ d a b => Sys2Proof.Machine.execPand d a b st
  | .por _ d a b => Sys2Proof.Machine.execPor d a b st
  | .pxor _ d a b => Sys2Proof.Machine.execPxor d a b st
  | .pandn _ d a b => Sys2Proof.Machine.execPandn d a b st
  | .porn _ d a b => Sys2Proof.Machine.execPorn d a b st
  | .pmov _ d a => Sys2Proof.Machine.execPmov d a st
  | .pnot _ d a => Sys2Proof.Machine.execPnot d a st
  | .pxnor _ d a b => Sys2Proof.Machine.execPxnor d a b st
  | .sel _ d a p => Sys2Proof.Machine.execSel d a p st
  | .selz _ d a p => Sys2Proof.Machine.execSelz d a p st
  | .seln _ d a p => Sys2Proof.Machine.execSeln d a p st
  | .fadd _ d a b t r => Sys2Proof.Machine.execFadd d a b t r st
  | .fsub _ d a b t r => Sys2Proof.Machine.execFsub d a b t r st
  | .fmul _ d a b t r => Sys2Proof.Machine.execFmul d a b t r st
  | .fmin _ d a b t => Sys2Proof.Machine.execFmin d a b t st
  | .fmax _ d a b t => Sys2Proof.Machine.execFmax d a b t st
  | .ffma _ d a b t r => Sys2Proof.Machine.execFfma d a b t r st
  | .ffms _ d a b t r => Sys2Proof.Machine.execFfms d a b t r st
  | .ffnma _ d a b t r => Sys2Proof.Machine.execFfnma d a b t r st
  | .ffnms _ d a b t r => Sys2Proof.Machine.execFfnms d a b t r st
  | .fdiv _ d a b t r => Sys2Proof.Machine.execFdiv d a b t r st
  | .fsqrt _ d a t r => Sys2Proof.Machine.execFsqrt d a t r st
  | .fcmp _ p a b t c => Sys2Proof.Machine.execFcmp p a b t c st
  | .fcvt _ d a e g q z r => Sys2Proof.Machine.execFcvt d a e g q z r st
  | .fclass _ d a t => Sys2Proof.Machine.execFclass d a t st
  | .br _ o => Sys2Proof.Machine.execBr o st
  | .bri _ d a i => Sys2Proof.Machine.execBri d a i st
  | .call _ o => Sys2Proof.Machine.execCall o st
  | .ret _ a => Sys2Proof.Machine.execRet a st
  | .loopPush _ a => Sys2Proof.Machine.execLoopPush a st
  | .loopPop _ => Sys2Proof.Machine.execLoopPop st
  | .loop _ o => Sys2Proof.Machine.execLoop o st
  | .loops _ f p o => Sys2Proof.Machine.execLoops f p o st
  | .brzm _ o => Sys2Proof.Machine.execBrzm o st
  | .brnzm _ o => Sys2Proof.Machine.execBrnzm o st
  | .trap _ c => Sys2Proof.Machine.execTrap c st
  | .svc _ c => Sys2Proof.Machine.execSvc c st
  | .brk _ c => Sys2Proof.Machine.execBrk c st
  | .cnarrowOff _ d a b => Sys2Proof.Machine.execCnarrowOff d a b st
  | .cnarrowLen _ d a b => Sys2Proof.Machine.execCnarrowLen d a b st
  | .cnarrowBase _ d a b => Sys2Proof.Machine.execCnarrowBase d a b st
  | .cnarrowiOff _ d a i => Sys2Proof.Machine.execCnarrowiOff d a i st
  | .cnarrowiLen _ d a i => Sys2Proof.Machine.execCnarrowiLen d a i st
  | .cnarrowiBase _ d a i => Sys2Proof.Machine.execCnarrowiBase d a i st
  | .cperm _ d a m => Sys2Proof.Machine.execCperm d a m st
  | .cgetBase _ d a => Sys2Proof.Machine.execCgetBase d a st
  | .cgetLen _ d a => Sys2Proof.Machine.execCgetLen d a st
  | .cgetPerm _ d a => Sys2Proof.Machine.execCgetPerm d a st
  | .cgetShape _ d a => Sys2Proof.Machine.execCgetShape d a st
  | .cgetTag _ d a => Sys2Proof.Machine.execCgetTag d a st
  | .cgetHi _ d a => Sys2Proof.Machine.execCgetHi d a st
  | .cgetLo _ d a => Sys2Proof.Machine.execCgetLo d a st
  | .cshape _ d a b => Sys2Proof.Machine.execCshape d a b st
  | .cmint _ d a b => Sys2Proof.Machine.execCmint d a b st
  | .trans _ d a => Sys2Proof.Machine.execTrans d a st
  | .hgetState _ d a => Sys2Proof.Machine.execHgetState d a st
  | .hgetPage _ d a => Sys2Proof.Machine.execHgetPage d a st
  | .hgetSize _ d a => Sys2Proof.Machine.execHgetSize d a st
  | .hdrop _ d => Sys2Proof.Machine.execHdrop d st
  | .wtake _ d p => Sys2Proof.Machine.execWtake d p st
  | .join _ a i => Sys2Proof.Machine.execJoin a i st
  | .leave _ a i => Sys2Proof.Machine.execLeave a i st
  | .stepend _ => Sys2Proof.Machine.execStepend st
  | .switch _ => Sys2Proof.Machine.execSwitch st
  | .yield _ => Sys2Proof.Machine.execYield st
  | .csrr _ d c => Sys2Proof.Machine.execCsrr d c st
  | .csrw _ a c => Sys2Proof.Machine.execCsrw a c st
  | .codeswap _ a b => Sys2Proof.Machine.execCodeswap a b st
  | .trapret _ => Sys2Proof.Machine.execTrapret st
  | .vadd _ d a b c o v => Sys2Proof.Machine.execVadd d a b c o v st
  | .vsub _ d a b c o v => Sys2Proof.Machine.execVsub d a b c o v st
  | .vmul _ d a b c o v => Sys2Proof.Machine.execVmul d a b c o v st
  | .vfma _ d a b c o v => Sys2Proof.Machine.execVfma d a b c o v st
  | .vfms _ d a b c o v => Sys2Proof.Machine.execVfms d a b c o v st
  | .vmin _ d a b c v => Sys2Proof.Machine.execVmin d a b c v st
  | .vmax _ d a b c v => Sys2Proof.Machine.execVmax d a b c v st
  | .vdiv _ d a b c v => Sys2Proof.Machine.execVdiv d a b c v st
  | .vsqrt _ d a v => Sys2Proof.Machine.execVsqrt d a v st
  | .vrcpe _ d a => Sys2Proof.Machine.execVrcpe d a st
  | .vrsqrte _ d a => Sys2Proof.Machine.execVrsqrte d a st
  | .vexp2e _ d a => Sys2Proof.Machine.execVexp2e d a st
  | .vlog2e _ d a => Sys2Proof.Machine.execVlog2e d a st
  | .vand _ d a b c => Sys2Proof.Machine.execVand d a b c st
  | .vor _ d a b c => Sys2Proof.Machine.execVor d a b c st
  | .vxor _ d a b c => Sys2Proof.Machine.execVxor d a b c st
  | .vandn _ d a b c => Sys2Proof.Machine.execVandn d a b c st
  | .vorn _ d a b c => Sys2Proof.Machine.execVorn d a b c st
  | .vxnor _ d a b c => Sys2Proof.Machine.execVxnor d a b c st
  | .vnand _ d a b c => Sys2Proof.Machine.execVnand d a b c st
  | .vnor _ d a b c => Sys2Proof.Machine.execVnor d a b c st
  | .vshl _ d a b c w => Sys2Proof.Machine.execVshl d a b c w st
  | .vshr _ d a b c w => Sys2Proof.Machine.execVshr d a b c w st
  | .vsar _ d a b c w => Sys2Proof.Machine.execVsar d a b c w st
  | .vrol _ d a b c w => Sys2Proof.Machine.execVrol d a b c w st
  | .vror _ d a b c w => Sys2Proof.Machine.execVror d a b c w st
  | .vcvt _ d a e g r p => Sys2Proof.Machine.execVcvt d a e g r p st
  | .vcmp _ y c a b x v => Sys2Proof.Machine.execVcmp y c a b x v st
  | .mpush _ a => Sys2Proof.Machine.execMpush a st
  | .mpushRaw _ a => Sys2Proof.Machine.execMpushRaw a st
  | .mpushX _ a => Sys2Proof.Machine.execMpushX a st
  | .mpushXRaw _ a => Sys2Proof.Machine.execMpushXRaw a st
  | .minv _ => Sys2Proof.Machine.execMinv st
  | .mpop _ n => Sys2Proof.Machine.execMpop n st
  | .mdup _ => Sys2Proof.Machine.execMdup st
  | .mall _ => Sys2Proof.Machine.execMall st
  | .vbcast _ d a w => Sys2Proof.Machine.execVbcast d a w st
  | .vext _ d a b x i w => Sys2Proof.Machine.execVext d a b x i w st
  | .vins _ d a b i w => Sys2Proof.Machine.execVins d a b i w st
  | .vperm _ d a b => Sys2Proof.Machine.execVperm d a b st
  | .vperm2 _ d a b => Sys2Proof.Machine.execVperm2 d a b st
  | .vpermB _ d a b => Sys2Proof.Machine.execVpermB d a b st
  | .vxswz _ d a b => Sys2Proof.Machine.execVxswz d a b st
  | .vxswzi _ d a i => Sys2Proof.Machine.execVxswzi d a i st
  | .vredAdd _ d a v => Sys2Proof.Machine.execVredAdd d a v st
  | .vredMin _ d a v => Sys2Proof.Machine.execVredMin d a v st
  | .vredMax _ d a v => Sys2Proof.Machine.execVredMax d a v st
  | .vdot _ d a b c sat v => Sys2Proof.Machine.execVdot d a b c sat v st
  | .viota _ d a b w => Sys2Proof.Machine.execViota d a b w st
  | .viotaM _ d => Sys2Proof.Machine.execViotaM d st
  | .vabs _ d a x v => Sys2Proof.Machine.execVabs d a x v st
  | .vneg _ d a x v => Sys2Proof.Machine.execVneg d a x v st
  | .vseed _ a => Sys2Proof.Machine.execVseed a st
  | .vseedX _ a => Sys2Proof.Machine.execVseedX a st
  | .vseedrd _ d => Sys2Proof.Machine.execVseedrd d st
  | .vmov _ d a => Sys2Proof.Machine.execVmov d a st
  | .vmovZ _ d a => Sys2Proof.Machine.execVmovZ d a st
  | .vmovM _ d => Sys2Proof.Machine.execVmovM d st
  | .lds _ d a b i c x z => Sys2Proof.Machine.execLds d a b i c x z st
  | .sts _ d a b i c z => Sys2Proof.Machine.execSts d a b i c z st
  | .ldf _ d a b i w x => Sys2Proof.Machine.execLdf d a b i w x st
  | .ldfe _ d a b i w x => Sys2Proof.Machine.execLdfe d a b i w x st
  | .ste _ d a b i w => Sys2Proof.Machine.execSte d a b i w st
  | .stf _ d a b i w => Sys2Proof.Machine.execStf d a b i w st
  | .tagclr _ a b i w => Sys2Proof.Machine.execTagclr a b i w st
  | .vld _ d a => Sys2Proof.Machine.execVld d a st
  | .vldBank _ d a => Sys2Proof.Machine.execVldBank d a st
  | .vldStr _ d a b => Sys2Proof.Machine.execVldStr d a b st
  | .vldG _ d c b z => Sys2Proof.Machine.execVldG d c b z st
  | .vst _ d a => Sys2Proof.Machine.execVst d a st
  | .vstBank _ d a => Sys2Proof.Machine.execVstBank d a st
  | .vstStr _ d a b => Sys2Proof.Machine.execVstStr d a b st
  | .vstG _ d c b n => Sys2Proof.Machine.execVstG d c b n st
  | .vldg _ d a b => Sys2Proof.Machine.execVldg d a b st
  | .vldgG _ d c b z => Sys2Proof.Machine.execVldgG d c b z st
  | .vstg _ d a b => Sys2Proof.Machine.execVstg d a b st
  | .vstgG _ d c b n => Sys2Proof.Machine.execVstgG d c b n st
  | .vldt _ d a b e => Sys2Proof.Machine.execVldt d a b e st
  | .ldg _ d h b i zp x z => Sys2Proof.Machine.execLdg d h b i zp x z st
  | .stg _ d h b i n z => Sys2Proof.Machine.execStg d h b i n z st
  | .lda _ d h b z c => Sys2Proof.Machine.execLda d h b z c st
  | .sta _ d h b z c => Sys2Proof.Machine.execSta d h b z c st
  | .atomSwap _ d r c b w x => Sys2Proof.Machine.execAtomSwap d r c b w x st
  | .atomCas _ d r c b w x => Sys2Proof.Machine.execAtomCas d r c b w x st
  | .atomAdd _ d r c b w x => Sys2Proof.Machine.execAtomAdd d r c b w x st
  | .atomAnd _ d r c b w x => Sys2Proof.Machine.execAtomAnd d r c b w x st
  | .atomOr _ d r c b w x => Sys2Proof.Machine.execAtomOr d r c b w x st
  | .atomXor _ d r c b w x => Sys2Proof.Machine.execAtomXor d r c b w x st
  | .atomMinS _ d r c b w x => Sys2Proof.Machine.execAtomMinS d r c b w x st
  | .atomMaxS _ d r c b w x => Sys2Proof.Machine.execAtomMaxS d r c b w x st
  | .atomMinZ _ d r c b w x => Sys2Proof.Machine.execAtomMinZ d r c b w x st
  | .atomMaxZ _ d r c b w x => Sys2Proof.Machine.execAtomMaxZ d r c b w x st
  | .atomFadd _ d r c b w x => Sys2Proof.Machine.execAtomFadd d r c b w x st
  | .atomFmin _ d r c b w x => Sys2Proof.Machine.execAtomFmin d r c b w x st
  | .atomFmax _ d r c b w x => Sys2Proof.Machine.execAtomFmax d r c b w x st
  | .atomx _ d r c b i => Sys2Proof.Machine.execAtomx d r c b i st
  | .fence _ u e t m p q c => Sys2Proof.Machine.execFence u e t m p q c st
  | .prefetch _ d c b o => Sys2Proof.Machine.execPrefetch d c b o st
  | .flush _ d c b o => Sys2Proof.Machine.execFlush d c b o st
  | .discard _ d c b => Sys2Proof.Machine.execDiscard d c b st
  | .sbopFill _ d c b r n => Sys2Proof.Machine.execSbopFill d c b r n st
  | .sbopAdd _ d c b r n => Sys2Proof.Machine.execSbopAdd d c b r n st
  | .sbopFadd _ d c b r n => Sys2Proof.Machine.execSbopFadd d c b r n st
  | .sbopMax _ d c b r n => Sys2Proof.Machine.execSbopMax d c b r n st
  | .mma _ d a b g bs z f => Sys2Proof.Machine.execMma d a b g bs z f st
  | .nset _ a i => Sys2Proof.Machine.execNset a i st
  | .nsetA _ a i => Sys2Proof.Machine.execNsetA a i st
  | .nget _ d i => Sys2Proof.Machine.execNget d i st
  | .ngetA _ d i => Sys2Proof.Machine.execNgetA d i st
  | .ngo _ d => Sys2Proof.Machine.execNgo d st
  | .ngoM _ d a b => Sys2Proof.Machine.execNgoM d a b st
  | .accrd _ d a b => Sys2Proof.Machine.execAccrd d a b st
  | .accwr _ d a b => Sys2Proof.Machine.execAccwr d a b st
  | .accz _ d => Sys2Proof.Machine.execAccz d st
  | .obcast _ d a b l => Sys2Proof.Machine.execObcast d a b l st
  | .mopen _ d a b n => Sys2Proof.Machine.execMopen d a b n st
  | .accmerge _ d a b n z k => Sys2Proof.Machine.execAccmerge d a b n z k st
  | .copy _ d a b c h => Sys2Proof.Machine.execCopy d a b c h st
  | .send _ d a b l h => Sys2Proof.Machine.execSend d a b l h st
  | .fbind _ d a => Sys2Proof.Machine.execFbind d a st
  | .funbind _ d => Sys2Proof.Machine.execFunbind d st
  | .fpush _ d a => Sys2Proof.Machine.execFpush d a st
  | .fpushEos _ d a => Sys2Proof.Machine.execFpushEos d a st
  | .fpop _ d a => Sys2Proof.Machine.execFpop d a st
  | .coll _ d a b => Sys2Proof.Machine.execColl d a b st
  | .clopen _ d a h => Sys2Proof.Machine.execClopen d a h st
  | .clclose _ d h => Sys2Proof.Machine.execClclose d h st
  | .trsel _ d a b => Sys2Proof.Machine.execTrsel d a b st
  | .trexp _ d a b => Sys2Proof.Machine.execTrexp d a b st
  | .trback _ d a b => Sys2Proof.Machine.execTrback d a b st
  | .trbackVo _ d a b => Sys2Proof.Machine.execTrbackVo d a b st
  | .trroot _ d a b => Sys2Proof.Machine.execTrroot d a b st
  | .trpoolInit _ d a b => Sys2Proof.Machine.execTrpoolInit d a b st
  | .trpoolParam _ d a b => Sys2Proof.Machine.execTrpoolParam d a b st
  | .qbgate _ d a b n k => Sys2Proof.Machine.execQbgate d a b n k st
  | .qbdiag _ d a b n k => Sys2Proof.Machine.execQbdiag d a b n k st
  | .qbmap _ d a b => Sys2Proof.Machine.execQbmap d a b st
  | .qbmapSet _ d b => Sys2Proof.Machine.execQbmapSet d b st
  | .qbmapGet _ d b => Sys2Proof.Machine.execQbmapGet d b st
  | .qbmapEnd _ d => Sys2Proof.Machine.execQbmapEnd d st
  | .qbswap _ d a => Sys2Proof.Machine.execQbswap d a st
  | .qbnorm _ d b => Sys2Proof.Machine.execQbnorm d b st
  | .qbprob _ d a b => Sys2Proof.Machine.execQbprob d a b st
  | .qbcoll _ d a b => Sys2Proof.Machine.execQbcoll d a b st
  | .twait _ a => Sys2Proof.Machine.execTwait a st
  | .twaitCh _ c => Sys2Proof.Machine.execTwaitCh c st
  | .tstat _ d a => Sys2Proof.Machine.execTstat d a st
  | .tstatLog _ d c => Sys2Proof.Machine.execTstatLog d c st
  | .waitc _ a i k => Sys2Proof.Machine.execWaitc a i k st
  | .barinit _ a b => Sys2Proof.Machine.execBarinit a b st
  | .bararr _ d a => Sys2Proof.Machine.execBararr d a st
  | .barexp _ d a b => Sys2Proof.Machine.execBarexp d a b st
  | .barwait _ d a b => Sys2Proof.Machine.execBarwait d a b st
  | .bartry _ p a b => Sys2Proof.Machine.execBartry p a b st
  | .trigat _ d a b => Sys2Proof.Machine.execTrigat d a b st
  | .trigcnt _ d a b => Sys2Proof.Machine.execTrigcnt d a b st
  | .trigcan _ d a => Sys2Proof.Machine.execTrigcan d a st
  | .qdepth _ n => Sys2Proof.Machine.execQdepth n st
  | .qdepthX _ a => Sys2Proof.Machine.execQdepthX a st
  | .qstat _ d n => Sys2Proof.Machine.execQstat d n st
  | .qmode _ a => Sys2Proof.Machine.execQmode a st
  | .qmodei _ m => Sys2Proof.Machine.execQmodei m st
  | .steal thief victim => Sys2Proof.Machine.execSteal thief victim st
  | .stealRetry ctx => Sys2Proof.Machine.execStealRetry ctx st
  | .columnDispatch col => Sys2Proof.Machine.execColumnDispatch col st
  | .taskAging launch task => Sys2Proof.Machine.execTaskAging launch task st
  | .preemptRequest p => Sys2Proof.Machine.execPreemptRequest p st
  | .forcedSave ctx => Sys2Proof.Machine.execForcedSave ctx st
  | .saveComplete ctx => Sys2Proof.Machine.execSaveComplete ctx st
  | .tagTimeout ctx => Sys2Proof.Machine.execTagTimeout ctx st
  | .transComplete ctx n => Sys2Proof.Machine.execTransComplete ctx n st
  | .replayDepart core n => Sys2Proof.Machine.execReplayDepart core n st
  | .nestComplete n => Sys2Proof.Machine.execNestComplete n st
  | .mergeOpen slice => Sys2Proof.Machine.execMergeOpen slice st
  | .mergeContribute slice => Sys2Proof.Machine.execMergeContribute slice st
  | .mergeClose slice => Sys2Proof.Machine.execMergeClose slice st
  | .mergeResend n => Sys2Proof.Machine.execMergeResend n st
  | .charmRun n => Sys2Proof.Machine.execCharmRun n st
  | .charmTimeout n => Sys2Proof.Machine.execCharmTimeout n st
  | .shootdown v => Sys2Proof.Machine.execShootdown v st
  | .shootdownComplete => Sys2Proof.Machine.execShootdownComplete st
  | .cowCopy asid page => Sys2Proof.Machine.execCowCopy asid page st
  | .cowCopyComplete asid page => Sys2Proof.Machine.execCowCopyComplete asid page st
  | .snapReturn v => Sys2Proof.Machine.execSnapReturn v st
  | .snapLogTailWrite v => Sys2Proof.Machine.execSnapLogTailWrite v st
  | .snapLogBaseWrite v => Sys2Proof.Machine.execSnapLogBaseWrite v st
  | .snapPoolPagesWrite v => Sys2Proof.Machine.execSnapPoolPagesWrite v st
  | .softErrorCorrected site => Sys2Proof.Machine.execSoftErrorCorrected site st
  | .softErrorUncorrected site => Sys2Proof.Machine.execSoftErrorUncorrected site st
  | .hostMemAccess write block data psn => Sys2Proof.Machine.execHostMemAccess write block data psn st
  | .tceCommandStart n => Sys2Proof.Machine.execTceCommandStart n st
  | .sendChannelStart n => Sys2Proof.Machine.execSendChannelStart n st
  | .commandFinish n => Sys2Proof.Machine.execCommandFinish n st
  | .batchTimeout n => Sys2Proof.Machine.execBatchTimeout n st
  | .reserveSlot n => Sys2Proof.Machine.execReserveSlot n st
  | .endOfWalk n => Sys2Proof.Machine.execEndOfWalk n st
  | .zhoaskFetch q entry => Sys2Proof.Machine.execZhoaskFetch q entry st
  | .cpCommandStart n => Sys2Proof.Machine.execCpCommandStart n st
  | .cpCommandComplete n => Sys2Proof.Machine.execCpCommandComplete n st
  | .launch n => Sys2Proof.Machine.execLaunch n st
  | .cpCopy n => Sys2Proof.Machine.execCpCopy n st
  | .signal n => Sys2Proof.Machine.execSignal n st
  | .wait n => Sys2Proof.Machine.execWait n st
  | .waitPoll n => Sys2Proof.Machine.execWaitPoll n st
  | .snap n => Sys2Proof.Machine.execSnap n st
  | .cpCodeswap n => Sys2Proof.Machine.execCpCodeswap n st
  | .codeswapCompletion n => Sys2Proof.Machine.execCodeswapCompletion n st
  | .tableWrite n => Sys2Proof.Machine.execTableWrite n st
  | .tableArm n => Sys2Proof.Machine.execTableArm n st
  | .tableSwitch => Sys2Proof.Machine.execTableSwitch st
  | .launchComplete launch => Sys2Proof.Machine.execLaunchComplete launch st
  | .slotStart bulk => Sys2Proof.Machine.execSlotStart bulk st
  | .flitReceive flit nbr port cls => Sys2Proof.Machine.execFlitReceive flit nbr port cls st
  | .ack flit nbr port cls => Sys2Proof.Machine.execAck flit nbr port cls st
  | .sync flit nbr port cls => Sys2Proof.Machine.execSync flit nbr port cls st
  | .hold src => Sys2Proof.Machine.execHold src st
  | .read src => Sys2Proof.Machine.execRead src st
  | .write src => Sys2Proof.Machine.execWrite src st
  | .wblk src => Sys2Proof.Machine.execWblk src st
  | .rblk src => Sys2Proof.Machine.execRblk src st
  | .atom src => Sys2Proof.Machine.execAtom src st
  | .charm src => Sys2Proof.Machine.execCharm src st
  | .fifo src => Sys2Proof.Machine.execFifo src st
  | .resp src => Sys2Proof.Machine.execResp src st
  | .done src => Sys2Proof.Machine.execDone src st
  | .refuse src => Sys2Proof.Machine.execRefuse src st
  | .flushRecord src => Sys2Proof.Machine.execFlushRecord src st
  | .claspOpen src => Sys2Proof.Machine.execClaspOpen src st
  | .claspClose src => Sys2Proof.Machine.execClaspClose src st
  | .claspCommitted src => Sys2Proof.Machine.execClaspCommitted src st
  | .claspAbort far n => Sys2Proof.Machine.execClaspAbort far n st
  | .claspStatusQuery src => Sys2Proof.Machine.execClaspStatusQuery src st
  | .collStart src => Sys2Proof.Machine.execCollStart src st
  | .collAbort src => Sys2Proof.Machine.execCollAbort src st
  | .collFinished src => Sys2Proof.Machine.execCollFinished src st
  | .collData src => Sys2Proof.Machine.execCollData src st
  | .retransmitTimeout p => Sys2Proof.Machine.execRetransmitTimeout p st
  | .ackTimer p => Sys2Proof.Machine.execAckTimer p st
  | .e2eTimeout n => Sys2Proof.Machine.execE2eTimeout n st
  | .retryResend n => Sys2Proof.Machine.execRetryResend n st
  | .holdTimer n src => Sys2Proof.Machine.execHoldTimer n src st
  | .collTimeout n => Sys2Proof.Machine.execCollTimeout n st
  | .lineWeak port line => Sys2Proof.Machine.execLineWeak port line st
  | .lineDrift port line => Sys2Proof.Machine.execLineDrift port line st
  | .lineLost port line => Sys2Proof.Machine.execLineLost port line st
  | .combLost port => Sys2Proof.Machine.execCombLost port st
  | .syncLost => Sys2Proof.Machine.execSyncLost st
  | .syncRestored => Sys2Proof.Machine.execSyncRestored st
  | .retuneComplete port line => Sys2Proof.Machine.execRetuneComplete port line st
  | .portRequalify port => Sys2Proof.Machine.execPortRequalify port st
  | .ofuEventRead => Sys2Proof.Machine.execOfuEventRead st
  | .ofuCredSelWrite v => Sys2Proof.Machine.execOfuCredSelWrite v st
  | .ageCommandStart n => Sys2Proof.Machine.execAgeCommandStart n st
  | .triggerFire => Sys2Proof.Machine.execTriggerFire st
  | .barrierSubtract => Sys2Proof.Machine.execBarrierSubtract st
  | .gtStep amount => Sys2Proof.Machine.execGtStep amount st
  | .asyncFaultDelivery ctx => Sys2Proof.Machine.execAsyncFaultDelivery ctx st
  | .pfRequestWrite ctx => Sys2Proof.Machine.execPfRequestWrite ctx st
  | .pfAnswer v => Sys2Proof.Machine.execPfAnswer v st
  | .fltKill v => Sys2Proof.Machine.execFltKill v st
  | .dbgAttach v => Sys2Proof.Machine.execDbgAttach v st
  | .dbgHalt v => Sys2Proof.Machine.execDbgHalt v st
  | .dbgStep v => Sys2Proof.Machine.execDbgStep v st
  | .dbgRelease v => Sys2Proof.Machine.execDbgRelease v st
  | .dbgRegRead v => Sys2Proof.Machine.execDbgRegRead v st
  | .dbgRegWrite v => Sys2Proof.Machine.execDbgRegWrite v st
  | .coldReset => Sys2Proof.Machine.execColdReset st
  | .bootPeerWrite v => Sys2Proof.Machine.execBootPeerWrite v st
  | .initComplete => Sys2Proof.Machine.execInitComplete st
  | .recoveryGo v => Sys2Proof.Machine.execRecoveryGo v st
  | .flashUpdateComplete result => Sys2Proof.Machine.execFlashUpdateComplete result st
  | .sigCmd v => Sys2Proof.Machine.execSigCmd v st
  | .marginWarning col => Sys2Proof.Machine.execMarginWarning col st
  | .arbiterInterval draws temps => Sys2Proof.Machine.execArbiterInterval draws temps st
  | .pwrEventRead => Sys2Proof.Machine.execPwrEventRead st
  | .packagePowerClamp => Sys2Proof.Machine.execPackagePowerClamp st
  | .packagePowerRelease => Sys2Proof.Machine.execPackagePowerRelease st
  | .thermalTrip => Sys2Proof.Machine.execThermalTrip st
  | .registerWrite off v => Sys2Proof.Machine.execRegisterWrite off v st
  | .steCommandStart n => Sys2Proof.Machine.execSteCommandStart n st
  | .bangleCollStart n => Sys2Proof.Machine.execBangleCollStart n st
  | .hostLinkCompletion n err data => Sys2Proof.Machine.execHostLinkCompletion n err data st
  | .powerLoss => Sys2Proof.Machine.execPowerLoss st

end Sys2Proof.Machine
end

