-- ==== Sys2Proof/Machine/RunWord.lean ====
section
/-! DEFINITION. What the machine does with a slot word: the facts of the instruction it decodes to, its meaning, and the
target of a taken transfer. The table at the end says the same row by row, for the compiler, and is proved equal. -/
namespace Sys2Proof.Machine

/-- The address a transfer goes to when it is taken, as the issue of its bundle knows it (R82, R135, R136). LOOPS knows it
when its FIFO does (R137). -/
@[inline] def targetOf (i : Instr) (st : State) : Option Word64 :=
  match i with
  | .br _ o => some (st.rel o)
  | .bri _ _ a i => if (st.old.rx a.toNat).psn then none else some ((st.old.rx a.toNat).v + st.immS i)
  | .call _ o => some (st.rel o)
  | .ret _ a => if (st.old.rx a.toNat).psn then none else some (st.old.rx a.toNat).v
  | .loop _ o => if st.old.loops then some (st.rel o) else none
  | .brzm _ o => if st.old.noLane then some (st.rel o) else none
  | .brnzm _ o => if st.old.noLane then none else some (st.rel o)
  | .loops _ f _ o =>
    let l := st.old.rf f.toNat
    if l.valid && ((st.fifos.get [] l.endp.toNat).head?.any fun w => !w.2) then some (st.rel o) else none
  | _ => none

/-- The facts, the meaning and the target of an instruction. -/
structure SlotView where
  wf : Bool
  info : SlotInfo
  run : State → Host.Outcome State Fault Refusal
  target : State → Option Word64
@[inline] def viewOf (i : Instr) : SlotView := ⟨i.wf, i.slotInfo, exec i, targetOf i⟩

/-- The view of the row that the fields select. -/
noncomputable def viewRow (x : Fields) : Option SlotView := (decodeRow x).map viewOf

def viewMajor00 (x : Fields) : Option SlotView :=
  if x.d = 0 ∧ x.a = 0 ∧ x.b = 0 ∧ x.f = 0 then some ⟨Instr.wf (.nop x.s), Instr.slotInfo (.nop x.s), fun st => execNop st, fun _ => none⟩
  else none
theorem viewMajor00_eq (x : Fields) : (decodeMajor00 x).map viewOf = viewMajor00 x := by
  unfold viewMajor00 decodeMajor00
  simp only [apply_ite (Option.map viewOf), Option.map_some, Option.map_none]
  rfl
def viewMajor01 (x : Fields) : Option SlotView :=
  some ⟨Instr.wf (.limm x.s (x.d ++ x.a ++ x.b ++ x.f)), Instr.slotInfo (.limm x.s (x.d ++ x.a ++ x.b ++ x.f)), fun st => execLimm st, fun _ => none⟩
theorem viewMajor01_eq (x : Fields) : (decodeMajor01 x).map viewOf = viewMajor01 x := by
  unfold viewMajor01 decodeMajor01
  rfl
def viewMajor02 (x : Fields) : Option SlotView :=
  if x.b.extractLsb' 0 3 = 0 ∧ x.f = 0 then some ⟨Instr.wf (.pguard x.s (x.d ++ x.a.extractLsb' 5 1) (x.a.getLsbD 4) (x.a.extractLsb' 0 4 ++ x.b.extractLsb' 3 3)), Instr.slotInfo (.pguard x.s (x.d ++ x.a.extractLsb' 5 1) (x.a.getLsbD 4) (x.a.extractLsb' 0 4 ++ x.b.extractLsb' 3 3)), fun st => execPguard st, fun _ => none⟩
  else none
theorem viewMajor02_eq (x : Fields) : (decodeMajor02 x).map viewOf = viewMajor02 x := by
  unfold viewMajor02 decodeMajor02
  simp only [apply_ite (Option.map viewOf), Option.map_some, Option.map_none]
  rfl
def viewMajor03 (x : Fields) : Option SlotView :=
  if x.f = 0 then some ⟨Instr.wf (.deps x.s (x.d.extractLsb' 1 5) (x.d.extractLsb' 0 1 ++ x.a.extractLsb' 2 4) (x.a.extractLsb' 0 2 ++ x.b.extractLsb' 3 3) (x.b.extractLsb' 0 3)), Instr.slotInfo (.deps x.s (x.d.extractLsb' 1 5) (x.d.extractLsb' 0 1 ++ x.a.extractLsb' 2 4) (x.a.extractLsb' 0 2 ++ x.b.extractLsb' 3 3) (x.b.extractLsb' 0 3)), fun st => execDeps st, fun _ => none⟩
  else none
theorem viewMajor03_eq (x : Fields) : (decodeMajor03 x).map viewOf = viewMajor03 x := by
  unfold viewMajor03 decodeMajor03
  simp only [apply_ite (Option.map viewOf), Option.map_some, Option.map_none]
  rfl
def viewMajor10 (x : Fields) : Option SlotView :=
  if x.f = 0 then some ⟨Instr.wf (.add x.s x.d x.a x.b), Instr.slotInfo (.add x.s x.d x.a x.b), fun st => execAdd x.d x.a x.b st, fun _ => none⟩
  else if x.f = 1 then some ⟨Instr.wf (.addS32 x.s x.d x.a x.b), Instr.slotInfo (.addS32 x.s x.d x.a x.b), fun st => execAddS32 x.d x.a x.b st, fun _ => none⟩
  else if x.f = 2 then some ⟨Instr.wf (.addZ32 x.s x.d x.a x.b), Instr.slotInfo (.addZ32 x.s x.d x.a x.b), fun st => execAddZ32 x.d x.a x.b st, fun _ => none⟩
  else if x.f = 4 then some ⟨Instr.wf (.addSatS64 x.s x.d x.a x.b), Instr.slotInfo (.addSatS64 x.s x.d x.a x.b), fun st => execAddSatS64 x.d x.a x.b st, fun _ => none⟩
  else if x.f = 5 then some ⟨Instr.wf (.addSatZ64 x.s x.d x.a x.b), Instr.slotInfo (.addSatZ64 x.s x.d x.a x.b), fun st => execAddSatZ64 x.d x.a x.b st, fun _ => none⟩
  else if x.f = 6 then some ⟨Instr.wf (.addSatS32 x.s x.d x.a x.b), Instr.slotInfo (.addSatS32 x.s x.d x.a x.b), fun st => execAddSatS32 x.d x.a x.b st, fun _ => none⟩
  else if x.f = 7 then some ⟨Instr.wf (.addSatZ32 x.s x.d x.a x.b), Instr.slotInfo (.addSatZ32 x.s x.d x.a x.b), fun st => execAddSatZ32 x.d x.a x.b st, fun _ => none⟩
  else none
theorem viewMajor10_eq (x : Fields) : (decodeMajor10 x).map viewOf = viewMajor10 x := by
  unfold viewMajor10 decodeMajor10
  simp only [apply_ite (Option.map viewOf), Option.map_some, Option.map_none]
  rfl
def viewMajor11 (x : Fields) : Option SlotView :=
  if x.f = 0 then some ⟨Instr.wf (.sub x.s x.d x.a x.b), Instr.slotInfo (.sub x.s x.d x.a x.b), fun st => execSub x.d x.a x.b st, fun _ => none⟩
  else if x.f = 1 then some ⟨Instr.wf (.subS32 x.s x.d x.a x.b), Instr.slotInfo (.subS32 x.s x.d x.a x.b), fun st => execSubS32 x.d x.a x.b st, fun _ => none⟩
  else if x.f = 2 then some ⟨Instr.wf (.subZ32 x.s x.d x.a x.b), Instr.slotInfo (.subZ32 x.s x.d x.a x.b), fun st => execSubZ32 x.d x.a x.b st, fun _ => none⟩
  else if x.f = 4 then some ⟨Instr.wf (.subSatS64 x.s x.d x.a x.b), Instr.slotInfo (.subSatS64 x.s x.d x.a x.b), fun st => execSubSatS64 x.d x.a x.b st, fun _ => none⟩
  else if x.f = 5 then some ⟨Instr.wf (.subSatZ64 x.s x.d x.a x.b), Instr.slotInfo (.subSatZ64 x.s x.d x.a x.b), fun st => execSubSatZ64 x.d x.a x.b st, fun _ => none⟩
  else if x.f = 6 then some ⟨Instr.wf (.subSatS32 x.s x.d x.a x.b), Instr.slotInfo (.subSatS32 x.s x.d x.a x.b), fun st => execSubSatS32 x.d x.a x.b st, fun _ => none⟩
  else if x.f = 7 then some ⟨Instr.wf (.subSatZ32 x.s x.d x.a x.b), Instr.slotInfo (.subSatZ32 x.s x.d x.a x.b), fun st => execSubSatZ32 x.d x.a x.b st, fun _ => none⟩
  else none
theorem viewMajor11_eq (x : Fields) : (decodeMajor11 x).map viewOf = viewMajor11 x := by
  unfold viewMajor11 decodeMajor11
  simp only [apply_ite (Option.map viewOf), Option.map_some, Option.map_none]
  rfl
def viewMajor12 (x : Fields) : Option SlotView :=
  some ⟨Instr.wf (.addi x.s x.d x.a (x.b ++ x.f)), Instr.slotInfo (.addi x.s x.d x.a (x.b ++ x.f)), fun st => execAddi x.d x.a (x.b ++ x.f) st, fun _ => none⟩
theorem viewMajor12_eq (x : Fields) : (decodeMajor12 x).map viewOf = viewMajor12 x := by
  unfold viewMajor12 decodeMajor12
  rfl
def viewMajor13 (x : Fields) : Option SlotView :=
  if x.f = 0 then some ⟨Instr.wf (.mul x.s x.d x.a x.b), Instr.slotInfo (.mul x.s x.d x.a x.b), fun st => execMul x.d x.a x.b st, fun _ => none⟩
  else if x.f = 1 then some ⟨Instr.wf (.mulhS64 x.s x.d x.a x.b), Instr.slotInfo (.mulhS64 x.s x.d x.a x.b), fun st => execMulhS64 x.d x.a x.b st, fun _ => none⟩
  else if x.f = 2 then some ⟨Instr.wf (.mulhZ64 x.s x.d x.a x.b), Instr.slotInfo (.mulhZ64 x.s x.d x.a x.b), fun st => execMulhZ64 x.d x.a x.b st, fun _ => none⟩
  else if x.f = 3 then some ⟨Instr.wf (.mulS32 x.s x.d x.a x.b), Instr.slotInfo (.mulS32 x.s x.d x.a x.b), fun st => execMulS32 x.d x.a x.b st, fun _ => none⟩
  else if x.f = 4 then some ⟨Instr.wf (.mulZ32 x.s x.d x.a x.b), Instr.slotInfo (.mulZ32 x.s x.d x.a x.b), fun st => execMulZ32 x.d x.a x.b st, fun _ => none⟩
  else if x.f = 8 then some ⟨Instr.wf (.mla x.s x.d x.a x.b), Instr.slotInfo (.mla x.s x.d x.a x.b), fun st => execMla x.d x.a x.b st, fun _ => none⟩
  else none
theorem viewMajor13_eq (x : Fields) : (decodeMajor13 x).map viewOf = viewMajor13 x := by
  unfold viewMajor13 decodeMajor13
  simp only [apply_ite (Option.map viewOf), Option.map_some, Option.map_none]
  rfl
def viewMajor14 (x : Fields) : Option SlotView :=
  if x.f = 0 then some ⟨Instr.wf (.divS64 x.s x.d x.a x.b), Instr.slotInfo (.divS64 x.s x.d x.a x.b), fun st => execDivS64 x.d x.a x.b st, fun _ => none⟩
  else if x.f = 1 then some ⟨Instr.wf (.divZ64 x.s x.d x.a x.b), Instr.slotInfo (.divZ64 x.s x.d x.a x.b), fun st => execDivZ64 x.d x.a x.b st, fun _ => none⟩
  else if x.f = 2 then some ⟨Instr.wf (.remS64 x.s x.d x.a x.b), Instr.slotInfo (.remS64 x.s x.d x.a x.b), fun st => execRemS64 x.d x.a x.b st, fun _ => none⟩
  else if x.f = 3 then some ⟨Instr.wf (.remZ64 x.s x.d x.a x.b), Instr.slotInfo (.remZ64 x.s x.d x.a x.b), fun st => execRemZ64 x.d x.a x.b st, fun _ => none⟩
  else if x.f = 4 then some ⟨Instr.wf (.divS32 x.s x.d x.a x.b), Instr.slotInfo (.divS32 x.s x.d x.a x.b), fun st => execDivS32 x.d x.a x.b st, fun _ => none⟩
  else if x.f = 5 then some ⟨Instr.wf (.divZ32 x.s x.d x.a x.b), Instr.slotInfo (.divZ32 x.s x.d x.a x.b), fun st => execDivZ32 x.d x.a x.b st, fun _ => none⟩
  else if x.f = 6 then some ⟨Instr.wf (.remS32 x.s x.d x.a x.b), Instr.slotInfo (.remS32 x.s x.d x.a x.b), fun st => execRemS32 x.d x.a x.b st, fun _ => none⟩
  else if x.f = 7 then some ⟨Instr.wf (.remZ32 x.s x.d x.a x.b), Instr.slotInfo (.remZ32 x.s x.d x.a x.b), fun st => execRemZ32 x.d x.a x.b st, fun _ => none⟩
  else none
theorem viewMajor14_eq (x : Fields) : (decodeMajor14 x).map viewOf = viewMajor14 x := by
  unfold viewMajor14 decodeMajor14
  simp only [apply_ite (Option.map viewOf), Option.map_some, Option.map_none]
  rfl
def viewMajor15 (x : Fields) : Option SlotView :=
  if x.f = 0 then some ⟨Instr.wf (.and x.s x.d x.a x.b), Instr.slotInfo (.and x.s x.d x.a x.b), fun st => execAnd x.d x.a x.b st, fun _ => none⟩
  else if x.f = 1 then some ⟨Instr.wf (.or x.s x.d x.a x.b), Instr.slotInfo (.or x.s x.d x.a x.b), fun st => execOr x.d x.a x.b st, fun _ => none⟩
  else if x.f = 2 then some ⟨Instr.wf (.xor x.s x.d x.a x.b), Instr.slotInfo (.xor x.s x.d x.a x.b), fun st => execXor x.d x.a x.b st, fun _ => none⟩
  else if x.f = 3 then some ⟨Instr.wf (.andn x.s x.d x.a x.b), Instr.slotInfo (.andn x.s x.d x.a x.b), fun st => execAndn x.d x.a x.b st, fun _ => none⟩
  else if x.f = 4 then some ⟨Instr.wf (.orn x.s x.d x.a x.b), Instr.slotInfo (.orn x.s x.d x.a x.b), fun st => execOrn x.d x.a x.b st, fun _ => none⟩
  else if x.f = 5 then some ⟨Instr.wf (.xnor x.s x.d x.a x.b), Instr.slotInfo (.xnor x.s x.d x.a x.b), fun st => execXnor x.d x.a x.b st, fun _ => none⟩
  else if x.f = 6 then some ⟨Instr.wf (.nand x.s x.d x.a x.b), Instr.slotInfo (.nand x.s x.d x.a x.b), fun st => execNand x.d x.a x.b st, fun _ => none⟩
  else if x.f = 7 then some ⟨Instr.wf (.nor x.s x.d x.a x.b), Instr.slotInfo (.nor x.s x.d x.a x.b), fun st => execNor x.d x.a x.b st, fun _ => none⟩
  else if x.f = 32 then some ⟨Instr.wf (.andi x.s x.d x.a x.b), Instr.slotInfo (.andi x.s x.d x.a x.b), fun st => execAndi x.d x.a x.b st, fun _ => none⟩
  else if x.f = 33 then some ⟨Instr.wf (.ori x.s x.d x.a x.b), Instr.slotInfo (.ori x.s x.d x.a x.b), fun st => execOri x.d x.a x.b st, fun _ => none⟩
  else if x.f = 34 then some ⟨Instr.wf (.xori x.s x.d x.a x.b), Instr.slotInfo (.xori x.s x.d x.a x.b), fun st => execXori x.d x.a x.b st, fun _ => none⟩
  else if x.f = 35 then some ⟨Instr.wf (.andni x.s x.d x.a x.b), Instr.slotInfo (.andni x.s x.d x.a x.b), fun st => execAndni x.d x.a x.b st, fun _ => none⟩
  else if x.f = 36 then some ⟨Instr.wf (.orni x.s x.d x.a x.b), Instr.slotInfo (.orni x.s x.d x.a x.b), fun st => execOrni x.d x.a x.b st, fun _ => none⟩
  else if x.f = 37 then some ⟨Instr.wf (.xnori x.s x.d x.a x.b), Instr.slotInfo (.xnori x.s x.d x.a x.b), fun st => execXnori x.d x.a x.b st, fun _ => none⟩
  else if x.f = 38 then some ⟨Instr.wf (.nandi x.s x.d x.a x.b), Instr.slotInfo (.nandi x.s x.d x.a x.b), fun st => execNandi x.d x.a x.b st, fun _ => none⟩
  else if x.f = 39 then some ⟨Instr.wf (.nori x.s x.d x.a x.b), Instr.slotInfo (.nori x.s x.d x.a x.b), fun st => execNori x.d x.a x.b st, fun _ => none⟩
  else none
theorem viewMajor15_eq (x : Fields) : (decodeMajor15 x).map viewOf = viewMajor15 x := by
  unfold viewMajor15 decodeMajor15
  simp only [apply_ite (Option.map viewOf), Option.map_some, Option.map_none]
  rfl
def viewMajor16 (x : Fields) : Option SlotView :=
  if x.f.extractLsb' 4 2 = 0 ∧ x.f.extractLsb' 0 3 = 0 then some ⟨Instr.wf (.shl x.s x.d x.a x.b (x.f.getLsbD 3)), Instr.slotInfo (.shl x.s x.d x.a x.b (x.f.getLsbD 3)), fun st => execShl x.d x.a x.b (x.f.getLsbD 3) st, fun _ => none⟩
  else if x.f.extractLsb' 4 2 = 0 ∧ x.f.extractLsb' 0 3 = 1 then some ⟨Instr.wf (.shr x.s x.d x.a x.b (x.f.getLsbD 3)), Instr.slotInfo (.shr x.s x.d x.a x.b (x.f.getLsbD 3)), fun st => execShr x.d x.a x.b (x.f.getLsbD 3) st, fun _ => none⟩
  else if x.f.extractLsb' 4 2 = 0 ∧ x.f.extractLsb' 0 3 = 2 then some ⟨Instr.wf (.sar x.s x.d x.a x.b (x.f.getLsbD 3)), Instr.slotInfo (.sar x.s x.d x.a x.b (x.f.getLsbD 3)), fun st => execSar x.d x.a x.b (x.f.getLsbD 3) st, fun _ => none⟩
  else if x.f.extractLsb' 4 2 = 0 ∧ x.f.extractLsb' 0 3 = 3 then some ⟨Instr.wf (.rol x.s x.d x.a x.b (x.f.getLsbD 3)), Instr.slotInfo (.rol x.s x.d x.a x.b (x.f.getLsbD 3)), fun st => execRol x.d x.a x.b (x.f.getLsbD 3) st, fun _ => none⟩
  else if x.f.extractLsb' 4 2 = 0 ∧ x.f.extractLsb' 0 3 = 4 then some ⟨Instr.wf (.ror x.s x.d x.a x.b (x.f.getLsbD 3)), Instr.slotInfo (.ror x.s x.d x.a x.b (x.f.getLsbD 3)), fun st => execRor x.d x.a x.b (x.f.getLsbD 3) st, fun _ => none⟩
  else if x.f.extractLsb' 4 2 = 2 ∧ x.f.extractLsb' 0 3 = 0 then some ⟨Instr.wf (.shli x.s x.d x.a x.b (x.f.getLsbD 3)), Instr.slotInfo (.shli x.s x.d x.a x.b (x.f.getLsbD 3)), fun st => execShli x.d x.a x.b (x.f.getLsbD 3) st, fun _ => none⟩
  else if x.f.extractLsb' 4 2 = 2 ∧ x.f.extractLsb' 0 3 = 1 then some ⟨Instr.wf (.shri x.s x.d x.a x.b (x.f.getLsbD 3)), Instr.slotInfo (.shri x.s x.d x.a x.b (x.f.getLsbD 3)), fun st => execShri x.d x.a x.b (x.f.getLsbD 3) st, fun _ => none⟩
  else if x.f.extractLsb' 4 2 = 2 ∧ x.f.extractLsb' 0 3 = 2 then some ⟨Instr.wf (.sari x.s x.d x.a x.b (x.f.getLsbD 3)), Instr.slotInfo (.sari x.s x.d x.a x.b (x.f.getLsbD 3)), fun st => execSari x.d x.a x.b (x.f.getLsbD 3) st, fun _ => none⟩
  else if x.f.extractLsb' 4 2 = 2 ∧ x.f.extractLsb' 0 3 = 3 then some ⟨Instr.wf (.roli x.s x.d x.a x.b (x.f.getLsbD 3)), Instr.slotInfo (.roli x.s x.d x.a x.b (x.f.getLsbD 3)), fun st => execRoli x.d x.a x.b (x.f.getLsbD 3) st, fun _ => none⟩
  else if x.f.extractLsb' 4 2 = 2 ∧ x.f.extractLsb' 0 3 = 4 then some ⟨Instr.wf (.rori x.s x.d x.a x.b (x.f.getLsbD 3)), Instr.slotInfo (.rori x.s x.d x.a x.b (x.f.getLsbD 3)), fun st => execRori x.d x.a x.b (x.f.getLsbD 3) st, fun _ => none⟩
  else none
theorem viewMajor16_eq (x : Fields) : (decodeMajor16 x).map viewOf = viewMajor16 x := by
  unfold viewMajor16 decodeMajor16
  simp only [apply_ite (Option.map viewOf), Option.map_some, Option.map_none]
  rfl
def viewMajor17 (x : Fields) : Option SlotView :=
  if x.b = 0 ∧ x.f = 0 then some ⟨Instr.wf (.clz x.s x.d x.a), Instr.slotInfo (.clz x.s x.d x.a), fun st => execClz x.d x.a st, fun _ => none⟩
  else if x.b = 0 ∧ x.f = 1 then some ⟨Instr.wf (.ctz x.s x.d x.a), Instr.slotInfo (.ctz x.s x.d x.a), fun st => execCtz x.d x.a st, fun _ => none⟩
  else if x.b = 0 ∧ x.f = 2 then some ⟨Instr.wf (.popc x.s x.d x.a), Instr.slotInfo (.popc x.s x.d x.a), fun st => execPopc x.d x.a st, fun _ => none⟩
  else if x.b = 0 ∧ x.f = 3 then some ⟨Instr.wf (.brev x.s x.d x.a), Instr.slotInfo (.brev x.s x.d x.a), fun st => execBrev x.d x.a st, fun _ => none⟩
  else if x.b = 0 ∧ x.f = 4 then some ⟨Instr.wf (.bswap x.s x.d x.a), Instr.slotInfo (.bswap x.s x.d x.a), fun st => execBswap x.d x.a st, fun _ => none⟩
  else none
theorem viewMajor17_eq (x : Fields) : (decodeMajor17 x).map viewOf = viewMajor17 x := by
  unfold viewMajor17 decodeMajor17
  simp only [apply_ite (Option.map viewOf), Option.map_some, Option.map_none]
  rfl
def viewMajor18 (x : Fields) : Option SlotView :=
  if x.f = 0 then some ⟨Instr.wf (.minS64 x.s x.d x.a x.b), Instr.slotInfo (.minS64 x.s x.d x.a x.b), fun st => execMinS64 x.d x.a x.b st, fun _ => none⟩
  else if x.f = 1 then some ⟨Instr.wf (.maxS64 x.s x.d x.a x.b), Instr.slotInfo (.maxS64 x.s x.d x.a x.b), fun st => execMaxS64 x.d x.a x.b st, fun _ => none⟩
  else if x.f = 2 then some ⟨Instr.wf (.minZ64 x.s x.d x.a x.b), Instr.slotInfo (.minZ64 x.s x.d x.a x.b), fun st => execMinZ64 x.d x.a x.b st, fun _ => none⟩
  else if x.f = 3 then some ⟨Instr.wf (.maxZ64 x.s x.d x.a x.b), Instr.slotInfo (.maxZ64 x.s x.d x.a x.b), fun st => execMaxZ64 x.d x.a x.b st, fun _ => none⟩
  else none
theorem viewMajor18_eq (x : Fields) : (decodeMajor18 x).map viewOf = viewMajor18 x := by
  unfold viewMajor18 decodeMajor18
  simp only [apply_ite (Option.map viewOf), Option.map_some, Option.map_none]
  rfl
def viewMajor19 (x : Fields) : Option SlotView :=
  some ⟨Instr.wf (.bfx x.s x.d x.a x.b x.f), Instr.slotInfo (.bfx x.s x.d x.a x.b x.f), fun st => execBfx x.d x.a x.b x.f st, fun _ => none⟩
theorem viewMajor19_eq (x : Fields) : (decodeMajor19 x).map viewOf = viewMajor19 x := by
  unfold viewMajor19 decodeMajor19
  rfl
def viewMajor1A (x : Fields) : Option SlotView :=
  some ⟨Instr.wf (.bfi x.s x.d x.a x.b x.f), Instr.slotInfo (.bfi x.s x.d x.a x.b x.f), fun st => execBfi x.d x.a x.b x.f st, fun _ => none⟩
theorem viewMajor1A_eq (x : Fields) : (decodeMajor1A x).map viewOf = viewMajor1A x := by
  unfold viewMajor1A decodeMajor1A
  rfl
def viewMajor1B (x : Fields) : Option SlotView :=
  if x.b = 0 then some ⟨Instr.wf (.extZ x.s x.d x.a x.f), Instr.slotInfo (.extZ x.s x.d x.a x.f), fun st => execExtZ x.d x.a x.f st, fun _ => none⟩
  else if x.b = 1 then some ⟨Instr.wf (.extS x.s x.d x.a x.f), Instr.slotInfo (.extS x.s x.d x.a x.f), fun st => execExtS x.d x.a x.f st, fun _ => none⟩
  else none
theorem viewMajor1B_eq (x : Fields) : (decodeMajor1B x).map viewOf = viewMajor1B x := by
  unfold viewMajor1B decodeMajor1B
  simp only [apply_ite (Option.map viewOf), Option.map_some, Option.map_none]
  rfl
def viewMajor1C (x : Fields) : Option SlotView :=
  if x.f.extractLsb' 3 2 = 0 then some ⟨Instr.wf (.cmp x.s (x.f.extractLsb' 5 1 ++ x.d) x.a x.b (x.f.extractLsb' 0 3)), Instr.slotInfo (.cmp x.s (x.f.extractLsb' 5 1 ++ x.d) x.a x.b (x.f.extractLsb' 0 3)), fun st => execCmp (x.f.extractLsb' 5 1 ++ x.d) x.a x.b (x.f.extractLsb' 0 3) st, fun _ => none⟩
  else none
theorem viewMajor1C_eq (x : Fields) : (decodeMajor1C x).map viewOf = viewMajor1C x := by
  unfold viewMajor1C decodeMajor1C
  simp only [apply_ite (Option.map viewOf), Option.map_some, Option.map_none]
  rfl
def viewMajor1D (x : Fields) : Option SlotView :=
  if x.f.extractLsb' 3 2 = 0 then some ⟨Instr.wf (.cmpi x.s (x.f.extractLsb' 5 1 ++ x.d) x.a x.b (x.f.extractLsb' 0 3)), Instr.slotInfo (.cmpi x.s (x.f.extractLsb' 5 1 ++ x.d) x.a x.b (x.f.extractLsb' 0 3)), fun st => execCmpi (x.f.extractLsb' 5 1 ++ x.d) x.a x.b (x.f.extractLsb' 0 3) st, fun _ => none⟩
  else none
theorem viewMajor1D_eq (x : Fields) : (decodeMajor1D x).map viewOf = viewMajor1D x := by
  unfold viewMajor1D decodeMajor1D
  simp only [apply_ite (Option.map viewOf), Option.map_some, Option.map_none]
  rfl
def viewMajor1E (x : Fields) : Option SlotView :=
  if x.f.extractLsb' 0 3 = 0 then some ⟨Instr.wf (.pand x.s (x.f.extractLsb' 5 1 ++ x.d) (x.f.extractLsb' 4 1 ++ x.a) (x.f.extractLsb' 3 1 ++ x.b)), Instr.slotInfo (.pand x.s (x.f.extractLsb' 5 1 ++ x.d) (x.f.extractLsb' 4 1 ++ x.a) (x.f.extractLsb' 3 1 ++ x.b)), fun st => execPand (x.f.extractLsb' 5 1 ++ x.d) (x.f.extractLsb' 4 1 ++ x.a) (x.f.extractLsb' 3 1 ++ x.b) st, fun _ => none⟩
  else if x.f.extractLsb' 0 3 = 1 then some ⟨Instr.wf (.por x.s (x.f.extractLsb' 5 1 ++ x.d) (x.f.extractLsb' 4 1 ++ x.a) (x.f.extractLsb' 3 1 ++ x.b)), Instr.slotInfo (.por x.s (x.f.extractLsb' 5 1 ++ x.d) (x.f.extractLsb' 4 1 ++ x.a) (x.f.extractLsb' 3 1 ++ x.b)), fun st => execPor (x.f.extractLsb' 5 1 ++ x.d) (x.f.extractLsb' 4 1 ++ x.a) (x.f.extractLsb' 3 1 ++ x.b) st, fun _ => none⟩
  else if x.f.extractLsb' 0 3 = 2 then some ⟨Instr.wf (.pxor x.s (x.f.extractLsb' 5 1 ++ x.d) (x.f.extractLsb' 4 1 ++ x.a) (x.f.extractLsb' 3 1 ++ x.b)), Instr.slotInfo (.pxor x.s (x.f.extractLsb' 5 1 ++ x.d) (x.f.extractLsb' 4 1 ++ x.a) (x.f.extractLsb' 3 1 ++ x.b)), fun st => execPxor (x.f.extractLsb' 5 1 ++ x.d) (x.f.extractLsb' 4 1 ++ x.a) (x.f.extractLsb' 3 1 ++ x.b) st, fun _ => none⟩
  else if x.f.extractLsb' 0 3 = 3 then some ⟨Instr.wf (.pandn x.s (x.f.extractLsb' 5 1 ++ x.d) (x.f.extractLsb' 4 1 ++ x.a) (x.f.extractLsb' 3 1 ++ x.b)), Instr.slotInfo (.pandn x.s (x.f.extractLsb' 5 1 ++ x.d) (x.f.extractLsb' 4 1 ++ x.a) (x.f.extractLsb' 3 1 ++ x.b)), fun st => execPandn (x.f.extractLsb' 5 1 ++ x.d) (x.f.extractLsb' 4 1 ++ x.a) (x.f.extractLsb' 3 1 ++ x.b) st, fun _ => none⟩
  else if x.f.extractLsb' 0 3 = 4 then some ⟨Instr.wf (.porn x.s (x.f.extractLsb' 5 1 ++ x.d) (x.f.extractLsb' 4 1 ++ x.a) (x.f.extractLsb' 3 1 ++ x.b)), Instr.slotInfo (.porn x.s (x.f.extractLsb' 5 1 ++ x.d) (x.f.extractLsb' 4 1 ++ x.a) (x.f.extractLsb' 3 1 ++ x.b)), fun st => execPorn (x.f.extractLsb' 5 1 ++ x.d) (x.f.extractLsb' 4 1 ++ x.a) (x.f.extractLsb' 3 1 ++ x.b) st, fun _ => none⟩
  else if x.b = 0 ∧ x.f.extractLsb' 0 4 = 5 then some ⟨Instr.wf (.pmov x.s (x.f.extractLsb' 5 1 ++ x.d) (x.f.extractLsb' 4 1 ++ x.a)), Instr.slotInfo (.pmov x.s (x.f.extractLsb' 5 1 ++ x.d) (x.f.extractLsb' 4 1 ++ x.a)), fun st => execPmov (x.f.extractLsb' 5 1 ++ x.d) (x.f.extractLsb' 4 1 ++ x.a) st, fun _ => none⟩
  else if x.b = 0 ∧ x.f.extractLsb' 0 4 = 6 then some ⟨Instr.wf (.pnot x.s (x.f.extractLsb' 5 1 ++ x.d) (x.f.extractLsb' 4 1 ++ x.a)), Instr.slotInfo (.pnot x.s (x.f.extractLsb' 5 1 ++ x.d) (x.f.extractLsb' 4 1 ++ x.a)), fun st => execPnot (x.f.extractLsb' 5 1 ++ x.d) (x.f.extractLsb' 4 1 ++ x.a) st, fun _ => none⟩
  else if x.f.extractLsb' 0 3 = 7 then some ⟨Instr.wf (.pxnor x.s (x.f.extractLsb' 5 1 ++ x.d) (x.f.extractLsb' 4 1 ++ x.a) (x.f.extractLsb' 3 1 ++ x.b)), Instr.slotInfo (.pxnor x.s (x.f.extractLsb' 5 1 ++ x.d) (x.f.extractLsb' 4 1 ++ x.a) (x.f.extractLsb' 3 1 ++ x.b)), fun st => execPxnor (x.f.extractLsb' 5 1 ++ x.d) (x.f.extractLsb' 4 1 ++ x.a) (x.f.extractLsb' 3 1 ++ x.b) st, fun _ => none⟩
  else none
theorem viewMajor1E_eq (x : Fields) : (decodeMajor1E x).map viewOf = viewMajor1E x := by
  unfold viewMajor1E decodeMajor1E
  simp only [apply_ite (Option.map viewOf), Option.map_some, Option.map_none]
  rfl
def viewMajor1F (x : Fields) : Option SlotView :=
  if x.f.extractLsb' 0 5 = 0 then some ⟨Instr.wf (.sel x.s x.d x.a (x.f.extractLsb' 5 1 ++ x.b)), Instr.slotInfo (.sel x.s x.d x.a (x.f.extractLsb' 5 1 ++ x.b)), fun st => execSel x.d x.a (x.f.extractLsb' 5 1 ++ x.b) st, fun _ => none⟩
  else if x.f.extractLsb' 0 5 = 1 then some ⟨Instr.wf (.selz x.s x.d x.a (x.f.extractLsb' 5 1 ++ x.b)), Instr.slotInfo (.selz x.s x.d x.a (x.f.extractLsb' 5 1 ++ x.b)), fun st => execSelz x.d x.a (x.f.extractLsb' 5 1 ++ x.b) st, fun _ => none⟩
  else if x.f.extractLsb' 0 5 = 2 then some ⟨Instr.wf (.seln x.s x.d x.a (x.f.extractLsb' 5 1 ++ x.b)), Instr.slotInfo (.seln x.s x.d x.a (x.f.extractLsb' 5 1 ++ x.b)), fun st => execSeln x.d x.a (x.f.extractLsb' 5 1 ++ x.b) st, fun _ => none⟩
  else none
theorem viewMajor1F_eq (x : Fields) : (decodeMajor1F x).map viewOf = viewMajor1F x := by
  unfold viewMajor1F decodeMajor1F
  simp only [apply_ite (Option.map viewOf), Option.map_some, Option.map_none]
  rfl
def viewMajor20 (x : Fields) : Option SlotView :=
  if x.f.extractLsb' 2 2 = 0 then some ⟨Instr.wf (.fadd x.s x.d x.a x.b (x.f.extractLsb' 4 2) (x.f.extractLsb' 0 2)), Instr.slotInfo (.fadd x.s x.d x.a x.b (x.f.extractLsb' 4 2) (x.f.extractLsb' 0 2)), fun st => execFadd x.d x.a x.b (x.f.extractLsb' 4 2) (x.f.extractLsb' 0 2) st, fun _ => none⟩
  else if x.f.extractLsb' 2 2 = 1 then some ⟨Instr.wf (.fsub x.s x.d x.a x.b (x.f.extractLsb' 4 2) (x.f.extractLsb' 0 2)), Instr.slotInfo (.fsub x.s x.d x.a x.b (x.f.extractLsb' 4 2) (x.f.extractLsb' 0 2)), fun st => execFsub x.d x.a x.b (x.f.extractLsb' 4 2) (x.f.extractLsb' 0 2) st, fun _ => none⟩
  else if x.f.extractLsb' 2 2 = 2 then some ⟨Instr.wf (.fmul x.s x.d x.a x.b (x.f.extractLsb' 4 2) (x.f.extractLsb' 0 2)), Instr.slotInfo (.fmul x.s x.d x.a x.b (x.f.extractLsb' 4 2) (x.f.extractLsb' 0 2)), fun st => execFmul x.d x.a x.b (x.f.extractLsb' 4 2) (x.f.extractLsb' 0 2) st, fun _ => none⟩
  else if x.f.extractLsb' 0 4 = 12 then some ⟨Instr.wf (.fmin x.s x.d x.a x.b (x.f.extractLsb' 4 2)), Instr.slotInfo (.fmin x.s x.d x.a x.b (x.f.extractLsb' 4 2)), fun st => execFmin x.d x.a x.b (x.f.extractLsb' 4 2) st, fun _ => none⟩
  else if x.f.extractLsb' 0 4 = 13 then some ⟨Instr.wf (.fmax x.s x.d x.a x.b (x.f.extractLsb' 4 2)), Instr.slotInfo (.fmax x.s x.d x.a x.b (x.f.extractLsb' 4 2)), fun st => execFmax x.d x.a x.b (x.f.extractLsb' 4 2) st, fun _ => none⟩
  else none
theorem viewMajor20_eq (x : Fields) : (decodeMajor20 x).map viewOf = viewMajor20 x := by
  unfold viewMajor20 decodeMajor20
  simp only [apply_ite (Option.map viewOf), Option.map_some, Option.map_none]
  rfl
def viewMajor21 (x : Fields) : Option SlotView :=
  if x.f.extractLsb' 0 2 = 0 then some ⟨Instr.wf (.ffma x.s x.d x.a x.b (x.f.extractLsb' 4 2) (x.f.extractLsb' 2 2)), Instr.slotInfo (.ffma x.s x.d x.a x.b (x.f.extractLsb' 4 2) (x.f.extractLsb' 2 2)), fun st => execFfma x.d x.a x.b (x.f.extractLsb' 4 2) (x.f.extractLsb' 2 2) st, fun _ => none⟩
  else if x.f.extractLsb' 0 2 = 1 then some ⟨Instr.wf (.ffms x.s x.d x.a x.b (x.f.extractLsb' 4 2) (x.f.extractLsb' 2 2)), Instr.slotInfo (.ffms x.s x.d x.a x.b (x.f.extractLsb' 4 2) (x.f.extractLsb' 2 2)), fun st => execFfms x.d x.a x.b (x.f.extractLsb' 4 2) (x.f.extractLsb' 2 2) st, fun _ => none⟩
  else if x.f.extractLsb' 0 2 = 2 then some ⟨Instr.wf (.ffnma x.s x.d x.a x.b (x.f.extractLsb' 4 2) (x.f.extractLsb' 2 2)), Instr.slotInfo (.ffnma x.s x.d x.a x.b (x.f.extractLsb' 4 2) (x.f.extractLsb' 2 2)), fun st => execFfnma x.d x.a x.b (x.f.extractLsb' 4 2) (x.f.extractLsb' 2 2) st, fun _ => none⟩
  else if x.f.extractLsb' 0 2 = 3 then some ⟨Instr.wf (.ffnms x.s x.d x.a x.b (x.f.extractLsb' 4 2) (x.f.extractLsb' 2 2)), Instr.slotInfo (.ffnms x.s x.d x.a x.b (x.f.extractLsb' 4 2) (x.f.extractLsb' 2 2)), fun st => execFfnms x.d x.a x.b (x.f.extractLsb' 4 2) (x.f.extractLsb' 2 2) st, fun _ => none⟩
  else none
theorem viewMajor21_eq (x : Fields) : (decodeMajor21 x).map viewOf = viewMajor21 x := by
  unfold viewMajor21 decodeMajor21
  simp only [apply_ite (Option.map viewOf), Option.map_some, Option.map_none]
  rfl
def viewMajor22 (x : Fields) : Option SlotView :=
  if x.f.extractLsb' 0 2 = 0 then some ⟨Instr.wf (.fdiv x.s x.d x.a x.b (x.f.extractLsb' 4 2) (x.f.extractLsb' 2 2)), Instr.slotInfo (.fdiv x.s x.d x.a x.b (x.f.extractLsb' 4 2) (x.f.extractLsb' 2 2)), fun st => execFdiv x.d x.a x.b (x.f.extractLsb' 4 2) (x.f.extractLsb' 2 2) st, fun _ => none⟩
  else if x.b = 0 ∧ x.f.extractLsb' 0 2 = 2 then some ⟨Instr.wf (.fsqrt x.s x.d x.a (x.f.extractLsb' 4 2) (x.f.extractLsb' 2 2)), Instr.slotInfo (.fsqrt x.s x.d x.a (x.f.extractLsb' 4 2) (x.f.extractLsb' 2 2)), fun st => execFsqrt x.d x.a (x.f.extractLsb' 4 2) (x.f.extractLsb' 2 2) st, fun _ => none⟩
  else none
theorem viewMajor22_eq (x : Fields) : (decodeMajor22 x).map viewOf = viewMajor22 x := by
  unfold viewMajor22 decodeMajor22
  simp only [apply_ite (Option.map viewOf), Option.map_some, Option.map_none]
  rfl
def viewMajor23 (x : Fields) : Option SlotView :=
  some ⟨Instr.wf (.fcmp x.s (x.f.extractLsb' 3 1 ++ x.d) x.a x.b (x.f.extractLsb' 4 2) (x.f.extractLsb' 0 3)), Instr.slotInfo (.fcmp x.s (x.f.extractLsb' 3 1 ++ x.d) x.a x.b (x.f.extractLsb' 4 2) (x.f.extractLsb' 0 3)), fun st => execFcmp (x.f.extractLsb' 3 1 ++ x.d) x.a x.b (x.f.extractLsb' 4 2) (x.f.extractLsb' 0 3) st, fun _ => none⟩
theorem viewMajor23_eq (x : Fields) : (decodeMajor23 x).map viewOf = viewMajor23 x := by
  unfold viewMajor23 decodeMajor23
  rfl
def viewMajor24 (x : Fields) : Option SlotView :=
  if x.f.extractLsb' 4 2 = 0 then some ⟨Instr.wf (.fcvt x.s x.d x.a (x.b.extractLsb' 3 3) (x.b.extractLsb' 0 3) (x.f.getLsbD 3) (x.f.getLsbD 2) (x.f.extractLsb' 0 2)), Instr.slotInfo (.fcvt x.s x.d x.a (x.b.extractLsb' 3 3) (x.b.extractLsb' 0 3) (x.f.getLsbD 3) (x.f.getLsbD 2) (x.f.extractLsb' 0 2)), fun st => execFcvt x.d x.a (x.b.extractLsb' 3 3) (x.b.extractLsb' 0 3) (x.f.getLsbD 3) (x.f.getLsbD 2) (x.f.extractLsb' 0 2) st, fun _ => none⟩
  else none
theorem viewMajor24_eq (x : Fields) : (decodeMajor24 x).map viewOf = viewMajor24 x := by
  unfold viewMajor24 decodeMajor24
  simp only [apply_ite (Option.map viewOf), Option.map_some, Option.map_none]
  rfl
def viewMajor25 (x : Fields) : Option SlotView :=
  if x.b = 0 ∧ x.f.extractLsb' 0 4 = 0 then some ⟨Instr.wf (.fclass x.s x.d x.a (x.f.extractLsb' 4 2)), Instr.slotInfo (.fclass x.s x.d x.a (x.f.extractLsb' 4 2)), fun st => execFclass x.d x.a (x.f.extractLsb' 4 2) st, fun _ => none⟩
  else none
theorem viewMajor25_eq (x : Fields) : (decodeMajor25 x).map viewOf = viewMajor25 x := by
  unfold viewMajor25 decodeMajor25
  simp only [apply_ite (Option.map viewOf), Option.map_some, Option.map_none]
  rfl
def viewMajor28 (x : Fields) : Option SlotView :=
  some ⟨Instr.wf (.br x.s (x.d ++ x.a ++ x.b ++ x.f)), Instr.slotInfo (.br x.s (x.d ++ x.a ++ x.b ++ x.f)), fun st => execBr (x.d ++ x.a ++ x.b ++ x.f) st, targetOf (.br x.s (x.d ++ x.a ++ x.b ++ x.f))⟩
theorem viewMajor28_eq (x : Fields) : (decodeMajor28 x).map viewOf = viewMajor28 x := by
  unfold viewMajor28 decodeMajor28
  rfl
def viewMajor29 (x : Fields) : Option SlotView :=
  some ⟨Instr.wf (.bri x.s x.d x.a (x.b ++ x.f)), Instr.slotInfo (.bri x.s x.d x.a (x.b ++ x.f)), fun st => execBri x.d x.a (x.b ++ x.f) st, targetOf (.bri x.s x.d x.a (x.b ++ x.f))⟩
theorem viewMajor29_eq (x : Fields) : (decodeMajor29 x).map viewOf = viewMajor29 x := by
  unfold viewMajor29 decodeMajor29
  rfl
def viewMajor2A (x : Fields) : Option SlotView :=
  some ⟨Instr.wf (.call x.s (x.d ++ x.a ++ x.b ++ x.f)), Instr.slotInfo (.call x.s (x.d ++ x.a ++ x.b ++ x.f)), fun st => execCall (x.d ++ x.a ++ x.b ++ x.f) st, targetOf (.call x.s (x.d ++ x.a ++ x.b ++ x.f))⟩
theorem viewMajor2A_eq (x : Fields) : (decodeMajor2A x).map viewOf = viewMajor2A x := by
  unfold viewMajor2A decodeMajor2A
  rfl
def viewMajor2B (x : Fields) : Option SlotView :=
  if x.d = 0 ∧ x.b = 0 ∧ x.f = 0 then some ⟨Instr.wf (.ret x.s x.a), Instr.slotInfo (.ret x.s x.a), fun st => execRet x.a st, targetOf (.ret x.s x.a)⟩
  else none
theorem viewMajor2B_eq (x : Fields) : (decodeMajor2B x).map viewOf = viewMajor2B x := by
  unfold viewMajor2B decodeMajor2B
  simp only [apply_ite (Option.map viewOf), Option.map_some, Option.map_none]
  rfl
def viewMajor2C (x : Fields) : Option SlotView :=
  if x.d = 0 ∧ x.b = 0 ∧ x.f = 0 then some ⟨Instr.wf (.loopPush x.s x.a), Instr.slotInfo (.loopPush x.s x.a), fun st => execLoopPush x.a st, fun _ => none⟩
  else if x.d = 0 ∧ x.a = 0 ∧ x.b = 0 ∧ x.f = 16 then some ⟨Instr.wf (.loopPop x.s), Instr.slotInfo (.loopPop x.s), fun st => execLoopPop st, fun _ => none⟩
  else if x.f = 32 then some ⟨Instr.wf (.loop x.s (x.d ++ x.a ++ x.b)), Instr.slotInfo (.loop x.s (x.d ++ x.a ++ x.b)), fun st => execLoop (x.d ++ x.a ++ x.b) st, targetOf (.loop x.s (x.d ++ x.a ++ x.b))⟩
  else none
theorem viewMajor2C_eq (x : Fields) : (decodeMajor2C x).map viewOf = viewMajor2C x := by
  unfold viewMajor2C decodeMajor2C
  simp only [apply_ite (Option.map viewOf), Option.map_some, Option.map_none]
  rfl
def viewMajor2D (x : Fields) : Option SlotView :=
  some ⟨Instr.wf (.loops x.s x.d (x.f.extractLsb' 5 1 ++ x.a) (x.b ++ x.f.extractLsb' 0 5)), Instr.slotInfo (.loops x.s x.d (x.f.extractLsb' 5 1 ++ x.a) (x.b ++ x.f.extractLsb' 0 5)), fun st => execLoops x.d (x.f.extractLsb' 5 1 ++ x.a) (x.b ++ x.f.extractLsb' 0 5) st, targetOf (.loops x.s x.d (x.f.extractLsb' 5 1 ++ x.a) (x.b ++ x.f.extractLsb' 0 5))⟩
theorem viewMajor2D_eq (x : Fields) : (decodeMajor2D x).map viewOf = viewMajor2D x := by
  unfold viewMajor2D decodeMajor2D
  rfl
def viewMajor2E (x : Fields) : Option SlotView :=
  if x.d.extractLsb' 5 1 = 0 then some ⟨Instr.wf (.brzm x.s (x.d.extractLsb' 0 5 ++ x.a ++ x.b ++ x.f)), Instr.slotInfo (.brzm x.s (x.d.extractLsb' 0 5 ++ x.a ++ x.b ++ x.f)), fun st => execBrzm (x.d.extractLsb' 0 5 ++ x.a ++ x.b ++ x.f) st, targetOf (.brzm x.s (x.d.extractLsb' 0 5 ++ x.a ++ x.b ++ x.f))⟩
  else if x.d.extractLsb' 5 1 = 1 then some ⟨Instr.wf (.brnzm x.s (x.d.extractLsb' 0 5 ++ x.a ++ x.b ++ x.f)), Instr.slotInfo (.brnzm x.s (x.d.extractLsb' 0 5 ++ x.a ++ x.b ++ x.f)), fun st => execBrnzm (x.d.extractLsb' 0 5 ++ x.a ++ x.b ++ x.f) st, targetOf (.brnzm x.s (x.d.extractLsb' 0 5 ++ x.a ++ x.b ++ x.f))⟩
  else none
theorem viewMajor2E_eq (x : Fields) : (decodeMajor2E x).map viewOf = viewMajor2E x := by
  unfold viewMajor2E decodeMajor2E
  simp only [apply_ite (Option.map viewOf), Option.map_some, Option.map_none]
  rfl
def viewMajor2F (x : Fields) : Option SlotView :=
  if x.f = 0 then some ⟨Instr.wf (.trap x.s (x.d ++ x.a ++ x.b)), Instr.slotInfo (.trap x.s (x.d ++ x.a ++ x.b)), fun st => execTrap (x.d ++ x.a ++ x.b) st, fun _ => none⟩
  else if x.f = 1 then some ⟨Instr.wf (.svc x.s (x.d ++ x.a ++ x.b)), Instr.slotInfo (.svc x.s (x.d ++ x.a ++ x.b)), fun st => execSvc (x.d ++ x.a ++ x.b) st, fun _ => none⟩
  else if x.f = 2 then some ⟨Instr.wf (.brk x.s (x.d ++ x.a ++ x.b)), Instr.slotInfo (.brk x.s (x.d ++ x.a ++ x.b)), fun st => execBrk (x.d ++ x.a ++ x.b) st, fun _ => none⟩
  else none
theorem viewMajor2F_eq (x : Fields) : (decodeMajor2F x).map viewOf = viewMajor2F x := by
  unfold viewMajor2F decodeMajor2F
  simp only [apply_ite (Option.map viewOf), Option.map_some, Option.map_none]
  rfl
def viewMajor30 (x : Fields) : Option SlotView :=
  if x.f = 0 then some ⟨Instr.wf (.cnarrowOff x.s x.d x.a x.b), Instr.slotInfo (.cnarrowOff x.s x.d x.a x.b), fun st => execCnarrowOff x.d x.a x.b st, fun _ => none⟩
  else if x.f = 1 then some ⟨Instr.wf (.cnarrowLen x.s x.d x.a x.b), Instr.slotInfo (.cnarrowLen x.s x.d x.a x.b), fun st => execCnarrowLen x.d x.a x.b st, fun _ => none⟩
  else if x.f = 2 then some ⟨Instr.wf (.cnarrowBase x.s x.d x.a x.b), Instr.slotInfo (.cnarrowBase x.s x.d x.a x.b), fun st => execCnarrowBase x.d x.a x.b st, fun _ => none⟩
  else if x.f = 32 then some ⟨Instr.wf (.cnarrowiOff x.s x.d x.a x.b), Instr.slotInfo (.cnarrowiOff x.s x.d x.a x.b), fun st => execCnarrowiOff x.d x.a x.b st, fun _ => none⟩
  else if x.f = 33 then some ⟨Instr.wf (.cnarrowiLen x.s x.d x.a x.b), Instr.slotInfo (.cnarrowiLen x.s x.d x.a x.b), fun st => execCnarrowiLen x.d x.a x.b st, fun _ => none⟩
  else if x.f = 34 then some ⟨Instr.wf (.cnarrowiBase x.s x.d x.a x.b), Instr.slotInfo (.cnarrowiBase x.s x.d x.a x.b), fun st => execCnarrowiBase x.d x.a x.b st, fun _ => none⟩
  else none
theorem viewMajor30_eq (x : Fields) : (decodeMajor30 x).map viewOf = viewMajor30 x := by
  unfold viewMajor30 decodeMajor30
  simp only [apply_ite (Option.map viewOf), Option.map_some, Option.map_none]
  rfl
def viewMajor31 (x : Fields) : Option SlotView :=
  if x.b.extractLsb' 2 4 = 0 then some ⟨Instr.wf (.cperm x.s x.d x.a (x.b.extractLsb' 0 2 ++ x.f)), Instr.slotInfo (.cperm x.s x.d x.a (x.b.extractLsb' 0 2 ++ x.f)), fun st => execCperm x.d x.a (x.b.extractLsb' 0 2 ++ x.f) st, fun _ => none⟩
  else none
theorem viewMajor31_eq (x : Fields) : (decodeMajor31 x).map viewOf = viewMajor31 x := by
  unfold viewMajor31 decodeMajor31
  simp only [apply_ite (Option.map viewOf), Option.map_some, Option.map_none]
  rfl
def viewMajor32 (x : Fields) : Option SlotView :=
  if x.b = 0 ∧ x.f = 0 then some ⟨Instr.wf (.cgetBase x.s x.d x.a), Instr.slotInfo (.cgetBase x.s x.d x.a), fun st => execCgetBase x.d x.a st, fun _ => none⟩
  else if x.b = 0 ∧ x.f = 1 then some ⟨Instr.wf (.cgetLen x.s x.d x.a), Instr.slotInfo (.cgetLen x.s x.d x.a), fun st => execCgetLen x.d x.a st, fun _ => none⟩
  else if x.b = 0 ∧ x.f = 2 then some ⟨Instr.wf (.cgetPerm x.s x.d x.a), Instr.slotInfo (.cgetPerm x.s x.d x.a), fun st => execCgetPerm x.d x.a st, fun _ => none⟩
  else if x.b = 0 ∧ x.f = 3 then some ⟨Instr.wf (.cgetShape x.s x.d x.a), Instr.slotInfo (.cgetShape x.s x.d x.a), fun st => execCgetShape x.d x.a st, fun _ => none⟩
  else if x.b = 0 ∧ x.f = 4 then some ⟨Instr.wf (.cgetTag x.s x.d x.a), Instr.slotInfo (.cgetTag x.s x.d x.a), fun st => execCgetTag x.d x.a st, fun _ => none⟩
  else if x.b = 0 ∧ x.f = 5 then some ⟨Instr.wf (.cgetHi x.s x.d x.a), Instr.slotInfo (.cgetHi x.s x.d x.a), fun st => execCgetHi x.d x.a st, fun _ => none⟩
  else if x.b = 0 ∧ x.f = 6 then some ⟨Instr.wf (.cgetLo x.s x.d x.a), Instr.slotInfo (.cgetLo x.s x.d x.a), fun st => execCgetLo x.d x.a st, fun _ => none⟩
  else none
theorem viewMajor32_eq (x : Fields) : (decodeMajor32 x).map viewOf = viewMajor32 x := by
  unfold viewMajor32 decodeMajor32
  simp only [apply_ite (Option.map viewOf), Option.map_some, Option.map_none]
  rfl
def viewMajor33 (x : Fields) : Option SlotView :=
  if x.f = 0 then some ⟨Instr.wf (.cshape x.s x.d x.a x.b), Instr.slotInfo (.cshape x.s x.d x.a x.b), fun st => execCshape x.d x.a x.b st, fun _ => none⟩
  else none
theorem viewMajor33_eq (x : Fields) : (decodeMajor33 x).map viewOf = viewMajor33 x := by
  unfold viewMajor33 decodeMajor33
  simp only [apply_ite (Option.map viewOf), Option.map_some, Option.map_none]
  rfl
def viewMajor34 (x : Fields) : Option SlotView :=
  if x.f = 0 then some ⟨Instr.wf (.cmint x.s x.d x.a x.b), Instr.slotInfo (.cmint x.s x.d x.a x.b), fun st => execCmint x.d x.a x.b st, fun _ => none⟩
  else none
theorem viewMajor34_eq (x : Fields) : (decodeMajor34 x).map viewOf = viewMajor34 x := by
  unfold viewMajor34 decodeMajor34
  simp only [apply_ite (Option.map viewOf), Option.map_some, Option.map_none]
  rfl
def viewMajor35 (x : Fields) : Option SlotView :=
  if x.b = 0 ∧ x.f = 0 then some ⟨Instr.wf (.trans x.s x.d x.a), Instr.slotInfo (.trans x.s x.d x.a), fun st => execTrans x.d x.a st, fun _ => none⟩
  else none
theorem viewMajor35_eq (x : Fields) : (decodeMajor35 x).map viewOf = viewMajor35 x := by
  unfold viewMajor35 decodeMajor35
  simp only [apply_ite (Option.map viewOf), Option.map_some, Option.map_none]
  rfl
def viewMajor36 (x : Fields) : Option SlotView :=
  if x.b = 0 ∧ x.f = 0 then some ⟨Instr.wf (.hgetState x.s x.d x.a), Instr.slotInfo (.hgetState x.s x.d x.a), fun st => execHgetState x.d x.a st, fun _ => none⟩
  else if x.b = 0 ∧ x.f = 1 then some ⟨Instr.wf (.hgetPage x.s x.d x.a), Instr.slotInfo (.hgetPage x.s x.d x.a), fun st => execHgetPage x.d x.a st, fun _ => none⟩
  else if x.b = 0 ∧ x.f = 2 then some ⟨Instr.wf (.hgetSize x.s x.d x.a), Instr.slotInfo (.hgetSize x.s x.d x.a), fun st => execHgetSize x.d x.a st, fun _ => none⟩
  else if x.a = 0 ∧ x.b = 0 ∧ x.f = 8 then some ⟨Instr.wf (.hdrop x.s x.d), Instr.slotInfo (.hdrop x.s x.d), fun st => execHdrop x.d st, fun _ => none⟩
  else none
theorem viewMajor36_eq (x : Fields) : (decodeMajor36 x).map viewOf = viewMajor36 x := by
  unfold viewMajor36 decodeMajor36
  simp only [apply_ite (Option.map viewOf), Option.map_some, Option.map_none]
  rfl
def viewMajor38 (x : Fields) : Option SlotView :=
  if x.b = 0 ∧ x.f.extractLsb' 0 5 = 0 then some ⟨Instr.wf (.wtake x.s x.d (x.f.extractLsb' 5 1 ++ x.a)), Instr.slotInfo (.wtake x.s x.d (x.f.extractLsb' 5 1 ++ x.a)), fun st => execWtake x.d (x.f.extractLsb' 5 1 ++ x.a) st, fun _ => none⟩
  else none
theorem viewMajor38_eq (x : Fields) : (decodeMajor38 x).map viewOf = viewMajor38 x := by
  unfold viewMajor38 decodeMajor38
  simp only [apply_ite (Option.map viewOf), Option.map_some, Option.map_none]
  rfl
def viewMajor39 (x : Fields) : Option SlotView :=
  if x.d = 0 then some ⟨Instr.wf (.join x.s x.a (x.b ++ x.f)), Instr.slotInfo (.join x.s x.a (x.b ++ x.f)), fun st => execJoin x.a (x.b ++ x.f) st, fun _ => none⟩
  else none
theorem viewMajor39_eq (x : Fields) : (decodeMajor39 x).map viewOf = viewMajor39 x := by
  unfold viewMajor39 decodeMajor39
  simp only [apply_ite (Option.map viewOf), Option.map_some, Option.map_none]
  rfl
def viewMajor3A (x : Fields) : Option SlotView :=
  if x.d = 0 then some ⟨Instr.wf (.leave x.s x.a (x.b ++ x.f)), Instr.slotInfo (.leave x.s x.a (x.b ++ x.f)), fun st => execLeave x.a (x.b ++ x.f) st, fun _ => none⟩
  else none
theorem viewMajor3A_eq (x : Fields) : (decodeMajor3A x).map viewOf = viewMajor3A x := by
  unfold viewMajor3A decodeMajor3A
  simp only [apply_ite (Option.map viewOf), Option.map_some, Option.map_none]
  rfl
def viewMajor3B (x : Fields) : Option SlotView :=
  if x.d = 0 ∧ x.a = 0 ∧ x.b = 0 ∧ x.f = 0 then some ⟨Instr.wf (.stepend x.s), Instr.slotInfo (.stepend x.s), fun st => execStepend st, fun _ => none⟩
  else none
theorem viewMajor3B_eq (x : Fields) : (decodeMajor3B x).map viewOf = viewMajor3B x := by
  unfold viewMajor3B decodeMajor3B
  simp only [apply_ite (Option.map viewOf), Option.map_some, Option.map_none]
  rfl
def viewMajor3C (x : Fields) : Option SlotView :=
  if x.d = 0 ∧ x.a = 0 ∧ x.b = 0 ∧ x.f = 0 then some ⟨Instr.wf (.switch x.s), Instr.slotInfo (.switch x.s), fun st => execSwitch st, fun _ => none⟩
  else if x.d = 0 ∧ x.a = 0 ∧ x.b = 0 ∧ x.f = 1 then some ⟨Instr.wf (.yield x.s), Instr.slotInfo (.yield x.s), fun st => execYield st, fun _ => none⟩
  else none
theorem viewMajor3C_eq (x : Fields) : (decodeMajor3C x).map viewOf = viewMajor3C x := by
  unfold viewMajor3C decodeMajor3C
  simp only [apply_ite (Option.map viewOf), Option.map_some, Option.map_none]
  rfl
def viewMajor3D (x : Fields) : Option SlotView :=
  if x.a = 0 then some ⟨Instr.wf (.csrr x.s x.d (x.b ++ x.f)), Instr.slotInfo (.csrr x.s x.d (x.b ++ x.f)), fun st => execCsrr x.d (x.b ++ x.f) st, fun _ => none⟩
  else none
theorem viewMajor3D_eq (x : Fields) : (decodeMajor3D x).map viewOf = viewMajor3D x := by
  unfold viewMajor3D decodeMajor3D
  simp only [apply_ite (Option.map viewOf), Option.map_some, Option.map_none]
  rfl
def viewMajor3E (x : Fields) : Option SlotView :=
  if x.d = 0 then some ⟨Instr.wf (.csrw x.s x.a (x.b ++ x.f)), Instr.slotInfo (.csrw x.s x.a (x.b ++ x.f)), fun st => execCsrw x.a (x.b ++ x.f) st, fun _ => none⟩
  else none
theorem viewMajor3E_eq (x : Fields) : (decodeMajor3E x).map viewOf = viewMajor3E x := by
  unfold viewMajor3E decodeMajor3E
  simp only [apply_ite (Option.map viewOf), Option.map_some, Option.map_none]
  rfl
def viewMajor3F (x : Fields) : Option SlotView :=
  if x.d = 0 ∧ x.f = 0 then some ⟨Instr.wf (.codeswap x.s x.a x.b), Instr.slotInfo (.codeswap x.s x.a x.b), fun st => execCodeswap x.a x.b st, fun _ => none⟩
  else if x.d = 0 ∧ x.a = 0 ∧ x.b = 0 ∧ x.f = 1 then some ⟨Instr.wf (.trapret x.s), Instr.slotInfo (.trapret x.s), fun st => execTrapret st, fun _ => none⟩
  else none
theorem viewMajor3F_eq (x : Fields) : (decodeMajor3F x).map viewOf = viewMajor3F x := by
  unfold viewMajor3F decodeMajor3F
  simp only [apply_ite (Option.map viewOf), Option.map_some, Option.map_none]
  rfl
def viewMajor40 (x : Fields) : Option SlotView :=
  some ⟨Instr.wf (.vadd x.s x.d x.a x.b (x.f.getLsbD 5) (x.f.getLsbD 4) (x.f.extractLsb' 0 4)), Instr.slotInfo (.vadd x.s x.d x.a x.b (x.f.getLsbD 5) (x.f.getLsbD 4) (x.f.extractLsb' 0 4)), fun st => execVadd x.d x.a x.b (x.f.getLsbD 5) (x.f.getLsbD 4) (x.f.extractLsb' 0 4) st, fun _ => none⟩
theorem viewMajor40_eq (x : Fields) : (decodeMajor40 x).map viewOf = viewMajor40 x := by
  unfold viewMajor40 decodeMajor40
  rfl
def viewMajor41 (x : Fields) : Option SlotView :=
  some ⟨Instr.wf (.vsub x.s x.d x.a x.b (x.f.getLsbD 5) (x.f.getLsbD 4) (x.f.extractLsb' 0 4)), Instr.slotInfo (.vsub x.s x.d x.a x.b (x.f.getLsbD 5) (x.f.getLsbD 4) (x.f.extractLsb' 0 4)), fun st => execVsub x.d x.a x.b (x.f.getLsbD 5) (x.f.getLsbD 4) (x.f.extractLsb' 0 4) st, fun _ => none⟩
theorem viewMajor41_eq (x : Fields) : (decodeMajor41 x).map viewOf = viewMajor41 x := by
  unfold viewMajor41 decodeMajor41
  rfl
def viewMajor42 (x : Fields) : Option SlotView :=
  some ⟨Instr.wf (.vmul x.s x.d x.a x.b (x.f.getLsbD 5) (x.f.getLsbD 4) (x.f.extractLsb' 0 4)), Instr.slotInfo (.vmul x.s x.d x.a x.b (x.f.getLsbD 5) (x.f.getLsbD 4) (x.f.extractLsb' 0 4)), fun st => execVmul x.d x.a x.b (x.f.getLsbD 5) (x.f.getLsbD 4) (x.f.extractLsb' 0 4) st, fun _ => none⟩
theorem viewMajor42_eq (x : Fields) : (decodeMajor42 x).map viewOf = viewMajor42 x := by
  unfold viewMajor42 decodeMajor42
  rfl
def viewMajor43 (x : Fields) : Option SlotView :=
  some ⟨Instr.wf (.vfma x.s x.d x.a x.b (x.f.getLsbD 5) (x.f.getLsbD 4) (x.f.extractLsb' 0 4)), Instr.slotInfo (.vfma x.s x.d x.a x.b (x.f.getLsbD 5) (x.f.getLsbD 4) (x.f.extractLsb' 0 4)), fun st => execVfma x.d x.a x.b (x.f.getLsbD 5) (x.f.getLsbD 4) (x.f.extractLsb' 0 4) st, fun _ => none⟩
theorem viewMajor43_eq (x : Fields) : (decodeMajor43 x).map viewOf = viewMajor43 x := by
  unfold viewMajor43 decodeMajor43
  rfl
def viewMajor44 (x : Fields) : Option SlotView :=
  some ⟨Instr.wf (.vfms x.s x.d x.a x.b (x.f.getLsbD 5) (x.f.getLsbD 4) (x.f.extractLsb' 0 4)), Instr.slotInfo (.vfms x.s x.d x.a x.b (x.f.getLsbD 5) (x.f.getLsbD 4) (x.f.extractLsb' 0 4)), fun st => execVfms x.d x.a x.b (x.f.getLsbD 5) (x.f.getLsbD 4) (x.f.extractLsb' 0 4) st, fun _ => none⟩
theorem viewMajor44_eq (x : Fields) : (decodeMajor44 x).map viewOf = viewMajor44 x := by
  unfold viewMajor44 decodeMajor44
  rfl
def viewMajor45 (x : Fields) : Option SlotView :=
  if x.f.extractLsb' 4 1 = 0 then some ⟨Instr.wf (.vmin x.s x.d x.a x.b (x.f.getLsbD 5) (x.f.extractLsb' 0 4)), Instr.slotInfo (.vmin x.s x.d x.a x.b (x.f.getLsbD 5) (x.f.extractLsb' 0 4)), fun st => execVmin x.d x.a x.b (x.f.getLsbD 5) (x.f.extractLsb' 0 4) st, fun _ => none⟩
  else if x.f.extractLsb' 4 1 = 1 then some ⟨Instr.wf (.vmax x.s x.d x.a x.b (x.f.getLsbD 5) (x.f.extractLsb' 0 4)), Instr.slotInfo (.vmax x.s x.d x.a x.b (x.f.getLsbD 5) (x.f.extractLsb' 0 4)), fun st => execVmax x.d x.a x.b (x.f.getLsbD 5) (x.f.extractLsb' 0 4) st, fun _ => none⟩
  else none
theorem viewMajor45_eq (x : Fields) : (decodeMajor45 x).map viewOf = viewMajor45 x := by
  unfold viewMajor45 decodeMajor45
  simp only [apply_ite (Option.map viewOf), Option.map_some, Option.map_none]
  rfl
def viewMajor46 (x : Fields) : Option SlotView :=
  if x.f.extractLsb' 4 1 = 0 then some ⟨Instr.wf (.vdiv x.s x.d x.a x.b (x.f.getLsbD 5) (x.f.extractLsb' 0 4)), Instr.slotInfo (.vdiv x.s x.d x.a x.b (x.f.getLsbD 5) (x.f.extractLsb' 0 4)), fun st => execVdiv x.d x.a x.b (x.f.getLsbD 5) (x.f.extractLsb' 0 4) st, fun _ => none⟩
  else none
theorem viewMajor46_eq (x : Fields) : (decodeMajor46 x).map viewOf = viewMajor46 x := by
  unfold viewMajor46 decodeMajor46
  simp only [apply_ite (Option.map viewOf), Option.map_some, Option.map_none]
  rfl
def viewMajor47 (x : Fields) : Option SlotView :=
  if x.b = 0 ∧ x.f.extractLsb' 4 2 = 0 then some ⟨Instr.wf (.vsqrt x.s x.d x.a (x.f.extractLsb' 0 4)), Instr.slotInfo (.vsqrt x.s x.d x.a (x.f.extractLsb' 0 4)), fun st => execVsqrt x.d x.a (x.f.extractLsb' 0 4) st, fun _ => none⟩
  else none
theorem viewMajor47_eq (x : Fields) : (decodeMajor47 x).map viewOf = viewMajor47 x := by
  unfold viewMajor47 decodeMajor47
  simp only [apply_ite (Option.map viewOf), Option.map_some, Option.map_none]
  rfl
def viewMajor48 (x : Fields) : Option SlotView :=
  if x.b = 0 ∧ x.f = 0 then some ⟨Instr.wf (.vrcpe x.s x.d x.a), Instr.slotInfo (.vrcpe x.s x.d x.a), fun st => execVrcpe x.d x.a st, fun _ => none⟩
  else if x.b = 0 ∧ x.f = 1 then some ⟨Instr.wf (.vrsqrte x.s x.d x.a), Instr.slotInfo (.vrsqrte x.s x.d x.a), fun st => execVrsqrte x.d x.a st, fun _ => none⟩
  else if x.b = 0 ∧ x.f = 2 then some ⟨Instr.wf (.vexp2e x.s x.d x.a), Instr.slotInfo (.vexp2e x.s x.d x.a), fun st => execVexp2e x.d x.a st, fun _ => none⟩
  else if x.b = 0 ∧ x.f = 3 then some ⟨Instr.wf (.vlog2e x.s x.d x.a), Instr.slotInfo (.vlog2e x.s x.d x.a), fun st => execVlog2e x.d x.a st, fun _ => none⟩
  else none
theorem viewMajor48_eq (x : Fields) : (decodeMajor48 x).map viewOf = viewMajor48 x := by
  unfold viewMajor48 decodeMajor48
  simp only [apply_ite (Option.map viewOf), Option.map_some, Option.map_none]
  rfl
def viewMajor49 (x : Fields) : Option SlotView :=
  if x.f.extractLsb' 0 5 = 0 then some ⟨Instr.wf (.vand x.s x.d x.a x.b (x.f.getLsbD 5)), Instr.slotInfo (.vand x.s x.d x.a x.b (x.f.getLsbD 5)), fun st => execVand x.d x.a x.b (x.f.getLsbD 5) st, fun _ => none⟩
  else if x.f.extractLsb' 0 5 = 1 then some ⟨Instr.wf (.vor x.s x.d x.a x.b (x.f.getLsbD 5)), Instr.slotInfo (.vor x.s x.d x.a x.b (x.f.getLsbD 5)), fun st => execVor x.d x.a x.b (x.f.getLsbD 5) st, fun _ => none⟩
  else if x.f.extractLsb' 0 5 = 2 then some ⟨Instr.wf (.vxor x.s x.d x.a x.b (x.f.getLsbD 5)), Instr.slotInfo (.vxor x.s x.d x.a x.b (x.f.getLsbD 5)), fun st => execVxor x.d x.a x.b (x.f.getLsbD 5) st, fun _ => none⟩
  else if x.f.extractLsb' 0 5 = 3 then some ⟨Instr.wf (.vandn x.s x.d x.a x.b (x.f.getLsbD 5)), Instr.slotInfo (.vandn x.s x.d x.a x.b (x.f.getLsbD 5)), fun st => execVandn x.d x.a x.b (x.f.getLsbD 5) st, fun _ => none⟩
  else if x.f.extractLsb' 0 5 = 4 then some ⟨Instr.wf (.vorn x.s x.d x.a x.b (x.f.getLsbD 5)), Instr.slotInfo (.vorn x.s x.d x.a x.b (x.f.getLsbD 5)), fun st => execVorn x.d x.a x.b (x.f.getLsbD 5) st, fun _ => none⟩
  else if x.f.extractLsb' 0 5 = 5 then some ⟨Instr.wf (.vxnor x.s x.d x.a x.b (x.f.getLsbD 5)), Instr.slotInfo (.vxnor x.s x.d x.a x.b (x.f.getLsbD 5)), fun st => execVxnor x.d x.a x.b (x.f.getLsbD 5) st, fun _ => none⟩
  else if x.f.extractLsb' 0 5 = 6 then some ⟨Instr.wf (.vnand x.s x.d x.a x.b (x.f.getLsbD 5)), Instr.slotInfo (.vnand x.s x.d x.a x.b (x.f.getLsbD 5)), fun st => execVnand x.d x.a x.b (x.f.getLsbD 5) st, fun _ => none⟩
  else if x.f.extractLsb' 0 5 = 7 then some ⟨Instr.wf (.vnor x.s x.d x.a x.b (x.f.getLsbD 5)), Instr.slotInfo (.vnor x.s x.d x.a x.b (x.f.getLsbD 5)), fun st => execVnor x.d x.a x.b (x.f.getLsbD 5) st, fun _ => none⟩
  else none
theorem viewMajor49_eq (x : Fields) : (decodeMajor49 x).map viewOf = viewMajor49 x := by
  unfold viewMajor49 decodeMajor49
  simp only [apply_ite (Option.map viewOf), Option.map_some, Option.map_none]
  rfl
def viewMajor4A (x : Fields) : Option SlotView :=
  if x.f.extractLsb' 2 3 = 0 then some ⟨Instr.wf (.vshl x.s x.d x.a x.b (x.f.getLsbD 5) (x.f.extractLsb' 0 2)), Instr.slotInfo (.vshl x.s x.d x.a x.b (x.f.getLsbD 5) (x.f.extractLsb' 0 2)), fun st => execVshl x.d x.a x.b (x.f.getLsbD 5) (x.f.extractLsb' 0 2) st, fun _ => none⟩
  else if x.f.extractLsb' 2 3 = 1 then some ⟨Instr.wf (.vshr x.s x.d x.a x.b (x.f.getLsbD 5) (x.f.extractLsb' 0 2)), Instr.slotInfo (.vshr x.s x.d x.a x.b (x.f.getLsbD 5) (x.f.extractLsb' 0 2)), fun st => execVshr x.d x.a x.b (x.f.getLsbD 5) (x.f.extractLsb' 0 2) st, fun _ => none⟩
  else if x.f.extractLsb' 2 3 = 2 then some ⟨Instr.wf (.vsar x.s x.d x.a x.b (x.f.getLsbD 5) (x.f.extractLsb' 0 2)), Instr.slotInfo (.vsar x.s x.d x.a x.b (x.f.getLsbD 5) (x.f.extractLsb' 0 2)), fun st => execVsar x.d x.a x.b (x.f.getLsbD 5) (x.f.extractLsb' 0 2) st, fun _ => none⟩
  else if x.f.extractLsb' 2 3 = 3 then some ⟨Instr.wf (.vrol x.s x.d x.a x.b (x.f.getLsbD 5) (x.f.extractLsb' 0 2)), Instr.slotInfo (.vrol x.s x.d x.a x.b (x.f.getLsbD 5) (x.f.extractLsb' 0 2)), fun st => execVrol x.d x.a x.b (x.f.getLsbD 5) (x.f.extractLsb' 0 2) st, fun _ => none⟩
  else if x.f.extractLsb' 2 3 = 4 then some ⟨Instr.wf (.vror x.s x.d x.a x.b (x.f.getLsbD 5) (x.f.extractLsb' 0 2)), Instr.slotInfo (.vror x.s x.d x.a x.b (x.f.getLsbD 5) (x.f.extractLsb' 0 2)), fun st => execVror x.d x.a x.b (x.f.getLsbD 5) (x.f.extractLsb' 0 2) st, fun _ => none⟩
  else none
theorem viewMajor4A_eq (x : Fields) : (decodeMajor4A x).map viewOf = viewMajor4A x := by
  unfold viewMajor4A decodeMajor4A
  simp only [apply_ite (Option.map viewOf), Option.map_some, Option.map_none]
  rfl
def viewMajor4B (x : Fields) : Option SlotView :=
  some ⟨Instr.wf (.vcvt x.s x.d x.a (x.b.extractLsb' 2 4) (x.b.extractLsb' 0 2 ++ x.f.extractLsb' 4 2) (x.f.getLsbD 3) (x.f.extractLsb' 0 3)), Instr.slotInfo (.vcvt x.s x.d x.a (x.b.extractLsb' 2 4) (x.b.extractLsb' 0 2 ++ x.f.extractLsb' 4 2) (x.f.getLsbD 3) (x.f.extractLsb' 0 3)), fun st => execVcvt x.d x.a (x.b.extractLsb' 2 4) (x.b.extractLsb' 0 2 ++ x.f.extractLsb' 4 2) (x.f.getLsbD 3) (x.f.extractLsb' 0 3) st, fun _ => none⟩
theorem viewMajor4B_eq (x : Fields) : (decodeMajor4B x).map viewOf = viewMajor4B x := by
  unfold viewMajor4B decodeMajor4B
  rfl
def viewMajor4C (x : Fields) : Option SlotView :=
  if x.d.extractLsb' 4 2 = 0 ∧ x.f.extractLsb' 4 1 = 0 then some ⟨Instr.wf (.vcmp x.s (x.d.getLsbD 3) (x.d.extractLsb' 0 3) x.a x.b (x.f.getLsbD 5) (x.f.extractLsb' 0 4)), Instr.slotInfo (.vcmp x.s (x.d.getLsbD 3) (x.d.extractLsb' 0 3) x.a x.b (x.f.getLsbD 5) (x.f.extractLsb' 0 4)), fun st => execVcmp (x.d.getLsbD 3) (x.d.extractLsb' 0 3) x.a x.b (x.f.getLsbD 5) (x.f.extractLsb' 0 4) st, fun _ => none⟩
  else none
theorem viewMajor4C_eq (x : Fields) : (decodeMajor4C x).map viewOf = viewMajor4C x := by
  unfold viewMajor4C decodeMajor4C
  simp only [apply_ite (Option.map viewOf), Option.map_some, Option.map_none]
  rfl
def viewMajor4D (x : Fields) : Option SlotView :=
  if x.d = 0 ∧ x.b = 0 ∧ x.f = 0 then some ⟨Instr.wf (.mpush x.s x.a), Instr.slotInfo (.mpush x.s x.a), fun st => execMpush x.a st, fun _ => none⟩
  else if x.d = 0 ∧ x.b = 0 ∧ x.f = 1 then some ⟨Instr.wf (.mpushRaw x.s x.a), Instr.slotInfo (.mpushRaw x.s x.a), fun st => execMpushRaw x.a st, fun _ => none⟩
  else if x.d = 0 ∧ x.b = 0 ∧ x.f = 2 then some ⟨Instr.wf (.mpushX x.s x.a), Instr.slotInfo (.mpushX x.s x.a), fun st => execMpushX x.a st, fun _ => none⟩
  else if x.d = 0 ∧ x.b = 0 ∧ x.f = 3 then some ⟨Instr.wf (.mpushXRaw x.s x.a), Instr.slotInfo (.mpushXRaw x.s x.a), fun st => execMpushXRaw x.a st, fun _ => none⟩
  else if x.d = 0 ∧ x.a = 0 ∧ x.b = 0 ∧ x.f = 8 then some ⟨Instr.wf (.minv x.s), Instr.slotInfo (.minv x.s), fun st => execMinv st, fun _ => none⟩
  else if x.d = 0 ∧ x.a = 0 ∧ x.b.extractLsb' 4 2 = 0 ∧ x.f = 16 then some ⟨Instr.wf (.mpop x.s (x.b.extractLsb' 0 4)), Instr.slotInfo (.mpop x.s (x.b.extractLsb' 0 4)), fun st => execMpop (x.b.extractLsb' 0 4) st, fun _ => none⟩
  else if x.d = 0 ∧ x.a = 0 ∧ x.b = 0 ∧ x.f = 24 then some ⟨Instr.wf (.mdup x.s), Instr.slotInfo (.mdup x.s), fun st => execMdup st, fun _ => none⟩
  else if x.d = 0 ∧ x.a = 0 ∧ x.b = 0 ∧ x.f = 32 then some ⟨Instr.wf (.mall x.s), Instr.slotInfo (.mall x.s), fun st => execMall st, fun _ => none⟩
  else none
theorem viewMajor4D_eq (x : Fields) : (decodeMajor4D x).map viewOf = viewMajor4D x := by
  unfold viewMajor4D decodeMajor4D
  simp only [apply_ite (Option.map viewOf), Option.map_some, Option.map_none]
  rfl
def viewMajor4E (x : Fields) : Option SlotView :=
  if x.b = 0 ∧ x.f.extractLsb' 2 4 = 0 then some ⟨Instr.wf (.vbcast x.s x.d x.a (x.f.extractLsb' 0 2)), Instr.slotInfo (.vbcast x.s x.d x.a (x.f.extractLsb' 0 2)), fun st => execVbcast x.d x.a (x.f.extractLsb' 0 2) st, fun _ => none⟩
  else if x.f.extractLsb' 2 2 = 1 then some ⟨Instr.wf (.vext x.s x.d x.a x.b (x.f.getLsbD 5) (x.f.getLsbD 4) (x.f.extractLsb' 0 2)), Instr.slotInfo (.vext x.s x.d x.a x.b (x.f.getLsbD 5) (x.f.getLsbD 4) (x.f.extractLsb' 0 2)), fun st => execVext x.d x.a x.b (x.f.getLsbD 5) (x.f.getLsbD 4) (x.f.extractLsb' 0 2) st, fun _ => none⟩
  else if x.f.extractLsb' 5 1 = 0 ∧ x.f.extractLsb' 2 2 = 2 then some ⟨Instr.wf (.vins x.s x.d x.a x.b (x.f.getLsbD 4) (x.f.extractLsb' 0 2)), Instr.slotInfo (.vins x.s x.d x.a x.b (x.f.getLsbD 4) (x.f.extractLsb' 0 2)), fun st => execVins x.d x.a x.b (x.f.getLsbD 4) (x.f.extractLsb' 0 2) st, fun _ => none⟩
  else none
theorem viewMajor4E_eq (x : Fields) : (decodeMajor4E x).map viewOf = viewMajor4E x := by
  unfold viewMajor4E decodeMajor4E
  simp only [apply_ite (Option.map viewOf), Option.map_some, Option.map_none]
  rfl
def viewMajor4F (x : Fields) : Option SlotView :=
  if x.f = 0 then some ⟨Instr.wf (.vperm x.s x.d x.a x.b), Instr.slotInfo (.vperm x.s x.d x.a x.b), fun st => execVperm x.d x.a x.b st, fun _ => none⟩
  else if x.f = 1 then some ⟨Instr.wf (.vperm2 x.s x.d x.a x.b), Instr.slotInfo (.vperm2 x.s x.d x.a x.b), fun st => execVperm2 x.d x.a x.b st, fun _ => none⟩
  else if x.f = 2 then some ⟨Instr.wf (.vpermB x.s x.d x.a x.b), Instr.slotInfo (.vpermB x.s x.d x.a x.b), fun st => execVpermB x.d x.a x.b st, fun _ => none⟩
  else if x.f = 16 then some ⟨Instr.wf (.vxswz x.s x.d x.a x.b), Instr.slotInfo (.vxswz x.s x.d x.a x.b), fun st => execVxswz x.d x.a x.b st, fun _ => none⟩
  else if x.f = 17 then some ⟨Instr.wf (.vxswzi x.s x.d x.a x.b), Instr.slotInfo (.vxswzi x.s x.d x.a x.b), fun st => execVxswzi x.d x.a x.b st, fun _ => none⟩
  else none
theorem viewMajor4F_eq (x : Fields) : (decodeMajor4F x).map viewOf = viewMajor4F x := by
  unfold viewMajor4F decodeMajor4F
  simp only [apply_ite (Option.map viewOf), Option.map_some, Option.map_none]
  rfl
def viewMajor50 (x : Fields) : Option SlotView :=
  if x.b = 0 ∧ x.f.extractLsb' 4 2 = 0 then some ⟨Instr.wf (.vredAdd x.s x.d x.a (x.f.extractLsb' 0 4)), Instr.slotInfo (.vredAdd x.s x.d x.a (x.f.extractLsb' 0 4)), fun st => execVredAdd x.d x.a (x.f.extractLsb' 0 4) st, fun _ => none⟩
  else if x.b = 0 ∧ x.f.extractLsb' 4 2 = 1 then some ⟨Instr.wf (.vredMin x.s x.d x.a (x.f.extractLsb' 0 4)), Instr.slotInfo (.vredMin x.s x.d x.a (x.f.extractLsb' 0 4)), fun st => execVredMin x.d x.a (x.f.extractLsb' 0 4) st, fun _ => none⟩
  else if x.b = 0 ∧ x.f.extractLsb' 4 2 = 2 then some ⟨Instr.wf (.vredMax x.s x.d x.a (x.f.extractLsb' 0 4)), Instr.slotInfo (.vredMax x.s x.d x.a (x.f.extractLsb' 0 4)), fun st => execVredMax x.d x.a (x.f.extractLsb' 0 4) st, fun _ => none⟩
  else none
theorem viewMajor50_eq (x : Fields) : (decodeMajor50 x).map viewOf = viewMajor50 x := by
  unfold viewMajor50 decodeMajor50
  simp only [apply_ite (Option.map viewOf), Option.map_some, Option.map_none]
  rfl
def viewMajor51 (x : Fields) : Option SlotView :=
  some ⟨Instr.wf (.vdot x.s x.d x.a x.b (x.f.getLsbD 5) (x.f.getLsbD 4) (x.f.extractLsb' 0 4)), Instr.slotInfo (.vdot x.s x.d x.a x.b (x.f.getLsbD 5) (x.f.getLsbD 4) (x.f.extractLsb' 0 4)), fun st => execVdot x.d x.a x.b (x.f.getLsbD 5) (x.f.getLsbD 4) (x.f.extractLsb' 0 4) st, fun _ => none⟩
theorem viewMajor51_eq (x : Fields) : (decodeMajor51 x).map viewOf = viewMajor51 x := by
  unfold viewMajor51 decodeMajor51
  rfl
def viewMajor52 (x : Fields) : Option SlotView :=
  if x.f.extractLsb' 2 4 = 0 then some ⟨Instr.wf (.viota x.s x.d x.a x.b (x.f.extractLsb' 0 2)), Instr.slotInfo (.viota x.s x.d x.a x.b (x.f.extractLsb' 0 2)), fun st => execViota x.d x.a x.b (x.f.extractLsb' 0 2) st, fun _ => none⟩
  else if x.a = 0 ∧ x.b = 0 ∧ x.f = 8 then some ⟨Instr.wf (.viotaM x.s x.d), Instr.slotInfo (.viotaM x.s x.d), fun st => execViotaM x.d st, fun _ => none⟩
  else none
theorem viewMajor52_eq (x : Fields) : (decodeMajor52 x).map viewOf = viewMajor52 x := by
  unfold viewMajor52 decodeMajor52
  simp only [apply_ite (Option.map viewOf), Option.map_some, Option.map_none]
  rfl
def viewMajor53 (x : Fields) : Option SlotView :=
  if x.b = 0 ∧ x.f.extractLsb' 4 1 = 0 then some ⟨Instr.wf (.vabs x.s x.d x.a (x.f.getLsbD 5) (x.f.extractLsb' 0 4)), Instr.slotInfo (.vabs x.s x.d x.a (x.f.getLsbD 5) (x.f.extractLsb' 0 4)), fun st => execVabs x.d x.a (x.f.getLsbD 5) (x.f.extractLsb' 0 4) st, fun _ => none⟩
  else if x.b = 0 ∧ x.f.extractLsb' 4 1 = 1 then some ⟨Instr.wf (.vneg x.s x.d x.a (x.f.getLsbD 5) (x.f.extractLsb' 0 4)), Instr.slotInfo (.vneg x.s x.d x.a (x.f.getLsbD 5) (x.f.extractLsb' 0 4)), fun st => execVneg x.d x.a (x.f.getLsbD 5) (x.f.extractLsb' 0 4) st, fun _ => none⟩
  else none
theorem viewMajor53_eq (x : Fields) : (decodeMajor53 x).map viewOf = viewMajor53 x := by
  unfold viewMajor53 decodeMajor53
  simp only [apply_ite (Option.map viewOf), Option.map_some, Option.map_none]
  rfl
def viewMajor54 (x : Fields) : Option SlotView :=
  if x.d = 0 ∧ x.b = 0 ∧ x.f = 0 then some ⟨Instr.wf (.vseed x.s x.a), Instr.slotInfo (.vseed x.s x.a), fun st => execVseed x.a st, fun _ => none⟩
  else if x.d = 0 ∧ x.b = 0 ∧ x.f = 1 then some ⟨Instr.wf (.vseedX x.s x.a), Instr.slotInfo (.vseedX x.s x.a), fun st => execVseedX x.a st, fun _ => none⟩
  else if x.a = 0 ∧ x.b = 0 ∧ x.f = 2 then some ⟨Instr.wf (.vseedrd x.s x.d), Instr.slotInfo (.vseedrd x.s x.d), fun st => execVseedrd x.d st, fun _ => none⟩
  else none
theorem viewMajor54_eq (x : Fields) : (decodeMajor54 x).map viewOf = viewMajor54 x := by
  unfold viewMajor54 decodeMajor54
  simp only [apply_ite (Option.map viewOf), Option.map_some, Option.map_none]
  rfl
def viewMajor55 (x : Fields) : Option SlotView :=
  if x.b = 0 ∧ x.f = 0 then some ⟨Instr.wf (.vmov x.s x.d x.a), Instr.slotInfo (.vmov x.s x.d x.a), fun st => execVmov x.d x.a st, fun _ => none⟩
  else if x.b = 0 ∧ x.f = 1 then some ⟨Instr.wf (.vmovZ x.s x.d x.a), Instr.slotInfo (.vmovZ x.s x.d x.a), fun st => execVmovZ x.d x.a st, fun _ => none⟩
  else if x.a = 0 ∧ x.b = 0 ∧ x.f = 2 then some ⟨Instr.wf (.vmovM x.s x.d), Instr.slotInfo (.vmovM x.s x.d), fun st => execVmovM x.d st, fun _ => none⟩
  else none
theorem viewMajor55_eq (x : Fields) : (decodeMajor55 x).map viewOf = viewMajor55 x := by
  unfold viewMajor55 decodeMajor55
  simp only [apply_ite (Option.map viewOf), Option.map_some, Option.map_none]
  rfl
def viewMajor58 (x : Fields) : Option SlotView :=
  if x.f.extractLsb' 5 1 = 0 then some ⟨Instr.wf (.lds x.s x.d x.a x.b (x.f.getLsbD 4) (x.f.getLsbD 3) (x.f.getLsbD 2) (x.f.extractLsb' 0 2)), Instr.slotInfo (.lds x.s x.d x.a x.b (x.f.getLsbD 4) (x.f.getLsbD 3) (x.f.getLsbD 2) (x.f.extractLsb' 0 2)), fun st => execLds x.d x.a x.b (x.f.getLsbD 4) (x.f.getLsbD 3) (x.f.getLsbD 2) (x.f.extractLsb' 0 2) st, fun _ => none⟩
  else none
theorem viewMajor58_eq (x : Fields) : (decodeMajor58 x).map viewOf = viewMajor58 x := by
  unfold viewMajor58 decodeMajor58
  simp only [apply_ite (Option.map viewOf), Option.map_some, Option.map_none]
  rfl
def viewMajor59 (x : Fields) : Option SlotView :=
  if x.f.extractLsb' 5 1 = 0 ∧ x.f.extractLsb' 2 1 = 0 then some ⟨Instr.wf (.sts x.s x.d x.a x.b (x.f.getLsbD 4) (x.f.getLsbD 3) (x.f.extractLsb' 0 2)), Instr.slotInfo (.sts x.s x.d x.a x.b (x.f.getLsbD 4) (x.f.getLsbD 3) (x.f.extractLsb' 0 2)), fun st => execSts x.d x.a x.b (x.f.getLsbD 4) (x.f.getLsbD 3) (x.f.extractLsb' 0 2) st, fun _ => none⟩
  else none
theorem viewMajor59_eq (x : Fields) : (decodeMajor59 x).map viewOf = viewMajor59 x := by
  unfold viewMajor59 decodeMajor59
  simp only [apply_ite (Option.map viewOf), Option.map_some, Option.map_none]
  rfl
def viewMajor5A (x : Fields) : Option SlotView :=
  if x.f.extractLsb' 5 1 = 0 ∧ x.f.extractLsb' 0 2 = 0 then some ⟨Instr.wf (.ldf x.s x.d x.a x.b (x.f.getLsbD 4) (x.f.getLsbD 3) (x.f.getLsbD 2)), Instr.slotInfo (.ldf x.s x.d x.a x.b (x.f.getLsbD 4) (x.f.getLsbD 3) (x.f.getLsbD 2)), fun st => execLdf x.d x.a x.b (x.f.getLsbD 4) (x.f.getLsbD 3) (x.f.getLsbD 2) st, fun _ => none⟩
  else if x.f.extractLsb' 5 1 = 0 ∧ x.f.extractLsb' 0 2 = 1 then some ⟨Instr.wf (.ldfe x.s x.d x.a x.b (x.f.getLsbD 4) (x.f.getLsbD 3) (x.f.getLsbD 2)), Instr.slotInfo (.ldfe x.s x.d x.a x.b (x.f.getLsbD 4) (x.f.getLsbD 3) (x.f.getLsbD 2)), fun st => execLdfe x.d x.a x.b (x.f.getLsbD 4) (x.f.getLsbD 3) (x.f.getLsbD 2) st, fun _ => none⟩
  else none
theorem viewMajor5A_eq (x : Fields) : (decodeMajor5A x).map viewOf = viewMajor5A x := by
  unfold viewMajor5A decodeMajor5A
  simp only [apply_ite (Option.map viewOf), Option.map_some, Option.map_none]
  rfl
def viewMajor5B (x : Fields) : Option SlotView :=
  if x.f.extractLsb' 5 1 = 0 ∧ x.f.extractLsb' 0 3 = 0 then some ⟨Instr.wf (.ste x.s x.d x.a x.b (x.f.getLsbD 4) (x.f.getLsbD 3)), Instr.slotInfo (.ste x.s x.d x.a x.b (x.f.getLsbD 4) (x.f.getLsbD 3)), fun st => execSte x.d x.a x.b (x.f.getLsbD 4) (x.f.getLsbD 3) st, fun _ => none⟩
  else if x.f.extractLsb' 5 1 = 0 ∧ x.f.extractLsb' 0 3 = 1 then some ⟨Instr.wf (.stf x.s x.d x.a x.b (x.f.getLsbD 4) (x.f.getLsbD 3)), Instr.slotInfo (.stf x.s x.d x.a x.b (x.f.getLsbD 4) (x.f.getLsbD 3)), fun st => execStf x.d x.a x.b (x.f.getLsbD 4) (x.f.getLsbD 3) st, fun _ => none⟩
  else if x.d = 0 ∧ x.f.extractLsb' 5 1 = 0 ∧ x.f.extractLsb' 0 3 = 2 then some ⟨Instr.wf (.tagclr x.s x.a x.b (x.f.getLsbD 4) (x.f.getLsbD 3)), Instr.slotInfo (.tagclr x.s x.a x.b (x.f.getLsbD 4) (x.f.getLsbD 3)), fun st => execTagclr x.a x.b (x.f.getLsbD 4) (x.f.getLsbD 3) st, fun _ => none⟩
  else none
theorem viewMajor5B_eq (x : Fields) : (decodeMajor5B x).map viewOf = viewMajor5B x := by
  unfold viewMajor5B decodeMajor5B
  simp only [apply_ite (Option.map viewOf), Option.map_some, Option.map_none]
  rfl
def viewMajor5C (x : Fields) : Option SlotView :=
  if x.b = 0 ∧ x.f = 0 then some ⟨Instr.wf (.vld x.s x.d x.a), Instr.slotInfo (.vld x.s x.d x.a), fun st => execVld x.d x.a st, fun _ => none⟩
  else if x.b = 0 ∧ x.f = 1 then some ⟨Instr.wf (.vldBank x.s x.d x.a), Instr.slotInfo (.vldBank x.s x.d x.a), fun st => execVldBank x.d x.a st, fun _ => none⟩
  else if x.f = 2 then some ⟨Instr.wf (.vldStr x.s x.d x.a x.b), Instr.slotInfo (.vldStr x.s x.d x.a x.b), fun st => execVldStr x.d x.a x.b st, fun _ => none⟩
  else if x.a.extractLsb' 4 2 = 0 ∧ x.f.extractLsb' 4 2 = 0 ∧ x.f.extractLsb' 0 3 = 4 then some ⟨Instr.wf (.vldG x.s x.d (x.a.extractLsb' 0 4) x.b (x.f.getLsbD 3)), Instr.slotInfo (.vldG x.s x.d (x.a.extractLsb' 0 4) x.b (x.f.getLsbD 3)), fun st => execVldG x.d (x.a.extractLsb' 0 4) x.b (x.f.getLsbD 3) st, fun _ => none⟩
  else none
theorem viewMajor5C_eq (x : Fields) : (decodeMajor5C x).map viewOf = viewMajor5C x := by
  unfold viewMajor5C decodeMajor5C
  simp only [apply_ite (Option.map viewOf), Option.map_some, Option.map_none]
  rfl
def viewMajor5D (x : Fields) : Option SlotView :=
  if x.b = 0 ∧ x.f = 0 then some ⟨Instr.wf (.vst x.s x.d x.a), Instr.slotInfo (.vst x.s x.d x.a), fun st => execVst x.d x.a st, fun _ => none⟩
  else if x.b = 0 ∧ x.f = 1 then some ⟨Instr.wf (.vstBank x.s x.d x.a), Instr.slotInfo (.vstBank x.s x.d x.a), fun st => execVstBank x.d x.a st, fun _ => none⟩
  else if x.f = 2 then some ⟨Instr.wf (.vstStr x.s x.d x.a x.b), Instr.slotInfo (.vstStr x.s x.d x.a x.b), fun st => execVstStr x.d x.a x.b st, fun _ => none⟩
  else if x.a.extractLsb' 4 2 = 0 ∧ x.f.extractLsb' 5 1 = 0 ∧ x.f.extractLsb' 0 4 = 4 then some ⟨Instr.wf (.vstG x.s x.d (x.a.extractLsb' 0 4) x.b (x.f.getLsbD 4)), Instr.slotInfo (.vstG x.s x.d (x.a.extractLsb' 0 4) x.b (x.f.getLsbD 4)), fun st => execVstG x.d (x.a.extractLsb' 0 4) x.b (x.f.getLsbD 4) st, fun _ => none⟩
  else none
theorem viewMajor5D_eq (x : Fields) : (decodeMajor5D x).map viewOf = viewMajor5D x := by
  unfold viewMajor5D decodeMajor5D
  simp only [apply_ite (Option.map viewOf), Option.map_some, Option.map_none]
  rfl
def viewMajor5E (x : Fields) : Option SlotView :=
  if x.f = 0 then some ⟨Instr.wf (.vldg x.s x.d x.a x.b), Instr.slotInfo (.vldg x.s x.d x.a x.b), fun st => execVldg x.d x.a x.b st, fun _ => none⟩
  else if x.a.extractLsb' 4 2 = 0 ∧ x.f.extractLsb' 4 2 = 0 ∧ x.f.extractLsb' 0 3 = 4 then some ⟨Instr.wf (.vldgG x.s x.d (x.a.extractLsb' 0 4) x.b (x.f.getLsbD 3)), Instr.slotInfo (.vldgG x.s x.d (x.a.extractLsb' 0 4) x.b (x.f.getLsbD 3)), fun st => execVldgG x.d (x.a.extractLsb' 0 4) x.b (x.f.getLsbD 3) st, fun _ => none⟩
  else if x.f = 1 then some ⟨Instr.wf (.vstg x.s x.d x.a x.b), Instr.slotInfo (.vstg x.s x.d x.a x.b), fun st => execVstg x.d x.a x.b st, fun _ => none⟩
  else if x.a.extractLsb' 4 2 = 0 ∧ x.f.extractLsb' 5 1 = 0 ∧ x.f.extractLsb' 0 4 = 5 then some ⟨Instr.wf (.vstgG x.s x.d (x.a.extractLsb' 0 4) x.b (x.f.getLsbD 4)), Instr.slotInfo (.vstgG x.s x.d (x.a.extractLsb' 0 4) x.b (x.f.getLsbD 4)), fun st => execVstgG x.d (x.a.extractLsb' 0 4) x.b (x.f.getLsbD 4) st, fun _ => none⟩
  else none
theorem viewMajor5E_eq (x : Fields) : (decodeMajor5E x).map viewOf = viewMajor5E x := by
  unfold viewMajor5E decodeMajor5E
  simp only [apply_ite (Option.map viewOf), Option.map_some, Option.map_none]
  rfl
def viewMajor5F (x : Fields) : Option SlotView :=
  if x.f.extractLsb' 2 4 = 0 then some ⟨Instr.wf (.vldt x.s x.d x.a x.b (x.f.extractLsb' 0 2)), Instr.slotInfo (.vldt x.s x.d x.a x.b (x.f.extractLsb' 0 2)), fun st => execVldt x.d x.a x.b (x.f.extractLsb' 0 2) st, fun _ => none⟩
  else none
theorem viewMajor5F_eq (x : Fields) : (decodeMajor5F x).map viewOf = viewMajor5F x := by
  unfold viewMajor5F decodeMajor5F
  simp only [apply_ite (Option.map viewOf), Option.map_some, Option.map_none]
  rfl
def viewMajor60 (x : Fields) : Option SlotView :=
  if x.a.extractLsb' 4 2 = 0 ∧ x.f.extractLsb' 5 1 = 0 then some ⟨Instr.wf (.ldg x.s x.d (x.a.extractLsb' 0 4) x.b (x.f.getLsbD 4) (x.f.getLsbD 3) (x.f.getLsbD 2) (x.f.extractLsb' 0 2)), Instr.slotInfo (.ldg x.s x.d (x.a.extractLsb' 0 4) x.b (x.f.getLsbD 4) (x.f.getLsbD 3) (x.f.getLsbD 2) (x.f.extractLsb' 0 2)), fun st => execLdg x.d (x.a.extractLsb' 0 4) x.b (x.f.getLsbD 4) (x.f.getLsbD 3) (x.f.getLsbD 2) (x.f.extractLsb' 0 2) st, fun _ => none⟩
  else none
theorem viewMajor60_eq (x : Fields) : (decodeMajor60 x).map viewOf = viewMajor60 x := by
  unfold viewMajor60 decodeMajor60
  simp only [apply_ite (Option.map viewOf), Option.map_some, Option.map_none]
  rfl
def viewMajor61 (x : Fields) : Option SlotView :=
  if x.a.extractLsb' 4 2 = 0 ∧ x.f.extractLsb' 5 1 = 0 ∧ x.f.extractLsb' 2 1 = 0 then some ⟨Instr.wf (.stg x.s x.d (x.a.extractLsb' 0 4) x.b (x.f.getLsbD 4) (x.f.getLsbD 3) (x.f.extractLsb' 0 2)), Instr.slotInfo (.stg x.s x.d (x.a.extractLsb' 0 4) x.b (x.f.getLsbD 4) (x.f.getLsbD 3) (x.f.extractLsb' 0 2)), fun st => execStg x.d (x.a.extractLsb' 0 4) x.b (x.f.getLsbD 4) (x.f.getLsbD 3) (x.f.extractLsb' 0 2) st, fun _ => none⟩
  else none
theorem viewMajor61_eq (x : Fields) : (decodeMajor61 x).map viewOf = viewMajor61 x := by
  unfold viewMajor61 decodeMajor61
  simp only [apply_ite (Option.map viewOf), Option.map_some, Option.map_none]
  rfl
def viewMajor62 (x : Fields) : Option SlotView :=
  if x.a.extractLsb' 4 2 = 0 ∧ x.f.extractLsb' 5 1 = 0 then some ⟨Instr.wf (.lda x.s x.d (x.a.extractLsb' 0 4) x.b (x.f.extractLsb' 3 2) (x.f.extractLsb' 0 3)), Instr.slotInfo (.lda x.s x.d (x.a.extractLsb' 0 4) x.b (x.f.extractLsb' 3 2) (x.f.extractLsb' 0 3)), fun st => execLda x.d (x.a.extractLsb' 0 4) x.b (x.f.extractLsb' 3 2) (x.f.extractLsb' 0 3) st, fun _ => none⟩
  else if x.a.extractLsb' 4 2 = 0 ∧ x.f.extractLsb' 5 1 = 1 then some ⟨Instr.wf (.sta x.s x.d (x.a.extractLsb' 0 4) x.b (x.f.extractLsb' 3 2) (x.f.extractLsb' 0 3)), Instr.slotInfo (.sta x.s x.d (x.a.extractLsb' 0 4) x.b (x.f.extractLsb' 3 2) (x.f.extractLsb' 0 3)), fun st => execSta x.d (x.a.extractLsb' 0 4) x.b (x.f.extractLsb' 3 2) (x.f.extractLsb' 0 3) st, fun _ => none⟩
  else none
theorem viewMajor62_eq (x : Fields) : (decodeMajor62 x).map viewOf = viewMajor62 x := by
  unfold viewMajor62 decodeMajor62
  simp only [apply_ite (Option.map viewOf), Option.map_some, Option.map_none]
  rfl
def viewMajor63 (x : Fields) : Option SlotView :=
  if x.f.extractLsb' 2 4 = 0 then some ⟨Instr.wf (.atomSwap x.s x.d (x.a.extractLsb' 4 2) (x.a.extractLsb' 0 4) x.b (x.f.getLsbD 1) (x.f.getLsbD 0)), Instr.slotInfo (.atomSwap x.s x.d (x.a.extractLsb' 4 2) (x.a.extractLsb' 0 4) x.b (x.f.getLsbD 1) (x.f.getLsbD 0)), fun st => execAtomSwap x.d (x.a.extractLsb' 4 2) (x.a.extractLsb' 0 4) x.b (x.f.getLsbD 1) (x.f.getLsbD 0) st, fun _ => none⟩
  else if x.f.extractLsb' 2 4 = 1 then some ⟨Instr.wf (.atomCas x.s x.d (x.a.extractLsb' 4 2) (x.a.extractLsb' 0 4) x.b (x.f.getLsbD 1) (x.f.getLsbD 0)), Instr.slotInfo (.atomCas x.s x.d (x.a.extractLsb' 4 2) (x.a.extractLsb' 0 4) x.b (x.f.getLsbD 1) (x.f.getLsbD 0)), fun st => execAtomCas x.d (x.a.extractLsb' 4 2) (x.a.extractLsb' 0 4) x.b (x.f.getLsbD 1) (x.f.getLsbD 0) st, fun _ => none⟩
  else if x.f.extractLsb' 2 4 = 2 then some ⟨Instr.wf (.atomAdd x.s x.d (x.a.extractLsb' 4 2) (x.a.extractLsb' 0 4) x.b (x.f.getLsbD 1) (x.f.getLsbD 0)), Instr.slotInfo (.atomAdd x.s x.d (x.a.extractLsb' 4 2) (x.a.extractLsb' 0 4) x.b (x.f.getLsbD 1) (x.f.getLsbD 0)), fun st => execAtomAdd x.d (x.a.extractLsb' 4 2) (x.a.extractLsb' 0 4) x.b (x.f.getLsbD 1) (x.f.getLsbD 0) st, fun _ => none⟩
  else if x.f.extractLsb' 2 4 = 3 then some ⟨Instr.wf (.atomAnd x.s x.d (x.a.extractLsb' 4 2) (x.a.extractLsb' 0 4) x.b (x.f.getLsbD 1) (x.f.getLsbD 0)), Instr.slotInfo (.atomAnd x.s x.d (x.a.extractLsb' 4 2) (x.a.extractLsb' 0 4) x.b (x.f.getLsbD 1) (x.f.getLsbD 0)), fun st => execAtomAnd x.d (x.a.extractLsb' 4 2) (x.a.extractLsb' 0 4) x.b (x.f.getLsbD 1) (x.f.getLsbD 0) st, fun _ => none⟩
  else if x.f.extractLsb' 2 4 = 4 then some ⟨Instr.wf (.atomOr x.s x.d (x.a.extractLsb' 4 2) (x.a.extractLsb' 0 4) x.b (x.f.getLsbD 1) (x.f.getLsbD 0)), Instr.slotInfo (.atomOr x.s x.d (x.a.extractLsb' 4 2) (x.a.extractLsb' 0 4) x.b (x.f.getLsbD 1) (x.f.getLsbD 0)), fun st => execAtomOr x.d (x.a.extractLsb' 4 2) (x.a.extractLsb' 0 4) x.b (x.f.getLsbD 1) (x.f.getLsbD 0) st, fun _ => none⟩
  else if x.f.extractLsb' 2 4 = 5 then some ⟨Instr.wf (.atomXor x.s x.d (x.a.extractLsb' 4 2) (x.a.extractLsb' 0 4) x.b (x.f.getLsbD 1) (x.f.getLsbD 0)), Instr.slotInfo (.atomXor x.s x.d (x.a.extractLsb' 4 2) (x.a.extractLsb' 0 4) x.b (x.f.getLsbD 1) (x.f.getLsbD 0)), fun st => execAtomXor x.d (x.a.extractLsb' 4 2) (x.a.extractLsb' 0 4) x.b (x.f.getLsbD 1) (x.f.getLsbD 0) st, fun _ => none⟩
  else if x.f.extractLsb' 2 4 = 6 then some ⟨Instr.wf (.atomMinS x.s x.d (x.a.extractLsb' 4 2) (x.a.extractLsb' 0 4) x.b (x.f.getLsbD 1) (x.f.getLsbD 0)), Instr.slotInfo (.atomMinS x.s x.d (x.a.extractLsb' 4 2) (x.a.extractLsb' 0 4) x.b (x.f.getLsbD 1) (x.f.getLsbD 0)), fun st => execAtomMinS x.d (x.a.extractLsb' 4 2) (x.a.extractLsb' 0 4) x.b (x.f.getLsbD 1) (x.f.getLsbD 0) st, fun _ => none⟩
  else if x.f.extractLsb' 2 4 = 7 then some ⟨Instr.wf (.atomMaxS x.s x.d (x.a.extractLsb' 4 2) (x.a.extractLsb' 0 4) x.b (x.f.getLsbD 1) (x.f.getLsbD 0)), Instr.slotInfo (.atomMaxS x.s x.d (x.a.extractLsb' 4 2) (x.a.extractLsb' 0 4) x.b (x.f.getLsbD 1) (x.f.getLsbD 0)), fun st => execAtomMaxS x.d (x.a.extractLsb' 4 2) (x.a.extractLsb' 0 4) x.b (x.f.getLsbD 1) (x.f.getLsbD 0) st, fun _ => none⟩
  else if x.f.extractLsb' 2 4 = 8 then some ⟨Instr.wf (.atomMinZ x.s x.d (x.a.extractLsb' 4 2) (x.a.extractLsb' 0 4) x.b (x.f.getLsbD 1) (x.f.getLsbD 0)), Instr.slotInfo (.atomMinZ x.s x.d (x.a.extractLsb' 4 2) (x.a.extractLsb' 0 4) x.b (x.f.getLsbD 1) (x.f.getLsbD 0)), fun st => execAtomMinZ x.d (x.a.extractLsb' 4 2) (x.a.extractLsb' 0 4) x.b (x.f.getLsbD 1) (x.f.getLsbD 0) st, fun _ => none⟩
  else if x.f.extractLsb' 2 4 = 9 then some ⟨Instr.wf (.atomMaxZ x.s x.d (x.a.extractLsb' 4 2) (x.a.extractLsb' 0 4) x.b (x.f.getLsbD 1) (x.f.getLsbD 0)), Instr.slotInfo (.atomMaxZ x.s x.d (x.a.extractLsb' 4 2) (x.a.extractLsb' 0 4) x.b (x.f.getLsbD 1) (x.f.getLsbD 0)), fun st => execAtomMaxZ x.d (x.a.extractLsb' 4 2) (x.a.extractLsb' 0 4) x.b (x.f.getLsbD 1) (x.f.getLsbD 0) st, fun _ => none⟩
  else if x.f.extractLsb' 2 4 = 10 then some ⟨Instr.wf (.atomFadd x.s x.d (x.a.extractLsb' 4 2) (x.a.extractLsb' 0 4) x.b (x.f.getLsbD 1) (x.f.getLsbD 0)), Instr.slotInfo (.atomFadd x.s x.d (x.a.extractLsb' 4 2) (x.a.extractLsb' 0 4) x.b (x.f.getLsbD 1) (x.f.getLsbD 0)), fun st => execAtomFadd x.d (x.a.extractLsb' 4 2) (x.a.extractLsb' 0 4) x.b (x.f.getLsbD 1) (x.f.getLsbD 0) st, fun _ => none⟩
  else if x.f.extractLsb' 2 4 = 11 then some ⟨Instr.wf (.atomFmin x.s x.d (x.a.extractLsb' 4 2) (x.a.extractLsb' 0 4) x.b (x.f.getLsbD 1) (x.f.getLsbD 0)), Instr.slotInfo (.atomFmin x.s x.d (x.a.extractLsb' 4 2) (x.a.extractLsb' 0 4) x.b (x.f.getLsbD 1) (x.f.getLsbD 0)), fun st => execAtomFmin x.d (x.a.extractLsb' 4 2) (x.a.extractLsb' 0 4) x.b (x.f.getLsbD 1) (x.f.getLsbD 0) st, fun _ => none⟩
  else if x.f.extractLsb' 2 4 = 12 then some ⟨Instr.wf (.atomFmax x.s x.d (x.a.extractLsb' 4 2) (x.a.extractLsb' 0 4) x.b (x.f.getLsbD 1) (x.f.getLsbD 0)), Instr.slotInfo (.atomFmax x.s x.d (x.a.extractLsb' 4 2) (x.a.extractLsb' 0 4) x.b (x.f.getLsbD 1) (x.f.getLsbD 0)), fun st => execAtomFmax x.d (x.a.extractLsb' 4 2) (x.a.extractLsb' 0 4) x.b (x.f.getLsbD 1) (x.f.getLsbD 0) st, fun _ => none⟩
  else none
theorem viewMajor63_eq (x : Fields) : (decodeMajor63 x).map viewOf = viewMajor63 x := by
  unfold viewMajor63 decodeMajor63
  simp only [apply_ite (Option.map viewOf), Option.map_some, Option.map_none]
  rfl
def viewMajor64 (x : Fields) : Option SlotView :=
  some ⟨Instr.wf (.atomx x.s x.d (x.a.extractLsb' 4 2) (x.a.extractLsb' 0 4) x.b x.f), Instr.slotInfo (.atomx x.s x.d (x.a.extractLsb' 4 2) (x.a.extractLsb' 0 4) x.b x.f), fun st => execAtomx x.d (x.a.extractLsb' 4 2) (x.a.extractLsb' 0 4) x.b x.f st, fun _ => none⟩
theorem viewMajor64_eq (x : Fields) : (decodeMajor64 x).map viewOf = viewMajor64 x := by
  unfold viewMajor64 decodeMajor64
  rfl
def viewMajor65 (x : Fields) : Option SlotView :=
  if x.d = 0 ∧ x.a = 0 ∧ x.b.extractLsb' 3 3 = 0 then some ⟨Instr.wf (.fence x.s (x.b.getLsbD 2) (x.b.getLsbD 1) (x.b.getLsbD 0) (x.f.getLsbD 5) (x.f.getLsbD 4) (x.f.getLsbD 3) (x.f.extractLsb' 0 3)), Instr.slotInfo (.fence x.s (x.b.getLsbD 2) (x.b.getLsbD 1) (x.b.getLsbD 0) (x.f.getLsbD 5) (x.f.getLsbD 4) (x.f.getLsbD 3) (x.f.extractLsb' 0 3)), fun st => execFence (x.b.getLsbD 2) (x.b.getLsbD 1) (x.b.getLsbD 0) (x.f.getLsbD 5) (x.f.getLsbD 4) (x.f.getLsbD 3) (x.f.extractLsb' 0 3) st, fun _ => none⟩
  else none
theorem viewMajor65_eq (x : Fields) : (decodeMajor65 x).map viewOf = viewMajor65 x := by
  unfold viewMajor65 decodeMajor65
  simp only [apply_ite (Option.map viewOf), Option.map_some, Option.map_none]
  rfl
def viewMajor66 (x : Fields) : Option SlotView :=
  if x.a.extractLsb' 4 2 = 0 ∧ x.f.extractLsb' 3 3 = 0 ∧ x.f.extractLsb' 0 2 = 0 then some ⟨Instr.wf (.prefetch x.s x.d (x.a.extractLsb' 0 4) x.b (x.f.getLsbD 2)), Instr.slotInfo (.prefetch x.s x.d (x.a.extractLsb' 0 4) x.b (x.f.getLsbD 2)), fun st => execPrefetch x.d (x.a.extractLsb' 0 4) x.b (x.f.getLsbD 2) st, fun _ => none⟩
  else if x.a.extractLsb' 4 2 = 0 ∧ x.f.extractLsb' 3 3 = 0 ∧ x.f.extractLsb' 0 2 = 1 then some ⟨Instr.wf (.flush x.s x.d (x.a.extractLsb' 0 4) x.b (x.f.getLsbD 2)), Instr.slotInfo (.flush x.s x.d (x.a.extractLsb' 0 4) x.b (x.f.getLsbD 2)), fun st => execFlush x.d (x.a.extractLsb' 0 4) x.b (x.f.getLsbD 2) st, fun _ => none⟩
  else if x.a.extractLsb' 4 2 = 0 ∧ x.f = 2 then some ⟨Instr.wf (.discard x.s x.d (x.a.extractLsb' 0 4) x.b), Instr.slotInfo (.discard x.s x.d (x.a.extractLsb' 0 4) x.b), fun st => execDiscard x.d (x.a.extractLsb' 0 4) x.b st, fun _ => none⟩
  else none
theorem viewMajor66_eq (x : Fields) : (decodeMajor66 x).map viewOf = viewMajor66 x := by
  unfold viewMajor66 decodeMajor66
  simp only [apply_ite (Option.map viewOf), Option.map_some, Option.map_none]
  rfl
def viewMajor67 (x : Fields) : Option SlotView :=
  if x.a.extractLsb' 4 2 = 0 then some ⟨Instr.wf (.sbopFill x.s x.d (x.a.extractLsb' 0 4) x.b (x.f.getLsbD 5) (x.f.extractLsb' 0 5)), Instr.slotInfo (.sbopFill x.s x.d (x.a.extractLsb' 0 4) x.b (x.f.getLsbD 5) (x.f.extractLsb' 0 5)), fun st => execSbopFill x.d (x.a.extractLsb' 0 4) x.b (x.f.getLsbD 5) (x.f.extractLsb' 0 5) st, fun _ => none⟩
  else if x.a.extractLsb' 4 2 = 1 then some ⟨Instr.wf (.sbopAdd x.s x.d (x.a.extractLsb' 0 4) x.b (x.f.getLsbD 5) (x.f.extractLsb' 0 5)), Instr.slotInfo (.sbopAdd x.s x.d (x.a.extractLsb' 0 4) x.b (x.f.getLsbD 5) (x.f.extractLsb' 0 5)), fun st => execSbopAdd x.d (x.a.extractLsb' 0 4) x.b (x.f.getLsbD 5) (x.f.extractLsb' 0 5) st, fun _ => none⟩
  else if x.a.extractLsb' 4 2 = 2 then some ⟨Instr.wf (.sbopFadd x.s x.d (x.a.extractLsb' 0 4) x.b (x.f.getLsbD 5) (x.f.extractLsb' 0 5)), Instr.slotInfo (.sbopFadd x.s x.d (x.a.extractLsb' 0 4) x.b (x.f.getLsbD 5) (x.f.extractLsb' 0 5)), fun st => execSbopFadd x.d (x.a.extractLsb' 0 4) x.b (x.f.getLsbD 5) (x.f.extractLsb' 0 5) st, fun _ => none⟩
  else if x.a.extractLsb' 4 2 = 3 then some ⟨Instr.wf (.sbopMax x.s x.d (x.a.extractLsb' 0 4) x.b (x.f.getLsbD 5) (x.f.extractLsb' 0 5)), Instr.slotInfo (.sbopMax x.s x.d (x.a.extractLsb' 0 4) x.b (x.f.getLsbD 5) (x.f.extractLsb' 0 5)), fun st => execSbopMax x.d (x.a.extractLsb' 0 4) x.b (x.f.getLsbD 5) (x.f.extractLsb' 0 5) st, fun _ => none⟩
  else none
theorem viewMajor67_eq (x : Fields) : (decodeMajor67 x).map viewOf = viewMajor67 x := by
  unfold viewMajor67 decodeMajor67
  simp only [apply_ite (Option.map viewOf), Option.map_some, Option.map_none]
  rfl
def viewMajor6C (x : Fields) : Option SlotView :=
  some ⟨Instr.wf (.mma x.s x.d x.a x.b (x.f.getLsbD 5) (x.f.getLsbD 4) (x.f.getLsbD 3) (x.f.extractLsb' 0 3)), Instr.slotInfo (.mma x.s x.d x.a x.b (x.f.getLsbD 5) (x.f.getLsbD 4) (x.f.getLsbD 3) (x.f.extractLsb' 0 3)), fun st => execMma x.d x.a x.b (x.f.getLsbD 5) (x.f.getLsbD 4) (x.f.getLsbD 3) (x.f.extractLsb' 0 3) st, fun _ => none⟩
theorem viewMajor6C_eq (x : Fields) : (decodeMajor6C x).map viewOf = viewMajor6C x := by
  unfold viewMajor6C decodeMajor6C
  rfl
def viewMajor6D (x : Fields) : Option SlotView :=
  if x.d = 0 ∧ x.f = 0 then some ⟨Instr.wf (.nset x.s x.a x.b), Instr.slotInfo (.nset x.s x.a x.b), fun st => execNset x.a x.b st, fun _ => none⟩
  else if x.d = 0 ∧ x.f = 1 then some ⟨Instr.wf (.nsetA x.s x.a x.b), Instr.slotInfo (.nsetA x.s x.a x.b), fun st => execNsetA x.a x.b st, fun _ => none⟩
  else if x.a = 0 ∧ x.f = 2 then some ⟨Instr.wf (.nget x.s x.d x.b), Instr.slotInfo (.nget x.s x.d x.b), fun st => execNget x.d x.b st, fun _ => none⟩
  else if x.a = 0 ∧ x.f = 3 then some ⟨Instr.wf (.ngetA x.s x.d x.b), Instr.slotInfo (.ngetA x.s x.d x.b), fun st => execNgetA x.d x.b st, fun _ => none⟩
  else none
theorem viewMajor6D_eq (x : Fields) : (decodeMajor6D x).map viewOf = viewMajor6D x := by
  unfold viewMajor6D decodeMajor6D
  simp only [apply_ite (Option.map viewOf), Option.map_some, Option.map_none]
  rfl
def viewMajor6E (x : Fields) : Option SlotView :=
  if x.a = 0 ∧ x.b = 0 ∧ x.f = 0 then some ⟨Instr.wf (.ngo x.s x.d), Instr.slotInfo (.ngo x.s x.d), fun st => execNgo x.d st, fun _ => none⟩
  else if x.f = 1 then some ⟨Instr.wf (.ngoM x.s x.d x.a x.b), Instr.slotInfo (.ngoM x.s x.d x.a x.b), fun st => execNgoM x.d x.a x.b st, fun _ => none⟩
  else none
theorem viewMajor6E_eq (x : Fields) : (decodeMajor6E x).map viewOf = viewMajor6E x := by
  unfold viewMajor6E decodeMajor6E
  simp only [apply_ite (Option.map viewOf), Option.map_some, Option.map_none]
  rfl
def viewMajor6F (x : Fields) : Option SlotView :=
  if x.f = 0 then some ⟨Instr.wf (.accrd x.s x.d x.a x.b), Instr.slotInfo (.accrd x.s x.d x.a x.b), fun st => execAccrd x.d x.a x.b st, fun _ => none⟩
  else if x.f = 1 then some ⟨Instr.wf (.accwr x.s x.d x.a x.b), Instr.slotInfo (.accwr x.s x.d x.a x.b), fun st => execAccwr x.d x.a x.b st, fun _ => none⟩
  else if x.a = 0 ∧ x.b = 0 ∧ x.f = 2 then some ⟨Instr.wf (.accz x.s x.d), Instr.slotInfo (.accz x.s x.d), fun st => execAccz x.d st, fun _ => none⟩
  else none
theorem viewMajor6F_eq (x : Fields) : (decodeMajor6F x).map viewOf = viewMajor6F x := by
  unfold viewMajor6F decodeMajor6F
  simp only [apply_ite (Option.map viewOf), Option.map_some, Option.map_none]
  rfl
def viewMajor70 (x : Fields) : Option SlotView :=
  some ⟨Instr.wf (.obcast x.s x.d x.a x.b x.f), Instr.slotInfo (.obcast x.s x.d x.a x.b x.f), fun st => execObcast x.d x.a x.b x.f st, fun _ => none⟩
theorem viewMajor70_eq (x : Fields) : (decodeMajor70 x).map viewOf = viewMajor70 x := by
  unfold viewMajor70 decodeMajor70
  rfl
def viewMajor71 (x : Fields) : Option SlotView :=
  if x.f.extractLsb' 5 1 = 0 then some ⟨Instr.wf (.mopen x.s x.d x.a x.b (x.f.extractLsb' 0 5)), Instr.slotInfo (.mopen x.s x.d x.a x.b (x.f.extractLsb' 0 5)), fun st => execMopen x.d x.a x.b (x.f.extractLsb' 0 5) st, fun _ => none⟩
  else if x.f.extractLsb' 5 1 = 1 then some ⟨Instr.wf (.accmerge x.s x.d x.a x.b (x.f.extractLsb' 3 2) (x.f.getLsbD 2) (x.f.extractLsb' 0 2)), Instr.slotInfo (.accmerge x.s x.d x.a x.b (x.f.extractLsb' 3 2) (x.f.getLsbD 2) (x.f.extractLsb' 0 2)), fun st => execAccmerge x.d x.a x.b (x.f.extractLsb' 3 2) (x.f.getLsbD 2) (x.f.extractLsb' 0 2) st, fun _ => none⟩
  else none
theorem viewMajor71_eq (x : Fields) : (decodeMajor71 x).map viewOf = viewMajor71 x := by
  unfold viewMajor71 decodeMajor71
  simp only [apply_ite (Option.map viewOf), Option.map_some, Option.map_none]
  rfl
def viewMajor72 (x : Fields) : Option SlotView :=
  some ⟨Instr.wf (.copy x.s x.d x.a x.b (x.f.extractLsb' 3 3) (x.f.extractLsb' 0 3)), Instr.slotInfo (.copy x.s x.d x.a x.b (x.f.extractLsb' 3 3) (x.f.extractLsb' 0 3)), fun st => execCopy x.d x.a x.b (x.f.extractLsb' 3 3) (x.f.extractLsb' 0 3) st, fun _ => none⟩
theorem viewMajor72_eq (x : Fields) : (decodeMajor72 x).map viewOf = viewMajor72 x := by
  unfold viewMajor72 decodeMajor72
  rfl
def viewMajor73 (x : Fields) : Option SlotView :=
  some ⟨Instr.wf (.send x.s x.d x.a x.b (x.f.extractLsb' 2 4) (x.f.extractLsb' 0 2)), Instr.slotInfo (.send x.s x.d x.a x.b (x.f.extractLsb' 2 4) (x.f.extractLsb' 0 2)), fun st => execSend x.d x.a x.b (x.f.extractLsb' 2 4) (x.f.extractLsb' 0 2) st, fun _ => none⟩
theorem viewMajor73_eq (x : Fields) : (decodeMajor73 x).map viewOf = viewMajor73 x := by
  unfold viewMajor73 decodeMajor73
  rfl
def viewMajor74 (x : Fields) : Option SlotView :=
  if x.b = 0 ∧ x.f = 0 then some ⟨Instr.wf (.fbind x.s x.d x.a), Instr.slotInfo (.fbind x.s x.d x.a), fun st => execFbind x.d x.a st, fun _ => none⟩
  else if x.a = 0 ∧ x.b = 0 ∧ x.f = 1 then some ⟨Instr.wf (.funbind x.s x.d), Instr.slotInfo (.funbind x.s x.d), fun st => execFunbind x.d st, fun _ => none⟩
  else if x.b = 0 ∧ x.f = 2 then some ⟨Instr.wf (.fpush x.s x.d x.a), Instr.slotInfo (.fpush x.s x.d x.a), fun st => execFpush x.d x.a st, fun _ => none⟩
  else if x.b = 0 ∧ x.f = 3 then some ⟨Instr.wf (.fpushEos x.s x.d x.a), Instr.slotInfo (.fpushEos x.s x.d x.a), fun st => execFpushEos x.d x.a st, fun _ => none⟩
  else if x.b = 0 ∧ x.f = 4 then some ⟨Instr.wf (.fpop x.s x.d x.a), Instr.slotInfo (.fpop x.s x.d x.a), fun st => execFpop x.d x.a st, fun _ => none⟩
  else none
theorem viewMajor74_eq (x : Fields) : (decodeMajor74 x).map viewOf = viewMajor74 x := by
  unfold viewMajor74 decodeMajor74
  simp only [apply_ite (Option.map viewOf), Option.map_some, Option.map_none]
  rfl
def viewMajor75 (x : Fields) : Option SlotView :=
  if x.f = 0 then some ⟨Instr.wf (.coll x.s x.d x.a x.b), Instr.slotInfo (.coll x.s x.d x.a x.b), fun st => execColl x.d x.a x.b st, fun _ => none⟩
  else none
theorem viewMajor75_eq (x : Fields) : (decodeMajor75 x).map viewOf = viewMajor75 x := by
  unfold viewMajor75 decodeMajor75
  simp only [apply_ite (Option.map viewOf), Option.map_some, Option.map_none]
  rfl
def viewMajor76 (x : Fields) : Option SlotView :=
  if x.b = 0 ∧ x.f.extractLsb' 2 4 = 0 then some ⟨Instr.wf (.clopen x.s x.d x.a (x.f.extractLsb' 0 2)), Instr.slotInfo (.clopen x.s x.d x.a (x.f.extractLsb' 0 2)), fun st => execClopen x.d x.a (x.f.extractLsb' 0 2) st, fun _ => none⟩
  else if x.a = 0 ∧ x.b = 0 ∧ x.f.extractLsb' 2 4 = 4 then some ⟨Instr.wf (.clclose x.s x.d (x.f.extractLsb' 0 2)), Instr.slotInfo (.clclose x.s x.d (x.f.extractLsb' 0 2)), fun st => execClclose x.d (x.f.extractLsb' 0 2) st, fun _ => none⟩
  else none
theorem viewMajor76_eq (x : Fields) : (decodeMajor76 x).map viewOf = viewMajor76 x := by
  unfold viewMajor76 decodeMajor76
  simp only [apply_ite (Option.map viewOf), Option.map_some, Option.map_none]
  rfl
def viewMajor77 (x : Fields) : Option SlotView :=
  if x.f = 0 then some ⟨Instr.wf (.trsel x.s x.d x.a x.b), Instr.slotInfo (.trsel x.s x.d x.a x.b), fun st => execTrsel x.d x.a x.b st, fun _ => none⟩
  else if x.f = 1 then some ⟨Instr.wf (.trexp x.s x.d x.a x.b), Instr.slotInfo (.trexp x.s x.d x.a x.b), fun st => execTrexp x.d x.a x.b st, fun _ => none⟩
  else if x.f = 2 then some ⟨Instr.wf (.trback x.s x.d x.a x.b), Instr.slotInfo (.trback x.s x.d x.a x.b), fun st => execTrback x.d x.a x.b st, fun _ => none⟩
  else if x.f = 10 then some ⟨Instr.wf (.trbackVo x.s x.d x.a x.b), Instr.slotInfo (.trbackVo x.s x.d x.a x.b), fun st => execTrbackVo x.d x.a x.b st, fun _ => none⟩
  else if x.f = 3 then some ⟨Instr.wf (.trroot x.s x.d x.a x.b), Instr.slotInfo (.trroot x.s x.d x.a x.b), fun st => execTrroot x.d x.a x.b st, fun _ => none⟩
  else if x.f = 4 then some ⟨Instr.wf (.trpoolInit x.s x.d x.a x.b), Instr.slotInfo (.trpoolInit x.s x.d x.a x.b), fun st => execTrpoolInit x.d x.a x.b st, fun _ => none⟩
  else if x.f = 12 then some ⟨Instr.wf (.trpoolParam x.s x.d x.a x.b), Instr.slotInfo (.trpoolParam x.s x.d x.a x.b), fun st => execTrpoolParam x.d x.a x.b st, fun _ => none⟩
  else none
theorem viewMajor77_eq (x : Fields) : (decodeMajor77 x).map viewOf = viewMajor77 x := by
  unfold viewMajor77 decodeMajor77
  simp only [apply_ite (Option.map viewOf), Option.map_some, Option.map_none]
  rfl
def viewMajor78 (x : Fields) : Option SlotView :=
  if x.f.extractLsb' 5 1 = 0 then some ⟨Instr.wf (.qbgate x.s x.d x.a x.b (x.f.extractLsb' 2 3) (x.f.extractLsb' 0 2)), Instr.slotInfo (.qbgate x.s x.d x.a x.b (x.f.extractLsb' 2 3) (x.f.extractLsb' 0 2)), fun st => execQbgate x.d x.a x.b (x.f.extractLsb' 2 3) (x.f.extractLsb' 0 2) st, fun _ => none⟩
  else if x.f.extractLsb' 5 1 = 1 then some ⟨Instr.wf (.qbdiag x.s x.d x.a x.b (x.f.extractLsb' 2 3) (x.f.extractLsb' 0 2)), Instr.slotInfo (.qbdiag x.s x.d x.a x.b (x.f.extractLsb' 2 3) (x.f.extractLsb' 0 2)), fun st => execQbdiag x.d x.a x.b (x.f.extractLsb' 2 3) (x.f.extractLsb' 0 2) st, fun _ => none⟩
  else none
theorem viewMajor78_eq (x : Fields) : (decodeMajor78 x).map viewOf = viewMajor78 x := by
  unfold viewMajor78 decodeMajor78
  simp only [apply_ite (Option.map viewOf), Option.map_some, Option.map_none]
  rfl
def viewMajor79 (x : Fields) : Option SlotView :=
  if x.f = 0 then some ⟨Instr.wf (.qbmap x.s x.d x.a x.b), Instr.slotInfo (.qbmap x.s x.d x.a x.b), fun st => execQbmap x.d x.a x.b st, fun _ => none⟩
  else if x.a = 0 ∧ x.f = 1 then some ⟨Instr.wf (.qbmapSet x.s x.d x.b), Instr.slotInfo (.qbmapSet x.s x.d x.b), fun st => execQbmapSet x.d x.b st, fun _ => none⟩
  else if x.a = 0 ∧ x.f = 2 then some ⟨Instr.wf (.qbmapGet x.s x.d x.b), Instr.slotInfo (.qbmapGet x.s x.d x.b), fun st => execQbmapGet x.d x.b st, fun _ => none⟩
  else if x.a = 0 ∧ x.b = 0 ∧ x.f = 3 then some ⟨Instr.wf (.qbmapEnd x.s x.d), Instr.slotInfo (.qbmapEnd x.s x.d), fun st => execQbmapEnd x.d st, fun _ => none⟩
  else if x.b = 0 ∧ x.f = 8 then some ⟨Instr.wf (.qbswap x.s x.d x.a), Instr.slotInfo (.qbswap x.s x.d x.a), fun st => execQbswap x.d x.a st, fun _ => none⟩
  else if x.a = 0 ∧ x.f = 16 then some ⟨Instr.wf (.qbnorm x.s x.d x.b), Instr.slotInfo (.qbnorm x.s x.d x.b), fun st => execQbnorm x.d x.b st, fun _ => none⟩
  else if x.f = 17 then some ⟨Instr.wf (.qbprob x.s x.d x.a x.b), Instr.slotInfo (.qbprob x.s x.d x.a x.b), fun st => execQbprob x.d x.a x.b st, fun _ => none⟩
  else if x.f = 18 then some ⟨Instr.wf (.qbcoll x.s x.d x.a x.b), Instr.slotInfo (.qbcoll x.s x.d x.a x.b), fun st => execQbcoll x.d x.a x.b st, fun _ => none⟩
  else none
theorem viewMajor79_eq (x : Fields) : (decodeMajor79 x).map viewOf = viewMajor79 x := by
  unfold viewMajor79 decodeMajor79
  simp only [apply_ite (Option.map viewOf), Option.map_some, Option.map_none]
  rfl
def viewMajor7A (x : Fields) : Option SlotView :=
  if x.d = 0 ∧ x.b = 0 ∧ x.f = 0 then some ⟨Instr.wf (.twait x.s x.a), Instr.slotInfo (.twait x.s x.a), fun st => execTwait x.a st, fun _ => none⟩
  else if x.d = 0 ∧ x.a = 0 ∧ x.f = 1 then some ⟨Instr.wf (.twaitCh x.s x.b), Instr.slotInfo (.twaitCh x.s x.b), fun st => execTwaitCh x.b st, fun _ => none⟩
  else if x.b = 0 ∧ x.f = 2 then some ⟨Instr.wf (.tstat x.s x.d x.a), Instr.slotInfo (.tstat x.s x.d x.a), fun st => execTstat x.d x.a st, fun _ => none⟩
  else if x.a = 0 ∧ x.f = 3 then some ⟨Instr.wf (.tstatLog x.s x.d x.b), Instr.slotInfo (.tstatLog x.s x.d x.b), fun st => execTstatLog x.d x.b st, fun _ => none⟩
  else none
theorem viewMajor7A_eq (x : Fields) : (decodeMajor7A x).map viewOf = viewMajor7A x := by
  unfold viewMajor7A decodeMajor7A
  simp only [apply_ite (Option.map viewOf), Option.map_some, Option.map_none]
  rfl
def viewMajor7B (x : Fields) : Option SlotView :=
  if x.d = 0 ∧ x.f.extractLsb' 2 4 = 0 then some ⟨Instr.wf (.waitc x.s x.a x.b (x.f.extractLsb' 0 2)), Instr.slotInfo (.waitc x.s x.a x.b (x.f.extractLsb' 0 2)), fun st => execWaitc x.a x.b (x.f.extractLsb' 0 2) st, fun _ => none⟩
  else none
theorem viewMajor7B_eq (x : Fields) : (decodeMajor7B x).map viewOf = viewMajor7B x := by
  unfold viewMajor7B decodeMajor7B
  simp only [apply_ite (Option.map viewOf), Option.map_some, Option.map_none]
  rfl
def viewMajor7C (x : Fields) : Option SlotView :=
  if x.d = 0 ∧ x.f = 0 then some ⟨Instr.wf (.barinit x.s x.a x.b), Instr.slotInfo (.barinit x.s x.a x.b), fun st => execBarinit x.a x.b st, fun _ => none⟩
  else if x.b = 0 ∧ x.f = 1 then some ⟨Instr.wf (.bararr x.s x.d x.a), Instr.slotInfo (.bararr x.s x.d x.a), fun st => execBararr x.d x.a st, fun _ => none⟩
  else if x.f = 2 then some ⟨Instr.wf (.barexp x.s x.d x.a x.b), Instr.slotInfo (.barexp x.s x.d x.a x.b), fun st => execBarexp x.d x.a x.b st, fun _ => none⟩
  else if x.f = 3 then some ⟨Instr.wf (.barwait x.s x.d x.a x.b), Instr.slotInfo (.barwait x.s x.d x.a x.b), fun st => execBarwait x.d x.a x.b st, fun _ => none⟩
  else if x.f.extractLsb' 0 5 = 4 then some ⟨Instr.wf (.bartry x.s (x.f.extractLsb' 5 1 ++ x.d) x.a x.b), Instr.slotInfo (.bartry x.s (x.f.extractLsb' 5 1 ++ x.d) x.a x.b), fun st => execBartry (x.f.extractLsb' 5 1 ++ x.d) x.a x.b st, fun _ => none⟩
  else none
theorem viewMajor7C_eq (x : Fields) : (decodeMajor7C x).map viewOf = viewMajor7C x := by
  unfold viewMajor7C decodeMajor7C
  simp only [apply_ite (Option.map viewOf), Option.map_some, Option.map_none]
  rfl
def viewMajor7D (x : Fields) : Option SlotView :=
  if x.f = 0 then some ⟨Instr.wf (.trigat x.s x.d x.a x.b), Instr.slotInfo (.trigat x.s x.d x.a x.b), fun st => execTrigat x.d x.a x.b st, fun _ => none⟩
  else if x.f = 1 then some ⟨Instr.wf (.trigcnt x.s x.d x.a x.b), Instr.slotInfo (.trigcnt x.s x.d x.a x.b), fun st => execTrigcnt x.d x.a x.b st, fun _ => none⟩
  else if x.b = 0 ∧ x.f = 2 then some ⟨Instr.wf (.trigcan x.s x.d x.a), Instr.slotInfo (.trigcan x.s x.d x.a), fun st => execTrigcan x.d x.a st, fun _ => none⟩
  else none
theorem viewMajor7D_eq (x : Fields) : (decodeMajor7D x).map viewOf = viewMajor7D x := by
  unfold viewMajor7D decodeMajor7D
  simp only [apply_ite (Option.map viewOf), Option.map_some, Option.map_none]
  rfl
def viewMajor7E (x : Fields) : Option SlotView :=
  if x.d = 0 ∧ x.a = 0 ∧ x.f = 0 then some ⟨Instr.wf (.qdepth x.s x.b), Instr.slotInfo (.qdepth x.s x.b), fun st => execQdepth x.b st, fun _ => none⟩
  else if x.d = 0 ∧ x.b = 0 ∧ x.f = 1 then some ⟨Instr.wf (.qdepthX x.s x.a), Instr.slotInfo (.qdepthX x.s x.a), fun st => execQdepthX x.a st, fun _ => none⟩
  else if x.a = 0 ∧ x.f = 2 then some ⟨Instr.wf (.qstat x.s x.d x.b), Instr.slotInfo (.qstat x.s x.d x.b), fun st => execQstat x.d x.b st, fun _ => none⟩
  else if x.d = 0 ∧ x.b = 0 ∧ x.f = 3 then some ⟨Instr.wf (.qmode x.s x.a), Instr.slotInfo (.qmode x.s x.a), fun st => execQmode x.a st, fun _ => none⟩
  else if x.b = 0 ∧ x.f = 4 then some ⟨Instr.wf (.qmodei x.s (x.d ++ x.a)), Instr.slotInfo (.qmodei x.s (x.d ++ x.a)), fun st => execQmodei (x.d ++ x.a) st, fun _ => none⟩
  else none
theorem viewMajor7E_eq (x : Fields) : (decodeMajor7E x).map viewOf = viewMajor7E x := by
  unfold viewMajor7E decodeMajor7E
  simp only [apply_ite (Option.map viewOf), Option.map_some, Option.map_none]
  rfl

/-- The table of all rows. -/
def viewTable (x : Fields) : Option SlotView :=
  match x.op.toNat with
  | 0 => viewMajor00 x
  | 1 => viewMajor01 x
  | 2 => viewMajor02 x
  | 3 => viewMajor03 x
  | 16 => viewMajor10 x
  | 17 => viewMajor11 x
  | 18 => viewMajor12 x
  | 19 => viewMajor13 x
  | 20 => viewMajor14 x
  | 21 => viewMajor15 x
  | 22 => viewMajor16 x
  | 23 => viewMajor17 x
  | 24 => viewMajor18 x
  | 25 => viewMajor19 x
  | 26 => viewMajor1A x
  | 27 => viewMajor1B x
  | 28 => viewMajor1C x
  | 29 => viewMajor1D x
  | 30 => viewMajor1E x
  | 31 => viewMajor1F x
  | 32 => viewMajor20 x
  | 33 => viewMajor21 x
  | 34 => viewMajor22 x
  | 35 => viewMajor23 x
  | 36 => viewMajor24 x
  | 37 => viewMajor25 x
  | 40 => viewMajor28 x
  | 41 => viewMajor29 x
  | 42 => viewMajor2A x
  | 43 => viewMajor2B x
  | 44 => viewMajor2C x
  | 45 => viewMajor2D x
  | 46 => viewMajor2E x
  | 47 => viewMajor2F x
  | 48 => viewMajor30 x
  | 49 => viewMajor31 x
  | 50 => viewMajor32 x
  | 51 => viewMajor33 x
  | 52 => viewMajor34 x
  | 53 => viewMajor35 x
  | 54 => viewMajor36 x
  | 56 => viewMajor38 x
  | 57 => viewMajor39 x
  | 58 => viewMajor3A x
  | 59 => viewMajor3B x
  | 60 => viewMajor3C x
  | 61 => viewMajor3D x
  | 62 => viewMajor3E x
  | 63 => viewMajor3F x
  | 64 => viewMajor40 x
  | 65 => viewMajor41 x
  | 66 => viewMajor42 x
  | 67 => viewMajor43 x
  | 68 => viewMajor44 x
  | 69 => viewMajor45 x
  | 70 => viewMajor46 x
  | 71 => viewMajor47 x
  | 72 => viewMajor48 x
  | 73 => viewMajor49 x
  | 74 => viewMajor4A x
  | 75 => viewMajor4B x
  | 76 => viewMajor4C x
  | 77 => viewMajor4D x
  | 78 => viewMajor4E x
  | 79 => viewMajor4F x
  | 80 => viewMajor50 x
  | 81 => viewMajor51 x
  | 82 => viewMajor52 x
  | 83 => viewMajor53 x
  | 84 => viewMajor54 x
  | 85 => viewMajor55 x
  | 88 => viewMajor58 x
  | 89 => viewMajor59 x
  | 90 => viewMajor5A x
  | 91 => viewMajor5B x
  | 92 => viewMajor5C x
  | 93 => viewMajor5D x
  | 94 => viewMajor5E x
  | 95 => viewMajor5F x
  | 96 => viewMajor60 x
  | 97 => viewMajor61 x
  | 98 => viewMajor62 x
  | 99 => viewMajor63 x
  | 100 => viewMajor64 x
  | 101 => viewMajor65 x
  | 102 => viewMajor66 x
  | 103 => viewMajor67 x
  | 108 => viewMajor6C x
  | 109 => viewMajor6D x
  | 110 => viewMajor6E x
  | 111 => viewMajor6F x
  | 112 => viewMajor70 x
  | 113 => viewMajor71 x
  | 114 => viewMajor72 x
  | 115 => viewMajor73 x
  | 116 => viewMajor74 x
  | 117 => viewMajor75 x
  | 118 => viewMajor76 x
  | 119 => viewMajor77 x
  | 120 => viewMajor78 x
  | 121 => viewMajor79 x
  | 122 => viewMajor7A x
  | 123 => viewMajor7B x
  | 124 => viewMajor7C x
  | 125 => viewMajor7D x
  | 126 => viewMajor7E x
  | _ => none

@[csimp] theorem viewRow_eq : @viewRow = @viewTable := by
  funext x
  unfold viewRow decodeRow viewTable
  generalize x.op.toNat = n
  split
  · exact viewMajor00_eq x
  · exact viewMajor01_eq x
  · exact viewMajor02_eq x
  · exact viewMajor03_eq x
  · exact viewMajor10_eq x
  · exact viewMajor11_eq x
  · exact viewMajor12_eq x
  · exact viewMajor13_eq x
  · exact viewMajor14_eq x
  · exact viewMajor15_eq x
  · exact viewMajor16_eq x
  · exact viewMajor17_eq x
  · exact viewMajor18_eq x
  · exact viewMajor19_eq x
  · exact viewMajor1A_eq x
  · exact viewMajor1B_eq x
  · exact viewMajor1C_eq x
  · exact viewMajor1D_eq x
  · exact viewMajor1E_eq x
  · exact viewMajor1F_eq x
  · exact viewMajor20_eq x
  · exact viewMajor21_eq x
  · exact viewMajor22_eq x
  · exact viewMajor23_eq x
  · exact viewMajor24_eq x
  · exact viewMajor25_eq x
  · exact viewMajor28_eq x
  · exact viewMajor29_eq x
  · exact viewMajor2A_eq x
  · exact viewMajor2B_eq x
  · exact viewMajor2C_eq x
  · exact viewMajor2D_eq x
  · exact viewMajor2E_eq x
  · exact viewMajor2F_eq x
  · exact viewMajor30_eq x
  · exact viewMajor31_eq x
  · exact viewMajor32_eq x
  · exact viewMajor33_eq x
  · exact viewMajor34_eq x
  · exact viewMajor35_eq x
  · exact viewMajor36_eq x
  · exact viewMajor38_eq x
  · exact viewMajor39_eq x
  · exact viewMajor3A_eq x
  · exact viewMajor3B_eq x
  · exact viewMajor3C_eq x
  · exact viewMajor3D_eq x
  · exact viewMajor3E_eq x
  · exact viewMajor3F_eq x
  · exact viewMajor40_eq x
  · exact viewMajor41_eq x
  · exact viewMajor42_eq x
  · exact viewMajor43_eq x
  · exact viewMajor44_eq x
  · exact viewMajor45_eq x
  · exact viewMajor46_eq x
  · exact viewMajor47_eq x
  · exact viewMajor48_eq x
  · exact viewMajor49_eq x
  · exact viewMajor4A_eq x
  · exact viewMajor4B_eq x
  · exact viewMajor4C_eq x
  · exact viewMajor4D_eq x
  · exact viewMajor4E_eq x
  · exact viewMajor4F_eq x
  · exact viewMajor50_eq x
  · exact viewMajor51_eq x
  · exact viewMajor52_eq x
  · exact viewMajor53_eq x
  · exact viewMajor54_eq x
  · exact viewMajor55_eq x
  · exact viewMajor58_eq x
  · exact viewMajor59_eq x
  · exact viewMajor5A_eq x
  · exact viewMajor5B_eq x
  · exact viewMajor5C_eq x
  · exact viewMajor5D_eq x
  · exact viewMajor5E_eq x
  · exact viewMajor5F_eq x
  · exact viewMajor60_eq x
  · exact viewMajor61_eq x
  · exact viewMajor62_eq x
  · exact viewMajor63_eq x
  · exact viewMajor64_eq x
  · exact viewMajor65_eq x
  · exact viewMajor66_eq x
  · exact viewMajor67_eq x
  · exact viewMajor6C_eq x
  · exact viewMajor6D_eq x
  · exact viewMajor6E_eq x
  · exact viewMajor6F_eq x
  · exact viewMajor70_eq x
  · exact viewMajor71_eq x
  · exact viewMajor72_eq x
  · exact viewMajor73_eq x
  · exact viewMajor74_eq x
  · exact viewMajor75_eq x
  · exact viewMajor76_eq x
  · exact viewMajor77_eq x
  · exact viewMajor78_eq x
  · exact viewMajor79_eq x
  · exact viewMajor7A_eq x
  · exact viewMajor7B_eq x
  · exact viewMajor7C_eq x
  · exact viewMajor7D_eq x
  · exact viewMajor7E_eq x
  · first | rfl | (split <;> first | rfl | contradiction)

/-- What a word is (R91 to R95): the view of its instruction, or the cause of R92, step 2. -/
def viewWord (w : BitVec 32) : Except DecodeError SlotView :=
  let x := Fields.ofWord w
  if reservedMajor x.op.toNat then .error .illegalOpcode
  else match viewRow x with
    | some v => if v.wf then .ok v else .error .illegalFunction
    | none => .error .illegalFunction

end Sys2Proof.Machine
end

