-- ==== Sys2Proof/Machine/Issue.lean ====
section
/-! DEFINITION. The issue of a bundle by the S sequencer (R51, R53, R81 to R92, R304): its words fetched, its decode checks, its
guards, the target of its transfer, the space in the queues it pushes to. -/
namespace Sys2Proof.Machine

/-! ## The words of a bundle (R81) -/

/-- The major of a slot word, and its stop bit (R80). -/
def majorOf (w : BitVec 32) : Nat := (w.extractLsb' 24 7).toNat
def stops (w : BitVec 32) : Bool := w.getLsbD 31
/-- LIMM, PGUARD or DEPS (R84). -/
def isPrefix (w : BitVec 32) : Bool := majorOf w = 1 || majorOf w = 2 || majorOf w = 3
/-- The words from `va` on, up to the first with its stop bit set, at most `fuel` of them. -/
def fetchBundle (k : Nat) : Nat → Word64 → M (List (BitVec 32))
  | 0, _ => pure []
  | fuel + 1, va => do
    let w ← fetchWord k va
    if stops w then pure [w]
    else do
      let ws ← fetchBundle k fuel (va + 4)
      pure (w :: ws)
/-- Word `i` of a bundle. -/
def wordAt (ws : List (BitVec 32)) (i : Nat) : BitVec 32 := ws.getD i 0
/-- The indices of the slots that are no prefix. -/
def mainSlots (ws : List (BitVec 32)) : List Nat := (List.range ws.length).filter fun i => !isPrefix (wordAt ws i)
/-- The prefixes of a major whose target is slot `i`, in order. -/
def prefixesOf (ws : List (BitVec 32)) (major i : Nat) : List Nat :=
  let from_ := (((mainSlots ws).filter fun j => j < i).getLast?.map (· + 1)).getD 0
  (List.range i).filter fun j => from_ ≤ j && majorOf (wordAt ws j) = major
/-- The IMM24 of slot `i`. -/
def limmOf (ws : List (BitVec 32)) (i : Nat) : Option (BitVec 24) :=
  ((prefixesOf ws 1 i).head?).map fun j => (wordAt ws j).extractLsb' 0 24
/-- The facts of a word that decodes. -/
def infoOf (w : BitVec 32) : SlotInfo := match viewWord w with | .ok v => v.info | .error _ => { cls := .none }
/-- The facts of slot `i`. -/
def infoAt (ws : List (BitVec 32)) (i : Nat) : SlotInfo := infoOf (wordAt ws i)

/-! ## Decode checks (R92) -/

/-- Step 1: the slot that a framing failure reports. -/
def framing (ws : List (BitVec 32)) : Option Nat :=
  let w := ws.getLast?.getD 0
  if !stops w || isPrefix w then some (ws.length - 1) else none
/-- n − 1 of MOPEN and ACCMERGE above 65,535 (R199). -/
def countTooWide (w : BitVec 32) (limm : Option (BitVec 24)) : Bool :=
  majorOf w = 0x71 && (match limm with | some u => decide (65536 ≤ u.toNat * (if w.getLsbD 5 then 4 else 32)) | none => false)
/-- A slot that the mode does not permit (R412). -/
def forbidden (mode : BitVec 2) (w : BitVec 32) : Bool :=
  if majorOf w = 0x34 then mode ≠ 2
  else if majorOf w = 0x3F then if w.extractLsb' 0 6 = 0 then mode ≠ 2 else mode = 0
  else false
/-- Step 2 at slot `i`: the cause, and the index that it reports. -/
def slotCheck (mode : BitVec 2) (ws : List (BitVec 32)) (i : Nat) : Option (Trap × Nat) :=
  let w := wordAt ws i
  match viewWord w with
  | .error .illegalOpcode => some (.illegalOpcode, i)
  | .error .illegalFunction => some (.illegalFunction, i)
  | .ok v =>
    if isPrefix w then
      let after := ((mainSlots ws).filter fun j => i < j).length
      if majorOf w = 2 ∧ ((List.range 7).any fun m => w.getLsbD (9 + m) && decide (after ≤ m)) = true then some (.illegalFunction, i)
      else none
    else if countTooWide w (limmOf ws i) then some (.illegalFunction, i)
    else
      let bad := (List.range i).find? fun j =>
        ((prefixesOf ws 1 i).contains j && v.info.limm.isNone) || ((prefixesOf ws 3 i).contains j && !v.info.deps)
      match bad with
      | some j => some (.illegalFunction, j)
      | none => if forbidden mode w then some (.privViolation, i) else none
/-- Slots of a class that a bundle may hold (R89). -/
def classLimit : SlotClass → Nat
  | .control => 1 | .memory => 2 | .vector => 4 | .matrix => 1 | .engine => 2 | _ => 8
/-- Two slots that may not share a bundle: a register that both write, x0 and p0 aside, or an accumulator bank that both name
(R90). -/
def conflict (a b : SlotInfo) : Bool :=
  (a.writes.any fun r => r ≠ .x 0 && r ≠ .p 0 && b.writes.contains r) || (a.bank.isSome && a.bank = b.bank)
/-- Step 3 at slot `i`. DEDUCED, log entry 28. -/
def conflictAt (ws : List (BitVec 32)) (i : Nat) : Bool :=
  let w := wordAt ws i
  if isPrefix w then
    majorOf w ≠ 2 && ((mainSlots ws).find? fun j => i < j).any fun t => (prefixesOf ws (majorOf w) t).head? ≠ some i
  else
    let x := infoAt ws i
    let earlier := ((mainSlots ws).filter fun j => j < i).map (infoAt ws)
    decide (classLimit x.cls ≤ (earlier.filter fun y => y.cls = x.cls).length) || earlier.any (conflict x)
/-- The first cause of steps 1 to 3, with the slot it reports. -/
def bundleCheck (mode : BitVec 2) (ws : List (BitVec 32)) : Option (Trap × Nat) :=
  match framing ws with
  | some i => some (.bundleOverrun, i)
  | none =>
    match (List.range ws.length).findSome? (slotCheck mode ws) with
    | some e => some e
    | none => ((List.range ws.length).find? (conflictAt ws)).map fun i => (.bundleConflict, i)

/-! ## Guards (R86), waits of DEPS (R87) -/

/-- Fields of PGUARD. -/
def guardPred (w : BitVec 32) : Nat := (w.extractLsb' 17 7).toNat
/-- A PGUARD lets its slots run. -/
def guardHolds (r : Regs) (w : BitVec 32) : Bool := decide ((r.rp (guardPred w)).v = 1) != w.getLsbD 16
/-- Slot `i` is enabled: every PGUARD that guards it lets it run. -/
def enabled (r : Regs) (ws : List (BitVec 32)) (i : Nat) : Bool :=
  (List.range i).all fun g =>
    let w := wordAt ws g
    majorOf w ≠ 2 || guardHolds r w || !w.getLsbD (9 + ((mainSlots ws).filter fun j => g < j && j < i).length)
/-- The token registers of a DEPS. -/
def depsRegs (w : BitVec 32) : List Nat :=
  ([w.extractLsb' 19 5, w.extractLsb' 14 5, w.extractLsb' 9 5].take (w.extractLsb' 6 3).toNat).map BitVec.toNat
/-- POISON_CONSUMED of a PGUARD, with MASK 0 too (DEDUCED, log entry 53), and of a DEPS whose target is enabled. -/
def poisonAt (r : Regs) (ws : List (BitVec 32)) (i : Nat) : Option (Trap × Nat) :=
  let w := wordAt ws i
  if majorOf w = 2 then if (r.rp (guardPred w)).psn then some (.poison (regTag 1 (guardPred w)), i) else none
  else if majorOf w = 3 ∧ (((mainSlots ws).find? fun j => i < j).any (enabled r ws)) = true then
    ((depsRegs w).find? fun t => (r.rt t).psn).map fun t => (.poison (regTag 5 t), i)
  else none
/-- The slots that are placed. -/
def placed (r : Regs) (ws : List (BitVec 32)) : List QSlot :=
  ((mainSlots ws).filter (enabled r ws)).map fun i =>
    { idx := i, word := wordAt ws i, exu := (infoAt ws i).exu, limm := limmOf ws i
      deps := (((prefixesOf ws 3 i).head?).map fun j => (depsRegs (wordAt ws j)).map fun t => (r.rt t).v).getD [] }

/-! ## A slot's meaning -/

/-- The state in which slot `idx` of context `k` runs. -/
def State.atSlot (s : State) (k idx : Nat) : State :=
  { s with cur := k }.modCtx k fun c => { c with issue := { c.issue with cur := idx } }
/-- The slot runs: what its word decodes to (R91). -/
def State.runSlot (s : State) (k : Nat) (q : QSlot) : Host.Outcome State Fault Refusal :=
  match viewWord q.word with
  | .ok v => v.run (s.atSlot k q.idx)
  | .error _ => .next s

/-! ## Space (R304) -/

/-- The state after a slot that the issue tries out, one that stalls aside. -/
def tried (s : State) : Host.Outcome State Fault Refusal → State
  | .next t => if t.raised = s.raised then t else s
  | _ => s
/-- The queues that the slots of S find full, when the bundle's pushes are made one after another: the slot, and the stall counter's
CSR. Only slots of the engine and counter class push, each with the registers of the issue; no trial leaves a trace. -/
def fullSlots (k : Nat) : List QSlot → State → List (Nat × Nat)
  | [], _ => []
  | q :: qs, s =>
    if 0x72 ≤ majorOf q.word ∧ majorOf q.word < 0x7F then
      let t := tried s (s.runSlot k q)
      match (t.ctx k).issue.full with
      | some c => (q.idx, c) :: fullSlots k qs s
      | none => fullSlots k qs (if t.cur = k ∧ (t.ctx k).inc = (s.ctx k).inc then t else s)
    else fullSlots k qs s
/-- The capacity of a slot queue, and its stall counter (R298, R409). -/
def unitCap (u : ExecUnit) : Nat := if u = .mx then 16 else 64
def unitStall (u : ExecUnit) : Nat := 0x10F + seqOf u
/-- The pushes of a bundle that find a slot queue full (R55, R299): the slot, and the stall counter's CSR. -/
def State.queueFull (s : State) (k : Nat) (qs : List QSlot) : List (Nat × Nat) :=
  [ExecUnit.vl, .va, .vs, .mx].flatMap fun u =>
    ((qs.filter fun q => q.exu = u).drop (unitCap u - s.slotsQueued k u)).map fun q => (q.idx, unitStall u)
/-- The token channel of a slot of the MX queue that stands for a command. -/
def mxChannel (w : BitVec 32) : Option Nat :=
  if majorOf w = 0x6E ∨ majorOf w = 0x70 then some 8 else if majorOf w = 0x71 then some 16 else none
/-- Slots of the MX queue whose channel has no room for a token (R389). -/
def State.tokenFull (s : State) (k : Nat) (qs : List QSlot) : List (Nat × Nat) :=
  (qs.filter fun q => (mxChannel q.word).any fun ch => !((s.ctx k).chan ch).room 1).map fun q => (q.idx, 0)
/-- A slot of the MX queue that stands for a command gets its token at issue: tD and the channel's NEXT (R193, R389). -/
def Ctx.giveToken (c : Ctx) (q : QSlot) : Ctx :=
  match mxChannel q.word with
  | some ch =>
    let x := c.chan ch
    let tok : BitVec 32 := BitVec.ofNat 6 ch ++ x.next
    { c.setChan ch { x with next := x.next + 1 } with
      regs := c.regs.wt (Fields.ofWord q.word).d.toNat ⟨tok, false⟩
      issue := { c.issue with todo := c.issue.todo.map fun p => if p.idx = q.idx then { p with tok := some tok } else p } }
  | none => c
/-- A queue is strict for the context (R303). During a halt none is. -/
def Ctx.strict (c : Ctx) (csr : Nat) : Bool := c.halt = 0 && 0x114 ≤ csr && csr < 0x120 && c.regs.qmode.getLsbD (csr - 0x114)

/-! ## Issue -/

/-! ### Waits for trailing units (R39, R54, R56, R90, R107, R113) -/

/-- Registers that slots in the queues will write, and xD of read-modify-writes that are parked (R251). -/
def State.owed (s : State) (k : Nat) : List RegName :=
  (s.ctx k).flight.flatMap fun i => (i.todo.filter fun q => q.exu ≠ .s).flatMap fun q => (infoOf q.word).writes
def State.owedParked (s : State) (k : Nat) : List RegName := (s.parkedOf k).filterMap fun e => e.dest.map RegName.x
/-- x0 and p0 aside, the registers of one list that the other names. -/
def meets (a b : List RegName) : Bool := a.any fun r => r ≠ .x 0 && r ≠ .p 0 && b.contains r
/-- CSRR of FCSR or STACKS, or CSRW of FCSR. -/
def waitsForVa (w : BitVec 32) : Bool :=
  let n := (w.extractLsb' 0 12).toNat
  (majorOf w = 0x3D && (n = 0 || n = 5)) || (majorOf w = 0x3E && n = 0)
/-- A slot of the S sequencer waits for a value of VA, VL or MX: it counts in CTX.LOD_S. -/
def State.losing (s : State) (k : Nat) (q : QSlot) : Bool :=
  q.exu = .s && (meets (infoOf q.word).reads (s.owed k) || (waitsForVa q.word && !((s.ctx k).queued .va).isEmpty))
/-- A slot waits at issue: for such a value, for an x operand that S copies into it, for a register that it would write before an older
slot has. -/
def State.early (s : State) (k : Nat) (q : QSlot) : Bool :=
  let i := infoOf q.word
  let xs := i.reads.filter fun r => match r with | .x _ => true | _ => false
  let due := s.owed k
  let parked := s.owedParked k
  s.losing k q || meets xs due || meets xs parked || (q.exu = .s && meets i.writes due) || meets i.writes parked
/-- CTX.LOD_S (R112), as the tally names it. -/
def csrLodS : Nat := 8

/-- What the S sequencer makes of the next bundle: an exception; a stall, with the slots that wait and the counters that count them; or the
issued bundle. -/
inductive Issued where
  | trap (e : Exc)
  | stall (why : List (Nat × Nat))
  | go (i : Issue)

/-- The bundle of some words at `pc`, with nothing done. -/
def Ctx.bundle (c : Ctx) (ws : List (BitVec 32)) : Issue :=
  { addr := c.pc, next := c.pc + BitVec.ofNat 64 (4 * ws.length), todo := placed c.regs ws, old := c.regs, num := c.bundles + 1
    nexts := c.chans.map fun e => (e.1, e.2.next) }
/-- The target of the bundle's enabled transfer, with its slot. -/
def State.transfer (s : State) (k : Nat) (i : Issue) : Option (Word64 × Nat) :=
  let s := s.modCtx k fun c => { c with issue := i }
  i.todo.findSome? fun q => match viewWord q.word with
    | .ok v => (v.target (s.atSlot k q.idx)).map fun t => (t, q.idx)
    | .error _ => none
/-- The bundle has a LOOPS whose FIFO is empty: whether it branches is not known yet (R82, R137). DEDUCED, log entry 22. -/
def State.loopsWaits (s : State) (k : Nat) (i : Issue) : Bool :=
  i.todo.any fun q =>
    let l := (s.ctx k).regs.rf (Fields.ofWord q.word).d.toNat
    majorOf q.word = 0x2D && l.valid && (s.fifos.get [] l.endp.toNat).isEmpty
/-- The next bundle of context `k` fetched and checked. The word before the target of an enabled transfer is read once the bundle's own words have
passed their checks, of which the target is the last (R82, R92): DEDUCED, log entry 54. -/
def issueBundle (k : Nat) : M Issued := do
  let c ← reads fun s => s.ctx k
  let ok ← if c.chk then checkTarget k c.pc else pure (.ok ())
  match ok with
  | .error t => pure (.trap { trap := t })
  | .ok _ =>
    let ws ← fetchBundle k 8 c.pc
    match bundleCheck c.regs.mode ws with
    | some (t, i) => pure (.trap { trap := t, slot := i })
    | none =>
      match (List.range ws.length).findSome? (poisonAt c.regs ws) with
      | some (t, i) => pure (.trap { trap := t, slot := i })
      | none =>
        let b := c.bundle ws
        if ← reads fun s => b.todo.any fun q => s.early k q then
          pure (.stall (← reads fun s => (b.todo.filter fun q => s.losing k q).map fun q => (q.idx, csrLodS)))
        else if ← reads fun s => s.loopsWaits k b then pure (.stall [])
        else
          let ok ← match ← reads fun s => s.transfer k b with
            | some (t, i) => (fun r => (r, i)) <$> checkTarget k t
            | none => pure (.ok (), 0)
          match ok with
          | (.error t, i) => pure (.trap { trap := t, slot := i })
          | (.ok _, _) =>
            let found ← reads fun s => s.queueFull k b.todo ++ s.tokenFull k b.todo ++ fullSlots k b.todo (s.modCtx k fun c => { c with issue := b })
            match found.find? fun f => c.strict f.2 with
            | some f => pure (.trap { trap := { cause := 0x30, info := BitVec.ofNat 64 (f.2 - 0x114 + 8) }, slot := f.1 })
            | none => pure (if found.isEmpty then .go b else .stall found)
/-- The requests that the fetch of a context made are done with. -/
def State.dropAsks (s : State) (k : Nat) : State :=
  { s with asks := 0, reqs := s.reqs.filter fun (r : Req) => r.owner ≠ fetchOwner k }
/-- A stall of the next bundle: each slot counts once, however long it stalls (R56, R299). -/
def State.stallBundle (s : State) (k : Nat) (why : List (Nat × Nat)) : State :=
  let new := why.filter fun w => w.2 ≠ 0 && !(s.ctx k).tally.contains w
  let s := new.foldl (fun s w =>
    if w.2 = csrLodS then s.modCtx k fun c => { c with regs := { c.regs with lodS := c.regs.lodS + 1 } } else s.addPerf (k / 2) w.2 1) s
  s.modCtx k fun c => { c with tally := c.tally ++ new, waits := if c.waits.contains .s then c.waits else c.waits ++ [.s] }

/-- The bundle is issued: its MX commands get their tokens, and when it has no slot of the S sequencer, that goes on. -/
def State.issued (s : State) (k : Nat) (i : Issue) : State :=
  let s := (s.addPerf (k / 2) 0x141 1).modCtx k fun c =>
    i.todo.foldl Ctx.giveToken
      { c with issue := i, bundles := c.bundles + 1, chk := false, waits := c.waits.filter (· ≠ .s), tally := [] }
  if i.has .s then s else s.endBundle k
/-- The S sequencer's attempt at its next bundle, and whether it issued. -/
def State.issue (s : State) (k : Nat) : State × Bool :=
  let s := { s with asks := 0, cur := k }
  match issueBundle k s with
  | .ok (.go i, s') => ((s'.dropAsks k).issued k i, true)
  | .ok (.stall cs, s') => ((s'.dropAsks k).stallBundle k cs, false)
  | .ok (.trap e, s') => ((s'.dropAsks k).takeException k e, false)
  | .error (.raise t) => ((s.dropAsks k).takeException k { trap := t, fetch := true }, false)
  | .error (.page s' reqs) => ((s'.dropAsks k).pageFault k (reqs.map fun r => { r with fetch := true, num := (s.ctx k).bundles + 1 }), false)
  | .error (.ask r) => (s.addReq r, false)
  | .error _ => (s, false)

end Sys2Proof.Machine
end

