-- ==== Sys2Proof/Machine/Agents.lean ====
section
/-! DEFINITION. What can happen next: the turns of the agents of the device, as the state enables them, and the turn of a
context, which issues a bundle or runs a slot (R48 to R55, R418, R421, R430). -/
namespace Sys2Proof.Machine

/-! ## Turns of the agents -/

/-- Some of a list made into events. -/
def eventsOf {α : Type} (l : List α) (f : α → Option Instr) : List Turn := (l.filterMap f).map Turn.event
def bv (w n : Nat) : BitVec w := BitVec.ofNat w n

/-- The entry that a column's dispatcher places next. -/
def State.pickOf (s : State) (col : Nat) : Option (Nat × Nat) :=
  match s.reserved col with
  | some (_, r) => some (r.launch, r.task)
  | none =>
    if s.occupancy col < s.threshold col ∧ (s.firstFree col).isSome then
      (s.pick col).map fun (p : Ready × List Ready) => (p.1.launch, p.1.task)
    else none
/-- Columns whose dispatchers can place an entry. In a round each dispatcher takes one entry; of two that pick the same one the
lower column takes it (R382). DEDUCED, log entry 40. -/
def State.dispatchTurns (s : State) : List Turn :=
  if s.ready.isEmpty then []
  else
    let ps := (List.range 16).filterMap fun c => (s.pickOf c).map fun p => (c, p)
    let fresh := ps.filter fun p => !s.dealt.contains p.1
    let now := if fresh.isEmpty then ps else fresh
    let first := fun p : Nat × Nat × Nat => !(now.any fun q => q.1 < p.1 && q.2 = p.2)
    eventsOf (now.filter first) fun p : Nat × Nat × Nat => some (.columnDispatch (bv 4 p.1))
/-- Pre-emption and aging. -/
def State.listTurns (s : State) : List Turn :=
  eventsOf s.ready (fun e => if s.aged e then some (.taskAging (bv 16 e.launch) (bv 12 e.task)) else none) ++
    (if s.ready.isEmpty then [] else eventsOf (List.range 4) fun p => if (s.wants p).isSome then some (.preemptRequest (bv 2 p)) else none) ++
    eventsOf s.saving fun v => some (.saveComplete (bv 12 v.ctx))
/-- Events of one context bank. -/
def State.bankTurns (s : State) (k : Nat) (c : Ctx) : List Turn :=
  let k' := bv 12 k
  (if c.preempt.isSome && s.graceOver k && s.quiet k then [Turn.event (.forcedSave k')] else []) ++
    (if s.starved k && decide (c.retry ≤ s.gt) then [Turn.event (.stealRetry k')] else []) ++
    (if c.occ = .resident && s.tagDue k then [Turn.event (.tagTimeout k')] else []) ++
    (if c.occ = .resident then
      eventsOf c.regs.h fun e => if e.2.st = HandleState.pending then some (.transComplete k' (bv 4 e.1)) else none
    else []) ++
    (if (s.csr csrPfCtl).getLsbD 63 && s.pfRoom && ((unsent c.pf).isSome || (s.savedUnsent k).isSome) then
      [Turn.event (.pfRequestWrite k')] else [])
/-- Entries of a replay queue that can leave. -/
def State.replayTurns (s : State) (core : Nat) (d : Core) : List Turn :=
  if d.replay.isEmpty then []
  else eventsOf (s.departing core).zipIdx fun e => some (.replayDepart (bv 11 core) (bv 4 e.2))
/-- Events of memory: charms, shootdowns, snapshot copies. -/
def State.memTurns (s : State) : List Turn :=
  (s.reqs.filter fun r => r.charm?.isSome && !s.outbound r && r.ans.isNone).flatMap (fun r =>
    [Turn.event (.charmRun r.tag), Turn.event (.charmTimeout r.tag)]) ++
    (match s.shoot with
      | some x => if s.shootDone x then [Turn.event .shootdownComplete] else []
      | none => []) ++
    (eventsOf (s.cowWant ++ s.cowParked).eraseDups fun w =>
      if s.copying w.1 (w.2 * 0x10000) || !(s.poolReady || s.cowWant.contains w) then none
      else some (.cowCopy (bv 8 w.1) (bv 48 w.2))) ++
    eventsOf s.copies fun c =>
      if c.pos = 0x10000 then some (.cowCopyComplete (bv 8 c.asid) (bv 48 c.page))
      else if s.reqs.any fun r => r.owner = Owner.copier c.pool && r.ans.isNone then none
      else some (.cowCopy (bv 8 c.asid) (bv 48 c.page))
/-- Events of an engine command, and its units of work. -/
def State.cmdTurns (s : State) (c : Cmd) : List Turn :=
  let startEvent : Option Instr := match c.unit with
    | .tce _ => some (.tceCommandStart c.id)
    | .send _ => some (.sendChannelStart c.id)
    | .ste _ => some (.steCommandStart c.id)
    | .age => some (.ageCommandStart c.id)
    | .coll => some (.bangleCollStart c.id)
    | _ => none
  let tree : List Instr := match c.op with
    | .trsel _ =>
      (if c.phase = .waiting && c.pos = 0 then [.reserveSlot c.id] else []) ++ if s.batchDue c then [.batchTimeout c.id] else []
    | .trwalk => if c.phase = .running && c.run.walk.isEmpty then [.endOfWalk c.id] else []
    | _ => []
  let late : List Instr := match c.op with
    | .coll _ => if s.collLate c then [.collTimeout c.id] else []
    | _ => if c.unit = .age && s.ageLate c then [.collTimeout c.id] else []
  (if s.workable c then [Turn.work c.id] else []) ++
    eventsOf (if s.startable c then startEvent.toList else []) some ++
    eventsOf (if c.phase = .stopped then [if c.unit = .nest then .nestComplete c.id else .commandFinish c.id] else []) some ++
    eventsOf tree some ++ eventsOf late some
/-- Events of the merge buffers. -/
def State.mergeTurns (s : State) : List Turn :=
  (if s.mergeQ.isEmpty then [] else
    (List.range 64).flatMap (fun i =>
      (if (s.mergeNext i false).isSome then [Turn.event (.mergeOpen (bv 6 i))] else []) ++
        if (s.mergeNext i true).isSome then [Turn.event (.mergeContribute (bv 6 i))] else []) ++
      eventsOf (s.mergeQ.map (·.cmd)).eraseDups fun n => if (s.mergeDue n).isSome then some (.mergeResend n) else none) ++
    (if s.merges.isEmpty then [] else
      eventsOf (List.range 64) fun i => if ((s.openIn i).find? MergeBuf.full).isSome then some (.mergeClose (bv 6 i)) else none)
/-- Events of triggers, barriers and collectives that wait. -/
def State.syncTurns (s : State) : List Turn :=
  (if s.fired.isEmpty then [] else [Turn.event .triggerFire]) ++ (if s.subs.isEmpty then [] else [Turn.event .barrierSubtract]) ++
    eventsOf s.holds (fun n : Nat × Nat => some (.holdTimer n.1 (bv 14 n.2))) ++
    eventsOf s.clasps fun g => if (s.abortDue g.grp).isSome then some (.claspAbort false (bv 14 g.grp)) else none
/-- The event that performs a record. -/
def recEvent (src : Nat) (r : Rec) : Option Instr :=
  let p := bv 14 src
  match r.rtype with
  | 1 => some (.read p) | 2 => some (.write p) | 3 => some (.wblk p) | 4 => some (.rblk p) | 5 => some (.atom p)
  | 6 => some (.charm p) | 7 => some (.fifo p) | 8 => some (.resp p) | 9 => some (.done p) | 10 => some (.refuse p)
  | 11 => match r.aux with
    | 0 => some (.claspOpen p) | 1 => some (.claspClose p) | 2 => some (.claspCommitted p) | 3 => some (.claspAbort true p)
    | 4 => some (.claspStatusQuery p) | _ => none
  | 12 => match r.aux % 256 with
    | 0 => some (.collStart p) | 1 => some (.collAbort p) | 2 => some (.collFinished p) | 3 => some (.hold p)
    | 4 => some (.collData p) | _ => none
  | 13 => some (.flushRecord p)
  | _ => none
/-- Events of the fabric: slots, timers, the records at the heads of their streams, the table switch. -/
def State.fabricTurns (s : State) : List Turn :=
  (if s.slotDue true then [Turn.event (.slotStart true)] else []) ++ (if s.slotDue false then [Turn.event (.slotStart false)] else []) ++
    s.links.flatMap (fun l => (if s.resendDue l.1 then [Turn.event (.retransmitTimeout (bv 14 l.1))] else []) ++
      if s.ackDue l.1 then [Turn.event (.ackTimer (bv 14 l.1))] else []) ++
    s.reqs.flatMap (fun r => (if s.answerLate r then [Turn.event (.e2eTimeout r.tag)] else []) ++
      if s.retryDue r then [Turn.event (.retryResend r.tag)] else []) ++
    eventsOf (s.inbox.map (·.src)).eraseDups (fun p => (s.inbox.find? fun e => e.src = p).bind fun e =>
      if s.reqs.any fun r => r.owner = Owner.peer p && r.ans.isNone then none else recEvent p e.rec_) ++
    if s.switchDue then [Turn.event .tableSwitch] else []
/-- Events of a command of the CP. -/
def State.cpTurns (s : State) (c : CpCmd) : List Turn :=
  let n := c.id
  let busy := s.reqs.any fun r => r.owner = Owner.cp n && r.ans.isNone
  let run : Option Instr := match c.op with
    | 1 => if s.launches.any fun l => l.cmd = n then none else some (.launch n)
    | 2 => some (.cpCopy n)
    | 3 => some (.signal n)
    | 4 => some (if c.polled.isNone then .wait n else .waitPoll n)
    | 5 => match c.shoot with
      | some x => if s.shootDone x then some (.snap n) else none
      | none => some (.snap n)
    | 6 => match s.swaps.find? fun w => w.1 = n with
      | some (_, []) => some (.codeswapCompletion n)
      | some _ => none
      | none => some (.cpCodeswap n)
    | _ => some (if c.f 0x20 1 = 1 then .tableArm n else .tableWrite n)
  let next : Option Instr :=
    if !c.started then if c.startable then some (.cpCommandStart n) else none
    else if busy then none
    else if c.result.isNone then run
    else if c.posted && s.reqs.any (fun r => r.owner = Owner.device && r.ix = completionIx n) then none
    else some (.cpCommandComplete n)
  eventsOf next.toList some
/-- Events of a device that is READY. -/
def State.deviceTurns (s : State) : List Turn :=
  s.dispatchTurns ++ s.listTurns ++ s.ctxs.flatMap (fun e => s.bankTurns e.1 e.2) ++
    s.cores.flatMap (fun e => s.replayTurns e.1 e.2) ++ s.memTurns ++ s.cmds.flatMap s.cmdTurns ++ s.mergeTurns ++ s.syncTurns ++
    s.fabricTurns ++ s.cps.flatMap s.cpTurns ++
    eventsOf s.launches fun l => if l.over_ && s.drained l then some (.launchComplete (bv 16 l.num)) else none
/-- Events of the MC: the stages of boot, the end of an update of the flash, and the power arbiter. What its sensors measure and what
the boot ROM finds is free. DEDUCED, log entry 13. -/
def State.mcTurns (s : State) : List Turn :=
  match s.bootStage with
  | 0 => [Turn.event .coldReset]
  | 3 => [Turn.event .initComplete]
  | 4 => if s.intervalDue then
      [Turn.event (.arbiterInterval (bv 192 (Config.number s.free)) (bv 128 (Config.number (s.free + 1))))] else []
  | 5 => if s.updating then [Turn.event (.flashUpdateComplete (bv 2 (Config.choice s.free % 3)))] else []
  | _ => []

/-! ## The queues of a context -/

/-- Unit `u`'s oldest bundle comes into focus. -/
def Ctx.focus (c : Ctx) (u : ExecUnit) : Ctx :=
  let before := c.older.takeWhile fun i => !i.has u
  match c.older.drop before.length with
  | i :: after => { c with older := before, issue := i, younger := after ++ [c.issue] }
  | [] => c
/-- The S sequencer's bundle stands in focus again; bundles without a slot left are gone. -/
def Ctx.settle (c : Ctx) : Ctx :=
  if c.younger.isEmpty then c
  else { c with older := c.flight.dropLast.filter fun i => !i.todo.isEmpty, issue := c.front, younger := [] }
/-- What older slots have written reaches the bundles behind the one in focus (R54). -/
def Ctx.adopt (c : Ctx) (ws : List RegName) : Ctx :=
  { c with younger := c.younger.map fun i => { i with old := ws.foldl (fun r w => r.adopt c.regs w) i.old } }

/-- Two accesses of one context, the older first, that must be performed in this order (R54, R242, R243). -/
def memBefore : MemUse → MemUse → Bool
  | .none, _ => false
  | _, .none => false
  | .acquires, _ => true
  | .orders, _ => true
  | _, .orders => true
  | .loads, .loads => true
  | _, _ => false
/-- Registers that a slot reads; the top of the mask stack is one for the slots of VL, VA and VS (R154). -/
def QSlot.reads (q : QSlot) : List RegName :=
  (infoOf q.word).reads ++ (match q.exu with | .vl => [.mask] | .va => [.mask] | .vs => [.mask] | _ => [])
/-- A slot waits for an older one of another bundle: for a register, an accumulator bank, a nest not yet promoted, memory. -/
def QSlot.waitsFor (q p : QSlot) : Bool :=
  let a := infoOf p.word
  let b := infoOf q.word
  memBefore a.mem b.mem || (q.exu ≠ .s &&
    (meets a.writes (q.reads ++ b.writes) || meets p.reads b.writes || (a.bank.isSome && a.bank = b.bank) ||
      (majorOf p.word = 0x6E && b.bank.isSome)))
/-- A slot waits for one of its bundle with a lower index, in another unit: for memory. -/
def QSlot.yields (q p : QSlot) : Bool :=
  p.idx < q.idx && p.exu ≠ q.exu && memBefore (infoOf p.word).mem (infoOf q.word).mem
/-- The slip depth holds a slot of the bundle in focus: a queue has a slot of a bundle too far behind (R55). -/
def Ctx.slipHeld (c : Ctx) : Bool :=
  c.older.any fun i => i.num + c.issue.old.qdepth.toNat ≤ c.issue.num && i.todo.any fun p => p.exu ≠ .s
/-- An acquire in the replay queue holds back a younger access (R243, R251). -/
def State.parkHeld (s : State) (k : Nat) (q : QSlot) : Bool :=
  (infoOf q.word).mem ≠ .none && (s.parkedOf k).any fun e => e.acq.isSome
/-- A slot of the bundle in focus waits for older bundles. -/
def State.held (s : State) (k : Nat) (q : QSlot) : Bool :=
  let c := s.ctx k
  (q.exu ≠ .s && c.slipHeld) || s.parkHeld k q || c.older.any fun i => i.todo.any q.waitsFor
/-- The slots of a queue that go next, of the bundle in focus: all of them together (R418), unless some wait for a slot of the bundle
that itself waits for one of them, as a release between two stores does (R242, R260); then those that do not wait. DEDUCED, log entry
14. -/
def State.group (s : State) (k : Nat) (u : ExecUnit) : List QSlot :=
  let todo := (s.ctx k).issue.todo
  let mine := todo.filter fun q => q.exu = u
  let free := mine.filter fun q => !todo.any q.yields
  if mine.any (s.held k) then []
  else if free.length = mine.length ∨ (free.any fun q => todo.any fun r => r.yields q) = true then free
  else []
/-- Slots of the VL queue that wait for an index that VA has not written: they count in CTX.LOD_VL (R56). -/
def State.indexWaits (s : State) (k : Nat) : Nat :=
  let c := (s.ctx k).focus .vl
  let index := fun q : QSlot => (infoOf q.word).reads.filter fun r => match r with | .v _ => true | _ => false
  (c.issue.todo.filter fun q => q.exu = .vl && c.older.any fun i => i.todo.any fun p =>
    p.exu = .va && meets (infoOf p.word).writes (index q)).length

/-! ## Which units may go on (R48, R50, R77, R111, R422, R430) -/

/-- The context may begin slots: it is active and ready, and no forced save of it is due. -/
def State.beginning (s : State) (k : Nat) : Bool :=
  let c := s.ctx k
  c.occ = .resident && !c.placing && c.ready && s.isActive k && !s.graceOver k
/-- A slot of a unit waits for the answer to a request that it made; the fetch is the S sequencer's. -/
def State.asking (s : State) (k : Nat) (u : ExecUnit) : Bool :=
  s.reqs.any fun r => (r.owner.unit k (seqOf u) || (u = .s && r.owner = fetchOwner k)) && r.ans.isNone
/-- A unit may take a turn: it finishes what it has begun in any case. -/
def State.unitOn (s : State) (k : Nat) (u : ExecUnit) : Bool :=
  (s.ctx k).occ = .resident && (s.begun k u || (s.beginning k && !s.stopped k u)) && !s.asking k u
/-- The S sequencer's next slot. -/
def Ctx.nextS (c : Ctx) : Option QSlot := c.issue.todo.find? fun q => q.exu = .s
/-- A slot of the S sequencer may run. -/
def State.sReady (s : State) (k : Nat) (q : QSlot) : Bool := !s.held k q && !(s.ctx k).issue.todo.any q.yields
/-- The S sequencer can take a turn. -/
def State.canRun (s : State) (k : Nat) : Bool :=
  let c := s.ctx k
  if c.occ ≠ .resident then false
  else if c.placing then c.retry = 0
  else if c.badRestore then s.beginning k
  else s.unitOn k .s && (match c.nextS with | some q => s.sReady k q | none => true)
/-- It can issue a bundle and leave its slots for later. -/
def State.canPlace (s : State) (k : Nat) : Bool :=
  let c := s.ctx k
  !c.placing && !c.badRestore && c.nextS.isNone && !s.recordDue k && s.canRun k
/-- A queue can take a turn. -/
def State.canQueue (s : State) (k : Nat) (u : ExecUnit) : Bool :=
  !((s.ctx k).queued u).isEmpty && s.unitOn k u &&
    (!((s.modCtx k fun c => c.focus u).group k u).isEmpty ||
      (u = .vl && !(s.ctx k).counted.contains .vl && decide (0 < s.indexWaits k)))

/-! ## How a slot ends -/

/-- How a slot leaves off: it has taken effect, it waits, it raises a cause, it takes the page-fault path. -/
inductive SlotEnd where
  | done | waits | raises | pages
deriving DecidableEq, Repr
/-- The state after a slot. -/
def nextOf (s : State) : Host.Outcome State Fault Refusal → State
  | .next t => t
  | _ => s
/-- How slot `q` of context `k` left off, between two states. -/
def slotEnd (k : Nat) (q : QSlot) (s t : State) : SlotEnd :=
  if t.raised ≠ s.raised then if (s.ctx k).pf.length < (t.ctx k).pf.length then .pages else .raises
  else if (t.ctx k).issue.todo.any fun p => p.idx = q.idx then .waits else .done
/-- A bundle and a slot come before others in program order. -/
def older_ (a b : Nat × Nat) : Bool := a.1 < b.1 || (a.1 = b.1 && a.2 < b.2)
/-- A scratchpad access of the context before slot `i` of bundle `n` has not completed (R253). -/
def State.scratchBefore (s : State) (k n i : Nat) : Bool :=
  (s.ctx k).flight.any fun b => b.todo.any fun q => q.scratch.isSome && older_ (b.num, q.idx) (n, i)
/-- Another unit has begun a slot that it finishes first: one that would itself raise a cause, and is younger, does not hold the
delivery (R414, R418, R419). -/
def State.othersBegun (s : State) (k : Nat) (u : ExecUnit) (n i : Nat) : Bool :=
  [ExecUnit.s, .vl, .va, .vs, .mx].any fun v => v ≠ u && s.begun k v &&
    (s.asking k v ||
      let t := s.modCtx k fun c => c.focus v
      match (t.ctx k).issue.todo.find? fun q => q.exu = v with
      | none => false
      | some q => decide (slotEnd k q t (nextOf t (t.runSlot k q)) ≠ .raises) || older_ ((t.ctx k).issue.num, q.idx) (n, i))
/-- The context waits with what it found: the units that have begun slots go on, and it finds the same again. -/
def State.putOff (s : State) (k : Nat) (n i : Nat) (u : ExecUnit) (e : SlotEnd) : Bool :=
  match e with
  | .raises => s.othersBegun k u n i
  | .pages => s.scratchBefore k n i
  | _ => false

/-! ## Turns of a context -/

/-- Slot `q` of the S sequencer. -/
def State.runS (s : State) (k : Nat) (q : QSlot) : Host.Outcome State Fault Refusal :=
  match s.runSlot k q with
  | .next t => .next (if s.putOff k (s.ctx k).issue.num q.idx .s (slotEnd k q s t) then s else t)
  | o => o
/-- Slots of the bundle in focus, one after another. -/
def State.runAll (k : Nat) : List QSlot → State → State
  | [], s => s
  | q :: qs, s => State.runAll k qs (if (s.ctx k).issue.todo.any fun p => p.idx = q.idx then nextOf s (s.runSlot k q) else s)
/-- The turn of a queue: when one of the slots that go together waits, it goes on alone; when one raises a cause, none of them takes
effect and the lowest raises it (R418, R419); else all take effect, but loads that the page-fault path cancels (R111, R422). -/
def State.runQueue (s : State) (k : Nat) (u : ExecUnit) : State :=
  let s := if u = .vl ∧ (s.ctx k).counted.contains .vl = false then
      let n := s.indexWaits k
      if n = 0 then s
      else s.modCtx k fun c => { c with counted := .vl :: c.counted, regs := { c.regs with lodVL := c.regs.lodVL + BitVec.ofNat 48 n } }
    else s
  let f := s.modCtx k fun c => c.focus u
  let qs := f.group k u
  let ends := qs.map fun q => (q, slotEnd k q f (nextOf f (f.runSlot k q)))
  let num := (f.ctx k).issue.num
  let off := fun e : QSlot × SlotEnd => f.putOff k num e.1.idx u e.2
  let go := fun qs : List QSlot => (State.runAll k qs f).modCtx k fun c =>
    if c.younger.isEmpty then c else (c.adopt (qs.flatMap fun q => (infoOf q.word).writes)).settle
  match ends.find? fun e => e.2 = .waits with
  | some e => go [e.1]
  | none => match ends.find? fun e => e.2 = .raises with
    | some e => if off e then s else go [e.1]
    | none => if ends.any off then s else go qs
/-- The S sequencer issues the next bundle, when nothing that has begun must end before what the attempt raises. -/
def State.tryIssue (s : State) (k : Nat) : State × Bool :=
  let n := (s.ctx k).bundles + 1
  match s.issue k with
  | (t, true) => (t, true)
  | (t, false) =>
    let e : SlotEnd := if t.raised = s.raised then .done else if (s.ctx k).pf.length < (t.ctx k).pf.length then .pages else .raises
    (if s.putOff k n 0 .s e then s else t, false)
/-- The first slot of a bundle just issued. -/
def State.runFirst (s : State) (k : Nat) : Host.Outcome State Fault Refusal :=
  let c := s.ctx k
  let i := if c.issue.has .s then c.issue else (c.older.getLast?).getD {}
  match i.todo.head? with
  | some q =>
    if q.exu = .s then if s.sReady k q then s.runS k q else .next s
    else if s.canQueue k q.exu ∧ ((c.focus q.exu).issue.num = i.num) then .next (s.runQueue k q.exu) else .next s
  | none => .next s
/-- The turn of the S sequencer of context `k`: the WTAKE of its placement; the cause of a poisoned restore; a slot of the issued bundle;
the delivery of a record between bundles; or a bundle issued, with its first slot. DESIGN CHOICE, log entry 14. -/
def State.runCtx (s : State) (k : Nat) : Host.Outcome State Fault Refusal :=
  let c := s.ctx k
  if !s.canRun k then .next s
  else if c.placing then .next (s.firstTake k)
  else if c.badRestore then
    .next ((s.modCtx k fun c => { c with badRestore := false }).takeException k { trap := .poison 0 })
  else match c.nextS with
    | some q => s.runS k q
    | none =>
      if s.recordDue k then
        if s.othersBegun k .s (c.bundles + 1) 0 then .next s else execAsyncFaultDelivery (bv 12 k) s
      else match s.tryIssue k with
        | (t, true) => t.runFirst k
        | (t, false) => .next t
/-- Turns of the contexts. -/
def State.contextTurns (s : State) : List Turn :=
  s.ctxs.flatMap fun e =>
    let k := e.1
    (if !e.2.pf.isEmpty && !s.asksOut k && !openPages e.2.pf then [.resume k] else []) ++
      (if s.canRun k then [.run k] else []) ++ (if s.canPlace k then [.place k] else []) ++
      ([ExecUnit.vl, .va, .vs, .mx].filter fun u => s.canQueue k u).map fun u => .queue k u

end Sys2Proof.Machine
end

