-- ==== Sys2Proof/Machine/Turn.lean ====
section
/-! DEFINITION. The parts of a step: the time that passes, the choice of a turn, the turn, and what follows every turn; and the state
that a single slot runs in first. -/
namespace Sys2Proof.Machine

/-- Time passes (R402): GT advances while the device is READY, and crossed triggers fire (R405). DESIGN CHOICE, log entry 2;
DEDUCED, log entry 18. -/
def State.tick (s : State) : State :=
  if s.booted then { s with gt := s.gt + Config.elapsed s.free, free := s.free + 1 }.crossTime else s
/-- Every turn that the device itself can take. -/
def State.turns (s : State) : List Turn := if s.booted then s.contextTurns ++ s.deviceTurns ++ s.mcTurns else s.mcTurns
/-- Turns are the same when they differ in what sensors and the boot ROM find only. -/
def Turn.kind : Turn → Turn
  | .event (.arbiterInterval _ _) => .event (.arbiterInterval 0 0)
  | .event (.flashUpdateComplete _) => .event (.flashUpdateComplete 0)
  | t => t
/-- The turns that can be taken, those that have waited longest first. -/
def State.waiting (s : State) : List Turn :=
  let ts := s.turns
  (s.turnQ.filterMap fun t => ts.find? fun u => u.kind = t) ++ ts.filter fun u => !s.turnQ.contains u.kind
/-- A full/empty operation that waits and whose test now succeeds, the first that came: it tests again after every change of F, before
an operation that comes later (R247). -/
def State.tagNow (s : State) : Option Nat :=
  if !s.booted then none
  else s.tagLine.find? fun k => (s.ctx k).tagWait.isSome && s.canRun k && (match (s.ctx k).nextS with
    | some q => slotEnd k q s (nextOf s (s.runSlot k q)) ≠ .waits
    | none => false)
/-- The next turn: a full/empty operation whose word has changed; the first of the agenda; else one of those the device can take. Which one goes first the spec leaves to the
hardware: a free choice, but one that has been passed by too often goes first. DESIGN CHOICE, log entry 8. -/
def State.nextTurn (s : State) : Option Turn × State :=
  match s.tagNow, s.agenda with
  | some k, _ => (some (.run k), s)
  | none, t :: ts => (some t, { s with agenda := ts })
  | none, [] =>
    match s.waiting with
    | [] => (none, { s with turnQ := [], skipped := 0 })
    | [t] => (some t, { s with free := s.free + 3, turnQ := [], skipped := 0 })
    | t :: ts =>
      let n := if Config.patience ≤ s.skipped then 0 else Config.choice (s.free + 2) % (ts.length + 1)
      (some ((t :: ts).getD n t),
        { s with
          free := s.free + 3
          turnQ := ((t :: ts).eraseIdx n).map Turn.kind
          skipped := if n = 0 then 0 else s.skipped + 1 })
/-- The turn taken. -/
def State.takeTurn (s : State) (t : Turn) : Host.Outcome State Fault Refusal :=
  match t with
  | .run k => if s.booted then s.runCtx k else .next s
  | .place k => if s.booted && s.canPlace k then .next (s.tryIssue k).1 else .next s
  | .queue k u => if s.booted && s.canQueue k u then .next (s.runQueue k u) else .next s
  | .resume k => .next (if s.booted then s.resumePages k else s)
  | .work n => .next (if s.booted then s.work n else s)
  | .event e => if s.admits e then exec e s else .next s
/-- Cycles of the cores in which a bank holds a resident context (R409). -/
def State.countCycles (s : State) : State :=
  let (n, s) := s.draw Config.elapsed
  ((s.ctxs.filter fun e => e.2.occ = Occupancy.resident).map fun e => e.1 / 2).eraseDups.foldl (fun s c => s.addPerf c 0x140 n) s
/-- What follows every turn: requests for peers set out, and cycles are counted. -/
def closing (o : Host.Outcome State Fault Refusal) : Host.Outcome State Fault Refusal :=
  match o with
  | .next s => .next (if s.booted then s.setOut.countCycles else s)
  | .fault f => .fault f
  | .refused r => .refused r

/-! ## A slot placed where the next step fetches -/

/-- Where `withSlot` puts the launch's code, and the tables of its address space, in HBM. -/
def slotCode : Nat := 0x10000
def slotTables : Nat := 0x100000
/-- A doubleword of HBM written as firmware writes it. -/
def State.load64 (s : State) (a v : Nat) : State :=
  { s with mem := s.mem.write a 8 fun i => BitVec.ofNat 8 (v / 256 ^ i) }
/-- The rest of a bundle that begins with a slot whose stop bit is clear: a target for a prefix, else a NOP. -/
def slotTail (w : BitVec 32) : List (BitVec 32) :=
  if w.getLsbD 31 then []
  else match (w.extractLsb' 24 7).toNat with
    | 1 => [0x92000000]
    | 3 => [0xF9000003]
    | _ => [0x80000000]
/-- The mode in which a privileged slot may run (R412). -/
def slotMode (w : BitVec 32) : BitVec 2 :=
  if w.extractLsb' 24 7 = 0x34 ∨ w.extractLsb' 24 7 = 0x3F then 2 else 0
/-- The launch whose only task runs in bank 0 of core 0: its code is executable, and its address space has one page, which maps
itself. -/
def slotLaunch : Launch :=
  { num := 0, count := 1, steps := 1, codeCap := BitVec.ofNat 64 slotCode ++ BitVec.ofNat 40 0x10000 ++ permX ++ (0 : BitVec 16)
    cohorts := 0x4000000, save := 0x8000000, untaken := 0 }
/-- The context that runs it, after the grant of its step. -/
def slotCtx (w : BitVec 32) : Ctx :=
  { occ := .resident, inc := 1, pc := BitVec.ofNat 64 slotCode, gen := 1
    regs := { qdepth := 64, openStep := true, mode := slotMode w } }
/-- The tables that map the page of `slotCode` onto itself with X, W and R (R218, R219). -/
def State.slotPages (s : State) : State :=
  let s := s.load64 (slotTables + 8 * walkIndex slotCode 4) (slotTables + 0x1000 + 1)
  let s := s.load64 (slotTables + 0x1000 + 8 * walkIndex slotCode 3) (slotTables + 0x2000 + 1)
  let s := s.load64 (slotTables + 0x2000 + 8 * walkIndex slotCode 2) (slotTables + 0x3000 + 1)
  let s := s.load64 (slotTables + 0x3000 + 8 * walkIndex slotCode 1) (slotTables + 0x4000 + 1)
  let s := s.load64 (slotTables + 0x4000 + 8 * walkIndex slotCode 0) (slotCode + 2 ^ 14 + 0x1F)
  s.setCsr 0 (BitVec.ofNat 64 (slotTables + 1))
/-- The machine READY, with a launch whose context is about to issue a bundle of the slot `w`. DESIGN CHOICE, log entry 12. -/
def State.withSlot (s : State) (w : BitVec 32) : State :=
  let ws := w :: slotTail w
  let s := (List.range ws.length).foldl (fun (s : State) i =>
    { s with mem := s.mem.write (slotCode + 4 * i) 4 fun j => (ws.getD i 0).extractLsb' (8 * j) 8 }) s
  let s := s.slotPages.setCsr 0x90200 4
  { s with launches := [slotLaunch], nextInc := 2, agenda := [.run 0], ctxs := s.ctxs.put 0 (slotCtx w) }

end Sys2Proof.Machine
end

