-- ==== Sys2Proof/Machine/Step.lean ====
section
/-! DEFINITION. The step of the machine: time passes, and one agent takes a turn. -/
namespace Sys2Proof.Machine

/-- `step`: GT advances and the triggers it crosses fire; then one turn is taken, the first of the agenda or one that the device
enables; then requests leave for peers and the cycles of occupied cores are counted. -/
def step (s : State) : Host.Outcome State Fault Refusal :=
  let s := s.tick
  match s.nextTurn with
  | (some t, s') => closing (s'.takeTurn t)
  | (none, s') => closing (.next s')

/-- The machine with one slot placed where its next step fetches, and that step set on the context that fetches it. -/
def State.withFetchWord (s : State) (nbits w : Nat) : State := s.withSlot (if nbits ≤ 32 then BitVec.ofNat 32 w else 0)

end Sys2Proof.Machine
end

