-- ==== Sys2Proof/Safety.lean ====
section
/-! DEFINITION. The terms of the statements: a slot that runs, what it may leave changed, and the result it gives. -/
namespace Sys2Proof.Machine

/-- A step that answers a next state: no fault, no refusal. -/
def Answers (o : Host.Outcome State Fault Refusal) : Bool := match o with | .next _ => true | .fault _ => false | .refused _ => false

/-! ## Slots -/

/-- The slot that runs belongs to a resident context, in whose bundle no TRAP, SVC, BRK or TRAPRET has run: when the bundle
ends, control goes on (R81, R138). -/
structure Running (s : State) : Prop where
  resident : (s.ctx s.cur).occ = .resident
  noTrap : (s.ctx s.cur).issue.endTrap = none
  noReturn : (s.ctx s.cur).issue.ret = false

/-- With the slot that runs the S sequencer leaves its bundle: that bundle is in focus, and no other slot of S in it has not taken effect
(R51). -/
def LastSlot (s : State) : Prop :=
  (s.ctx s.cur).younger = [] ∧ ∀ q ∈ (s.ctx s.cur).issue.todo, q.exu = .s → q.idx = (s.ctx s.cur).issue.cur

/-- The slot has taken effect on its own context only. Of the state, the banks and the bookkeeping of its requests may differ;
of the banks, its own; of that, the registers, and the record of the issued bundles with the pc and the waits. Every byte of
memory reads as before. -/
structure OwnBank (s t : State) : Prop where
  rest : t = { s with ctxs := t.ctxs, asks := 0, reqs := s.reqs.filter fun r => r.owner ≠ s.me }
  others : ∀ k, k ≠ s.cur → t.ctx k = s.ctx k
  own : t.ctx s.cur =
    { s.ctx s.cur with
      regs := (t.ctx s.cur).regs
      pc := (t.ctx s.cur).pc
      issue := (t.ctx s.cur).issue
      older := (t.ctx s.cur).older
      waits := (t.ctx s.cur).waits
      counted := (t.ctx s.cur).counted
      tagWait := (t.ctx s.cur).tagWait
      stepOne := (t.ctx s.cur).stepOne }
  memory : ∀ a, t.peek a = s.peek a
  done : ∀ q ∈ (t.ctx s.cur).issue.todo, q.idx ≠ (s.ctx s.cur).issue.cur

/-- Control after a slot: with the last slot of S in the bundle the context goes to `tgt`, or to the next bundle when there is none
(R81); before that the pc stays, and the bundle remembers `tgt`. -/
def GoesTo (s t : State) (tgt : Option Word64) : Prop :=
  (LastSlot s → (t.ctx s.cur).pc = tgt.getD (s.ctx s.cur).issue.next) ∧
    (¬ LastSlot s → (t.ctx s.cur).pc = (s.ctx s.cur).pc ∧ (t.ctx s.cur).issue.target = tgt)

/-- `i` completes in `s`, on its own context only; it leaves registers that satisfy `Q`, and control goes to `tgt`. -/
def Transfers (s : State) (i : Instr) (tgt : Option Word64) (Q : Regs → Prop) : Prop :=
  ∃ t, exec i s = .next t ∧ OwnBank s t ∧ GoesTo s t tgt ∧ Q t.regs
/-- `i` completes so, and does not change where control goes. -/
def Gives (s : State) (i : Instr) (Q : Regs → Prop) : Prop := Transfers s i (s.ctx s.cur).issue.target Q

/-- Only xN differs. -/
def OnlyX (n : Nat) (r r' : Regs) : Prop := r' = { r with x := r'.x } ∧ ∀ m, m ≠ n → r'.rx m = r.rx m
/-- Only pN differs. -/
def OnlyP (n : Nat) (r r' : Regs) : Prop := r' = { r with p := r'.p } ∧ ∀ m, m ≠ n → r'.rp m = r.rp m

/-- What pN reads after `b` has been written; p0 reads 1 (R108). -/
def pAfter (n : BitVec 7) (b : Bool) : Val 1 := if n = 0 then ⟨1, false⟩ else ⟨.ofBool b, false⟩
/-- What xN reads after a result `v` has been written: x0 reads 0 (R108), a poisoned result has value bits 0 (R119). -/
def xAfter (n : BitVec 6) (v : Val 64) : Val 64 := if n = 0 then ⟨0, false⟩ else if v.psn then ⟨0, true⟩ else v

/-- `i` completes and writes an integer result that satisfies `P` to xD; a poisoned one when a source is poisoned (R119); nothing
to x0 (R108). -/
def GivesX (s : State) (i : Instr) (d : BitVec 6) (srcs : List (BitVec 6)) (P : Word64 → Prop) : Prop :=
  Gives s i fun r => OnlyX d.toNat s.regs r ∧
    (d = 0 → r.rx 0 = ⟨0, false⟩) ∧
    (d ≠ 0 → (∃ n ∈ srcs, (s.old.rx n.toNat).psn = true) → r.rx d.toNat = ⟨0, true⟩) ∧
    (d ≠ 0 → (∀ n ∈ srcs, (s.old.rx n.toNat).psn = false) → (r.rx d.toNat).psn = false ∧ P (r.rx d.toNat).v)

/-! ## Vector results -/

/-- The mask lane of element `e` of width `w` (R150). -/
def maskLane (w e : Nat) : Nat := if w = 64 then 2 * e else e * w / 32
/-- The mask lane that governs lane `l`. -/
def ruling (w l : Nat) : Nat := if w = 64 then l / 2 * 2 else l
/-- The elements of width `w`. -/
def elements (w : Nat) : List Nat := List.range (2048 / w)

/-- Nothing but vD, and flags, differs. -/
def OnlyV (d : Nat) (r r' : Regs) : Prop :=
  r' = { r with v := r'.v, fcsr := r'.fcsr } ∧ ∀ n l, n ≠ d → l < 64 → r'.rv n l = r.rv n l

/-- `i` completes and writes to each active element of vD, of width `w`, what `f` says: a poisoned element has value bits 0 and a lane is
poisoned when an element in it is; inactive lanes keep their bits and poison; the flags of the active elements are added to FCSR
(R150 to R152, R39). -/
def GivesV (s : State) (i : Instr) (d : BitVec 6) (w : Nat) (f : Nat → Elt) : Prop :=
  Gives s i fun r => OnlyV d.toNat s.regs r ∧
    (∀ l, l < 64 → s.old.active (ruling w l) = false → r.rv d.toNat l = s.regs.rv d.toNat l) ∧
    (∀ e ∈ elements w, s.old.active (maskLane w e) = true →
      (r.elt d.toNat w e).v = if (f e).psn then 0 else (f e).v % 2 ^ w) ∧
    (∀ l, l < 64 → s.old.active (ruling w l) = true →
      (r.rv d.toNat l).psn = (elements w).any fun e => maskLane w e = ruling w l && (f e).psn) ∧
    (∀ b, r.fcsr.getLsbD b = (s.regs.fcsr.getLsbD b ||
      (elements w).any fun e => s.old.active (maskLane w e) && (f e).fl.getLsbD b))

/-- `i` completes and writes to each lane of vD what `f` says, to those where `f` gives nothing nothing; no flag is set. -/
def GivesLanes (s : State) (i : Instr) (d : BitVec 6) (f : Nat → Option (Val 32)) : Prop :=
  Gives s i fun r => OnlyV d.toNat s.regs r ∧ r.fcsr = s.regs.fcsr ∧
    ∀ l, l < 64 → r.rv d.toNat l = match f l with | some v => v | none => s.regs.rv d.toNat l

/-! ## Memory slots -/

/-- The slot has taken effect on its own context, on memory, and on what stands between: the core's L1 and its TLB, the LLC slices with
their counters, the tags. The rest of the state is as before. -/
structure MemSlot (s t : State) : Prop where
  rest : t = { s with
    ctxs := t.ctxs, cores := t.cores, mem := t.mem, psn := t.psn, tagF := t.tagF, tagC := t.tagC, llc := t.llc, dev := t.dev
    free := t.free, tlbs := t.tlbs, asks := 0, reqs := s.reqs.filter fun r => r.owner ≠ s.me }
  others : ∀ k, k ≠ s.cur → t.ctx k = s.ctx k
  own : t.ctx s.cur =
    { s.ctx s.cur with
      regs := (t.ctx s.cur).regs
      pc := (t.ctx s.cur).pc
      issue := (t.ctx s.cur).issue
      older := (t.ctx s.cur).older
      waits := (t.ctx s.cur).waits
      counted := (t.ctx s.cur).counted
      tagWait := (t.ctx s.cur).tagWait
      stepOne := (t.ctx s.cur).stepOne }
  otherCores : ∀ c, c ≠ s.cur / 2 → t.core c = s.core c
  core : t.core (s.cur / 2) =
    { s.core (s.cur / 2) with l1 := (t.core (s.cur / 2)).l1, poisonZeroed := (t.core (s.cur / 2)).poisonZeroed }
  csrs : ∀ o, (o < 0x10000 ∨ 0x11000 ≤ o) → t.csr o = s.csr o
  done : ∀ q ∈ (t.ctx s.cur).issue.todo, q.idx ≠ (s.ctx s.cur).issue.cur

/-- `i` completes as a memory slot, control goes on, and the state after it satisfies `Q`. -/
def Completes (s : State) (i : Instr) (Q : State → Prop) : Prop :=
  ∃ t, exec i s = .next t ∧ MemSlot s t ∧ GoesTo s t (s.ctx s.cur).issue.target ∧ Q t

/-- Every byte of memory holds what it held. -/
def SameBytes (s t : State) : Prop := ∀ a, (t.peek a).v = (s.peek a).v
/-- The bytes `[p, p + n)` hold `f`, every other byte of memory what it held. -/
def StoredAt (s t : State) (p n : Nat) (f : Nat → Byte) : Prop :=
  ∀ a, (t.peek a).v = if p ≤ a ∧ a < p + n then f (a - p) else (s.peek a).v
/-- The words that `[p, p + n)` touches have poison `b`, a word written in part has its own beside; every other word what it had. -/
def PoisonAt (s t : State) (p n : Nat) (b : Bool) : Prop :=
  ∀ a, (t.peek a).psn = if p / 4 ≤ a / 4 ∧ a / 4 ≤ (p + n - 1) / 4 then b || (decide (n < 4) && (s.peek a).psn) else (s.peek a).psn
/-- Byte `i` of a number. -/
def byteOf (v i : Nat) : Byte := BitVec.ofNat 8 (v / 256 ^ i)
/-- The little-endian number in `n` bytes at `p`, and whether one of them is poisoned. -/
def numberAt (s : State) (p n : Nat) : Nat := ((List.range n).map fun i => (s.peek (p + i)).v.toNat * 256 ^ i).sum
def poisonedAt (s : State) (p n : Nat) : Bool := (List.range n).any fun i => (s.peek (p + i)).psn
/-- What an x register takes of an `n`-byte number, extended with zeros or by sign. -/
def extended (n v : Nat) (sx : Bool) : Word64 := if sx then (BitVec.ofNat (8 * n) v).signExtend 64 else BitVec.ofNat 64 v

/-- The sum of xA and an offset, xB or an immediate extended with zeros (R264), and that no register in it is poisoned. -/
def offsetAt (s : State) (a b : BitVec 6) (i : Bool) : Word64 :=
  (s.old.rx a.toNat).v + if i then s.immZ b else (s.old.rx b.toNat).v
def offsetClean (s : State) (a b : BitVec 6) (i : Bool) : Prop :=
  (s.old.rx a.toNat).psn = false ∧ (i = false → (s.old.rx b.toNat).psn = false)

/-! ## Engine commands -/

/-- `i` completes by issuing one command on token channel `ch` (R388, R389): tD holds the token, which has the channel's NEXT as its
sequence, and NEXT is one more. Of the registers nothing else differs but CTX.QMODE, which is `q`. The command is the last of those
issued, waits in its queue, carries the token and the tokens of the slot's DEPS, and satisfies `P`. -/
def Issues (s : State) (i : Instr) (d : BitVec 6) (ch : Nat) (q : Word64) (P : Cmd → Prop) : Prop :=
  let x := (s.ctx s.cur).chan ch
  let tok : BitVec 32 := BitVec.ofNat 6 ch ++ x.next
  ∃ t e, exec i s = .next t ∧ GoesTo s t (s.ctx s.cur).issue.target ∧
    t.regs = { s.regs with t := t.regs.t, qmode := q } ∧ t.regs.rt d.toNat = ⟨tok, false⟩ ∧
    (∀ m, m ≠ d.toNat → t.regs.rt m = s.regs.rt m) ∧
    (t.ctx s.cur).chan ch = { x with next := x.next + 1 } ∧ (∀ k, k ≠ s.cur → t.ctx k = s.ctx k) ∧ SameBytes s t ∧
    t.cmds.length = s.cmds.length + 1 ∧ t.cmds.getLast? = some e ∧ e.token = tok ∧ e.phase = .queued ∧ e.deps = s.slot.deps ∧
    e.ctx = s.cur ∧ e.inc = (s.ctx s.cur).inc ∧ P e
/-- `i`, a slot of the MX queue on token channel `ch`, starts its command, and leaves the queue (R181). The command has the token that S gave
the slot at issue; where none was given, it takes the channel's next one, which tD holds then (R193, R389). Of the registers nothing else
differs but what `f` says; no byte of memory changes. The command, the last of those outstanding, carries the tokens of the slot's DEPS and
satisfies `P` in the new state. -/
def Starts (s : State) (i : Instr) (d : BitVec 6) (ch : Nat) (f : Regs → Regs) (P : State → Cmd → Prop) : Prop :=
  let x := (s.ctx s.cur).chan ch
  let given := s.slot.tok
  let tok := given.getD (BitVec.ofNat 6 ch ++ x.next)
  ∃ t e, exec i s = .next t ∧ GoesTo s t (s.ctx s.cur).issue.target ∧ t.regs = { f s.regs with t := t.regs.t } ∧
    (∀ m, t.regs.rt m = if m = d.toNat ∧ given = none then ⟨tok, false⟩ else s.regs.rt m) ∧
    (t.ctx s.cur).chan ch = (if given = none then { x with next := x.next + 1 } else x) ∧ (∀ k, k ≠ s.cur → t.ctx k = s.ctx k) ∧
    SameBytes s t ∧ t.cmds = s.cmds ++ [e] ∧ e.token = tok ∧ e.deps = s.slot.deps ∧ e.ctx = s.cur ∧ e.inc = (s.ctx s.cur).inc ∧ P t e
/-- The channel has room for `n` tokens more (R389). -/
def Room (s : State) (ch n : Nat) : Prop :=
  let x := (s.ctx s.cur).chan ch
  (x.next - x.w).toNat + n < 2 ^ 25
/-- No engine command of the context or of its core is on its way. -/
def Idle (s : State) : Prop := ∀ c ∈ s.cmds, c.inc ≠ (s.ctx s.cur).inc ∧ c.ctx / 2 ≠ s.cur / 2
/-- Nothing older holds up the command of the running slot: no command of its context or core is on its way, its tokens are satisfied, the
range scoreboard is empty, and no older slot that accesses scratchpad, or names an accumulator bank, is left (R183, R250). -/
structure Unhindered (s : State) : Prop where
  idle : Idle s
  placed : s.ctxOf (s.ctx s.cur).inc = some s.cur
  deps : ∀ t ∈ s.slot.deps, (s.ctx s.cur).satisfied t = true
  board : (s.core (s.cur / 2)).board = []
  ahead : ∀ b ∈ (s.ctx s.cur).older, ∀ q ∈ b.todo, q.scratch = none ∧ q.exu ≠ .va
  beside : ∀ q ∈ (s.ctx s.cur).issue.todo, q.idx < (s.ctx s.cur).issue.cur → q.scratch = none ∧ q.exu ≠ .va
  behind : ∀ b ∈ (s.ctx s.cur).younger, (s.ctx s.cur).issue.num < b.num
  images : ∀ i ∈ [(s.ctx s.cur).img1, (s.ctx s.cur).img2], ∀ j, i = some j → j.last < (s.ctx s.cur).issue.num
/-- `i` waits: it changes no register and no byte, and has not taken effect; of the bundle's record only the queue found full may
differ. -/
def Waits (s : State) (i : Instr) : Prop :=
  ∃ t, exec i s = .next t ∧ (t.ctx s.cur).issue = { (s.ctx s.cur).issue with full := (t.ctx s.cur).issue.full } ∧ (t.ctx s.cur).pc = (s.ctx s.cur).pc ∧
    t.regs = s.regs ∧ (∀ a, t.peek a = s.peek a)

/-! ## Agents -/

/-- The TLB of `unit` leads `[va, va + n)`, which lies in one 64 KiB unit, to `p` in the memory of this device, with leave to read and to
write. -/
def Leads (s : State) (unit asid va n p : Nat) (r w : Bool) : Prop :=
  canonical va = true ∧ va % 0x10000 + n ≤ 0x10000 ∧ region p ∈ [Region.hbm, .sbm, .scratch] ∧
    ∃ e, (s.tlb unit).find? (fun e => e.maps asid va) = some e ∧ physical e.leaf e.size va = s.peer * 2 ^ 50 + p ∧
      (r = true → leafR e.leaf = true) ∧ (w = true → leafW e.leaf = true ∧ leafCow e.leaf = false)
/-- Context `k` is the one whose placement is `inc`. -/
def Holds (s : State) (inc k : Nat) : Prop :=
  (s.ctx k).occ = .resident ∧ (s.ctx k).inc = inc ∧ ∀ e ∈ s.ctxs, e.2.occ = .resident → e.2.inc = inc → e.1 = k

/-- A record with its bytes leaves for device `dst`: it joins the inbox, which else is `inbox`, when that is this device. Else its flits, which have the
next numbers of the stream, join the send queue of the route, with DUP their copies that of the second plane; where a queue lacks the
room, the packet waits for it (R299, R331, R332, R334 to R336). -/
def Sends (s t : State) (dst : Nat) (bulk : Bool) (r : Rec) (data : List (Val 8)) (inbox : List In) : Prop :=
  let e := s.route dst
  let q := if bulk then routeBsq e else routeMsq e
  let kind := if r.rtype = 12 ∧ r.aux % 256 = 3 then 3 else 1
  if dst = s.peer then t.inbox = inbox ++ [{ src := dst, rec_ := r, data }] ∧ t.sendq = s.sendq
  else t.inbox = inbox ∧
    (s.roomFor dst bulk data.length = false → t.sendq = s.sendq ∧ t.outQ = s.outQ ++ [{ dst, bulk, kind, recs := [r], data }]) ∧
    (s.roomFor dst bulk data.length = true → t.outQ = s.outQ ∧ ∃ f fs more, t.sendq.get [] q = s.sendq.get [] q ++ (f :: fs) ++ more ∧
      f.kind = kind ∧ f.body = r.bytes ∧ fs.length = (data.length + 255) / 256 ∧ (∀ g ∈ fs, g.kind = 0) ∧ fs.flatMap (·.body) = data.map (·.v) ∧
      (∀ g ∈ f :: fs, g.dst = dst ∧ g.src = s.peer ∧ g.plane = false) ∧
      (f :: fs).map (·.seq) = (List.range (fs.length + 1)).map (fun i => ((s.link dst).next + i) % 2 ^ 19) ∧
      (bulk = true ∨ routeDup e = false → more = []) ∧
      (bulk = false → routeDup e = true → routeMsq2 e ≠ q → more = [] ∧
        t.sendq.get [] (routeMsq2 e) = s.sendq.get [] (routeMsq2 e) ++ (f :: fs).map fun g => { g with plane := true }))

/-! ## Exceptions -/

/-- No debugger takes a BREAK, and no unit of the context is halted. -/
def Undebugged (s : State) (k : Nat) : Prop := (s.csr csrDbgAttach).getLsbD 63 = false ∧ (s.ctx k).halt = 0

/-- Context `k` is the one that DBG.ATTACH and DBG.SEL name (R429). -/
def Selected (s : State) (k : Nat) : Prop :=
  let mine := fun j : Nat => j ∈ s.residents ((s.csr 0x80040).toNat % 2 ^ 16) ∧ (s.ctx j).regs.task.toNat = (s.csr 0x80048).toNat % 2 ^ 12
  (s.csr 0x80040).getLsbD 63 = true ∧ mine k ∧ ∀ j, mine j → j = k

/-- Context `k` has gone from `s` to the level-`n` handler in `t` (R414, R416): of its registers only the frame's CSRs and
FF.CTL.MODE differ; the S sequencer stands at `entry` with no slot left in any queue; what had not taken effect is kept as the
level-`n` image; frame `n` holds `ws`, the CSRs outside it are as before; no other context changes. -/
structure Entered (s t : State) (k n : Nat) (entry : Word64) (ws : List Word64) : Prop where
  regs : (t.ctx k).regs = { (s.ctx k).regs with ff := (t.ctx k).regs.ff, mode := BitVec.ofNat 2 n }
  pc : (t.ctx k).pc = entry
  checked : (t.ctx k).chk = true
  empty : (t.ctx k).issue = {}
  queues : (t.ctx k).older = [] ∧ (t.ctx k).younger = []
  resident : (t.ctx k).occ = (s.ctx k).occ
  frame : ∀ i, i < 19 → (t.ctx k).regs.ff.get 0 (frameBase n + i) = ws.getD i 0
  frameRest : ∀ j, (j < frameBase n ∨ frameBase n + 19 ≤ j) → (t.ctx k).regs.ff.get 0 j = (s.ctx k).regs.ff.get 0 j
  others : ∀ j, j ≠ k → t.ctx j = s.ctx j

end Sys2Proof.Machine
end

