-- ==== Sys2Proof/Certificates/Slice0/Obligations.lean ====
section
/-! DEFINITION. The statements for the provers. Each obligation is one part, or the conjunction of parts of one family; a part names the rules
of spec/ that it formalises. -/
open Sys2Proof Sys2Proof.Machine

/-! ## Parts -/

/-- R121, R122, R118: ADD, SUB and ADDI compute the exact sum or difference of their operands, of the low halves in the 32-bit forms; the plain forms take it modulo 2^n, the saturating ones clamp it, and 32-bit results extend by their type. ADDI adds its immediate of 12 bits, of 36 with LIMM, extended by sign. -/
def Sys2Proof.Parts.AddSubtract : Prop :=
  ∀ (s : State) (st : Bool) (d a b : BitVec 6) (i : BitVec 12), Running s →
    let x := (s.old.rx a.toNat).v
    let y := (s.old.rx b.toNat).v
    let lo := fun v : Word64 => v.extractLsb' 0 32
    let clamp := fun (l h e : Int) => max l (min h e)
    let imm := match s.slot.limm with | some u => (u ++ i).toInt | none => i.toInt
    GivesX s (.add st d a b) d [a, b] (fun r => r.toNat = (x.toNat + y.toNat) % 2 ^ 64) ∧
    GivesX s (.addS32 st d a b) d [a, b] (fun r => r.toInt = ((lo x).toInt + (lo y).toInt).bmod (2 ^ 32)) ∧
    GivesX s (.addZ32 st d a b) d [a, b] (fun r => r.toNat = ((lo x).toNat + (lo y).toNat) % 2 ^ 32) ∧
    GivesX s (.addSatS64 st d a b) d [a, b] (fun r => r.toInt = clamp (-2 ^ 63) (2 ^ 63 - 1) (x.toInt + y.toInt)) ∧
    GivesX s (.addSatZ64 st d a b) d [a, b] (fun r => r.toNat = min (2 ^ 64 - 1) (x.toNat + y.toNat)) ∧
    GivesX s (.addSatS32 st d a b) d [a, b] (fun r => r.toInt = clamp (-2 ^ 31) (2 ^ 31 - 1) ((lo x).toInt + (lo y).toInt)) ∧
    GivesX s (.addSatZ32 st d a b) d [a, b] (fun r => r.toNat = min (2 ^ 32 - 1) ((lo x).toNat + (lo y).toNat)) ∧
    GivesX s (.sub st d a b) d [a, b] (fun r => (r.toNat : Int) = ((x.toNat : Int) - y.toNat) % 2 ^ 64) ∧
    GivesX s (.subS32 st d a b) d [a, b] (fun r => r.toInt = ((lo x).toInt - (lo y).toInt).bmod (2 ^ 32)) ∧
    GivesX s (.subZ32 st d a b) d [a, b] (fun r => (r.toNat : Int) = (((lo x).toNat : Int) - (lo y).toNat) % 2 ^ 32) ∧
    GivesX s (.subSatS64 st d a b) d [a, b] (fun r => r.toInt = clamp (-2 ^ 63) (2 ^ 63 - 1) (x.toInt - y.toInt)) ∧
    GivesX s (.subSatZ64 st d a b) d [a, b] (fun r => r.toNat = x.toNat - y.toNat) ∧
    GivesX s (.subSatS32 st d a b) d [a, b] (fun r => r.toInt = clamp (-2 ^ 31) (2 ^ 31 - 1) ((lo x).toInt - (lo y).toInt)) ∧
    GivesX s (.subSatZ32 st d a b) d [a, b] (fun r => r.toNat = (lo x).toNat - (lo y).toNat) ∧
    GivesX s (.addi st d a i) d [a] (fun r => (r.toNat : Int) = ((x.toNat : Int) + imm) % 2 ^ 64)

/-- R123: MUL gives the low half of the product, MULH the high half of the signed or unsigned product, the 32-bit forms the exact product of the low halves, and MLA adds the product to xD. -/
def Sys2Proof.Parts.Multiply : Prop :=
  ∀ (s : State) (st : Bool) (d a b : BitVec 6), Running s →
    let x := (s.old.rx a.toNat).v
    let y := (s.old.rx b.toNat).v
    let z := (s.old.rx d.toNat).v
    let lo := fun v : Word64 => v.extractLsb' 0 32
    GivesX s (.mul st d a b) d [a, b] (fun r => r.toNat = x.toNat * y.toNat % 2 ^ 64) ∧
    GivesX s (.mulhS64 st d a b) d [a, b] (fun r => r.toInt = x.toInt * y.toInt / 2 ^ 64) ∧
    GivesX s (.mulhZ64 st d a b) d [a, b] (fun r => r.toNat = x.toNat * y.toNat / 2 ^ 64) ∧
    GivesX s (.mulS32 st d a b) d [a, b] (fun r => r.toInt = (lo x).toInt * (lo y).toInt) ∧
    GivesX s (.mulZ32 st d a b) d [a, b] (fun r => r.toNat = (lo x).toNat * (lo y).toNat) ∧
    GivesX s (.mla st d a b) d [d, a, b] (fun r => r.toNat = (z.toNat + x.toNat * y.toNat) % 2 ^ 64)

/-- R29, R124: DIV and REM give the results of R29's table, never trap, and extend 32-bit results by their type. -/
def Sys2Proof.Parts.Divide : Prop :=
  ∀ (s : State) (st : Bool) (d a b : BitVec 6), Running s →
    let x := (s.old.rx a.toNat).v
    let y := (s.old.rx b.toNat).v
    let lo := fun v : Word64 => v.extractLsb' 0 32
    let quo := fun (n : Nat) (p q : Int) => if q = 0 then -1 else if p = -2 ^ (n - 1) ∧ q = -1 then -2 ^ (n - 1) else p.tdiv q
    let rem := fun (n : Nat) (p q : Int) => if q = 0 then p else if p = -2 ^ (n - 1) ∧ q = -1 then 0 else p - p.tdiv q * q
    GivesX s (.divS64 st d a b) d [a, b] (fun r => r.toInt = quo 64 x.toInt y.toInt) ∧
    GivesX s (.divZ64 st d a b) d [a, b] (fun r => r.toNat = if y = 0 then 2 ^ 64 - 1 else x.toNat / y.toNat) ∧
    GivesX s (.remS64 st d a b) d [a, b] (fun r => r.toInt = rem 64 x.toInt y.toInt) ∧
    GivesX s (.remZ64 st d a b) d [a, b] (fun r => r.toNat = if y = 0 then x.toNat else x.toNat % y.toNat) ∧
    GivesX s (.divS32 st d a b) d [a, b] (fun r => r.toInt = quo 32 (lo x).toInt (lo y).toInt) ∧
    GivesX s (.divZ32 st d a b) d [a, b] (fun r => r.toNat = if lo y = 0 then 2 ^ 32 - 1 else (lo x).toNat / (lo y).toNat) ∧
    GivesX s (.remS32 st d a b) d [a, b] (fun r => r.toInt = rem 32 (lo x).toInt (lo y).toInt) ∧
    GivesX s (.remZ32 st d a b) d [a, b] (fun r => r.toNat = if lo y = 0 then (lo x).toNat else (lo x).toNat % (lo y).toNat)

/-- R125: the sixteen forms of LOGIC, bit by bit. The immediate has 6 bits, 30 with LIMM, and extends by sign. -/
def Sys2Proof.Parts.Logic : Prop :=
  ∀ (s : State) (st : Bool) (d a b : BitVec 6), Running s →
    let x := (s.old.rx a.toNat).v
    let y := (s.old.rx b.toNat).v
    let imm : Word64 := match s.slot.limm with | some u => (u ++ b).signExtend 64 | none => b.signExtend 64
    let bits := fun (q : Word64) (f : Bool → Bool → Bool) (r : Word64) => ∀ i, i < 64 → r.getLsbD i = f (x.getLsbD i) (q.getLsbD i)
    GivesX s (.and st d a b) d [a, b] (bits y fun p q => p && q) ∧
    GivesX s (.or st d a b) d [a, b] (bits y fun p q => p || q) ∧
    GivesX s (.xor st d a b) d [a, b] (bits y fun p q => p != q) ∧
    GivesX s (.andn st d a b) d [a, b] (bits y fun p q => p && !q) ∧
    GivesX s (.orn st d a b) d [a, b] (bits y fun p q => p || !q) ∧
    GivesX s (.xnor st d a b) d [a, b] (bits y fun p q => p == q) ∧
    GivesX s (.nand st d a b) d [a, b] (bits y fun p q => !(p && q)) ∧
    GivesX s (.nor st d a b) d [a, b] (bits y fun p q => !(p || q)) ∧
    GivesX s (.andi st d a b) d [a] (bits imm fun p q => p && q) ∧
    GivesX s (.ori st d a b) d [a] (bits imm fun p q => p || q) ∧
    GivesX s (.xori st d a b) d [a] (bits imm fun p q => p != q) ∧
    GivesX s (.andni st d a b) d [a] (bits imm fun p q => p && !q) ∧
    GivesX s (.orni st d a b) d [a] (bits imm fun p q => p || !q) ∧
    GivesX s (.xnori st d a b) d [a] (bits imm fun p q => p == q) ∧
    GivesX s (.nandi st d a b) d [a] (bits imm fun p q => !(p && q)) ∧
    GivesX s (.nori st d a b) d [a] (bits imm fun p q => !(p || q))

/-- R126: the shifts and rotates on 64 bits, and on the low 32 bits with bit 31 of the result extended; a register amount is taken modulo the width. Bit `i` of each result is named. -/
def Sys2Proof.Parts.Shift : Prop :=
  ∀ (s : State) (st w : Bool) (d a b : BitVec 6), Running s →
    let x := (s.old.rx a.toNat).v
    let y := (s.old.rx b.toNat).v
    let n := if w then 32 else 64
    let left := fun (k : Nat) (r : Word64) => ∀ i, i < n → r.getLsbD i = (decide (k ≤ i) && x.getLsbD (i - k))
    let right := fun (top : Bool) (k : Nat) (r : Word64) => ∀ i, i < n → r.getLsbD i = if i + k < n then x.getLsbD (i + k) else top
    let turn := fun (k : Nat) (r : Word64) => ∀ i, i < n → r.getLsbD ((i + k) % n) = x.getLsbD i
    let wide := fun r : Word64 => ∀ i, n ≤ i → i < 64 → r.getLsbD i = r.getLsbD (n - 1)
    let amount := y.toNat % n
    GivesX s (.shl st d a b w) d [a, b] (fun r => left amount r ∧ wide r) ∧
    GivesX s (.shr st d a b w) d [a, b] (fun r => right false amount r ∧ wide r) ∧
    GivesX s (.sar st d a b w) d [a, b] (fun r => right (x.getLsbD (n - 1)) amount r ∧ wide r) ∧
    GivesX s (.rol st d a b w) d [a, b] (fun r => turn amount r ∧ wide r) ∧
    GivesX s (.ror st d a b w) d [a, b] (fun r => turn (n - amount) r ∧ wide r) ∧
    (b.toNat < n →
      GivesX s (.shli st d a b w) d [a] (fun r => left b.toNat r ∧ wide r) ∧
      GivesX s (.shri st d a b w) d [a] (fun r => right false b.toNat r ∧ wide r) ∧
      GivesX s (.sari st d a b w) d [a] (fun r => right (x.getLsbD (n - 1)) b.toNat r ∧ wide r) ∧
      GivesX s (.roli st d a b w) d [a] (fun r => turn b.toNat r ∧ wide r) ∧
      GivesX s (.rori st d a b w) d [a] (fun r => turn (n - b.toNat) r ∧ wide r))

/-- R127: counts of bits, reversals, minima and maxima. -/
def Sys2Proof.Parts.BitsMinMax : Prop :=
  ∀ (s : State) (st : Bool) (d a b : BitVec 6), Running s →
    let x := (s.old.rx a.toNat).v
    let y := (s.old.rx b.toNat).v
    GivesX s (.clz st d a) d [a] (fun r => r.toNat ≤ 64 ∧ (∀ i, i < r.toNat → x.getLsbD (63 - i) = false) ∧
      (r.toNat < 64 → x.getLsbD (63 - r.toNat) = true)) ∧
    GivesX s (.ctz st d a) d [a] (fun r => r.toNat ≤ 64 ∧ (∀ i, i < r.toNat → x.getLsbD i = false) ∧
      (r.toNat < 64 → x.getLsbD r.toNat = true)) ∧
    GivesX s (.popc st d a) d [a] (fun r => r.toNat = ((List.range 64).filter fun i => x.getLsbD i).length) ∧
    GivesX s (.brev st d a) d [a] (fun r => ∀ i, i < 64 → r.getLsbD i = x.getLsbD (63 - i)) ∧
    GivesX s (.bswap st d a) d [a] (fun r => ∀ i, i < 8 → r.extractLsb' (8 * i) 8 = x.extractLsb' (8 * (7 - i)) 8) ∧
    GivesX s (.minS64 st d a b) d [a, b] (fun r => r.toInt = min x.toInt y.toInt) ∧
    GivesX s (.maxS64 st d a b) d [a, b] (fun r => r.toInt = max x.toInt y.toInt) ∧
    GivesX s (.minZ64 st d a b) d [a, b] (fun r => r.toNat = min x.toNat y.toNat) ∧
    GivesX s (.maxZ64 st d a b) d [a, b] (fun r => r.toNat = max x.toNat y.toNat)

/-- R128: BFX reads a field, BFI replaces one in xD, EXT extends the low bits. Bits past 63 read as 0 and are dropped. -/
def Sys2Proof.Parts.BitFields : Prop :=
  ∀ (s : State) (st : Bool) (d a p l : BitVec 6), Running s →
    let x := (s.old.rx a.toNat).v
    let z := (s.old.rx d.toNat).v
    let pos := p.toNat
    let len := l.toNat + 1
    GivesX s (.bfx st d a p l) d [a] (fun r => r.toNat = x.toNat / 2 ^ pos % 2 ^ len) ∧
    GivesX s (.bfi st d a p l) d [d, a] (fun r => ∀ i, i < 64 →
      r.getLsbD i = if pos ≤ i ∧ i < pos + len then x.getLsbD (i - pos) else z.getLsbD i) ∧
    GivesX s (.extZ st d a l) d [a] (fun r => r.toNat = x.toNat % 2 ^ len) ∧
    GivesX s (.extS st d a l) d [a] (fun r => r.toInt = (x.toInt).bmod (2 ^ len))

/-- R129, R130, R131: compares write one predicate, PLOGIC combines two, SEL chooses between two values by one. -/
def Sys2Proof.Parts.ComparePredicate : Prop :=
  ∀ (s : State) (st : Bool) (p q u : BitVec 7) (d a b : BitVec 6) (c : BitVec 3), Running s →
    let x := s.old.rx a.toNat
    let y := s.old.rx b.toNat
    let old := s.old.rx d.toNat
    let one := fun r : Nat => (s.old.rp r).v = 1
    let imm : Word64 := match s.slot.limm with
      | some v => if c = 4 ∨ c = 5 then (v ++ b).setWidth 64 else (v ++ b).signExtend 64
      | none => if c = 4 ∨ c = 5 then b.setWidth 64 else b.signExtend 64
    let holds := fun v w : Word64 => match c.toNat with
      | 0 => decide (v = w) | 1 => decide (v ≠ w) | 2 => decide (v.toInt < w.toInt) | 3 => decide (w.toInt ≤ v.toInt)
      | 4 => decide (v.toNat < w.toNat) | 5 => decide (w.toNat ≤ v.toNat) | 6 => decide (v &&& w ≠ 0) | _ => decide (v &&& w = 0)
    let pred := fun (i : Instr) (t : Bool) => Gives s i fun r => OnlyP p.toNat s.regs r ∧ r.rp p.toNat = pAfter p t
    let value := fun (i : Instr) (v : Val 64) => Gives s i fun r => OnlyX d.toNat s.regs r ∧ r.rx d.toNat = xAfter d v
    (x.psn = false → y.psn = false → pred (.cmp st p a b c) (holds x.v y.v)) ∧
    (x.psn = false → pred (.cmpi st p a b c) (holds x.v imm)) ∧
    ((s.old.rp q.toNat).psn = false →
      pred (.pmov st p q) (one q.toNat) ∧ pred (.pnot st p q) (!one q.toNat) ∧
      value (.sel st d a q) (if one q.toNat then x else old) ∧
      value (.selz st d a q) (if one q.toNat then x else ⟨0, false⟩) ∧
      value (.seln st d a q) (if one q.toNat then old else x) ∧
      ((s.old.rp u.toNat).psn = false →
        pred (.pand st p q u) (one q.toNat ∧ one u.toNat) ∧ pred (.por st p q u) (one q.toNat ∨ one u.toNat) ∧
        pred (.pxor st p q u) (one q.toNat ≠ one u.toNat) ∧ pred (.pandn st p q u) (one q.toNat ∧ ¬ one u.toNat) ∧
        pred (.porn st p q u) (one q.toNat ∨ ¬ one u.toNat) ∧ pred (.pxnor st p q u) (one q.toNat = one u.toNat)))

/-- R119, R132, R134: the scalar floating-point slots write the bits of the result, extended to 64 bits, and set its flags in FCSR; with a poisoned operand the result is poisoned and no flag is set. The operands are the low bits of their registers (R118). -/
def Sys2Proof.Parts.ScalarFloat : Prop :=
  ∀ (s : State) (st q z : Bool) (d a b : BitVec 6) (t rm : BitVec 2) (e g : BitVec 3), Running s →
    let f := scalarFmt t
    let low := fun (n : BitVec 6) (w : Nat) => (s.old.rx n.toNat).v.toNat % 2 ^ w
    let x := low a f.width
    let y := low b f.width
    let c := low d f.width
    let src := fcvtType g q
    let dst := fcvtType e z
    let cv := convert src dst rm false (low a src.width)
    let slot := fun (i : Instr) (srcs : List (BitVec 6)) (v : Nat × BitVec 5) => Gives s i fun r =>
      r = { s.regs with x := r.x, fcsr := r.fcsr } ∧ (∀ n, n ≠ d.toNat → r.rx n = s.regs.rx n) ∧
      if (∃ n ∈ srcs, (s.old.rx n.toNat).psn = true) then r.rx d.toNat = xAfter d ⟨0, true⟩ ∧ r.fcsr = s.regs.fcsr
      else r.rx d.toNat = xAfter d ⟨BitVec.ofNat 64 v.1, false⟩ ∧ r.fcsr = s.regs.fcsr ||| v.2.setWidth 32
    slot (.fadd st d a b t rm) [a, b] (fpAdd f rm false x y) ∧
    slot (.fsub st d a b t rm) [a, b] (fpAdd f rm true x y) ∧
    slot (.fmul st d a b t rm) [a, b] (fpMul f rm x y) ∧
    slot (.fmin st d a b t) [a, b] (fpMinMax f false x y) ∧
    slot (.fmax st d a b t) [a, b] (fpMinMax f true x y) ∧
    slot (.ffma st d a b t rm) [d, a, b] (fpFma f rm false false x y c) ∧
    slot (.ffms st d a b t rm) [d, a, b] (fpFma f rm false true x y c) ∧
    slot (.ffnma st d a b t rm) [d, a, b] (fpFma f rm true false x y c) ∧
    slot (.ffnms st d a b t rm) [d, a, b] (fpFma f rm true true x y c) ∧
    slot (.fdiv st d a b t rm) [a, b] (fpDiv f rm x y) ∧
    slot (.fsqrt st d a t rm) [a] (fpSqrt f rm x) ∧
    slot (.fclass st d a t) [a] (fpClass f x, 0) ∧
    slot (.fcvt st d a e g q z rm) [a]
      (if dst = .int 32 true then ((BitVec.ofNat 32 cv.1).signExtend 64).toNat else cv.1, cv.2)

/-- R37, R132: the special values of the four scalar formats: a NaN operand gives the canonical NaN, and IV when it is signalling; ∞ − ∞, 0 × ∞, 0 / 0, ∞ / ∞ and the root of a negative value give it with IV; a finite non-zero value over 0 gives a signed infinity with DZ; √−0 is −0; FMIN and FMAX order −0 below +0 and let a single NaN give way. -/
def Sys2Proof.Parts.FloatSpecials : Prop :=
  ∀ (t rm : BitVec 2) (x y : Nat),
    let f := scalarFmt t
    let vx := f.value x
    let vy := f.value y
    let sig := if vx.isSig || vy.isSig then fIV else 0
    let neg := vx.isNeg != vy.isNeg
    (vx.isNan || vy.isNan →
      fpAdd f rm false x y = (f.nan, sig) ∧ fpAdd f rm true x y = (f.nan, sig) ∧ fpMul f rm x y = (f.nan, sig) ∧
      fpDiv f rm x y = (f.nan, sig)) ∧
    (vx.isInf → vy.isInf →
      fpDiv f rm x y = (f.nan, fIV) ∧
      (vx.isNeg ≠ vy.isNeg → fpAdd f rm false x y = (f.nan, fIV)) ∧ (vx.isNeg = vy.isNeg → fpAdd f rm true x y = (f.nan, fIV))) ∧
    (vx.isZero → vy.isInf → fpMul f rm x y = (f.nan, fIV) ∧ fpMul f rm y x = (f.nan, fIV)) ∧
    (vx.isZero → vy.isZero → fpDiv f rm x y = (f.nan, fIV)) ∧
    (!vx.isNan → !vx.isInf → !vx.isZero → vy.isZero → fpDiv f rm x y = (f.sign neg + f.infBits, fDZ)) ∧
    (!vx.isNan → !vx.isZero → vx.isNeg → fpSqrt f rm x = (f.nan, fIV)) ∧
    (vx.isZero → fpSqrt f rm x = (f.sign vx.isNeg, 0)) ∧
    (vx.isNan → vy.isNan → fpMinMax f false x y = (f.nan, sig) ∧ fpMinMax f true x y = (f.nan, sig)) ∧
    (vx.isNan → !vy.isNan → fpMinMax f false x y = (y, sig) ∧ fpMinMax f true x y = (y, sig) ∧
      fpMinMax f false y x = (y, sig) ∧ fpMinMax f true y x = (y, sig)) ∧
    (vx.isZero → vy.isZero → vx.isNeg → !vy.isNeg →
      fpMinMax f false x y = (x, 0) ∧ fpMinMax f true x y = (y, 0) ∧ fpMinMax f false y x = (x, 0) ∧ fpMinMax f true y x = (y, 0))

/-- R133: FCMP writes its condition, and IV: for any NaN under lt and le, for a signalling one under the others. -/
def Sys2Proof.Parts.FloatCompare : Prop :=
  ∀ (s : State) (st : Bool) (p : BitVec 7) (a b : BitVec 6) (t : BitVec 2) (c : BitVec 3), Running s → c.toNat < 5 →
    (s.old.rx a.toNat).psn = false → (s.old.rx b.toNat).psn = false →
    let f := scalarFmt t
    let vx := f.value ((s.old.rx a.toNat).v.toNat % 2 ^ f.width)
    let vy := f.value ((s.old.rx b.toNat).v.toNat % 2 ^ f.width)
    let nan := vx.isNan || vy.isNan
    let sig := vx.isSig || vy.isSig
    let lt := vx.cmp vy = some .lt
    let eq := vx.cmp vy = some .eq
    let holds : Bool := match c.toNat with
      | 0 => !nan && eq | 1 => !nan && lt | 2 => !nan && (lt || eq) | 3 => nan | _ => nan || !eq
    let iv := if c = 1 ∨ c = 2 then nan else sig
    Gives s (.fcmp st p a b t c) fun r =>
      r = { s.regs with p := r.p, fcsr := r.fcsr } ∧ (∀ n, n ≠ p.toNat → r.rp n = s.regs.rp n) ∧ r.rp p.toNat = pAfter p holds ∧
      r.fcsr = if iv then s.regs.fcsr ||| 16 else s.regs.fcsr

/-- R81, R108, R135: BR, CALL, BRI and RET send control to their target at the end of the bundle; CALL and BRI write the next bundle's address to the link register. BRZM and BRNZM go when the top mask is 0 in every lane, or in none. -/
def Sys2Proof.Parts.Branches : Prop :=
  ∀ (s : State) (st : Bool) (d a : BitVec 6) (o : BitVec 24) (z : BitVec 23) (i : BitVec 12), Running s →
    let c := s.ctx s.cur
    let x := s.old.rx a.toNat
    let far := fun n : Int => c.issue.addr + BitVec.ofInt 64 (4 * n)
    let imm : Word64 := match s.slot.limm with | some u => (u ++ i).signExtend 64 | none => i.signExtend 64
    let same := fun r : Regs => r = s.regs
    let link := fun (n : BitVec 6) (r : Regs) => OnlyX n.toNat s.regs r ∧ r.rx n.toNat = xAfter n ⟨c.issue.next, false⟩
    let top := s.old.mask.getLast?.getD (BitVec.allOnes 64)
    Transfers s (.br st o) (some (far o.toInt)) same ∧
    Transfers s (.call st o) (some (far o.toInt)) (link 63) ∧
    (x.psn = false → Transfers s (.bri st d a i) (some (x.v + imm)) (link d) ∧ Transfers s (.ret st a) (some x.v) same) ∧
    Transfers s (.brzm st z) (if top = 0 then some (far z.toInt) else c.issue.target) same ∧
    Transfers s (.brnzm st z) (if top ≠ 0 then some (far z.toInt) else c.issue.target) same

/-- R136: LOOP.PUSH, LOOP.POP and LOOP on the loop-counter stack. -/
def Sys2Proof.Parts.Loops : Prop :=
  ∀ (s : State) (st : Bool) (a : BitVec 6) (o : BitVec 18), Running s →
    let c := s.ctx s.cur
    let x := s.old.rx a.toNat
    let lc := s.old.loopCount
    let n := s.old.ldepth
    let counts := fun (l0 l1 l2 l3 : BitVec 32) (m : Nat) (r : Regs) =>
      r = { s.regs with lc := r.lc, ldepth := m } ∧ r.loopCount 0 = l0 ∧ r.loopCount 1 = l1 ∧ r.loopCount 2 = l2 ∧ r.loopCount 3 = l3
    let target := c.issue.addr + BitVec.ofInt 64 (4 * o.toInt)
    (x.psn = false → Gives s (.loopPush st a) (counts (x.v.extractLsb' 0 32) (lc 0) (lc 1) (lc 2) (min (n + 1) 4))) ∧
    Gives s (.loopPop st) (if 0 < n then counts (lc 1) (lc 2) (lc 3) 0 (n - 1) else counts (lc 0) (lc 1) (lc 2) (lc 3) n) ∧
    (0 < n → 1 < (lc 0).toNat →
      Transfers s (.loop st o) (some target)
        (fun r => r = { s.regs with lc := r.lc } ∧ (r.loopCount 0).toNat = (lc 0).toNat - 1 ∧ ∀ i, 0 < i → i < 4 → r.loopCount i = lc i)) ∧
    (0 < n → (lc 0).toNat ≤ 1 → Gives s (.loop st o) (counts (lc 1) (lc 2) (lc 3) 0 (n - 1))) ∧
    (n = 0 → Gives s (.loop st o) (counts (lc 0) (lc 1) (lc 2) (lc 3) 0))

/-- R138, R413, R418: TRAP, SVC and BRK in the last slot of S of their bundle enter a handler: TRAP and BRK the launch's, SVC the system's; the frame holds the next bundle, the oldest bundle of each queue, the code, and for SVC its mark. In an earlier slot they leave the bundle to go on and are remembered. -/
def Sys2Proof.Parts.TrapSvcBrk : Prop :=
  ∀ (s : State) (st : Bool) (code : BitVec 18), Running s → Undebugged s s.cur → s.slot.idx < 8 →
    let c := s.ctx s.cur
    let l := s.launchOf s.cur
    let sys := (s.csr csrTrapEnt).extractLsb' 0 57
    let next := c.issue.target.getD c.issue.next
    let cause := fun (svc : Bool) (n : BitVec 8) => ((1 : BitVec 1) ++ (0 : BitVec 1) ++ BitVec.ofBool svc ++ (0 : BitVec 1) ++ c.regs.mode ++
      (0 : BitVec 5) ++ BitVec.ofNat 3 s.slot.idx ++ (0 : BitVec 42) ++ n : Word64)
    let left := c.older ++ [{ c.issue with todo := c.issue.todo.filter fun q => q.idx ≠ c.issue.cur }]
    let queue := fun u : ExecUnit => ((left.find? fun i => i.todo.any fun q => q.exu = u).map (·.addr)).getD next
    let frame := fun (svc : Bool) (n : BitVec 8) =>
      [cause svc n, next, queue .vl, queue .va, queue .vs, queue .mx, 0, code.setWidth 64, 0, c.issue.addr]
    let enters := fun (i : Instr) (n : Nat) (entry : Word64) (ws : List Word64) => ∃ t, exec i s = .next t ∧ Entered s t s.cur n entry ws
    let later := fun (i : Instr) (e : EndTrap) => ∃ t, exec i s = .next t ∧ OwnBank s t ∧ t.regs = s.regs ∧
      (t.ctx s.cur).pc = c.pc ∧ (t.ctx s.cur).issue.endTrap = some e
    (LastSlot s →
      (c.regs.mode = 0 → l.trapent ≠ 0 →
        enters (.trap st code) 1 l.trapent (frame false 0x50) ∧ enters (.brk st code) 1 l.trapent (frame false 0x51)) ∧
      (c.regs.mode ≠ 2 → sys ≠ 0 → enters (.svc st code) 2 (sys.signExtend 64) (frame true 0x50)) ∧
      (c.regs.mode ≠ 2 → (c.regs.mode ≠ 0 ∨ l.trapent = 0) → sys ≠ 0 →
        enters (.trap st code) 2 (sys.signExtend 64) (frame false 0x50) ∧
        enters (.brk st code) 2 (sys.signExtend 64) (frame false 0x51))) ∧
    (¬ LastSlot s →
      later (.trap st code) (.trap s.slot.idx code) ∧ later (.svc st code) (.svc s.slot.idx code) ∧
      later (.brk st code) (.brk s.slot.idx code))

/-- R420: TRAPRET in a handler's mode, in the last slot of S of its bundle, with ACT = 0: the level's images are reloaded as the handler left them, the S image to run before PC_S is fetched, the mode is FFn.CAUSE.PMODE, VALID is cleared, and the S sequencer goes to FFn.PC_S, which it checks. -/
def Sys2Proof.Parts.TrapReturn : Prop :=
  ∀ (s : State) (st : Bool) (n : Nat) (i : Image), Running s → LastSlot s →
    let c := s.ctx s.cur
    let b := frameBase n
    let cause := c.regs.ff.get 0 b
    let same := fun p q : Issue => p.todo = q.todo ∧ p.addr = q.addr ∧ (∀ m, p.old.rx m = q.old.rx m) ∧ ∀ m, p.old.rc m = q.old.rc m
    (n = 1 ∧ c.img1 = some i ∨ n = 2 ∧ c.img2 = some i) → c.regs.mode = BitVec.ofNat 2 n → c.regs.act = false →
    c.queueBusy = false → s.opaqueIntact ((s.launchOf s.cur).slot c.regs.task.toNat + imageArea n) 0x2000 i.stamp = true →
    ∃ t, exec (.trapret st) s = .next t ∧
      (t.ctx s.cur).pc = c.regs.ff.get 0 (b + 1) ∧ (t.ctx s.cur).chk = true ∧
      (t.ctx s.cur).regs = { c.regs with ff := (t.ctx s.cur).regs.ff, mode := cause.extractLsb' 58 2 } ∧
      (t.ctx s.cur).regs.ff.get 0 b = (cause.setWidth 63).setWidth 64 ∧
      (∀ j, j ≠ b → (t.ctx s.cur).regs.ff.get 0 j = c.regs.ff.get 0 j) ∧
      (if ∃ q ∈ i.issue.todo, q.exu = .s then
          List.Forall₂ same (t.ctx s.cur).older i.older ∧ same (t.ctx s.cur).issue i.issue ∧
          (t.ctx s.cur).issue.next = c.regs.ff.get 0 (b + 1)
        else List.Forall₂ same (t.ctx s.cur).older (i.older ++ (if i.issue.todo = [] then [] else [i.issue])) ∧ (t.ctx s.cur).issue = {}) ∧
      (∀ k, k ≠ s.cur → t.ctx k = s.ctx k) ∧ (∀ a, t.peek a = s.peek a)

/-- R141, R142, R109: CNARROW and CPERM make a smaller capability, and raise CAP_WIDEN where they would make a larger one; CAP_TAG for an untagged source. CPERM without SH also makes it flat. -/
def Sys2Proof.Parts.Narrow : Prop :=
  ∀ (s : State) (st : Bool) (d a b : BitVec 6) (m : BitVec 8), Running s →
    let c := s.old.rc a.toNat
    let x := s.old.rx b.toNat
    let imm := match s.slot.limm with | some u => (u ++ b).toNat | none => b.toNat
    let base := (c.bits.extractLsb' 64 64).toNat
    let len := (c.bits.extractLsb' 24 40).toNat
    let perm := c.bits.extractLsb' 16 8
    let gives := fun (i : Instr) (b' n' : Nat) (pm : BitVec 8) (sh : BitVec 16) => Gives s i fun r =>
      r = { s.regs with c := r.c } ∧ (∀ n, n ≠ d.toNat → r.rc n = s.regs.rc n) ∧
      r.rc d.toNat = { bits := BitVec.ofNat 64 b' ++ BitVec.ofNat 40 n' ++ pm ++ sh, tag := true, psn := false }
    let off := fun (i : Instr) (v : Nat) => if v ≤ len then gives i (base + v) (len - v) perm (c.bits.extractLsb' 0 16)
      else exec i s = .next (s.raise (.capWiden a.toNat))
    let lens := fun (i : Instr) (v : Nat) => if v ≤ len then gives i base v perm (c.bits.extractLsb' 0 16)
      else exec i s = .next (s.raise (.capWiden a.toNat))
    let bases := fun (i : Instr) (v : Nat) => if base ≤ v ∧ v ≤ base + len then gives i v (base + len - v) perm (c.bits.extractLsb' 0 16)
      else exec i s = .next (s.raise (.capWiden a.toNat))
    let all := [Instr.cnarrowiOff st d a b, .cnarrowiLen st d a b, .cnarrowiBase st d a b, .cperm st d a m]
    c.psn = false →
    (c.tag = false → (∀ i ∈ all, exec i s = .next (s.raise (.capTag a.toNat))) ∧
      (x.psn = false → ∀ i ∈ [Instr.cnarrowOff st d a b, .cnarrowLen st d a b, .cnarrowBase st d a b],
        exec i s = .next (s.raise (.capTag a.toNat)))) ∧
    (c.tag = true →
      off (.cnarrowiOff st d a b) imm ∧ lens (.cnarrowiLen st d a b) imm ∧ bases (.cnarrowiBase st d a b) imm ∧
      (x.psn = false →
        off (.cnarrowOff st d a b) x.v.toNat ∧ lens (.cnarrowLen st d a b) x.v.toNat ∧ bases (.cnarrowBase st d a b) x.v.toNat) ∧
      (if m &&& ~~~perm = 0 then
        gives (.cperm st d a m) base len m (if m.getLsbD 6 then c.bits.extractLsb' 0 16 else 0)
       else exec (.cperm st d a m) s = .next (s.raise (.capWiden a.toNat))))

/-- R142, R119: CGET reads a field of a capability, tagged or not; a poisoned source gives a poisoned result. -/
def Sys2Proof.Parts.CapabilityFields : Prop :=
  ∀ (s : State) (st : Bool) (d a : BitVec 6), Running s →
    let c := s.old.rc a.toNat
    let field := fun (i : Instr) (v : Nat) => Gives s i fun r => OnlyX d.toNat s.regs r ∧
      r.rx d.toNat = xAfter d ⟨BitVec.ofNat 64 v, c.psn⟩
    let n := c.bits.toNat
    field (.cgetBase st d a) (n / 2 ^ 64) ∧ field (.cgetLen st d a) (n / 2 ^ 24 % 2 ^ 40) ∧ field (.cgetPerm st d a) (n / 2 ^ 16 % 2 ^ 8) ∧
    field (.cgetShape st d a) (n % 2 ^ 16) ∧ field (.cgetTag st d a) c.tag.toNat ∧ field (.cgetHi st d a) (n / 2 ^ 64) ∧
    field (.cgetLo st d a) (n % 2 ^ 64)

/-- R143: CSHAPE with 0 makes a capability flat; with another value it needs SH, a value of at most 0xFFFF, a clean header with 1 to 9 dimensions and a valid element type, and a record that ends within 1 MiB. -/
def Sys2Proof.Parts.ShapeAttach : Prop :=
  ∀ (s : State) (st : Bool) (d a b : BitVec 6), Running s →
    let c := s.old.rc a.toNat
    let x := (s.old.rx b.toNat).v
    let h := fun i => s.peek (scratchAddr (s.cur / 2) (16 * x.toNat + i))
    let n := (h 0).v.toNat
    let gives := Gives s (.cshape st d a b) fun r =>
      r = { s.regs with c := r.c } ∧ (∀ n, n ≠ d.toNat → r.rc n = s.regs.rc n) ∧
      r.rc d.toNat = { bits := c.bits.extractLsb' 16 112 ++ x.extractLsb' 0 16, tag := true, psn := false }
    let raises := fun t : Trap => exec (.cshape st d a b) s = .next (s.raise t)
    let invalid := raises (.shapeInvalid (16 * x.toNat))
    c.psn = false → (s.old.rx b.toNat).psn = false →
    (c.tag = false → raises (.capTag a.toNat)) ∧
    (c.tag = true → x = 0 → gives) ∧
    (c.tag = true → x ≠ 0 → c.bits.getLsbD 22 = false → raises (.capPerm 0 a.toNat)) ∧
    (c.tag = true → x ≠ 0 → c.bits.getLsbD 22 = true →
      (0xFFFF < x.toNat → invalid) ∧
      (x.toNat ≤ 0xFFFF → (h 0).psn = false → (h 1).psn = false →
        (n = 0 ∨ 9 < n ∨ 17 < (h 1).v.toNat ∨ 0x100000 < 16 * x.toNat + 16 * (n + 1) → invalid) ∧
        (0 < n → n ≤ 9 → (h 1).v.toNat ≤ 17 → 16 * x.toNat + 16 * (n + 1) ≤ 0x100000 → gives)))

/-- R144, R412: in SYSTEM mode CMINT makes a tagged capability of two registers when its base is canonical and its range ends in the same half of the address space, and raises CAP_BOUNDS otherwise; in the other modes it raises PRIV_VIOLATION. -/
def Sys2Proof.Parts.Mint : Prop :=
  ∀ (s : State) (st : Bool) (d a b : BitVec 6), Running s →
    let x := (s.old.rx a.toNat).v
    let y := (s.old.rx b.toNat).v
    let len := y.toNat / 2 ^ 24
    let canon := ∀ i, 56 ≤ i → i < 64 → x.getLsbD i = x.getLsbD 56
    let fits := if x.getLsbD 56 then x.toNat + len ≤ 2 ^ 64 else x.toNat + len ≤ 2 ^ 56
    (s.regs.mode ≠ 2 → exec (.cmint st d a b) s = .next (s.raise .privViolation)) ∧
    (s.regs.mode = 2 → (s.old.rx a.toNat).psn = false → (s.old.rx b.toNat).psn = false →
      (canon → fits → Gives s (.cmint st d a b) fun r =>
        r = { s.regs with c := r.c } ∧ (∀ n, n ≠ d.toNat → r.rc n = s.regs.rc n) ∧ r.rc d.toNat = { bits := x ++ y, tag := true, psn := false }) ∧
      (¬ (canon ∧ fits) → ∃ t : Trap, t.cause = 0x11 ∧ t.info = regTag 3 d.toNat ∧ exec (.cmint st d a b) s = .next (s.raise t)))

/-- R41, R159: the approximations on FP32 lanes, and their special inputs. -/
def Sys2Proof.Parts.VectorApproximations : Prop :=
  (∀ (s : State) (st : Bool) (d a : BitVec 6), Running s →
    let va := fun e => s.old.elt a.toNat 32 e
    GivesV s (.vrcpe st d a) d 32 (fun e => lift1 (va e) approxRcp) ∧
    GivesV s (.vrsqrte st d a) d 32 (fun e => lift1 (va e) approxRsqrt) ∧
    GivesV s (.vexp2e st d a) d 32 (fun e => lift1 (va e) approxExp2) ∧
    GivesV s (.vlog2e st d a) d 32 (fun e => lift1 (va e) approxLog2)) ∧
  (∀ x : Nat,
    let v := Fmt.f32.value x
    let inf := fun n : Bool => if n then 0xFF800000 else 0x7F800000
    let all := [approxRcp x, approxRsqrt x, approxExp2 x, approxLog2 x]
    (v.isNan → ∀ r ∈ all, r = (0x7FC00000, if v.isSig then fIV else 0)) ∧
    (v.isZero → approxRcp x = (inf v.isNeg, fDZ) ∧ approxRsqrt x = (inf v.isNeg, fDZ) ∧ approxExp2 x = (0x3F800000, 0) ∧
      approxLog2 x = (inf true, fDZ)) ∧
    (v.isInf → v.isNeg = false → approxRcp x = (0, 0) ∧ approxRsqrt x = (0, 0) ∧ approxExp2 x = (inf false, 0) ∧
      approxLog2 x = (inf false, 0)) ∧
    (v.isInf → v.isNeg → approxRcp x = (0x80000000, 0) ∧ approxExp2 x = (0, 0)) ∧
    (v.isNeg → !v.isZero → approxRsqrt x = (0x7FC00000, fIV) ∧ approxLog2 x = (0x7FC00000, fIV)))

/-- R160, R161: the logic slots on 32-bit lanes, and the shifts by amounts modulo the element width, with an x operand in BS forms. -/
def Sys2Proof.Parts.VectorLogicShift : Prop :=
  ∀ (s : State) (st c : Bool) (d a b : BitVec 6) (wc : BitVec 2), Running s →
    let vb := fun w e => if c then s.old.scalar b.toNat w else s.old.elt b.toNat w e
    let logic := fun (i : Instr) (f : Bool → Bool → Bool) => ∃ g : Nat → Nat → Nat,
      (∀ x y k, k < 32 → (g x y).testBit k = f (x.testBit k) (y.testBit k)) ∧
      GivesV s i d 32 fun e => lift2 (s.old.elt a.toNat 32 e) (vb 32 e) fun x y => (g x y, 0)
    let w := 8 * 2 ^ wc.toNat
    let shifts := fun (i : Instr) (bit : Nat → Nat → Nat → Bool) => ∃ g : Nat → Nat → Nat,
      (∀ x y k, x < 2 ^ w → k < w → (g x y).testBit k = bit x (y % w) k) ∧
      GivesV s i d w fun e => lift2 (s.old.elt a.toNat w e) (vb w e) fun x y => (g x y, 0)
    logic (.vand st d a b c) (fun p q => p && q) ∧ logic (.vor st d a b c) (fun p q => p || q) ∧
    logic (.vxor st d a b c) (fun p q => p != q) ∧ logic (.vandn st d a b c) (fun p q => p && !q) ∧
    logic (.vorn st d a b c) (fun p q => p || !q) ∧ logic (.vxnor st d a b c) (fun p q => p == q) ∧
    logic (.vnand st d a b c) (fun p q => !(p && q)) ∧ logic (.vnor st d a b c) (fun p q => !(p || q)) ∧
    shifts (.vshl st d a b c wc) (fun x n k => decide (n ≤ k) && x.testBit (k - n)) ∧
    shifts (.vshr st d a b c wc) (fun x n k => x.testBit (k + n)) ∧
    shifts (.vsar st d a b c wc) (fun x n k => if k + n < w then x.testBit (k + n) else x.testBit (w - 1)) ∧
    shifts (.vrol st d a b c wc) (fun x n k => x.testBit ((k + (w - n)) % w)) ∧
    shifts (.vror st d a b c wc) (fun x n k => x.testBit ((k + n) % w))

/-- R162 to R164, R36: VCVT converts the source slots of each active unit into the slots that PART names; the other slots of an active unit and the inactive units keep their bits; a stochastic conversion advances the Seed of an active unit's first lane once per element, and no other instruction of its kind changes a Seed. -/
def Sys2Proof.Parts.VectorConvert : Prop :=
  ∀ (s : State) (st sr : Bool) (d a : BitVec 6) (e g : BitVec 4) (p : BitVec 3), Running s → Instr.wf (.vcvt st d a e g sr p) = true →
    let src := eltType g
    let dst := if e = 15 then .fl .e4m3 else eltType e
    let ws := src.width
    let wd := dst.width
    let unit := max 32 (max ws wd)
    let k := unit / max ws wd
    let first := fun u => u * unit / 32
    let seeds := fun u i => if sr then some (seedAfter (s.old.seed.getD (first u) 0) (i + 1)) else none
    let from_ := fun i => if ws < wd then p.toNat * k + i else i
    let to_ := fun i => if wd < ws then p.toNat * k + i else i
    let el := fun u i => cvtElt src dst s.old.rm (e = 15) (seeds u i) (s.old.elt a.toNat ws (u * (unit / ws) + from_ i))
    Gives s (.vcvt st d a e g sr p) fun r =>
      r = { s.regs with v := r.v, fcsr := r.fcsr, seed := r.seed } ∧ (∀ n l, n ≠ d.toNat → l < 64 → r.rv n l = s.regs.rv n l) ∧
      ∀ u, u < 2048 / unit →
        (s.old.active (first u) = false → ∀ l, l < unit / 32 → r.rv d.toNat (first u + l) = s.regs.rv d.toNat (first u + l)) ∧
        (s.old.active (first u) = true →
          (∀ i, i < k → (r.elt d.toNat wd (u * (unit / wd) + to_ i)).v = if (el u i).psn then 0 else (el u i).v % 2 ^ wd) ∧
          (∀ j, j < unit / wd → (∀ i, i < k → j ≠ to_ i) →
            (r.elt d.toNat wd (u * (unit / wd) + j)).v =
              ((if (List.range k).any fun i => to_ i * wd / 32 == j * wd / 32 then s.old else s.regs).elt d.toNat wd (u * (unit / wd) + j)).v) ∧
          (∀ l, l < unit / 32 →
            let mine := (List.range k).filter fun i => wd == 64 || to_ i * wd / 32 == l
            (r.rv d.toNat (first u + l)).psn = if mine = [] then (s.regs.rv d.toNat (first u + l)).psn
              else (mine.any fun i => (el u i).psn) || (decide (mine.length * wd < 32) && (s.old.rv d.toNat (first u + l)).psn))) ∧
        (∀ l, l < unit / 32 → first u + l < s.regs.seed.length →
          r.seed.getD (first u + l) 0 = if sr ∧ l = 0 ∧ s.old.active (first u) = true then seedAfter (s.regs.seed.getD (first u) 0) k
            else s.regs.seed.getD (first u + l) 0) ∧
        (∀ b, r.fcsr.getLsbD b = (s.regs.fcsr.getLsbD b || (List.range (2048 / unit)).any fun u =>
          s.old.active (first u) && (List.range k).any fun i => (el u i).fl.getLsbD b))

/-- R165: VCMP pushes a mask that holds, for each active lane, its condition on all or any of the lane's elements, and sets IV as FCMP does; with a poisoned element read in an active lane it raises POISON_CONSUMED and pushes nothing. -/
def Sys2Proof.Parts.VectorCompare : Prop :=
  ∀ (s : State) (st y x : Bool) (c : BitVec 3) (a b : BitVec 6) (v : BitVec 4), Running s → Instr.wf (.vcmp st y c a b x v) = true →
    let ty := eltType v
    let w := ty.width
    let i := Instr.vcmp st y c a b x v
    let va := fun e => s.old.elt a.toNat w e
    let vb := fun e => if x then s.old.scalar b.toNat w else s.old.elt b.toNat w e
    let signed := v.toNat < 4 ∨ v = 15
    let num := fun n : Nat => if signed then (BitVec.ofNat w n).toInt else ((n % 2 ^ w : Nat) : Int)
    let here := fun l e => (maskLane w e == ruling w l) = true
    let on := fun e => (List.range 64).any fun l => maskLane w e == ruling w l && s.old.active l
    let holds := fun e => match ty with
      | .fl t =>
        let p := t.value (va e).v
        let q := t.value (vb e).v
        let nan := p.isNan || q.isNan
        let lt := p.cmp q == some .lt
        let eq := p.cmp q == some .eq
        (match c.toNat with
          | 0 => !nan && eq | 1 => nan || !eq | 2 => !nan && lt | 3 => !nan && (lt || eq)
          | 4 => !nan && !(lt || eq) | 5 => !nan && !lt | _ => nan)
      | _ => (match c.toNat with
          | 0 => decide (num (va e).v = num (vb e).v) | 1 => decide (num (va e).v ≠ num (vb e).v) | 2 => decide (num (va e).v < num (vb e).v)
          | 3 => decide (num (va e).v ≤ num (vb e).v) | 4 => decide (num (vb e).v < num (va e).v) | _ => decide (num (vb e).v ≤ num (va e).v))
    let invalid := fun e => match ty with
      | .fl t =>
        let p := t.value (va e).v
        let q := t.value (vb e).v
        if 2 ≤ c.toNat ∧ c.toNat ≤ 5 then p.isNan || q.isNan else p.isSig || q.isSig
      | _ => false
    ((∃ e ∈ elements w, on e = true ∧ ((va e).psn || (vb e).psn) = true) →
      ∃ n, exec i s = .next (s.raise (.poison n)) ∧ (n = regTag 2 a.toNat ∨ n = regTag (if x then 0 else 2) b.toNat)) ∧
    ((∀ e ∈ elements w, on e = true → ((va e).psn || (vb e).psn) = false) →
      Gives s i fun r => ∃ m : Word64,
        r = { s.regs.pushMask m with fcsr := r.fcsr } ∧
        (∀ l, l < 64 → (m.getLsbD l = true ↔ s.old.active l = true ∧
          (if y then ∃ e ∈ elements w, here l e ∧ holds e = true else ∀ e ∈ elements w, here l e → holds e = true))) ∧
        (r.fcsr = if (elements w).any fun e => on e && invalid e then s.regs.fcsr ||| 16 else s.regs.fcsr))

/-- R166, R113: the mask stack. Each push adds an entry, the bottom one being lost at depth 16; MINV takes the complement within the entry below; MPOP drops entries. -/
def Sys2Proof.Parts.MaskStack : Prop :=
  ∀ (s : State) (st : Bool) (a : BitVec 6) (n : BitVec 4), Running s →
    let old := s.old
    let top := old.mask.getLast?.getD (BitVec.allOnes 64)
    let lanes := BitVec.ofNat 64 ((List.range 64).foldl (fun m l => m + if (old.rv a.toNat l).v ≠ 0 then 2 ^ l else 0) 0)
    let pushed := fun (m : Word64) (r : Regs) =>
      r = { s.regs with mask := (if s.regs.mask.length = 16 then s.regs.mask.drop 1 else s.regs.mask) ++ [m] }
    let x := old.rx a.toNat
    ((∀ l, l < 64 → (old.rv a.toNat l).psn = false) →
      Gives s (.mpush st a) (pushed (lanes &&& top)) ∧ Gives s (.mpushRaw st a) (pushed lanes)) ∧
    ((∃ l, l < 64 ∧ (old.rv a.toNat l).psn = true) → ∀ i ∈ [Instr.mpush st a, .mpushRaw st a],
      exec i s = .next (s.raise (.poison (regTag 2 a.toNat)))) ∧
    (x.psn = false → Gives s (.mpushX st a) (pushed (x.v &&& top)) ∧ Gives s (.mpushXRaw st a) (pushed x.v)) ∧
    (x.psn = true → ∀ i ∈ [Instr.mpushX st a, .mpushXRaw st a], exec i s = .next (s.raise (.poison (regTag 0 a.toNat)))) ∧
    Gives s (.mdup st) (pushed top) ∧ Gives s (.mall st) (pushed (BitVec.allOnes 64)) ∧
    Gives s (.mpop st n) (fun r => r = { s.regs with mask := old.mask.take (old.mask.length - (n.toNat + 1)) }) ∧
    (let below := old.mask.take (old.mask.length - 1)
     Gives s (.minv st) fun r => r = if old.mask = [] then s.regs
      else { s.regs with mask := below ++ [~~~top &&& below.getLast?.getD (BitVec.allOnes 64)] })

/-- R167: VBCAST writes an x value to every active element, VINS one to an active element, VEXT reads one whatever the mask. -/
def Sys2Proof.Parts.VectorElements : Prop :=
  ∀ (s : State) (st x i : Bool) (d a b : BitVec 6) (wc : BitVec 2), Running s →
    let w := 8 * 2 ^ wc.toNat
    let val := s.old.scalar a.toNat w
    let ix := if i then b.toNat else (s.old.rx b.toNat).v.toNat % (2048 / w)
    let ixPsn := !i && (s.old.rx b.toNat).psn
    let e := s.old.elt a.toNat w ix
    GivesV s (.vbcast st d a wc) d w (fun _ => lift1 val fun v => (v, 0)) ∧
    (ix < 2048 / w →
      (Gives s (.vext st d a b x i wc) fun r => OnlyX d.toNat s.regs r ∧ r.rx d.toNat = xAfter d
        ⟨if x then (BitVec.ofNat w e.v).signExtend 64 else BitVec.ofNat 64 e.v, e.psn || ixPsn⟩) ∧
      Gives s (.vins st d a b i wc) fun r => OnlyV d.toNat s.regs r ∧ r.fcsr = s.regs.fcsr ∧
        (s.old.active (maskLane w ix) = false → ∀ l, l < 64 → r.rv d.toNat l = s.regs.rv d.toNat l) ∧
        (s.old.active (maskLane w ix) = true →
          (r.elt d.toNat w ix).v = (if val.psn || ixPsn then 0 else val.v) ∧
          (∀ l, l < 64 → ruling w l ≠ maskLane w ix → r.rv d.toNat l = s.regs.rv d.toNat l) ∧
          (∀ j ∈ elements w, j ≠ ix → maskLane w j = maskLane w ix → (r.elt d.toNat w j).v = (s.old.elt d.toNat w j).v) ∧
          (∀ l, l < 64 → ruling w l = maskLane w ix →
            (r.rv d.toNat l).psn = (val.psn || ixPsn || (decide (w < 32) && (s.old.rv d.toNat l).psn)))))

/-- R168, R169, R172, R173: permutations of lanes and bytes, moves, index vectors and Seeds. -/
def Sys2Proof.Parts.VectorPermute : Prop :=
  ∀ (s : State) (st : Bool) (d a b : BitVec 6) (wc : BitVec 2), Running s →
    let old := s.old
    let va := fun l => old.rv a.toNat l
    let vb := fun l => old.rv b.toNat l
    let clean := fun v : Val 32 => if v.psn then ⟨0, true⟩ else v
    let on := fun (f : Nat → Val 32) (l : Nat) => if old.active l then some (clean (f l)) else none
    let pick := fun (v : Val 32) (p : Bool) => (⟨v.v, v.psn || p⟩ : Val 32)
    let byte := fun j => old.elt a.toNat 8 j
    let at_ := fun l k => (vb l).v.toNat / 256 ^ k % 256
    let key := old.rx b.toNat
    let w := 8 * 2 ^ wc.toNat
    let x := old.scalar a.toNat 64
    let y := old.scalar b.toNat 64
    GivesLanes s (.vperm st d a b) d (on fun l => pick (va ((vb l).v.toNat % 64)) (vb l).psn) ∧
    GivesLanes s (.vperm2 st d a b) d (on fun l =>
      let j := (vb l).v.toNat % 128
      pick (if j < 64 then va j else old.rv d.toNat (j - 64)) (vb l).psn) ∧
    GivesLanes s (.vpermB st d a b) d (on fun l =>
      ⟨BitVec.ofNat 32 ((byte (at_ l 0)).v + 2 ^ 8 * (byte (at_ l 1)).v + 2 ^ 16 * (byte (at_ l 2)).v + 2 ^ 24 * (byte (at_ l 3)).v),
        (byte (at_ l 0)).psn || (byte (at_ l 1)).psn || (byte (at_ l 2)).psn || (byte (at_ l 3)).psn || (vb l).psn⟩) ∧
    GivesLanes s (.vxswz st d a b) d (on fun l => pick (va (l ^^^ (key.v.toNat % 64))) key.psn) ∧
    GivesLanes s (.vxswzi st d a b) d (on fun l => va (l ^^^ b.toNat)) ∧
    GivesLanes s (.vmov st d a) d (on va) ∧
    GivesLanes s (.vmovZ st d a) d (fun l => some (if old.active l then va l else ⟨0, false⟩)) ∧
    GivesLanes s (.vmovM st d) d (fun l => some (if old.active l then ⟨BitVec.allOnes 32, false⟩ else ⟨0, false⟩)) ∧
    GivesLanes s (.viotaM st d) d (fun l => if old.active l then some ⟨BitVec.ofNat 32 ((List.range l).filter old.active).length, false⟩ else none) ∧
    GivesLanes s (.vseedrd st d) d (fun l => if old.active l then some ⟨old.seed.getD l 0, false⟩ else none) ∧
    GivesV s (.viota st d a b wc) d w (fun e => lift2 x y fun p q => (p + e * q, 0)) ∧
    (let seeds := fun (i : Instr) (f : Nat → BitVec 32) => Gives s i fun r =>
        r = { s.regs with seed := r.seed } ∧ r.seed.length = s.regs.seed.length ∧
        ∀ l, l < s.regs.seed.length → r.seed.getD l 0 =
          if old.active l then (if f l = 0 then 1 else f l) else s.regs.seed.getD l 0
     ((∀ l, l < 64 → old.active l = true → (va l).psn = false) → seeds (.vseed st a) fun l => (va l).v) ∧
     ((∃ l, l < 64 ∧ old.active l = true ∧ (va l).psn = true) → exec (.vseed st a) s = .next (s.raise (.poison (regTag 2 a.toNat)))) ∧
     ((old.rx a.toNat).psn = false →
       seeds (.vseedX st a) fun l => (old.rx a.toNat).v.extractLsb' 0 32 ^^^ BitVec.ofNat 32 ((l + 1) * 0x9E3779B9)) ∧
     ((old.rx a.toNat).psn = true → exec (.vseedX st a) s = .next (s.raise (.poison (regTag 0 a.toNat)))))

/-- R264, R208, R231: LDS and STS move 1, 2, 4 or 8 bytes between an x register and the scratchpad, or 16 bytes and the tag between a c register and four words; a misaligned address raises ALIGN_FAULT, one out of bounds SCRATCH_BOUNDS; a store changes the bytes it names and no other, their words' poison, and their capability tags. -/
def Sys2Proof.Parts.ScratchAccess : Prop :=
  ∀ (s : State) (st i c x : Bool) (d a b : BitVec 6) (z : BitVec 2), Running s → offsetClean s a b i →
    let ld := Instr.lds st d a b i c x z
    let sto := Instr.sts st d a b i c z
    let n := if c then 16 else 2 ^ z.toNat
    let va := offsetAt s a b i
    let place := scratchPlace (s.cur / 2) va.toNat n
    let v := s.old.rx d.toNat
    let k := s.old.rc d.toNat
    (va.toNat % n ≠ 0 → exec ld s = .next (s.raise (.align va)) ∧ exec sto s = .next (s.raise (.align va))) ∧
    (va.toNat % n = 0 → place = none →
      exec ld s = .next (s.raise (.scratchBounds va)) ∧ exec sto s = .next (s.raise (.scratchBounds va))) ∧
    (va.toNat % n = 0 → ∀ p, place = some p →
      (Gives s ld fun r =>
        if c then
          r = { s.regs with c := r.c } ∧ (∀ m, m ≠ d.toNat → r.rc m = s.regs.rc m) ∧
          r.rc d.toNat = if poisonedAt s p 16 then { bits := 0, tag := false, psn := true }
            else { bits := BitVec.ofNat 128 (numberAt s p 16), tag := (List.range 4).all fun j => s.isCap (p + 4 * j), psn := false }
        else OnlyX d.toNat s.regs r ∧ r.rx d.toNat =
          xAfter d (if poisonedAt s p n then ⟨0, true⟩ else ⟨extended n (numberAt s p n) x, false⟩)) ∧
      (Completes s sto fun t => t.regs = s.regs ∧ t.llc = s.llc ∧ t.tagF = s.tagF ∧
        StoredAt s t p n (byteOf (if c then k.bits.toNat else v.v.toNat)) ∧ PoisonAt s t p n (if c then k.psn else v.psn) ∧
        ∀ w, w % 4 = 0 → t.isCap w = if p / 4 ≤ w / 4 ∧ w / 4 ≤ (p + n - 1) / 4 then c && k.tag && !k.psn else s.isCap w))

/-- R265, R266, R242, R243: the full/empty slots. LDF and LDFE load words that are full, STE stores to words that are empty, STF to any; the test fails and the slot waits otherwise. LDFE empties the words, STE and STF fill them, TAGCLR empties them. -/
def Sys2Proof.Parts.ScratchTagged : Prop :=
  ∀ (s : State) (st i w x : Bool) (d a b : BitVec 6) (p : Nat), Running s → offsetClean s a b i →
    let n := if w then 8 else 4
    let va := offsetAt s a b i
    let v := s.old.rx d.toNat
    let words := List.range (n / 4)
    let full := words.all fun j => s.isFull (p + 4 * j)
    let empty := words.all fun j => !s.isFull (p + 4 * j)
    let inside := fun u => p / 4 ≤ u / 4 ∧ u / 4 ≤ (p + n - 1) / 4
    let tags := fun (t : State) (f : Bool) => ∀ u, u % 4 = 0 → t.isFull u = if inside u then f && !(t.peek u).psn else s.isFull u
    let loads := fun (j : Instr) (Q : State → Prop) => Completes s j fun t =>
      OnlyX d.toNat s.regs t.regs ∧ t.regs.rx d.toNat = xAfter d ⟨extended n (numberAt s p n) x, false⟩ ∧ (∀ u, t.peek u = s.peek u) ∧ Q t
    let stores := fun (j : Instr) => Completes s j fun t => t.regs = s.regs ∧ StoredAt s t p n (byteOf v.v.toNat) ∧
      PoisonAt s t p n v.psn ∧ tags t true
    let waits := fun (j : Instr) => ∃ t, exec j s = .next t ∧ t.regs = s.regs ∧ (∀ u, t.peek u = s.peek u) ∧
      (t.ctx s.cur).issue = (s.ctx s.cur).issue ∧ t.tagF = s.tagF
    let idle := s.parkedOf s.cur = [] ∧ s.postedOut s.cur false = false
    va.toNat % n = 0 → scratchPlace (s.cur / 2) va.toNat n = some p →
    (full = true →
      loads (.ldf st d a b i w x) (fun t => t.tagF = s.tagF) ∧ loads (.ldfe st d a b i w x) (fun t => tags t false)) ∧
    (full = false → waits (.ldf st d a b i w x) ∧ waits (.ldfe st d a b i w x)) ∧
    (idle → stores (.stf st d a b i w) ∧ (empty = true → stores (.ste st d a b i w)) ∧ (empty = false → waits (.ste st d a b i w))) ∧
    (Completes s (.tagclr st a b i w) fun t => t.regs = s.regs ∧ (∀ u, t.peek u = s.peek u) ∧ tags t false)

/-- R267 to R269, R206: vector loads and stores of scratchpad words by row, by stride, in bank order and by index, and the transposing load. Inactive lanes load and store nothing; of two lanes that store to one word the higher stands. -/
def Sys2Proof.Parts.VectorScratch : Prop :=
  ∀ (s : State) (st : Bool) (d a b : BitVec 6) (e : BitVec 2), Running s →
    (s.old.rx a.toNat).psn = false →
    let core := s.cur / 2
    let base := (s.old.rx a.toNat).v
    let on := fun l => s.old.active l
    let word := fun p => if poisonedAt s p 4 then (⟨0, true⟩ : Val 32) else ⟨BitVec.ofNat 32 (numberAt s p 4), false⟩
    let place := fun (f : Nat → Word64) (l : Nat) => scratchPlace core (base + f l).toNat 4
    let ok := fun (f : Nat → Word64) (ls : List Nat) => ∀ l ∈ ls, (base + f l).toNat % 4 = 0 ∧ (place f l).isSome = true
    let active := (List.range 64).filter on
    let loads := fun (i : Instr) (at_ : Nat → Option Nat) => GivesLanes s i d fun l => if on l then (at_ l).map word else none
    let stores := fun (i : Instr) (at_ : Nat → Option Nat) => Completes s i fun t => t.regs = s.regs ∧ t.llc = s.llc ∧ t.tagF = s.tagF ∧
      ∀ u, t.peek u = match active.reverse.find? fun l => (at_ l).map (· / 4) = some (u / 4) with
        | some l => ⟨byteOf (s.old.rv d.toNat l).v.toNat (u % 4), (s.old.rv d.toNat l).psn⟩
        | none => s.peek u
    let row := fun l => BitVec.ofNat 64 (4 * l)
    let stride := fun l => BitVec.ofNat 64 (l * (s.old.rx b.toNat).v.toNat)
    let index := fun l => (s.old.rv b.toNat l).v.setWidth 64
    (ok row active → loads (.vld st d a) (place row) ∧ stores (.vst st d a) (place row)) ∧
    ((s.old.rx b.toNat).psn = false → ok stride active → loads (.vldStr st d a b) (place stride) ∧ stores (.vstStr st d a b) (place stride)) ∧
    ((∀ l ∈ active, (s.old.rv b.toNat l).psn = false) → ok index active →
      loads (.vldg st d a b) (place index) ∧ stores (.vstg st d a b) (place index)) ∧
    (∀ p, base.toNat % 256 = 0 → scratchPlace core base.toNat 256 = some p →
      let key := swzKey (s.core ((p - scratchBase) / 0x100000)) (p % 0x100000 / 256)
      let bank := fun l => some (p + 4 * (l ^^^ key))
      loads (.vldBank st d a) bank ∧ stores (.vstBank st d a) bank) ∧
    ((s.old.rx b.toNat).psn = false → e.toNat < 3 → ok stride (List.range 64) →
      let k := 4 / 2 ^ e.toNat
      let w := 32 / k
      let src := fun l j => ((place stride (k * (l % (64 / k)) + j)).getD 0)
      let part := fun l j => numberAt s (src l j) 4 / 2 ^ (w * (l / (64 / k))) % 2 ^ w
      GivesLanes s (.vldt st d a b e) d fun l => if on l then
        some (if (List.range k).any fun j => poisonedAt s (src l j) 4 then ⟨0, true⟩
          else ⟨BitVec.ofNat 32 ((List.range k).map fun j => part l j * 2 ^ (w * j)).sum, false⟩) else none)

/-- R84 to R86, R138: NOP, and the prefixes LIMM, PGUARD and DEPS where they stand alone, change no register and not where control goes. -/
def Sys2Proof.Parts.NoEffect : Prop :=
  ∀ (s : State) (st b : Bool) (n : BitVec 24) (q : BitVec 7) (c : BitVec 7) (d0 d1 d2 : BitVec 5) (k : BitVec 3), Running s →
    let same := fun r : Regs => r = s.regs
    Gives s (.nop st) same ∧ Gives s (.limm st n) same ∧ Gives s (.pguard st q b c) same ∧ Gives s (.deps st d0 d1 d2 k) same

/-- R63, R147: WTAKE. With a step left in its range the context is granted it: the step is open, its index is in xD, pF reads 0, the launch has one step fewer to take, and control goes to the code-table entry, which is to be checked. When the launch is faulted, or has no step left to take, xD reads all ones, pF 1, and control falls through. An open step closes first, and when the bank is asked for then, the context is saved at the step boundary (R76, R385). -/
def Sys2Proof.Parts.WtakeGrants : Prop :=
  ∀ (s : State) (st : Bool) (d : BitVec 6) (p : BitVec 7), Running s →
    let c := s.ctx s.cur
    let l := s.launchOf s.cur
    let r0 := s.regs
    (c.retry = 0 → (r0.openStep = true → c.preempt = none ∧ s.closable s.cur false = true) → l.faulted = false → r0.wrlo < r0.wrhi →
      ∃ t, exec (.wtake st d p) s = .next t ∧ GoesTo s t (some (s.codeEntry l)) ∧ (t.ctx s.cur).chk = true ∧
        (t.launchOf s.cur).untaken = l.untaken - 1 ∧ (∀ k, k ≠ s.cur → t.ctx k = s.ctx k) ∧ SameBytes s t ∧
        t.regs = { r0 with x := t.regs.x, p := t.regs.p, wrlo := r0.wrlo + 1, step := r0.wrlo, openStep := true } ∧
        t.regs.rx d.toNat = xAfter d ⟨r0.wrlo.setWidth 64, false⟩ ∧ t.regs.rp p.toNat = pAfter p false ∧
        (∀ m, m ≠ d.toNat → t.regs.rx m = r0.rx m) ∧ (∀ m, m ≠ p.toNat → t.regs.rp m = r0.rp m)) ∧
    (r0.openStep = true → c.retry = 0 → s.closable s.cur false = true → ∀ q, c.preempt = some q →
      ∃ t, exec (.wtake st d p) s = .next t ∧ (t.ctx s.cur).occ = .saving ∧
        t.saving.getLast?.map (fun v => (v.ctx, v.wanted)) = some (s.cur, some (q.launch, q.task))) ∧
    (c.retry = 0 → (r0.openStep = true → c.preempt = none ∧ s.closable s.cur false = true) →
      l.faulted = true ∨ (¬ r0.wrlo < r0.wrhi ∧ l.untaken = 0) →
      Gives s (.wtake st d p) fun r => r = { r0 with x := r.x, p := r.p, openStep := false } ∧
        r.rx d.toNat = xAfter d ⟨BitVec.allOnes 64, false⟩ ∧ r.rp p.toNat = pAfter p true ∧
        (∀ m, m ≠ d.toNat → r.rx m = r0.rx m) ∧ (∀ m, m ≠ p.toNat → r.rp m = r0.rp m))

/-- R66, R67, R49: STEPEND closes an open step once its tokens, stores and queue slots are done; with no step open it ends the task: the bank is empty, its accumulators stay, the task counts as ended, and a ready standby becomes active. Otherwise it waits. -/
def Sys2Proof.Parts.StependCloses : Prop :=
  ∀ (s : State) (st : Bool), Running s →
    let k := s.cur
    let c := s.ctx k
    (c.regs.openStep = true → c.preempt = none → s.closable k false = true →
      Gives s (.stepend st) fun r => r = { s.regs with openStep := false }) ∧
    (c.regs.openStep = false → s.closable k true = true →
      ∃ t, exec (.stepend st) s = .next t ∧ (t.ctx k).occ = .none ∧ (t.ctx k).regs = { a := c.regs.a } ∧ (t.ctx k).gen = c.gen ∧
        (∀ j, j ≠ k → t.ctx j = s.ctx j) ∧
        (∀ l, s.launch? c.regs.launch.toNat = some l →
          (t.launch? l.num).map (fun l => l.ended.contains c.regs.task.toNat) = some true) ∧
        ((s.core (k / 2)).active = k % 2 → (s.ctx (otherBank k)).ready = true → (t.core (k / 2)).active = otherBank k % 2)) ∧
    (s.closable k (!c.regs.openStep) = false → ∃ t, exec (.stepend st) s = .next t ∧ t.regs = s.regs ∧
      (t.ctx k).issue = c.issue ∧ ∀ j, j ≠ k → t.ctx j = s.ctx j)

/-- R49: SWITCH, and YIELD with a ready standby, make the standby active; without one SWITCH has no effect, and neither has YIELD while a step is open or no ready task may take the bank; else YIELD saves the context for that task. -/
def Sys2Proof.Parts.SwitchYield : Prop :=
  ∀ (s : State) (st : Bool), Running s →
    let k := s.cur
    let switched := fun (t : State) => t.regs = s.regs ∧ (∀ j, j ≠ k → t.ctx j = s.ctx j) ∧ GoesTo s t (s.ctx k).issue.target ∧
      (t.core (k / 2)).active = otherBank k % 2
    ((s.ctx (otherBank k)).ready = true →
      (∃ t, exec (.switch st) s = .next t ∧ switched t) ∧ (∃ t, exec (.yield st) s = .next t ∧ switched t)) ∧
    ((s.ctx (otherBank k)).ready = false →
      Gives s (.switch st) (· = s.regs) ∧
      (s.regs.openStep = true ∨ s.yieldTo k = none → Gives s (.yield st) (· = s.regs)) ∧
      (∀ e, s.regs.openStep = false → s.closable k true = true → s.yieldTo k = some e →
        ∃ t, exec (.yield st) s = .next t ∧ (t.ctx k).occ = .saving ∧
          t.saving.getLast?.map (fun v => (v.ctx, v.wanted)) = some (k, some (e.launch, e.task))))

/-- R73, R72: JOIN sets the task's bit of a cohort other than 0, LEAVE clears it; every other byte of memory holds what it held. A LEAVE with no barrier object of that cohort registered; both have no effect on cohort 0. -/
def Sys2Proof.Parts.JoinLeave : Prop :=
  ∀ (s : State) (st : Bool) (a : BitVec 6) (i : BitVec 12), Running s → (s.old.rx a.toNat).psn = false →
    let l := s.launchOf s.cur
    let task := s.regs.task.toNat
    let n := ((s.old.rx a.toNat).v + s.immZ i).toNat % 2 ^ 16
    let b := l.cohorts + 512 * n + task / 8
    let sets := fun (j : Instr) (bit : Bool) => Completes s j fun t => t.regs = s.regs ∧ (∀ u, u ≠ b → (t.peek u).v = (s.peek u).v) ∧
      ∀ q, q < 8 → (t.peek b).v.getLsbD q = if q = task % 8 then bit else (s.peek b).v.getLsbD q
    (n = 0 → Gives s (.join st a i) (· = s.regs) ∧ Gives s (.leave st a i) (· = s.regs)) ∧
    (n ≠ 0 → region b = .hbm →
      sets (.join st a i) true ∧
      ((∀ e ∈ s.bars, ¬ (e.launch = l.num ∧ e.cohort = n)) → sets (.leave st a i) false))

/-- R112, R148, R61, R62, R113, R114, R90: what CSRR reads: the CTX CSRs as the bundle read them at issue, the CORE CSRs as they stand, or as they stood before a lower slot of the bundle wrote them. A read of CORE.GTNS also latches the fraction (R403). -/
def Sys2Proof.Parts.CsrRead : Prop :=
  ∀ (s : State) (st : Bool) (d : BitVec 6), Running s →
    let r := s.old
    let core := s.core (s.cur / 2)
    let gives := fun (n : BitVec 12) (v : Word64) => Gives s (.csrr st d n) fun q => OnlyX d.toNat s.regs q ∧ q.rx d.toNat = xAfter d ⟨v, false⟩
    let xstat : Word64 := BitVec.ofNat 64 (r.launch.toNat * 2 ^ 32 + r.task.toNat * 2 ^ 20 + r.qdepth.toNat * 2 ^ 13 + r.prio.toNat * 2 ^ 9 +
      r.openStep.toNat * 2 ^ 8 + s.cur % 2)
    gives 0 (r.fcsr.setWidth 64) ∧ gives 1 xstat ∧
    gives 2 (r.wrlo.setWidth 64) ∧ gives 3 (r.wrhi.setWidth 64) ∧ gives 4 (r.step.setWidth 64) ∧
    gives 5 (BitVec.ofNat 64 (r.mask.length + 256 * r.ldepth)) ∧ gives 6 r.qmode ∧
    gives 8 (r.lodS.setWidth 64) ∧ gives 9 (r.lodVL.setWidth 64) ∧ gives 10 (r.lodVA.setWidth 64) ∧
    gives 0x10 (BitVec.ofNat 64 (r.mode.toNat + 4 * r.act.toNat + 256 * r.lost.toNat + 4096 * (s.ctx s.cur).pend.length)) ∧
    (∀ n : BitVec 12, 0x11 ≤ n.toNat → n.toNat < 0x3F → gives n (r.ff.get 0 n.toNat)) ∧
    (∀ (n : BitVec 12) v, 0x100 ≤ n.toNat → n ≠ 0x17E → (s.ctx s.cur).issue.coreOld.find n.toNat = some v → gives n v) ∧
    (((s.ctx s.cur).issue.coreOld = [] →
    gives 0x100 (BitVec.ofNat 64 (s.peer % 2 ^ 14 * 2 ^ 16 + s.cur / 2)) ∧ gives 0x101 (core.poisonZeroed.setWidth 64) ∧
    (∀ n : BitVec 12, 0x108 ≤ n.toNat → n.toNat < 0x110 → gives n (core.swz.get 0 (n.toNat - 0x108))) ∧
    (∀ n : BitVec 12, 0x110 ≤ n.toNat → n.toNat < 0x12C ∨ (0x140 ≤ n.toNat ∧ n.toNat < 0x148) → gives n ((core.perf.get 0 n.toNat).setWidth 64)) ∧
    gives 0x17F (core.gtFrac.setWidth 64) ∧
    (∃ t, exec (.csrr st d 0x17E) s = .next t ∧ OnlyX d.toNat s.regs t.regs ∧
      t.regs.rx d.toNat = xAfter d ⟨BitVec.ofNat 64 (s.gt / 2 ^ 16), false⟩ ∧
      (t.core (s.cur / 2)).gtFrac = BitVec.ofNat 16 (s.gt % 2 ^ 16))))

/-- R112, R148, R38, R303, R205, R416: what CSRW writes: the RW fields, no other bit; a CSR without RW or W1C field raises PRIV_VIOLATION, a poisoned source POISON_CONSUMED. A write of FFn.PC_S discards the level's S image. A write of CORE.SWZn comes after what older matrix slots, nests and broadcasts of the context access (R206): it waits for them. -/
def Sys2Proof.Parts.CsrWrite : Prop :=
  ∀ (s : State) (st : Bool) (a : BitVec 6), Running s →
    let x := s.old.rx a.toNat
    let v := x.v
    let i := fun n : BitVec 12 => Instr.csrw st a n
    let c := s.ctx s.cur
    let quiet := (∀ b ∈ c.older, ∀ q ∈ b.todo, q.exu ≠ .mx) ∧ (∀ q ∈ c.issue.todo, q.exu = .mx → c.issue.cur ≤ q.idx) ∧
      ∀ d ∈ s.cmds, d.inc = c.inc → d.unit ≠ .nest ∧ d.unit ≠ .stage
    let core := s.core (s.cur / 2)
    let cores := fun (n : BitVec 12) (e : Core) => ∃ t, exec (i n) s = .next t ∧ t.regs = s.regs ∧ GoesTo s t (s.ctx s.cur).issue.target ∧
      t.core (s.cur / 2) = e ∧ (∀ c, c ≠ s.cur / 2 → t.core c = s.core c) ∧ t.mem = s.mem ∧ t.dev = s.dev
    (x.psn = true → ∀ n, exec (i n) s = .next (s.raise (.poison (regTag 0 a.toNat)))) ∧
    (x.psn = false →
      (∀ n ∈ ([1, 2, 3, 4, 5, 0x100, 0x17E, 0x17F, 0x11, 0x13, 0x23, 0x28, 0x2A, 0x3A] : List (BitVec 12)), exec (i n) s = .next (s.raise .privViolation)) ∧
      ((s.ctx s.cur).issue.flags = 0 → Gives s (i 0) fun r => r = { s.regs with fcsr := v.setWidth 32 &&& 0x31F }) ∧
      Gives s (i 6) (fun r => r = { s.regs with qmode := (s.regs.qmode.extractLsb' 12 4 ++ v.extractLsb' 0 12 : BitVec 16).setWidth 64 }) ∧
      Gives s (i 8) (fun r => r = { s.regs with lodS := v.setWidth 48 }) ∧
      Gives s (i 9) (fun r => r = { s.regs with lodVL := v.setWidth 48 }) ∧
      Gives s (i 10) (fun r => r = { s.regs with lodVA := v.setWidth 48 }) ∧
      Gives s (i 0x10) (fun r => r = { s.regs with act := v.getLsbD 2, lost := s.regs.lost && !v.getLsbD 8 }) ∧
      (∀ n : BitVec 12, n.toNat ∈ [0x24, 0x25, 0x26, 0x27, 0x3B, 0x3C, 0x3D, 0x3E] →
        Gives s (i n) fun r => r = { s.regs with ff := s.regs.ff.put n.toNat v }) ∧
      cores 0x101 { core with poisonZeroed := v.setWidth 48 } ∧
      (∀ (n : BitVec 12) (m : Nat), (n = 0x12 ∧ m = 1) ∨ (n = 0x29 ∧ m = 2) → ∃ t, exec (i n) s = .next t ∧
        t.regs = { s.regs with ff := s.regs.ff.put n.toNat v } ∧ GoesTo s t (s.ctx s.cur).issue.target ∧
        ∀ im, (if m = 1 then (t.ctx s.cur).img1 else (t.ctx s.cur).img2) = some im → ∀ q ∈ im.issue.todo, q.exu ≠ .s) ∧
      (¬ quiet → ∀ n : BitVec 12, 0x108 ≤ n.toNat → n.toNat < 0x110 → Waits s (i n)) ∧
      (∀ n : BitVec 12, quiet → 0x108 ≤ n.toNat → n.toNat < 0x110 → cores n { core with swz := core.swz.put (n.toNat - 0x108) (v &&& 0x8000000F0FFF0FFF) }) ∧
      (∀ n : BitVec 12, (0x110 ≤ n.toNat ∧ n.toNat < 0x12C) ∨ (0x140 ≤ n.toNat ∧ n.toNat < 0x148) →
        cores n { core with perf := core.perf.put n.toNat (v.setWidth 48) }))

/-- R149, R412, R384: CODESWAP in SYSTEM mode writes the code-table entry of the code id in xA; in any other mode it raises PRIV_VIOLATION. -/
def Sys2Proof.Parts.Codeswap : Prop :=
  ∀ (s : State) (st : Bool) (a b : BitVec 6), Running s →
    let x := s.old.rx a.toNat
    let y := s.old.rx b.toNat
    let p := (s.csr 0x50010).toNat / 2 ^ 19 * 2 ^ 19 % 2 ^ 50 + 8 * (x.v.toNat % 2 ^ 16)
    (s.regs.mode ≠ 2 → exec (.codeswap st a b) s = .next (s.raise .privViolation)) ∧
    (s.regs.mode = 2 → x.psn = false → y.psn = false → region p = .hbm →
      Completes s (.codeswap st a b) fun t => t.regs = s.regs ∧ StoredAt s t p 8 (byteOf y.v.toNat))

/-- R318, R320: FBIND binds a link register to the peer and endpoint in xA, FUNBIND unbinds it, once no word of it is in flight. -/
def Sys2Proof.Parts.FifoBinding : Prop :=
  ∀ (s : State) (st : Bool) (d a : BitVec 6), Running s → (s.old.rx a.toNat).psn = false →
    let x := (s.old.rx a.toNat).v
    let inc := (s.ctx s.cur).inc
    let only := fun (l : FLink) (r : Regs) => r = { s.regs with f := r.f } ∧ r.rf d.toNat = l ∧ ∀ n, n ≠ d.toNat → r.rf n = s.regs.rf n
    let busy := ∃ r ∈ s.reqs, r.owner = Owner.link inc d.toNat
    let waits := fun i : Instr => ∃ t, exec i s = .next t ∧ t.regs = s.regs ∧ t.reqs = s.reqs ∧ (t.ctx s.cur).issue = (s.ctx s.cur).issue
    (¬ busy → Gives s (.fbind st d a) (only { valid := true, peer := x.extractLsb' 0 14, endp := x.extractLsb' 16 8 }) ∧
      Gives s (.funbind st d) (only {})) ∧
    (busy → waits (.fbind st d a) ∧ waits (.funbind st d))

/-- R319, R320, R137: a push sends a word with its EOS bit to the peer and endpoint of the link, at most 64 in flight, when the send queue has room (R299). FPOP takes the oldest word of its endpoint; LOOPS branches while the oldest word does not have EOS, and takes the word that has. An unbound link raises PROT_FAULT; an empty endpoint makes the slot wait. -/
def Sys2Proof.Parts.FifoWords : Prop :=
  ∀ (s : State) (st : Bool) (d a f : BitVec 6) (p : BitVec 7) (o : BitVec 11), Running s → (s.old.rx a.toNat).psn = false →
    let x := (s.old.rx a.toNat).v
    let inc := (s.ctx s.cur).inc
    let l := s.regs.rf d.toNat
    let g := s.regs.rf f.toNat
    let q := s.fifos.get [] g.endp.toNat
    let pushes := fun (i : Instr) (eos : Bool) => ∃ t, exec i s = .next t ∧ t.regs = s.regs ∧ GoesTo s t (s.ctx s.cur).issue.target ∧
      t.reqs.getLast?.map (fun r => (r.owner, r.addr, r.act)) =
        some (Owner.link inc d.toNat, l.peer.toNat * 2 ^ 50, Ask.fifo l.endp.toNat eos ⟨x.extractLsb' 0 32, false⟩) ∧
      (t.reqs.filter fun r => r.owner = Owner.link inc d.toNat).length = (s.reqs.filter fun r => r.owner = Owner.link inc d.toNat).length + 1
    let pops := fun (i : Instr) (tgt : Option Word64) (Q : Regs → Prop) (rest : List (Val 32 × Bool)) => ∃ t, exec i s = .next t ∧
      GoesTo s t tgt ∧ Q t.regs ∧ t.fifos.get [] g.endp.toNat = rest ∧
      ∀ e, e ≠ g.endp.toNat → t.fifos.get [] e = s.fifos.get [] e
    let target := (s.ctx s.cur).issue.addr + BitVec.ofInt 64 (4 * o.toInt)
    (l.valid = false → exec (.fpush st d a) s = .next (s.raise (.prot 0)) ∧ exec (.fpushEos st d a) s = .next (s.raise (.prot 0))) ∧
    (l.valid = true → (s.routed l.peer.toNat = true ∨ l.peer.toNat = s.peer) →
      s.roomFor l.peer.toNat false 0 = true → (s.reqs.filter fun r => r.owner = Owner.link inc d.toNat).length < 64 →
      pushes (.fpush st d a) false ∧ pushes (.fpushEos st d a) true) ∧
    (g.valid = false → exec (.fpop st d f) s = .next (s.raise (.prot 0)) ∧ exec (.loops st f p o) s = .next (s.raise (.prot 0))) ∧
    (g.valid = true → q = [] → ∀ i ∈ [Instr.fpop st d f, .loops st f p o], ∃ t, exec i s = .next t ∧ t.regs = s.regs ∧ t.fifos = s.fifos ∧
      (t.ctx s.cur).issue = (s.ctx s.cur).issue) ∧
    (g.valid = true → ∀ w eos rest, q = (w, eos) :: rest →
      pops (.fpop st d f) (s.ctx s.cur).issue.target
        (fun r => OnlyX d.toNat s.regs r ∧ r.rx d.toNat = xAfter d ⟨BitVec.ofNat 64 (eos.toNat * 2 ^ 32 + w.v.toNat), w.psn⟩) rest ∧
      (eos = true → pops (.loops st f p o) (s.ctx s.cur).issue.target (fun r => OnlyP p.toNat s.regs r ∧ r.rp p.toNat = pAfter p true) rest) ∧
      (eos = false → pops (.loops st f p o) (some target) (fun r => OnlyP p.toNat s.regs r ∧ r.rp p.toNat = pAfter p false) q))

/-- R259, R270, R271, R211, R232, R262: LDG, LDA, STG and STA through a VALID handle to a page of this device. Outside the page HANDLE_BOUNDS is raised, without the permission PROT_FAULT. A load of a cached page takes the bytes of the core's L1 where it holds the line, else those of memory; with `.zp` a poisoned value is delivered as 0 and counted. A store changes the bytes it names and no other. LDA and STA are aligned; an acquire of cluster scope or wider leaves the L1 empty (R243). -/
def Sys2Proof.Parts.HandleAccess : Prop :=
  ∀ (s : State) (st i zp x nt : Bool) (d b : BitVec 6) (m : BitVec 4) (z : BitVec 2) (c : BitVec 3), Running s →
    let h := s.old.rh m.toNat
    let n := 2 ^ z.toNat
    let k := s.cur / 2
    let offX := (s.old.rx b.toNat).v
    let off := if i then s.immZ b else offX
    let clean := (s.old.rx b.toNat).psn = false
    let v := s.old.rx d.toNat
    let q := fun o : Word64 => physical h.leaf h.size (h.page + o).toNat % 2 ^ 50
    let here := fun o : Word64 => o.toNat + n ≤ pageBytes h.size ∧ physical h.leaf h.size (h.page + o).toNat / 2 ^ 50 = s.peer ∧
      region (q o) ∈ [Region.hbm, .sbm, .scratch] ∧ region (q o + n - 1) = region (q o) ∧ q o + n ≤ 2 ^ 50
    let seen : Nat → Val 8 := fun a => match (s.core k).l1.find (a / 128) with
      | some e => if region a = Region.hbm ∧ leafMs h.leaf = false ∧ leafOrd h.leaf ≠ 0 then ⟨e.bytes.getD (a % 128) 0, e.psn.contains (a % 128 / 4)⟩ else s.peek a
      | none => s.peek a
    let value := fun (o : Word64) (zp sx : Bool) =>
      let bs := (List.range n).map fun j => seen (q o + j)
      if bs.any (·.psn) then (⟨0, !zp⟩ : Val 64)
      else ⟨extended n ((List.range n).map fun j => (seen (q o + j)).v.toNat * 256 ^ j).sum sx, false⟩
    let loads := fun (j : Instr) (o : Word64) (zp sx : Bool) (Q : State → Prop) => Completes s j fun t =>
      OnlyX d.toNat s.regs t.regs ∧ SameBytes s t ∧ Q t ∧
        (q o % 128 + n ≤ 128 → t.regs.rx d.toNat = xAfter d (value o zp sx))
    let stores := fun (j : Instr) (o : Word64) => Completes s j fun t => t.regs = s.regs ∧ StoredAt s t (q o) n (byteOf v.v.toNat) ∧
      (v.psn = true → ∀ a, q o ≤ a → a < q o + n → (t.peek a).psn = true)
    let free := s.parkedOf s.cur = [] ∧ (s.core k).replay.length < 16
    h.st = .valid →
    ((i = false → clean) →
      (pageBytes h.size < off.toNat + n →
        exec (.ldg st d m b i zp x z) s = .next (s.raise (.handleBounds (h.page + off))) ∧
        exec (.stg st d m b i nt z) s = .next (s.raise (.handleBounds (h.page + off)))) ∧
      (off.toNat + n ≤ pageBytes h.size →
        (leafR h.leaf = false → exec (.ldg st d m b i zp x z) s = .next (s.raise (.prot (h.page + off)))) ∧
        (leafW h.leaf = false → exec (.stg st d m b i nt z) s = .next (s.raise (.prot (h.page + off))))) ∧
      (here off → free →
        (leafR h.leaf = true → (zp = true → leafPz h.leaf = true) → loads (.ldg st d m b i zp x z) off zp x fun _ => True) ∧
        (leafW h.leaf = true → leafCow h.leaf = false → stores (.stg st d m b i nt z) off))) ∧
    (clean → here offX → free →
      (offX.toNat % n ≠ 0 → exec (.lda st d m b z c) s = .next (s.raise (.align (h.page + offX))) ∧
        exec (.sta st d m b z c) s = .next (s.raise (.align (h.page + offX)))) ∧
      (offX.toNat % n = 0 →
        (leafR h.leaf = true → loads (.lda st d m b z c) offX false false fun t => 2 ≤ c.toNat → (t.core k).l1 = []) ∧
        (leafW h.leaf = true → leafCow h.leaf = false → (s.ctx s.cur).wc = [] → s.postedOut s.cur (c = 6) = false →
          stores (.sta st d m b z c) offX)))

/-- R259, R267, R268, R140, R262: VLD, VST, VLDG and VSTG through a capability to pages of this device that the core's TLB holds. Active lanes are loaded or stored, no other; of two lanes that store to one word the higher stands. -/
def Sys2Proof.Parts.GlobalVector : Prop :=
  ∀ (s : State) (st z nt : Bool) (d b : BitVec 6) (c : BitVec 4), Running s →
    let cap := s.old.rc c.toNat
    let k := s.cur / 2
    let asid := (s.launchOf s.cur).asid
    let ls := (List.range 64).filter s.old.active
    let hit := fun va => (s.tlb k).find? fun e => e.maps asid va
    let leaf := fun va => match hit va with | some e => e.leaf | none => 0
    let q := fun va => match hit va with | some e => physical e.leaf e.size va % 2 ^ 50 | none => 0
    let here := fun (va n : Nat) (perm : BitVec 8) => va % 4 = 0 ∧ cap.check va n perm = none ∧ canonical va = true ∧
      va % 0x10000 + n ≤ 0x10000 ∧ ∃ e, hit va = some e ∧ physical e.leaf e.size va / 2 ^ 50 = s.peer ∧
        region (physical e.leaf e.size va % 2 ^ 50) ∈ [Region.hbm, .sbm, .scratch]
    let readable := fun va => leafR (leaf va) = true ∧ (z = true → leafPz (leaf va) = true)
    let writable := fun va => leafW (leaf va) = true ∧ leafCow (leaf va) = false
    let word := fun p => if poisonedAt s p 4 then (⟨0, !z⟩ : Val 32) else ⟨BitVec.ofNat 32 (numberAt s p 4), false⟩
    let fresh := s.psn = [] ∧ (s.core k).l1 = []
    let loads := fun (i : Instr) (at_ : Nat → Nat) => Completes s i fun t => OnlyV d.toNat s.regs t.regs ∧ t.regs.fcsr = s.regs.fcsr ∧
      SameBytes s t ∧ (∀ l, l < 64 → l ∉ ls → t.regs.rv d.toNat l = s.regs.rv d.toNat l) ∧
      ((∀ l ∈ ls, region (at_ l) ≠ .hbm) ∨ fresh → ∀ l ∈ ls, t.regs.rv d.toNat l = word (at_ l))
    let stores := fun (i : Instr) (at_ : Nat → Nat) => Completes s i fun t => t.regs = s.regs ∧
      ∀ u, (t.peek u).v = match ls.reverse.find? fun l => at_ l / 4 = u / 4 with
        | some l => byteOf (s.old.rv d.toNat l).v.toNat (u % 4)
        | none => (s.peek u).v
    let row := fun l => (cap.base + ((s.old.rx b.toNat).v + BitVec.ofNat 64 (4 * l)).toNat) % 2 ^ 64
    let index := fun l => (cap.base + (s.old.rv b.toNat l).v.toNat) % 2 ^ 64
    let lo := ls.headD 0
    let n := 4 * (ls.getLastD 0 - lo + 1)
    let rowAt := fun l => q (row lo) + 4 * (l - lo)
    let indexAt := fun l => q (index l)
    cap.psn = false → s.parkedOf s.cur = [] → (s.core k).replay.length < 16 →
    (ls = [] → Gives s (.vldG st d c b z) (· = s.regs) ∧ Gives s (.vstG st d c b nt) (· = s.regs) ∧
      Gives s (.vldgG st d c b z) (· = s.regs) ∧ Gives s (.vstgG st d c b nt) (· = s.regs)) ∧
    (ls ≠ [] → (s.old.rx b.toNat).psn = false →
      (here (row lo) n permR → readable (row lo) → loads (.vldG st d c b z) rowAt) ∧
      (here (row lo) n permW → writable (row lo) → stores (.vstG st d c b nt) rowAt)) ∧
    (ls ≠ [] → (∀ l ∈ ls, (s.old.rv b.toNat l).psn = false) →
      ((∀ l ∈ ls, here (index l) 4 permR ∧ readable (index l)) → loads (.vldgG st d c b z) indexAt) ∧
      ((∀ l ∈ ls, here (index l) 4 permW ∧ writable (index l)) → stores (.vstgG st d c b nt) indexAt))

/-- R246, R272: an ATOM on a word or doubleword of this device returns the old value to xD and stores the new one; a poisoned target is left as it is and the result is poisoned. The capability must grant A, the page R and W. -/
def Sys2Proof.Parts.Atomics : Prop :=
  ∀ (s : State) (st w x : Bool) (d b : BitVec 6) (r : BitVec 2) (c : BitVec 4) (e : TlbEntry), Running s →
    let cap := s.old.rc c.toNat
    let k := s.cur / 2
    let n := if w then 8 else 4
    let v := (s.old.rx d.toNat).v.toNat % 2 ^ (8 * n)
    let v1 := (s.old.rx (d.toNat + 1)).v.toNat % 2 ^ (8 * n)
    let va := (cap.base + (s.old.rx b.toNat).v.toNat) % 2 ^ 64
    let q := physical e.leaf e.size va % 2 ^ 50
    let old := numberAt s q n
    let int := fun u => (BitVec.ofNat (8 * n) u).toInt
    let f := if w then Fmt.f64 else Fmt.f32
    let does := fun (i : Instr) (new : Nat) => Completes s i fun t => OnlyX d.toNat s.regs t.regs ∧
      (poisonedAt s q n = true → t.regs.rx d.toNat = xAfter d ⟨0, true⟩ ∧ SameBytes s t) ∧
      (poisonedAt s q n = false → t.regs.rx d.toNat = xAfter d ⟨BitVec.ofNat 64 old, false⟩ ∧ StoredAt s t q n (byteOf new))
    (s.old.rx d.toNat).psn = false → (s.old.rx b.toNat).psn = false → cap.psn = false → (∀ q ∈ s.reqs, q.owner ≠ s.me) →
    (cap.check va n permA = some (0x12, va) → va % n = 0 →
      exec (.atomAdd st d r c b w x) s = .next (s.raise (.capPerm (BitVec.ofNat 64 va) c.toNat))) ∧
    (va % n = 0 → cap.check va n permA = none → canonical va = true → (s.tlb k).find? (fun e => e.maps (s.launchOf s.cur).asid va) = some e →
      physical e.leaf e.size va / 2 ^ 50 = s.peer → region q ∈ [Region.hbm, .sbm, .scratch] →
      leafR e.leaf = true → leafW e.leaf = true → leafCow e.leaf = false →
      s.parkedOf s.cur = [] → (s.core k).replay.length < 16 → (s.ctx s.cur).wc = [] → (2 ≤ r.toNat → s.postedOut s.cur x = false) →
      does (.atomSwap st d r c b w x) v ∧
      ((s.old.rx (d.toNat + 1)).psn = false → does (.atomCas st d r c b w x) (if old = v then v1 else old)) ∧
      does (.atomAdd st d r c b w x) ((old + v) % 2 ^ (8 * n)) ∧
      does (.atomAnd st d r c b w x) (old &&& v) ∧ does (.atomOr st d r c b w x) (old ||| v) ∧ does (.atomXor st d r c b w x) (old ^^^ v) ∧
      does (.atomMinS st d r c b w x) (if int v < int old then v else old) ∧
      does (.atomMaxS st d r c b w x) (if int old < int v then v else old) ∧
      does (.atomMinZ st d r c b w x) (min old v) ∧ does (.atomMaxZ st d r c b w x) (max old v) ∧
      does (.atomFadd st d r c b w x) (fpAdd f 0 false old v).1 ∧
      does (.atomFmin st d r c b w x) (fpMinMax f false old v).1 ∧ does (.atomFmax st d r c b w x) (fpMinMax f true old v).1)

/-- R273, R274: ATOMX sends a request with its routine and arguments to the home slice and waits; when the answer is there it returns the answer's value to xD. -/
def Sys2Proof.Parts.Atomx : Prop :=
  ∀ (s : State) (st : Bool) (d b i : BitVec 6) (r : BitVec 2) (c : BitVec 4) (e : TlbEntry), Running s →
    let cap := s.old.rc c.toNat
    let va := (cap.base + (s.old.rx b.toNat).v.toNat) % 2 ^ 64
    let pa := physical e.leaf e.size va
    let a0 := s.old.rx d.toNat
    let a1 := s.old.rx (d.toNat + 1)
    let act := Ask.charm (i.toNat + 64 * (leafMs e.leaf).toNat) a0.v a1.v r
    a0.psn = false → a1.psn = false → (s.old.rx b.toNat).psn = false → cap.psn = false →
    ((∀ q ∈ s.reqs, q.owner ≠ s.me ∧ ∀ n, q.owner ≠ .posted n) → cap.check va 4 permA = none → va % 4 = 0 → canonical va = true → (s.tlb (s.cur / 2)).find? (fun e => e.maps (s.launchOf s.cur).asid va) = some e →
    pa / 2 ^ 50 = s.peer → region (pa % 2 ^ 50) = .hbm → leafR e.leaf = true → leafW e.leaf = true → leafCow e.leaf = false →
    s.parkedOf s.cur = [] →
      ∃ t, exec (.atomx st d r c b i) s = .next t ∧ t.regs = s.regs ∧
      (t.ctx s.cur).issue = (s.ctx s.cur).issue ∧
      t.reqs.getLast?.map (fun q => (q.owner, q.addr, q.act)) = some (s.me, pa, act)) ∧
    (∀ q bs, s.reqs.find? (fun q => decide (q.owner = s.me)) = some q → q.ix = 0 → q.ans = some (.data bs) → bs.length = 8 →
      Completes s (.atomx st d r c b i) fun t => OnlyX d.toNat s.regs t.regs ∧ (∀ a, t.peek a = s.peek a) ∧
        t.regs.rx d.toNat = xAfter d (if bs.any (·.psn) then ⟨0, true⟩ else ⟨BitVec.ofNat 64 (leNat bs), false⟩))

/-- R279: SBOP on a run of words of the SBM in one 128-byte line: FILL, ADD, FADD and MAX word by word; a poisoned word is left as it is, unless it is filled; with RET the old value of the first word goes to xD. Outside the SBM PROT_FAULT is raised. -/
def Sys2Proof.Parts.BankOperations : Prop :=
  ∀ (s : State) (st r : Bool) (d b : BitVec 6) (c : BitVec 4) (m : BitVec 5) (e : TlbEntry), Running s →
    let cap := s.old.rc c.toNat
    let n := 4 * (m.toNat + 1)
    let v := (s.old.rx d.toNat).v.toNat % 2 ^ 32
    let va := (cap.base + (s.old.rx b.toNat).v.toNat) % 2 ^ 64
    let q := physical e.leaf e.size va % 2 ^ 50
    let word := fun u => numberAt s (u / 4 * 4) 4
    let does := fun (i : Instr) (fill : Bool) (new : Nat → Nat) => Completes s i fun t =>
      (∀ u, (t.peek u).v = if q ≤ u ∧ u < q + n ∧ (fill = true ∨ poisonedAt s (u / 4 * 4) 4 = false) then byteOf (new (word u)) (u % 4)
        else (s.peek u).v) ∧
      (r = false → t.regs = s.regs) ∧
      (r = true → OnlyX d.toNat s.regs t.regs ∧
        t.regs.rx d.toNat = xAfter d (if poisonedAt s q 4 then ⟨0, true⟩ else ⟨BitVec.ofNat 64 (numberAt s q 4), false⟩))
    (s.old.rx d.toNat).psn = false → (s.old.rx b.toNat).psn = false → cap.psn = false →
    va % 4 = 0 → va % 128 + n ≤ 128 → cap.check va n permA = none → canonical va = true →
    (s.tlb (s.cur / 2)).find? (fun e => e.maps (s.launchOf s.cur).asid va) = some e →
    physical e.leaf e.size va / 2 ^ 50 = s.peer → leafR e.leaf = true → leafW e.leaf = true → leafCow e.leaf = false →
    s.parkedOf s.cur = [] → (s.core (s.cur / 2)).replay.length < 16 →
    (region q = .hbm → exec (.sbopAdd st d c b r m) s = .next (s.raise (.prot (BitVec.ofNat 64 va)))) ∧
    (region q = .sbm →
      does (.sbopFill st d c b r m) true (fun _ => v) ∧
      does (.sbopAdd st d c b r m) false (fun o => (o + v) % 2 ^ 32) ∧
      does (.sbopFadd st d c b r m) false (fun o => (fpAdd .f32 0 false o v).1) ∧
      does (.sbopMax st d c b r m) false (fun o => if (BitVec.ofNat 32 o).toInt < (BitVec.ofNat 32 v).toInt then v else o))

/-- R245, R255, R277, R278: FENCE changes no register and no byte, and acquires when it orders loads before loads; PREFETCH never traps and changes no register and no byte; FLUSH leaves the lines of its range clean, or not resident; DISCARD gives dirty lines of its range the bytes that HBM holds. -/
def Sys2Proof.Parts.CacheControl : Prop :=
  ∀ (s : State) (st u e t m p q o : Bool) (d b : BitVec 6) (c : BitVec 4) (sc : BitVec 3) (entry : TlbEntry), Running s →
    let k := s.cur / 2
    let cap := s.old.rc c.toNat
    let len := (s.old.rx d.toNat).v.toNat
    let va := (cap.base + (s.old.rx b.toNat).v.toNat) % 2 ^ 64
    let a := physical entry.leaf entry.size va % 2 ^ 50
    let lines := fun l => a / 128 ≤ l ∧ l ≤ (a + len - 1) / 128
    let idle := s.parkedOf s.cur = [] ∧ (s.ctx s.cur).wc = [] ∧ s.postedOut s.cur (sc = 6) = false
    let inside := va % 0x10000 + len ≤ 0x10000 ∧ canonical va = true ∧
      (s.tlb k).find? (fun e => e.maps (s.launchOf s.cur).asid va) = some entry ∧ physical entry.leaf entry.size va / 2 ^ 50 = s.peer ∧
      region a = .hbm ∧ leafMs entry.leaf = false
    ((p = true → idle) → Completes s (.fence st u e t m p q sc) fun v => v.regs = s.regs ∧ (∀ a, v.peek a = s.peek a) ∧
      (v.core k).l1 = if q = true ∧ m = true ∧ 2 ≤ sc.toNat then [] else (s.core k).l1) ∧
    (Completes s (.prefetch st d c b o) fun v => v.regs = s.regs ∧ SameBytes s v) ∧
    ((s.old.rx d.toNat).psn = false → (s.old.rx b.toNat).psn = false → cap.psn = false →
      (len = 0 → Gives s (.flush st d c b o) (· = s.regs) ∧ Gives s (.discard st d c b) (· = s.regs)) ∧
      (0 < len → inside → s.parkedOf s.cur = [] → s.copying (s.launchOf s.cur).asid va = false → cap.check va len permR = none → leafR entry.leaf = true →
        Completes s (.flush st d c b o) fun v => v.regs = s.regs ∧ SameBytes s v ∧
          ∀ l, lines l → (v.core k).l1.find l = none ∧ (o = true → v.llc.find l = none) ∧ ∀ x, v.llc.find l = some x → x.dram = none) ∧
      (0 < len → len % 128 ≠ 0 → exec (.discard st d c b) s = .next (s.raise (.align (BitVec.ofNat 64 va)))) ∧
      (0 < len → len % 128 = 0 → va % 128 = 0 → inside → s.parkedOf s.cur = [] → cap.check va len permW = none → leafW entry.leaf = true →
        leafCow entry.leaf = false →
        Completes s (.discard st d c b) fun v => v.regs = s.regs ∧
          (∀ l, lines l → (v.core k).l1.find l = none ∧ v.llc.find l = none) ∧
          ∀ y, (v.peek y).v = if lines (y / 128) ∧ region y = .hbm then
            (match s.llc.find (y / 128) with | some ⟨some bs, _⟩ => bs.getD (y % 128) 0 | _ => (s.peek y).v) else (s.peek y).v))

/-- R188 to R192: NSET writes the fields of a nest register of the shadow copy, NSET.A of the active copy; NGET and NGET.A read them, and N.STATE at index 7. -/
def Sys2Proof.Parts.NestRegisters : Prop :=
  ∀ (s : State) (st : Bool) (d a i : BitVec 6), Running s → Idle s →
    let x := s.old.rx a.toNat
    let n := i.toNat
    let fields : Word64 := match n with
      | 0 => 0x7FF | 1 => 0xFFFFFF | 2 => 0xFFFFFF | 3 => 0xFFFFFFFFFF | 4 => 0xFFFFFFFFFFFF | 5 => 0xFFFFFFFFFFF | 6 => 0xFFFF
      | n => if n % 4 = 0 then 0xFFFFFFFF1FFFFFFF else if n % 4 = 1 then 0xFFFFFFFFFFFFFFFF else 0xFFFFFFFFFF
    let v := x.v &&& fields
    let state : Word64 := BitVec.ofNat 64 (s.regs.nrun.toNat * 2 ^ 63 + s.regs.nsteps.toNat)
    let reads := fun (j : Instr) (v : Word64) => Gives s j fun r => OnlyX d.toNat s.regs r ∧ r.rx d.toNat = xAfter d ⟨v, false⟩
    (x.psn = true → exec (.nset st a i) s = .next (s.raise (.poison (regTag 0 a.toNat)))) ∧
    (x.psn = false → n < 7 ∨ (0x10 ≤ n ∧ n < 0x28 ∧ n % 4 ≠ 3) →
      (Gives s (.nset st a i) fun r => r = { s.regs with nshadow := r.nshadow } ∧
        ∀ m, r.nshadow.get 0 m = if m = n then v else s.regs.nshadow.get 0 m) ∧
      (Gives s (.nsetA st a i) fun r => r = { s.regs with nactive := r.nactive } ∧
        ∀ m, r.nactive.get 0 m = if m = n then v else s.regs.nactive.get 0 m)) ∧
    (n ≠ 7 → reads (.nget st d i) (s.regs.nshadow.get 0 n) ∧ reads (.ngetA st d i) (s.regs.nactive.get 0 n)) ∧
    (n = 7 → reads (.nget st d i) state ∧ reads (.ngetA st d i) state)

/-- R183, R193, R195: NGO and NGO.M with a valid shadow copy promote it: it becomes the active copy, N.STATE reads RUN 1 and STEPS 0, and the walk runs with those registers, the banks it reaches and the ranges it covers. Both wait while a nest runs on the core. NGO with an invalid shadow copy finishes its token with NEST_INVALID and raises it. -/
def Sys2Proof.Parts.NestStart : Prop :=
  ∀ (s : State) (st : Bool) (d a b : BitVec 6), Running s →
    let core := s.cur / 2
    let n : Nest := fun i => s.regs.nshadow.get 0 i
    let x := (s.ctx s.cur).chan 8
    let seq := match s.slot.tok with | some t => t.extractLsb' 0 26 | none => x.next
    let walks := fun (i : Instr) (P : Cmd → Prop) =>
      Starts s i d 8 (fun r => { r with nactive := r.nshadow, nrun := true, nsteps := 0 }) fun t e =>
        e.unit = .nest ∧ e.phase = .running ∧ e.pos = 0 ∧ (∀ i, i < 64 → e.vals.getD i ⟨0, false⟩ = ⟨n i, false⟩) ∧ e.path = n.lease ∧
          e.spans = n.spans core ∧
          (t.core core).board.map (fun r => (r.lo, r.hi, r.write, r.cmd)) = e.own.map (fun r => (r.1, r.2.1, r.2.2, e.id)) ∧ P e
    ((∃ c ∈ s.cmds, c.unit = .nest ∧ c.ctx / 2 = core ∧ c.phase ≠ .queued) → Waits s (.ngo st d) ∧ Waits s (.ngoM st d a b)) ∧
    (Unhindered s → (s.slot.tok = none → Room s 8 1) →
      (n.valid core false = true → walks (.ngo st d) fun e => e.op = .nest false) ∧
      (ngoCheck true a b s = .ok (none, s) → walks (.ngoM st d a b) fun e => e.op = .nest true ∧ e.caps = [s.old.rc a.toNat] ∧
        e.xs = [(s.old.rx b.toNat).v]) ∧
      (n.valid core false = false → x.log.length < 4 → (∀ t, s.slot.tok = some t → (s.ctx s.cur).satisfied t = false) →
        ∃ u : State, exec (.ngo st d) s = .next (u.raise { cause := 0x31 }) ∧
          ((u.ctx s.cur).chan 8).next = (if s.slot.tok = none then x.next + 1 else x.next) ∧
          ((u.ctx s.cur).chan 8).log = x.log ++ [(seq, 0x31)] ∧
          u.regs.nshadow = s.regs.nshadow ∧ u.regs.nactive = s.regs.nactive ∧
          (s.slot.tok = none → u.regs.rt d.toNat = ⟨BitVec.ofNat 6 8 ++ x.next, false⟩)))

/-- R177, R184: ACCRD, ACCWR and ACCZ move the half row that xB names between a bank and a vector register, for active lanes, poison included, and clear a bank. -/
def Sys2Proof.Parts.AccumulatorMoves : Prop :=
  ∀ (s : State) (st : Bool) (d a b : BitVec 6), Running s → Idle s →
    let x := s.old.rx b.toNat
    let row := x.v.toNat / 2 % 128
    let half := x.v.toNat % 2 * 64
    let banks := fun (f : Nat → Nat → Nat → Val 32) (r : Regs) => r = { s.regs with a := r.a } ∧
      ∀ n i j, i < 128 → j < 128 → r.ra n i j = f n i j
    (x.psn = true → exec (.accrd st d a b) s = .next (s.raise (.poison (regTag 0 b.toNat))) ∧
      exec (.accwr st d a b) s = .next (s.raise (.poison (regTag 0 b.toNat)))) ∧
    (x.psn = false →
      GivesLanes s (.accrd st d a b) d (fun l => if s.old.active l then some (s.regs.ra a.toNat row (half + l)) else none) ∧
      Gives s (.accwr st d a b) (banks fun n i j =>
        if n = d.toNat ∧ i = row ∧ half ≤ j ∧ j < half + 64 ∧ s.old.active (j - half) = true then s.old.rv a.toNat (j - half)
        else s.regs.ra n i j)) ∧
    Gives s (.accz st d) (banks fun n i j => if n = d.toNat then ⟨0, false⟩ else s.regs.ra n i j)

/-- R186: OBCAST checks its source and destination, reads its source, and starts the broadcast of what it has read on channel 8; with MASK 0 it reads nothing. -/
def Sys2Proof.Parts.Broadcast : Prop :=
  ∀ (s : State) (st : Bool) (d a b l : BitVec 6), Running s →
    (s.old.rx a.toNat).psn = false → (s.old.rx b.toNat).psn = false →
    let x := (s.old.rx a.toNat).v
    let y := (s.old.rx b.toNat).v
    let len := (l.toNat + 1) * 1024
    let doff := y.toNat % 2 ^ 16
    let mask := y.toNat / 2 ^ 16 % 2 ^ 8
    (x.toNat % 32 ≠ 0 → exec (.obcast st d a b l) s = .next (s.raise (.align x))) ∧
    (x.toNat % 32 = 0 → doff % 32 = 0 → 2 ^ 20 < x.toNat + len → exec (.obcast st d a b l) s = .next (s.raise (.scratchBounds x))) ∧
    (x.toNat % 32 = 0 → doff % 32 = 0 → x.toNat + len ≤ 2 ^ 20 → y.toNat < 2 ^ 24 → doff + len ≤ 65536 →
      Unhindered s → (s.slot.tok = none → Room s 8 1) →
      Starts s (.obcast st d a b l) d 8 id fun _ e => e.unit = .stage ∧ e.phase = .running ∧
        e.op = .obcast (scratchAddr (s.cur / 2) x.toNat) doff len mask ∧
        e.raw = if mask = 0 then [] else (List.range len).map fun i => s.peek (scratchAddr (s.cur / 2) x.toNat + i))

/-- R181, R198, R199: MOPEN and ACCMERGE check the capability for the 64 KiB tile and its alignment, translate its pages, and send the request to the home slice as they leave the MX queue, on channel 16: an open without data, a contribution with the bank's tile as it stands. A target on a page with COW whose copy cannot start fails with SNAP_POOL_EMPTY and sends nothing (R228). -/
def Sys2Proof.Parts.MergeForms : Prop :=
  ∀ (s : State) (st z : Bool) (d a b : BitVec 6) (n : BitVec 5) (m k : BitVec 2), Running s → Unhindered s →
    (s.slot.tok = none → Room s 16 1) → s.cowLine = [] →
    let cap := s.old.rc a.toNat
    let x := s.old.rx b.toNat
    let va := (cap.base + x.v.toNat) % 2 ^ 64
    let asid := (s.launchOf s.cur).asid
    let ok := fun (cow : Bool) u => canonical u = true ∧ ∃ e, (s.tlb (s.cur / 2)).find? (fun e => e.maps asid u) = some e ∧
      leafW e.leaf = true ∧ leafCow e.leaf = cow ∧ s.inHbm (physical e.leaf e.size u) = true
    let sends := fun (i : Instr) (op : CmdOp) (n : Nat) (tile : MergeReq → Prop) => Starts s i d 16 id fun t e =>
      e.unit = .merge ∧ e.op = op ∧ e.phase = .waiting ∧ ∃ r, t.mergeQ = s.mergeQ ++ [r] ∧ r.cmd = e.id ∧ r.n = n ∧ r.va = va ∧ r.asid = asid ∧
        (∀ e, (s.tlb (s.cur / 2)).find? (fun e => e.maps asid va) = some e → r.p = physical e.leaf e.size va % 2 ^ 50) ∧ tile r
    let fails := fun (i : Instr) => Starts s i d 16 id fun t e =>
      e.phase = .stopped ∧ e.fail = some { cause := 0x27, addr := BitVec.ofNat 64 va } ∧ t.mergeQ = s.mergeQ
    cap.psn = false → x.psn = false → cap.check va 65536 permW = none →
    (va % 128 ≠ 0 → (s.immZ n).toNat < 65536 → exec (.mopen st d a b n) s = .next (s.raise (.align (BitVec.ofNat 64 va)))) ∧
    (va % 128 = 0 → ok false va → ok false (va + 65535) →
      ((s.immZ n).toNat < 65536 →
        sends (.mopen st d a b n) (.mopen va ((s.immZ n).toNat + 1)) ((s.immZ n).toNat + 1) fun r => r.data = none) ∧
      ((s.immZ m).toNat < 65536 →
        sends (.accmerge st d a b m z k) (.accmerge va ((s.immZ m).toNat + 1) k.toNat z) ((s.immZ m).toNat + 1) fun r =>
          ∃ x, r.data = some x ∧ ∀ i j, i < 128 → j < 128 → x.get ⟨0, false⟩ (128 * i + j) = s.regs.ra k.toNat i j)) ∧
    (va % 128 = 0 → ok true va → (∃ w, ok w (va + 65535)) → s.poolReady = false → s.copying asid va = false →
      s.cowWant.contains (asid, va / 0x10000) = false →
      ((s.immZ n).toNat < 65536 → fails (.mopen st d a b n)) ∧ ((s.immZ m).toNat < 65536 → fails (.accmerge st d a b m z k)))

/-- R306 to R309: COPY resolves its operands and issues the copy on its channel. A flat operand is a capability without a shape, or a scratch operand without one; the source needs R and CP, the destination W and CP. -/
def Sys2Proof.Parts.CopyIssue : Prop :=
  ∀ (s : State) (st : Bool) (d a b : BitVec 6) (c h : BitVec 3), Running s → Room s h.toNat 1 →
    (s.cmds.filter fun e => e.ctx / 2 = s.cur / 2 ∧ e.unit = CmdUnit.tce h.toNat ∧ e.phase = .queued).length < 32 →
    let flat := fun (f : BitVec 6) (perm : BitVec 8) (len : Nat) (t : Tensor) =>
      let cap := s.old.rc f.toNat
      let x := s.old.rx f.toNat
      let addr := x.v.toNat % 2 ^ 24
      if f.toNat < 16 then
        cap.psn = false ∧ cap.tag = true ∧ cap.shape = 0 ∧ cap.len = len ∧ (0 < len → cap.check cap.base len (perm ||| permCP) = none) ∧
          t = { glob := true, base := cap.base, dims := [(len, 1)], sn := decide (cap.perm &&& permSN ≠ 0) }
      else
        x.psn = false ∧ x.v.toNat = addr + len * 2 ^ 40 ∧ len ≤ 2 ^ 20 ∧
          (if len = 0 then t = { glob := false, base := scratchAddr (s.cur / 2) (addr % 2 ^ 20), dims := [(0, 1)] }
           else ∃ p, scratchPlace (s.cur / 2) addr len = some p ∧ t = { glob := false, base := p, dims := [(len, 1)] })
    (∀ len src dst, flat a permR len src → flat b permW len dst →
      Issues s (.copy st d a b c h) d h.toNat s.regs.qmode fun e => e.unit = .tce h.toNat ∧ e.op = .copy 2 src dst c) ∧
    (∀ op caps xs spans, copyPlan a b c s = .ok ((op, caps, xs, spans), s) →
      Issues s (.copy st d a b c h) d h.toNat s.regs.qmode fun e => e.unit = .tce h.toNat ∧ e.op = op ∧ e.caps = caps ∧ e.xs = xs) ∧
    (a.toNat < 16 → (s.old.rc a.toNat).psn = false → (s.old.rc a.toNat).tag = false →
      exec (.copy st d a b c h) s = .next (s.raise (.capTag a.toNat)))

/-- R312, R321, R322: SEND issues a copy of 16 to 256 bytes of scratchpad to a global address on its channel; CLOPEN opens a group on a send channel to a routed peer or to the device itself, CLCLOSE closes it, and CTX.QMODE shows it. -/
def Sys2Proof.Parts.SendForms : Prop :=
  ∀ (s : State) (st : Bool) (d a b : BitVec 6) (l : BitVec 4) (h : BitVec 2), Running s →
    (s.cmds.filter fun e => e.ctx / 2 = s.cur / 2 ∧ e.unit = CmdUnit.send h.toNat ∧ e.phase = .queued).length < 16 →
    let cap := s.old.rc a.toNat
    let x := s.old.rx b.toNat
    let len := 16 * (l.toNat + 1)
    let peer := (s.old.rx a.toNat).v.toNat % 2 ^ 14
    let bit : Word64 := (1 : Word64) <<< (12 + h.toNat)
    let opened := s.regs.qmode.getLsbD (12 + h.toNat)
    (cap.psn = false → x.psn = false → cap.base % 16 ≠ 0 →
      exec (.send st d a b l h) s = .next (s.raise (.align (BitVec.ofNat 64 cap.base)))) ∧
    (∀ p, Room s (9 + h.toNat) 1 → cap.psn = false → x.psn = false → cap.base % 16 = 0 → x.v.toNat % 16 = 0 →
      cap.check cap.base len permW = none → scratchPlace (s.cur / 2) x.v.toNat len = some p →
      Issues s (.send st d a b l h) d (9 + h.toNat) s.regs.qmode fun e => e.unit = .send h.toNat ∧
        e.op = .send cap.base p len (decide (cap.perm &&& permSN ≠ 0)) opened) ∧
    (Room s 17 1 → (s.old.rx a.toNat).psn = false → (s.routed peer = true ∨ peer = s.peer) → opened = false →
      Issues s (.clopen st d a h) d 17 (s.regs.qmode ||| bit) fun e => e.unit = .send h.toNat ∧ e.op = .clopen peer) ∧
    (Room s 17 1 → opened = true →
      Issues s (.clclose st d h) d 17 (s.regs.qmode &&& ~~~bit) fun e => e.unit = .send h.toNat ∧ e.op = .clclose) ∧
    (opened = false → exec (.clclose st d h) s = .next (s.raise (.prot 0)))

/-- R351 to R353: COLL reads its descriptor and participant list from the scratchpad, checks them, and issues the collective with three tokens on channel 15; a descriptor that is not valid raises COLL_LAYOUT. -/
def Sys2Proof.Parts.CollectiveIssue : Prop :=
  ∀ (s : State) (st : Bool) (d a b : BitVec 6) (p q : Nat), Running s → Room s 15 3 → d.toNat < 30 →
    let src := s.old.rc a.toNat
    let dst := s.old.rc (a.toNat + 1)
    let x := s.old.rx b.toNat
    let ds := s.peekN p 64
    let n := fieldOf ds 6 2
    let plist := (List.range n).map fun i => fieldOf (s.peekN q (2 * n)) (2 * i) 2
    let cohort := fieldOf ds 0 2
    let l := s.launchOf s.cur
    let task := s.regs.task.toNat
    let ord := l.colls.get 0 (cohort * 4096 + task)
    let known := s.collSets.find? fun t => t.launch = l.num ∧ t.cohort = cohort ∧ t.ord = ord
    let members := match known with | some t => t.tasks | none => s.collMembers l cohort
    let g := collOf ds plist s.peer members.length (members.findIdx (· = task)) l.num ord
    let bytes := fun layout => elemBytes (typeHalf g.type) (countAll (localExt g.extents g.sizes layout))
    let c := (s.ctx s.cur).chan 15
    let tok := fun i => (⟨BitVec.ofNat 6 15 ++ (c.next + BitVec.ofNat 26 i), false⟩ : Val 32)
    let list := fieldOf ds 0x30 4
    src.psn = false → dst.psn = false → x.psn = false → x.v.toNat % 16 = 0 → scratchPlace (s.cur / 2) x.v.toNat 64 = some p →
    poisonedAt s p 64 = false → list % 2 = 0 → scratchPlace (s.cur / 2) list (2 * n) = some q → poisonedAt s q (2 * n) = false →
    task ∈ members →
    (collValid ds plist s.peer members.length = false → exec (.coll st d a b) s = .next (s.raise { cause := 0x44, info := BitVec.ofNat 64 cohort })) ∧
    (collValid ds plist s.peer members.length = true → (∀ v ∈ plist, v = s.peer ∨ s.routed v = true) →
      src.check src.base (bytes g.src) permR = none → dst.check dst.base (bytes g.dst) permW = none →
      (s.cmds.filter fun e => e.unit = .coll).length < 64 →
      ∃ t e, exec (.coll st d a b) s = .next t ∧ GoesTo s t (s.ctx s.cur).issue.target ∧
        t.regs = { s.regs with t := t.regs.t } ∧ t.regs.rt d.toNat = tok 0 ∧ t.regs.rt (d.toNat + 1) = tok 1 ∧ t.regs.rt (d.toNat + 2) = tok 2 ∧
        (∀ m, m < d.toNat ∨ d.toNat + 2 < m → t.regs.rt m = s.regs.rt m) ∧
        ((t.ctx s.cur).chan 15).next = c.next + 3 ∧ SameBytes s t ∧
        t.cmds.getLast? = some e ∧ e.unit = .coll ∧ e.op = .coll g ∧ e.token = (tok 0).v)

/-- R280, R292, R293: the TREE forms check the pool's capability and issue their command on channel 13 for the pool's home STE. -/
def Sys2Proof.Parts.TreeForms : Prop :=
  ∀ (s : State) (st : Bool) (d a b : BitVec 6), Running s → Room s 13 1 →
    let cap := s.old.rc a.toNat
    let x := s.old.rx b.toNat
    let y := s.old.rx (b.toNat + 1)
    let core := s.cur / 2
    let issues := fun (i : Instr) (op : CmdOp) (xs : List Word64) => Issues s i d 13 s.regs.qmode fun e =>
      e.unit = .ste 0 ∧ e.op = op ∧ e.caps = [cap] ∧ e.xs = xs ∧ e.reg = a.toNat
    let slot := x.v.toNat % 2 ^ 8
    let k := x.v.toNat / 2 ^ 16 % 2 ^ 16
    cap.psn = false → x.psn = false →
    (cap.base % 128 ≠ 0 → exec (.trroot st d a b) s = .next (s.raise (.align (BitVec.ofNat 64 cap.base)))) ∧
    (cap.base % 128 = 0 → cap.check cap.base 0x12000 (permR ||| permW ||| permA) = none →
      (∀ p, x.v.toNat % 4 = 0 → scratchPlace core x.v.toNat 4 = some p → issues (.trsel st d a b) (.trsel p) [x.v]) ∧
      (y.psn = false → k = 0 → issues (.trexp st d a b) (.trexp slot 0 0) [x.v, y.v]) ∧
      (∀ p, y.psn = false → 0 < k → y.v.toNat % 4 = 0 → scratchPlace core y.v.toNat (4 * k) = some p →
        issues (.trexp st d a b) (.trexp slot k p) [x.v, y.v]) ∧
      (y.psn = false → issues (.trback st d a b) (.trback slot y.v false) [x.v, y.v] ∧
        issues (.trbackVo st d a b) (.trback slot y.v true) [x.v, y.v]) ∧
      issues (.trroot st d a b) (.trroot (x.v.toNat % 2 ^ 32)) [x.v] ∧
      (∀ p, x.v.toNat % 16 = 0 → scratchPlace core x.v.toNat 32 = some p →
        issues (.trpoolInit st d a b) (.trinit p) [x.v] ∧ issues (.trpoolParam st d a b) (.trparam p) [x.v]))

/-- R363, R366, R369: the AGE forms issue their command on channel 14 for the amplitude gate engines, at most 16 of which wait. -/
def Sys2Proof.Parts.QubitForms : Prop :=
  ∀ (s : State) (st : Bool) (d a b : BitVec 6) (n : BitVec 3) (k : BitVec 2), Running s → Room s 14 1 →
    let cap := s.old.rc a.toNat
    let x := s.old.rx a.toNat
    let y := s.old.rx b.toNat
    let waiting := (s.cmds.filter fun e => e.unit = .age ∧ e.phase = .queued).length
    let issues := fun (i : Instr) (op : CmdOp) (caps : List Cap) (xs : List Word64) => Issues s i d 14 s.regs.qmode fun e =>
      e.unit = .age ∧ e.op = op ∧ e.caps = caps ∧ e.xs = xs
    let v := y.v.toNat
    (16 ≤ waiting → Waits s (.qbmapEnd st d)) ∧
    (waiting < 16 →
      (x.psn = false → y.psn = false →
        issues (.qbgate st d a b n k) (.qbgate false k.toNat n.toNat x.v v) [] [x.v, y.v] ∧
        issues (.qbdiag st d a b n k) (.qbgate true k.toNat n.toNat x.v v) [] [x.v, y.v] ∧
        issues (.qbprob st d a b) (.qbprob x.v v) [] [x.v, y.v] ∧ issues (.qbcoll st d a b) (.qbcoll x.v v) [] [x.v, y.v]) ∧
      (cap.psn = false → cap.tag = true → y.psn = false → issues (.qbmap st d a b) (.qbmap v) [cap] [y.v]) ∧
      (y.psn = false → issues (.qbmapSet st d b) (.qbmapSet v) [] [y.v] ∧ issues (.qbmapGet st d b) (.qbmapGet v) [] [y.v] ∧
        issues (.qbnorm st d b) (.qbnorm v) [] [y.v]) ∧
      issues (.qbmapEnd st d) .qbmapEnd [] [] ∧
      (x.psn = false → issues (.qbswap st d a) (.qbswap x.v) [] [x.v]))

/-- R388, R390, R393, R394: TWAIT and TWAIT.CH complete when the token, or every token of the channel that had been given when the bundle issued, is satisfied, as an acquire, and wait before; TSTAT tells whether it is satisfied and whether the log holds its failure; TSTAT.LOG takes the oldest entry and clears OVF. -/
def Sys2Proof.Parts.TokenWaits : Prop :=
  ∀ (s : State) (st : Bool) (d a c : BitVec 6), Running s →
    let k := s.cur / 2
    let t := s.old.rt a.toNat
    let x := (s.ctx s.cur).chan (t.v.toNat / 2 ^ 26)
    let seq := t.v.extractLsb' 0 26
    let satisfied := ¬ (seq - x.w).toNat < (x.next - x.w).toNat
    let y := (s.ctx s.cur).chan c.toNat
    let upTo := (s.ctx s.cur).issue.nexts.get 0 c.toNat
    let all := upTo = y.w ∨ (y.next - y.w).toNat < (upTo - y.w).toNat
    let hit := x.log.find? fun e => e.1 = seq
    let word := fun (sat fail ovf : Nat) (cause : BitVec 8) (ch : Nat) (q : BitVec 26) =>
      BitVec.ofNat 64 (sat * 2 ^ 63 + fail * 2 ^ 62 + ovf * 2 ^ 61 + cause.toNat * 2 ^ 48 + ch * 2 ^ 26 + q.toNat)
    let acquires := fun (i : Instr) => Completes s i fun u => u.regs = s.regs ∧ (∀ b, u.peek b = s.peek b) ∧ (u.core k).l1 = []
    (t.psn = true → exec (.twait st a) s = .next (s.raise (.poison (regTag 5 a.toNat)))) ∧
    (t.psn = false → (satisfied → acquires (.twait st a)) ∧ (¬ satisfied → Waits s (.twait st a))) ∧
    (all → acquires (.twaitCh st c)) ∧ (¬ all → Waits s (.twaitCh st c)) ∧
    (t.psn = false → Completes s (.tstat st d a) fun u => OnlyX d.toNat s.regs u.regs ∧ (∀ b, u.peek b = s.peek b) ∧
      ((satisfied → (u.core k).l1 = []) ∧ (¬ satisfied → (u.core k).l1 = (s.core k).l1)) ∧
      ∀ sat : Bool, (sat = true ↔ satisfied) → u.regs.rx d.toNat = xAfter d
        ⟨word sat.toNat hit.isSome.toNat x.ovf.toNat (match hit with | some e => e.2 | none => 0) (t.v.toNat / 2 ^ 26) x.w, false⟩) ∧
    (∃ u, exec (.tstatLog st d c) s = .next u ∧ GoesTo s u (s.ctx s.cur).issue.target ∧ OnlyX d.toNat s.regs u.regs ∧
      (u.ctx s.cur).chan c.toNat = { y with log := y.log.tail, ovf := false } ∧
      u.regs.rx d.toNat = xAfter d ⟨(match y.log with
        | [] => word 0 0 y.ovf.toNat 0 c.toNat 0 | e :: _ => word 1 0 y.ovf.toNat e.2 c.toNat e.1), false⟩)

/-- R395, R396: WAITC completes when its counter is not above the threshold, and waits before. The counters count requests without an answer and vector slots that still wait; of engine commands those issued since the placement last came from a save, slots of the MX queue among them. -/
def Sys2Proof.Parts.CounterWait : Prop :=
  ∀ (s : State) (st : Bool) (a i : BitVec 6) (k : BitVec 2), Running s → (s.old.rx a.toNat).psn = false →
    let n := ((s.old.rx a.toNat).v + s.immZ i).toNat
    let inc := (s.ctx s.cur).inc
    let x := s.ctx s.cur
    let mine := s.reqs.filter fun r => r.ans.isNone && (match r.owner with
      | .slot k n => decide (k = s.cur ∧ n ≠ 40) | .posted i => decide (i = inc) | _ => false)
    let stands := x.older ++ [x.issue] ++ x.younger
    let images := [x.img1, x.img2].flatMap fun i => match i with | some i => i.older ++ [i.issue] | none => []
    let waiting := fun u => ((stands.flatMap (·.todo)).filter fun q => q.exu = u && q.globalForm).length
    let isLoad := fun r : Req => match r.act with | .read _ => true | _ => false
    let count := match k.toNat with
      | 0 => (mine.filter isLoad).length + waiting .vl
      | 1 => (mine.filter fun r => !isLoad r).length + waiting .vs + (s.parkedOf s.cur).length + (s.ctx s.cur).wc.length
      | 2 => (s.cmds.filter fun d => d.inc = inc ∧ x.since.1 ≤ d.id).length +
        (((stands ++ images).filter fun i => x.since.2 < i.num).flatMap fun i => i.todo.filter fun q => q.tok.isSome).length
      | _ => (mine.filter fun r => r.addr / 2 ^ 50 ≠ s.peer).length
    (count ≤ n → Gives s (.waitc st a i k) (· = s.regs)) ∧
    (n < count → ∃ t, exec (.waitc st a i k) s = .next t ∧ t.regs = s.regs ∧ (t.ctx s.cur).issue = (s.ctx s.cur).issue)

/-- R397 to R401: the barrier forms on an object of this device. BARINIT sets an object up for the members of a cohort; BARARR returns the phase and takes the context's arrival, the last of which opens the next phase; BAREXP adds to the bytes pending; BARWAIT waits for a phase beyond xB and returns it with LFAIL, BARTRY tests for it. -/
def Sys2Proof.Parts.Barriers : Prop :=
  ∀ (s : State) (st : Bool) (d a b : BitVec 6) (p : BitVec 7) (e : TlbEntry), Running s →
    let cap := s.old.rc a.toNat
    let x := s.old.rx b.toNat
    let o := physical e.leaf e.size cap.base % 2 ^ 50
    let l := s.launchOf s.cur
    let task := s.regs.task.toNat
    let scope := numberAt s (o + 2) 1
    let phase := numberAt s (o + 8) 8
    let remain := numberAt s (o + 4) 4
    let pending := numberAt s (o + 16) 8
    let flag := fun (u : State) i => (u.peek (o + 3)).v.getLsbD i
    let expect := fun (u : State) t => (u.peek (o + 64 + t / 8)).v.getLsbD (t % 8)
    let idle := s.parkedOf s.cur = [] ∧ s.postedOut s.cur (BitVec.ofNat 3 scope = 6) = false ∧ (s.ctx s.cur).wc = []
    let outside := fun t : State => ∀ y, (y < o ∨ o + 1024 ≤ y) → (t.peek y).v = (s.peek y).v
    let ends := fun (i : Instr) (Q : State → Prop) => ∃ t, exec i s = .next t ∧ GoesTo s t (s.ctx s.cur).issue.target ∧ outside t ∧ Q t
    cap.psn = false → cap.base % 1024 = 0 → cap.check cap.base 1024 (permR ||| permW ||| permA) = none → canonical cap.base = true → s.cowLine = [] →
    (s.tlb (s.cur / 2)).find? (fun e => e.maps l.asid cap.base) = some e → leafR e.leaf = true → leafW e.leaf = true → leafCow e.leaf = false →
    physical e.leaf e.size cap.base / 2 ^ 50 = s.peer → (region o = .sbm ∨ (region o = .hbm ∧ leafMs e.leaf = false)) →
    (x.psn = false → x.v.toNat / 2 ^ 16 % 8 < 5 → flag s 0 = false → s.bars.length < 1024 → l.count ≤ 4096 →
      (∀ t, t < l.count → cohortByte l (x.v.toNat % 2 ^ 16) t < o ∨ o + 1024 ≤ cohortByte l (x.v.toNat % 2 ^ 16) t) →
      let ms := s.members l (x.v.toNat % 2 ^ 16)
      ends (.barinit st a b) fun t => t.regs = s.regs ∧ numberAt t o 2 = x.v.toNat % 2 ^ 16 ∧ numberAt t (o + 2) 1 = x.v.toNat / 2 ^ 16 % 8 ∧
        flag t 0 = true ∧ numberAt t (o + 4) 4 = ms.length ∧ numberAt t (o + 8) 8 = 0 ∧ numberAt t (o + 16) 8 = 0 ∧
        ∀ i, i < 4096 → expect t i = decide (i ∈ ms)) ∧
    (idle → flag s 0 = true → numberAt s (o + 24) 2 = l.num → s.member l (numberAt s o 2) task = true → expect s task = true →
      ∀ en, s.bar? o = some en → en.phases = [] → en.deferred = [] →
      (2 ≤ remain → ends (.bararr st d a) fun t => OnlyX d.toNat s.regs t.regs ∧ t.regs.rx d.toNat = xAfter d ⟨BitVec.ofNat 64 phase, false⟩ ∧
        numberAt t (o + 4) 4 = remain - 1 ∧ numberAt t (o + 8) 8 = phase ∧ expect t task = false) ∧
      (remain = 1 → pending = 0 → ends (.bararr st d a) fun t => OnlyX d.toNat s.regs t.regs ∧
        t.regs.rx d.toNat = xAfter d ⟨BitVec.ofNat 64 phase, false⟩ ∧ numberAt t (o + 8) 8 = (phase + 1) % 2 ^ 64)) ∧
    (flag s 0 = false → idle → exec (.bararr st d a) s = .next (s.raise (.prot (BitVec.ofNat 64 o)))) ∧
    (x.psn = false → (s.old.rt d.toNat).psn = false →
      let done := (s.ctx s.cur).satisfied (s.old.rt d.toNat).v = true ∨ x.v = 0
      (done → Gives s (.barexp st d a b) (· = s.regs)) ∧
      (¬ done → pending + x.v.toNat < 2 ^ 63 → ends (.barexp st d a b) fun t => t.regs = s.regs ∧ numberAt t (o + 16) 8 = pending + x.v.toNat)) ∧
    (x.psn = false →
      (x.v.toNat < phase → (Completes s (.barwait st d a b) fun t => OnlyX d.toNat s.regs t.regs ∧ (∀ y, t.peek y = s.peek y) ∧
          t.regs.rx d.toNat = xAfter d ⟨BitVec.ofNat 64 ((flag s 2).toNat * 2 ^ 63 + phase), false⟩) ∧
        Completes s (.bartry st p a b) fun t => OnlyP p.toNat s.regs t.regs ∧ (∀ y, t.peek y = s.peek y) ∧ t.regs.rp p.toNat = pAfter p true) ∧
      (phase ≤ x.v.toNat → Waits s (.barwait st d a b) ∧
        Gives s (.bartry st p a b) fun r => OnlyP p.toNat s.regs r ∧ r.rp p.toNat = pAfter p false))

/-- R404 to R406: TRIGAT and TRIGCNT arm the lowest free trigger with a block of the scratchpad, or fire it at once when its threshold is reached; TRIGCAN takes an armed trigger away. -/
def Sys2Proof.Parts.Triggers : Prop :=
  ∀ (s : State) (st : Bool) (d a b : BitVec 6) (p : Nat) (e : TlbEntry), Running s →
    let cap := s.old.rc a.toNat
    let x := s.old.rx b.toNat
    let inc := (s.ctx s.cur).inc
    let l := s.launchOf s.cur
    let f := fun o n => numberAt s (p + o) n
    let thr := f 0 8
    let src := f 0x18 1
    let act := f 0x19 1
    let va := (cap.base + f 0x10 8) % 2 ^ 64
    let armed := fun i => ∃ t ∈ s.trigs, t.inc = inc ∧ t.id = i
    let trigger := fun (isTime : Bool) (i : Nat) => ({ inc, core := s.cur / 2, asid := l.asid, id := i, isTime, thresh := BitVec.ofNat 64 thr
                                                       chan := src, va := BitVec.ofNat 64 va, value := BitVec.ofNat 64 (f 8 8), add := decide (act = 1) } : Trigger)
    let arms := fun (j : Instr) (isTime : Bool) (now : Prop) => ∀ i, i < 8 → ¬ armed i → (∀ m, m < i → armed m) →
      ∃ t, exec j s = .next t ∧ GoesTo s t (s.ctx s.cur).issue.target ∧ OnlyX d.toNat s.regs t.regs ∧
        t.regs.rx d.toNat = xAfter d ⟨BitVec.ofNat 64 i, false⟩ ∧ (∀ y, t.peek y = s.peek y) ∧
        (now → t.fired = s.fired ++ [trigger isTime i] ∧ t.trigs = s.trigs) ∧
        (¬ now → t.trigs = s.trigs ++ [trigger isTime i] ∧ t.fired = s.fired)
    let id := (s.old.rx a.toNat).v.toNat % 8
    ((s.old.rx a.toNat).psn = false → ∃ t, exec (.trigcan st d a) s = .next t ∧ GoesTo s t (s.ctx s.cur).issue.target ∧
      OnlyX d.toNat s.regs t.regs ∧ (armed id → t.regs.rx d.toNat = xAfter d ⟨1, false⟩) ∧ (¬ armed id → t.regs.rx d.toNat = xAfter d ⟨0, false⟩) ∧
      ∀ tr, tr ∈ t.trigs ↔ tr ∈ s.trigs ∧ ¬ (tr.inc = inc ∧ tr.id = id)) ∧
    (cap.psn = false → x.psn = false → x.v.toNat % 16 = 0 → scratchPlace (s.cur / 2) x.v.toNat 32 = some p → poisonedAt s p 32 = false →
      act ≤ 1 → f 0x1A 6 = 0 → va % 8 = 0 → cap.check va 8 (if act = 1 then permW ||| permA else permW) = none → canonical va = true →
      (s.tlb (s.cur / 2)).find? (fun e => e.maps l.asid va) = some e → leafW e.leaf = true → (act = 1 → leafR e.leaf = true) →
      physical e.leaf e.size va / 2 ^ 50 = s.peer → region (physical e.leaf e.size va % 2 ^ 50) ∈ [Region.hbm, .sbm, .scratch] →
      (src = 0 → arms (.trigat st d a b) true (thr ≤ s.gt / 2 ^ 16)) ∧
      (src < 64 → thr < 2 ^ 26 → arms (.trigcnt st d a b) false ((((s.ctx s.cur).chan src).w - BitVec.ofNat 26 thr).toNat < 2 ^ 25)))

/-- R300 to R303: QDEPTH and QDEPTH.X set the queue depth, 1 to 64; QMODE and QMODEI the RW fields of CTX.QMODE; QSTAT reads a queue's stall count, state, capacity and occupancy. -/
def Sys2Proof.Parts.QueueControl : Prop :=
  ∀ (s : State) (st : Bool) (d a n : BitVec 6) (m : BitVec 12), Running s →
    let x := s.old.rx a.toNat
    let r0 := s.regs
    let c := s.ctx s.cur
    let core := s.cur / 2
    let mode := fun (v : BitVec 12) (r : Regs) => r = { r0 with qmode := (r0.qmode.extractLsb' 12 4 ++ v : BitVec 16).setWidth 64 }
    let deep := fun (n : Nat) (r : Regs) => r = { r0 with qdepth := BitVec.ofNat 7 n }
    let queued := fun u => (s.cmds.filter fun e => e.ctx / 2 = core ∧ e.unit = u ∧ e.phase = .queued).length
    let slots := fun u => (((c.older ++ [c.issue] ++ c.younger).flatMap (·.todo)).filter fun q => q.exu = u).length
    let stat := fun (n csr : Nat) (bound clasp strict : Bool) (cap occ : Nat) => ∀ i : BitVec 6, i.toNat = n →
      Gives s (.qstat st d i) fun r => OnlyX d.toNat r0 r ∧ r.rx d.toNat = xAfter d
        ⟨BitVec.ofNat 64 (((s.core core).perf.get 0 csr).toNat % 2 ^ 24 * 2 ^ 40 + bound.toNat * 2 ^ 34 + clasp.toNat * 2 ^ 33 +
          strict.toNat * 2 ^ 32 + cap * 2 ^ 16 + occ % 2 ^ 16), false⟩
    Gives s (.qdepth st n) (deep (n.toNat + 1)) ∧ Gives s (.qmodei st m) (mode m) ∧
    (x.psn = true → exec (.qdepthX st a) s = .next (s.raise (.poison (regTag 0 a.toNat)))) ∧
    (x.psn = false → Gives s (.qdepthX st a) (deep (min (max (x.v.toNat % 128) 1) 64)) ∧ Gives s (.qmode st a) (mode (x.v.extractLsb' 0 12))) ∧
    stat 0 0x110 false false false 64 (slots .vl) ∧ stat 1 0x111 false false false 64 (slots .va) ∧ stat 2 0x112 false false false 64 (slots .vs) ∧
    stat 3 0x113 false false false 16 (slots .mx) ∧
    (∀ h, h < 8 → stat (8 + h) (0x114 + h) false false (r0.qmode.getLsbD h) 32 (queued (.tce h))) ∧
    (∀ h, h < 4 → stat (16 + h) (0x11C + h) false (r0.qmode.getLsbD (12 + h)) (r0.qmode.getLsbD (8 + h)) 16 (queued (.send h))) ∧
    stat 20 0x128 false false false 16 (s.core core).replay.length ∧
    (∀ f, f < 8 → stat (24 + f) (0x120 + f) (r0.rf f).valid false false 512
      (if (r0.rf f).valid then (s.fifos.get [] (r0.rf f).endp.toNat).length else 0))

/-- R63 to R65: STEAL gives a waiting thief half of the victim's range, rounded down, from the top, so that no step is lost or made; STEAL_RETRY lets the waiting WTAKE make its pass again after a microsecond. A context that does not wait is left as it is. -/
def Sys2Proof.Parts.StealEvents : Prop :=
  ∀ (s : State) (thief victim : BitVec 12),
    let k := thief.toNat
    let v := victim.toNat
    let c := s.ctx k
    let w := s.ctx v
    let g := (w.regs.wrhi - w.regs.wrlo) / 2
    let starved := c.occ = .resident ∧ c.retry ≠ 0 ∧ ¬ c.regs.wrlo < c.regs.wrhi
    (starved → v ≠ k → w.occ = .resident → w.regs.launch = c.regs.launch → w.regs.wrlo < w.regs.wrhi → 2 ≤ (w.regs.wrhi - w.regs.wrlo).toNat →
      ∃ t, exec (.steal thief victim) s = .next t ∧
        t.ctx v = { w with regs := { w.regs with wrhi := w.regs.wrhi - g } } ∧
        t.ctx k = { c with retry := 0, regs := { c.regs with wrlo := w.regs.wrhi - g, wrhi := w.regs.wrhi } } ∧
        (∀ j, j ≠ k → j ≠ v → t.ctx j = s.ctx j) ∧ t = { s with ctxs := t.ctxs }) ∧
    (starved → c.retry ≤ s.gt → ∃ t, exec (.stealRetry thief) s = .next t ∧ t.ctx k = { c with retry := 0 } ∧
      (∀ j, j ≠ k → t.ctx j = s.ctx j) ∧ t = { s with ctxs := t.ctxs }) ∧
    (¬ starved ∨ s.gt < c.retry → exec (.stealRetry thief) s = .next s) ∧
    (¬ starved → exec (.steal thief victim) s = .next s)

/-- R60, R382: COLUMN_DISPATCH places the picked task in the column's first free bank: it is resident, its registers are those of R60, its entry leaves the ready list, and the dispatcher's WTAKE is to come. A column at its threshold places nothing. -/
def Sys2Proof.Parts.ColumnDispatch : Prop :=
  ∀ (s : State) (col : BitVec 4), s.reserved col.toNat = none →
    (s.threshold col.toNat ≤ s.occupancy col.toNat → exec (.columnDispatch col) s = .next s) ∧
    (s.occupancy col.toNat < s.threshold col.toNat → ∀ k e passed l, s.firstFree col.toNat = some k → s.pick col.toNat = some (e, passed) →
      e.saved = none → s.launch? e.launch = some l →
      ∃ t, exec (.columnDispatch col) s = .next t ∧ (t.ctx k).occ = .resident ∧ (t.ctx k).placing = true ∧ (t.ctx k).placedAt = s.gt ∧
        (t.ctx k).inc = s.nextInc ∧ t.nextInc = s.nextInc + 1 ∧ (t.ctx k).gen = (s.ctx k).gen + 1 ∧
        (let r := (t.ctx k).regs
         let h := (l.held.find? fun h => h.task = e.task).getD ⟨e.task, 0, 0⟩
         r.launch = BitVec.ofNat 16 e.launch ∧ r.task = BitVec.ofNat 12 e.task ∧ r.prio = BitVec.ofNat 2 e.prio ∧ r.qdepth = 64 ∧
         r.wrlo = BitVec.ofNat 41 h.lo ∧ r.wrhi = BitVec.ofNat 41 h.hi ∧ r.openStep = false ∧ r.mode = 0 ∧
         r.rc 0 = { bits := l.arg, tag := true } ∧ (∀ n, n ≠ 0 → r.rc n = {}) ∧ (∀ n, r.rx n = ⟨0, false⟩) ∧
         (∀ n m, r.rv n m = ⟨0, false⟩) ∧ r.mask = []) ∧
        ∀ f ∈ t.ready, ¬ (f.launch = e.launch ∧ f.task = e.task))

/-- R383, R385, R77: TASK_AGING moves an entry that has waited AGE up one priority; PREEMPT_REQUEST names the head entry in its victim; FORCED_SAVE saves the victim after GRACE, once it is quiet; SAVE_COMPLETE empties the bank and puts the context in its list. -/
def Sys2Proof.Parts.PreemptionEvents : Prop :=
  ∀ (s : State) (launch : BitVec 16) (task ctx : BitVec 12) (p : BitVec 2),
    let k := ctx.toNat
    let c := s.ctx k
    (∃ t, exec (.taskAging launch task) s = .next t ∧ t = { s with ready := t.ready } ∧ t.ready.length = s.ready.length ∧
      ∀ (i : Nat) (e : Ready), s.ready[i]? = some e → t.ready[i]? = some (
        if e.launch = launch.toNat ∧ e.task = task.toNat ∧ s.aging ≠ 0 ∧ e.prio ≠ 0 ∧ e.since + s.aging * 65536000 ≤ s.gt then
          { e with prio := e.prio - 1, since := s.gt } else e)) ∧
    (∀ e j, s.wants p.toNat = some (e, j) → ∃ t, exec (.preemptRequest p) s = .next t ∧
      t.ctx j = { s.ctx j with preempt := some { at_ := s.gt, launch := e.launch, task := e.task } } ∧
      (∀ m, m ≠ j → t.ctx m = s.ctx m) ∧ t = { s with ctxs := t.ctxs }) ∧
    (s.wants p.toNat = none → exec (.preemptRequest p) s = .next s) ∧
    (∀ r, c.preempt = some r → c.occ = .resident → c.halt = 0 → r.at_ + s.grace * 65536000 ≤ s.gt → s.quiet k = true →
      ∃ t, exec (.forcedSave ctx) s = .next t ∧ (t.ctx k).occ = .saving ∧ (∀ m, m ≠ k → t.ctx m = s.ctx m) ∧
        t.saving.length = s.saving.length + 1 ∧ (t.saving.getLast?.map fun v => (v.ctx, v.wanted, v.entry.launch, v.entry.task)) =
          some (k, some (r.launch, r.task), (s.launchOf k).num, c.regs.task.toNat)) ∧
    (c.preempt = none → exec (.forcedSave ctx) s = .next s) ∧
    (∀ v l, s.saving.find? (fun v => v.ctx = k) = some v → s.launch? v.entry.launch = some l → l.faulted = false → v.wanted = none →
      ∃ t, exec (.saveComplete ctx) s = .next t ∧ (t.ctx k).occ = .none ∧ (t.ctx k).regs = { a := c.regs.a } ∧
        (∀ m, m ≠ k → t.ctx m = s.ctx m) ∧ (∀ w ∈ t.saving, w.ctx ≠ k) ∧
        { v.entry with arrival := s.gt, since := s.gt } ∈ t.ready ∧ ∀ e ∈ s.ready, e ∈ t.ready)

/-- R145: TRANS_COMPLETE makes a PENDING handle VALID with what the TLB held at issue, or with what a translation gives; a walk that fails makes it EMPTY with its cause. No other register changes. -/
def Sys2Proof.Parts.TransComplete : Prop :=
  ∀ (s : State) (ctx : BitVec 12) (n : BitVec 4),
    let k := ctx.toNat
    let c := s.ctx k
    let h := c.regs.rh n.toNat
    let va := h.page.toNat
    let becomes := fun (g : Handle) => ∃ t, exec (.transComplete ctx n) s = .next t ∧ (t.ctx k).regs = { c.regs with h := (t.ctx k).regs.h } ∧
      (t.ctx k).regs.rh n.toNat = g ∧ (∀ m, m ≠ n.toNat → (t.ctx k).regs.rh m = c.regs.rh m) ∧ ∀ j, j ≠ k → t.ctx j = s.ctx j
    (c.occ = .resident → h.st = .pending →
      (h.leaf ≠ 0 → becomes { h with st := .valid }) ∧
      (h.leaf = 0 → canonical va = true → ∀ e, (s.tlb (k / 2)).find? (fun e => e.maps (s.launchOf k).asid va) = some e →
        becomes { st := .valid, page := BitVec.ofNat 64 (va / pageBytes e.size * pageBytes e.size), size := e.size, leaf := e.leaf }) ∧
      (h.leaf = 0 → canonical va = false → becomes { h with st := .empty, walk := .failed 0x22 })) ∧
    (c.occ ≠ .resident ∨ h.st ≠ .pending → exec (.transComplete ctx n) s = .next s)

/-- R251: REPLAY_DEPART of the part of a parked store on a page translates again, stores its bytes, and takes the part out of its entry; an entry without a part left leaves its queue. -/
def Sys2Proof.Parts.ReplayDepart : Prop :=
  ∀ (s : State) (core : BitVec 11) (n : BitVec 4) (e : Parked) (va m : Nat) (f : Nat → Byte) (nt : Bool) (entry : TlbEntry),
    let page := va / 0x10000
    (s.departing core.toNat)[n.toNat]? = some (e, page) → e.ctx / 2 = core.toNat → 0 < m → va % 0x10000 + m ≤ 0x10000 → e.home = none →
    (∀ r ∈ s.reqs, r.owner ≠ .replay e.ctx e.num) → s.cowLine = [] →
    e.op = .store ((List.range m).map fun i => (va + i, ⟨f i, false⟩)) nt → canonical va = true →
    (s.tlb core.toNat).find? (fun x => x.maps (s.launchOf e.ctx).asid va) = some entry → leafW entry.leaf = true →
    leafCow entry.leaf = false → (leafOrd entry.leaf = 0 → s.soBefore e page = false) →
    let q := physical entry.leaf entry.size va % 2 ^ 50
    physical entry.leaf entry.size va / 2 ^ 50 = s.peer → region q ∈ [Region.hbm, .sbm, .scratch] →
    ∃ t, exec (.replayDepart core n) s = .next t ∧ StoredAt s t q m f ∧
      (∀ r, r.num ≠ e.num → (r ∈ (t.core core.toNat).replay ↔ r ∈ (s.core core.toNat).replay ∧ r.parts ≠ [])) ∧
      (∀ r ∈ (t.core core.toNat).replay, r.num = e.num → ∀ x ∈ r.parts, x.1 ≠ page) ∧ ∀ k, t.ctx k = s.ctx k

/-- R223: SHOOTDOWN drops the TLB entries and L1 lines of its range, makes its handles STALE, drains the buffered host stores of the address space, and sets BUSY; SHOOTDOWN_COMPLETE clears BUSY once no access, merge, pin or staged translation of the range is left. -/
def Sys2Proof.Parts.Shootdown : Prop :=
  ∀ (s : State) (v : Word64),
    let x : Shoot := { asid := v.toNat % 256, all := v.getLsbD 62, page := (s.csr 0x810).toNat / 2 ^ 16 % 2 ^ 41
                       count := v.toNat / 256 % 2 ^ 32, before := 0 }
    ((s.csr 0x818).getLsbD 63 = true → exec (.shootdown v) s = .next s) ∧
    ((s.csr 0x818).getLsbD 63 = false → (x.all = true ∨ 0 < x.count) → ∃ t, exec (.shootdown v) s = .next t ∧
      t.shoot = some { x with before := t.nextReq } ∧ (∀ k, (s.launchOf k).asid = x.asid → (t.ctx k).wc = []) ∧ t.csr 0x818 = (v &&& 0x400000FFFFFFFFFF) ||| 0x8000000000000000 ∧
      (∀ u e, e ∈ t.tlb u ↔ e ∈ s.tlb u ∧ x.hitsPage e.asid e.page e.size = false) ∧
      (∀ c l, l ∈ (t.core c).l1 ↔ l ∈ (s.core c).l1 ∧ x.hits l.2.asid l.2.page = false) ∧
      (∀ k n, let h := (s.ctx k).regs.rh n
        (t.ctx k).regs.rh n = if (s.launchOf k).asid = x.asid ∧ (h.st = .valid ∨ h.st = .pending) ∧
          x.hitsPage x.asid h.page.toNat h.size = true then { h with st := .stale } else h) ∧ ∀ a, t.peek a = s.peek a) ∧
    (∀ y, s.shoot = some y → s.shootDone y = true → ∃ t, exec .shootdownComplete s = .next t ∧ t.shoot = none ∧
      t.csr 0x818 = s.csr 0x818 &&& 0x7FFFFFFFFFFFFFFF ∧ t.ctxs = s.ctxs ∧ t.mem = s.mem) ∧
    (∀ y, s.shoot = some y → s.shootDone y = false → exec .shootdownComplete s = .next s)

/-- R226 to R228: COW_COPY copies a page for which a writer waits to the lowest free pool page; COW_COPY_COMPLETE logs it, advances the log's head, and takes COW out of the TLBs. The writes of SNAP.RETURN, LOG_TAIL, LOG_BASE and POOL_PAGES. -/
def Sys2Proof.Parts.SnapshotEvents : Prop :=
  ∀ (s : State) (asid : BitVec 8) (page : BitVec 48) (v : Word64),
    let n := asid.toNat
    let va := page.toNat * 0x10000
    let head := (s.csr 0x920).toNat
    let tail := (s.csr 0x930).toNat % 2 ^ 32
    (∀ leaf size i u at_, s.cowWaits n page.toNat = true → s.copying n va = false → s.pte n va = (u, .ok leaf size, at_) → leafCow leaf = true →
      s.poolReady = true → i < (s.csr 0x908).toNat % 2 ^ 32 → s.pool.contains i = false → (∀ j, j < i → s.pool.contains j = true) →
      let a := physical leaf size va % 2 ^ 50
      let dst := (s.csr 0x900).toNat / 0x10000 * 0x10000 % 2 ^ 50 + i * 0x10000
      s.inHbm (physical leaf size va) = true → region a = .hbm → region dst = .hbm →
      ∃ t, exec (.cowCopy asid page) s = .next t ∧ StoredAt s t dst 0x10000 (fun j => (s.peek (a + j)).v) ∧
        t.copies = s.copies ++ [⟨n, page.toNat, i, 0x10000⟩] ∧ t.pool.contains i = true ∧ t.csr 0x910 = BitVec.ofNat 64 t.pool.length) ∧
    (∀ c, s.copies.find? (fun c => decide (c.asid = n ∧ c.page = page.toNat ∧ c.pos = 0x10000)) = some c →
      ∃ t, exec (.cowCopyComplete asid page) s = .next t ∧ t.csr 0x920 = BitVec.ofNat 64 ((head + 1) % 2 ^ 32) ∧
        (∀ d, d ∈ t.copies ↔ d ∈ s.copies ∧ d ≠ c) ∧ (n, page.toNat) ∉ t.cowWant ∧
        ∀ u e, e ∈ t.tlb u → e.maps n va = true → leafCow e.leaf = false) ∧
    (∃ t, exec (.snapReturn v) s = .next t ∧ (∀ i, t.pool.contains i = (s.pool.contains i && decide (i ≠ v.toNat % 2 ^ 32))) ∧
      t.csr 0x910 = BitVec.ofNat 64 t.pool.length) ∧
    ((head % 2 ^ 32 + 2 ^ 32 - tail) % 2 ^ 32 < (v.toNat % 2 ^ 32 + 2 ^ 32 - tail) % 2 ^ 32 → exec (.snapLogTailWrite v) s = .next s) ∧
    ((v.toNat % 2 ^ 32 + 2 ^ 32 - tail) % 2 ^ 32 ≤ (head % 2 ^ 32 + 2 ^ 32 - tail) % 2 ^ 32 →
      ∃ t, exec (.snapLogTailWrite v) s = .next t ∧ t.csr 0x930 = BitVec.ofNat 64 (v.toNat % 2 ^ 32) ∧ ∀ o, o ≠ 0x930 → t.csr o = s.csr o) ∧
    (∃ t, exec (.snapLogBaseWrite v) s = .next t ∧ t.csr 0x918 = v &&& 0xFFFFFFFFFFFFFFF0 ∧ t.csr 0x920 = 0 ∧ t.csr 0x930 = 0 ∧
      ∀ o, o ∉ [0x918, 0x920, 0x930] → t.csr o = s.csr o) ∧
    (s.pool = [] → ∃ t, exec (.snapPoolPagesWrite v) s = .next t ∧ t.csr 0x908 = v &&& 0xFFFFFFFF ∧ t.csr 0x920 = 0 ∧ t.csr 0x930 = 0 ∧
      ∀ o, o ∉ [0x908, 0x920, 0x930] → t.csr o = s.csr o) ∧
    (s.pool ≠ [] → exec (.snapPoolPagesWrite v) s = .next s)

/-- R280, R305, R312, R351, R363, R390: an engine command starts once it may: its DEPS tokens are satisfied, and it is at the head of its queue. The SEND of a channel then stores its bytes; a tree command goes to the STE of its pool's home column; a collective pins its pages; an AGE command takes the next SEQ. -/
def Sys2Proof.Parts.EngineStarts : Prop :=
  ∀ (s : State) (n : Nat) (c : Cmd), s.cmd? n = some c → c.fail = none →
    let starts := fun (j : Instr) (P : State → Cmd → Prop) => ∃ t e, exec j s = .next t ∧ t.cmd? n = some e ∧
      (∀ m, m ≠ n → t.cmd? m = s.cmd? m) ∧ t.ctxs = s.ctxs ∧ P t e
    let running : Cmd := { c with phase := .running, since := s.gt }
    let ctl := s.csr 0xC00
    ((∃ d ∈ c.deps, s.tokenDone c.inc d = false) → ∀ j ∈ [Instr.tceCommandStart n, .sendChannelStart n, .steCommandStart n,
      .ageCommandStart n, .bangleCollStart n], exec j s = .next s) ∧
    (s.startable c = true →
      (∀ h, c.unit = .tce h → starts (.tceCommandStart n) fun t e => e = running ∧ ∀ a, t.peek a = s.peek a) ∧
      (∀ h va src len sn p, c.unit = .send h → c.op = .send va src len sn false → 0 < len → s.cowLine = [] → Leads s tlbOfu c.asid va len p false true →
        starts (.sendChannelStart n) fun t e => e = { running with phase := .stopped, prog := len } ∧
          StoredAt s t p len fun i => (s.peek (src + i)).v) ∧
      (∀ col p, c.unit = .ste col → Leads s (tlbSte (c.ctx / 256)) c.asid c.cap.base 1 p false false → region p ≠ .scratch →
        starts (.steCommandStart n) fun t e => (∀ a, t.peek a = s.peek a) ∧
          e = { running with path := [s.peer * 2 ^ 50 + p], unit := .ste (homeColumn p) }) ∧
      (∀ d p q, c.unit = .coll → c.op = .coll d → s.notes = [] → s.cowLine = [] →
        let x := c.cap
        let y := c.caps.getD 1 {}
        let ext := localExt d.extents d.sizes d.src
        let nx := elemBytes (typeHalf d.type) (countAll ext)
        let ny := elemBytes (typeHalf d.type) (countAll (localExt d.extents d.sizes d.dst))
        0 < nx → 0 < ny → Leads s tlbOfu c.asid x.base nx p true false → Leads s tlbOfu c.asid y.base ny q false true →
        starts (.bangleCollStart n) fun t e => (∀ a, t.peek a = s.peek a) ∧
          e = { running with pos := 0, coll := some { extents := ext } } ∧
          t.pins = s.pins ++ [(some n, c.asid, x.base / 0x10000), (some n, c.asid, y.base / 0x10000)]) ∧
      (c.unit = .age → starts (.ageCommandStart n) fun t _ => (∀ d, c.op ≠ .qbmap d) →
        t.csr 0xC08 = BitVec.ofNat 64 (((s.csr 0xC08).toNat + 1) % 2 ^ 40)) ∧
      (c.unit = .age → c.op = .qbmapEnd → ctl.getLsbD 63 = true → (ctl.extractLsb' 16 12).toNat = c.task → (ctl.extractLsb' 0 16).toNat = c.launch →
        starts (.ageCommandStart n) fun t e => e = { running with age := some { seq := ((s.csr 0xC08).toNat + 1) % 2 ^ 40 } } ∧
          t.csr 0xC00 = ctl &&& 0x7FFFFFFFFFFFFFFF ∧ (∀ i, i < 64 → t.qmap i = 0xFF) ∧ ∀ x, x ∈ t.pins ↔ x ∈ s.pins ∧ x.1 ≠ none) ∧
      (c.unit = .age → c.op = .qbmapEnd → ctl.getLsbD 63 = false → c.inc ≠ 0 →
        starts (.ageCommandStart n) fun t e => e.phase = .stopped ∧ e.fail = some (.prot 0) ∧ t.csr 0xC00 = ctl))

/-- R196, R390, R392, R421: COMMAND_FINISH takes a stopped command out: its channel's watermark passes it, or counts it as finished above an older one; a failure is logged, and recorded for the context, a sixteenth being lost. NEST_COMPLETE also ends the lease. -/
def Sys2Proof.Parts.CommandFinish : Prop :=
  ∀ (s : State) (n k : Nat) (c : Cmd), s.cmd? n = some c → Holds s c.inc k →
    let ch := tokenChan c.token
    let seq := tokenSeq c.token
    let x := (s.ctx k).chan ch
    let y := match c.fail with | some f => x.fail seq f.cause | none => x
    let record := fun f : Trap => ({ cause := f.cause, addr := f.addr, info := f.info, token := c.token, issue := c.issue
                                     prog := BitVec.ofNat 40 c.prog, oper := c.oper } : AsyncRec)
    let finishes := fun (j : Instr) (nrun : Bool) => ∃ t, exec j s = .next t ∧ t.cmd? n = none ∧ (∀ m, m ≠ n → t.cmd? m = s.cmd? m) ∧
      (∀ i, i ≠ k → t.ctx i = s.ctx i) ∧ (∀ a, t.peek a = s.peek a) ∧
      ((seq - x.w).toNat < (x.next - x.w).toNat → seq ∉ x.done →
        (seq = x.w → x.done = [] → (t.ctx k).chan ch = { y with w := x.w + 1, bad := [] }) ∧
        (seq ≠ x.w → x.w ∉ x.done → (t.ctx k).chan ch = { y with
          done := x.done ++ [seq]
          bad := (if c.fail.isSome then x.bad ++ [seq] else x.bad).filter (x.done ++ [seq]).contains })) ∧
      (∀ i, i ≠ ch → (t.ctx k).chan i = (s.ctx k).chan i) ∧
      (c.fail = none → (t.ctx k).pend = (s.ctx k).pend ∧ (t.ctx k).regs = { (s.ctx k).regs with nrun }) ∧
      ∀ f, c.fail = some f →
        ((s.ctx k).pend.length < 15 → (t.ctx k).pend = (s.ctx k).pend ++ [record f] ∧ (t.ctx k).regs = { (s.ctx k).regs with nrun }) ∧
        (15 ≤ (s.ctx k).pend.length → (t.ctx k).pend = (s.ctx k).pend ∧ (t.ctx k).regs = { (s.ctx k).regs with nrun, lost := true })
    (c.phase = .stopped → (∀ h, c.unit = .tce h → (∃ half src dst scope, c.op = .copy half src dst scope) →
      finishes (.commandFinish n) (s.ctx k).regs.nrun) ∧ (c.unit = .nest → finishes (.nestComplete n) false)) ∧
    (c.phase ≠ .stopped → exec (.commandFinish n) s = .next s ∧ exec (.nestComplete n) s = .next s)

/-- R283, R285, R291: RESERVE_SLOT gives a waiting TRSEL the lowest free slot of its pool, which it marks, counting it in INUSE, and leaves it waiting while 256 are in use. BATCH_TIMEOUT closes the open batch when its time has come. END_OF_WALK clears WALK, and joins the blocks it has pushed to the front of the free list. -/
def Sys2Proof.Parts.TreeEvents : Prop :=
  ∀ (s : State) (n p : Nat) (c : Cmd), s.cmd? n = some c → c.fail = none →
    let base := c.cap.base
    let word := fun o => numberAt s (p + o) 4
    let used := word 0x34
    let flags := fun i => (s.peek (p + 0x1005 + 16 * i)).v
    let free := fun i => (flags i).getLsbD 0 = false ∧ (flags i).getLsbD 3 = false
    let at_ := fun (o m : Nat) (a : Nat) => p + o ≤ a ∧ a < p + o + m
    s.cowLine = [] → (∀ e ∈ s.llc, p / 128 ≤ e.1 → e.1 < (p + 0x2000) / 128 → ∀ x ∈ e.2.dramPsn, x = false) →
    base % 0x10000 = 0 → c.cap.check base 0x12000 permR = none → Leads s (tlbSte c.steCol) c.asid base 0x10000 p true true →
    region p ≠ .scratch → region p = region (c.poolPa % 2 ^ 50) → poisonedAt s p 128 = false → poisonedAt s (p + 0x1000) 0x1000 = false →
    (s.peek p).v.getLsbD 7 = true →
    (∀ res, c.op = .trsel res → c.phase = .waiting → c.pos = 0 →
      (256 ≤ used → ∃ t, exec (.reserveSlot n) s = .next t ∧ t.cmd? n = some c ∧ SameBytes s t) ∧
      (used < 256 → ∀ i, i < 256 → free i → (∀ j, j < i → ¬ free j) → ∃ t e r, exec (.reserveSlot n) s = .next t ∧
        t.cmd? n = some e ∧ e.phase = .running ∧ e.pos = 1 ∧ e.tree = some r ∧ r.slot = i ∧ r.path = [word 0x20] ∧ t.ctxs = s.ctxs ∧
        ∀ a, (t.peek a).v = if a = p + 0x1005 + 16 * i then (s.peek a).v ||| 8 else if at_ 0x34 4 a then byteOf (used + 1) (a - p - 0x34)
          else (s.peek a).v)) ∧
    (∀ res r, c.op = .trsel res → c.phase = .waiting → c.pos = 5 → c.tree = some r →
      (s.gt / 2 ^ 16 < r.due → exec (.batchTimeout n) s = .next s) ∧
      (r.due ≤ s.gt / 2 ^ 16 → ∃ t, exec (.batchTimeout n) s = .next t ∧ t.ctxs = s.ctxs ∧
        (∀ m e, s.cmd? m = some e → t.cmd? m = some (if e.poolPa = c.poolPa ∧ e.phase = .waiting ∧ e.pos = 5 ∧
          (match e.op with | .trsel _ => true | _ => false) = true then { e with phase := .stopped } else e)) ∧
        ∀ a, (t.peek a).v = if at_ 0x40 4 a then 0 else if at_ 0x3C 4 a then byteOf (word 0x3C + 1) (a - p - 0x3C) else (s.peek a).v)) ∧
    (∀ r, c.op = .trwalk → c.tree = some r → r.walk = [] →
      let mode := fun a : Nat => if a = p then (s.peek a).v &&& 0xBF else (s.peek a).v
      (r.pushed = [] → ∃ t, exec (.endOfWalk n) s = .next t ∧ t.cmd? n = none ∧ t.ctxs = s.ctxs ∧
        ∀ a, (t.peek a).v = if at_ 0x2C 4 a then 0xFF else if at_ 0x30 4 a then 0 else mode a) ∧
      (∀ b bs q0, r.pushed = b :: bs → b * r.blk < r.nodes →
        let va := base + 0x12000 + 32 * (b * r.blk)
        let q := q0 + 0x14
        c.cap.check va 32 permR = none → Leads s (tlbSte c.steCol) c.asid va 32 q0 false true → region q = region p → q / 0x10000 ≠ p / 0x10000 →
        ∃ t, exec (.endOfWalk n) s = .next t ∧ t.cmd? n = none ∧ t.ctxs = s.ctxs ∧
          ∀ a, (t.peek a).v = if q ≤ a ∧ a < q + 4 then byteOf (word 0x24) (a - q) else if at_ 0x24 4 a then byteOf (word 0x2C) (a - p - 0x24)
            else if at_ 0x28 4 a then byteOf (word 0x28 + r.pushed.length) (a - p - 0x28) else if at_ 0x2C 4 a then 0xFF
            else if at_ 0x30 4 a then 0 else mode a))

/-- R401, R405: TRIGGER_FIRE performs the write of the first fired trigger, an add or a store of 8 bytes, or counts a miss; BARRIER_SUBTRACT takes a finished command's bytes from PENDING, and FAIL is set when it failed. R402: GT_STEP advances GT while SYNC_LOST holds, and the time triggers it crosses fire in the order of their thresholds. R355: COLL_TIMEOUT fails a collective that makes no progress; HOLD_TIMER sends a HOLD record for one that this device cannot join yet, to a device that may be this one. -/
def Sys2Proof.Parts.SyncEvents : Prop :=
  ∀ (s : State),
    (s.fired = [] → exec .triggerFire s = .next s) ∧ (s.subs = [] → exec .barrierSubtract s = .next s) ∧
    (∀ f fs p, s.fired = f :: fs → f.va.toNat % 8 = 0 → s.cowLine = [] → Leads s f.core f.asid f.va.toNat 8 p f.add true → poisonedAt s p 8 = false →
      ∃ t, exec .triggerFire s = .next t ∧ t.fired = fs ∧ t.ctxs = s.ctxs ∧ t.trigs = s.trigs ∧
        StoredAt s t p 8 (byteOf (if f.add = true then numberAt s p 8 + f.value.toNat else f.value.toNat))) ∧
    (∀ f fs e, s.fired = f :: fs → f.va.toNat % 8 = 0 → canonical f.va.toNat = true →
      (s.tlb f.core).find? (fun e => e.maps f.asid f.va.toNat) = some e → leafW e.leaf = false →
      ∃ t, exec .triggerFire s = .next t ∧ t.fired = fs ∧ (t.core f.core).perf.get 0 0x147 = (s.core f.core).perf.get 0 0x147 + 1 ∧
        ∀ a, t.peek a = s.peek a) ∧
    (∀ o m fails rest, s.subs = (o, m, fails) :: rest → o % 1024 = 0 → region o ∈ [Region.hbm, .sbm] → m < numberAt s (o + 16) 8 →
      ∃ t, exec .barrierSubtract s = .next t ∧ t.subs = rest ∧ t.ctxs = s.ctxs ∧ t.bars = s.bars ∧
        ∀ a, (t.peek a).v = if o + 16 ≤ a ∧ a < o + 24 then byteOf (numberAt s (o + 16) 8 - m) (a - o - 16)
          else if a = o + 3 ∧ fails = true then ((s.peek a).v &&& 5) ||| 2 else (s.peek a).v) ∧
    (∀ x : Word64, (s.syncLost = false → exec (.gtStep x) s = .next s) ∧
      (s.syncLost = true →
        let hit := fun g : Trigger => g.isTime = true ∧ g.thresh ≤ BitVec.ofNat 64 ((s.gt + x.toNat) / 2 ^ 16)
        ∃ t new, exec (.gtStep x) s = .next t ∧ t.gt = s.gt + x.toNat ∧ t.ctxs = s.ctxs ∧ t.mem = s.mem ∧ t.fired = s.fired ++ new ∧
          (∀ g, g ∈ t.trigs ↔ g ∈ s.trigs ∧ ¬ hit g) ∧ (∀ g, g ∈ new ↔ g ∈ s.trigs ∧ hit g) ∧
          new.Pairwise fun a b => a.thresh.toNat ≤ b.thresh.toNat)) ∧
    (∀ n c d, s.cmd? n = some c → c.op = .coll d → c.fail = none → c.phase = .running →
      let limit := (s.csr 0x100098).toNat % 2 ^ 32 * 65536000
      (s.gt - c.since < limit → exec (.collTimeout n) s = .next s) ∧
      (limit ≤ s.gt - c.since → ∃ t, exec (.collTimeout n) s = .next t ∧
        t.cmd? n = some { c with phase := .stopped, fail := some { cause := 0x43, info := BitVec.ofNat 64 d.cohort } } ∧
        (∀ m, m ≠ n → t.cmd? m = s.cmd? m) ∧ ∀ a, t.peek a = s.peek a)) ∧
    (∀ m, s.notes = [m] → m.src < 2 ^ 14 → m.digest.isSome = true → m.id < 2 ^ 63 → s.collFor m.id = none → s.roomFor m.src false 0 = true →
      (s.gt < m.heldAt + 65536000 → exec (.holdTimer m.id (BitVec.ofNat 14 m.src)) s = .next s) ∧
      (m.heldAt + 65536000 ≤ s.gt → ∃ t, exec (.holdTimer m.id (BitVec.ofNat 14 m.src)) s = .next t ∧ t.notes = [{ m with heldAt := s.gt }] ∧
        (m.src = s.peer → t.inbox = s.inbox ++ [{ src := m.src, rec_ := { rtype := 12, aux := 3, data := m.id } }]) ∧
        (m.src ≠ s.peer → (t.link m.src).next = ((s.link m.src).next + 1) % 2 ^ 19)))

/-- R326, R373, R377: ZHOASK_FETCH takes the entry of the queue whose turn it is: HEAD is one more, and the command is accepted with the commands it depends on; an entry that breaks R373 completes with BADCMD. A queue that is overrun sets OVR; one that is not enabled, or empty, is left as it is. -/
def Sys2Proof.Parts.ZhoaskFetch : Prop :=
  ∀ (s : State) (q : BitVec 6) (entry : BitVec 512),
    let n := q.toNat
    let ctl := s.csr (0x40008 + 0x20 * n)
    let head := (s.csr (0x40010 + 0x20 * n)).toNat % 2 ^ 32
    let tail := (s.csr (0x40018 + 0x20 * n)).toNat % 2 ^ 32
    let log := ctl.toNat % 32
    let byte := entryField entry
    let handles := (List.range (byte 2 1)).map fun i => (byte (0x10 + 2 * i) 2 % 4096, (byte (0x10 + 2 * i) 2).testBit 15)
    let good := byte 0 1 = 2 ∧ byte 1 1 < 4 ∧ byte 2 1 ≤ 6 ∧ byte 8 8 % 8 = 0 ∧ byte 0x1C 4 = 0 ∧ byte 0x38 8 = 0 ∧
      (∀ i, i < byte 2 1 → byte (0x10 + 2 * i) 2 / 4096 % 8 = 0) ∧ ∀ i, byte 2 1 ≤ i → i < 6 → byte (0x10 + 2 * i) 2 = 0
    let accepts := fun (P : CpCmd → Prop) => ∃ t e, exec (.zhoaskFetch q entry) s = .next t ∧ t.cps = s.cps ++ [e] ∧ e.id = s.nextCp ∧
      e.queue = n ∧ e.entry = entry ∧ t.nextCp = s.nextCp + 1 ∧ t.csr (0x40010 + 0x20 * n) = BitVec.ofNat 64 ((head + 1) % 2 ^ 32) ∧
      (∀ o, o ≠ 0x40010 + 0x20 * n → t.csr o = s.csr o) ∧ P e
    (ctl.getLsbD 63 = false ∨ ctl.getLsbD 62 = true ∨ head = tail ∨ 1024 ≤ s.cps.length → exec (.zhoaskFetch q entry) s = .next s) ∧
    (s.zqPick = some n → s.cps.length < 1024 → 4 ≤ log → log ≤ 16 →
      (2 ^ log < (tail + 2 ^ 32 - head) % 2 ^ 32 → exec (.zhoaskFetch q entry) s = .next (s.setCsr (0x40008 + 0x20 * n) (ctl ||| 0x4000000000000000))) ∧
      ((tail + 2 ^ 32 - head) % 2 ^ 32 ≤ 2 ^ log →
        (byte 0 1 = 0 ∨ 7 < byte 0 1 ∨ 6 < byte 2 1 ∨ byte 8 8 % 8 ≠ 0 → accepts fun e => e.result = some (1, 0)) ∧
        (good → accepts fun e => e.started = false ∧ e.result = none ∧
          e.slots = handles.map (fun h => (h.1, h.2, s.csr (0x60008 + 16 * h.1) ++ s.csr (0x60000 + 16 * h.1))) ∧
          ∀ d, d ∈ e.deps ↔ d ≠ e.id ∧ ((∃ h ∈ handles, s.writers.find h.1 = some d ∨ (h.2 = true ∧ d ∈ s.readers.get [] h.1)) ∨
            (entry.getLsbD 8 = true ∧ ∃ f ∈ s.cps, f.queue = n ∧ f.id = d)))))

/-- R374, R377, R378, R380: CP_COMMAND_START starts a command without dependences, a LAUNCH with empty L1s. CP_COMMAND_COMPLETE writes the completion word once the work is done; when that is performed the command leaves, those that wait for it no longer do, and the vector is raised. -/
def Sys2Proof.Parts.CpCommands : Prop :=
  ∀ (s : State) (n : Nat) (c : CpCmd), s.cp? n = some c →
    let word := c.f 4 4 * 2 ^ 32 + ((c.result.map (·.2)).getD 0) % 2 ^ 24 * 2 ^ 8 + (c.result.map (·.1)).getD 0
    (c.deps ≠ [] ∨ c.started = true → exec (.cpCommandStart n) s = .next s) ∧
    (c.deps = [] → c.started = false → ∃ t, exec (.cpCommandStart n) s = .next t ∧ t.cp? n = some { c with started := true } ∧
      (∀ m, m ≠ n → t.cp? m = s.cp? m) ∧ (c.op = 1 → ∀ k, (t.core k).l1 = []) ∧ (c.op ≠ 1 → t.cores = s.cores) ∧ ∀ a, t.peek a = s.peek a) ∧
    (c.result = none → exec (.cpCommandComplete n) s = .next s) ∧
    (c.result.isSome = true → (∀ r ∈ s.reqs, r.owner ≠ .cp n) →
      (c.posted = false → c.f 8 8 % 8 = 0 → ∃ t, exec (.cpCommandComplete n) s = .next t ∧ t.cp? n = some { c with posted := true } ∧
        SameBytes s t ∧ t.irqs = s.irqs ∧ (c.f 8 8 = 0 → t.reqs = s.reqs) ∧
        (c.f 8 8 ≠ 0 → t.reqs.length = s.reqs.length + 1 ∧ (t.reqs.getLast?.map fun r => (r.owner, r.addr, r.act)) =
          some (.device, c.f 8 8, .write ((List.range 8).map fun i => ⟨byteOf word i, false⟩)))) ∧
      (c.posted = true → (∀ r ∈ s.reqs, r.owner = .device → r.ix ≠ 2 * n) → ∃ t, exec (.cpCommandComplete n) s = .next t ∧ t.cp? n = none ∧
        (∀ m d, m ≠ n → s.cp? m = some d → t.cp? m = some { d with deps := d.deps.filter (· ≠ n) }) ∧
        (∀ h, t.writers.find h ≠ some n) ∧ (∀ e ∈ t.readers, n ∉ e.2) ∧
        (c.entry.getLsbD 9 = true → c.f 1 1 < 4 → t.irqs = s.irqs ++ [c.f 3 1]) ∧ (c.entry.getLsbD 9 = false → t.irqs = s.irqs)))

/-- R375: a COPY copies its bytes through the home slices, up to a line of the destination at a time, and ends with OK; SIGNAL writes its value; WAIT and WAIT_POLL end once the word has reached the value, clean. A handle with V = 0, a wrong W, and a range past LENGTH give RANGE. -/
def Sys2Proof.Parts.CpTransfers : Prop :=
  ∀ (s : State) (n : Nat) (c : CpCmd), s.cp? n = some c → c.started = true → c.result = none →
    let ends := fun (j : Instr) (status : Nat) (Q : State → Prop) => ∃ t, exec j s = .next t ∧ t.cp? n = some { c with result := some (status, 0) } ∧
      (∀ m, m ≠ n → t.cp? m = s.cp? m) ∧ t.ctxs = s.ctxs ∧ Q t
    let same := fun t : State => ∀ a, t.peek a = s.peek a
    let job := fun (op : Nat) => if op = 2 then Instr.cpCopy n else if op = 3 then .signal n else if c.polled.isNone then .wait n else .waitPoll n
    let v := c.f 0x28 8
    let off := c.f 0x20 8
    (∀ op, op ∈ [2, 3, 4] → c.op = op → (∃ h ∈ c.slots, h.2.2.getLsbD 127 = false) → ends (job op) 2 same) ∧
    ((∀ h ∈ c.slots, h.2.2.getLsbD 127 = true) →
      (c.op = 2 → ∀ i0 w0 h0 i1 w1 h1 rest, c.slots = (i0, w0, h0) :: (i1, w1, h1) :: rest →
        let len := c.f 0x30 8
        let a := handleBase h0 + off
        let b := handleBase h1 + v
        (w0 = true ∨ w1 = false ∨ handleLen h0 < off + len ∨ handleLen h1 < v + len → ends (.cpCopy n) 2 same) ∧
        (w0 = false → w1 = true → off + len ≤ handleLen h0 → v + len ≤ handleLen h1 → a + len ≤ 2 ^ 39 → b + len ≤ 2 ^ 39 →
          (len ≤ c.pos → ends (.cpCopy n) 0 same) ∧
          (c.pos < len → (a + len ≤ b ∨ b + len ≤ a) →
            let k := min (len - c.pos) (128 - (b + c.pos) % 128)
            ∃ t, exec (.cpCopy n) s = .next t ∧ t.cp? n = some { c with pos := c.pos + k } ∧
              StoredAt s t (b + c.pos) k fun i => (s.peek (a + c.pos + i)).v))) ∧
      (∀ op, op ∈ [3, 4] → c.op = op → ∀ i0 w0 h0 rest, c.slots = (i0, w0, h0) :: rest →
        let a := handleBase h0 + off
        (off % 8 ≠ 0 ∨ w0 = decide (op = 4) ∨ handleLen h0 < off + 8 → ends (job op) 2 same) ∧
        (off % 8 = 0 → w0 = decide (op = 3) → off + 8 ≤ handleLen h0 → a + 8 ≤ 2 ^ 39 →
          (op = 3 → ends (.signal n) 0 fun t => StoredAt s t a 8 (byteOf v)) ∧
          (op = 4 → poisonedAt s a 8 = false → v ≤ numberAt s a 8 → ends (job 4) 0 fun t => SameBytes s t) ∧
          (op = 4 → poisonedAt s a 8 = true ∨ numberAt s a 8 < v → ∃ t, exec (job 4) s = .next t ∧ SameBytes s t ∧
            t.cp? n = some { c with polled := some s.gt }))))

/-- R57, R59, R379 to R381, R426: LAUNCH creates the tasks of a launch whose operator block keeps R379, under the next free number, and gives RANGE or FAULT otherwise; LAUNCH_COMPLETE ends one whose tasks have ended, whose steps are taken, and whose stores to the host and to peers have been answered (R378). -/
def Sys2Proof.Parts.Launches : Prop :=
  ∀ (s : State) (n : Nat) (c : CpCmd) (launch : BitVec 16),
    (s.cp? n = some c → c.started = true → c.result = none → c.op = 1 → (∀ h ∈ c.slots, h.2.2.getLsbD 127 = true) → (∀ l ∈ s.launches, l.cmd ≠ n) →
      let a := c.f 0x20 8
      let f := fun o k => numberAt s (a + o) k
      let extents := (List.range 6).map fun i => f (8 + 4 * i) 4
      let steps := extents.foldl (· * ·) 1
      let ends := fun (status detail : Nat) => ∃ t, exec (.launch n) s = .next t ∧ t.cp? n = some { c with result := some (status, detail) } ∧
        t.launches = s.launches ∧ t.ready = s.ready
      (a % 256 ≠ 0 ∨ 2 ^ 39 < a + 256 → ends 2 0) ∧
      (a % 256 = 0 → a + 256 ≤ 2 ^ 39 →
        (poisonedAt s a 256 = true → ends 8 0x23) ∧
        (poisonedAt s a 256 = false → (f 6 2 = 0 ∨ 4096 < f 6 2 ∨ 2 ^ 40 < steps ∨ f 2 1 ≥ 4 ∨ (s.csr (8 * f 4 1)).getLsbD 0 = false) → ends 2 0) ∧
        (poisonedAt s a 256 = false → s.opGood a = true → ∀ num, num < 65536 → s.launch? num = none →
          (∀ i, i < (num + 65536 - s.nextLaunch % 65536) % 65536 → (s.launch? ((s.nextLaunch + i) % 65536)).isSome = true) →
          ∃ t l, exec (.launch n) s = .next t ∧ t.launches = s.launches ++ [l] ∧ t.cp? n = some c ∧ t.nextLaunch = (num + 1) % 65536 ∧
            l.num = num ∧ l.cmd = n ∧ l.code = f 0 2 ∧ l.prio = f 2 1 ∧ l.asid = f 4 1 ∧ l.count = f 6 2 ∧ l.steps = steps ∧ l.untaken = steps ∧
            l.arg = BitVec.ofNat 128 (f 0x20 16) ∧ l.codeCap = BitVec.ofNat 128 (f 0x30 16) ∧ l.cohorts = f 0x40 8 ∧ l.save = f 0x48 8 ∧
            l.trapent = BitVec.ofNat 64 (f 0x68 8) ∧ l.ended = [] ∧ l.faulted = false ∧
            l.held = (List.range (f 6 2)).map (fun i => ⟨i, i * steps / f 6 2, (i + 1) * steps / f 6 2⟩) ∧
            ∀ e, e ∈ t.ready ↔ e ∈ s.ready ∨ ∃ i, i < f 6 2 ∧ e = { launch := num, task := i, prio := f 2 1, arrival := s.gt, since := s.gt }))) ∧
    (∀ l, s.launch? launch.toNat = some l →
      let ended := (∀ i, i < l.count → i ∈ l.ended) ∧ (l.faulted = true ∨ l.untaken = 0) ∧
        ∀ r ∈ s.reqs, r.launch = l.num → r.ans = none → ∀ i, r.owner ≠ .posted i
      (¬ ended → exec (.launchComplete launch) s = .next s) ∧
      (ended → ∃ t, exec (.launchComplete launch) s = .next t ∧ (∀ m, m ∈ t.launches ↔ m ∈ s.launches ∧ m.num ≠ launch.toNat) ∧
        (∀ b, b ∈ t.bars ↔ b ∈ s.bars ∧ b.launch ≠ launch.toNat) ∧
        ((s.csr 0x80040).getLsbD 63 = true → (s.csr 0x80040).extractLsb' 0 16 = launch → (t.csr 0x80040).getLsbD 63 = false) ∧
        ∀ d, s.cp? l.cmd = some d → t.cp? l.cmd = some { d with result := some (if l.faulted = true then (8, l.cause.toNat) else (0, 0)) }))

/-- R225, R227, R68, R384: SNAP sets COW in a page's entry, whose translations leave the TLBs, and ends with the shootdown, or with RANGE or LARGE_PAGE, nothing written. CODESWAP writes the entry of the code table; it completes when no context of the code stands in the way. -/
def Sys2Proof.Parts.SnapAndCodeswap : Prop :=
  ∀ (s : State) (n : Nat) (c : CpCmd), s.cp? n = some c → c.started = true → c.result = none → (∀ h ∈ c.slots, h.2.2.getLsbD 127 = true) →
    let ends := fun (j : Instr) (status detail : Nat) => ∃ t, exec j s = .next t ∧ t.cp? n = some { c with result := some (status, detail) } ∧ SameBytes s t
    let asid := c.f 0x20 1
    let va := c.f 0x28 8
    let code := c.f 0x20 2
    let entry := (s.csr 0x50010).toNat / 2 ^ 19 * 2 ^ 19 + 8 * code
    (c.op = 5 →
      (∀ x, c.shoot = some x → (s.shootDone x = true → ends (.snap n) 0 (min c.pos (2 ^ 24 - 1))) ∧ (s.shootDone x = false → exec (.snap n) s = .next s)) ∧
      (c.shoot = none → va % 0x10000 ≠ 0 ∨ (s.csr (8 * asid)).getLsbD 0 = false → ends (.snap n) 2 0) ∧
      (c.shoot = none → va % 0x10000 = 0 → (s.csr (8 * asid)).getLsbD 0 = true → c.f 0x30 4 = 1 → ∀ leaf size p u, s.pte asid va = (u, .ok leaf size, p) →
        (size ≠ 0 → ends (.snap n) 4 0) ∧
        (size = 0 → region p = .hbm → ∃ t x, exec (.snap n) s = .next t ∧ t.cp? n = some { c with shoot := some x, pos := 0 } ∧
          StoredAt s t p 8 (byteOf (leaf ||| 0x1000).toNat) ∧ (asid, va / 0x10000, c.f 0x34 2) ∈ t.lockets ∧
          ∀ u e, e ∈ t.tlb u → ¬ (e.asid = asid ∧ e.size = 0 ∧ e.page = va)))) ∧
    (c.op = 6 → (∀ w ∈ s.swaps, w.1 ≠ n) → entry + 8 ≤ 2 ^ 39 → ∃ t w, exec (.cpCodeswap n) s = .next t ∧ StoredAt s t entry 8 (byteOf va) ∧
      t.swaps = s.swaps ++ [(n, w)] ∧ t.cp? n = some c ∧
      ∀ e ∈ s.ctxs, e.2.occ = .resident → (s.launch? e.2.regs.launch.toNat).map (·.code) = some code →
        (e.2.regs.launch.toNat, e.2.regs.task.toNat) ∈ w) ∧
    (∀ w, s.swaps.find? (fun w => w.1 = n) = some w →
      (w.2 = [] → ends (.codeswapCompletion n) 0 0) ∧ (w.2 ≠ [] → exec (.codeswapCompletion n) s = .next s))

/-- R336 to R344, R349: TABLE_WRITE copies doublewords into a shadow table, reserved bits 0; TABLE_ARM arms a switch at T, or gives LATE; PRIV and BUSY come before. At T, TABLE_SWITCH exchanges the active tables with their shadows and counts, unless the device has lost sync. -/
def Sys2Proof.Parts.Tables : Prop :=
  ∀ (s : State) (n : Nat) (c : CpCmd),
    let status := s.csr 0x100088
    (s.cp? n = some c → c.started = true → c.result = none → c.op = 7 → (∀ h ∈ c.slots, h.2.2.getLsbD 127 = true) →
      let ends := fun (j : Instr) (st : Nat) (Q : State → Prop) => ∃ t, exec j s = .next t ∧ t.cp? n = some { c with result := some (st, 0) } ∧ Q t
      let job := if c.f 0x20 1 = 1 then Instr.tableArm n else .tableWrite n
      let allowed := (s.csr 0x50008).getLsbD c.queue
      (allowed = false → ends job 3 fun t => t.dev = s.dev) ∧
      (allowed = true → c.f 0x20 1 < 2 → status.getLsbD 63 = true → ends job 7 fun t =>
        (t.csr 0x100088).extractLsb' 60 3 = 6 ∧ ∀ o, o ≠ 0x100088 → t.csr o = s.csr o) ∧
      (allowed = true → status.getLsbD 63 = false →
        (c.f 0x20 1 = 0 →
          let o := c.f 0x28 8
          let src := c.f 0x30 8
          let len := c.f 0x38 4
          (o < 0x100040 → ends (.tableWrite n) 2 fun t => t.dev = s.dev) ∧
          (0x300000 ≤ o → o % 8 = 0 → len % 8 = 0 → o + len ≤ 0x320000 → src + len ≤ 2 ^ 39 → ends (.tableWrite n) 0 fun t =>
            (∀ i, i < len / 8 → t.csr (o + 8 * i) = BitVec.ofNat 64 (numberAt s (src + 8 * i) 8) &&& 0xFFFFFFFFFFFE0000) ∧
            ∀ a, 0x100000 ≤ a → (a < o ∨ o + len ≤ a) → t.csr a = s.csr a)) ∧
        (c.f 0x20 1 = 1 → (s.csr 0x100040).getLsbD 0 = false → (s.csr 0x100050).getLsbD 0 = false → (s.csr 0x100000).getLsbD 0 = false →
          (∀ e ∈ s.dev, e.1 < 0x300000 ∨ 0x320000 ≤ e.1) →
          (c.f 0x28 8 < s.gt / 2 ^ 16 + 10000 → ends (.tableArm n) 6 fun t => (t.csr 0x100088).extractLsb' 60 3 = 4 ∧ (t.csr 0x100088).getLsbD 63 = false) ∧
          (s.gt / 2 ^ 16 + 10000 ≤ c.f 0x28 8 → ends (.tableArm n) 0 fun t => (t.csr 0x100088).extractLsb' 60 3 = 1 ∧ (t.csr 0x100088).getLsbD 63 = true ∧
            t.csr 0x100080 = BitVec.ofNat 64 (c.f 0x28 8))))) ∧
    (status.getLsbD 63 = false ∨ s.gt / 2 ^ 16 < (s.csr 0x100080).toNat → exec .tableSwitch s = .next s) ∧
    (status.getLsbD 63 = true → (s.csr 0x100080).toNat ≤ s.gt / 2 ^ 16 → ∃ t, exec .tableSwitch s = .next t ∧ t.ctxs = s.ctxs ∧
      (s.syncLost = true → t.csr 0x100088 = BitVec.ofNat 64 (5 * 2 ^ 60 + status.toNat % 2 ^ 32) ∧ ∀ o, o ≠ 0x100088 → t.csr o = s.csr o) ∧
      (s.syncLost = false → t.csr 0x100088 = BitVec.ofNat 64 (2 ^ 60 + (status.toNat % 2 ^ 32 + 1) % 2 ^ 32) ∧
        ∀ a b m, (a, b, m) ∈ [(0x100000, 0x100040, 0x20), (0x200000, 0x300000, 0x20000), (0x1000000, 0x1200000, 0x200000), (0x1400000, 0x1420000, 0x20000)] →
          ∀ i, i < m → t.csr (a + i) = s.csr (b + i) ∧ t.csr (b + i) = s.csr (a + i)))

/-- R345, R346, R348, R435: line events. LINE_WEAK and LINE_DRIFT make a good line of an external port, or of a column's mesh, RETUNING, LINE_LOST makes it LOST, COMB_LOST all lines of a port; each appends its record, or sets OVF when 16 wait, and raises the vector of an empty queue. A mesh transmitter that has lost both lines hands its traffic to the lowest spare that is free. RETUNE_COMPLETE and PORT_REQUALIFY make lines OK again. SYNC_LOST holds until SYNC_RESTORED. OFU_EVENT_READ takes the oldest record. R408: OFU_CRED_SEL_WRITE takes the snapshot. -/
def Sys2Proof.Parts.LineEvents : Prop :=
  ∀ (s : State) (port : BitVec 6) (line : BitVec 7) (x : BitVec 5) (v : Word64),
    let p := port.toNat
    let l := line.toNat
    let word := fun (code j i : Nat) => BitVec.ofNat 64 (code * 2 ^ 56 + j % 64 * 2 ^ 50 + i % 128 * 2 ^ 43 + s.gt / 2 ^ 16 % 2 ^ 43)
    let records := fun (t : State) (w : Word64) => (s.ofuEvents.length < 16 → t.ofuEvents = s.ofuEvents ++ [w] ∧ t.ofuOvf = s.ofuOvf) ∧
      (16 ≤ s.ofuEvents.length → t.ofuEvents = s.ofuEvents ∧ t.ofuOvf = true) ∧
      t.irqs = if s.ofuEvents = [] ∧ (s.csr 0x90100).getLsbD 16 = true then s.irqs ++ [((s.csr 0x90100).extractLsb' 0 8).toNat] else s.irqs
    let lines := fun (t : State) (f : Nat → Nat → Nat) => ∀ j i, j < 48 → i < 128 → t.lineState j i = f j i
    let became := fun (j : Instr) (code : Nat) (f : Nat → Nat → Nat) (Q : State → Prop) => ∃ t, exec j s = .next t ∧ records t (word code p l) ∧ lines t f ∧
      t.ctxs = s.ctxs ∧ Q t ∧ (f p l ≠ s.lineState p l → ∀ d u, u ∈ (t.link d).una → u.port = p → u.line = l → u.again = true)
    let hit := fun j i => j = p ∧ i = l
    let key := ((v.extractLsb' 16 14).toNat * 32 + (v.extractLsb' 8 5).toNat) * 64 + (v.extractLsb' 0 6).toNat
    let sent := s.sent.get 0 key % 128
    let count := s.ccount.get 0 key % 128
    let spares := 0x100500 + 8 * (p - 32)
    let spare := fun (t : State) (i : Nat) => ((t.csr spares).extractLsb' (8 * i) 8).toNat
    let usable := fun i => spare s i < 128 ∧ ¬ (s.lineState p (60 + i) = 2 ∧ s.lineState p (124 + i) = 2)
    let twin := if l < 64 then l + 64 else l - 64
    (p < 48 →
      (∀ code ∈ [1, 2], became (if code = 1 then .lineWeak port line else .lineDrift port line) code
        (fun j i => if hit j i ∧ s.lineState j i = 0 then 1 else s.lineState j i) fun t => ∀ o, 0x100500 ≤ o → t.csr o = s.csr o) ∧
      (became (.lineLost port line) 3 (fun j i => if hit j i then 2 else s.lineState j i) fun t =>
        (p < 32 ∨ s.lineState p twin ≠ 2 → ∀ o, 0x100500 ≤ o → t.csr o = s.csr o) ∧
        (32 ≤ p → s.lineState p twin = 2 → l % 64 < 60 → (∀ i, i < 4 → spare s i ≠ 128 + l % 64) → ∀ i, i < 4 → usable i → (∀ j, j < i → ¬ usable j) →
          ∀ j, j < 4 → spare t j = if j = i then 128 + l % 64 else spare s j)) ∧
      ∃ t, exec (.portRequalify port) s = .next t ∧ (lines t fun j i => if j = p ∧ s.lineState j i = 2 then 0 else s.lineState j i) ∧
        (32 ≤ p → t.csr spares = 0)) ∧
    (∃ t i, exec (.combLost x) s = .next t ∧ records t (word 4 x.toNat i) ∧ lines t (fun j i => if j = x.toNat then 2 else s.lineState j i) ∧
      ∀ d u, u ∈ (t.link d).una → u.port = x.toNat → u.again = true) ∧
    (∃ t, exec (.retuneComplete port line) s = .next t ∧ t.ofuEvents = s.ofuEvents ∧
      lines t fun j i => if hit j i ∧ s.lineState j i = 1 then 0 else s.lineState j i) ∧
    (∃ t j i, exec .syncLost s = .next t ∧ t.syncLost = true ∧ records t (word 5 j i)) ∧
    (∃ t, exec .syncRestored s = .next t ∧ t.syncLost = false ∧ t.ofuEvents = s.ofuEvents ∧ t.sendq = s.sendq) ∧
    (exec .ofuEventRead s = .next { s with readOut := s.ofuEvents.headD 0 ||| (if s.ofuOvf then 0x8000000000000000 else 0)
                                           ofuEvents := s.ofuEvents.tail, ofuOvf := false }) ∧
    (s.ccount.get 0 key < 128 → ∃ t, exec (.ofuCredSelWrite v) s = .next t ∧ t.csr 0x70010 = v &&& 0x3FFF1F3F ∧
      t.csr 0x70018 = BitVec.ofNat 64 ((64 - (sent + 128 - count) % 128) * 2 ^ 16 + sent * 2 ^ 8 + count) ∧ ∀ o, o ∉ [0x70010, 0x70018] → t.csr o = s.csr o)

/-- R328 to R336, R340, R342: SLOT_START sends the flit of a transmitter's queue on its line, with a good CRC, when there is a free cell and it can finish within the slot's window; it does nothing before the next slot unless a transmitter has something more to send. A flit that arrives with a bad CRC only frees its cell; one for another device is forwarded in transit, with DUP on both planes; a RECORDS packet of the stream's next SEQ delivers its records, one received before is dropped; an ACK flit ends what it covers; a SYNC flit delivers nothing. -/
def Sys2Proof.Parts.Flits : Prop :=
  ∀ (s : State) (bulk : Bool) (w : BitVec 2176) (nbr : BitVec 14) (port : BitVec 5) (cls : BitVec 6),
    let key := (nbr.toNat * 32 + port.toNat) * 64 + cls.toNat
    let adv := (hdr w 52 48) * 64 + hdr w 47 42
    let f := Flit.ofWire w
    let rec_ := fun i => Rec.ofBytes ((f.body.drop (32 * i)).take 32) (f.poison.getLsbD i)
    let plain := fun r : Rec => r.rtype ∈ [1, 2, 5, 6, 7, 8, 9, 10, 13]
    let l := s.link f.src
    let quiet := fun t : State => t.ctxs = s.ctxs ∧ t.cmds = s.cmds ∧ t.reqs = s.reqs ∧ ∀ a, t.peek a = s.peek a
    let arrives := fun (j : Instr) (Q : State → Prop) => ∃ t, exec j s = .next t ∧ quiet t ∧ t.released.get 0 key = (s.released.get 0 key + 1) % 128 ∧ Q t
    let counted := fun t : State => t.ccount.get 0 (nbr.toNat * 2048 + adv) = hdr w 41 35
    let rot := s.rot bulk
    let windowEnd := fun n : Nat => (rot.base + n * rot.slot + rot.slot - rot.guard) * 2 ^ 16 * 100
    let begin_ := fun c : SlotCell => max (s.gt * 100) (s.txFree.get 0 (16 * c.port + c.tx))
    let before := fun n : Nat => if s.lastSlot.get 0 bulk.toNat = n + 1 then s.onWire else []
    (s.slotDue bulk = false → exec (.slotStart bulk) s = .next s) ∧
    (s.slotDue bulk = true → (∃ t n, s.slotNow bulk = some n ∧ exec (.slotStart bulk) s = .next t ∧ t.lastSlot.get 0 bulk.toNat = n + 1 ∧ t.ctxs = s.ctxs ∧
        (s.cellsNow bulk = [] → t.onWire = []) ∧ (∀ a, t.peek a = s.peek a) ∧
        ((∀ c ∈ s.cellsNow bulk, windowEnd n < begin_ c + 1024 * 2 ^ 16) → t.sendq = s.sendq ∧ t.onWire = before n)) ∧
      ∀ c g n, s.slotNow bulk = some n → begin_ c + 1024 * 2 ^ 16 ≤ windowEnd n → s.cellsNow bulk = [c] → s.lineState c.port (c.cls + if c.tw then 64 else 0) = 0 →
        c.cls < 64 → c.port < 32 → s.sendq = [(c.sq, [g])] → g.src = s.peer → g.kind ≤ 1 → g.dst < 2 ^ 14 → g.seq < 2 ^ 19 → s.peer < 2 ^ 14 → g.body.length = 256 →
        (∀ e ∈ s.links, e.2.una = []) → s.sent.get 0 (((s.nextHop g.dst) * 32 + c.port) * 64 + c.cls) = s.ccount.get 0 (((s.nextHop g.dst) * 32 + c.port) * 64 + c.cls) →
        s.ccount.get 0 (((s.nextHop g.dst) * 32 + c.port) * 64 + c.cls) < 128 →
        ∃ t y, exec (.slotStart bulk) s = .next t ∧ t.onWire = before n ++ [(c.port, c.cls + if c.tw then 64 else 0, y)] ∧ crcGood y = true ∧
          hdr y 127 114 = g.dst ∧ hdr y 113 100 = g.src ∧ hdr y 99 96 = g.kind ∧ hdr y 95 77 = g.seq ∧ (Flit.ofWire y).body = g.body ∧
          hdr y 76 58 = ((s.link g.dst).got + 2 ^ 19 - 1) % 2 ^ 19 ∧ t.sendq.get [] c.sq = [] ∧
          ((t.link g.dst).una.map fun u => (u.flit, u.at_, u.port)) = [(g, s.gt, c.port)]) ∧
    (crcGood w = false → (arrives (.flitReceive w nbr port cls) fun t => t.inbox = s.inbox ∧ t.sendq = s.sendq) ∧
      exec (.ack w nbr port cls) s = .next s ∧ exec (.sync w nbr port cls) s = .next s) ∧
    (crcGood w = true → f.dst ≠ s.peer → f.kind < 5 → f.transit = false → (s.route f.dst).getLsbD 63 = true → routeTr (s.route f.dst) = false →
      s.outQ = [] → s.passing = [] →
      let e := s.route f.dst
      let q := if f.kind = 0 then routeBsq e else routeMsq e
      let dup := f.kind ≠ 0 ∧ routeDup e = true
      let room := fun q => (s.sendq.get [] q).length < 512
      let g : Flit := { f with transit := true, ack := hdr w 76 58 }
      (room q → (dup → room (routeMsq2 e) ∧ routeMsq2 e ≠ q) → arrives (.flitReceive w nbr port cls) fun t => counted t ∧ t.inbox = s.inbox ∧
        t.sendq.get [] q = s.sendq.get [] q ++ [g] ∧
        (dup → t.sendq.get [] (routeMsq2 e) = s.sendq.get [] (routeMsq2 e) ++ [{ g with plane := true }])) ∧
      (¬ room q → ∃ t, exec (.flitReceive w nbr port cls) s = .next t ∧ quiet t ∧ counted t ∧ t.released = s.released ∧ t.sendq = s.sendq ∧
        t.passing = [(key, g)])) ∧
    (crcGood w = true → f.dst = s.peer →
      (5 ≤ f.kind → arrives (.flitReceive w nbr port cls) fun t => t.inbox = s.inbox ∧ t.csr 0x1000A8 = ((s.csr 0x1000A8).setWidth 48 + 1 : BitVec 48).setWidth 64) ∧
      (f.kind = 1 → f.last = true → f.seq = l.got → l.held = [] → l.open_ = [] → s.routed f.src = true → (∀ i, i < 8 → (rec_ i).rtype = 0 ∨ plain (rec_ i)) →
        arrives (.flitReceive w nbr port cls) fun t => counted t ∧ (t.link f.src).got = (l.got + 1) % 2 ^ 19 ∧
          t.inbox = s.inbox ++ (((List.range 8).map rec_).filter fun r => r.rtype ≠ 0).map fun r => { src := f.src, rec_ := r }) ∧
      (f.kind = 1 → l.got < 2 ^ 19 → f.seq = (l.got + 2 ^ 19 - 1) % 2 ^ 19 → arrives (.flitReceive w nbr port cls) fun t => counted t ∧ t.inbox = s.inbox ∧ (t.link f.src).got = l.got) ∧
      (f.kind = 2 → arrives (.ack w nbr port cls) fun t => counted t ∧ t.inbox = s.inbox ∧
        ∀ u, u ∈ (t.link f.src).una ↔ u ∈ l.una ∧ 2 ^ 18 ≤ (hdr w 76 58 + 2 ^ 19 - u.flit.seq) % 2 ^ 19) ∧
      (f.kind = 4 → arrives (.sync w nbr port cls) fun t => counted t ∧ t.inbox = s.inbox))

/-- R315, R332, R335, R337, R322: the timers. RETRANSMIT_TIMEOUT marks the flits of a stream that no ACK has covered for RTO; ACK_TIMER puts an owed ACK flit at the head of the message queue, and its copy at that of the second plane, once they have room; E2E_TIMEOUT fails a request without an answer, and asks a clasp's close for its status first; RETRY_RESEND lets a held request go. -/
def Sys2Proof.Parts.FabricTimers : Prop :=
  ∀ (s : State) (p : BitVec 14) (r : Req) (k m : Nat),
    let d := p.toNat
    let l := s.link d
    let q := routeMsq (s.route d)
    let q2 := routeMsq2 (s.route d)
    let dup := routeDup (s.route d) = true
    let room := fun q => (s.sendq.get [] q).length < 512
    let rto := (s.csr 0x100090).toNat % 2 ^ 32 * 2 ^ 16
    let e2e := (s.csr 0x100090).toNat / 2 ^ 32 * 65536000
    ((∀ u ∈ l.una, s.gt < u.at_ + rto) → exec (.retransmitTimeout p) s = .next s) ∧
    (∃ t, exec (.retransmitTimeout p) s = .next t ∧ (∀ m, m ≠ d → t.link m = s.link m) ∧
      t.link d = { l with una := l.una.map fun u => if u.at_ + rto ≤ s.gt then { u with again := true } else u } ) ∧
    (l.owed = none → exec (.ackTimer p) s = .next s) ∧
    (∀ since, l.owed = some since → s.routed d = true →
      (s.gt < since + 65536000 → exec (.ackTimer p) s = .next s) ∧
      (¬ room q ∨ (dup ∧ ¬ room q2) → exec (.ackTimer p) s = .next s) ∧
      (since + 65536000 ≤ s.gt → room q → (dup → room q2 ∧ q2 ≠ q) → ∃ t f, exec (.ackTimer p) s = .next t ∧ t.link d = { l with owed := none } ∧
        f.kind = 2 ∧ f.dst = d ∧ f.src = s.peer ∧ t.sendq.get [] q = f :: s.sendq.get [] q ∧
        (dup → t.sendq.get [] q2 = { f with plane := true } :: s.sendq.get [] q2))) ∧
    (s.reqs.find? (fun q => q.tag = r.tag) = some r → r.ans = none →
      let changed := fun (g : Req → Req) => { s with reqs := s.reqs.map fun q => if q.tag = r.tag then g q else q }
      (r.sentAt = none → exec (.e2eTimeout r.tag) s = .next s) ∧
      (∀ at_, r.sentAt = some at_ → s.gt < at_ + e2e → exec (.e2eTimeout r.tag) s = .next s) ∧
      (∀ at_, r.sentAt = some at_ → at_ + e2e ≤ s.gt →
        (r.owner = .slot k m → (∀ g n, r.act ≠ .clasp 1 g n) →
          exec (.e2eTimeout r.tag) s = .next (changed fun q => { q with ans := some (.fail 0x41 (BitVec.ofNat 64 (r.addr / 2 ^ 50))) })) ∧
        (∀ g n, r.act = .clasp 1 g n → r.query = false →
          exec (.e2eTimeout r.tag) s = .next (changed fun q => { q with query := true, queued := false, sentAt := none }))) ∧
      ((∀ q ∈ s.reqs, q.tag = r.tag → q = r) → r.hold ≠ 0 → r.hold ≤ s.gt → exec (.retryResend r.tag) s = .next (changed fun q => { q with hold := 0, queued := false })) ∧
      ((∀ q ∈ s.reqs, q.tag = r.tag → q = r) → s.gt < r.hold → exec (.retryResend r.tag) s = .next s))

/-- R217, R273, R278, R318, R331, R336: the records by which a peer asks: READ, WRITE, WBLK, ATOM, CHARM, FLUSH and FIFO are performed and answered, each at the head of its sender's stream; a full endpoint refuses a word; an operation that does not exist fails. That the answer goes to BSQ where bit 15 of TAG is set is the model's choice (log entry 24). -/
def Sys2Proof.Parts.PeerRequests : Prop :=
  ∀ (s : State) (src : BitVec 14) (e : In), s.inbox.find? (fun e => e.src = src.toNat) = some e →
    let r := e.rec_
    let a := r.addr
    let hbm := fun n => 0 < n ∧ a + n ≤ 2 ^ 39
    let reply := fun (rtype aux data : Nat) (psn : Bool) => ({ rtype, tag := r.tag, aux, data, psn } : Rec)
    let answers := fun (j : Instr) (x : Rec) (data : List (Val 8)) (Q : State → Prop) => ∃ t, exec j s = .next t ∧
      Sends s t src.toNat (r.tag.testBit 15) x data (s.inbox.erase e) ∧ t.ctxs = s.ctxs ∧ Q t
    let old := numberAt s a 8
    let line := a / 128 * 128
    let q := s.fifos.get [] (r.aux % 256)
    (r.rtype ≠ 1 → exec (.read src) s = .next s) ∧
    (r.rtype = 1 → hbm r.aux →
      (r.aux ≤ 16 → answers (.read src) (reply 8 0 (numberAt s a r.aux) (poisonedAt s a r.aux)) [] (SameBytes s)) ∧
      (16 < r.aux → answers (.read src) { reply 4 r.aux 0 false with addr := a } ((List.range r.aux).map fun i => s.peek (a + i)) (SameBytes s))) ∧
    (r.rtype = 2 → hbm (min r.aux 16) → answers (.write src) (reply 9 0 0 false) [] fun t => StoredAt s t a (min r.aux 16) (byteOf r.data)) ∧
    (r.rtype = 3 → r.data.testBit 24 = false → hbm e.data.length →
      answers (.wblk src) (reply 9 0 0 false) [] fun t => StoredAt s t a e.data.length fun i => (e.data.getD i ⟨0, false⟩).v) ∧
    (r.rtype = 5 → (13 ≤ r.aux % 16 → answers (.atom src) (reply 8 0x22 0 false) [] (SameBytes s)) ∧
      (r.aux % 16 = 2 → r.aux.testBit 4 = true → hbm 8 → poisonedAt s a 8 = false →
        answers (.atom src) (reply 8 0 old false) [] fun t => StoredAt s t a 8 (byteOf (old + r.data % 2 ^ 64)))) ∧
    (r.rtype = 6 → hbm 4 →
      (poisonedAt s line 128 = true → answers (.charm src) (reply 8 0 0 true) [] (SameBytes s)) ∧
      (poisonedAt s line 128 = false → ∀ m10 m11 bs, s.charmEnd a (r.aux % 64) (BitVec.ofNat 64 r.data) (BitVec.ofNat 64 (r.data / 2 ^ 64)) = .done m10 m11 bs →
        bs.length = 128 → answers (.charm src) (reply 8 0 ((m11.toNat * 2 ^ 32 + m10.toNat) % 2 ^ 64) false) [] fun t =>
          StoredAt s t line 128 fun i => bs.getD i 0)) ∧
    (r.rtype = 13 → a % 128 = 0 → hbm (128 * (r.aux % 2 ^ 16)) → answers (.flushRecord src) (reply 9 0 0 false) [] fun t => SameBytes s t ∧
      (r.aux.testBit 16 = true → ∀ n, a / 128 ≤ n → n < a / 128 + r.aux % 2 ^ 16 → (t.llc.find n).isSome = false)) ∧
    (r.rtype = 7 → (512 ≤ q.length → answers (.fifo src) (reply 10 3 ((s.csr 0xB18).toNat % 2 ^ 32) false) [] fun t => t.fifos = s.fifos) ∧
      (q.length < 512 → answers (.fifo src) (reply 9 0 0 false) [] fun t => t.fifos.get [] (r.aux % 256) = q ++ [(⟨BitVec.ofNat 32 r.data, r.psn⟩, r.data.testBit 32)] ∧
        ∀ i, i ≠ r.aux % 256 → t.fifos.get [] i = s.fifos.get [] i))

/-- R315, R316, R331: the records that answer: RESP, DONE and RBLK complete the request of the sender and TAG they name, with data or with a cause; REFUSE holds it for the hint, and its eighth counted refusal fails it with RETRY_LIMIT, a full endpoint never. -/
def Sys2Proof.Parts.PeerAnswers : Prop :=
  ∀ (s : State) (src : BitVec 14) (e : In) (r : Req) (k i : Nat), s.inbox.find? (fun e => e.src = src.toNat) = some e → r.owner = .slot k i →
    s.reqs.find? (fun q => q.ans.isNone && q.queued && decide (q.addr / 2 ^ 50 = src.toNat ∧ s.wireTag q = e.rec_.tag)) = some r →
    let x := e.rec_
    let changed := fun (g : Req → Req) => { s with inbox := s.inbox.erase e, reqs := s.reqs.map fun q => if q.tag = r.tag then g q else q }
    let answered := fun (j : Instr) (a : Answer) => exec j s = .next (changed fun q => { q with ans := some a })
    let failed := Answer.fail (BitVec.ofNat 8 x.aux) (BitVec.ofNat 64 x.data)
    let n := if x.aux = 3 then r.refused else r.refused + 1
    (x.rtype = 8 → (x.aux ≠ 0 → answered (.resp src) failed) ∧
      (x.aux = 0 → ∀ m, r.act = .read m → answered (.resp src) (.data ((List.range m).map fun i => ⟨byteOf x.data i, x.psn⟩)))) ∧
    (x.rtype = 9 → (x.aux = 0 → answered (.done src) (.data [])) ∧ (x.aux ≠ 0 → answered (.done src) failed)) ∧
    (x.rtype = 4 → answered (.rblk src) (.data e.data)) ∧
    (x.rtype = 10 → (8 ≤ n → answered (.refuse src) (.fail 0x40 (BitVec.ofNat 64 src.toNat))) ∧
      (n < 8 → exec (.refuse src) s = .next (changed fun q => { q with refused := n, hold := max 1 (s.gt + x.data % 2 ^ 64 * 2 ^ 16), sentAt := none })))

/-- R421: ASYNC_FAULT_DELIVERY delivers the oldest pending record of a context that is ready, active, in mode NORMAL, between bundles and not halted: the frame holds the record, and the record leaves the list. Else it changes nothing. -/
def Sys2Proof.Parts.AsyncRecords : Prop :=
  ∀ (s : State) (ctx : BitVec 12) (r : AsyncRec) (rest : List AsyncRec),
    let k := ctx.toNat
    let c := s.ctx k
    let l := s.launchOf k
    let sys := (s.csr csrTrapEnt).extractLsb' 0 57
    let s' := s.modCtx k fun c => { c with pend := rest }
    let due := c.occ = .resident ∧ c.pf = [] ∧ s.isActive k = true ∧ c.regs.mode = 0 ∧ c.issue.todo = [] ∧ c.placing = false ∧ c.halt = 0
    let cause : Word64 := (3 : BitVec 2) ++ (0 : BitVec 6) ++ (5 : BitVec 3) ++ (0 : BitVec 45) ++ r.cause
    let at_ := fun u : ExecUnit => ((c.older.find? fun i => i.todo.any fun q => q.exu = u).map (·.addr)).getD c.pc
    let frame := [cause, c.pc, at_ .vl, at_ .va, at_ .vs, at_ .mx, r.addr, r.info, r.token.setWidth 64, r.issue, r.prog.setWidth 64] ++ r.oper
    c.pend = r :: rest →
    (due → c.younger = [] → Undebugged s k →
      (l.trapent ≠ 0 → ∃ t, exec (.asyncFaultDelivery ctx) s = .next t ∧ Entered s' t k 1 l.trapent frame ∧ (t.ctx k).pend = rest) ∧
      (l.trapent = 0 → sys ≠ 0 →
        ∃ t, exec (.asyncFaultDelivery ctx) s = .next t ∧ Entered s' t k 2 (sys.signExtend 64) frame ∧ (t.ctx k).pend = rest)) ∧
    (¬ due → exec (.asyncFaultDelivery ctx) s = .next s)

/-- R422, R423, R251, R49: an access through a STALE handle whose page is not present. LDG has not taken effect, and its context blocks on one request to read, with the bank's next GEN; STG has, its bytes wait in the replay queue, and its context blocks on one to write. The other bank becomes active when its context is ready. With PF.CTL.EN = 0 the request is a fatal fault. -/
def Sys2Proof.Parts.PageFaultPath : Prop :=
  ∀ (s : State) (st i zp x nt : Bool) (d b : BitVec 6) (m : BitVec 4) (z : BitVec 2), Running s →
    let h := s.old.rh m.toNat
    let k := s.cur
    let c := s.ctx k
    let off := if i then s.immZ b else (s.old.rx b.toNat).v
    let v := s.old.rx d.toNat
    let asid := (s.launchOf k).asid
    let q := fun kind : AccessKind => ({ va := if off.toNat < 0x10000 then h.page + off else h.page, kind, num := c.issue.num, seq := seqOf s.slot.exu
                                         slot := s.slot.idx, issued := c.issue.addr } : PfReq)
    let blocked := fun (t : State) (kind : AccessKind) => (t.ctx k).pf = [q kind] ∧ (t.ctx k).gen = c.gen + 1 ∧ (t.ctx k).regs = s.regs ∧ SameBytes s t ∧
      (∀ j, j ≠ k → t.ctx j = s.ctx j) ∧
      (s.isActive k = true → (t.core (k / 2)).active = (if (s.ctx (otherBank k)).ready then otherBank k else k) % 2)
    let load := Instr.ldg st d m b i zp x z
    let served := (s.csr csrPfCtl).getLsbD 63
    h.st = .stale → (i = false → (s.old.rx b.toNat).psn = false) → c.pf = [] → canonical h.page.toNat = true →
    (∀ e ∈ s.tlb (k / 2), e.maps asid h.page.toNat = false) → (s.walk asid h.page.toNat).2 = .absent →
    (served = true → (∃ t, exec load s = .next t ∧ blocked t .read ∧ (t.ctx k).issue = c.issue ∧ (t.ctx k).pc = c.pc ∧
        (t.core (k / 2)).replay = (s.core (k / 2)).replay) ∧
      (s.parkedOf k = [] → (s.core (k / 2)).replay.length < 16 → ∃ t e, exec (.stg st d m b i nt z) s = .next t ∧ blocked t .write ∧
        (∀ p ∈ (t.ctx k).issue.todo, p.idx ≠ c.issue.cur) ∧ (t.core (k / 2)).replay = (s.core (k / 2)).replay ++ [e] ∧ e.ctx = k ∧
        e.parts = [(h.page.toNat / 0x10000, .absent)] ∧
        e.op = .store ((List.range (2 ^ z.toNat)).map fun j => ((h.page + off).toNat + j, ⟨byteOf v.v.toNat j, v.psn⟩)) nt)) ∧
    (served = false → ∃ t, exec load s = .next t ∧ (t.ctx k).occ = .none ∧ ∀ l, t.launch? c.regs.launch.toNat = some l → l.faulted = true)

/-- R423: PF_REQUEST_WRITE sends the 32-byte record of the oldest request that is not in the ring to PF.BASE + 32 × (TAIL mod size), when requests are served and the ring has room; else it holds the request. -/
def Sys2Proof.Parts.PageRequests : Prop :=
  ∀ (s : State) (ctx : BitVec 12) (pre post : List PfReq) (q : PfReq),
    let k := ctx.toNat
    let c := s.ctx k
    let ctl := s.csr 0x80010
    let lg := ctl.toNat % 32
    let size := 2 ^ (if 6 ≤ lg ∧ lg ≤ 16 then lg else 6)
    let tail := (s.csr 0x80018).toNat % 2 ^ 32
    let used := (tail + 2 ^ 32 - (s.csr 0x80020).toNat % 2 ^ 32) % 2 ^ 32
    let byte := fun i : Nat =>
      if i < 8 then byteOf q.va.toNat i else if i < 10 then byteOf k (i - 8) else if i < 12 then byteOf c.gen.toNat (i - 10)
      else if i = 12 then byteOf (s.launchOf k).asid 0
      else if i = 13 then (match q.kind with | .read => 0 | .write => 1 | .fetch => 2 | .atomic => 3)
      else if i < 16 then byteOf c.regs.launch.toNat (i - 14) else 0
    c.pf = pre ++ q :: post → (∀ p ∈ pre, p.sent = true ∨ p.answer ≠ none) → q.sent = false → q.answer = none →
    (ctl.getLsbD 63 = true → used < size → (∀ r ∈ s.reqs, r.owner = Owner.device → r.ix = sigMark ∨ r.ix % 2 = 0) →
      ∃ t r, exec (.pfRequestWrite ctx) s = .next t ∧ t.ctx k = { c with pf := pre ++ { q with sent := true } :: post } ∧
        (∀ j, j ≠ k → t.ctx j = s.ctx j) ∧ t.reqs = s.reqs ++ [r] ∧ r.owner = .device ∧ r.ans = none ∧
        r.ix / 2 = ctl.toNat / 256 % 256 ∧ r.addr = (s.csr 0x80008).toNat / 4096 * 4096 + 32 * (tail % size) ∧
        r.act = .write ((List.range 32).map fun i => ⟨byte i, false⟩) ∧ ∀ a, t.peek a = s.peek a) ∧
    (ctl.getLsbD 63 = false ∨ size ≤ used → exec (.pfRequestWrite ctx) s = .next s)

/-- R424: a write of PF.ANSWER with the bank's GEN answers the oldest request of the blocking without an answer. The last answer lets the context go on, once what its slots asked of the host or a peer has ended, or, with a denial, drops the replay entries of the denied pages and raises PAGE_DENIED for the access that is first in program order. Any other answer is counted in PF.STALE. -/
def Sys2Proof.Parts.PageAnswers : Prop :=
  ∀ (s : State) (v : Word64),
    let k := (v.extractLsb' 0 12).toNat
    let gen := v.extractLsb' 48 16
    let ok := decide (v.extractLsb' 40 8 = 0)
    let c := s.ctx k
    (∀ pre post q, c.occ = .resident → c.gen = gen → c.pf = pre ++ q :: post → (∀ p ∈ pre, p.answer ≠ none) → q.answer = none →
      let pf := pre ++ { q with answer := some ok } :: post
      ((∃ p ∈ post, p.answer = none) → ∃ t, exec (.pfAnswer v) s = .next t ∧ t.ctx k = { c with pf } ∧ (∀ j, j ≠ k → t.ctx j = s.ctx j) ∧
        t.reqs = s.reqs ∧ t.dev = s.dev ∧ t.mem = s.mem) ∧
      (s.asksOut k = true → ∃ t, exec (.pfAnswer v) s = .next t ∧ t.ctx k = { c with pf }) ∧
      (s.asksOut k = false → (∀ p ∈ pf, p.answer = some true) → ∃ t, exec (.pfAnswer v) s = .next t ∧ t.ctx k = { c with pf := [] } ∧
        (∀ j, j ≠ k → t.ctx j = s.ctx j) ∧ t.mem = s.mem) ∧
      (∀ d ∈ pf, s.asksOut k = false → (∀ p ∈ pf, p.answer ≠ none) → d.answer = some false →
        (∀ p ∈ pf, p.answer = some false → p = d ∨ d.num < p.num ∨ (d.num = p.num ∧ d.slot < p.slot)) →
        c.regs.mode = 0 → (s.launchOf k).trapent ≠ 0 → Undebugged s k →
        let hit := fun r : Parked => decide (r.ctx = k ∧ ∃ x ∈ r.parts, ∃ p ∈ pf, p.answer = some false ∧ p.va.toNat / 0x10000 = x.1)
        let replay := (s.core (k / 2)).replay
        ∃ t, exec (.pfAnswer v) s = .next t ∧ (t.core (k / 2)).replay = replay.filter (fun r => !hit r) ∧
          (t.ctx k).pf = [] ∧ (t.ctx k).regs.mode = 1 ∧ (t.ctx k).pc = (s.launchOf k).trapent ∧
          ((t.ctx k).regs.ff.get 0 0x11).extractLsb' 0 8 = 0x21 ∧ (t.ctx k).regs.ff.get 0 0x17 = d.va ∧
          (t.ctx k).regs.ff.get 0 0x18 = BitVec.ofNat 64 (replay.filter hit).length)) ∧
    ((c.occ ≠ .resident ∨ c.gen ≠ gen ∨ ∀ q ∈ c.pf, q.answer ≠ none) →
      (∀ e ∈ s.ready ++ s.saving.map (·.entry), ∀ x, e.saved = some x → ¬ (x.ctx = k ∧ x.gen = gen ∧ ∃ q ∈ x.pf, q.answer = none)) →
      ∃ t, exec (.pfAnswer v) s = .next t ∧ t.csr 0x80030 = ((s.csr 0x80030).setWidth 48 + 1 : BitVec 48).setWidth 64 ∧
        (∀ o, o ≠ 0x80030 → t.csr o = s.csr o) ∧ t.ctxs = s.ctxs ∧ t.mem = s.mem)

/-- R429 to R431: DBG.ATTACH; a write of DBG.HALT halts the units it names in the selected context, with STEP lets its S sequencer issue one bundle, and with HALT = 0 while BRK is set returns as TRAPRET. -/
def Sys2Proof.Parts.DebugHalt : Prop :=
  ∀ (s : State) (v : Word64),
    let h := v.extractLsb' 0 5
    let step := v.getLsbD 16
    let same := fun (t : State) (k : Nat) => (∀ j, j ≠ k → t.ctx j = s.ctx j) ∧ ∀ a, t.peek a = s.peek a
    (v.getLsbD 63 = true → s.launch? (v.toNat % 2 ^ 16) = none → exec (.dbgAttach v) s = .next s) ∧
    (v.getLsbD 63 = false ∨ s.launch? (v.toNat % 2 ^ 16) ≠ none → ∃ t, exec (.dbgAttach v) s = .next t ∧
      t.csr 0x80040 = v &&& 0x800000000000FFFF ∧ (∀ o, o ≠ 0x80040 → t.csr o = s.csr o) ∧ t.ctxs = s.ctxs ∧ t.mem = s.mem) ∧
    ((s.csr 0x80040).getLsbD 63 = false → exec (.dbgHalt v) s = .next s ∧ exec (.dbgStep v) s = .next s ∧ exec (.dbgRelease v) s = .next s) ∧
    (∀ k, Selected s k →
      let c := s.ctx k
      (step = false → (h ≠ 0 ∨ c.brk = false) → (∃ t, exec (.dbgHalt v) s = .next t ∧ same t k ∧
        t.ctx k = { c with halt := h, stepOne := false, tagWait := if h.getLsbD 0 then none else c.tagWait }) ∧
        exec (.dbgStep v) s = .next s ∧ exec (.dbgRelease v) s = .next s) ∧
      (step = true → (h ≠ 0 ∨ c.brk = false) → (∃ t, exec (.dbgStep v) s = .next t ∧ same t k ∧
        t.ctx k = { c with halt := h ||| 1, stepOne := true, tagWait := none }) ∧ exec (.dbgHalt v) s = .next s ∧ exec (.dbgRelease v) s = .next s) ∧
      (∀ n i, step = false → h = 0 → c.brk = true → (n = 1 ∧ c.img1 = some i ∨ n = 2 ∧ c.img2 = some i) → c.regs.mode = BitVec.ofNat 2 n →
        c.regs.act = false → s.opaqueIntact ((s.launchOf k).slot c.regs.task.toNat + imageArea n) 0x2000 i.stamp = true →
        exec (.dbgHalt v) s = .next s ∧ ∃ t, exec (.dbgRelease v) s = .next t ∧ same t k ∧ (t.ctx k).brk = false ∧ (t.ctx k).halt = 0 ∧
          (t.ctx k).regs.mode = (c.regs.ff.get 0 (frameBase n)).extractLsb' 58 2 ∧ (t.ctx k).pc = c.regs.ff.get 0 (frameBase n + 1) ∧
          ((t.ctx k).older ++ [(t.ctx k).issue]).flatMap (·.todo) = (i.older ++ [i.issue]).flatMap (·.todo)))

/-- R429, R430: DBG.REG reaches a register only while every sequencer is stopped: a read puts its word in DBG.DATA, a write of DBG.DATA clears the word's poison and a capability's tag; a refused access sets ERR and reaches nothing. -/
def Sys2Proof.Parts.DebugRegisters : Prop :=
  ∀ (s : State) (v : Word64) (k : Nat), Selected s k →
    let c := s.ctx k
    let kind := (v.extractLsb' 32 4).toNat
    let num := (v.extractLsb' 8 12).toNat
    let word := (v.extractLsb' 0 8).toNat
    let data := s.csr 0x80060
    let wr := v.getLsbD 63
    let fields := v &&& 0x0000000F000FFFFF
    let others := fun t : State => ∀ o, o ∉ [0x80058, 0x80060] → t.csr o = s.csr o
    let reads := fun w : Word64 => wr = false → ∃ t, exec (.dbgRegRead v) s = .next t ∧ t.csr 0x80058 = fields ∧ t.csr 0x80060 = w ∧
      others t ∧ t.ctxs = s.ctxs ∧ t.mem = s.mem
    let writes := fun P : Regs → Prop => wr = true → ∃ t, exec (.dbgRegWrite v) s = .next t ∧ t.csr 0x80058 = fields ∧ t.csr 0x80060 = data ∧
      others t ∧ P (t.ctx k).regs ∧ ∀ j, j ≠ k → t.ctx j = s.ctx j
    let refuses := ∃ t, (if wr then exec (.dbgRegWrite v) s else exec (.dbgRegRead v) s) = .next t ∧
      t.csr 0x80058 = fields ||| 0x4000000000000000 ∧ t.csr 0x80060 = data ∧ others t ∧ t.ctxs = s.ctxs
    (s.allStopped k = false → refuses) ∧
    (s.allStopped k = true → (kind > 9 ∨ (kind ∈ [0, 1, 4, 5, 6, 7, 9] ∧ word ≠ 0) ∨ (kind = 2 ∧ 32 ≤ word) ∨ (kind = 3 ∧ 2 ≤ word) ∨
      (kind = 8 ∧ 64 ≤ word) ∨ (kind = 0 ∧ 64 ≤ num) ∨ (kind = 3 ∧ 16 ≤ num)) → refuses) ∧
    (s.allStopped k = true → kind = 0 → num < 64 → word = 0 → reads (c.regs.rx num).v ∧
      writes fun r => r.rx num = (if num = 0 then ⟨0, false⟩ else ⟨data, false⟩) ∧ OnlyX num c.regs r) ∧
    (s.allStopped k = true → kind = 1 → num < 96 → word = 0 → reads ((c.regs.rp num).v.setWidth 64) ∧
      writes fun r => r.rp num = (if num = 0 then ⟨1, false⟩ else ⟨data.setWidth 1, false⟩) ∧ OnlyP num c.regs r) ∧
    (s.allStopped k = true → kind = 2 → num < 64 → word < 32 → reads ((c.regs.rv num (2 * word + 1)).v ++ (c.regs.rv num (2 * word)).v) ∧
      writes fun r => r = { c.regs with v := r.v } ∧ r.rv num (2 * word) = ⟨data.setWidth 32, false⟩ ∧
        r.rv num (2 * word + 1) = ⟨data.extractLsb' 32 32, false⟩ ∧
        ∀ m l, m < 64 → l < 64 → (m ≠ num ∨ l / 2 ≠ word) → r.rv m l = c.regs.rv m l) ∧
    (s.allStopped k = true → kind = 3 → num < 16 → word < 2 → reads ((c.regs.rc num).bits.extractLsb' (64 * word) 64) ∧
      writes fun r => (r.rc num).tag = false ∧ (r.rc num).bits.extractLsb' (64 * word) 64 = data ∧
        (r.rc num).bits.extractLsb' (64 * (1 - word)) 64 = (c.regs.rc num).bits.extractLsb' (64 * (1 - word)) 64) ∧
    (s.allStopped k = true → kind = 4 → num < 32 → word = 0 → reads ((c.regs.rt num).v.setWidth 64) ∧
      writes fun r => r.rt num = ⟨data.setWidth 32, false⟩) ∧
    (s.allStopped k = true → kind = 6 → num < 4 → word = 0 → reads ((c.regs.loopCount num).setWidth 64) ∧
      (c.regs.lc.length = 4 → writes fun r => r.loopCount num = data.setWidth 32)) ∧
    (s.allStopped k = true → kind = 9 → num < c.regs.mask.length → num < 16 → word = 0 → reads (c.regs.mask.getD num 0) ∧
      writes fun r => r.mask.getD num 0 = data ∧ r.mask.length = c.regs.mask.length) ∧
    (s.allStopped k = true → kind = 7 → word = 0 → csrReadOnly num = true → wr = true → refuses)

/-- R437, R438, R440: the boot stages. COLD_RESET, POWER_LOSS and THERMAL_TRIP lose the device state; a good image leads to WAIT_CFG, any other to RECOVERY; BOOT.PEER leads to INIT, whose end clears memory and is READY; RECOV.GO and a verified update. -/
def Sys2Proof.Parts.BootStages : Prop :=
  ∀ (s : State) (v : Word64) (result : BitVec 2),
    let status := (s.csr 0x90200).toNat
    let lost := fun (t : State) (st : Nat → Prop) => t.ctxs = [] ∧ t.launches = [] ∧ t.cmds = [] ∧ t.reqs = [] ∧ t.cores = [] ∧ (∀ a, t.peek a = ⟨0, false⟩) ∧
      st (t.csr 0x90200).toNat ∧ ∀ o, o ≠ 0x90200 → t.csr o = csrReset o
    let only := fun (t : State) (os : List Nat) => t = { s with dev := t.dev, updating := t.updating } ∧ ∀ o, o ∉ os → t.csr o = s.csr o
    (∃ t, exec .coldReset s = .next t ∧ lost t (fun st => if s.flash then st = 2 else st = 5 + 256 ∨ st = 5 + 512) ∧ t.flash = s.flash) ∧
    (∃ t, exec (.bootPeerWrite v) s = .next t ∧ only t [0x90200, 0x90208] ∧ t.csr 0x90208 = v &&& 0x3FFF ∧
      (t.csr 0x90200).toNat = if status % 8 = 2 then 3 else status) ∧
    (status % 8 = 3 → ∃ t, exec .initComplete s = .next t ∧ (t.csr 0x90200).toNat = 4 ∧ (∀ a, t.peek a = ⟨0, false⟩) ∧
      t.peer = (s.csr 0x90208).toNat % 2 ^ 14 ∧ (∀ k, k < 8 → t.csr (0xA0000 + 8 * k) &&& 0x7FFFFFF800000000 = 0) ∧
      (∀ o, o ≠ 0x90200 → (o < 0xA0000 ∨ 0xA0040 ≤ o) → t.csr o = s.csr o) ∧ t.ctxs = s.ctxs) ∧
    (status % 8 ≠ 3 → exec .initComplete s = .next s) ∧
    (v.getLsbD 0 = true → (status % 8 = 4 ∨ status % 8 = 5) → ∃ t, exec (.recoveryGo v) s = .next t ∧ only t [0x90200] ∧
      (t.csr 0x90200).toNat = 5 ∧ t.updating = true) ∧
    (v.getLsbD 0 = false ∨ (status % 8 ≠ 4 ∧ status % 8 ≠ 5) → exec (.recoveryGo v) s = .next s) ∧
    (s.updating = true → result = 0 → ∃ t, exec (.flashUpdateComplete result) s = .next t ∧ lost t (fun st => st = 2) ∧ t.flash = true) ∧
    (s.updating = true → result ≠ 0 → ∃ t, exec (.flashUpdateComplete result) s = .next t ∧ only t [0x90200] ∧
      (t.csr 0x90200).toNat = 5 + 256 * (if result = 1 then 1 else 2) ∧ t.updating = false) ∧
    (s.updating = false → exec (.flashUpdateComplete result) s = .next s) ∧
    (∃ t, exec .powerLoss s = .next t ∧ lost t (fun st => st = 0) ∧ (s.updating = false → t.flash = s.flash) ∧ (t.flash = true → s.flash = true)) ∧
    (∃ t, exec .thermalTrip s = .next t ∧ lost t (fun st => st = 6) ∧ t.flash = s.flash)

/-- R6, R437: a write of a device register stores its RW bits, clears the W1C bits that it writes as 1, and leaves every other bit and register; before the device is READY only the registers of boot take a write. R325: BASE and LOG2SIZE of a served queue hold. -/
def Sys2Proof.Parts.RegisterWrites : Prop :=
  ∀ (s : State) (off : BitVec 32) (v : Word64),
    let stores := fun (o : Nat) (m clear : Word64) => off.toNat = o → ∃ t, exec (.registerWrite off v) s = .next t ∧
      t.csr o = ((s.csr o &&& ~~~m) ||| (v &&& m)) &&& ~~~(v &&& clear) ∧ (∀ p, p ≠ o → t.csr p = s.csr p) ∧ t = { s with dev := t.dev }
    ((s.csr 0x90200).toNat % 8 ≠ 4 → (off.toNat < 0x90200 ∨ 0x90300 ≤ off.toNat) → exec (.registerWrite off v) s = .next s) ∧
    (stores 0x90210 0xFFFFFFFFFFFFF000 0 ∧ stores 0x90218 0xFFFFFFFFFFFFFFFF 0) ∧
    ((s.csr 0x90200).toNat % 8 = 4 →
      stores 0x800 0x1FF 0 ∧ stores 0x810 0x01FFFFFFFFFF0000 0 ∧ stores 0x80000 0x01FFFFFFFFFFFFFF 0 ∧ stores 0x80008 0xFFFFFFFFFFFFF000 0 ∧
      stores 0x80010 0x800000000000FF1F 0 ∧ stores 0x80020 0xFFFFFFFF 0 ∧ stores 0x80030 0xFFFFFFFFFFFF 0 ∧ stores 0x80048 0xFFF 0 ∧
      stores 0x80060 0xFFFFFFFFFFFFFFFF 0 ∧ stores 0x90100 0x3FFFF 0 ∧ stores 0x90320 0xFFFFFFFFFFFFF000 0 ∧ stores 0xA0040 0xFF 0 ∧
      stores 0xA0200 0xFF0FFF 0 ∧ (∀ k, k < 8 → stores (0xA0000 + 8 * k) 0x80000007FFFFFFFF 0) ∧
      (∀ q, q < 64 →
        let z := 0x40000 + 0x20 * q
        let served := (s.csr (z + 8)).getLsbD 63
        (served = false → stores z 0xFFFFFFFFFFFFF000 0 ∧ stores (z + 8) 0x800000000000031F 0x4000000000000000) ∧
        (served = true → stores (z + 8) 0x8000000000000300 0x4000000000000000 ∧ (off.toNat = z → exec (.registerWrite off v) s = .next s)) ∧
        stores (z + 0x18) 0xFFFFFFFF 0))

/-- R434, R423, R439: HOST_LINK_COMPLETION of a request that waits for the host gives it the bytes it asked for, or fails it with PROT_FAULT; a completed page request counts in PF.TAIL and raises IVEC; SIG.CMD sends the report and reads 1 until it is written. -/
def Sys2Proof.Parts.HostLink : Prop :=
  ∀ (s : State) (n : Nat) (err : Bool) (data : List (Val 8)) (r : Req) (v : Word64),
    let asked := match r.act with | .read m => m | .atomic _ w8 _ _ _ => if w8 then 8 else 4 | _ => 0
    let carried := (∃ m, r.act = .read m) ∨ (∃ b, r.act = .write b) ∨ ∃ op w x y o, r.act = .atomic op w x y o
    let only := fun (t : State) (os : List Nat) => (∀ o, o ∉ os → t.csr o = s.csr o) ∧ t.ctxs = s.ctxs ∧ t.mem = s.mem
    (s.reqs.find? (fun q => decide (q.tag = n)) = some r → r.ans = none → carried →
      ((r.owner = .device ∨ r.addr / 2 ^ 50 = s.peer) → err = false → data.length ≠ asked → exec (.hostLinkCompletion n err data) s = .next s) ∧
      (∀ k j, r.owner = .slot k j → r.addr / 2 ^ 50 = s.peer → (err = true ∨ data.length = asked) →
        ∃ t, exec (.hostLinkCompletion n err data) s = .next t ∧ only t [] ∧
          t.reqs = s.reqs.map fun q => if q.tag = n then { q with ans := some (if err then .fail 0x22 0 else .data data) } else q) ∧
      (r.owner = .device → r.ix ≠ sigMark → r.ix % 2 = 1 → (err = true ∨ data.length = asked) →
        ∃ t, exec (.hostLinkCompletion n err data) s = .next t ∧ only t [0x80018] ∧
          (t.csr 0x80018).toNat = ((s.csr 0x80018).toNat + 1) % 2 ^ 32 ∧ t.irqs = s.irqs ++ [r.ix / 2] ∧ ∀ q ∈ t.reqs, q.tag ≠ n) ∧
      (r.owner = .device → r.ix = sigMark → err = false → data.length = asked →
        ∃ t, exec (.hostLinkCompletion n err data) s = .next t ∧ only t [0x90328] ∧ t.csr 0x90328 = 0 ∧ ∀ q ∈ t.reqs, q.tag ≠ n)) ∧
    (s.reqs.find? (fun q => decide (q.tag = n)) = none → exec (.hostLinkCompletion n err data) s = .next s) ∧
    (v.getLsbD 0 = true → s.csr 0x90328 = 0 → s.booted = true →
      ∃ t q bs, exec (.sigCmd v) s = .next t ∧ only t [0x90328] ∧ t.csr 0x90328 = 1 ∧ t.reqs = s.reqs ++ [q] ∧ q.owner = .device ∧
        q.addr = (s.csr 0x90320).toNat / 4096 * 4096 ∧ q.act = .write bs ∧ 256 ≤ bs.length ∧ bs.length ≤ 1280) ∧
    (v.getLsbD 0 = false ∨ s.csr 0x90328 ≠ 0 → exec (.sigCmd v) s = .next s)

/-- R437, R402: while the device is not READY no context runs and GT stands: a step that meets no request leaves them as they are, or all of the device state is lost. -/
def Sys2Proof.Parts.QuietUntilReady : Prop :=
  ∀ (s t : State), s.bootStage ≠ 4 → s.reqs = [] → step s = .next t →
    (t.ctxs = s.ctxs ∧ t.gt = s.gt ∧ t.reqs = []) ∨ (t.ctxs = [] ∧ t.gt = 0 ∧ t.reqs = [])

/-- R88, R94: the two words of NOP, their class, their effect; a reserved major is ILLEGAL_OPCODE whatever else the word holds, and major 0 and the prefixes have the F value 0 only (LIMM has none). -/
def Sys2Proof.Parts.NopAndReserved : Prop :=
  (∀ w : BitVec 32, majorOf w = 0 →
    (w &&& 0xFFFFFF = 0 → w ∈ [0x00000000#32, 0x80000000#32] ∧ decode w = .ok (.nop (stops w))) ∧
    (w &&& 0xFFFFFF ≠ 0 → decode w = .error .illegalFunction)) ∧
  (∀ w : BitVec 32, ∀ st, decode w = .ok (.nop st) → majorOf w = 0) ∧
  (∀ st, (Instr.nop st).slotInfo = { cls := .none, exu := .s, limm := none, deps := false, writes := [], bank := none }) ∧
  (∀ mode, bundleCheck mode [0x80000000] = none) ∧
  (∀ (s : State) (st : Bool), Running s → Gives s (.nop st) fun r => r = s.regs) ∧
  (∀ (w : BitVec 32) (mode : BitVec 2) (ws : List (BitVec 32)) (i : Nat),
    (4 ≤ majorOf w ∧ majorOf w ≤ 15) ∨ majorOf w ∈ [0x26, 0x27, 0x37, 0x56, 0x57, 0x68, 0x69, 0x6A, 0x6B, 0x7F] →
    decode w = .error .illegalOpcode ∧ (wordAt ws i = w → slotCheck mode ws i = some (.illegalOpcode, i))) ∧
  (∀ (w : BitVec 32) (i : Instr), decode w = .ok i → majorOf w ∈ [0, 2, 3] → w.extractLsb' 0 6 = 0)

/-- R412: CMINT and CODESWAP are permitted in SYSTEM, TRAPRET in HANDLER and SYSTEM; elsewhere their bundle raises PRIV_VIOLATION. -/
def Sys2Proof.Parts.PrivilegedForms : Prop :=
  ∀ (mode : BitVec 2) (d a b : BitVec 6) (w : BitVec 32), mode ≠ 3 →
    (encode (.cmint true d a b) = some w → d < 16 → bundleCheck mode [w] = if mode = 2 then none else some (.privViolation, 0)) ∧
    (encode (.codeswap true a b) = some w → bundleCheck mode [w] = if mode = 2 then none else some (.privViolation, 0)) ∧
    (encode (.trapret true) = some w → bundleCheck mode [w] = if mode = 0 then some (.privViolation, 0) else none)

/-- R121 to R124: the words of the forms of ADD, SUB, ADDI, MUL and DIV. They run in S; ADDI alone accepts LIMM, none of them DEPS. -/
def Sys2Proof.Parts.IntegerForms : Prop :=
  (∀ (st : Bool) (d a b : BitVec 6) (i : BitVec 12),
    let word := fun (op : BitVec 7) (b f : BitVec 6) => some (BitVec.ofBool st ++ op ++ d ++ a ++ b ++ f : BitVec 32)
    encode (.add st d a b) = word 0x10 b 0x00 ∧ encode (.addS32 st d a b) = word 0x10 b 0x01 ∧ encode (.addZ32 st d a b) = word 0x10 b 0x02 ∧
    encode (.addSatS64 st d a b) = word 0x10 b 0x04 ∧ encode (.addSatZ64 st d a b) = word 0x10 b 0x05 ∧
    encode (.addSatS32 st d a b) = word 0x10 b 0x06 ∧ encode (.addSatZ32 st d a b) = word 0x10 b 0x07 ∧
    encode (.sub st d a b) = word 0x11 b 0x00 ∧ encode (.subS32 st d a b) = word 0x11 b 0x01 ∧ encode (.subZ32 st d a b) = word 0x11 b 0x02 ∧
    encode (.subSatS64 st d a b) = word 0x11 b 0x04 ∧ encode (.subSatZ64 st d a b) = word 0x11 b 0x05 ∧
    encode (.subSatS32 st d a b) = word 0x11 b 0x06 ∧ encode (.subSatZ32 st d a b) = word 0x11 b 0x07 ∧
    encode (.addi st d a i) = word 0x12 (i.extractLsb' 6 6) (i.extractLsb' 0 6) ∧
    encode (.mul st d a b) = word 0x13 b 0x00 ∧ encode (.mulhS64 st d a b) = word 0x13 b 0x01 ∧ encode (.mulhZ64 st d a b) = word 0x13 b 0x02 ∧
    encode (.mulS32 st d a b) = word 0x13 b 0x03 ∧ encode (.mulZ32 st d a b) = word 0x13 b 0x04 ∧ encode (.mla st d a b) = word 0x13 b 0x08 ∧
    encode (.divS64 st d a b) = word 0x14 b 0x00 ∧ encode (.divZ64 st d a b) = word 0x14 b 0x01 ∧ encode (.remS64 st d a b) = word 0x14 b 0x02 ∧
    encode (.remZ64 st d a b) = word 0x14 b 0x03 ∧ encode (.divS32 st d a b) = word 0x14 b 0x04 ∧ encode (.divZ32 st d a b) = word 0x14 b 0x05 ∧
    encode (.remS32 st d a b) = word 0x14 b 0x06 ∧ encode (.remZ32 st d a b) = word 0x14 b 0x07) ∧
  ∀ (w : BitVec 32) (i : Instr), decode w = .ok i → majorOf w ∈ [0x10, 0x11, 0x12, 0x13, 0x14] →
    i.slotInfo.exu = .s ∧ i.slotInfo.deps = false ∧ i.slotInfo.limm = if majorOf w = 0x12 then some (12, true) else none

/-- R125 to R128: the words of the forms of LOGIC, SHIFT, BITS, MINMAX, BFX, BFI and EXT. They run in S; the immediate forms of LOGIC alone accept LIMM, none of them DEPS; the field values that these rules shut out are ILLEGAL_FUNCTION. -/
def Sys2Proof.Parts.LogicForms : Prop :=
  (∀ (st w : Bool) (d a b f : BitVec 6),
    let word := fun (op : BitVec 7) (b f : BitVec 6) => some (BitVec.ofBool st ++ op ++ d ++ a ++ b ++ f : BitVec 32)
    let sh := fun (i : Bool) (k : BitVec 3) => (BitVec.ofBool i ++ (0 : BitVec 1) ++ BitVec.ofBool w ++ k : BitVec 6)
    encode (.and st d a b) = word 0x15 b 0x00 ∧ encode (.or st d a b) = word 0x15 b 0x01 ∧ encode (.xor st d a b) = word 0x15 b 0x02 ∧
    encode (.andn st d a b) = word 0x15 b 0x03 ∧ encode (.orn st d a b) = word 0x15 b 0x04 ∧ encode (.xnor st d a b) = word 0x15 b 0x05 ∧
    encode (.nand st d a b) = word 0x15 b 0x06 ∧ encode (.nor st d a b) = word 0x15 b 0x07 ∧
    encode (.andi st d a b) = word 0x15 b 0x20 ∧ encode (.ori st d a b) = word 0x15 b 0x21 ∧ encode (.xori st d a b) = word 0x15 b 0x22 ∧
    encode (.andni st d a b) = word 0x15 b 0x23 ∧ encode (.orni st d a b) = word 0x15 b 0x24 ∧ encode (.xnori st d a b) = word 0x15 b 0x25 ∧
    encode (.nandi st d a b) = word 0x15 b 0x26 ∧ encode (.nori st d a b) = word 0x15 b 0x27 ∧
    encode (.shl st d a b w) = word 0x16 b (sh false 0) ∧ encode (.shr st d a b w) = word 0x16 b (sh false 1) ∧
    encode (.sar st d a b w) = word 0x16 b (sh false 2) ∧ encode (.rol st d a b w) = word 0x16 b (sh false 3) ∧
    encode (.ror st d a b w) = word 0x16 b (sh false 4) ∧ encode (.shli st d a b w) = word 0x16 b (sh true 0) ∧
    encode (.shri st d a b w) = word 0x16 b (sh true 1) ∧ encode (.sari st d a b w) = word 0x16 b (sh true 2) ∧
    encode (.roli st d a b w) = word 0x16 b (sh true 3) ∧ encode (.rori st d a b w) = word 0x16 b (sh true 4) ∧
    encode (.clz st d a) = word 0x17 0 0x00 ∧ encode (.ctz st d a) = word 0x17 0 0x01 ∧ encode (.popc st d a) = word 0x17 0 0x02 ∧
    encode (.brev st d a) = word 0x17 0 0x03 ∧ encode (.bswap st d a) = word 0x17 0 0x04 ∧
    encode (.minS64 st d a b) = word 0x18 b 0x00 ∧ encode (.maxS64 st d a b) = word 0x18 b 0x01 ∧
    encode (.minZ64 st d a b) = word 0x18 b 0x02 ∧ encode (.maxZ64 st d a b) = word 0x18 b 0x03 ∧
    encode (.bfx st d a b f) = word 0x19 b f ∧ encode (.bfi st d a b f) = word 0x1A b f ∧
    encode (.extZ st d a f) = word 0x1B 0 f ∧ encode (.extS st d a f) = word 0x1B 1 f) ∧
  (∀ (w : BitVec 32) (i : Instr), decode w = .ok i → majorOf w ∈ [0x15, 0x16, 0x17, 0x18, 0x19, 0x1A, 0x1B] →
    i.slotInfo.exu = .s ∧ i.slotInfo.deps = false ∧ i.slotInfo.limm = if majorOf w = 0x15 ∧ w.getLsbD 5 = true then some (6, true) else none) ∧
  ∀ w : BitVec 32,
    let b := w.extractLsb' 6 6
    let k := w.extractLsb' 0 3
    (majorOf w = 0x15 → w.extractLsb' 3 2 ≠ 0 → decode w = .error .illegalFunction) ∧
    (majorOf w = 0x16 → (5 ≤ k ∨ w.getLsbD 4 = true ∨ (w.getLsbD 5 = true ∧ w.getLsbD 3 = true ∧ 32 ≤ b)) → decode w = .error .illegalFunction) ∧
    (majorOf w = 0x17 → (b ≠ 0 ∨ 5 ≤ w.extractLsb' 0 6) → decode w = .error .illegalFunction) ∧
    (majorOf w = 0x18 → 4 ≤ w.extractLsb' 0 6 → decode w = .error .illegalFunction) ∧
    (majorOf w = 0x1B → 2 ≤ b → decode w = .error .illegalFunction)

/-- R129 to R131: the words of the forms of CMP, CMPI, PLOGIC and SEL. They run in S; CMPI alone accepts LIMM, none of them DEPS; the conditions and predicate numbers that these rules shut out are ILLEGAL_FUNCTION. -/
def Sys2Proof.Parts.CompareForms : Prop :=
  (∀ (st : Bool) (p q u : BitVec 7) (d a b : BitVec 6) (c : BitVec 3),
    let word := fun (op : BitVec 7) (d a b f : BitVec 6) => some (BitVec.ofBool st ++ op ++ d ++ a ++ b ++ f : BitVec 32)
    let lo := fun p : BitVec 7 => p.extractLsb' 0 6
    let hi := fun p : BitVec 7 => p.extractLsb' 6 1
    let plogic := fun f : BitVec 3 => word 0x1E (lo p) (lo q) (lo u) (hi p ++ hi q ++ hi u ++ f)
    encode (.cmp st p a b c) = word 0x1C (lo p) a b (hi p ++ (0 : BitVec 2) ++ c) ∧
    encode (.cmpi st p a b c) = word 0x1D (lo p) a b (hi p ++ (0 : BitVec 2) ++ c) ∧
    encode (.pand st p q u) = plogic 0 ∧ encode (.por st p q u) = plogic 1 ∧ encode (.pxor st p q u) = plogic 2 ∧
    encode (.pandn st p q u) = plogic 3 ∧ encode (.porn st p q u) = plogic 4 ∧ encode (.pxnor st p q u) = plogic 7 ∧
    encode (.pmov st p q) = word 0x1E (lo p) (lo q) 0 (hi p ++ hi q ++ (0 : BitVec 1) ++ (5 : BitVec 3)) ∧
    encode (.pnot st p q) = word 0x1E (lo p) (lo q) 0 (hi p ++ hi q ++ (0 : BitVec 1) ++ (6 : BitVec 3)) ∧
    encode (.sel st d a p) = word 0x1F d a (lo p) (hi p ++ (0 : BitVec 5)) ∧ encode (.selz st d a p) = word 0x1F d a (lo p) (hi p ++ (1 : BitVec 5)) ∧
    encode (.seln st d a p) = word 0x1F d a (lo p) (hi p ++ (2 : BitVec 5))) ∧
  (∀ (w : BitVec 32) (i : Instr), decode w = .ok i → majorOf w ∈ [0x1C, 0x1D, 0x1E, 0x1F] →
    i.slotInfo.exu = .s ∧ i.slotInfo.deps = false ∧
    i.slotInfo.limm = if majorOf w = 0x1D then some (6, decide (w.extractLsb' 0 3 ≠ 4 ∧ w.extractLsb' 0 3 ≠ 5)) else none) ∧
  ∀ w : BitVec 32,
    let p := fun (bit lo : Nat) => (w.extractLsb' bit 1 ++ w.extractLsb' lo 6 : BitVec 7)
    let f := w.extractLsb' 0 3
    ((majorOf w = 0x1C ∨ majorOf w = 0x1D) → (w.extractLsb' 3 2 ≠ 0 ∨ 96 ≤ p 5 18) → decode w = .error .illegalFunction) ∧
    (majorOf w = 0x1E → (96 ≤ p 5 18 ∨ 96 ≤ p 4 12 ∨ 96 ≤ p 3 6 ∨ ((f = 5 ∨ f = 6) ∧ (w.extractLsb' 6 6 ≠ 0 ∨ w.getLsbD 3 = true))) →
      decode w = .error .illegalFunction) ∧
    (majorOf w = 0x1F → (96 ≤ p 5 6 ∨ 3 ≤ w.extractLsb' 0 5) → decode w = .error .illegalFunction)

/-! ## Obligations -/

/-- Integer sums, products and quotients: results, poison, encodings, prefixes. -/
def Obligations.IntegerArithmetic : Prop :=
  Sys2Proof.Parts.AddSubtract ∧ Sys2Proof.Parts.Multiply ∧ Sys2Proof.Parts.Divide ∧ Sys2Proof.Parts.IntegerForms

/-- Logic, shifts, bit counts, minima and bit fields: results, encodings, prefixes. -/
def Obligations.IntegerLogic : Prop :=
  Sys2Proof.Parts.Logic ∧ Sys2Proof.Parts.Shift ∧ Sys2Proof.Parts.BitsMinMax ∧ Sys2Proof.Parts.BitFields ∧ Sys2Proof.Parts.LogicForms

/-- Compares, predicate logic and selection: results, encodings, prefixes. -/
def Obligations.CompareAndSelect : Prop :=
  Sys2Proof.Parts.ComparePredicate ∧ Sys2Proof.Parts.CompareForms

/-- Scalar floating-point results, special values, flags and compares. -/
def Obligations.ScalarFloatForms : Prop :=
  Sys2Proof.Parts.ScalarFloat ∧ Sys2Proof.Parts.FloatSpecials ∧ Sys2Proof.Parts.FloatCompare

/-- R33: rounding is correct. For the magnitude m × 2^e of a sign, not above the largest finite value, the result of `round` is a finite value y of the format; under RNE no value of the format lies nearer, and of two that are as near y has the even significand; under RTZ, RDN and RUP it is the nearest value toward zero, −∞ or +∞; and NX is set exactly when y is not the value itself. -/
def Obligations.RoundingIsNearest : Prop :=
  ∀ (t rm : BitVec 2) (neg : Bool) (m : Nat) (e : Int), 0 < m →
    let f := scalarFmt t
    let val := fun v : Fl => match v with
      | .num n k p => some ((if n then (-1 : ℚ) else 1) * k * (2 : ℚ) ^ p)
      | _ => none
    let x : ℚ := (if neg then -1 else 1) * m * (2 : ℚ) ^ e
    let r := f.round rm false neg m e false
    (m : ℚ) * (2 : ℚ) ^ e ≤ (f.maxSig : ℚ) * (2 : ℚ) ^ f.maxExp →
    ∃ y : ℚ, val (f.value r.1) = some y ∧ (r.2.getLsbD 0 = decide (y ≠ x)) ∧
      ∀ b z, val (f.value b) = some z → match rm.toNat with
        | 0 => |y - x| ≤ |z - x| ∧ (|y - x| = |z - x| → z ≠ y → r.1 % 2 = 0)
        | 1 => |y| ≤ |x| ∧ (|z| ≤ |x| → 0 ≤ z * x → |z| ≤ |y|)
        | 2 => y ≤ x ∧ (z ≤ x → z ≤ y)
        | _ => x ≤ y ∧ (x ≤ z → y ≤ z)

/-- Branches, calls and loop counters: targets, links and counts. -/
def Obligations.BranchesAndLoops : Prop :=
  Sys2Proof.Parts.Branches ∧ Sys2Proof.Parts.Loops

/-- R413, R414, R416, R417: taking an exception. In NORMAL mode, not by SVC, with a TRAPENT, the launch handler is entered at level 1; otherwise, but for SYSTEM mode and where there is no system handler, the system handler at level 2. The frame records the cause with its raiser and the mode, the bundle where the S sequencer goes on, those of the oldest slots of the queues, the address and the information. -/
def Obligations.ExceptionEntry : Prop :=
  ∀ (s : State) (k : Nat) (e : Exc), Undebugged s k → e.async = none → e.seq < 8 → e.slot < 8 →
    let c := s.ctx k
    let l := s.launchOf k
    let sys := (s.csr csrTrapEnt).extractLsb' 0 57
    let cause : Word64 :=
      (1 : BitVec 1) ++ (0 : BitVec 1) ++ BitVec.ofBool e.svc ++ BitVec.ofBool e.fetch ++ c.regs.mode ++ (0 : BitVec 2) ++
        BitVec.ofNat 3 e.seq ++ BitVec.ofNat 3 e.slot ++ (0 : BitVec 42) ++ e.trap.cause
    let front := c.younger.getLastD c.issue
    let pcS := if ∃ q ∈ front.todo, q.exu = .s then front.target.getD front.next else c.pc
    let queue := fun u : ExecUnit =>
      (((c.older ++ c.issue :: c.younger).find? fun i => i.todo.any fun q => q.exu = u).map (·.addr)).getD pcS
    let frame := [cause, pcS, queue .vl, queue .va, queue .vs, queue .mx, e.trap.addr, e.trap.info, 0, if e.seq = 0 then e.issued else 0]
    (c.regs.mode = 0 → e.svc = false → l.trapent ≠ 0 → Entered s (s.takeException k e) k 1 l.trapent frame) ∧
    (c.regs.mode ≠ 2 → (c.regs.mode ≠ 0 ∨ e.svc = true ∨ l.trapent = 0) → sys ≠ 0 →
      Entered s (s.takeException k e) k 2 (sys.signExtend 64) frame)

/-- TRAP, SVC, BRK and TRAPRET. -/
def Obligations.TrapsAndReturn : Prop :=
  Sys2Proof.Parts.TrapSvcBrk ∧ Sys2Proof.Parts.TrapReturn

/-- Capability instructions: narrowing, fields, shapes, minting. -/
def Obligations.Capabilities : Prop :=
  Sys2Proof.Parts.Narrow ∧ Sys2Proof.Parts.CapabilityFields ∧ Sys2Proof.Parts.ShapeAttach ∧ Sys2Proof.Parts.Mint

/-- R142, R145: TRANS makes a handle PENDING for the page that holds its address, whatever its permissions, and raises PROT_FAULT for an address that is not canonical; HGET reads a handle; HDROP empties one. -/
def Obligations.Handles : Prop :=
  ∀ (s : State) (st : Bool) (d a : BitVec 6), Running s →
    let x := s.old.rx a.toNat
    let h := s.old.rh a.toNat
    let canon := ∀ i, 56 ≤ i → i < 64 → x.v.getLsbD i = x.v.getLsbD 56
    let only := fun r : Regs => r = { s.regs with h := r.h } ∧ ∀ n, n ≠ d.toNat → r.rh n = s.regs.rh n
    let reads := fun (i : Instr) (v : Word64) => Gives s i fun r => OnlyX d.toNat s.regs r ∧ r.rx d.toNat = xAfter d ⟨v, false⟩
    (x.psn = false → canon → Gives s (.trans st d a) fun r => only r ∧ (r.rh d.toNat).st = .pending ∧ (r.rh d.toNat).walk = .none ∧
      (r.rh d.toNat).page.toNat ≤ x.v.toNat ∧ x.v.toNat < (r.rh d.toNat).page.toNat + pageBytes (r.rh d.toNat).size) ∧
    (x.psn = false → ¬ canon → exec (.trans st d a) s = .next (s.raise (.prot x.v))) ∧
    reads (.hgetState st d a) (match h.st with | .empty => 0 | .pending => 1 | .valid => 2 | .stale => 3) ∧
    reads (.hgetPage st d a) h.page ∧ reads (.hgetSize st d a) (BitVec.ofNat 64 h.size) ∧
    Gives s (.hdrop st d) fun r => only r ∧ r.rh d.toNat = { st := .empty, page := 0, size := 0, leaf := 0, walk := .none }

/-- R119: the instructions that raise POISON_CONSUMED for a poisoned operand, with the register that raised it. -/
def Obligations.PoisonRaises : Prop :=
  ∀ (s : State) (st : Bool) (p q u : BitVec 7) (d a b : BitVec 6) (c : BitVec 3) (t : BitVec 2) (i : BitVec 12) (m : BitVec 8) (n : BitVec 12),
    let raises := fun (i : Instr) (k r : Nat) => exec i s = .next (s.raise (.poison (BitVec.ofNat 64 (256 * k + r))))
    ((s.old.rx a.toNat).psn = true →
      (∀ j ∈ [Instr.cmp st p a b c, .cmpi st p a b c, .fcmp st p a b t c, .bri st d a i, .ret st a, .loopPush st a, .trans st d a,
        .csrw st a n, .join st a i, .leave st a i], raises j 0 a.toNat) ∧
      (s.regs.mode = 2 → raises (.cmint st d a b) 0 a.toNat ∧ raises (.codeswap st a b) 0 a.toNat)) ∧
    ((s.old.rx a.toNat).psn = false → (s.old.rx b.toNat).psn = true →
      (∀ j ∈ [Instr.cmp st p a b c, .fcmp st p a b t c], raises j 0 b.toNat) ∧
      (s.regs.mode = 2 → raises (.cmint st d a b) 0 b.toNat ∧ raises (.codeswap st a b) 0 b.toNat)) ∧
    ((s.old.rp q.toNat).psn = true →
      ∀ j ∈ [Instr.pand st p q u, .por st p q u, .pxor st p q u, .pandn st p q u, .porn st p q u, .pxnor st p q u, .pmov st p q,
        .pnot st p q, .sel st d a q, .selz st d a q, .seln st d a q], raises j 1 q.toNat) ∧
    ((s.old.rp q.toNat).psn = false → (s.old.rp u.toNat).psn = true →
      ∀ j ∈ [Instr.pand st p q u, .por st p q u, .pxor st p q u, .pandn st p q u, .porn st p q u, .pxnor st p q u], raises j 1 u.toNat) ∧
    ((s.old.rc a.toNat).psn = true →
      ∀ j ∈ [Instr.cnarrowOff st d a b, .cnarrowLen st d a b, .cnarrowBase st d a b, .cnarrowiOff st d a b, .cnarrowiLen st d a b,
        .cnarrowiBase st d a b, .cperm st d a m, .cshape st d a b], raises j 3 a.toNat)

/-- R150 to R153, R157, R158: element-wise arithmetic on the integer types, exact and then wrapped or, with SAT, clamped, and on the float types, rounded with FCSR.RM; VFMA and VFMS round once; a poisoned operand poisons its element. -/
def Obligations.VectorArithmetic : Prop :=
  ∀ (s : State) (st c o : Bool) (d a b : BitVec 6) (v : BitVec 4), Running s →
    let ty := eltType v
    let w := ty.width
    let rm := s.old.rm
    let va := fun e => s.old.elt a.toNat w e
    let vb := fun e => if c then s.old.scalar b.toNat w else s.old.elt b.toNat w e
    let vd := fun e => s.old.elt d.toNat w e
    let signed := v.toNat < 4 ∨ v = 15
    let num := fun x : Nat => if signed then (BitVec.ofNat w x).toInt else ((x % 2 ^ w : Nat) : Int)
    let lo : Int := if signed then -2 ^ (w - 1) else 0
    let hi : Int := if signed then 2 ^ (w - 1) - 1 else 2 ^ w - 1
    let put := fun (sat : Bool) (z : Int) => ((((if sat then max lo (min hi z) else z) % 2 ^ w).toNat, 0) : Nat × BitVec 5)
    let two := fun (i : Instr) (int : Int → Int → Nat × BitVec 5) (fl : Fmt → Nat → Nat → Nat × BitVec 5) =>
      i.wf = true → GivesV s i d w fun e => lift2 (va e) (vb e) fun x y =>
        match ty with | .fl t => fl t x y | _ => int (num x) (num y)
    let one := fun (i : Instr) (f : Nat → Nat × BitVec 5) => i.wf = true → GivesV s i d w fun e => lift1 (va e) f
    let fused := fun (i : Instr) (np nc : Bool) => i.wf = true → ∀ t, ty = .fl t → GivesV s i d w fun e =>
      lift3 (va e) (vb e) (vd e) fun x y z => fpFma t rm np nc x y z
    let quo := fun x y : Int => if y = 0 then put false (-1) else put false (if signed then x.tdiv y else x / y)
    two (.vadd st d a b c o v) (fun x y => put o (x + y)) (fun t x y => fpAdd t rm false x y) ∧
    two (.vsub st d a b c o v) (fun x y => put o (x - y)) (fun t x y => fpAdd t rm true x y) ∧
    two (.vmul st d a b c o v) (fun x y => put o (x * y)) (fun t x y => fpMul t rm x y) ∧
    two (.vmin st d a b c v) (fun x y => put false (min x y)) (fun t x y => fpMinMax t false x y) ∧
    two (.vmax st d a b c v) (fun x y => put false (max x y)) (fun t x y => fpMinMax t true x y) ∧
    two (.vdiv st d a b c v) quo (fun t x y => fpDiv t rm x y) ∧
    fused (.vfma st d a b c o v) o false ∧ fused (.vfms st d a b c o v) o true ∧
    one (.vsqrt st d a v) (fun x => match ty with | .fl t => fpSqrt t rm x | _ => (0, 0)) ∧
    one (.vabs st d a o v) (fun x => match ty with
      | .fl t => (if (t.value x).isNan then t.nan else x % 2 ^ (w - 1), 0) | _ => put o ((num x).natAbs : Int)) ∧
    one (.vneg st d a o v) (fun x => match ty with
      | .fl t => (if (t.value x).isNan then t.nan else if (t.value x).isNeg then x % 2 ^ (w - 1) else x % 2 ^ (w - 1) + 2 ^ (w - 1), 0)
      | _ => put o (-(num x)))

/-- Vector approximations and conversions. -/
def Obligations.VectorFunctions : Prop :=
  Sys2Proof.Parts.VectorApproximations ∧ Sys2Proof.Parts.VectorConvert

/-- Vector logic, shifts and compares. -/
def Obligations.VectorLogicAndCompare : Prop :=
  Sys2Proof.Parts.VectorLogicShift ∧ Sys2Proof.Parts.VectorCompare

/-- Vector element moves, permutations and the mask stack. -/
def Obligations.VectorMoves : Prop :=
  Sys2Proof.Parts.VectorElements ∧ Sys2Proof.Parts.VectorPermute ∧ Sys2Proof.Parts.MaskStack

/-- R43, R170, R171: reductions, whatever the mask: of integers exactly, into a 64-bit result in lanes 0 and 1; of floats by the tree of R43 in which an inactive element counts as the identity. VDOT accumulates the exact sum of the products of a lane. -/
def Obligations.VectorReduce : Prop :=
  ∀ (s : State) (st c sat : Bool) (d a b : BitVec 6) (v : BitVec 4), Running s →
    let ty := eltType v
    let w := ty.width
    let old := s.old
    let on := fun e => old.active (maskLane w e)
    let va := fun e => old.elt a.toNat w e
    let signed := v.toNat < 4 ∨ v = 15
    let num := fun n : Nat => if signed then (BitVec.ofNat w n).toInt else ((n % 2 ^ w : Nat) : Int)
    let psn := (elements w).any fun e => on e && (va e).psn
    let wide := match ty with | .fl t => decide (t.width = 64) | _ => true
    let last := if wide then 2 else 1
    let nodes := fun (f : Fmt → Nat → Nat → Nat × BitVec 5) (id : Fmt → Nat) (t : Fmt) =>
      tree (f t) (Nat.log2 (2048 / w)) ((elements w).map fun e => if on e then (va e).v else id t)
    let reduces := fun (i : Instr) (fl : Fmt → Nat → Nat → Nat × BitVec 5) (id : Fmt → Nat) (int : Int → Prop) => i.wf = true →
      Gives s i fun r => OnlyV d.toNat s.regs r ∧ (∀ l, last ≤ l → l < 64 → r.rv d.toNat l = s.regs.rv d.toNat l) ∧
        (∀ l, l < last → (r.rv d.toNat l).psn = psn) ∧
        (psn = true → (∀ l, l < last → (r.rv d.toNat l).v = 0) ∧ r.fcsr = s.regs.fcsr) ∧
        (psn = false → match ty with
          | .fl t => (if wide then (r.elt d.toNat 64 0).v = (nodes fl id t).1 % 2 ^ 64 else (r.rv d.toNat 0).v.toNat = (nodes fl id t).1 % 2 ^ 32) ∧
              r.fcsr = s.regs.fcsr ||| (nodes fl id t).2.setWidth 32
          | _ => (∃ z, int z ∧ ((r.elt d.toNat 64 0).v : Int) = z % 2 ^ 64) ∧ r.fcsr = s.regs.fcsr)
    reduces (.vredAdd st d a v) (fun t x y => fpAdd t old.rm false x y) (fun t => t.sign true)
      (fun z => z = (((elements w).filter on).map fun e => num (va e).v).sum) ∧
    reduces (.vredMin st d a v) (fun t x y => fpMinMax t false x y) Fmt.nan
      (fun z => (∀ e ∈ elements w, on e = true → z ≤ num (va e).v) ∧
        ((∃ e ∈ elements w, on e = true ∧ z = num (va e).v) ∨ z = if signed then 2 ^ (w - 1) - 1 else 2 ^ w - 1)) ∧
    reduces (.vredMax st d a v) (fun t x y => fpMinMax t true x y) Fmt.nan
      (fun z => (∀ e ∈ elements w, on e = true → num (va e).v ≤ z) ∧
        ((∃ e ∈ elements w, on e = true ∧ z = num (va e).v) ∨ z = if signed then -2 ^ (w - 1) else 0)) ∧
    (Instr.wf (.vdot st d a b c sat v) = true →
      GivesV s (.vdot st d a b c sat v) d 32 fun l =>
        lift3 (old.elt d.toNat 32 l) (old.elt a.toNat 32 l) (if c then old.scalar b.toNat 32 else old.elt b.toNat 32 l) fun acc x y =>
          match ty with
          | .fl t => dotFloat t old.rm acc x y
          | _ =>
            let part := fun z i : Nat => num (z / 2 ^ (w * i) % 2 ^ w)
            let acc' : Int := if signed then (BitVec.ofNat 32 acc).toInt else acc
            let z := acc' + ((List.range (32 / w)).map fun i => part x i * part y i).sum
            let lo : Int := if signed then -2 ^ 31 else 0
            let hi : Int := if signed then 2 ^ 31 - 1 else 2 ^ 32 - 1
            (((if sat then max lo (min hi z) else z) % 2 ^ 32).toNat, 0))

/-- Scratchpad loads, stores and full/empty forms. -/
def Obligations.ScratchAccesses : Prop :=
  Sys2Proof.Parts.ScratchAccess ∧ Sys2Proof.Parts.ScratchTagged ∧ Sys2Proof.Parts.VectorScratch

/-- WTAKE, STEPEND, SWITCH and YIELD. -/
def Obligations.StepsAndSwitch : Prop :=
  Sys2Proof.Parts.WtakeGrants ∧ Sys2Proof.Parts.StependCloses ∧ Sys2Proof.Parts.SwitchYield

/-- JOIN, LEAVE, CODESWAP, and the slots with no effect of their own. -/
def Obligations.CohortsAndCode : Prop :=
  Sys2Proof.Parts.NoEffect ∧ Sys2Proof.Parts.JoinLeave ∧ Sys2Proof.Parts.Codeswap

/-- CSRR and CSRW of every CSR. -/
def Obligations.ControlRegisters : Prop :=
  Sys2Proof.Parts.CsrRead ∧ Sys2Proof.Parts.CsrWrite

/-- f registers, FIFO words, slip depth and queue modes. -/
def Obligations.FifosAndQueues : Prop :=
  Sys2Proof.Parts.FifoBinding ∧ Sys2Proof.Parts.FifoWords ∧ Sys2Proof.Parts.QueueControl

/-- Global loads and stores, scalar and vector: bytes, poison, registers. -/
def Obligations.GlobalAccess : Prop :=
  Sys2Proof.Parts.HandleAccess ∧ Sys2Proof.Parts.GlobalVector

/-- Atomic operations and charms. -/
def Obligations.AtomicForms : Prop :=
  Sys2Proof.Parts.Atomics ∧ Sys2Proof.Parts.Atomx

/-- SBM bank operations and cache control. -/
def Obligations.BanksAndCaches : Prop :=
  Sys2Proof.Parts.BankOperations ∧ Sys2Proof.Parts.CacheControl

/-- R175 to R180, R44: MMA. Every element of bank aD becomes the sum of itself and of the K products of A's row and B's column: for s8 modulo 2^32, for the floating-point formats the exact sum rounded once to FP32; a block scale multiplies each element, a zero of A is skipped when the slot says so; a poisoned input poisons the element. No other bank changes. -/
def Obligations.MatrixMultiply : Prop :=
  ∀ (s : State) (st g bs z : Bool) (d a b : BitVec 6) (f : BitVec 3), Running s → Idle s →
    (s.old.rx a.toNat).psn = false → (s.old.rx b.toNat).psn = false → f.toNat < 6 → (bs = true → f.toNat < 3) →
    let core := s.cur / 2
    let n := fun i => (s.regs.nactive.get 0 i).toNat
    let xa := (s.old.rx a.toNat).v
    let xb := (s.old.rx b.toNat).v
    let apitch := n 3 % 2 ^ 20
    let bpitch := n 3 / 2 ^ 20 % 2 ^ 20
    let sca := n 4 % 2 ^ 24
    let scb := n 4 / 2 ^ 24 % 2 ^ 24
    let w := if f = 2 then 4 else if f = 4 ∨ f = 5 then 16 else 8
    let depth := if f = 2 then 64 else if f = 4 ∨ f = 5 then 16 else 32
    let brow := 128 * w / 8
    let fmt := if f = 0 then Fmt.e4m3 else if f = 1 then .e5m2 else if f = 2 then .e2m1 else if f = 4 then .bf16 else .f16
    let staged : Nat → Val 8 := fun o => ⟨(s.core core).staging.byte o, (s.core core).stagingPsn.contains (o / 4)⟩
    let bytesB := if g then staged else s.peek
    let at_ := fun (get : Nat → Val 8) (o j : Nat) =>
      ((List.range ((w + 7) / 8)).map fun i => (get (o + j * w / 8 + i)).v.toNat * 256 ^ i).sum / 2 ^ (j * w % 8) % 2 ^ w
    let bad := fun (get : Nat → Val 8) (o j : Nat) => (List.range ((w + 7) / 8)).any fun i => (get (o + j * w / 8 + i)).psn
    let result := fun (pa pb sa sb i j : Nat) (acc : Val 32) =>
      let ks := List.range depth
      let rowA := pa + i * apitch
      let rowB := fun k => pb + k * bpitch
      let scA := fun k => s.peek (sa + i * (depth / 32) + k / 32)
      let scB := fun k => s.peek (sb + j * (depth / 32) + k / 32)
      let x := fun k => if bs then scaled (fmt.value (at_ s.peek rowA k)) (scA k).v else fmt.value (at_ s.peek rowA k)
      let y := fun k => if bs then scaled (fmt.value (at_ bytesB (rowB k) j)) (scB k).v else fmt.value (at_ bytesB (rowB k) j)
      if acc.psn || ks.any (fun k => bad s.peek rowA k || bad bytesB (rowB k) j || (bs && ((scA k).psn || (scB k).psn))) then (⟨0, true⟩ : Val 32)
      else if f = 3 then ⟨BitVec.ofInt 32 (acc.v.toInt + (ks.map fun k =>
        (BitVec.ofNat 8 (at_ s.peek rowA k)).toInt * (BitVec.ofNat 8 (at_ bytesB (rowB k) j)).toInt).sum), false⟩
      else ⟨BitVec.ofNat 32 (Fmt.f32.sum 0 (Fmt.f32.value acc.v.toNat :: ks.map fun k =>
        if z && (x k).isZero then Fl.num false 0 0 else (x k).mul (y k))).1, false⟩
    (xa.toNat % 32 ≠ 0 → exec (.mma st d a b g bs z f) s = .next (s.raise (.align xa))) ∧
    (∀ pa pb sa sb, xa.toNat % 32 = 0 → xb.toNat % 32 = 0 → apitch % 32 = 0 → bpitch % 32 = 0 →
      scratchPlace core xa.toNat (127 * apitch + 32) = some pa →
      (if g then xb.toNat + ((depth - 1) * bpitch + brow) ≤ 65536 ∧ pb = xb.toNat
        else scratchPlace core xb.toNat ((depth - 1) * bpitch + brow) = some pb) →
      (bs = true → scratchPlace core sca (128 * depth / 32) = some sa ∧ scratchPlace core scb (128 * depth / 32) = some sb) →
      ∃ t, exec (.mma st d a b g bs z f) s = .next t ∧ GoesTo s t (s.ctx s.cur).issue.target ∧ t.mem = s.mem ∧ t.psn = s.psn ∧
        t.regs = { s.regs with a := t.regs.a } ∧ (∀ k, k ≠ s.cur → t.ctx k = s.ctx k) ∧
        (∀ m i j, m ≠ d.toNat → i < 128 → j < 128 → t.regs.ra m i j = s.regs.ra m i j) ∧
        ∀ i j, i < 128 → j < 128 → t.regs.ra d.toNat i j = result pa pb sa sb i j (s.regs.ra d.toNat i j))

/-- Nest registers and the start of a nest. -/
def Obligations.NestsOfLoops : Prop :=
  Sys2Proof.Parts.NestRegisters ∧ Sys2Proof.Parts.NestStart

/-- Accumulator moves, broadcast and merge forms. -/
def Obligations.AccumulatorsAndMerges : Prop :=
  Sys2Proof.Parts.AccumulatorMoves ∧ Sys2Proof.Parts.Broadcast ∧ Sys2Proof.Parts.MergeForms

/-- Engine forms issue one command with its token and operands. -/
def Obligations.EngineIssue : Prop :=
  Sys2Proof.Parts.CopyIssue ∧ Sys2Proof.Parts.SendForms ∧ Sys2Proof.Parts.CollectiveIssue ∧ Sys2Proof.Parts.TreeForms ∧ Sys2Proof.Parts.QubitForms

/-- Token waits, counters, barriers and triggers. -/
def Obligations.CountersAndBarriers : Prop :=
  Sys2Proof.Parts.TokenWaits ∧ Sys2Proof.Parts.CounterWait ∧ Sys2Proof.Parts.Barriers ∧ Sys2Proof.Parts.Triggers

/-- The dispatcher: steals, placement, pre-emption. -/
def Obligations.Dispatching : Prop :=
  Sys2Proof.Parts.StealEvents ∧ Sys2Proof.Parts.ColumnDispatch ∧ Sys2Proof.Parts.PreemptionEvents

/-- Translations that complete and parked accesses that depart. -/
def Obligations.TranslationAndReplay : Prop :=
  Sys2Proof.Parts.TransComplete ∧ Sys2Proof.Parts.ReplayDepart

/-- R273, R275, R276: CHARM_RUN answers the charm request: with poison when its line is poisoned; else with m11:m10 of the routine that ends by ECALL, whose line is written, or with the cause of one that fails. CHARM_TIMEOUT answers for one that counts 256 cycles. -/
def Obligations.CharmEvents : Prop :=
  ∀ (s : State) (r : Req) (i k n : Nat) (x y : Word64) (ord : BitVec 2),
    s.reqs.find? (fun q => decide (q.tag = r.tag)) = some r → r.ans = none → r.owner = .slot k n → r.addr / 2 ^ 50 = s.peer →
    r.act = .charm i x y ord →
    let a := r.addr % 2 ^ 50
    let line := a / 128 * 128
    let answered := fun (j : Instr) (ans : Answer) (Q : State → Prop) => ∃ t, exec j s = .next t ∧
      t.reqs = s.reqs.map (fun q => if q.tag = r.tag then { q with ans := some ans } else q) ∧ (∀ k, t.ctx k = s.ctx k) ∧ Q t
    (poisonedAt s line 128 = true → answered (.charmRun r.tag) (.data (toBytes 8 0 true)) fun t => SameBytes s t) ∧
    (poisonedAt s line 128 = false → region line = .hbm →
      (∀ m10 m11 bs, s.charmEnd a (i % 64) x y = .done m10 m11 bs → bs.length = 128 →
        answered (.charmRun r.tag) (.data (toBytes 8 (m11.toNat * 2 ^ 32 + m10.toNat) false)) fun t =>
          StoredAt s t line 128 fun j => bs.getD j 0) ∧
      (∀ cause pc, s.charmEnd a (i % 64) x y = .fail cause pc →
        (cause ≠ 0x25 → answered (.charmRun r.tag) (.fail cause (BitVec.ofNat 64 pc)) fun t => SameBytes s t) ∧
        (cause = 0x25 → exec (.charmRun r.tag) s = .next s ∧
          answered (.charmTimeout r.tag) (.fail 0x25 (BitVec.ofNat 64 pc)) fun t => SameBytes s t)))

/-- Shootdowns and snapshot copies. -/
def Obligations.ShootdownAndSnapshots : Prop :=
  Sys2Proof.Parts.Shootdown ∧ Sys2Proof.Parts.SnapshotEvents

/-- R229, R230, R257, R266: a corrected error is counted and changes nothing else; an uncorrected one poisons its granule and no other word, and a new one is counted; one in HBM below a resident line, or in a lane of an L1 line, poisons what stands there. A CXL.mem request writes its block, once the device is READY. A full/empty wait that has reached its limit raises its cause. -/
def Obligations.ErrorsAndHostMemory : Prop :=
  ∀ (s : State) (site : ErrSite) (a : BitVec 39) (b : BitVec 28) (w psn : Bool) (block : BitVec 33) (data : BitVec 512) (ctx : BitVec 12),
    let counted := fun (t : State) (o : Nat) => t.csr o = ((s.csr o).setWidth 48 + 1 : BitVec 48).setWidth 64 ∧ ∀ p, p ≠ o → t.csr p = s.csr p
    let poisons := fun (t : State) (lo n : Nat) => ∀ y, t.peek y = if lo ≤ y ∧ y < lo + n then ⟨(s.peek y).v, true⟩ else s.peek y
    let q := sbmBase + b.toNat
    (∃ t, exec (.softErrorCorrected site) s = .next t ∧ (∀ y, t.peek y = s.peek y) ∧ (∀ k, t.ctx k = s.ctx k) ∧ t.dev ≠ s.dev) ∧
    (∃ t, exec (.softErrorCorrected (.hbm a)) s = .next t ∧ counted t (0x20100 + 8 * (a.toNat / 4096 % 8))) ∧
    ((s.llc.find (a.toNat / 128)).isSome = false → ∃ t, exec (.softErrorUncorrected (.hbm a)) s = .next t ∧
      poisons t (a.toNat / 64 * 64) 64 ∧
      (poisonedAt s (a.toNat / 64 * 64) 64 = false → counted t (0x20140 + 8 * (a.toNat / 4096 % 8)))) ∧
    ((s.llc.find (a.toNat / 128)).isSome = true → ∃ t, exec (.softErrorUncorrected (.llc a)) s = .next t ∧ poisons t (a.toNat / 32 * 32) 32) ∧
    (∀ e, s.llc.find (a.toNat / 128) = some e → ∃ t f, exec (.softErrorUncorrected (.hbm a)) s = .next t ∧ (∀ y, t.peek y = s.peek y) ∧
      t.llc.find (a.toNat / 128) = some f ∧ f.dram = e.dram ∧ f.dramPsn.getD (a.toNat / 64 % 2) false = true ∧
      f.dramPsn.getD ((a.toNat / 64 + 1) % 2) false = e.dramPsn.getD ((a.toNat / 64 + 1) % 2) false ∧
      (e.dramPsn.getD (a.toNat / 64 % 2) false = false → counted t (0x20140 + 8 * (a.toNat / 4096 % 8)))) ∧
    (∀ (core : BitVec 11) (line : BitVec 32) (lane : BitVec 5) e, (s.core core.toNat).l1.find line.toNat = some e →
      ∃ t f, exec (.softErrorUncorrected (.l1 core line lane)) s = .next t ∧ (∀ y, t.peek y = s.peek y) ∧
        (t.core core.toNat).l1.find line.toNat = some f ∧ f.bytes = e.bytes ∧
        (∀ w, f.psn.contains w = (e.psn.contains w || decide (w = lane.toNat)))) ∧
    (∃ t, exec (.softErrorUncorrected (.sbm b)) s = .next t ∧ poisons t (q / 4 * 4) 4 ∧
      ((s.peek q).psn = false → counted t (0x20080 + 8 * (b.toNat / 2 ^ 24))) ∧ ((s.peek q).psn = true → t.dev = s.dev)) ∧
    (s.booted = false → exec (.hostMemAccess w block data psn) s = .next s) ∧
    (s.booted = true → (∃ t, exec (.hostMemAccess false block data psn) s = .next t ∧ SameBytes s t) ∧
      ∃ t, exec (.hostMemAccess true block data psn) s = .next t ∧ StoredAt s t (block.toNat * 64) 64 fun i => data.extractLsb' (8 * i) 8) ∧
    (let c := s.ctx ctx.toNat
     ∀ u since sl, c.occ = .resident → c.tagWait = some (u, since) → c.issue.todo.find? (fun q => decide (q.exu = .s)) = some sl →
      (s.gt < since + tagLimit → exec (.tagTimeout ctx) s = .next s) ∧
      (since + tagLimit ≤ s.gt → exec (.tagTimeout ctx) s =
        .next (s.takeException ctx.toNat { trap := { cause := 0x24, addr := u }, slot := sl.idx, issued := c.issue.addr })))

/-- Engine commands start in order and finish with their token. -/
def Obligations.EngineProgress : Prop :=
  Sys2Proof.Parts.EngineStarts ∧ Sys2Proof.Parts.CommandFinish

/-- R198 to R200, R45: the home slice of a merge. MERGE_OPEN and MERGE_CONTRIBUTE take the next request of a slice: an open buffer of the target takes it when it fits, else the command fails with MERGE_OVERFLOW; a target without a buffer gets a free one, and is refused when the slice has none. A buffer that is ready to close is closed before the request. MERGE_CLOSE writes the rounded exact sums and ends the opener. MERGE_RESEND sends a refused request again after a microsecond. -/
def Obligations.MergeBuffers : Prop :=
  ∀ (s : State) (slice : BitVec 6),
    let buffer := fun (t : State) (p : Nat) => t.merges.find? fun b => b.p = p
    let inSlice := s.merges.filter fun b => homeSlice b.p = slice.toNat
    let full := inSlice.filter fun b => b.opener.isSome && b.parts.length = b.n
    (∀ r b u, s.mergeQ.find? (fun q => q.slice = slice.toNat ∧ q.refused.isNone) = some r → full = [b] → exec (.mergeClose slice) s = .next u →
      (r.data = none → exec (.mergeOpen slice) s = exec (.mergeOpen slice) u) ∧
      (r.data ≠ none → exec (.mergeContribute slice) s = exec (.mergeContribute slice) u)) ∧
    (∀ r c, s.mergeQ.find? (fun q => q.slice = slice.toNat ∧ q.refused.isNone) = some r → s.cmd? r.cmd = some c → full = [] →
      let handles := fun (j : Instr) (e : Cmd) (Q : State → Prop) => ∃ t, exec j s = .next t ∧ r ∉ t.mergeQ ∧
        (∀ q, q ≠ r → (q ∈ t.mergeQ ↔ q ∈ s.mergeQ)) ∧ t.cmd? r.cmd = some e ∧ (∀ a, t.peek a = s.peek a) ∧
        (∀ p, p ≠ r.p → buffer t p = buffer s p) ∧ Q t
      let failed : Cmd := { c with phase := .stopped, fail := c.fail <|> some { cause := 0x32, addr := BitVec.ofNat 64 r.p } }
      let done : Cmd := { c with phase := .stopped }
      let opens := r.data = none ∧ ∃ va n, c.op = .mopen va n
      let gives := fun d => r.data = some d ∧ ∃ va n bank, c.op = .accmerge va n bank false
      let holds := fun (t : State) (o : Option Nat) (ps : List (Sparse (Val 32))) =>
        ∃ b', buffer t r.p = some b' ∧ b'.n = r.n ∧ b'.p2 = r.p2 ∧ b'.opener = o ∧ b'.parts = ps
      (∀ b, buffer s r.p = some b →
        let fits := b.n = r.n ∧ b.p2 = r.p2
        (opens → (fits ∧ b.opener = none → handles (.mergeOpen slice) c fun t => holds t (some r.cmd) b.parts) ∧
          (¬ (fits ∧ b.opener = none) → handles (.mergeOpen slice) failed fun t => t.merges = s.merges)) ∧
        (∀ d, gives d → (fits ∧ b.parts.length ≠ b.n → handles (.mergeContribute slice) done fun t => holds t b.opener (b.parts ++ [d])) ∧
          (¬ (fits ∧ b.parts.length ≠ b.n) → handles (.mergeContribute slice) failed fun t => t.merges = s.merges))) ∧
      (buffer s r.p = none → inSlice.length < 8 → (opens → handles (.mergeOpen slice) c fun t => holds t (some r.cmd) []) ∧
        ∀ d, gives d → handles (.mergeContribute slice) done fun t => holds t none [d]) ∧
      (buffer s r.p = none → 8 ≤ inSlice.length → ∀ j, (opens ∧ j = Instr.mergeOpen slice) ∨ (∃ d, gives d ∧ j = .mergeContribute slice) →
        exec j s = .next { s with mergeQ := s.mergeQ.map fun q => if q = r then { q with refused := some s.gt } else q })) ∧
    (∀ b o e, inSlice.find? (fun b => b.opener.isSome && b.parts.length = b.n) = some b → b.p2 = none → b.p + 65536 ≤ 2 ^ 39 →
      b.opener = some o → s.cmd? o = some e → ∃ t, exec (.mergeClose slice) s = .next t ∧
        (∀ x, x ∈ t.merges ↔ x ∈ s.merges ∧ x.p ≠ b.p) ∧ t.cmd? o = some { e with phase := .stopped } ∧ t.ctxs = s.ctxs ∧
        StoredAt s t b.p 65536 fun i =>
          let vs := b.parts.map fun d => d.get ⟨0, false⟩ (i / 4)
          if (vs.any fun v => v.psn) = true then 0 else byteOf (Fmt.f32.sum 0 (vs.map fun v => Fmt.f32.value v.v.toNat)).1 (i % 4)) ∧
    (∀ q m w, s.mergeQ = [q] → q.cmd = m → q.refused = some w →
      (w + 65536000 ≤ s.gt → exec (.mergeResend m) s = .next { s with mergeQ := [{ q with refused := none }] }) ∧
      (s.gt < w + 65536000 → exec (.mergeResend m) s = .next s))

/-- Tree commands, triggers, barrier subtractions and time. -/
def Obligations.TreeAndSync : Prop :=
  Sys2Proof.Parts.TreeEvents ∧ Sys2Proof.Parts.SyncEvents

/-- Zhoask queues and the commands of the CP. -/
def Obligations.CommandProcessor : Prop :=
  Sys2Proof.Parts.ZhoaskFetch ∧ Sys2Proof.Parts.CpCommands

/-- Transfers of the CP, launches and their completion. -/
def Obligations.CopiesAndLaunches : Prop :=
  Sys2Proof.Parts.CpTransfers ∧ Sys2Proof.Parts.Launches

/-- SNAP, CODESWAP and TABLE commands. -/
def Obligations.SnapshotAndTables : Prop :=
  Sys2Proof.Parts.SnapAndCodeswap ∧ Sys2Proof.Parts.Tables

/-- Optical lines, flits, acknowledgements and timers. -/
def Obligations.FabricLines : Prop :=
  Sys2Proof.Parts.LineEvents ∧ Sys2Proof.Parts.Flits ∧ Sys2Proof.Parts.FabricTimers

/-- Requests from peers and their answers. -/
def Obligations.PeerTraffic : Prop :=
  Sys2Proof.Parts.PeerRequests ∧ Sys2Proof.Parts.PeerAnswers

/-- R322, R323: clasps. CLASP_OPEN reserves the lowest free staging slot, or fails while staging is off; CLASP_CLOSE performs a staged write at a time, then reports the group committed and keeps its status; CLASP_COMMITTED answers the close; CLASP_STATUS_QUERY is answered from the status; CLASP_ABORT discards what is staged, and at the initiator fails the group's commands with one record. -/
def Obligations.ClaspGroups : Prop :=
  ∀ (s : State) (src : BitVec 14),
    let n := src.toNat
    (∀ e, s.inbox.find? (fun e => e.src = src.toNat) = some e → e.rec_.rtype = 11 →
      let r := e.rec_
      let g := r.data % 2 ^ 16
      let reply := fun (rtype aux data : Nat) => ({ rtype, tag := r.tag, aux, data } : Rec)
      let answers := fun (j : Instr) (x : Rec) (Q : State → Prop) => ∃ t, exec j s = .next t ∧
        Sends s t n (r.tag.testBit 15) x [] (s.inbox.erase e) ∧ t.ctxs = s.ctxs ∧ Q t
      let fails := reply 8 0x42 (BitVec.ofNat 64 s.peer).toNat
      let mine := fun x : Nat × Stage => decide (x.2.src = n ∧ x.2.grp = g)
      (r.aux = 0 →
        ((s.csr 0xB00).getLsbD 0 = false → answers (.claspOpen src) fails fun t => t.stages = s.stages) ∧
        ((s.csr 0xB00).getLsbD 0 = true → s.stages.find? mine = none →
          (∀ i, i < 256 → s.stages.find i = none → (∀ j, j < i → (s.stages.find j).isSome = true) →
            answers (.claspOpen src) (reply 8 0 i) fun t => t.stages.find i = some { src := n, grp := g } ∧ ∀ j, j ≠ i → t.stages.find j = s.stages.find j) ∧
          ((∀ i, i < 256 → (s.stages.find i).isSome = true) → answers (.claspOpen src) (reply 10 2 ((s.csr 0xB18).toNat % 2 ^ 32)) fun t => t.stages = s.stages))) ∧
      (r.aux = 1 →
        (s.stages.find? mine = none → answers (.claspClose src) fails fun t => t.stages = s.stages) ∧
        (∀ i x, s.stages.find? mine = some (i, x) →
          (∀ a ms bs ws, x.writes = (a, ms, bs) :: ws → 0 < bs.length → a + bs.length ≤ 2 ^ 39 → ∃ t, exec (.claspClose src) s = .next t ∧ t.inbox = s.inbox ∧
            t.stages.find i = some { x with writes := ws } ∧ (StoredAt s t a bs.length fun j => (bs.getD j ⟨0, false⟩).v) ∧
            (ms = true → ∀ j, a / 128 ≤ j → j ≤ (a + bs.length - 1) / 128 → t.llc.find j = none)) ∧
          (x.writes = [] → answers (.claspClose src) (reply 11 2 (g + i * 2 ^ 16)) fun t => t.stages.find i = none ∧ (n, g, true) ∈ t.closed))) ∧
      (r.aux = 2 → ∀ q c, q.owner = .cmd c →
        s.reqs.find? (fun q => q.ans.isNone && q.queued && decide (q.addr / 2 ^ 50 = n ∧ s.wireTag q = r.tag)) = some q →
        exec (.claspCommitted src) s = .next { s with inbox := s.inbox.erase e, reqs := s.reqs.map fun p => if p.tag = q.tag then { p with ans := some (.data []) } else p }) ∧
      (r.aux = 4 → (∀ b, s.closed.find? (fun x => x.1 = n ∧ x.2.1 = g) = some (n, g, b) →
          answers (.claspStatusQuery src) (if b then reply 11 2 (r.data % 2 ^ 24) else fails) fun t => t.closed = s.closed) ∧
        (s.closed.find? (fun x => x.1 = n ∧ x.2.1 = g) = none → exec (.claspStatusQuery src) s = .next { s with inbox := s.inbox.erase e })) ∧
      (r.aux = 3 → (s.stages.find? mine = none → exec (.claspAbort true src) s = .next { s with inbox := s.inbox.erase e }) ∧
        ∀ i x, s.stages.find? mine = some (i, x) → ∃ t, exec (.claspAbort true src) s = .next t ∧ t.stages.find i = none ∧ (n, g, false) ∈ t.closed ∧
          t.csr 0xB08 = ((s.csr 0xB08).setWidth 48 + 1 : BitVec 48).setWidth 64 ∧ t.csr 0xB10 = BitVec.ofNat 64 (n * 2 ^ 16 + g % 256) ∧ ∀ a, t.peek a = s.peek a)) ∧
    (∀ x k, s.clasps.find? (fun x => x.grp = n && x.aborted && !s.closeHeld x) = some x → Holds s x.inc k → (s.ctx k).pend.length < 15 →
      ∃ t, exec (.claspAbort false src) s = .next t ∧ (t.ctx k).pend.length = (s.ctx k).pend.length + 1 ∧
        ((t.ctx k).pend.getLast?.map fun p => (p.cause, p.info)) = some (0x42, BitVec.ofNat 64 x.peer) ∧
        (∀ g ∈ t.clasps, g.grp ≠ x.grp) ∧
        ((∀ q ∈ s.sendq, ∀ f ∈ q.2, f.dst ≠ x.peer) → (∀ p ∈ s.outQ, p.dst ≠ x.peer) →
          Sends s t x.peer false { rtype := 11, aux := 3, data := x.grp + x.slot.getD 0 * 2 ^ 16 } [] s.inbox) ∧
        ((∀ d ∈ s.cmds, d.inc = x.inc → d.op ≠ .clclose) → (t.ctx k).regs.qmode = (s.ctx k).regs.qmode &&& ~~~((1 : Word64) <<< (12 + x.ch))) ∧
        ∀ c, s.cmd? c.id = some c → c.inc = x.inc → c.unit = .send x.ch → c.op = .clopen x.peer → c.phase ≠ .stopped → (∀ d ∈ s.cmds, d.inc = x.inc → d.op ≠ .clclose) →
          t.cmd? c.id = some { c with phase := .stopped, fail := c.fail <|> some { cause := 0x42, info := BitVec.ofNat 64 x.peer } })

/-- R354, R355, R364: the records of a collective. COLL_START keeps the digest and fails a running member whose own differs; COLL_ABORT fails the member with its cause, and breaks a group of the amplitude engine, also where its command has finished; COLL_FINISHED notes the report, COLL_DATA keeps the chunk; HOLD changes nothing else. -/
def Obligations.CollectiveRecords : Prop :=
  ∀ (s : State) (src : BitVec 14) (e : In), s.inbox.find? (fun e => e.src = src.toNat) = some e → e.rec_.rtype = 12 →
    let r := e.rec_
    let id := r.data % 2 ^ 64
    let n := src.toNat
    let sub := r.aux % 256
    let took := fun (j : Instr) (Q : State → Prop) => ∃ t, exec j s = .next t ∧ t.inbox = s.inbox.erase e ∧ t.ctxs = s.ctxs ∧ (∀ a, t.peek a = s.peek a) ∧ Q t
    let noted := fun (t : State) (P : CollNote → Prop) => ∃ m ∈ t.notes, m.id = id ∧ m.src = n ∧ P m
    let fails := fun (t : State) (c : Cmd) (cause : BitVec 8) (cohort : Nat) => ∃ f, t.cmd? c.id = some f ∧ f.phase = .stopped ∧
      f.fail = (c.fail <|> some { cause, info := BitVec.ofNat 64 cohort })
    let digest := BitVec.ofNat 64 (r.data / 2 ^ 64)
    (sub = 3 → exec (.hold src) s = .next { s with inbox := s.inbox.erase e }) ∧
    (sub = 0 → s.notes = [] → (s.collFor id = none → took (.collStart src) fun t => noted t (fun m => m.digest = some digest) ∧ t.cmds = s.cmds) ∧
      (∀ c d, s.collFor id = some (c, d) → s.cmd? c.id = some c →
        (c.phase = .running → digest ≠ d.digest → took (.collStart src) fun t => fails t c 0x44 d.cohort) ∧
        (digest = d.digest → took (.collStart src) fun t => t.cmds = s.cmds ∧ noted t (fun m => m.digest = some digest)))) ∧
    (sub = 1 → id < 2 ^ 63 → (s.collFor id = none → s.notes = [] → took (.collAbort src) fun t => noted t (fun m => m.abort = some (BitVec.ofNat 8 r.tag)) ∧ t.cmds = s.cmds) ∧
      (∀ c d, s.collFor id = some (c, d) → s.cmd? c.id = some c → c.phase ≠ .stopped → took (.collAbort src) fun t => fails t c (BitVec.ofNat 8 r.tag) d.cohort)) ∧
    (sub = 1 → 2 ^ 63 ≤ id → ∀ c, s.cmds.find? (fun c => c.unit = .age ∧ c.phase = .running ∧ ageId c = id) = some c → s.cmd? c.id = some c → took (.collAbort src) fun t =>
      (∃ f, t.cmd? c.id = some f ∧ f.phase = .stopped ∧ f.fail = (c.fail <|> some { cause := BitVec.ofNat 8 r.tag })) ∧ (t.csr 0xC00).getLsbD 62 = true) ∧
    (sub = 1 → 2 ^ 63 ≤ id → s.cmds.find? (fun c => c.unit = .age ∧ c.phase = .running ∧ ageId c = id) = none → (s.csr 0xC00).getLsbD 63 = true → n ∈ s.age.plist →
      took (.collAbort src) fun t => t.cmds = s.cmds ∧ (t.csr 0xC00).getLsbD 62 = true) ∧
    (sub = 2 → took (.collFinished src) fun t => noted t (fun m => m.finished = true) ∧ t.cmds = s.cmds) ∧
    (sub = 4 → (∀ m ∈ s.strms, ¬ (m.id = id ∧ m.src = n ∧ m.step = r.data / 2 ^ 104 % 256)) → took (.collData src) fun t =>
      t.strms = s.strms ++ [{ id, src := n, step := r.data / 2 ^ 104 % 256, bytes := e.data }])

/-- Asynchronous records, absent pages, page requests and their answers. -/
def Obligations.FaultRecords : Prop :=
  Sys2Proof.Parts.AsyncRecords ∧ Sys2Proof.Parts.PageFaultPath ∧ Sys2Proof.Parts.PageRequests ∧ Sys2Proof.Parts.PageAnswers

/-- R426, R427: FLT.KILL terminates a placed task: its bank is empty with the next GEN, its queued commands and triggers are gone, its clasps abort. A saved task leaves the ready list. With ALL the launch is faulted and no context of it stays placed or listed. -/
def Obligations.KilledTasks : Prop :=
  ∀ (s : State) (v : Word64),
    let n := (v.extractLsb' 32 16).toNat
    let task := (v.extractLsb' 0 12).toNat
    let mine := fun j : Nat => j ∈ s.residents n ∧ (s.ctx j).regs.task.toNat = task
    (s.launch? n = none → exec (.fltKill v) s = .next s) ∧
    (s.launch? n ≠ none → v.getLsbD 63 = false →
      (∀ k, mine k → (∀ j, mine j → j = k) → ∃ t, exec (.fltKill v) s = .next t ∧ (t.ctx k).occ = .none ∧
        (t.ctx k).gen = (s.ctx k).gen + 1 ∧ (t.ctx k).regs = { a := (s.ctx k).regs.a } ∧ (∀ j, j ≠ k → t.ctx j = s.ctx j) ∧
        (∀ d ∈ t.cmds, d.queued (s.ctx k).inc = false) ∧ (∀ g ∈ t.trigs, g.inc ≠ (s.ctx k).inc) ∧
        (∀ g ∈ t.clasps, g.inc = (s.ctx k).inc → g.aborted = true) ∧ ∀ r ∈ (t.core (k / 2)).replay, r.ctx ≠ k) ∧
      ((∀ j, ¬ mine j) → ∃ t, exec (.fltKill v) s = .next t ∧
        (∀ e ∈ t.ready, e.launch = n → e.task = task → e.saved = none) ∧ ∀ w ∈ t.saving, w.entry.launch = n → w.entry.task = task → w.entry.saved = none)) ∧
    (s.launch? n ≠ none → v.getLsbD 63 = true → (∀ e ∈ s.ctxs, s.ctx e.1 = e.2) → ∃ t, exec (.fltKill v) s = .next t ∧
      (∀ l, t.launch? n = some l → l.faulted = true) ∧ (∀ e ∈ t.ready, e.launch ≠ n) ∧
      ∀ k, (t.ctx k).occ = .resident → (t.ctx k).regs.launch.toNat ≠ n)

/-- The debugger: halts, single steps and register access. -/
def Obligations.DebugPort : Prop :=
  Sys2Proof.Parts.DebugHalt ∧ Sys2Proof.Parts.DebugRegisters

/-- R431: a BREAK in an attached launch writes the frame of the level at which R413 would deliver it, sets BRK and halts all five sequencers; with no debugger attached it goes to the handler. A write of HALT = 0 while BRK is set clears BRK and returns as TRAPRET. -/
def Obligations.BreakStops : Prop :=
  ∀ (s : State) (k : Nat) (e : Exc), e.trap.cause = 0x51 → e.async = none → e.svc = false → e.fetch = false → e.seq = 0 → e.slot < 8 → (s.ctx k).younger = [] →
    let c := s.ctx k
    let l := s.launchOf k
    let sys := (s.csr csrTrapEnt).extractLsb' 0 57
    let dbg := s.csr csrDbgAttach
    let attached := dbg.getLsbD 63 = true ∧ dbg.extractLsb' 0 16 = c.regs.launch
    let has := fun (u : ExecUnit) (i : Issue) => i.todo.any fun q => q.exu = u
    let pcS := if has .s c.issue then c.issue.target.getD c.issue.next else c.pc
    let queue := fun u : ExecUnit => (((c.older ++ [c.issue]).find? (has u)).map (·.addr)).getD pcS
    let cause : Word64 := (1 : BitVec 1) ++ (0 : BitVec 3) ++ c.regs.mode ++ (0 : BitVec 5) ++ BitVec.ofNat 3 e.slot ++ (0 : BitVec 42) ++ (0x51 : BitVec 8)
    let frame := [cause, pcS, queue .vl, queue .va, queue .vs, queue .mx, e.trap.addr, e.trap.info, 0, e.issued]
    let stopped := fun n : Nat => let t := s.takeException k e
      (t.ctx k).brk = true ∧ (t.ctx k).halt = 31 ∧ t.allStopped k = !(t.ctx k).stepOne ∧
      (∀ i, i < 19 → (t.ctx k).regs.ff.get 0 (frameBase n + i) = frame.getD i 0) ∧ (t.ctx k).regs.mode = BitVec.ofNat 2 n
    (c.regs.mode = 0 → l.trapent ≠ 0 →
      (attached → stopped 1) ∧ (¬ attached → c.halt = 0 → Entered s (s.takeException k e) k 1 l.trapent frame)) ∧
    (c.regs.mode ≠ 2 → (c.regs.mode ≠ 0 ∨ l.trapent = 0) → sys ≠ 0 →
      (attached → stopped 2) ∧ (¬ attached → c.halt = 0 → Entered s (s.takeException k e) k 2 (sys.signExtend 64) frame)) ∧
    (∀ (v : Word64) (n : Nat) (i : Image), Selected s k → v.getLsbD 16 = false → v.extractLsb' 0 5 = 0 → c.brk = true →
      (n = 1 ∧ c.img1 = some i ∨ n = 2 ∧ c.img2 = some i) → c.regs.mode = BitVec.ofNat 2 n → c.regs.act = false →
      s.opaqueIntact (l.slot c.regs.task.toNat + imageArea n) 0x2000 i.stamp = true →
      exec (.dbgRelease v) s = .next ((s.modCtx k fun c => { c with brk := false, halt := 0, stepOne := false }).returnFromException k) ∧
      ∃ t, exec (.dbgRelease v) s = .next t ∧ (t.ctx k).brk = false ∧ (t.ctx k).halt = 0 ∧
        (t.ctx k).regs.mode = (c.regs.ff.get 0 (frameBase n)).extractLsb' 58 2 ∧ (t.ctx k).pc = c.regs.ff.get 0 (frameBase n + 1) ∧
        ((t.ctx k).older ++ [(t.ctx k).issue]).flatMap (·.todo) = (i.older ++ [i.issue]).flatMap (·.todo))

/-- The stages of boot and recovery, and the quiet before READY. -/
def Obligations.BootAndRecovery : Prop :=
  Sys2Proof.Parts.BootStages ∧ Sys2Proof.Parts.QuietUntilReady

/-- R25, R440 to R443: an interval of the arbiter grants each column at least the smaller of its demand and a sixteenth of the budget, and no more than the budget in all; it applies one cap action to a column that is hot or draws more than its grant, the duty first and at its floor the step. The margin warning, the package clamp, and the events. -/
def Obligations.PowerLimits : Prop :=
  ∀ (s : State) (col : BitVec 4) (draws : BitVec 192) (temps : BitVec 128),
    let cur := fun (s : State) (c : Nat) => (s.csr (0xA0100 + 8 * c)).toNat % 8
    let used := fun k : Nat => let e := s.csr (0xA0000 + 8 * k)
      let f := e.toNat / 2 ^ 16 % 2 ^ 16
      let u := e.toNat % 2 ^ 16
      e.getLsbD 63 = true ∧ 350 ≤ f ∧ f ≤ 1050 ∧ f % 25 = 0 ∧ 450 ≤ u ∧ u ≤ 650
    let row := fun (t : State) (c lo n : Nat) => (t.csr (0xA0300 + 8 * c)).toNat / 2 ^ lo % 2 ^ n
    (used (cur s col.toNat) → ∃ t, exec (.marginWarning col) s = .next t ∧
      t.csr (0xA0100 + 8 * col.toNat) = ((s.csr (0xA0000 + 8 * cur s col.toNat)).extractLsb' 32 3).setWidth 64) ∧
    (¬ used (cur s col.toNat) → exec (.marginWarning col) s = .next s) ∧
    (s.gt < s.arbiterAt + intervalLength → exec (.arbiterInterval draws temps) s = .next s) ∧
    (s.arbiterAt + intervalLength ≤ s.gt →
      let budget := min ((s.csr 0xA0200).toNat % 2 ^ 12) 3200
      let draw := fun c : Nat => draws.toNat / 2 ^ (12 * c) % 2 ^ 12
      let temp := fun c : Nat => temps.toNat / 2 ^ (8 * c) % 2 ^ 8
      let duty := fun c : Nat => row s c 40 5
      let demand := fun c : Nat => min 4095 ((draw c * 16 + duty c - 1) / duty c)
      ∃ t, exec (.arbiterInterval draws temps) s = .next t ∧ t.arbiterAt ≤ s.gt ∧ s.gt < t.arbiterAt + intervalLength ∧
        ((List.range 16).map fun c => row t c 0 12).sum ≤ budget ∧
        (∀ o, (o < 0xA0100 ∨ 0xA0180 ≤ o) → (o < 0xA0300 ∨ 0xA0380 ≤ o) → t.csr o = s.csr o) ∧
        ∀ c, c < 16 →
          let grant := row t c 0 12
          let hot := (s.csr 0xA0200).toNat / 2 ^ 16 % 2 ^ 8 < temp c
          min (demand c) (budget / 16) ≤ grant ∧ grant ≤ demand c ∧ row t c 16 12 = draw c ∧ row t c 32 8 = temp c ∧ row t c 48 12 = demand c ∧
          (hot ∨ grant < draw c →
            (4 < duty c → row t c 40 5 = duty c - 1 ∧ cur t c = cur s c) ∧
            (duty c ≤ 4 → row t c 40 5 = duty c ∧
              (∀ k, k < cur s c → used k → (∀ j, k < j → j < cur s c → ¬ used j) → cur t c = k) ∧
              ((∀ k, k < cur s c → ¬ used k) → cur t c = cur s c)) ∧ t.clear.get 0 c = 0) ∧
          (¬ hot → draw c ≤ grant → t.clear.get 0 c = s.clear.get 0 c + 1 ∧
            (s.clear.get 0 c < 10 ∨ s.clamped = true → row t c 40 5 = duty c ∧ cur t c = cur s c) ∧
            (10 ≤ s.clear.get 0 c → s.clamped = false →
              (∀ k, cur s c < k → k < 8 → used k → (∀ j, cur s c < j → j < k → ¬ used j) → cur t c = k ∧ row t c 40 5 = duty c) ∧
              ((∀ k, cur s c < k → k < 8 → ¬ used k) → cur t c = cur s c ∧ row t c 40 5 = if duty c < 16 then duty c + 1 else duty c)))) ∧
    (∃ t, exec .pwrEventRead s = .next t ∧ t.readOut = (s.pwrEvents.headD 0 ||| if s.pwrOvf then 0x8000000000000000 else 0) ∧
      t.pwrEvents = s.pwrEvents.tail ∧ t.pwrOvf = false ∧ t.dev = s.dev ∧ t.ctxs = s.ctxs) ∧
    (s.clamped = true → exec .packagePowerClamp s = .next s) ∧
    (s.clamped = false → ∃ t, exec .packagePowerClamp s = .next t ∧ t.clamped = true ∧
      (∀ c, c < 16 → row t c 40 5 = 4 ∧ cur t c = 0 ∧ row t c 0 40 = row s c 0 40) ∧
      (s.pwrEvents = [] → t.pwrEvents = (List.range 16).map fun c => BitVec.ofNat 64 (2 * 2 ^ 56 + c * 2 ^ 48 + s.gt / 2 ^ 16 % 2 ^ 43))) ∧
    (∃ t, exec .packagePowerRelease s = .next t ∧ t = { s with clamped := false })

/-- Writes of device registers, host link completions and the report. -/
def Obligations.HostRegisters : Prop :=
  Sys2Proof.Parts.RegisterWrites ∧ Sys2Proof.Parts.HostLink

/-- R80, R91: decoding the word of a well-formed slot instruction gives it back, with every operand at every value that the encoding admits. -/
def Obligations.EncodeThenDecode : Prop :=
  ∀ (i : Instr) (w : BitVec 32), i.wf = true → encode i = some w → decode w = .ok i

/-- R80, R91, R95: a word that decodes is the word of one instruction only: the decoder reads every bit of it. -/
def Obligations.DecodeThenEncode : Prop :=
  ∀ (w : BitVec 32) (i : Instr), decode w = .ok i → i.wf = true ∧ encode i = some w

/-- R81, R91, R55: a slot of an issued bundle runs as `exec` of the instruction that its word decodes to. A step whose turn is that of the S sequencer of a context, and that finds it in a bundle or between two, runs its next slot; one whose turn is a queue's brings the queue's oldest bundle into focus, and runs the slot that goes next there; around it time passes before, and requests leave after. Where another unit must first end what it has begun, the slot leaves no trace. -/
def Obligations.StepRunsDecoded : Prop :=
  ∀ (s : State) (k : Nat) (u : ExecUnit) (ts : List Turn) (q : QSlot) (i : Instr), decode q.word = .ok i →
    let s1 : State := { s.tick with agenda := ts }
    let slot := fun t : State => exec i (t.atSlot k q.idx)
    let off := fun (t : State) (u : ExecUnit) => t.putOff k (t.ctx k).issue.num q.idx u (slotEnd k q t (nextOf t (slot t)))
    let runs := fun t : State => step s = closing (if off t .s then .next t else slot t)
    s.tick.tagNow = none → s1.booted = true →
    (s.agenda = .run k :: ts → s1.canRun k = true → (s1.ctx k).placing = false → (s1.ctx k).badRestore = false →
      ((s1.ctx k).nextS = some q → runs s1) ∧
      (∀ s2, (s1.ctx k).nextS = none → s1.recordDue k = false → s1.tryIssue k = (s2, true) → (s2.ctx k).issue.has .s = true →
        (s2.ctx k).issue.todo.head? = some q → q.exu = .s → s2.sReady k q = true → runs s2)) ∧
    (s.agenda = .queue k u :: ts → s1.canQueue k u = true → (u = .vl → (s1.ctx k).counted.contains .vl = true) →
      let f := s1.modCtx k fun c => c.focus u
      f.group k u = [q] → step s = closing (.next (if off f u then s1 else (nextOf f (slot f)).modCtx k fun c =>
        if c.younger.isEmpty then c else (c.adopt (infoOf q.word).writes).settle)))

/-- R81, R82, R258, R51: the S sequencer issues the bundle whose words stand at its pc. Here a bundle of one slot, in HBM, under a TLB entry that lets it be fetched, with nothing older left in the queues: the slot that stands there is the one that waits to run, and the next bundle begins after it. A slot of another unit goes to its queue, and the S sequencer goes on. -/
def Obligations.IssuesWhatStandsAtPc : Prop :=
  ∀ (s : State) (k p : Nat) (e : TlbEntry) (w : BitVec 32) (i : Instr),
    let c := s.ctx k
    let l := s.launchOf k
    let cap : Cap := { bits := l.codeCap, tag := true }
    let va := c.pc.toNat
    let u := (infoOf w).exu
    c.chk = false → cap.check va 4 permX = none → canonical va = true → (s.tlb (k / 2)).find? (fun e => e.maps l.asid va) = some e →
    leafX e.leaf = true → physical e.leaf e.size va = s.peer * 2 ^ 50 + p → p + 4 ≤ 2 ^ 50 → region p = .hbm →
    (∀ j, j < 4 → s.peek (p + j) = ⟨w.extractLsb' (8 * j) 8, false⟩) →
    stops w = true → isPrefix w = false → decode w = .ok i → countTooWide w none = false → forbidden c.regs.mode w = false → majorOf w < 0x6E →
    majorOf w ≠ 0x2D → (∀ u, targetOf i u = none) → c.older = [] → c.issue.todo = [] → c.younger = [] → s.parkedOf k = [] →
    ∃ t b, s.issue k = (t, true) ∧ b.todo = [{ idx := 0, word := w, exu := u, limm := none, deps := [] }] ∧
      b.addr = c.pc ∧ b.next = c.pc + 4 ∧ b.old = c.regs ∧ (t.ctx k).regs = c.regs ∧ SameBytes s t ∧
      (u = .s → (t.ctx k).issue = b ∧ (t.ctx k).older = [] ∧ (t.ctx k).pc = c.pc) ∧
      (u ≠ .s → (t.ctx k).issue = {} ∧ (t.ctx k).older = [b] ∧ (t.ctx k).pc = c.pc + 4)

/-- R91 to R95: words written out from the encodings decode to the instructions they stand for; a reserved major is ILLEGAL_OPCODE. -/
def Obligations.WordsDecode : Prop :=
  decode 0b1_0000000_000000_000000_000000_000000 = .ok (.nop true) ∧
  decode 0b1_0010000_000010_000011_000100_000000 = .ok (.add true 2 3 4) ∧
  decode 0b1_0011100_000010_000011_000100_000110 = .ok (.cmp true 2 3 4 6) ∧
  decode 0b1_0100000_000010_000011_000100_110011 = .ok (.fadd true 2 3 4 3 3) ∧
  decode 0b1_0101000_000000_000000_000000_000010 = .ok (.br true 2) ∧
  decode 0b1_0110000_000010_000011_000100_000000 = .ok (.cnarrowOff true 2 3 4) ∧
  decode 0b1_0111101_000010_000000_000000_000011 = .ok (.csrr true 2 3) ∧
  decode 0b1_1000000_000010_000011_000100_010111 = .ok (.vadd true 2 3 4 false true 7) ∧
  decode 0b1_1001011_000010_000011_001010_010000 = .ok (.vcvt true 2 3 2 9 false 0) ∧
  decode 0b1_1011000_000010_000011_000100_000110 = .ok (.lds true 2 3 4 false false true 2) ∧
  decode 0b1_1100000_000010_000011_000100_001011 = .ok (.ldg true 2 3 4 false true false 3) ∧
  decode 0b1_1100011_000010_110100_000101_001010 = .ok (.atomAdd true 2 3 4 5 true false) ∧
  decode 0b1_1101100_000010_000011_000100_010001 = .ok (.mma true 2 3 4 false true false 1) ∧
  decode 0b1_1110010_000010_000011_000100_101110 = .ok (.copy true 2 3 4 5 6) ∧
  decode 0b1_1110100_000010_000011_000000_000010 = .ok (.fpush true 2 3) ∧
  decode 0b1_1111010_000000_000010_000000_000000 = .ok (.twait true 2) ∧
  decode 0b1_1111100_000010_000011_000000_000001 = .ok (.bararr true 2 3) ∧
  decode 0b1_1111101_000010_000011_000100_000000 = .ok (.trigat true 2 3 4) ∧
  decode 0b1_1111111_000000_000000_000000_000000 = .error .illegalOpcode ∧
  decode 0b1_0010000_000001_000010_000011_000011 = .error .illegalFunction

/-- R6, R12, R437: the state after reset: no context, no launch and no request; every byte of memory 0; BOOT.STATUS is RESET, and the registers that the spec gives a reset value hold it. -/
def Obligations.ResetState : Prop :=
  let s := State.reset
  s.ctxs = [] ∧ s.launches = [] ∧ s.cmds = [] ∧ s.reqs = [] ∧ s.gt = 0 ∧ s.mem.wf = true ∧
  (∀ a, s.peek a = ⟨0, false⟩) ∧ (s.csr 0x90200).toNat = 0 ∧
  ∀ q ∈ ([(0x40008, 4), (0x80010, 6), (0x80018, 0), (0x80020, 0), (0x80030, 0), (0x80040, 0), (0x50000, 8 * 2 ^ 48 + 5000 * 2 ^ 24 + 50), (0x50100, 224),
    (0x100098, 10000), (0xA0200, 95 * 2 ^ 16 + 2400), (0xA0300, 16 * 2 ^ 40), (0x90208, 0), (0x810, 0)] : List (Nat × Nat)), (s.csr q.1).toNat = q.2

/-- R440: only a cold reset, or the loss of the supply, leaves TRIPPED: every other step changes nothing but the lists from which turns are taken. -/
def Obligations.TrippedHolds : Prop :=
  let inv := fun s : State => s.bootStage = 6 ∧ ∀ t ∈ s.agenda, t ≠ .event .coldReset ∧ t ≠ .event .powerLoss
  ∀ (s : State), inv s → ∃ t, step s = .next t ∧ inv t ∧ t = { s with agenda := s.agenda.tail, turnQ := t.turnQ, skipped := t.skipped }

/-- Every instruction and every event of the table answers a next state in every state. -/
def Obligations.NothingStops : Prop := ∀ (i : Instr) (s : State), ∃ t, exec i s = .next t

/-- NOP, reserved majors and privileged forms. -/
def Obligations.ReservedAndPrivileged : Prop :=
  Sys2Proof.Parts.NopAndReserved ∧ Sys2Proof.Parts.PrivilegedForms
end

