-- ==== Sys2Proof/Laws/Fabric.lean ====
section
/-! SUPPORT. A flit on a line (R330): its CRC is good, and reading it gives the flit back. -/
namespace Sys2Proof.Machine

theorem extract_high {p q : Nat} (x : BitVec p) (y : BitVec q) (o n : Nat) (h : q ≤ o) : (x ++ y).extractLsb' o n = x.extractLsb' (o - q) n := by
  apply BitVec.eq_of_getLsbD_eq
  intro i hi
  simp only [BitVec.getLsbD_extractLsb', BitVec.getLsbD_append, hi, decide_true, Bool.true_and]
  rw [if_neg (by omega), show o + i - q = o - q + i by omega]

theorem extract_low {p q : Nat} (x : BitVec p) (y : BitVec q) (o n : Nat) (h : o + n ≤ q) : (x ++ y).extractLsb' o n = y.extractLsb' o n := by
  apply BitVec.eq_of_getLsbD_eq
  intro i hi
  simp only [BitVec.getLsbD_extractLsb', BitVec.getLsbD_append, hi, decide_true, Bool.true_and]
  rw [if_pos (by omega)]

theorem extract_all {n : Nat} (x : BitVec n) : x.extractLsb' 0 n = x := by
  apply BitVec.eq_of_getLsbD_eq
  intro i hi
  simp [hi]

/-! ## The CRC -/

/-- The CRC covers the header above it and the body, not itself. -/
theorem crcBytes_append (h : BitVec 104) (c d : BitVec 24) (b : BitVec 2048) : crcBytes (h ++ c ++ b) = crcBytes (h ++ d ++ b) := by
  have hi : ∀ c : BitVec 24, ∀ i ∈ List.range 13, (h ++ c ++ b).extractLsb' (2168 - 8 * i) 8 = h.extractLsb' (2168 - 8 * i - 2048 - 24) 8 := by
    intro c i hi
    have := List.mem_range.mp hi
    exact (extract_high (h ++ c) b _ 8 (by omega)).trans (extract_high h c _ 8 (by omega))
  have lo : ∀ c : BitVec 24, ∀ i ∈ List.range 256, (h ++ c ++ b).extractLsb' (8 * i) 8 = b.extractLsb' (8 * i) 8 := by
    intro c i hi
    have := List.mem_range.mp hi
    exact extract_low (h ++ c) b _ 8 (by omega)
  unfold crcBytes
  exact congrArg₂ _ (List.map_congr_left fun i m => (hi c i m).trans (hi d i m).symm)
    (List.map_congr_left fun i m => (lo c i m).trans (lo d i m).symm)

/-- A flit is good when its CRC field holds the CRC of the rest. -/
theorem crcGood_append (h : BitVec 104) (c : BitVec 24) (b : BitVec 2048) :
    crcGood (h ++ c ++ b) = decide (crc24 (crcBytes (h ++ (0 : BitVec 24) ++ b)) = c) := by
  have hc : (h ++ c ++ b).extractLsb' 2048 24 = c :=
    (extract_high (h ++ c) b 2048 24 (Nat.le_refl _)).trans ((extract_low h c 0 24 (Nat.le_refl _)).trans (extract_all c))
  have hb := crcBytes_append h c 0 b
  generalize h ++ (0 : BitVec 24) ++ b = w at hb ⊢
  generalize h ++ c ++ b = v at hc hb ⊢
  subst hc
  unfold crcGood
  rw [hb]

/-- What a transmitter puts on a line has a good CRC. -/
theorem crcGood_wire (f : Flit) (a b c d e : Nat) : crcGood (f.wire a b c d e) = true := by
  unfold Flit.wire
  exact (crcGood_append _ _ _).trans (decide_eq_true rfl)

/-! ## The header -/

/-- A header field above the CRC. -/
theorem hdr_append (h : BitVec 104) (c : BitVec 24) (b : BitVec 2048) (hi lo : Nat) (hlo : 24 ≤ lo) :
    hdr (h ++ c ++ b) hi lo = (h.extractLsb' (lo - 24) (hi - lo + 1)).toNat := by
  unfold hdr
  have := (extract_high (h ++ c) b (2048 + lo) (hi - lo + 1) (by omega)).trans (extract_high h c _ (hi - lo + 1) (by omega))
  rw [this, show 2048 + lo - 2048 - 24 = lo - 24 by omega]

/-- Reading a flit does not depend on its CRC. -/
theorem ofWire_append (h : BitVec 104) (c d : BitVec 24) (b : BitVec 2048) : Flit.ofWire (h ++ c ++ b) = Flit.ofWire (h ++ d ++ b) := by
  have lo : ∀ c : BitVec 24, ∀ i ∈ List.range 256, (h ++ c ++ b).extractLsb' (8 * i) 8 = b.extractLsb' (8 * i) 8 := by
    intro c i hi
    have := List.mem_range.mp hi
    exact extract_low (h ++ c) b _ 8 (by omega)
  unfold Flit.ofWire
  rw [List.map_congr_left (lo c), List.map_congr_left (lo d)]
  simp only [hdr_append _ _ _ _ _ (by decide : 24 ≤ 114), hdr_append _ _ _ _ _ (by decide : 24 ≤ 100), hdr_append _ _ _ _ _ (by decide : 24 ≤ 96),
    hdr_append _ _ _ _ _ (by decide : 24 ≤ 77), hdr_append _ _ _ _ _ (by decide : 24 ≤ 34), hdr_append _ _ _ _ _ (by decide : 24 ≤ 33),
    hdr_append _ _ _ _ _ (by decide : 24 ≤ 32), hdr_append _ _ _ _ _ (by decide : 24 ≤ 24)]

end Sys2Proof.Machine
end

