-- ==== Sys2Proof/Laws/Sparse.lean ====
section
/-! SUPPORT. What the stores of Machine/Sparse.lean read after a write, and that writes keep the canonical form. -/
namespace Sys2Proof.Machine

theorem Sparse.find_append {α : Type} (xs ys : Sparse α) (a : Nat) :
    Sparse.find (xs ++ ys) a = (Sparse.find xs a).or (Sparse.find ys a) := by
  induction xs with
  | nil => simp [Sparse.find]
  | cons e xs ih => by_cases h : e.1 = a <;> simp [Sparse.find, h, ih]

theorem Sparse.find_filter {α : Type} (m : Sparse α) (P : Nat → Bool) (a : Nat) :
    Sparse.find (m.filter fun e => P e.1) a = if P a then Sparse.find m a else none := by
  induction m with
  | nil => simp [Sparse.find]
  | cons e m ih => by_cases h : P e.1 <;> by_cases h2 : e.1 = a <;> simp_all [Sparse.find]

theorem Sparse.find_mem {α : Type} (xs : Sparse α) (a : Nat) (v : α) (h : Sparse.find xs a = some v) : (a, v) ∈ xs := by
  induction xs with
  | nil => simp [Sparse.find] at h
  | cons e xs ih => 
    by_cases h2 : e.1 = a
    · simp [Sparse.find, h2] at h; simp [← h, ← h2]
    · simp [Sparse.find, h2] at h; simp [ih h]

/-- A splice reads as the new entries inside the range and as before outside it. -/
theorem Sparse.find_splice {α : Type} (m : Sparse α) (lo n : Nat) (xs : List (Nat × α)) (a : Nat)
    (hx : ∀ e ∈ xs, lo ≤ e.1 ∧ e.1 < lo + n) :
    Sparse.find (m.splice lo n xs) a = if lo ≤ a ∧ a < lo + n then Sparse.find xs a else Sparse.find m a := by
  have k : ¬ (lo ≤ a ∧ a < lo + n) → Sparse.find xs a = none := by
    intro h; by_contra h2
    obtain ⟨v, hv⟩ := Option.ne_none_iff_exists'.mp h2
    exact h (hx _ (Sparse.find_mem _ _ _ hv))
  have e1 := Sparse.find_filter m (fun k => decide (k < lo)) a
  have e2 := Sparse.find_filter m (fun k => decide (lo + n ≤ k)) a
  simp only [Sparse.splice, Sparse.find_append, e1, e2, decide_eq_true_eq]
  by_cases h : lo ≤ a ∧ a < lo + n
  · simp [h, show ¬ a < lo by omega, show ¬ lo + n ≤ a by omega]
  · simp only [k h, h, if_false]
    by_cases h1 : a < lo
    · simp [h1, show ¬ lo + n ≤ a by omega]
    · simp [h1, show lo + n ≤ a by omega]

@[simp] theorem Sparse.get_put {α : Type} (d : α) (m : Sparse α) (k : Nat) (v : α) (a : Nat) :
    Sparse.get d (m.put k v) a = if a = k then v else Sparse.get d m a := by
  rw [Sparse.get, Sparse.put, Sparse.find_splice _ _ _ _ _ (by simp)]
  by_cases h : a = k
  · simp [h, Sparse.find]
  · rw [if_neg (by omega)]; simp [h, Sparse.get]

theorem Sparse.find_rangeMap {α : Type} (g : Nat → Option (Nat × α)) (f : Nat → Option α) (lo n : Nat) (a : Nat)
    (hg : ∀ i, g i = (f i).map fun v => (lo + i, v)) (h : lo ≤ a ∧ a < lo + n) :
    Sparse.find ((List.range n).filterMap g) a = f (a - lo) := by
  have hm : ∀ n, ¬ a < lo + n → Sparse.find ((List.range n).filterMap g) a = none := by
    intro n hn; by_contra h2
    obtain ⟨v, hv⟩ := Option.ne_none_iff_exists'.mp h2
    have := Sparse.find_mem _ _ _ hv
    simp only [List.mem_filterMap, List.mem_range, hg, Option.map_eq_some_iff, Prod.mk.injEq] at this
    obtain ⟨i, hi, w, -, hw, -⟩ := this; omega
  induction n with
  | zero => omega
  | succ n ih =>
    rw [List.range_succ, List.filterMap_append, Sparse.find_append]
    by_cases h2 : a < lo + n
    · rw [ih ⟨h.1, h2⟩]
      cases hf : f n with
      | none => simp [hg, hf, Sparse.find]
      | some v => simp [hg, hf, Sparse.find, show ¬ lo + n = a by omega]
    · have ha : a = lo + n := by omega
      rw [hm n h2]
      cases hf : f n with
      | none => simp [hg, hf, Sparse.find, ha]
      | some v => simp [hg, hf, Sparse.find, ha]

@[simp] theorem Sparse.get_putRange {α : Type} (d : α) (m : Sparse α) (lo n : Nat) (f : Nat → α) (a : Nat) :
    Sparse.get d (m.putRange lo n f) a = if lo ≤ a ∧ a < lo + n then f (a - lo) else Sparse.get d m a := by
  have e : (List.range n).map (fun i => (lo + i, f i)) = (List.range n).filterMap fun i => (some (f i)).map fun v => (lo + i, v) := by
    rw [← List.filterMap_eq_map]; rfl
  rw [Sparse.get, Sparse.putRange, Sparse.find_splice]
  · split
    · rw [e, Sparse.find_rangeMap _ (fun i => some (f i)) lo n a (fun _ => rfl) (by assumption)]; rfl
    · rfl
  · simp only [List.mem_map, List.mem_range]; rintro _ ⟨i, hi, rfl⟩; simp; omega

theorem Sparse.mem_setRange {α : Type} [DecidableEq α] {d : α} {lo n : Nat} {f : Nat → α} {e : Nat × α}
    (he : e ∈ (List.range n).filterMap fun i => if f i = d then none else some (lo + i, f i)) :
    lo ≤ e.1 ∧ e.1 < lo + n ∧ e.2 ≠ d := by
  simp only [List.mem_filterMap, List.mem_range] at he
  obtain ⟨i, hi, he⟩ := he
  by_cases h : f i = d
  · simp [h] at he
  · simp [h] at he; subst he; exact ⟨by simp, by simpa using hi, h⟩

@[simp] theorem Sparse.get_setRange {α : Type} [DecidableEq α] (d : α) (m : Sparse α) (lo n : Nat) (f : Nat → α) (a : Nat) :
    Sparse.get d (Sparse.setRange d m lo n f) a = if lo ≤ a ∧ a < lo + n then f (a - lo) else Sparse.get d m a := by
  rw [Sparse.get, Sparse.setRange, Sparse.find_splice]
  · split
    · rw [Sparse.find_rangeMap _ (fun i => if f i = d then none else some (f i)) lo n a _ (by assumption)]
      · split <;> simp_all
      · intro i; split <;> simp
    · rfl
  · intro e he; have := Sparse.mem_setRange he; exact ⟨this.1, this.2.1⟩

/-- A canonical write keeps the canonical form. -/
theorem Sparse.wf_setRange {α : Type} [DecidableEq α] (d : α) (m : Sparse α) (lo n : Nat) (f : Nat → α)
    (h : Sparse.wf d m = true) : Sparse.wf d (Sparse.setRange d m lo n f) = true := by
  simp only [Sparse.wf, Bool.and_eq_true, decide_eq_true_eq, List.all_eq_true] at h ⊢
  obtain ⟨hp, hd⟩ := h
  have hr : ((List.range n).filterMap fun i => if f i = d then none else some (lo + i, f i)).Pairwise (fun x y => x.1 < y.1) := by
    rw [List.pairwise_filterMap]
    refine (List.pairwise_lt_range).imp ?_
    intro i j hij x hx y hy
    by_cases h1 : f i = d <;> by_cases h2 : f j = d <;> simp [h1, h2] at hx hy
    rw [← hx, ← hy]; simpa using hij
  constructor
  · unfold Sparse.setRange Sparse.splice
    rw [List.pairwise_append, List.pairwise_append]
    refine ⟨⟨hp.filter _, hr, ?_⟩, hp.filter _, ?_⟩
    · intro x hx y hy
      have := Sparse.mem_setRange hy; simp at hx; omega
    · intro x hx y hy
      simp only [List.mem_append, List.mem_filter, decide_eq_true_eq] at hx hy
      rcases hx with hx | hx
      · omega
      · have := Sparse.mem_setRange hx; omega
  · intro e he
    simp only [Sparse.setRange, Sparse.splice, List.mem_append, List.mem_filter] at he
    rcases he with (⟨he, -⟩ | he) | ⟨he, -⟩
    · exact hd e he
    · have := (Sparse.mem_setRange he).2.2; simpa using this
    · exact hd e he

/-- Of two writes of one key the later stands. -/
@[simp] theorem Sparse.put_put {α : Type} (m : Sparse α) (k : Nat) (v w : α) : (m.put k v).put k w = m.put k w := by
  have h1 : ∀ e : Nat × α, (decide (e.1 < k) && decide (k + 1 ≤ e.1)) = false := by
    intro e; by_cases h : e.1 < k <;> simp [h]; omega
  simp only [Sparse.put, Sparse.splice, List.filter_append, List.filter_filter, Bool.and_self, h1, Bool.and_comm (decide (k + 1 ≤ _))]
  simp

theorem Memory.wf_write (m : Memory) (lo n : Nat) (f : Nat → Byte) (h : m.wf = true) : (m.write lo n f).wf = true :=
  Sparse.wf_setRange 0 m lo n f h

theorem Memory.wf_writeNat (m : Memory) (lo n v : Nat) (h : m.wf = true) : (m.writeNat lo n v).wf = true :=
  Memory.wf_write m lo n _ h

@[simp] theorem Memory.byte_write (m : Memory) (lo n : Nat) (f : Nat → Byte) (a : Nat) :
    (m.write lo n f).byte a = if lo ≤ a ∧ a < lo + n then f (a - lo) else m.byte a :=
  Sparse.get_setRange 0 m lo n f a

theorem KeySet.mem_setRange (m : KeySet) (lo n : Nat) (f : Nat → Bool) (a : Nat) :
    a ∈ KeySet.setRange m lo n f ↔ if lo ≤ a ∧ a < lo + n then f (a - lo) = true else a ∈ m := by
  simp only [KeySet.setRange, List.mem_append, List.mem_filter, List.mem_map, List.mem_range, decide_eq_true_eq]
  constructor
  · rintro ((⟨h, h2⟩ | ⟨i, ⟨hi, hf⟩, rfl⟩) | ⟨h, h2⟩)
    · simp [h, show ¬ lo ≤ a by omega]
    · simp [hi, hf]
    · simp [h, show ¬ a < lo + n by omega]
  · split
    · intro hf; exact .inl (.inr ⟨a - lo, ⟨by omega, hf⟩, by omega⟩)
    · intro h; by_cases h1 : a < lo
      · exact .inl (.inl ⟨h, h1⟩)
      · exact .inr ⟨h, by omega⟩

end Sys2Proof.Machine
end

