-- ==== Sys2Proof/Laws/State.lean ====
section
/-! SUPPORT. What the named updates of the state leave in each field, one lemma a field, so that no proof unfolds a record
update; and what a bank, a core or a CSR reads after a write. -/
namespace Sys2Proof.Machine

@[simp] theorem State.modCtx_eq (s : State) (k : Nat) (f : Ctx → Ctx) : s.modCtx k f = s.setCtx k (f (s.ctx k)) := rfl
@[simp] theorem State.modCore_eq (s : State) (k : Nat) (f : Core → Core) : s.modCore k f = s.setCore k (f (s.core k)) := rfl

@[simp] theorem State.setCtx_agenda (s : State) (k : Nat) (c : Ctx) : (s.setCtx k c).agenda = s.agenda := rfl
@[simp] theorem State.setCtx_turnQ (s : State) (k : Nat) (c : Ctx) : (s.setCtx k c).turnQ = s.turnQ := rfl
@[simp] theorem State.setCtx_skipped (s : State) (k : Nat) (c : Ctx) : (s.setCtx k c).skipped = s.skipped := rfl
@[simp] theorem State.setCtx_free (s : State) (k : Nat) (c : Ctx) : (s.setCtx k c).free = s.free := rfl
@[simp] theorem State.setCtx_cur (s : State) (k : Nat) (c : Ctx) : (s.setCtx k c).cur = s.cur := rfl
@[simp] theorem State.setCtx_raised (s : State) (k : Nat) (c : Ctx) : (s.setCtx k c).raised = s.raised := rfl
@[simp] theorem State.setCtx_asks (s : State) (k : Nat) (c : Ctx) : (s.setCtx k c).asks = s.asks := rfl
@[simp] theorem State.setCtx_gt (s : State) (k : Nat) (c : Ctx) : (s.setCtx k c).gt = s.gt := rfl
@[simp] theorem State.setCtx_cores (s : State) (k : Nat) (c : Ctx) : (s.setCtx k c).cores = s.cores := rfl
@[simp] theorem State.setCtx_mem (s : State) (k : Nat) (c : Ctx) : (s.setCtx k c).mem = s.mem := rfl
@[simp] theorem State.setCtx_psn (s : State) (k : Nat) (c : Ctx) : (s.setCtx k c).psn = s.psn := rfl
@[simp] theorem State.setCtx_tagF (s : State) (k : Nat) (c : Ctx) : (s.setCtx k c).tagF = s.tagF := rfl
@[simp] theorem State.setCtx_tagC (s : State) (k : Nat) (c : Ctx) : (s.setCtx k c).tagC = s.tagC := rfl
@[simp] theorem State.setCtx_llc (s : State) (k : Nat) (c : Ctx) : (s.setCtx k c).llc = s.llc := rfl
@[simp] theorem State.setCtx_dev (s : State) (k : Nat) (c : Ctx) : (s.setCtx k c).dev = s.dev := rfl
@[simp] theorem State.setCtx_peer (s : State) (k : Nat) (c : Ctx) : (s.setCtx k c).peer = s.peer := rfl
@[simp] theorem State.setCtx_tlbs (s : State) (k : Nat) (c : Ctx) : (s.setCtx k c).tlbs = s.tlbs := rfl
@[simp] theorem State.setCtx_reqs (s : State) (k : Nat) (c : Ctx) : (s.setCtx k c).reqs = s.reqs := rfl
@[simp] theorem State.setCtx_pool (s : State) (k : Nat) (c : Ctx) : (s.setCtx k c).pool = s.pool := rfl
@[simp] theorem State.setCtx_copies (s : State) (k : Nat) (c : Ctx) : (s.setCtx k c).copies = s.copies := rfl
@[simp] theorem State.setCtx_cowWant (s : State) (k : Nat) (c : Ctx) : (s.setCtx k c).cowWant = s.cowWant := rfl
@[simp] theorem State.setCtx_cowLine (s : State) (k : Nat) (c : Ctx) : (s.setCtx k c).cowLine = s.cowLine := rfl
@[simp] theorem State.setCtx_parks (s : State) (k : Nat) (c : Ctx) : (s.setCtx k c).parks = s.parks := rfl
@[simp] theorem State.setCtx_tagLine (s : State) (k : Nat) (c : Ctx) : (s.setCtx k c).tagLine = s.tagLine := rfl
@[simp] theorem State.setCtx_lockets (s : State) (k : Nat) (c : Ctx) : (s.setCtx k c).lockets = s.lockets := rfl
@[simp] theorem State.setCtx_shoot (s : State) (k : Nat) (c : Ctx) : (s.setCtx k c).shoot = s.shoot := rfl
@[simp] theorem State.setCtx_bars (s : State) (k : Nat) (c : Ctx) : (s.setCtx k c).bars = s.bars := rfl
@[simp] theorem State.setCtx_regd (s : State) (k : Nat) (c : Ctx) : (s.setCtx k c).regd = s.regd := rfl
@[simp] theorem State.setCtx_subs (s : State) (k : Nat) (c : Ctx) : (s.setCtx k c).subs = s.subs := rfl
@[simp] theorem State.setCtx_nextInc (s : State) (k : Nat) (c : Ctx) : (s.setCtx k c).nextInc = s.nextInc := rfl
@[simp] theorem State.setCtx_launches (s : State) (k : Nat) (c : Ctx) : (s.setCtx k c).launches = s.launches := rfl
@[simp] theorem State.setCtx_nextLaunch (s : State) (k : Nat) (c : Ctx) : (s.setCtx k c).nextLaunch = s.nextLaunch := rfl
@[simp] theorem State.setCtx_ready (s : State) (k : Nat) (c : Ctx) : (s.setCtx k c).ready = s.ready := rfl
@[simp] theorem State.setCtx_saving (s : State) (k : Nat) (c : Ctx) : (s.setCtx k c).saving = s.saving := rfl
@[simp] theorem State.setCtx_dealt (s : State) (k : Nat) (c : Ctx) : (s.setCtx k c).dealt = s.dealt := rfl
@[simp] theorem State.setCtx_swaps (s : State) (k : Nat) (c : Ctx) : (s.setCtx k c).swaps = s.swaps := rfl
@[simp] theorem State.setCtx_cmds (s : State) (k : Nat) (c : Ctx) : (s.setCtx k c).cmds = s.cmds := rfl
@[simp] theorem State.setCtx_nextCmd (s : State) (k : Nat) (c : Ctx) : (s.setCtx k c).nextCmd = s.nextCmd := rfl
@[simp] theorem State.setCtx_nextReq (s : State) (k : Nat) (c : Ctx) : (s.setCtx k c).nextReq = s.nextReq := rfl
@[simp] theorem State.setCtx_trigs (s : State) (k : Nat) (c : Ctx) : (s.setCtx k c).trigs = s.trigs := rfl
@[simp] theorem State.setCtx_fired (s : State) (k : Nat) (c : Ctx) : (s.setCtx k c).fired = s.fired := rfl
@[simp] theorem State.setCtx_merges (s : State) (k : Nat) (c : Ctx) : (s.setCtx k c).merges = s.merges := rfl
@[simp] theorem State.setCtx_mergeQ (s : State) (k : Nat) (c : Ctx) : (s.setCtx k c).mergeQ = s.mergeQ := rfl
@[simp] theorem State.setCtx_fifos (s : State) (k : Nat) (c : Ctx) : (s.setCtx k c).fifos = s.fifos := rfl
@[simp] theorem State.setCtx_clasps (s : State) (k : Nat) (c : Ctx) : (s.setCtx k c).clasps = s.clasps := rfl
@[simp] theorem State.setCtx_stages (s : State) (k : Nat) (c : Ctx) : (s.setCtx k c).stages = s.stages := rfl
@[simp] theorem State.setCtx_closed (s : State) (k : Nat) (c : Ctx) : (s.setCtx k c).closed = s.closed := rfl
@[simp] theorem State.setCtx_age (s : State) (k : Nat) (c : Ctx) : (s.setCtx k c).age = s.age := rfl
@[simp] theorem State.setCtx_pins (s : State) (k : Nat) (c : Ctx) : (s.setCtx k c).pins = s.pins := rfl
@[simp] theorem State.setCtx_links (s : State) (k : Nat) (c : Ctx) : (s.setCtx k c).links = s.links := rfl
@[simp] theorem State.setCtx_sendq (s : State) (k : Nat) (c : Ctx) : (s.setCtx k c).sendq = s.sendq := rfl
@[simp] theorem State.setCtx_outQ (s : State) (k : Nat) (c : Ctx) : (s.setCtx k c).outQ = s.outQ := rfl
@[simp] theorem State.setCtx_passing (s : State) (k : Nat) (c : Ctx) : (s.setCtx k c).passing = s.passing := rfl
@[simp] theorem State.setCtx_txFree (s : State) (k : Nat) (c : Ctx) : (s.setCtx k c).txFree = s.txFree := rfl
@[simp] theorem State.setCtx_sent (s : State) (k : Nat) (c : Ctx) : (s.setCtx k c).sent = s.sent := rfl
@[simp] theorem State.setCtx_ccount (s : State) (k : Nat) (c : Ctx) : (s.setCtx k c).ccount = s.ccount := rfl
@[simp] theorem State.setCtx_released (s : State) (k : Nat) (c : Ctx) : (s.setCtx k c).released = s.released := rfl
@[simp] theorem State.setCtx_adverts (s : State) (k : Nat) (c : Ctx) : (s.setCtx k c).adverts = s.adverts := rfl
@[simp] theorem State.setCtx_onWire (s : State) (k : Nat) (c : Ctx) : (s.setCtx k c).onWire = s.onWire := rfl
@[simp] theorem State.setCtx_inbox (s : State) (k : Nat) (c : Ctx) : (s.setCtx k c).inbox = s.inbox := rfl
@[simp] theorem State.setCtx_strms (s : State) (k : Nat) (c : Ctx) : (s.setCtx k c).strms = s.strms := rfl
@[simp] theorem State.setCtx_notes (s : State) (k : Nat) (c : Ctx) : (s.setCtx k c).notes = s.notes := rfl
@[simp] theorem State.setCtx_collSets (s : State) (k : Nat) (c : Ctx) : (s.setCtx k c).collSets = s.collSets := rfl
@[simp] theorem State.setCtx_mesh (s : State) (k : Nat) (c : Ctx) : (s.setCtx k c).mesh = s.mesh := rfl
@[simp] theorem State.setCtx_syncLost (s : State) (k : Nat) (c : Ctx) : (s.setCtx k c).syncLost = s.syncLost := rfl
@[simp] theorem State.setCtx_lastSlot (s : State) (k : Nat) (c : Ctx) : (s.setCtx k c).lastSlot = s.lastSlot := rfl
@[simp] theorem State.setCtx_readOut (s : State) (k : Nat) (c : Ctx) : (s.setCtx k c).readOut = s.readOut := rfl
@[simp] theorem State.setCtx_ofuEvents (s : State) (k : Nat) (c : Ctx) : (s.setCtx k c).ofuEvents = s.ofuEvents := rfl
@[simp] theorem State.setCtx_ofuOvf (s : State) (k : Nat) (c : Ctx) : (s.setCtx k c).ofuOvf = s.ofuOvf := rfl
@[simp] theorem State.setCtx_pwrEvents (s : State) (k : Nat) (c : Ctx) : (s.setCtx k c).pwrEvents = s.pwrEvents := rfl
@[simp] theorem State.setCtx_pwrOvf (s : State) (k : Nat) (c : Ctx) : (s.setCtx k c).pwrOvf = s.pwrOvf := rfl
@[simp] theorem State.setCtx_irqs (s : State) (k : Nat) (c : Ctx) : (s.setCtx k c).irqs = s.irqs := rfl
@[simp] theorem State.setCtx_cps (s : State) (k : Nat) (c : Ctx) : (s.setCtx k c).cps = s.cps := rfl
@[simp] theorem State.setCtx_nextCp (s : State) (k : Nat) (c : Ctx) : (s.setCtx k c).nextCp = s.nextCp := rfl
@[simp] theorem State.setCtx_writers (s : State) (k : Nat) (c : Ctx) : (s.setCtx k c).writers = s.writers := rfl
@[simp] theorem State.setCtx_readers (s : State) (k : Nat) (c : Ctx) : (s.setCtx k c).readers = s.readers := rfl
@[simp] theorem State.setCtx_lastQueue (s : State) (k : Nat) (c : Ctx) : (s.setCtx k c).lastQueue = s.lastQueue := rfl
@[simp] theorem State.setCtx_flash (s : State) (k : Nat) (c : Ctx) : (s.setCtx k c).flash = s.flash := rfl
@[simp] theorem State.setCtx_updating (s : State) (k : Nat) (c : Ctx) : (s.setCtx k c).updating = s.updating := rfl
@[simp] theorem State.setCtx_clear (s : State) (k : Nat) (c : Ctx) : (s.setCtx k c).clear = s.clear := rfl
@[simp] theorem State.setCtx_clamped (s : State) (k : Nat) (c : Ctx) : (s.setCtx k c).clamped = s.clamped := rfl
@[simp] theorem State.setCtx_arbiterAt (s : State) (k : Nat) (c : Ctx) : (s.setCtx k c).arbiterAt = s.arbiterAt := rfl

@[simp] theorem State.setCore_agenda (s : State) (k : Nat) (c : Core) : (s.setCore k c).agenda = s.agenda := rfl
@[simp] theorem State.setCore_turnQ (s : State) (k : Nat) (c : Core) : (s.setCore k c).turnQ = s.turnQ := rfl
@[simp] theorem State.setCore_skipped (s : State) (k : Nat) (c : Core) : (s.setCore k c).skipped = s.skipped := rfl
@[simp] theorem State.setCore_free (s : State) (k : Nat) (c : Core) : (s.setCore k c).free = s.free := rfl
@[simp] theorem State.setCore_cur (s : State) (k : Nat) (c : Core) : (s.setCore k c).cur = s.cur := rfl
@[simp] theorem State.setCore_raised (s : State) (k : Nat) (c : Core) : (s.setCore k c).raised = s.raised := rfl
@[simp] theorem State.setCore_asks (s : State) (k : Nat) (c : Core) : (s.setCore k c).asks = s.asks := rfl
@[simp] theorem State.setCore_gt (s : State) (k : Nat) (c : Core) : (s.setCore k c).gt = s.gt := rfl
@[simp] theorem State.setCore_ctxs (s : State) (k : Nat) (c : Core) : (s.setCore k c).ctxs = s.ctxs := rfl
@[simp] theorem State.setCore_mem (s : State) (k : Nat) (c : Core) : (s.setCore k c).mem = s.mem := rfl
@[simp] theorem State.setCore_psn (s : State) (k : Nat) (c : Core) : (s.setCore k c).psn = s.psn := rfl
@[simp] theorem State.setCore_tagF (s : State) (k : Nat) (c : Core) : (s.setCore k c).tagF = s.tagF := rfl
@[simp] theorem State.setCore_tagC (s : State) (k : Nat) (c : Core) : (s.setCore k c).tagC = s.tagC := rfl
@[simp] theorem State.setCore_llc (s : State) (k : Nat) (c : Core) : (s.setCore k c).llc = s.llc := rfl
@[simp] theorem State.setCore_dev (s : State) (k : Nat) (c : Core) : (s.setCore k c).dev = s.dev := rfl
@[simp] theorem State.setCore_peer (s : State) (k : Nat) (c : Core) : (s.setCore k c).peer = s.peer := rfl
@[simp] theorem State.setCore_tlbs (s : State) (k : Nat) (c : Core) : (s.setCore k c).tlbs = s.tlbs := rfl
@[simp] theorem State.setCore_reqs (s : State) (k : Nat) (c : Core) : (s.setCore k c).reqs = s.reqs := rfl
@[simp] theorem State.setCore_pool (s : State) (k : Nat) (c : Core) : (s.setCore k c).pool = s.pool := rfl
@[simp] theorem State.setCore_copies (s : State) (k : Nat) (c : Core) : (s.setCore k c).copies = s.copies := rfl
@[simp] theorem State.setCore_cowWant (s : State) (k : Nat) (c : Core) : (s.setCore k c).cowWant = s.cowWant := rfl
@[simp] theorem State.setCore_cowLine (s : State) (k : Nat) (c : Core) : (s.setCore k c).cowLine = s.cowLine := rfl
@[simp] theorem State.setCore_parks (s : State) (k : Nat) (c : Core) : (s.setCore k c).parks = s.parks := rfl
@[simp] theorem State.setCore_tagLine (s : State) (k : Nat) (c : Core) : (s.setCore k c).tagLine = s.tagLine := rfl
@[simp] theorem State.setCore_lockets (s : State) (k : Nat) (c : Core) : (s.setCore k c).lockets = s.lockets := rfl
@[simp] theorem State.setCore_shoot (s : State) (k : Nat) (c : Core) : (s.setCore k c).shoot = s.shoot := rfl
@[simp] theorem State.setCore_bars (s : State) (k : Nat) (c : Core) : (s.setCore k c).bars = s.bars := rfl
@[simp] theorem State.setCore_regd (s : State) (k : Nat) (c : Core) : (s.setCore k c).regd = s.regd := rfl
@[simp] theorem State.setCore_subs (s : State) (k : Nat) (c : Core) : (s.setCore k c).subs = s.subs := rfl
@[simp] theorem State.setCore_nextInc (s : State) (k : Nat) (c : Core) : (s.setCore k c).nextInc = s.nextInc := rfl
@[simp] theorem State.setCore_launches (s : State) (k : Nat) (c : Core) : (s.setCore k c).launches = s.launches := rfl
@[simp] theorem State.setCore_nextLaunch (s : State) (k : Nat) (c : Core) : (s.setCore k c).nextLaunch = s.nextLaunch := rfl
@[simp] theorem State.setCore_ready (s : State) (k : Nat) (c : Core) : (s.setCore k c).ready = s.ready := rfl
@[simp] theorem State.setCore_saving (s : State) (k : Nat) (c : Core) : (s.setCore k c).saving = s.saving := rfl
@[simp] theorem State.setCore_dealt (s : State) (k : Nat) (c : Core) : (s.setCore k c).dealt = s.dealt := rfl
@[simp] theorem State.setCore_swaps (s : State) (k : Nat) (c : Core) : (s.setCore k c).swaps = s.swaps := rfl
@[simp] theorem State.setCore_cmds (s : State) (k : Nat) (c : Core) : (s.setCore k c).cmds = s.cmds := rfl
@[simp] theorem State.setCore_nextCmd (s : State) (k : Nat) (c : Core) : (s.setCore k c).nextCmd = s.nextCmd := rfl
@[simp] theorem State.setCore_nextReq (s : State) (k : Nat) (c : Core) : (s.setCore k c).nextReq = s.nextReq := rfl
@[simp] theorem State.setCore_trigs (s : State) (k : Nat) (c : Core) : (s.setCore k c).trigs = s.trigs := rfl
@[simp] theorem State.setCore_fired (s : State) (k : Nat) (c : Core) : (s.setCore k c).fired = s.fired := rfl
@[simp] theorem State.setCore_merges (s : State) (k : Nat) (c : Core) : (s.setCore k c).merges = s.merges := rfl
@[simp] theorem State.setCore_mergeQ (s : State) (k : Nat) (c : Core) : (s.setCore k c).mergeQ = s.mergeQ := rfl
@[simp] theorem State.setCore_fifos (s : State) (k : Nat) (c : Core) : (s.setCore k c).fifos = s.fifos := rfl
@[simp] theorem State.setCore_clasps (s : State) (k : Nat) (c : Core) : (s.setCore k c).clasps = s.clasps := rfl
@[simp] theorem State.setCore_stages (s : State) (k : Nat) (c : Core) : (s.setCore k c).stages = s.stages := rfl
@[simp] theorem State.setCore_closed (s : State) (k : Nat) (c : Core) : (s.setCore k c).closed = s.closed := rfl
@[simp] theorem State.setCore_age (s : State) (k : Nat) (c : Core) : (s.setCore k c).age = s.age := rfl
@[simp] theorem State.setCore_pins (s : State) (k : Nat) (c : Core) : (s.setCore k c).pins = s.pins := rfl
@[simp] theorem State.setCore_links (s : State) (k : Nat) (c : Core) : (s.setCore k c).links = s.links := rfl
@[simp] theorem State.setCore_sendq (s : State) (k : Nat) (c : Core) : (s.setCore k c).sendq = s.sendq := rfl
@[simp] theorem State.setCore_outQ (s : State) (k : Nat) (c : Core) : (s.setCore k c).outQ = s.outQ := rfl
@[simp] theorem State.setCore_passing (s : State) (k : Nat) (c : Core) : (s.setCore k c).passing = s.passing := rfl
@[simp] theorem State.setCore_txFree (s : State) (k : Nat) (c : Core) : (s.setCore k c).txFree = s.txFree := rfl
@[simp] theorem State.setCore_sent (s : State) (k : Nat) (c : Core) : (s.setCore k c).sent = s.sent := rfl
@[simp] theorem State.setCore_ccount (s : State) (k : Nat) (c : Core) : (s.setCore k c).ccount = s.ccount := rfl
@[simp] theorem State.setCore_released (s : State) (k : Nat) (c : Core) : (s.setCore k c).released = s.released := rfl
@[simp] theorem State.setCore_adverts (s : State) (k : Nat) (c : Core) : (s.setCore k c).adverts = s.adverts := rfl
@[simp] theorem State.setCore_onWire (s : State) (k : Nat) (c : Core) : (s.setCore k c).onWire = s.onWire := rfl
@[simp] theorem State.setCore_inbox (s : State) (k : Nat) (c : Core) : (s.setCore k c).inbox = s.inbox := rfl
@[simp] theorem State.setCore_strms (s : State) (k : Nat) (c : Core) : (s.setCore k c).strms = s.strms := rfl
@[simp] theorem State.setCore_notes (s : State) (k : Nat) (c : Core) : (s.setCore k c).notes = s.notes := rfl
@[simp] theorem State.setCore_collSets (s : State) (k : Nat) (c : Core) : (s.setCore k c).collSets = s.collSets := rfl
@[simp] theorem State.setCore_mesh (s : State) (k : Nat) (c : Core) : (s.setCore k c).mesh = s.mesh := rfl
@[simp] theorem State.setCore_syncLost (s : State) (k : Nat) (c : Core) : (s.setCore k c).syncLost = s.syncLost := rfl
@[simp] theorem State.setCore_lastSlot (s : State) (k : Nat) (c : Core) : (s.setCore k c).lastSlot = s.lastSlot := rfl
@[simp] theorem State.setCore_readOut (s : State) (k : Nat) (c : Core) : (s.setCore k c).readOut = s.readOut := rfl
@[simp] theorem State.setCore_ofuEvents (s : State) (k : Nat) (c : Core) : (s.setCore k c).ofuEvents = s.ofuEvents := rfl
@[simp] theorem State.setCore_ofuOvf (s : State) (k : Nat) (c : Core) : (s.setCore k c).ofuOvf = s.ofuOvf := rfl
@[simp] theorem State.setCore_pwrEvents (s : State) (k : Nat) (c : Core) : (s.setCore k c).pwrEvents = s.pwrEvents := rfl
@[simp] theorem State.setCore_pwrOvf (s : State) (k : Nat) (c : Core) : (s.setCore k c).pwrOvf = s.pwrOvf := rfl
@[simp] theorem State.setCore_irqs (s : State) (k : Nat) (c : Core) : (s.setCore k c).irqs = s.irqs := rfl
@[simp] theorem State.setCore_cps (s : State) (k : Nat) (c : Core) : (s.setCore k c).cps = s.cps := rfl
@[simp] theorem State.setCore_nextCp (s : State) (k : Nat) (c : Core) : (s.setCore k c).nextCp = s.nextCp := rfl
@[simp] theorem State.setCore_writers (s : State) (k : Nat) (c : Core) : (s.setCore k c).writers = s.writers := rfl
@[simp] theorem State.setCore_readers (s : State) (k : Nat) (c : Core) : (s.setCore k c).readers = s.readers := rfl
@[simp] theorem State.setCore_lastQueue (s : State) (k : Nat) (c : Core) : (s.setCore k c).lastQueue = s.lastQueue := rfl
@[simp] theorem State.setCore_flash (s : State) (k : Nat) (c : Core) : (s.setCore k c).flash = s.flash := rfl
@[simp] theorem State.setCore_updating (s : State) (k : Nat) (c : Core) : (s.setCore k c).updating = s.updating := rfl
@[simp] theorem State.setCore_clear (s : State) (k : Nat) (c : Core) : (s.setCore k c).clear = s.clear := rfl
@[simp] theorem State.setCore_clamped (s : State) (k : Nat) (c : Core) : (s.setCore k c).clamped = s.clamped := rfl
@[simp] theorem State.setCore_arbiterAt (s : State) (k : Nat) (c : Core) : (s.setCore k c).arbiterAt = s.arbiterAt := rfl

@[simp] theorem State.setCsr_agenda (s : State) (k : Nat) (c : Word64) : (s.setCsr k c).agenda = s.agenda := rfl
@[simp] theorem State.setCsr_turnQ (s : State) (k : Nat) (c : Word64) : (s.setCsr k c).turnQ = s.turnQ := rfl
@[simp] theorem State.setCsr_skipped (s : State) (k : Nat) (c : Word64) : (s.setCsr k c).skipped = s.skipped := rfl
@[simp] theorem State.setCsr_free (s : State) (k : Nat) (c : Word64) : (s.setCsr k c).free = s.free := rfl
@[simp] theorem State.setCsr_cur (s : State) (k : Nat) (c : Word64) : (s.setCsr k c).cur = s.cur := rfl
@[simp] theorem State.setCsr_raised (s : State) (k : Nat) (c : Word64) : (s.setCsr k c).raised = s.raised := rfl
@[simp] theorem State.setCsr_asks (s : State) (k : Nat) (c : Word64) : (s.setCsr k c).asks = s.asks := rfl
@[simp] theorem State.setCsr_gt (s : State) (k : Nat) (c : Word64) : (s.setCsr k c).gt = s.gt := rfl
@[simp] theorem State.setCsr_ctxs (s : State) (k : Nat) (c : Word64) : (s.setCsr k c).ctxs = s.ctxs := rfl
@[simp] theorem State.setCsr_cores (s : State) (k : Nat) (c : Word64) : (s.setCsr k c).cores = s.cores := rfl
@[simp] theorem State.setCsr_mem (s : State) (k : Nat) (c : Word64) : (s.setCsr k c).mem = s.mem := rfl
@[simp] theorem State.setCsr_psn (s : State) (k : Nat) (c : Word64) : (s.setCsr k c).psn = s.psn := rfl
@[simp] theorem State.setCsr_tagF (s : State) (k : Nat) (c : Word64) : (s.setCsr k c).tagF = s.tagF := rfl
@[simp] theorem State.setCsr_tagC (s : State) (k : Nat) (c : Word64) : (s.setCsr k c).tagC = s.tagC := rfl
@[simp] theorem State.setCsr_llc (s : State) (k : Nat) (c : Word64) : (s.setCsr k c).llc = s.llc := rfl
@[simp] theorem State.setCsr_peer (s : State) (k : Nat) (c : Word64) : (s.setCsr k c).peer = s.peer := rfl
@[simp] theorem State.setCsr_tlbs (s : State) (k : Nat) (c : Word64) : (s.setCsr k c).tlbs = s.tlbs := rfl
@[simp] theorem State.setCsr_reqs (s : State) (k : Nat) (c : Word64) : (s.setCsr k c).reqs = s.reqs := rfl
@[simp] theorem State.setCsr_pool (s : State) (k : Nat) (c : Word64) : (s.setCsr k c).pool = s.pool := rfl
@[simp] theorem State.setCsr_copies (s : State) (k : Nat) (c : Word64) : (s.setCsr k c).copies = s.copies := rfl
@[simp] theorem State.setCsr_cowWant (s : State) (k : Nat) (c : Word64) : (s.setCsr k c).cowWant = s.cowWant := rfl
@[simp] theorem State.setCsr_cowLine (s : State) (k : Nat) (c : Word64) : (s.setCsr k c).cowLine = s.cowLine := rfl
@[simp] theorem State.setCsr_parks (s : State) (k : Nat) (c : Word64) : (s.setCsr k c).parks = s.parks := rfl
@[simp] theorem State.setCsr_tagLine (s : State) (k : Nat) (c : Word64) : (s.setCsr k c).tagLine = s.tagLine := rfl
@[simp] theorem State.setCsr_lockets (s : State) (k : Nat) (c : Word64) : (s.setCsr k c).lockets = s.lockets := rfl
@[simp] theorem State.setCsr_shoot (s : State) (k : Nat) (c : Word64) : (s.setCsr k c).shoot = s.shoot := rfl
@[simp] theorem State.setCsr_bars (s : State) (k : Nat) (c : Word64) : (s.setCsr k c).bars = s.bars := rfl
@[simp] theorem State.setCsr_regd (s : State) (k : Nat) (c : Word64) : (s.setCsr k c).regd = s.regd := rfl
@[simp] theorem State.setCsr_subs (s : State) (k : Nat) (c : Word64) : (s.setCsr k c).subs = s.subs := rfl
@[simp] theorem State.setCsr_nextInc (s : State) (k : Nat) (c : Word64) : (s.setCsr k c).nextInc = s.nextInc := rfl
@[simp] theorem State.setCsr_launches (s : State) (k : Nat) (c : Word64) : (s.setCsr k c).launches = s.launches := rfl
@[simp] theorem State.setCsr_nextLaunch (s : State) (k : Nat) (c : Word64) : (s.setCsr k c).nextLaunch = s.nextLaunch := rfl
@[simp] theorem State.setCsr_ready (s : State) (k : Nat) (c : Word64) : (s.setCsr k c).ready = s.ready := rfl
@[simp] theorem State.setCsr_saving (s : State) (k : Nat) (c : Word64) : (s.setCsr k c).saving = s.saving := rfl
@[simp] theorem State.setCsr_dealt (s : State) (k : Nat) (c : Word64) : (s.setCsr k c).dealt = s.dealt := rfl
@[simp] theorem State.setCsr_swaps (s : State) (k : Nat) (c : Word64) : (s.setCsr k c).swaps = s.swaps := rfl
@[simp] theorem State.setCsr_cmds (s : State) (k : Nat) (c : Word64) : (s.setCsr k c).cmds = s.cmds := rfl
@[simp] theorem State.setCsr_nextCmd (s : State) (k : Nat) (c : Word64) : (s.setCsr k c).nextCmd = s.nextCmd := rfl
@[simp] theorem State.setCsr_nextReq (s : State) (k : Nat) (c : Word64) : (s.setCsr k c).nextReq = s.nextReq := rfl
@[simp] theorem State.setCsr_trigs (s : State) (k : Nat) (c : Word64) : (s.setCsr k c).trigs = s.trigs := rfl
@[simp] theorem State.setCsr_fired (s : State) (k : Nat) (c : Word64) : (s.setCsr k c).fired = s.fired := rfl
@[simp] theorem State.setCsr_merges (s : State) (k : Nat) (c : Word64) : (s.setCsr k c).merges = s.merges := rfl
@[simp] theorem State.setCsr_mergeQ (s : State) (k : Nat) (c : Word64) : (s.setCsr k c).mergeQ = s.mergeQ := rfl
@[simp] theorem State.setCsr_fifos (s : State) (k : Nat) (c : Word64) : (s.setCsr k c).fifos = s.fifos := rfl
@[simp] theorem State.setCsr_clasps (s : State) (k : Nat) (c : Word64) : (s.setCsr k c).clasps = s.clasps := rfl
@[simp] theorem State.setCsr_stages (s : State) (k : Nat) (c : Word64) : (s.setCsr k c).stages = s.stages := rfl
@[simp] theorem State.setCsr_closed (s : State) (k : Nat) (c : Word64) : (s.setCsr k c).closed = s.closed := rfl
@[simp] theorem State.setCsr_age (s : State) (k : Nat) (c : Word64) : (s.setCsr k c).age = s.age := rfl
@[simp] theorem State.setCsr_pins (s : State) (k : Nat) (c : Word64) : (s.setCsr k c).pins = s.pins := rfl
@[simp] theorem State.setCsr_links (s : State) (k : Nat) (c : Word64) : (s.setCsr k c).links = s.links := rfl
@[simp] theorem State.setCsr_sendq (s : State) (k : Nat) (c : Word64) : (s.setCsr k c).sendq = s.sendq := rfl
@[simp] theorem State.setCsr_outQ (s : State) (k : Nat) (c : Word64) : (s.setCsr k c).outQ = s.outQ := rfl
@[simp] theorem State.setCsr_passing (s : State) (k : Nat) (c : Word64) : (s.setCsr k c).passing = s.passing := rfl
@[simp] theorem State.setCsr_txFree (s : State) (k : Nat) (c : Word64) : (s.setCsr k c).txFree = s.txFree := rfl
@[simp] theorem State.setCsr_sent (s : State) (k : Nat) (c : Word64) : (s.setCsr k c).sent = s.sent := rfl
@[simp] theorem State.setCsr_ccount (s : State) (k : Nat) (c : Word64) : (s.setCsr k c).ccount = s.ccount := rfl
@[simp] theorem State.setCsr_released (s : State) (k : Nat) (c : Word64) : (s.setCsr k c).released = s.released := rfl
@[simp] theorem State.setCsr_adverts (s : State) (k : Nat) (c : Word64) : (s.setCsr k c).adverts = s.adverts := rfl
@[simp] theorem State.setCsr_onWire (s : State) (k : Nat) (c : Word64) : (s.setCsr k c).onWire = s.onWire := rfl
@[simp] theorem State.setCsr_inbox (s : State) (k : Nat) (c : Word64) : (s.setCsr k c).inbox = s.inbox := rfl
@[simp] theorem State.setCsr_strms (s : State) (k : Nat) (c : Word64) : (s.setCsr k c).strms = s.strms := rfl
@[simp] theorem State.setCsr_notes (s : State) (k : Nat) (c : Word64) : (s.setCsr k c).notes = s.notes := rfl
@[simp] theorem State.setCsr_collSets (s : State) (k : Nat) (c : Word64) : (s.setCsr k c).collSets = s.collSets := rfl
@[simp] theorem State.setCsr_mesh (s : State) (k : Nat) (c : Word64) : (s.setCsr k c).mesh = s.mesh := rfl
@[simp] theorem State.setCsr_syncLost (s : State) (k : Nat) (c : Word64) : (s.setCsr k c).syncLost = s.syncLost := rfl
@[simp] theorem State.setCsr_lastSlot (s : State) (k : Nat) (c : Word64) : (s.setCsr k c).lastSlot = s.lastSlot := rfl
@[simp] theorem State.setCsr_readOut (s : State) (k : Nat) (c : Word64) : (s.setCsr k c).readOut = s.readOut := rfl
@[simp] theorem State.setCsr_ofuEvents (s : State) (k : Nat) (c : Word64) : (s.setCsr k c).ofuEvents = s.ofuEvents := rfl
@[simp] theorem State.setCsr_ofuOvf (s : State) (k : Nat) (c : Word64) : (s.setCsr k c).ofuOvf = s.ofuOvf := rfl
@[simp] theorem State.setCsr_pwrEvents (s : State) (k : Nat) (c : Word64) : (s.setCsr k c).pwrEvents = s.pwrEvents := rfl
@[simp] theorem State.setCsr_pwrOvf (s : State) (k : Nat) (c : Word64) : (s.setCsr k c).pwrOvf = s.pwrOvf := rfl
@[simp] theorem State.setCsr_irqs (s : State) (k : Nat) (c : Word64) : (s.setCsr k c).irqs = s.irqs := rfl
@[simp] theorem State.setCsr_cps (s : State) (k : Nat) (c : Word64) : (s.setCsr k c).cps = s.cps := rfl
@[simp] theorem State.setCsr_nextCp (s : State) (k : Nat) (c : Word64) : (s.setCsr k c).nextCp = s.nextCp := rfl
@[simp] theorem State.setCsr_writers (s : State) (k : Nat) (c : Word64) : (s.setCsr k c).writers = s.writers := rfl
@[simp] theorem State.setCsr_readers (s : State) (k : Nat) (c : Word64) : (s.setCsr k c).readers = s.readers := rfl
@[simp] theorem State.setCsr_lastQueue (s : State) (k : Nat) (c : Word64) : (s.setCsr k c).lastQueue = s.lastQueue := rfl
@[simp] theorem State.setCsr_flash (s : State) (k : Nat) (c : Word64) : (s.setCsr k c).flash = s.flash := rfl
@[simp] theorem State.setCsr_updating (s : State) (k : Nat) (c : Word64) : (s.setCsr k c).updating = s.updating := rfl
@[simp] theorem State.setCsr_clear (s : State) (k : Nat) (c : Word64) : (s.setCsr k c).clear = s.clear := rfl
@[simp] theorem State.setCsr_clamped (s : State) (k : Nat) (c : Word64) : (s.setCsr k c).clamped = s.clamped := rfl
@[simp] theorem State.setCsr_arbiterAt (s : State) (k : Nat) (c : Word64) : (s.setCsr k c).arbiterAt = s.arbiterAt := rfl

/-! ## Banks, cores and CSRs after a write -/

theorem State.ctx_setCtx (s : State) (k j : Nat) (c : Ctx) : (s.setCtx k c).ctx j = if j = k then c else s.ctx j := by
  simp [State.ctx, State.setCtx]
@[simp] theorem State.ctx_setCtx_same (s : State) (k : Nat) (c : Ctx) : (s.setCtx k c).ctx k = c := by simp [State.ctx_setCtx]
theorem State.ctx_setCtx_other (s : State) (k j : Nat) (c : Ctx) (h : j ≠ k) : (s.setCtx k c).ctx j = s.ctx j := by
  simp [State.ctx_setCtx, h]
@[simp] theorem State.setCtx_setCtx (s : State) (k : Nat) (c d : Ctx) : (s.setCtx k c).setCtx k d = s.setCtx k d := by
  simp [State.setCtx]
theorem State.core_setCore (s : State) (k j : Nat) (c : Core) : (s.setCore k c).core j = if j = k then c else s.core j := by
  simp [State.core, State.setCore]
@[simp] theorem State.core_setCore_same (s : State) (k : Nat) (c : Core) : (s.setCore k c).core k = c := by simp [State.core_setCore]
@[simp] theorem State.ctx_setCore (s : State) (k j : Nat) (c : Core) : (s.setCore k c).ctx j = s.ctx j := rfl
@[simp] theorem State.core_setCtx (s : State) (k j : Nat) (c : Ctx) : (s.setCtx k c).core j = s.core j := rfl
@[simp] theorem State.ctx_setCsr (s : State) (k j : Nat) (c : Word64) : (s.setCsr k c).ctx j = s.ctx j := rfl
@[simp] theorem State.core_setCsr (s : State) (k j : Nat) (c : Word64) : (s.setCsr k c).core j = s.core j := rfl
@[simp] theorem State.csr_setCtx (s : State) (k j : Nat) (c : Ctx) : (s.setCtx k c).csr j = s.csr j := rfl
@[simp] theorem State.csr_setCore (s : State) (k j : Nat) (c : Core) : (s.setCore k c).csr j = s.csr j := rfl
theorem State.csr_setCsr (s : State) (k j : Nat) (v : Word64) : (s.setCsr k v).csr j = if j = k then v else s.csr j := by
  simp only [State.csr, State.setCsr, Sparse.put]
  rw [Sparse.find_splice _ _ _ _ _ (by simp)]
  by_cases h : j = k
  · simp [h, Sparse.find]
  · rw [if_neg (by omega), if_neg h]
@[simp] theorem State.csr_setCsr_same (s : State) (k : Nat) (v : Word64) : (s.setCsr k v).csr k = v := by simp [State.csr_setCsr]

/-! ## Registers after a write (R106, R108) -/

@[simp] theorem Regs.rx_wx (r : Regs) (n m : Nat) (v : Val 64) :
    (r.wx n v).rx m = if m = 0 then ⟨0, false⟩ else if m = n then (if v.psn then ⟨0, true⟩ else v) else r.rx m := by
  by_cases h : n = 0 <;> by_cases h2 : m = 0 <;> by_cases h3 : m = n <;> simp_all [Regs.rx, Regs.wx]
@[simp] theorem Regs.rp_wp (r : Regs) (n m : Nat) (b : Bool) :
    (r.wp n b).rp m = if m = 0 then ⟨1, false⟩ else if m = n then ⟨.ofBool b, false⟩ else r.rp m := by
  by_cases h : n = 0 <;> by_cases h2 : m = 0 <;> by_cases h3 : m = n <;> simp_all [Regs.rp, Regs.wp]
@[simp] theorem Regs.rv_wv (r : Regs) (n m l : Nat) (f : Nat → Val 32) (hl : l < 64) :
    (r.wv n f).rv m l = if m = n then f l else r.rv m l := by
  simp only [Regs.rv, Regs.wv, Sparse.get_putRange]
  by_cases h : m = n
  · simp [h, hl]
  · rw [if_neg (by omega), if_neg h]
@[simp] theorem Regs.rc_wc (r : Regs) (n m : Nat) (c : Cap) : (r.wc n c).rc m = if m = n then c else r.rc m := by
  simp [Regs.rc, Regs.wc]
@[simp] theorem Regs.rh_wh (r : Regs) (n m : Nat) (h : Handle) : (r.wh n h).rh m = if m = n then h else r.rh m := by
  simp [Regs.rh, Regs.wh]
@[simp] theorem Regs.rt_wt (r : Regs) (n m : Nat) (v : Val 32) : (r.wt n v).rt m = if m = n then v else r.rt m := by
  simp [Regs.rt, Regs.wt]
@[simp] theorem Regs.rf_wf (r : Regs) (n m : Nat) (v : FLink) : (r.wf n v).rf m = if m = n then v else r.rf m := by
  simp [Regs.rf, Regs.wf]
@[simp] theorem Regs.ra_wa (r : Regs) (n row m i j : Nat) (f : Nat → Val 32) (hj : j < 128) (hi : i < 128) (hr : row < 128) :
    (r.wa n row f).ra m i j = if m = n ∧ i = row then f j else r.ra m i j := by
  simp only [Regs.ra, Regs.wa, Sparse.get_putRange]
  by_cases h : m = n ∧ i = row
  · obtain ⟨rfl, rfl⟩ := h; simp [hj]
  · rw [if_neg (by omega), if_neg h]

end Sys2Proof.Machine
end

