-- ==== Sys2Proof/Laws/Mem.lean ====
section
/-! SUPPORT. Every operation on memory keeps its canonical form, and what a write may change beside the bytes written. -/
namespace Sys2Proof.Machine

/-! ## The canonical form -/

theorem Memory.wf_nil : Memory.wf [] = true := rfl
theorem State.reset_mem_wf : State.reset.mem.wf = true := rfl

theorem Memory.zero_eq (m : Memory) (lo n : Nat) : m.zero lo n = m.write lo n fun _ => 0 := by
  simp [Memory.zero, Memory.write, Sparse.setRange]
theorem Memory.wf_zero (m : Memory) (lo n : Nat) (h : m.wf = true) : (m.zero lo n).wf = true := by
  rw [Memory.zero_eq]; exact Memory.wf_write m lo n _ h
theorem Memory.byte_zero (m : Memory) (lo n a : Nat) : (m.zero lo n).byte a = if lo ≤ a ∧ a < lo + n then 0 else m.byte a := by
  rw [Memory.zero_eq, Memory.byte_write]

/-! ## What a write may change -/

/-- `t` differs from `s` at most in memory, its poison and tags, the LLC lines, the device CSRs that count their events, and the free
values drawn; its memory is canonical when that of `s` is. -/
structure OnlyMemory (s t : State) : Prop where
  rest : t = { s with mem := t.mem, psn := t.psn, tagF := t.tagF, tagC := t.tagC, llc := t.llc, dev := t.dev, free := t.free }
  wf : s.mem.wf = true → t.mem.wf = true

theorem OnlyMemory.refl (s : State) : OnlyMemory s s := ⟨rfl, id⟩
theorem OnlyMemory.trans {s t u : State} (h : OnlyMemory s t) (h' : OnlyMemory t u) : OnlyMemory s u :=
  ⟨by rw [h'.rest, h.rest], h'.wf ∘ h.wf⟩
theorem OnlyMemory.ctx {s t : State} (h : OnlyMemory s t) (k : Nat) : t.ctx k = s.ctx k := by rw [h.rest]; rfl
theorem OnlyMemory.core {s t : State} (h : OnlyMemory s t) (k : Nat) : t.core k = s.core k := by rw [h.rest]; rfl

/-- A fold whose steps change only memory changes only memory. -/
theorem OnlyMemory.foldl {α : Type} (f : State → α → State) (h : ∀ s x, OnlyMemory s (f s x)) (xs : List α) (s : State) :
    OnlyMemory s (xs.foldl f s) := by
  induction xs generalizing s with
  | nil => exact .refl s
  | cons x xs ih => exact (h s x).trans (ih (f s x))

theorem State.putCells_only (s : State) (g lo n : Nat) (f : Nat → Val 8) : OnlyMemory s (s.putCells g lo n f) :=
  ⟨rfl, Memory.wf_write s.mem lo n _⟩
theorem State.setCsr_only (s : State) (o : Nat) (v : Word64) : OnlyMemory s (s.setCsr o v) := ⟨rfl, id⟩
theorem State.bump_only (s : State) (o : Nat) : OnlyMemory s (s.bump o) := s.setCsr_only o _
theorem State.setF_only (s : State) (a : Nat) (b : Bool) : OnlyMemory s (s.setF a b) := ⟨rfl, id⟩
theorem State.setC_only (s : State) (a : Nat) (b : Bool) : OnlyMemory s (s.setC a b) := ⟨rfl, id⟩
theorem State.zeroHbm_only (s : State) (a n : Nat) : OnlyMemory s (s.zeroHbm a n) := ⟨rfl, Memory.wf_zero s.mem _ _⟩
theorem State.zeroScratch_only (s : State) (k : Nat) : OnlyMemory s (s.zeroScratch k) := ⟨rfl, Memory.wf_zero s.mem _ _⟩

theorem State.writeBack_only (s : State) (l : Nat) : OnlyMemory s (s.writeBack l) := by
  unfold State.writeBack
  split
  · exact (⟨rfl, id⟩ : OnlyMemory s { s with llc := s.llc.put l { dramPsn := blockPoison s.psn l } }).trans (State.bump_only _ _)
  · exact .refl s
theorem State.dropLine_only (s : State) (l : Nat) : OnlyMemory s (s.dropLine l) := by
  unfold State.dropLine
  split
  · refine ⟨rfl, fun h => ?_⟩
    dsimp only
    split
    · exact Memory.wf_write s.mem _ _ _ h
    · exact h
  · exact .refl s
theorem State.evict_only (s : State) (l : Nat) : OnlyMemory s (s.evict l) :=
  (s.writeBack_only l).trans (State.dropLine_only _ _)
theorem State.dirtyLine_only (s : State) (l : Nat) : OnlyMemory s (s.dirtyLine l) := by
  unfold State.dirtyLine
  split
  · exact ⟨rfl, id⟩
  · exact .refl s
theorem State.fillLine_only (s : State) (l : Nat) : OnlyMemory s (s.fillLine l) := by
  unfold State.fillLine
  split
  · exact s.bump_only _
  · refine OnlyMemory.trans ?_ ⟨rfl, id⟩
    have h := s.bump_only (llcCounter (homeSlice (l * 128)) 1)
    dsimp only
    split
    · exact h
    · have h' := h.trans (⟨rfl, id⟩ : OnlyMemory _ { State.bump s (llcCounter (homeSlice (l * 128)) 1) with free := (State.bump s (llcCounter (homeSlice (l * 128)) 1)).free + 1 })
      split
      · exact h'.trans (State.evict_only _ _)
      · exact h'
theorem State.touchLine_only (s : State) (al : Alloc) (wr : Bool) (l : Nat) : OnlyMemory s (s.touchLine al wr l).1 := by
  have fill : OnlyMemory s (if wr then (s.fillLine l).dirtyLine l else s.fillLine l) := by
    split
    · exact (s.fillLine_only l).trans (State.dirtyLine_only _ l)
    · exact s.fillLine_only l
  cases al with
  | ms => exact (s.evict_only l).trans (State.bump_only _ _)
  | fill => exact fill
  | nt =>
    simp only [State.touchLine]
    split
    · exact fill
    · exact s.bump_only _

/-- A read changes residency at most. -/
theorem State.touchRead_only (s : State) (al : Alloc) (a n : Nat) : OnlyMemory s (s.touchRead al a n) := by
  unfold State.touchRead
  split
  · exact .foldl _ (fun s x => s.touchLine_only al false _) _ s
  · exact .refl s

/-- A write changes memory, poison, tags, residency and its counters, and nothing else; memory stays canonical. -/
theorem State.poke_only (s : State) (al : Alloc) (a n : Nat) (f : Nat → Val 8) : OnlyMemory s (s.poke al a n f) := by
  unfold State.poke
  split
  · exact .foldl _ (fun s x => (s.touchLine_only al true _).trans (State.putCells_only _ _ _ _ _)) _ s
  · exact s.putCells_only _ _ _ _
  · refine .foldl _ (fun s x => ?_) _ s
    have h := s.putCells_only 4 (s.cell x.1) x.2.2 fun i => f (x.2.1 + i)
    exact ⟨rfl, h.wf⟩
  · exact .refl s
theorem State.pokeL_only (s : State) (al : Alloc) (a : Nat) (bs : List (Val 8)) : OnlyMemory s (s.pokeL al a bs) := s.poke_only al a _ _
theorem State.pokeNat_only (s : State) (a n v : Nat) : OnlyMemory s (s.pokeNat a n v) := s.poke_only .fill a n _

end Sys2Proof.Machine
end

