-- ==== Sys2Proof/Laws/Meaning.lean ====
section
/-! SUPPORT. Running a meaning step by step, the step that it takes, and what taking an exception changes. -/
namespace Sys2Proof.Machine

/-! ## Meanings (`M`) -/

@[simp] theorem M.run_pure {α : Type} (a : α) (s : State) : (pure a : M α) s = .ok (a, s) := rfl
@[simp] theorem M.run_reads {α : Type} (f : State → α) (s : State) : reads f s = .ok (f s, s) := rfl
@[simp] theorem M.run_change (f : State → State) (s : State) : change f s = .ok ((), f s) := rfl
@[simp] theorem M.run_exit {α : Type} (e : Exit) (s : State) : (exit e : M α) s = .error e := rfl
@[simp] theorem M.run_raise {α : Type} (t : Trap) (s : State) : (raise t : M α) s = .error (.raise t) := rfl
@[simp] theorem M.run_hold {α : Type} (s : State) : (hold : M α) s = .error .again := rfl
@[simp] theorem M.run_full {α : Type} (n : Nat) (s : State) : (full n : M α) s = .error (.full n) := rfl
theorem M.run_raiseIf (b : Bool) (t : Trap) (s : State) : raiseIf b t s = if b then .error (.raise t) else .ok ((), s) := by
  cases b <;> rfl

/-- A first part that completes hands its result and its state on. -/
theorem M.bind_ok {α β : Type} {x : M α} {f : α → M β} {s t : State} {a : α} (h : x s = .ok (a, t)) : (x >>= f) s = f a t := by
  show (x s >>= fun p => f p.1 p.2) = _
  rw [h]; rfl
/-- A first part that exits ends the whole. -/
theorem M.bind_error {α β : Type} {x : M α} {f : α → M β} {s : State} {e : Exit} (h : x s = .error e) : (x >>= f) s = .error e := by
  show (x s >>= fun p => f p.1 p.2) = _
  rw [h]; rfl
/-- A whole that completes was two parts that completed. -/
theorem M.of_bind_ok {α β : Type} {x : M α} {f : α → M β} {s u : State} {b : β} (h : (x >>= f) s = .ok (b, u)) :
    ∃ a t, x s = .ok (a, t) ∧ f a t = .ok (b, u) := by
  cases hx : x s with
  | error e => rw [M.bind_error hx] at h; cases h
  | ok p => exact ⟨p.1, p.2, rfl, by rw [M.bind_ok (a := p.1) (t := p.2) hx] at h; exact h⟩

/-! ## The step of a meaning -/

theorem slotOut_ok {m : M Unit} {s t : State} (h : m s = .ok ((), t)) : slotOut m s = .next t.retire := by simp [slotOut, h]
theorem slotOut_raise {m : M Unit} {s : State} {t : Trap} (h : m s = .error (.raise t)) : slotOut m s = .next (s.raise t) := by
  simp [slotOut, h]
theorem slotOut_again {m : M Unit} {s : State} (h : m s = .error .again) : slotOut m s = .next s.stall := by simp [slotOut, h]
theorem slotOut_wait {m : M Unit} {s t : State} (h : m s = .error (.wait t)) : slotOut m s = .next t.stall := by simp [slotOut, h]
theorem slotOut_full {m : M Unit} {s : State} {n : Nat} (h : m s = .error (.full n)) : slotOut m s = .next (s.stallFull n) := by
  simp [slotOut, h]
theorem slotOut_ask {m : M Unit} {s : State} {r : Req} (h : m s = .error (.ask r)) : slotOut m s = .next (s.addReq r).stall := by
  simp [slotOut, h]
/-- A meaning always takes a step. -/
theorem slotOut_next (m : M Unit) (s : State) : ∃ t, slotOut m s = .next t := by
  unfold slotOut
  repeat' split
  all_goals exact ⟨_, rfl⟩
theorem regSlot_next (f : Regs → Regs → Regs) (s : State) : ∃ t, regSlot f s = .next t := ⟨_, rfl⟩
theorem trySlot_next (f : Regs → Regs → Except Trap Regs) (s : State) : ∃ t, trySlot f s = .next t := by
  unfold trySlot
  split
  all_goals exact ⟨_, rfl⟩

/-! ## Taking an exception (R414) -/

/-- Entering a handler changes one bank, the count of causes raised, the requests of the bank's slots, and the bytes of the save slot (with
their residency), and nothing else; memory stays canonical. -/
theorem State.enterHandler_only (s : State) (k n : Nat) (e : Exc) :
    ∃ u, OnlyMemory s u ∧ s.enterHandler k n e =
      { u with raised := s.raised + 1, reqs := s.reqs.filter fun r => r.owner.ofSlot k = false }.setCtx k ((s.enterHandler k n e).ctx k) := by
  have key : ∀ (t x : State) (c : Ctx), t = x.setCtx k c → t = x.setCtx k (t.ctx k) := by
    rintro _ x c rfl; rw [State.ctx_setCtx_same]
  let v : State := { s with free := s.free + 1 }
  have h : OnlyMemory s v := ⟨rfl, id⟩
  have h' := h.trans (v.poke_only .nt ((v.launchOf k).slot (s.ctx k).regs.task.toNat + imageArea n) 0x2000 fun i => ⟨Config.byte s.free i, false⟩)
  have r := congrArg State.raised h'.rest
  have q := congrArg State.reqs h'.rest
  simp only at r q
  refine ⟨_, h', ?_⟩
  have r' : s.raised = _ := r.symm
  have q' : s.reqs = _ := q.symm
  rw [r', q']
  exact key _ _ _ rfl

/-- What holds of the bank that enters a handler (R414, R416). -/
theorem State.enterHandler_ctx (s : State) (k n : Nat) (e : Exc) :
    let t := s.enterHandler k n e
    (t.ctx k).issue = {} ∧ (t.ctx k).regs = { (s.ctx k).regs with ff := (s.ctx k).frame n e, mode := BitVec.ofNat 2 n } ∧ (t.ctx k).chk = true ∧
    ∀ j, j ≠ k → t.ctx j = s.ctx j := by
  refine ⟨?_, ?_, ?_, ?_⟩
  · simp [State.enterHandler]
  · simp [State.enterHandler]
  · simp [State.enterHandler]
  · intro j hj
    obtain ⟨u, h, h'⟩ := s.enterHandler_only k n e
    rw [h', State.ctx_setCtx_other _ _ _ _ hj]
    exact h.ctx j

end Sys2Proof.Machine
end

