-- ==== Sys2Proof/Laws/Slot.lean ====
section
/-! SUPPORT. What the end of a slot does, once for all: `retire` outside a trap, and the shared operations of the slots that only
compute on registers. -/
namespace Sys2Proof.Machine

theorem BitVec_toNat_ne_zero (d : BitVec 6) (h : d ≠ 0) : d.toNat ≠ 0 := by
  intro h2; exact h (BitVec.eq_of_toNat_eq (by simpa using h2))

/-- The bank after a slot has retired in a bundle that ends without a trap. -/
def Ctx.retired (c : Ctx) (u : ExecUnit) : Ctx :=
  let todo := c.issue.todo.filter fun q => q.idx ≠ c.issue.cur
  let i : Issue := { c.issue with todo, full := none }
  let c' : Ctx := { c with
    issue := i
    waits := c.waits.filter (· ≠ u)
    counted := c.counted.filter (· ≠ u)
    tagWait := if u = ExecUnit.s then none else c.tagWait }
  if c.younger = [] ∧ todo.any (fun q => q.exu = .s) = false then
    { c' with
      pc := c.issue.target.getD c.issue.next
      issue := {}
      older := c.older ++ (if todo.isEmpty then [] else [{ i with endTrap := none, ret := false, target := none }])
      stepOne := false }
  else c'

/-- `retire` in a bundle that asks for no trap. -/
theorem State.retire_eq (s : State) (h : Running s) :
    s.retire = { s with asks := 0, reqs := s.reqs.filter fun r => r.owner ≠ s.me }.setCtx s.cur
      ((s.ctx s.cur).retired s.slot.exu) := by
  obtain ⟨h1, h2, h3⟩ := h
  simp only [State.retire, h1, true_and, Ctx.retired]
  split
  · simp [State.endBundle, h2, h3]
  · rfl

/-- A state in which the running slot has changed only its registers and what its bundle's record says beside the slots to run. -/
structure Touched (s u : State) : Prop where
  rest : u = { s with ctxs := u.ctxs }
  others : ∀ k, k ≠ s.cur → u.ctx k = s.ctx k
  own : u.ctx s.cur = { s.ctx s.cur with regs := (u.ctx s.cur).regs, issue := (u.ctx s.cur).issue }
  todo : (u.ctx s.cur).issue.todo = (s.ctx s.cur).issue.todo
  idx : (u.ctx s.cur).issue.cur = (s.ctx s.cur).issue.cur
  next : (u.ctx s.cur).issue.next = (s.ctx s.cur).issue.next
  noTrap : (u.ctx s.cur).issue.endTrap = (s.ctx s.cur).issue.endTrap
  noReturn : (u.ctx s.cur).issue.ret = (s.ctx s.cur).issue.ret

theorem Touched.cur {s u : State} (h : Touched s u) : u.cur = s.cur := by rw [h.rest]
theorem Touched.me {s u : State} (h : Touched s u) : u.me = s.me := by
  simp only [State.me, State.slot, h.cur, h.todo, h.idx]
theorem Touched.running {s u : State} (h : Touched s u) (r : Running s) : Running u := by
  refine ⟨?_, ?_, ?_⟩
  · rw [h.cur, h.own]; exact r.resident
  · rw [h.cur, h.noTrap]; exact r.noTrap
  · rw [h.cur, h.noReturn]; exact r.noReturn

theorem Touched.modCtx (s : State) (f : Ctx → Ctx)
    (h : f (s.ctx s.cur) = { s.ctx s.cur with regs := (f (s.ctx s.cur)).regs, issue := (f (s.ctx s.cur)).issue })
    (h1 : (f (s.ctx s.cur)).issue.todo = (s.ctx s.cur).issue.todo) (h2 : (f (s.ctx s.cur)).issue.cur = (s.ctx s.cur).issue.cur)
    (h5 : (f (s.ctx s.cur)).issue.next = (s.ctx s.cur).issue.next)
    (h3 : (f (s.ctx s.cur)).issue.endTrap = (s.ctx s.cur).issue.endTrap)
    (h4 : (f (s.ctx s.cur)).issue.ret = (s.ctx s.cur).issue.ret) : Touched s (s.modCtx s.cur f) := by
  refine ⟨rfl, ?_, ?_, ?_, ?_, ?_, ?_, ?_⟩
  · intro k hk; simp [State.ctx_setCtx, hk]
  all_goals simpa using by assumption

/-- A change of registers touches nothing else. -/
theorem Touched.modRegs (s : State) (f : Regs → Regs) : Touched s (s.modRegs f) :=
  Touched.modCtx s _ rfl rfl rfl rfl rfl rfl

/-- Where control goes at the end of a slot. -/
theorem Touched.goes {s u : State} (h : Touched s u) (r : Running s) : 
    GoesTo s u.retire (u.ctx s.cur).issue.target := by
  have e := State.retire_eq u (h.running r)
  have hc := h.cur
  have hp : (u.ctx s.cur).pc = (s.ctx s.cur).pc := by rw [h.own]
  have hy : (u.ctx s.cur).younger = (s.ctx s.cur).younger := by rw [h.own]
  have hl : ((u.ctx s.cur).younger = [] ∧
      ((u.ctx s.cur).issue.todo.filter (fun q => decide (q.idx ≠ (u.ctx s.cur).issue.cur))).any (fun q => decide (q.exu = .s)) = false) ↔
      LastSlot s := by
    rw [h.todo, h.idx, hy]; simp only [LastSlot, List.any_eq_false, List.mem_filter, decide_eq_true_eq, and_imp]
    exact and_congr_right fun _ => ⟨fun H q m e => by_contra fun n => H q m n e, fun H q m n e => n (H q m e)⟩
  rw [e]
  refine ⟨?_, ?_⟩ <;> intro hs <;> simp only [hc, State.ctx_setCtx_same, Ctx.retired]
  · rw [if_pos (hl.mpr hs)]; dsimp only; rw [h.next]
  · rw [if_neg (mt hl.mp hs)]; exact ⟨hp, rfl⟩

/-- The end of a slot leaves the registers and every memory as they are. -/
theorem Touched.retire {s u : State} (h : Touched s u) (r : Running s) :
    OwnBank s u.retire ∧ u.retire.regs = u.regs := by
  have hu := h.running r
  have e := State.retire_eq u hu
  have hc := h.cur
  rw [e]
  refine ⟨⟨?_, ?_, ?_, ?_, ?_⟩, ?_⟩
  · rw [h.me]; generalize s.me = o; rw [h.rest]; rfl
  · intro k hk; rw [State.ctx_setCtx_other _ _ _ _ (by rw [hc]; exact hk)]; exact h.others k hk
  · simp only [hc, State.ctx_setCtx_same]
    rw [h.own]; simp only [Ctx.retired]; split <;> rfl
  · intro a; rw [h.rest]; rfl
  · simp only [hc, State.ctx_setCtx_same]
    rw [← h.idx]; simp only [Ctx.retired]
    split
    · simp
    · intro q hq; simpa using (List.mem_filter.mp hq).2
  · simp only [State.regs, State.setCtx_cur, State.ctx_setCtx_same]
    simp only [Ctx.retired]; split <;> rfl

theorem Touched.transfers {s u : State} {i : Instr} {tgt : Option Word64} {Q : Regs → Prop} (h : Touched s u) (r : Running s)
    (he : exec i s = .next u.retire) (ht : (u.ctx s.cur).issue.target = tgt) (q : Q u.regs) : Transfers s i tgt Q := by
  obtain ⟨ho, hr⟩ := h.retire r
  exact ⟨_, he, ho, by rw [← ht]; exact h.goes r, by rw [hr]; exact q⟩

theorem Touched.gives {s u : State} {i : Instr} {Q : Regs → Prop} (h : Touched s u) (r : Running s)
    (he : exec i s = .next u.retire) (ht : (u.ctx s.cur).issue.target = (s.ctx s.cur).issue.target) (q : Q u.regs) :
    Gives s i Q := h.transfers r he ht q

/-- A slot that only computes on registers. -/
theorem gives_regSlot {s : State} {i : Instr} {Q : Regs → Prop} (f : Regs → Regs → Regs) (r : Running s)
    (he : exec i s = regSlot f s) (q : Q (f s.old s.regs)) : Gives s i Q :=
  (Touched.modRegs s (f s.old)).gives r he (by simp [State.modRegs]) (by simpa [State.regs, State.modRegs] using q)

theorem onlyX_wx (r : Regs) (n : Nat) (v : Val 64) : OnlyX n r (r.wx n v) := by
  refine ⟨?_, ?_⟩
  · simp only [Regs.wx]; split <;> rfl
  · intro m hm; rw [Regs.rx_wx]; by_cases h : m = 0
    · simp [h, Regs.rx]
    · simp [h, hm]

/-- An x result of one, two or three registers (R119). -/
theorem givesX_regSlot {s : State} {i : Instr} {d : BitVec 6} {srcs : List (BitVec 6)} {P : Word64 → Prop}
    (f : Regs → Regs → Regs) (v : Val 64) (r : Running s) (he : exec i s = regSlot f s)
    (hf : f s.old s.regs = s.regs.wx d.toNat v)
    (hp : v.psn = srcs.any fun n => (s.old.rx n.toNat).psn) (hv : v.psn = false → P v.v) : GivesX s i d srcs P := by
  refine gives_regSlot f r he ?_
  rw [hf]
  refine ⟨onlyX_wx _ _ _, ?_, ?_, ?_⟩
  · intro _; simp
  · rintro h ⟨n, hn, hx⟩
    have : v.psn = true := by rw [hp]; simp only [List.any_eq_true]; exact ⟨n, hn, hx⟩
    simp [this]; intro h0; exact absurd h0 (BitVec_toNat_ne_zero d h)
  · intro h hx
    have hf : v.psn = false := by rw [hp]; simp only [List.any_eq_false]; intro n hn; simp [hx n hn]
    have : d.toNat ≠ 0 := BitVec_toNat_ne_zero d h
    simp [hf, this, hv]

/-- A slot of two x operands (R119). -/
theorem givesX_int2 {s : State} {i : Instr} {d a b : BitVec 6} {P : Word64 → Prop} (f : Word64 → Word64 → Word64) (r : Running s)
    (he : exec i s = int2 d a b f s) (hv : P (f (s.old.rx a.toNat).v (s.old.rx b.toNat).v)) : GivesX s i d [a, b] P :=
  givesX_regSlot _ ⟨f (s.old.rx a.toNat).v (s.old.rx b.toNat).v, (s.old.rx a.toNat).psn || (s.old.rx b.toNat).psn⟩ r he rfl
    (by simp) fun _ => hv
/-- A slot of one x operand (R119). -/
theorem givesX_int1 {s : State} {i : Instr} {d a : BitVec 6} {P : Word64 → Prop} (f : Word64 → Word64) (r : Running s)
    (he : exec i s = int1 d a f s) (hv : P (f (s.old.rx a.toNat).v)) : GivesX s i d [a] P :=
  givesX_regSlot _ ⟨f (s.old.rx a.toNat).v, (s.old.rx a.toNat).psn⟩ r he rfl (by simp) fun _ => hv
/-- A slot that reads xD too (R119). -/
theorem givesX_int3 {s : State} {i : Instr} {d a b : BitVec 6} {P : Word64 → Prop} (f : Word64 → Word64 → Word64 → Word64)
    (r : Running s) (he : exec i s = int3 d a b f s)
    (hv : P (f (s.old.rx d.toNat).v (s.old.rx a.toNat).v (s.old.rx b.toNat).v)) : GivesX s i d [d, a, b] P :=
  givesX_regSlot _ ⟨f (s.old.rx d.toNat).v (s.old.rx a.toNat).v (s.old.rx b.toNat).v,
    (s.old.rx d.toNat).psn || (s.old.rx a.toNat).psn || (s.old.rx b.toNat).psn⟩ r he rfl (by simp [Bool.or_assoc]) fun _ => hv

end Sys2Proof.Machine
end

