-- ==== Sys2Proof/Tests/Slice0.lean ====
section
/-! SUPPORT. Tests of the decoder, of well-formedness and of single steps, and for each obligation with hypotheses a
witness: a state and operands that meet them. -/
namespace Sys2Proof.Tests
open Sys2Proof Sys2Proof.Machine

/-! ### One word of every row of the opcode table

Each word is written from the encoding tables: S, OP, D, A, B and F, bit 31 first. -/
theorem test_words_decode_0_0 : ∀ p ∈ ([
    (0b1_0000000_000000_000000_000000_000000, .nop true),
    (0b1_0000001_000000_000000_000000_000010, .limm true 2),
    (0b1_0000010_000001_000000_100000_000000, .pguard true 2 false 4),
    (0b1_0000011_000100_001100_100011_000000, .deps true 2 3 4 3)] : List (BitVec 32 × Instr)), decode p.1 = .ok p.2 := by
  simp only [List.forall_mem_cons, List.not_mem_nil, IsEmpty.forall_iff, implies_true, and_true]
  exact ⟨rfl, rfl, rfl, rfl⟩
theorem test_words_decode_1_0 : ∀ p ∈ ([
    (0b1_0010000_000010_000011_000100_000000, .add true 2 3 4),
    (0b1_0010000_000010_000011_000100_000001, .addS32 true 2 3 4),
    (0b1_0010000_000010_000011_000100_000010, .addZ32 true 2 3 4),
    (0b1_0010000_000010_000011_000100_000100, .addSatS64 true 2 3 4),
    (0b1_0010000_000010_000011_000100_000101, .addSatZ64 true 2 3 4),
    (0b1_0010000_000010_000011_000100_000110, .addSatS32 true 2 3 4),
    (0b1_0010000_000010_000011_000100_000111, .addSatZ32 true 2 3 4),
    (0b1_0010001_000010_000011_000100_000000, .sub true 2 3 4),
    (0b1_0010001_000010_000011_000100_000001, .subS32 true 2 3 4),
    (0b1_0010001_000010_000011_000100_000010, .subZ32 true 2 3 4),
    (0b1_0010001_000010_000011_000100_000100, .subSatS64 true 2 3 4),
    (0b1_0010001_000010_000011_000100_000101, .subSatZ64 true 2 3 4),
    (0b1_0010001_000010_000011_000100_000110, .subSatS32 true 2 3 4),
    (0b1_0010001_000010_000011_000100_000111, .subSatZ32 true 2 3 4),
    (0b1_0010010_000010_000011_000000_000100, .addi true 2 3 4)] : List (BitVec 32 × Instr)), decode p.1 = .ok p.2 := by
  simp only [List.forall_mem_cons, List.not_mem_nil, IsEmpty.forall_iff, implies_true, and_true]
  exact ⟨rfl, rfl, rfl, rfl, rfl, rfl, rfl, rfl, rfl, rfl, rfl, rfl, rfl, rfl, rfl⟩
theorem test_words_decode_1_1 : ∀ p ∈ ([
    (0b1_0010011_000010_000011_000100_000000, .mul true 2 3 4),
    (0b1_0010011_000010_000011_000100_000001, .mulhS64 true 2 3 4),
    (0b1_0010011_000010_000011_000100_000010, .mulhZ64 true 2 3 4),
    (0b1_0010011_000010_000011_000100_000011, .mulS32 true 2 3 4),
    (0b1_0010011_000010_000011_000100_000100, .mulZ32 true 2 3 4),
    (0b1_0010011_000010_000011_000100_001000, .mla true 2 3 4),
    (0b1_0010100_000010_000011_000100_000000, .divS64 true 2 3 4),
    (0b1_0010100_000010_000011_000100_000001, .divZ64 true 2 3 4),
    (0b1_0010100_000010_000011_000100_000010, .remS64 true 2 3 4),
    (0b1_0010100_000010_000011_000100_000011, .remZ64 true 2 3 4),
    (0b1_0010100_000010_000011_000100_000100, .divS32 true 2 3 4),
    (0b1_0010100_000010_000011_000100_000101, .divZ32 true 2 3 4),
    (0b1_0010100_000010_000011_000100_000110, .remS32 true 2 3 4),
    (0b1_0010100_000010_000011_000100_000111, .remZ32 true 2 3 4),
    (0b1_0010101_000010_000011_000100_000000, .and true 2 3 4)] : List (BitVec 32 × Instr)), decode p.1 = .ok p.2 := by
  simp only [List.forall_mem_cons, List.not_mem_nil, IsEmpty.forall_iff, implies_true, and_true]
  exact ⟨rfl, rfl, rfl, rfl, rfl, rfl, rfl, rfl, rfl, rfl, rfl, rfl, rfl, rfl, rfl⟩
theorem test_words_decode_1_2 : ∀ p ∈ ([
    (0b1_0010101_000010_000011_000100_000001, .or true 2 3 4),
    (0b1_0010101_000010_000011_000100_000010, .xor true 2 3 4),
    (0b1_0010101_000010_000011_000100_000011, .andn true 2 3 4),
    (0b1_0010101_000010_000011_000100_000100, .orn true 2 3 4),
    (0b1_0010101_000010_000011_000100_000101, .xnor true 2 3 4),
    (0b1_0010101_000010_000011_000100_000110, .nand true 2 3 4),
    (0b1_0010101_000010_000011_000100_000111, .nor true 2 3 4),
    (0b1_0010101_000010_000011_000100_100000, .andi true 2 3 4),
    (0b1_0010101_000010_000011_000100_100001, .ori true 2 3 4),
    (0b1_0010101_000010_000011_000100_100010, .xori true 2 3 4),
    (0b1_0010101_000010_000011_000100_100011, .andni true 2 3 4),
    (0b1_0010101_000010_000011_000100_100100, .orni true 2 3 4),
    (0b1_0010101_000010_000011_000100_100101, .xnori true 2 3 4),
    (0b1_0010101_000010_000011_000100_100110, .nandi true 2 3 4),
    (0b1_0010101_000010_000011_000100_100111, .nori true 2 3 4)] : List (BitVec 32 × Instr)), decode p.1 = .ok p.2 := by
  simp only [List.forall_mem_cons, List.not_mem_nil, IsEmpty.forall_iff, implies_true, and_true]
  exact ⟨rfl, rfl, rfl, rfl, rfl, rfl, rfl, rfl, rfl, rfl, rfl, rfl, rfl, rfl, rfl⟩
theorem test_words_decode_1_3 : ∀ p ∈ ([
    (0b1_0010110_000010_000011_000100_000000, .shl true 2 3 4 false),
    (0b1_0010110_000010_000011_000100_000001, .shr true 2 3 4 false),
    (0b1_0010110_000010_000011_000100_000010, .sar true 2 3 4 false),
    (0b1_0010110_000010_000011_000100_000011, .rol true 2 3 4 false),
    (0b1_0010110_000010_000011_000100_000100, .ror true 2 3 4 false),
    (0b1_0010110_000010_000011_000100_100000, .shli true 2 3 4 false),
    (0b1_0010110_000010_000011_000100_100001, .shri true 2 3 4 false),
    (0b1_0010110_000010_000011_000100_100010, .sari true 2 3 4 false),
    (0b1_0010110_000010_000011_000100_100011, .roli true 2 3 4 false),
    (0b1_0010110_000010_000011_000100_100100, .rori true 2 3 4 false),
    (0b1_0010111_000010_000011_000000_000000, .clz true 2 3),
    (0b1_0010111_000010_000011_000000_000001, .ctz true 2 3),
    (0b1_0010111_000010_000011_000000_000010, .popc true 2 3),
    (0b1_0010111_000010_000011_000000_000011, .brev true 2 3),
    (0b1_0010111_000010_000011_000000_000100, .bswap true 2 3)] : List (BitVec 32 × Instr)), decode p.1 = .ok p.2 := by
  simp only [List.forall_mem_cons, List.not_mem_nil, IsEmpty.forall_iff, implies_true, and_true]
  exact ⟨rfl, rfl, rfl, rfl, rfl, rfl, rfl, rfl, rfl, rfl, rfl, rfl, rfl, rfl, rfl⟩
theorem test_words_decode_1_4 : ∀ p ∈ ([
    (0b1_0011000_000010_000011_000100_000000, .minS64 true 2 3 4),
    (0b1_0011000_000010_000011_000100_000001, .maxS64 true 2 3 4),
    (0b1_0011000_000010_000011_000100_000010, .minZ64 true 2 3 4),
    (0b1_0011000_000010_000011_000100_000011, .maxZ64 true 2 3 4),
    (0b1_0011001_000010_000011_000100_000101, .bfx true 2 3 4 5),
    (0b1_0011010_000010_000011_000100_000101, .bfi true 2 3 4 5),
    (0b1_0011011_000010_000011_000000_000100, .extZ true 2 3 4),
    (0b1_0011011_000010_000011_000001_000100, .extS true 2 3 4),
    (0b1_0011100_000010_000011_000100_000110, .cmp true 2 3 4 6),
    (0b1_0011101_000010_000011_000100_000110, .cmpi true 2 3 4 6),
    (0b1_0011110_000010_000011_000100_010000, .pand true 2 67 4),
    (0b1_0011110_000010_000011_000100_010001, .por true 2 67 4),
    (0b1_0011110_000010_000011_000100_010010, .pxor true 2 67 4),
    (0b1_0011110_000010_000011_000100_010011, .pandn true 2 67 4),
    (0b1_0011110_000010_000011_000100_010100, .porn true 2 67 4)] : List (BitVec 32 × Instr)), decode p.1 = .ok p.2 := by
  simp only [List.forall_mem_cons, List.not_mem_nil, IsEmpty.forall_iff, implies_true, and_true]
  exact ⟨rfl, rfl, rfl, rfl, rfl, rfl, rfl, rfl, rfl, rfl, rfl, rfl, rfl, rfl, rfl⟩
theorem test_words_decode_1_5 : ∀ p ∈ ([
    (0b1_0011110_000010_000011_000000_100101, .pmov true 66 3),
    (0b1_0011110_000010_000011_000000_100110, .pnot true 66 3),
    (0b1_0011110_000010_000011_000100_010111, .pxnor true 2 67 4),
    (0b1_0011111_000010_000011_000100_000000, .sel true 2 3 4),
    (0b1_0011111_000010_000011_000100_000001, .selz true 2 3 4),
    (0b1_0011111_000010_000011_000100_000010, .seln true 2 3 4)] : List (BitVec 32 × Instr)), decode p.1 = .ok p.2 := by
  simp only [List.forall_mem_cons, List.not_mem_nil, IsEmpty.forall_iff, implies_true, and_true]
  exact ⟨rfl, rfl, rfl, rfl, rfl, rfl⟩
theorem test_words_decode_2_0 : ∀ p ∈ ([
    (0b1_0100000_000010_000011_000100_110011, .fadd true 2 3 4 3 3),
    (0b1_0100000_000010_000011_000100_110111, .fsub true 2 3 4 3 3),
    (0b1_0100000_000010_000011_000100_111011, .fmul true 2 3 4 3 3),
    (0b1_0100000_000010_000011_000100_111100, .fmin true 2 3 4 3),
    (0b1_0100000_000010_000011_000100_111101, .fmax true 2 3 4 3),
    (0b1_0100001_000010_000011_000100_111100, .ffma true 2 3 4 3 3),
    (0b1_0100001_000010_000011_000100_111101, .ffms true 2 3 4 3 3),
    (0b1_0100001_000010_000011_000100_111110, .ffnma true 2 3 4 3 3),
    (0b1_0100001_000010_000011_000100_111111, .ffnms true 2 3 4 3 3),
    (0b1_0100010_000010_000011_000100_111100, .fdiv true 2 3 4 3 3),
    (0b1_0100010_000010_000011_000000_111110, .fsqrt true 2 3 3 3),
    (0b1_0100011_000010_000011_000100_111100, .fcmp true 66 3 4 3 4),
    (0b1_0100100_000010_000011_100101_001011, .fcvt true 2 3 4 5 true false 3),
    (0b1_0100101_000010_000011_000000_110000, .fclass true 2 3 3),
    (0b1_0101000_000000_000000_000000_000010, .br true 2)] : List (BitVec 32 × Instr)), decode p.1 = .ok p.2 := by
  simp only [List.forall_mem_cons, List.not_mem_nil, IsEmpty.forall_iff, implies_true, and_true]
  exact ⟨rfl, rfl, rfl, rfl, rfl, rfl, rfl, rfl, rfl, rfl, rfl, rfl, rfl, rfl, rfl⟩
theorem test_words_decode_2_1 : ∀ p ∈ ([
    (0b1_0101001_000010_000011_000000_000100, .bri true 2 3 4),
    (0b1_0101010_000000_000000_000000_000010, .call true 2),
    (0b1_0101011_000000_000010_000000_000000, .ret true 2),
    (0b1_0101100_000000_000010_000000_000000, .loopPush true 2),
    (0b1_0101100_000000_000000_000000_010000, .loopPop true),
    (0b1_0101100_000000_000000_000010_100000, .loop true 2),
    (0b1_0101101_000010_000011_000100_000110, .loops true 2 3 134),
    (0b1_0101110_000000_000000_000000_000010, .brzm true 2),
    (0b1_0101110_100000_000000_000000_000010, .brnzm true 2),
    (0b1_0101111_000000_000000_000010_000000, .trap true 2),
    (0b1_0101111_000000_000000_000010_000001, .svc true 2),
    (0b1_0101111_000000_000000_000010_000010, .brk true 2)] : List (BitVec 32 × Instr)), decode p.1 = .ok p.2 := by
  simp only [List.forall_mem_cons, List.not_mem_nil, IsEmpty.forall_iff, implies_true, and_true]
  exact ⟨rfl, rfl, rfl, rfl, rfl, rfl, rfl, rfl, rfl, rfl, rfl, rfl⟩
theorem test_words_decode_3_0 : ∀ p ∈ ([
    (0b1_0110000_000010_000011_000100_000000, .cnarrowOff true 2 3 4),
    (0b1_0110000_000010_000011_000100_000001, .cnarrowLen true 2 3 4),
    (0b1_0110000_000010_000011_000100_000010, .cnarrowBase true 2 3 4),
    (0b1_0110000_000010_000011_000100_100000, .cnarrowiOff true 2 3 4),
    (0b1_0110000_000010_000011_000100_100001, .cnarrowiLen true 2 3 4),
    (0b1_0110000_000010_000011_000100_100010, .cnarrowiBase true 2 3 4),
    (0b1_0110001_000010_000011_000000_000100, .cperm true 2 3 4),
    (0b1_0110010_000010_000011_000000_000000, .cgetBase true 2 3),
    (0b1_0110010_000010_000011_000000_000001, .cgetLen true 2 3),
    (0b1_0110010_000010_000011_000000_000010, .cgetPerm true 2 3),
    (0b1_0110010_000010_000011_000000_000011, .cgetShape true 2 3),
    (0b1_0110010_000010_000011_000000_000100, .cgetTag true 2 3),
    (0b1_0110010_000010_000011_000000_000101, .cgetHi true 2 3),
    (0b1_0110010_000010_000011_000000_000110, .cgetLo true 2 3),
    (0b1_0110011_000010_000011_000100_000000, .cshape true 2 3 4)] : List (BitVec 32 × Instr)), decode p.1 = .ok p.2 := by
  simp only [List.forall_mem_cons, List.not_mem_nil, IsEmpty.forall_iff, implies_true, and_true]
  exact ⟨rfl, rfl, rfl, rfl, rfl, rfl, rfl, rfl, rfl, rfl, rfl, rfl, rfl, rfl, rfl⟩
theorem test_words_decode_3_1 : ∀ p ∈ ([
    (0b1_0110100_000010_000011_000100_000000, .cmint true 2 3 4),
    (0b1_0110101_000010_000011_000000_000000, .trans true 2 3),
    (0b1_0110110_000010_000011_000000_000000, .hgetState true 2 3),
    (0b1_0110110_000010_000011_000000_000001, .hgetPage true 2 3),
    (0b1_0110110_000010_000011_000000_000010, .hgetSize true 2 3),
    (0b1_0110110_000010_000000_000000_001000, .hdrop true 2),
    (0b1_0111000_000010_000011_000000_100000, .wtake true 2 67),
    (0b1_0111001_000000_000010_000000_000011, .join true 2 3),
    (0b1_0111010_000000_000010_000000_000011, .leave true 2 3),
    (0b1_0111011_000000_000000_000000_000000, .stepend true),
    (0b1_0111100_000000_000000_000000_000000, .switch true),
    (0b1_0111100_000000_000000_000000_000001, .yield true),
    (0b1_0111101_000010_000000_000000_000011, .csrr true 2 3),
    (0b1_0111110_000000_000010_000000_000011, .csrw true 2 3),
    (0b1_0111111_000000_000010_000011_000000, .codeswap true 2 3)] : List (BitVec 32 × Instr)), decode p.1 = .ok p.2 := by
  simp only [List.forall_mem_cons, List.not_mem_nil, IsEmpty.forall_iff, implies_true, and_true]
  exact ⟨rfl, rfl, rfl, rfl, rfl, rfl, rfl, rfl, rfl, rfl, rfl, rfl, rfl, rfl, rfl⟩
theorem test_words_decode_3_2 : ∀ p ∈ ([
    (0b1_0111111_000000_000000_000000_000001, .trapret true)] : List (BitVec 32 × Instr)), decode p.1 = .ok p.2 := by
  simp only [List.forall_mem_cons, List.not_mem_nil, IsEmpty.forall_iff, implies_true, and_true]
  exact rfl
theorem test_words_decode_4_0 : ∀ p ∈ ([
    (0b1_1000000_000010_000011_000100_010111, .vadd true 2 3 4 false true 7),
    (0b1_1000001_000010_000011_000100_010111, .vsub true 2 3 4 false true 7),
    (0b1_1000010_000010_000011_000100_010111, .vmul true 2 3 4 false true 7),
    (0b1_1000011_000010_000011_000100_011001, .vfma true 2 3 4 false true 9),
    (0b1_1000100_000010_000011_000100_011001, .vfms true 2 3 4 false true 9),
    (0b1_1000101_000010_000011_000100_000110, .vmin true 2 3 4 false 6),
    (0b1_1000101_000010_000011_000100_010110, .vmax true 2 3 4 false 6),
    (0b1_1000110_000010_000011_000100_000110, .vdiv true 2 3 4 false 6),
    (0b1_1000111_000010_000011_000000_001001, .vsqrt true 2 3 9),
    (0b1_1001000_000010_000011_000000_000000, .vrcpe true 2 3),
    (0b1_1001000_000010_000011_000000_000001, .vrsqrte true 2 3),
    (0b1_1001000_000010_000011_000000_000010, .vexp2e true 2 3),
    (0b1_1001000_000010_000011_000000_000011, .vlog2e true 2 3),
    (0b1_1001001_000010_000011_000100_000000, .vand true 2 3 4 false),
    (0b1_1001001_000010_000011_000100_000001, .vor true 2 3 4 false)] : List (BitVec 32 × Instr)), decode p.1 = .ok p.2 := by
  simp only [List.forall_mem_cons, List.not_mem_nil, IsEmpty.forall_iff, implies_true, and_true]
  exact ⟨rfl, rfl, rfl, rfl, rfl, rfl, rfl, rfl, rfl, rfl, rfl, rfl, rfl, rfl, rfl⟩
theorem test_words_decode_4_1 : ∀ p ∈ ([
    (0b1_1001001_000010_000011_000100_000010, .vxor true 2 3 4 false),
    (0b1_1001001_000010_000011_000100_000011, .vandn true 2 3 4 false),
    (0b1_1001001_000010_000011_000100_000100, .vorn true 2 3 4 false),
    (0b1_1001001_000010_000011_000100_000101, .vxnor true 2 3 4 false),
    (0b1_1001001_000010_000011_000100_000110, .vnand true 2 3 4 false),
    (0b1_1001001_000010_000011_000100_000111, .vnor true 2 3 4 false),
    (0b1_1001010_000010_000011_000100_000011, .vshl true 2 3 4 false 3),
    (0b1_1001010_000010_000011_000100_000111, .vshr true 2 3 4 false 3),
    (0b1_1001010_000010_000011_000100_001011, .vsar true 2 3 4 false 3),
    (0b1_1001010_000010_000011_000100_001111, .vrol true 2 3 4 false 3),
    (0b1_1001010_000010_000011_000100_010011, .vror true 2 3 4 false 3),
    (0b1_1001011_000010_000011_001010_010000, .vcvt true 2 3 2 9 false 0),
    (0b1_1001100_001011_000100_000101_100001, .vcmp true true 3 4 5 true 1),
    (0b1_1001101_000000_000010_000000_000000, .mpush true 2),
    (0b1_1001101_000000_000010_000000_000001, .mpushRaw true 2)] : List (BitVec 32 × Instr)), decode p.1 = .ok p.2 := by
  simp only [List.forall_mem_cons, List.not_mem_nil, IsEmpty.forall_iff, implies_true, and_true]
  exact ⟨rfl, rfl, rfl, rfl, rfl, rfl, rfl, rfl, rfl, rfl, rfl, rfl, rfl, rfl, rfl⟩
theorem test_words_decode_4_2 : ∀ p ∈ ([
    (0b1_1001101_000000_000010_000000_000010, .mpushX true 2),
    (0b1_1001101_000000_000010_000000_000011, .mpushXRaw true 2),
    (0b1_1001101_000000_000000_000000_001000, .minv true),
    (0b1_1001101_000000_000000_000010_010000, .mpop true 2),
    (0b1_1001101_000000_000000_000000_011000, .mdup true),
    (0b1_1001101_000000_000000_000000_100000, .mall true),
    (0b1_1001110_000010_000011_000000_000011, .vbcast true 2 3 3),
    (0b1_1001110_000010_000011_000100_010111, .vext true 2 3 4 false true 3),
    (0b1_1001110_000010_000011_000100_001011, .vins true 2 3 4 false 3),
    (0b1_1001111_000010_000011_000100_000000, .vperm true 2 3 4),
    (0b1_1001111_000010_000011_000100_000001, .vperm2 true 2 3 4),
    (0b1_1001111_000010_000011_000100_000010, .vpermB true 2 3 4),
    (0b1_1001111_000010_000011_000100_010000, .vxswz true 2 3 4),
    (0b1_1001111_000010_000011_000100_010001, .vxswzi true 2 3 4)] : List (BitVec 32 × Instr)), decode p.1 = .ok p.2 := by
  simp only [List.forall_mem_cons, List.not_mem_nil, IsEmpty.forall_iff, implies_true, and_true]
  exact ⟨rfl, rfl, rfl, rfl, rfl, rfl, rfl, rfl, rfl, rfl, rfl, rfl, rfl, rfl⟩
theorem test_words_decode_5_0 : ∀ p ∈ ([
    (0b1_1010000_000010_000011_000000_000100, .vredAdd true 2 3 4),
    (0b1_1010000_000010_000011_000000_010100, .vredMin true 2 3 4),
    (0b1_1010000_000010_000011_000000_100100, .vredMax true 2 3 4),
    (0b1_1010001_000010_000011_000100_000101, .vdot true 2 3 4 false false 5),
    (0b1_1010010_000010_000011_000100_000011, .viota true 2 3 4 3),
    (0b1_1010010_000010_000000_000000_001000, .viotaM true 2),
    (0b1_1010011_000010_000011_000000_001001, .vabs true 2 3 false 9),
    (0b1_1010011_000010_000011_000000_011001, .vneg true 2 3 false 9),
    (0b1_1010100_000000_000010_000000_000000, .vseed true 2),
    (0b1_1010100_000000_000010_000000_000001, .vseedX true 2),
    (0b1_1010100_000010_000000_000000_000010, .vseedrd true 2),
    (0b1_1010101_000010_000011_000000_000000, .vmov true 2 3),
    (0b1_1010101_000010_000011_000000_000001, .vmovZ true 2 3),
    (0b1_1010101_000010_000000_000000_000010, .vmovM true 2),
    (0b1_1011000_000010_000011_000100_000110, .lds true 2 3 4 false false true 2)] : List (BitVec 32 × Instr)), decode p.1 = .ok p.2 := by
  simp only [List.forall_mem_cons, List.not_mem_nil, IsEmpty.forall_iff, implies_true, and_true]
  exact ⟨rfl, rfl, rfl, rfl, rfl, rfl, rfl, rfl, rfl, rfl, rfl, rfl, rfl, rfl, rfl⟩
theorem test_words_decode_5_1 : ∀ p ∈ ([
    (0b1_1011001_000010_000011_000100_000010, .sts true 2 3 4 false false 2),
    (0b1_1011010_000010_000011_000100_001000, .ldf true 2 3 4 false true false),
    (0b1_1011010_000010_000011_000100_001001, .ldfe true 2 3 4 false true false),
    (0b1_1011011_000010_000011_000100_001000, .ste true 2 3 4 false true),
    (0b1_1011011_000010_000011_000100_001001, .stf true 2 3 4 false true),
    (0b1_1011011_000000_000010_000011_010010, .tagclr true 2 3 true false),
    (0b1_1011100_000010_000011_000000_000000, .vld true 2 3),
    (0b1_1011100_000010_000011_000000_000001, .vldBank true 2 3),
    (0b1_1011100_000010_000011_000100_000010, .vldStr true 2 3 4),
    (0b1_1011100_000010_000011_000100_000100, .vldG true 2 3 4 false),
    (0b1_1011101_000010_000011_000000_000000, .vst true 2 3),
    (0b1_1011101_000010_000011_000000_000001, .vstBank true 2 3),
    (0b1_1011101_000010_000011_000100_000010, .vstStr true 2 3 4),
    (0b1_1011101_000010_000011_000100_000100, .vstG true 2 3 4 false),
    (0b1_1011110_000010_000011_000100_000000, .vldg true 2 3 4)] : List (BitVec 32 × Instr)), decode p.1 = .ok p.2 := by
  simp only [List.forall_mem_cons, List.not_mem_nil, IsEmpty.forall_iff, implies_true, and_true]
  exact ⟨rfl, rfl, rfl, rfl, rfl, rfl, rfl, rfl, rfl, rfl, rfl, rfl, rfl, rfl, rfl⟩
theorem test_words_decode_5_2 : ∀ p ∈ ([
    (0b1_1011110_000010_000011_000100_000100, .vldgG true 2 3 4 false),
    (0b1_1011110_000010_000011_000100_000001, .vstg true 2 3 4),
    (0b1_1011110_000010_000011_000100_000101, .vstgG true 2 3 4 false),
    (0b1_1011111_000010_000011_000100_000010, .vldt true 2 3 4 2)] : List (BitVec 32 × Instr)), decode p.1 = .ok p.2 := by
  simp only [List.forall_mem_cons, List.not_mem_nil, IsEmpty.forall_iff, implies_true, and_true]
  exact ⟨rfl, rfl, rfl, rfl⟩
theorem test_words_decode_6_0 : ∀ p ∈ ([
    (0b1_1100000_000010_000011_000100_001011, .ldg true 2 3 4 false true false 3),
    (0b1_1100001_000010_000011_000100_001011, .stg true 2 3 4 false true 3),
    (0b1_1100010_000010_000011_000100_011110, .lda true 2 3 4 3 6),
    (0b1_1100010_000010_000011_000100_111110, .sta true 2 3 4 3 6),
    (0b1_1100011_000010_110100_000101_000010, .atomSwap true 2 3 4 5 true false),
    (0b1_1100011_000010_110100_000101_000110, .atomCas true 2 3 4 5 true false),
    (0b1_1100011_000010_110100_000101_001010, .atomAdd true 2 3 4 5 true false),
    (0b1_1100011_000010_110100_000101_001110, .atomAnd true 2 3 4 5 true false),
    (0b1_1100011_000010_110100_000101_010010, .atomOr true 2 3 4 5 true false),
    (0b1_1100011_000010_110100_000101_010110, .atomXor true 2 3 4 5 true false),
    (0b1_1100011_000010_110100_000101_011010, .atomMinS true 2 3 4 5 true false),
    (0b1_1100011_000010_110100_000101_011110, .atomMaxS true 2 3 4 5 true false),
    (0b1_1100011_000010_110100_000101_100010, .atomMinZ true 2 3 4 5 true false),
    (0b1_1100011_000010_110100_000101_100110, .atomMaxZ true 2 3 4 5 true false),
    (0b1_1100011_000010_110100_000101_101010, .atomFadd true 2 3 4 5 true false)] : List (BitVec 32 × Instr)), decode p.1 = .ok p.2 := by
  simp only [List.forall_mem_cons, List.not_mem_nil, IsEmpty.forall_iff, implies_true, and_true]
  exact ⟨rfl, rfl, rfl, rfl, rfl, rfl, rfl, rfl, rfl, rfl, rfl, rfl, rfl, rfl, rfl⟩
theorem test_words_decode_6_1 : ∀ p ∈ ([
    (0b1_1100011_000010_110100_000101_101110, .atomFmin true 2 3 4 5 true false),
    (0b1_1100011_000010_110100_000101_110010, .atomFmax true 2 3 4 5 true false),
    (0b1_1100100_000010_110100_000101_000110, .atomx true 2 3 4 5 6),
    (0b1_1100101_000000_000000_000101_010100, .fence true true false true false true false 4),
    (0b1_1100110_000010_000011_000100_000000, .prefetch true 2 3 4 false),
    (0b1_1100110_000010_000011_000100_000001, .flush true 2 3 4 false),
    (0b1_1100110_000010_000011_000100_000010, .discard true 2 3 4),
    (0b1_1100111_000010_000011_000100_000110, .sbopFill true 2 3 4 false 6),
    (0b1_1100111_000010_010011_000100_000110, .sbopAdd true 2 3 4 false 6),
    (0b1_1100111_000010_100011_000100_000110, .sbopFadd true 2 3 4 false 6),
    (0b1_1100111_000010_110011_000100_000110, .sbopMax true 2 3 4 false 6),
    (0b1_1101100_000010_000011_000100_010001, .mma true 2 3 4 false true false 1),
    (0b1_1101101_000000_000010_000011_000000, .nset true 2 3),
    (0b1_1101101_000000_000010_000011_000001, .nsetA true 2 3),
    (0b1_1101101_000010_000000_000011_000010, .nget true 2 3)] : List (BitVec 32 × Instr)), decode p.1 = .ok p.2 := by
  simp only [List.forall_mem_cons, List.not_mem_nil, IsEmpty.forall_iff, implies_true, and_true]
  exact ⟨rfl, rfl, rfl, rfl, rfl, rfl, rfl, rfl, rfl, rfl, rfl, rfl, rfl, rfl, rfl⟩
theorem test_words_decode_6_2 : ∀ p ∈ ([
    (0b1_1101101_000010_000000_000011_000011, .ngetA true 2 3),
    (0b1_1101110_000010_000000_000000_000000, .ngo true 2),
    (0b1_1101110_000010_000011_000100_000001, .ngoM true 2 3 4),
    (0b1_1101111_000010_000011_000100_000000, .accrd true 2 3 4),
    (0b1_1101111_000010_000011_000100_000001, .accwr true 2 3 4),
    (0b1_1101111_000010_000000_000000_000010, .accz true 2)] : List (BitVec 32 × Instr)), decode p.1 = .ok p.2 := by
  simp only [List.forall_mem_cons, List.not_mem_nil, IsEmpty.forall_iff, implies_true, and_true]
  exact ⟨rfl, rfl, rfl, rfl, rfl, rfl⟩
theorem test_words_decode_7_0 : ∀ p ∈ ([
    (0b1_1110000_000010_000011_000100_000101, .obcast true 2 3 4 5),
    (0b1_1110001_000010_000011_000100_000101, .mopen true 2 3 4 5),
    (0b1_1110001_000010_000011_000100_111111, .accmerge true 2 3 4 3 true 3),
    (0b1_1110010_000010_000011_000100_101110, .copy true 2 3 4 5 6),
    (0b1_1110011_000010_000011_000100_010111, .send true 2 3 4 5 3),
    (0b1_1110100_000010_000011_000000_000000, .fbind true 2 3),
    (0b1_1110100_000010_000000_000000_000001, .funbind true 2),
    (0b1_1110100_000010_000011_000000_000010, .fpush true 2 3),
    (0b1_1110100_000010_000011_000000_000011, .fpushEos true 2 3),
    (0b1_1110100_000010_000011_000000_000100, .fpop true 2 3),
    (0b1_1110101_000010_000011_000100_000000, .coll true 2 3 4),
    (0b1_1110110_000010_000011_000000_000011, .clopen true 2 3 3),
    (0b1_1110110_000010_000000_000000_010011, .clclose true 2 3),
    (0b1_1110111_000010_000011_000100_000000, .trsel true 2 3 4),
    (0b1_1110111_000010_000011_000100_000001, .trexp true 2 3 4)] : List (BitVec 32 × Instr)), decode p.1 = .ok p.2 := by
  simp only [List.forall_mem_cons, List.not_mem_nil, IsEmpty.forall_iff, implies_true, and_true]
  exact ⟨rfl, rfl, rfl, rfl, rfl, rfl, rfl, rfl, rfl, rfl, rfl, rfl, rfl, rfl, rfl⟩
theorem test_words_decode_7_1 : ∀ p ∈ ([
    (0b1_1110111_000010_000011_000100_000010, .trback true 2 3 4),
    (0b1_1110111_000010_000011_000100_001010, .trbackVo true 2 3 4),
    (0b1_1110111_000010_000011_000100_000011, .trroot true 2 3 4),
    (0b1_1110111_000010_000011_000100_000100, .trpoolInit true 2 3 4),
    (0b1_1110111_000010_000011_000100_001100, .trpoolParam true 2 3 4),
    (0b1_1111000_000010_000011_000100_010111, .qbgate true 2 3 4 5 3),
    (0b1_1111000_000010_000011_000100_110111, .qbdiag true 2 3 4 5 3),
    (0b1_1111001_000010_000011_000100_000000, .qbmap true 2 3 4),
    (0b1_1111001_000010_000000_000011_000001, .qbmapSet true 2 3),
    (0b1_1111001_000010_000000_000011_000010, .qbmapGet true 2 3),
    (0b1_1111001_000010_000000_000000_000011, .qbmapEnd true 2),
    (0b1_1111001_000010_000011_000000_001000, .qbswap true 2 3),
    (0b1_1111001_000010_000000_000011_010000, .qbnorm true 2 3),
    (0b1_1111001_000010_000011_000100_010001, .qbprob true 2 3 4),
    (0b1_1111001_000010_000011_000100_010010, .qbcoll true 2 3 4)] : List (BitVec 32 × Instr)), decode p.1 = .ok p.2 := by
  simp only [List.forall_mem_cons, List.not_mem_nil, IsEmpty.forall_iff, implies_true, and_true]
  exact ⟨rfl, rfl, rfl, rfl, rfl, rfl, rfl, rfl, rfl, rfl, rfl, rfl, rfl, rfl, rfl⟩
theorem test_words_decode_7_2 : ∀ p ∈ ([
    (0b1_1111010_000000_000010_000000_000000, .twait true 2),
    (0b1_1111010_000000_000000_000010_000001, .twaitCh true 2),
    (0b1_1111010_000010_000011_000000_000010, .tstat true 2 3),
    (0b1_1111010_000010_000000_000011_000011, .tstatLog true 2 3),
    (0b1_1111011_000000_000010_000011_000011, .waitc true 2 3 3),
    (0b1_1111100_000000_000010_000011_000000, .barinit true 2 3),
    (0b1_1111100_000010_000011_000000_000001, .bararr true 2 3),
    (0b1_1111100_000010_000011_000100_000010, .barexp true 2 3 4),
    (0b1_1111100_000010_000011_000100_000011, .barwait true 2 3 4),
    (0b1_1111100_000010_000011_000100_000100, .bartry true 2 3 4),
    (0b1_1111101_000010_000011_000100_000000, .trigat true 2 3 4),
    (0b1_1111101_000010_000011_000100_000001, .trigcnt true 2 3 4),
    (0b1_1111101_000010_000011_000000_000010, .trigcan true 2 3),
    (0b1_1111110_000000_000000_000010_000000, .qdepth true 2),
    (0b1_1111110_000000_000010_000000_000001, .qdepthX true 2)] : List (BitVec 32 × Instr)), decode p.1 = .ok p.2 := by
  simp only [List.forall_mem_cons, List.not_mem_nil, IsEmpty.forall_iff, implies_true, and_true]
  exact ⟨rfl, rfl, rfl, rfl, rfl, rfl, rfl, rfl, rfl, rfl, rfl, rfl, rfl, rfl, rfl⟩
theorem test_words_decode_7_3 : ∀ p ∈ ([
    (0b1_1111110_000010_000000_000011_000010, .qstat true 2 3),
    (0b1_1111110_000000_000010_000000_000011, .qmode true 2),
    (0b1_1111110_000000_000010_000000_000100, .qmodei true 2)] : List (BitVec 32 × Instr)), decode p.1 = .ok p.2 := by
  simp only [List.forall_mem_cons, List.not_mem_nil, IsEmpty.forall_iff, implies_true, and_true]
  exact ⟨rfl, rfl, rfl⟩
/-! ### Well-formedness: one ill-formed operand for each check of `Instr.wf` (R91, R96, R97), and beside them operands in range -/
theorem test_ill_formed_refused_0 : ∀ i ∈ ([
    .pguard false 96 false 0, .deps false 0 0 0 4, .deps false 1 1 1 2, .deps false 1 1 0 1, .deps false 1 0 0 0,
    .shli false 0 0 32 true, .shri false 0 0 32 true, .sari false 0 0 32 true, .roli false 0 0 32 true,
    .rori false 0 0 32 true, .cmp false 96 0 0 0, .cmpi false 96 0 0 0, .pand false 96 0 0, .pand false 0 96 0,
    .pand false 0 0 96, .por false 96 0 0, .por false 0 96 0, .por false 0 0 96, .pxor false 96 0 0,
    .pxor false 0 96 0, .pxor false 0 0 96, .pandn false 96 0 0, .pandn false 0 96 0, .pandn false 0 0 96,
    .porn false 96 0 0, .porn false 0 96 0, .porn false 0 0 96, .pmov false 96 0, .pmov false 0 96, .pnot false 96 0,
    .pnot false 0 96, .pxnor false 96 0 0, .pxnor false 0 96 0, .pxnor false 0 0 96, .sel false 0 0 96,
    .selz false 0 0 96] : List Instr), i.wf = false := by decide
theorem test_ill_formed_refused_1 : ∀ i ∈ ([
    .seln false 0 0 96, .fcmp false 96 0 0 0 0, .fcvt false 0 0 4 0 false true 0, .fcvt false 0 0 0 4 true false 0,
    .loops false 0 96 0, .loops false 8 0 0, .cnarrowOff false 16 0 0, .cnarrowOff false 0 16 0,
    .cnarrowLen false 16 0 0, .cnarrowLen false 0 16 0, .cnarrowBase false 16 0 0, .cnarrowBase false 0 16 0,
    .cnarrowiOff false 16 0 0, .cnarrowiOff false 0 16 0, .cnarrowiLen false 16 0 0, .cnarrowiLen false 0 16 0,
    .cnarrowiBase false 16 0 0, .cnarrowiBase false 0 16 0, .cperm false 16 0 0, .cperm false 0 16 0,
    .cgetBase false 0 16, .cgetLen false 0 16, .cgetPerm false 0 16, .cgetShape false 0 16, .cgetTag false 0 16,
    .cgetHi false 0 16, .cgetLo false 0 16, .cshape false 16 0 0, .cshape false 0 16 0, .cmint false 16 0 0,
    .trans false 16 0, .hgetState false 0 16, .hgetPage false 0 16, .hgetSize false 0 16, .hdrop false 16,
    .wtake false 0 96] : List Instr), i.wf = false := by decide
theorem test_ill_formed_refused_2 : ∀ i ∈ ([
    .csrr false 0 7, .csrr false 0 384, .csrw false 0 263, .vadd false 0 0 0 false false 12,
    .vadd false 0 0 0 false true 8, .vsub false 0 0 0 false false 14, .vsub false 0 0 0 false true 9,
    .vmul false 0 0 0 false false 15, .vmul false 0 0 0 false true 8, .vfma false 0 0 0 false false 7,
    .vfms false 0 0 0 false false 12, .vmin false 0 0 0 false 12, .vmax false 0 0 0 false 13,
    .vdiv false 0 0 0 false 12, .vsqrt false 0 0 0, .vcvt false 0 0 9 9 true 0, .vcvt false 0 0 3 9 false 2,
    .vcvt false 0 0 14 8 false 0, .vcvt false 0 0 11 11 true 0, .vcmp false false 0 0 0 false 12,
    .vcmp false false 7 0 0 false 0, .vcmp false false 6 0 0 false 2, .vcmp false true 0 0 0 false 2,
    .vext false 0 0 32 false true 3, .vins false 0 0 32 true 3, .vredAdd false 0 0 12, .vredMin false 0 0 13,
    .vredMax false 0 0 14, .vdot false 0 0 0 false false 2, .vdot false 0 0 0 false true 10, .vabs false 0 0 false 4,
    .vabs false 0 0 true 9, .vneg false 0 0 false 7, .vneg false 0 0 true 8, .lds false 0 0 0 false true false 1,
    .lds false 0 0 0 false true true 0] : List Instr), i.wf = false := by decide
theorem test_ill_formed_refused_3 : ∀ i ∈ ([
    .lds false 16 0 0 false true false 0, .lds false 0 0 0 false false true 3, .sts false 0 0 0 false true 2,
    .sts false 16 0 0 false true 0, .ldf false 0 0 0 false true true, .ldfe false 0 0 0 false true true,
    .vldt false 0 0 0 3, .ldg false 0 0 0 false false true 3, .lda false 0 0 0 0 7, .sta false 0 0 0 0 7,
    .atomSwap false 0 0 0 0 false true, .atomCas false 0 0 0 0 false true, .atomCas false 63 0 0 0 false false,
    .atomAdd false 0 0 0 0 false true, .atomAnd false 0 0 0 0 false true, .atomOr false 0 0 0 0 false true,
    .atomXor false 0 0 0 0 false true, .atomMinS false 0 0 0 0 false true, .atomMaxS false 0 0 0 0 false true,
    .atomMinZ false 0 0 0 0 false true, .atomMaxZ false 0 0 0 0 false true, .atomFadd false 0 0 0 0 false true,
    .atomFmin false 0 0 0 0 false true, .atomFmax false 0 0 0 0 false true, .atomx false 63 0 0 0 0,
    .fence false false false false false false false 7, .mma false 4 0 0 false false false 0,
    .mma false 0 0 0 false false false 6, .mma false 0 0 0 false true false 3, .nset false 0 7, .nset false 0 8,
    .nset false 0 19, .nsetA false 0 7, .nsetA false 0 40, .nget false 0 15, .ngetA false 0 23] : List Instr), i.wf = false := by decide
theorem test_ill_formed_refused_4 : ∀ i ∈ ([
    .ngo false 32, .ngoM false 32 0 0, .ngoM false 0 16 0, .accrd false 0 4 0, .accwr false 4 0 0, .accz false 4,
    .obcast false 32 0 0 0, .mopen false 32 0 0 0, .mopen false 0 16 0 0, .accmerge false 32 0 0 0 false 0,
    .accmerge false 0 16 0 0 false 0, .copy false 32 0 0 0 0, .copy false 0 16 0 0 0, .copy false 0 0 31 0 0,
    .copy false 0 0 0 7 0, .send false 32 0 0 0 0, .send false 0 16 0 0 0, .fbind false 8 0, .funbind false 8,
    .fpush false 8 0, .fpushEos false 8 0, .fpop false 0 8, .coll false 30 0 0, .coll false 0 15 0,
    .clopen false 32 0 0, .clclose false 32 0, .trsel false 32 0 0, .trsel false 0 16 0, .trexp false 32 0 0,
    .trexp false 0 16 0, .trexp false 0 0 63, .trback false 32 0 0, .trback false 0 16 0, .trback false 0 0 63,
    .trbackVo false 32 0 0, .trbackVo false 0 16 0] : List Instr), i.wf = false := by decide
theorem test_ill_formed_refused_5 : ∀ i ∈ ([
    .trbackVo false 0 0 63, .trroot false 32 0 0, .trroot false 0 16 0, .trpoolInit false 32 0 0,
    .trpoolInit false 0 16 0, .trpoolParam false 32 0 0, .trpoolParam false 0 16 0, .qbgate false 32 0 0 0 1,
    .qbgate false 0 0 0 0 0, .qbgate false 0 0 0 7 1, .qbdiag false 32 0 0 0 1, .qbdiag false 0 0 0 0 0,
    .qbdiag false 0 0 0 7 1, .qbmap false 32 0 0, .qbmap false 0 16 0, .qbmapSet false 32 0, .qbmapGet false 32 0,
    .qbmapEnd false 32, .qbswap false 32 0, .qbnorm false 32 0, .qbprob false 32 0 0, .qbcoll false 32 0 0,
    .twait false 32, .tstat false 0 32, .barinit false 16 0, .bararr false 0 16, .barexp false 32 0 0,
    .barexp false 0 16 0, .barwait false 0 16 0, .bartry false 96 0 0, .bartry false 0 16 0, .trigat false 0 16 0,
    .trigcnt false 0 16 0, .qstat false 0 4, .qstat false 0 7, .qstat false 0 21] : List Instr), i.wf = false := by decide
theorem test_ill_formed_refused_6 : ∀ i ∈ ([
    .qstat false 0 32] : List Instr), i.wf = false := by decide
theorem test_same_shape_accepted_0 : ∀ i ∈ ([
    .pguard false 0 false 0, .deps false 0 0 0 0, .shli false 0 0 0 false, .shri false 0 0 0 false,
    .sari false 0 0 0 false, .roli false 0 0 0 false, .rori false 0 0 0 false, .cmp false 0 0 0 0,
    .cmpi false 0 0 0 0, .pand false 0 0 0, .por false 0 0 0, .pxor false 0 0 0, .pandn false 0 0 0,
    .porn false 0 0 0, .pmov false 0 0, .pnot false 0 0, .pxnor false 0 0 0, .sel false 0 0 0, .selz false 0 0 0,
    .seln false 0 0 0, .fcmp false 0 0 0 0 0, .fcvt false 0 0 0 0 false false 0, .loops false 0 0 0,
    .cnarrowOff false 0 0 0, .cnarrowLen false 0 0 0, .cnarrowBase false 0 0 0, .cnarrowiOff false 0 0 0,
    .cnarrowiLen false 0 0 0, .cnarrowiBase false 0 0 0, .cperm false 0 0 0, .cgetBase false 0 0, .cgetLen false 0 0,
    .cgetPerm false 0 0, .cgetShape false 0 0, .cgetTag false 0 0, .cgetHi false 0 0] : List Instr), i.wf = true := by decide
theorem test_same_shape_accepted_1 : ∀ i ∈ ([
    .cgetLo false 0 0, .cshape false 0 0 0, .cmint false 0 0 0, .trans false 0 0, .hgetState false 0 0,
    .hgetPage false 0 0, .hgetSize false 0 0, .hdrop false 0, .wtake false 0 0, .csrr false 0 0, .csrw false 0 0,
    .vadd false 0 0 0 false false 0, .vsub false 0 0 0 false false 0, .vmul false 0 0 0 false false 0,
    .vfma false 0 0 0 false false 8, .vfms false 0 0 0 false false 8, .vmin false 0 0 0 false 0,
    .vmax false 0 0 0 false 0, .vdiv false 0 0 0 false 0, .vsqrt false 0 0 8, .vcvt false 0 0 0 0 false 0,
    .vcmp false false 0 0 0 false 0, .vext false 0 0 0 false false 0, .vins false 0 0 0 false 0,
    .vredAdd false 0 0 0, .vredMin false 0 0 0, .vredMax false 0 0 0, .vdot false 0 0 0 false false 0,
    .vabs false 0 0 false 0, .vneg false 0 0 false 0, .lds false 0 0 0 false false false 0,
    .sts false 0 0 0 false false 0, .ldf false 0 0 0 false false false, .ldfe false 0 0 0 false false false,
    .vldt false 0 0 0 0, .ldg false 0 0 0 false false false 0] : List Instr), i.wf = true := by decide
theorem test_same_shape_accepted_2 : ∀ i ∈ ([
    .lda false 0 0 0 0 0, .sta false 0 0 0 0 0, .atomSwap false 0 0 0 0 false false,
    .atomCas false 0 0 0 0 false false, .atomAdd false 0 0 0 0 false false, .atomAnd false 0 0 0 0 false false,
    .atomOr false 0 0 0 0 false false, .atomXor false 0 0 0 0 false false, .atomMinS false 0 0 0 0 false false,
    .atomMaxS false 0 0 0 0 false false, .atomMinZ false 0 0 0 0 false false, .atomMaxZ false 0 0 0 0 false false,
    .atomFadd false 0 0 0 0 false false, .atomFmin false 0 0 0 0 false false, .atomFmax false 0 0 0 0 false false,
    .atomx false 0 0 0 0 0, .fence false false false false false false false 0, .mma false 0 0 0 false false false 0,
    .nset false 0 0, .nsetA false 0 0, .nget false 0 0, .ngetA false 0 0, .ngo false 0, .ngoM false 0 0 0,
    .accrd false 0 0 0, .accwr false 0 0 0, .accz false 0, .obcast false 0 0 0 0, .mopen false 0 0 0 0,
    .accmerge false 0 0 0 0 false 0, .copy false 0 0 0 0 0, .send false 0 0 0 0 0, .fbind false 0 0,
    .funbind false 0, .fpush false 0 0, .fpushEos false 0 0] : List Instr), i.wf = true := by decide
theorem test_same_shape_accepted_3 : ∀ i ∈ ([
    .fpop false 0 0, .coll false 0 0 0, .clopen false 0 0 0, .clclose false 0 0, .trsel false 0 0 0,
    .trexp false 0 0 0, .trback false 0 0 0, .trbackVo false 0 0 0, .trroot false 0 0 0, .trpoolInit false 0 0 0,
    .trpoolParam false 0 0 0, .qbgate false 0 0 0 0 1, .qbdiag false 0 0 0 0 1, .qbmap false 0 0 0,
    .qbmapSet false 0 0, .qbmapGet false 0 0, .qbmapEnd false 0, .qbswap false 0 0, .qbnorm false 0 0,
    .qbprob false 0 0 0, .qbcoll false 0 0 0, .twait false 0, .tstat false 0 0, .barinit false 0 0,
    .bararr false 0 0, .barexp false 0 0 0, .barwait false 0 0 0, .bartry false 0 0 0, .trigat false 0 0 0,
    .trigcnt false 0 0 0, .qstat false 0 0] : List Instr), i.wf = true := by decide
/-! ### Machines for the tests -/

/-- The last slot of a bundle, and the first of two; both run in S. -/
def last : Issue := { addr := 0x1000, next := 0x1004, todo := [{ idx := 0, word := 0 }] }
def first : Issue := { addr := 0x1000, next := 0x1008, todo := [{ idx := 0, word := 0 }, { idx := 1, word := 0 }] }
/-- A READY machine: in bank 0 of core 0 a context with registers `r` runs a slot of the bundle `i`; launch 0 has the trap entry 0x4000, the
driver the system handler 0x8000. -/
def mach (r : Regs) (i : Issue) : State :=
  { dev := [(0x80000, 0x8000), (0x90200, 4)]
    ctxs := [(0, { occ := .resident, inc := 1, regs := r, pc := i.addr, issue := { i with old := r } })]
    nextInc := 2
    nextLaunch := 1
    launches := [{ num := 0, trapent := 0x4000 }] }
theorem running (r : Regs) (i : Issue) (h : i.endTrap = none) (h' : i.ret = false) : Running (mach r i) := ⟨rfl, h, h'⟩

/-- Registers that hold the values, from x1 on. -/
def xs (vs : List Word64) : Regs := { x := vs.mapIdx fun k v => (k + 1, ⟨v, false⟩) }
/-- A poisoned x1. -/
def px : Regs := { x := [(1, ⟨0, true⟩)] }
/-- What `exec` leaves of a machine that runs one slot; of one that stops, the machine it began with. -/
def run (i : Instr) (s : State) : State := match exec i s with | .next t => t | .fault _ => s | .refused _ => s
/-- What an x register, a p register, an element of a v register reads then. -/
def xr (n : Nat) (s : State) : Word64 × Bool := ((s.regs.rx n).v, (s.regs.rx n).psn)

/-- The machine with an entry in the TLB of core 0 that leads the first GiB of space 0 to the same addresses of HBM, with all rights, and a
code capability over it. -/
def mapped (s : State) : State :=
  { s with
    tlbs := [(0, [{ asid := 0, page := 0, size := 2, leaf := 0x881F }])]
    launches := [{ num := 0, trapent := 0x4000, codeCap := (Cap.make 0 0x40000000 0x7F 0 true).bits }] }

/-- The machine with a ready context in the other bank of the core, and with an entry of priority 0 that waits for a place. -/
def both (s : State) : State := { s with ctxs := s.ctxs ++ [(1, { occ := .resident, inc := 2 })], nextInc := 3 }
def waiting (s : State) : State := { s with ready := [{ launch := 0, task := 1, prio := 0, arrival := 0, since := 0 }] }

/-! ### Witnesses: scalar arithmetic -/

theorem last_slot (r : Regs) : LastSlot (mach r last) := by constructor <;> simp [mach, last, State.ctx, Sparse.get, Sparse.find]
theorem not_last_slot (r : Regs) : ¬ LastSlot (mach r first) := by
  intro h; simpa [mach, first, State.ctx, Sparse.get, Sparse.find] using h.2 { idx := 1, word := 0 }

/-- A slot that runs, the last of its bundle or not, with clean operands or a poisoned one; a word of a major. -/
theorem wit_IntegerArithmetic :
    Running (mach (xs [-1, 2]) last) ∧ Running (mach px first) ∧ ((mach px first).old.rx 1).psn = true ∧
    LastSlot (mach (xs [-1, 2]) last) ∧ ¬ LastSlot (mach px first) ∧
    decode 0b1_0010000_000011_000001_000010_000000 = .ok (.add true 3 1 2) :=
  ⟨running _ _ rfl rfl, running _ _ rfl rfl, rfl, last_slot _, not_last_slot _, rfl⟩

/-- The amounts 31 and 32 of the immediate shifts on both widths; words that the rules shut out. -/
theorem wit_IntegerLogic :
    Running (mach (xs [-1, 2]) last) ∧ (31#6).toNat < 32 ∧ ¬ (32#6).toNat < 32 ∧ (63#6).toNat < 64 ∧
    decode 0b1_0010101_000011_000001_000010_100000 = .ok (.andi true 3 1 2) ∧
    decode 0b1_0010101_000011_000001_000010_001000 = .error .illegalFunction ∧
    decode 0b1_0010110_000011_000001_100000_101000 = .error .illegalFunction ∧
    decode 0b1_0010110_000011_000001_011111_101000 = .ok (.shli true 3 1 31 true) ∧
    decode 0b1_0011000_000011_000001_000010_000100 = .error .illegalFunction :=
  ⟨running _ _ rfl rfl, by decide, by decide, by decide, rfl, rfl, rfl, rfl, rfl⟩

/-- Clean operands; a predicate that holds 1; a condition and a predicate number out of range. -/
theorem wit_CompareAndSelect :
    Running (mach { xs [5, 7] with p := [(2, ⟨1, false⟩)] } last) ∧
    ((mach { xs [5, 7] with p := [(2, ⟨1, false⟩)] } last).old.rp 2) = ⟨1, false⟩ ∧
    decode 0b1_0011101_000101_000001_000010_100100 = .ok (.cmpi true 69 1 2 4) ∧
    decode 0b1_0011101_100000_000001_000010_100100 = .error .illegalFunction ∧
    decode 0b1_0011111_000011_000001_000010_000011 = .error .illegalFunction :=
  ⟨running _ _ rfl rfl, by decide, rfl, rfl, rfl⟩

/-- Special values of f32: signalling and quiet NaN, infinities, zeros, a negative value; FCMP's five conditions. -/
theorem wit_ScalarFloatForms :
    Running (mach (xs [0x3F800000, 0x40000000]) last) ∧ Running (mach px last) ∧
    ((4#3).toNat < 5 ∧ ¬ (5#3).toNat < 5) ∧
    (let v := fun x => (scalarFmt 1).value x;
      (v 0x7F800001).isSig ∧ (v 0x7FC00000).isNan ∧ (v 0x7F800000).isInf ∧ (v 0xFF800000).isNeg ∧ (v 0xFF800000).isInf ∧ (v 0).isZero ∧
      (v 0x80000000).isZero ∧ (v 0x80000000).isNeg ∧ (!(v 0xBF800000).isZero ∧ (v 0xBF800000).isNeg ∧ !(v 0xBF800000).isInf)) :=
  ⟨running _ _ rfl rfl, running _ _ rfl rfl, by decide, by decide⟩

/-- A magnitude at the largest finite value, and one between two values of f32. -/
theorem wit_RoundingIsNearest :
    0 < (scalarFmt 1).maxSig ∧ (scalarFmt 1).maxSig = 2 ^ 24 - 1 ∧ (scalarFmt 1).maxExp = 104 ∧
    ((2 ^ 24 + 1 : Nat) : ℚ) * (2 : ℚ) ^ (0 : Int) ≤ ((scalarFmt 1).maxSig : ℚ) * (2 : ℚ) ^ (scalarFmt 1).maxExp := by
  refine ⟨by decide, by decide, by decide, ?_⟩
  have h : (scalarFmt 1).maxSig = 2 ^ 24 - 1 := by decide
  have h' : (scalarFmt 1).maxExp = 104 := by decide
  rw [h, h']; norm_num

/-! ### Witnesses: control and exceptions -/

/-- A loop counter at 2 and at 1, an empty stack. -/
theorem wit_BranchesAndLoops :
    (let s := mach { xs [0x2000] with lc := [2, 0, 0, 0], ldepth := 1 } last;
      Running s ∧ (s.old.rx 1).psn = false ∧ 0 < s.old.ldepth ∧ 1 < (s.old.loopCount 0).toNat) ∧
    (let s := mach { xs [0x2000] with lc := [1, 0, 0, 0], ldepth := 4 } first;
      Running s ∧ 0 < s.old.ldepth ∧ (s.old.loopCount 0).toNat ≤ 1) ∧
    (Running (mach {} last) ∧ (mach {} last).old.ldepth = 0) :=
  ⟨⟨running _ _ rfl rfl, by decide, by decide, by decide⟩, ⟨running _ _ rfl rfl, by decide, by decide⟩, running _ _ rfl rfl, by decide⟩

theorem undebugged (r : Regs) (i : Issue) : Undebugged (mach r i) 0 := ⟨by
  show ((mach {} last).csr csrDbgAttach).getLsbD 63 = false
  decide, rfl⟩

/-- An exception in NORMAL mode that the launch handles; one in HANDLER mode and an SVC that the system handles. -/
theorem wit_ExceptionEntry :
    (let s := mach {} last; let e : Exc := { trap := .privViolation, seq := 0, slot := 7 };
      Undebugged s 0 ∧ e.async = none ∧ e.seq < 8 ∧ e.slot < 8 ∧ (s.ctx 0).regs.mode = 0 ∧ e.svc = false ∧ (s.launchOf 0).trapent ≠ 0) ∧
    (let s := mach { mode := 1 } last;
      Undebugged s 0 ∧ (s.ctx 0).regs.mode ≠ 2 ∧ (s.ctx 0).regs.mode ≠ 0 ∧ (s.csr csrTrapEnt).extractLsb' 0 57 ≠ 0) ∧
    (let s := mach {} last; let e : Exc := { trap := .privViolation, seq := 0, slot := 7, svc := true };
      Undebugged s 0 ∧ e.async = none ∧ (s.ctx 0).regs.mode ≠ 2 ∧ e.svc = true ∧ (s.csr csrTrapEnt).extractLsb' 0 57 ≠ 0) :=
  ⟨⟨undebugged _ _, rfl, by decide, by decide, by decide, rfl, by decide⟩, ⟨undebugged _ _, by decide, by decide, by decide⟩,
    undebugged _ _, rfl, by decide, rfl, by decide⟩

/-- The image of a level-1 handler, whose bundle holds one slot. -/
def image : Image := { issue := { addr := 0x2000, next := 0x2008, todo := [{ idx := 1, word := 0x92000000 }] }, stamp := 0 }
/-- A HANDLER-mode context whose frame 1 returns to 0x2008 in NORMAL mode; its save slot holds the opaque bytes of the image. -/
def handler : State :=
  let s := mach { mode := 1, ff := [(0x11, 0x8000000000000050), (0x12, 0x2008)] } last
  { s.modCtx 0 fun c => { c with img1 := some image } with mem := Memory.write [] 0xB000 0x2000 (Config.byte 0) }
theorem handler_intact (d : Sparse Word64) :
    ({ handler with dev := d } : State).opaqueIntact ((handler.launchOf 0).slot 0 + imageArea 1) 0x2000 0 = true := by
  have e : (handler.launchOf 0).slot 0 + imageArea 1 = 0xB000 := by decide
  rw [e]
  unfold State.opaqueIntact
  rw [List.all_eq_true]
  intro i hi
  have hi : i < 0x2000 := List.mem_range.mp hi
  have hr : region (0xB000 + i) = .hbm := by unfold region; rw [if_pos]; omega
  simp only [State.peek, State.cell, hr, reduceCtorEq, if_false, decide_eq_true_eq]
  show (⟨(Memory.write [] 0xB000 0x2000 (Config.byte 0)).byte (0xB000 + i), ([] : KeySet).contains ((0xB000 + i) / 4)⟩ : Val 8) = _
  rw [Memory.byte_write, if_pos (by omega)]
  simp

/-- TRAP in the last slot of a bundle in NORMAL and in HANDLER mode, and in an earlier slot; a handler that returns. -/
theorem wit_TrapsAndReturn :
    (let s := mach {} last;
      Running s ∧ Undebugged s s.cur ∧ s.slot.idx < 8 ∧ LastSlot s ∧ (s.ctx s.cur).regs.mode = 0 ∧ (s.launchOf s.cur).trapent ≠ 0) ∧
    (let s := mach { mode := 1 } last;
      Running s ∧ Undebugged s s.cur ∧ LastSlot s ∧ (s.ctx s.cur).regs.mode = 1 ∧ (s.csr csrTrapEnt).extractLsb' 0 57 ≠ 0) ∧
    (Running (mach {} first) ∧ ¬ LastSlot (mach {} first)) ∧
    (let s := handler;
      Running s ∧ LastSlot s ∧ (s.ctx 0).img1 = some image ∧ (s.ctx s.cur).regs.mode = BitVec.ofNat 2 1 ∧ (s.ctx s.cur).regs.act = false ∧
      (s.ctx s.cur).queueBusy = false ∧
      s.opaqueIntact ((s.launchOf s.cur).slot (s.ctx s.cur).regs.task.toNat + imageArea 1) 0x2000 image.stamp = true) :=
  ⟨⟨running _ _ rfl rfl, undebugged _ _, by decide, last_slot _, by decide, by decide⟩,
    ⟨running _ _ rfl rfl, undebugged _ _, last_slot _, by decide, by decide⟩, ⟨running _ _ rfl rfl, not_last_slot _⟩,
    ⟨rfl, rfl, rfl⟩, by unfold LastSlot; decide, rfl, rfl, rfl, rfl, handler_intact handler.dev⟩

/-! ### Witnesses: capabilities and handles -/

/-- c1: BASE 0x10000, LENGTH 0x100, all permissions but bit 7, flat. c2: the same, untagged. c3: poisoned. -/
def caps : Regs := { xs [0x100, 0x101, 0x8000000000000000] with
  c := [(1, Cap.make 0x10000 0x100 0x7F 0 true), (2, Cap.make 0x10000 0x100 0x7F 0 false), (3, { Cap.make 0 0 0 0 true with psn := true })] }

/-- A tagged and an untagged source; an amount at LENGTH and one past it; a shape header with 1 and with 10 dimensions; both modes of CMINT, its
operands canonical and not. -/
theorem wit_Capabilities :
    (let s := mach caps last;
      Running s ∧ (s.old.rc 1).psn = false ∧ (s.old.rc 1).tag = true ∧ (s.old.rc 2).psn = false ∧ (s.old.rc 2).tag = false ∧
      (s.old.rx 1).psn = false ∧ (s.old.rx 1).v.toNat = ((s.old.rc 1).bits.extractLsb' 24 40).toNat ∧
      (s.old.rx 2).v.toNat = ((s.old.rc 1).bits.extractLsb' 24 40).toNat + 1) ∧
    (let s := { mach caps last with mem := [(scratchAddr 0 0x1000, 1), (scratchAddr 0 0x1001, 17)] };
      Running s ∧ (s.old.rc 1).bits.getLsbD 22 = true ∧ s.peek (scratchAddr 0 (16 * 0x100)) = ⟨1, false⟩ ∧
      s.peek (scratchAddr 0 (16 * 0x100 + 1)) = ⟨17, false⟩ ∧ s.peek (scratchAddr 0 (16 * 0x101)) = ⟨0, false⟩) ∧
    (Running (mach {} last) ∧ (mach {} last).regs.mode ≠ 2) ∧
    (let s := mach { caps with mode := 2 } last;
      Running s ∧ s.regs.mode = 2 ∧ (∀ i, 56 ≤ i → i < 64 → (s.old.rx 1).v.getLsbD i = (s.old.rx 1).v.getLsbD 56) ∧
      ¬ (∀ i, 56 ≤ i → i < 64 → (s.old.rx 3).v.getLsbD i = (s.old.rx 3).v.getLsbD 56)) :=
  ⟨⟨running _ _ rfl rfl, by decide, by decide, by decide, by decide, by decide, by decide, by decide⟩,
    ⟨⟨rfl, rfl, rfl⟩, by decide, by decide, by decide, by decide⟩, ⟨running _ _ rfl rfl, by decide⟩,
    running _ _ rfl rfl, by decide, by intro i h h'; interval_cases i <;> decide, fun h => absurd (h 63 (by decide) (by decide)) (by decide)⟩

/-- A canonical address and one that is not. -/
theorem wit_Handles :
    (let s := mach caps last;
      Running s ∧ (s.old.rx 1).psn = false ∧ (∀ i, 56 ≤ i → i < 64 → (s.old.rx 1).v.getLsbD i = (s.old.rx 1).v.getLsbD 56) ∧
      (s.old.rx 3).psn = false ∧ ¬ (∀ i, 56 ≤ i → i < 64 → (s.old.rx 3).v.getLsbD i = (s.old.rx 3).v.getLsbD 56)) :=
  ⟨running _ _ rfl rfl, by decide, by intro i h h'; interval_cases i <;> decide, by decide,
    fun h => absurd (h 63 (by decide) (by decide)) (by decide)⟩

/-- Each kind of register poisoned, in NORMAL and in SYSTEM mode. -/
theorem wit_PoisonRaises :
    (let s := mach { px with p := [(2, ⟨0, true⟩), (3, ⟨1, false⟩)], c := caps.c } last;
      (s.old.rx 1).psn = true ∧ (s.old.rx 2).psn = false ∧ (s.old.rp 2).psn = true ∧ (s.old.rp 3).psn = false ∧ (s.old.rc 3).psn = true) ∧
    (let s := mach { px with mode := 2 } last; (s.old.rx 1).psn = true ∧ s.regs.mode = 2) :=
  ⟨by decide, by decide⟩

/-! ### Witnesses: vectors -/

/-- v1 holds a float in lane 0 and a poisoned lane 63; the lower half of the lanes is active. -/
def vecs : Regs := { xs [31, 32] with v := [(64, ⟨0x40400000, false⟩), (127, ⟨0, true⟩)], mask := [0xFFFFFFFF] }

/-- A slot on vectors with active and inactive lanes; operands of every type class that the slots accept. -/
theorem wit_VectorArithmetic :
    Running (mach vecs last) ∧ (mach vecs last).old.active 31 = true ∧ (mach vecs last).old.active 32 = false ∧
    (∀ v ∈ [0#4, 7#4, 15#4], Instr.wf (.vadd true 2 1 1 false true v) = true) ∧ Instr.wf (.vadd true 2 1 1 false false 9) = true ∧
    (∀ v ∈ [8#4, 9#4, 10#4, 11#4], Instr.wf (.vfma true 2 1 1 false false v) = true ∧ ∃ t, eltType v = .fl t) ∧
    Instr.wf (.vabs true 2 1 true 0) = true ∧ Instr.wf (.vdiv true 2 1 1 false 4) = true ∧ Instr.wf (.vsqrt true 2 1 9) = true :=
  ⟨running _ _ rfl rfl, by decide, by decide, by decide, by decide, by
    intro v hv; simp only [List.mem_cons, List.not_mem_nil, or_false] at hv
    rcases hv with rfl | rfl | rfl | rfl <;> exact ⟨by decide, _, rfl⟩, by decide, by decide, by decide⟩

/-- Special inputs of the approximations; a conversion to a wider and to a narrower type, the last PART each, and a stochastic one. -/
theorem wit_VectorFunctions :
    Running (mach vecs last) ∧
    (let v := Fmt.f32.value; (v 0x7F800001).isNan ∧ (v 0x80000000).isZero ∧ (v 0x7F800000).isInf ∧ (v 0x7F800000).isNeg = false ∧
      (v 0xFF800000).isInf ∧ (v 0xFF800000).isNeg ∧ (v 0xBF800000).isNeg ∧ !(v 0xBF800000).isZero) ∧
    Instr.wf (.vcvt true 2 1 8 9 false 1) = true ∧ Instr.wf (.vcvt true 2 1 12 9 false 3) = true ∧
    Instr.wf (.vcvt true 2 1 12 9 true 0) = true ∧ 0 < (mach vecs last).regs.seed.length :=
  ⟨running _ _ rfl rfl, by decide, by decide, by decide, by decide, by decide⟩

/-- A compare of clean elements, and one that reads a poisoned lane that is active. -/
theorem wit_VectorLogicAndCompare :
    (let s := mach vecs last;
      Running s ∧ Instr.wf (.vcmp true true 5 1 1 false 0) = true ∧ Instr.wf (.vcmp true false 6 1 1 false 9) = true ∧
      ∀ e ∈ elements 32, ((List.range 64).any fun l => maskLane 32 e == ruling 32 l && s.old.active l) = true →
        ((s.old.elt 1 32 e).psn || (s.old.elt 1 32 e).psn) = false) ∧
    (let s := mach { vecs with mask := [] } last;
      Running s ∧ ∃ e ∈ elements 32, ((List.range 64).any fun l => maskLane 32 e == ruling 32 l && s.old.active l) = true ∧
        ((s.old.elt 1 32 e).psn || (s.old.elt 1 32 e).psn) = true) :=
  ⟨⟨running _ _ rfl rfl, by decide, by decide, by decide⟩, running _ _ rfl rfl, 63, by decide, by decide, by decide⟩

/-- An element index at the last element and past it; clean and poisoned lanes and x registers; a mask stack that is full. -/
theorem wit_VectorMoves :
    (let s := mach vecs last;
      Running s ∧ (s.old.rx 1).psn = false ∧ ((s.old.rx 1).v.toNat < 2048 / 64 ∧ ¬ (s.old.rx 2).v.toNat < 2048 / 64) ∧
      (∀ l, l < 64 → (s.old.rv 2 l).psn = false) ∧ (∃ l, l < 64 ∧ (s.old.rv 1 l).psn = true) ∧
      (∀ l, l < 64 → s.old.active l = true → (s.old.rv 1 l).psn = false) ∧ 0 < s.regs.seed.length) ∧
    (let s := mach { px with v := vecs.v, mask := List.replicate 16 1 } last;
      Running s ∧ (s.old.rx 1).psn = true ∧ s.regs.mask.length = 16) ∧
    (let s := mach { vecs with mask := [] } last; Running s ∧ ∃ l, l < 64 ∧ s.old.active l = true ∧ (s.old.rv 1 l).psn = true) :=
  ⟨⟨running _ _ rfl rfl, by decide, by decide, by decide, ⟨63, by decide⟩, by decide, by decide⟩,
    ⟨running _ _ rfl rfl, by decide, by decide⟩, running _ _ rfl rfl, 63, by decide⟩

/-- Types of each kind that the reductions and VDOT accept; a poisoned active element and none. -/
theorem wit_VectorReduce :
    Running (mach vecs last) ∧ (∀ v ∈ [0#4, 9#4, 8#4, 15#4], Instr.wf (.vredAdd true 2 1 v) = true) ∧
    ((elements 32).any fun e => (mach vecs last).old.active (maskLane 32 e) && ((mach vecs last).old.elt 1 32 e).psn) = false ∧
    (let s := mach { vecs with mask := [] } last;
      Running s ∧ ((elements 32).any fun e => s.old.active (maskLane 32 e) && (s.old.elt 1 32 e).psn) = true) ∧
    Instr.wf (.vdot true 2 1 1 false true 0) = true ∧ Instr.wf (.vdot true 2 1 1 true false 13) = true :=
  ⟨running _ _ rfl rfl, by decide, by decide, ⟨running _ _ rfl rfl, by decide⟩, by decide, by decide⟩

/-! ### Witnesses: the scratchpad -/

/-- x1: an aligned offset at the last 16 bytes, x2: one that is not aligned, x3: one past the end. -/
def offs : Regs := { xs [0xFFFF0, 0x1001, 0x100000, 4] with c := caps.c }

/-- An access at the last place of the scratchpad, a misaligned one, one out of bounds; with an immediate and with a register offset; a full
word and an empty one; whole rows of lanes in bounds. -/
theorem wit_ScratchAccesses :
    (let s := mach offs last;
      Running s ∧ offsetClean s 1 0 true ∧ offsetClean s 1 4 false ∧
      ((offsetAt s 1 0 true).toNat % 16 = 0 ∧ (scratchPlace 0 (offsetAt s 1 0 true).toNat 16).isSome = true) ∧
      (offsetAt s 2 0 true).toNat % 2 ≠ 0 ∧
      ((offsetAt s 3 0 true).toNat % 16 = 0 ∧ scratchPlace 0 (offsetAt s 3 0 true).toNat 16 = none)) ∧
    (let s := { mach offs last with tagF := [scratchAddr 0 0xFFFF0 / 4] };
      Running s ∧ s.isFull (scratchAddr 0 0xFFFF0) = true ∧ s.isFull (scratchAddr 0 0xFFFF4) = false ∧
      s.parkedOf s.cur = [] ∧ s.postedOut s.cur false = false ∧ scratchPlace 0 (offsetAt s 1 0 true).toNat 4 = some (scratchAddr 0 0xFFFF0)) ∧
    (let s := mach { xs [0xFFF00, 4, 0] with v := [(64, ⟨252, false⟩)] } last;
      Running s ∧ (s.old.rx 1).psn = false ∧ (s.old.rx 2).psn = false ∧ (2#2).toNat < 3 ∧ (s.old.rx 1).v.toNat % 256 = 0 ∧
      (scratchPlace 0 (s.old.rx 1).v.toNat 256).isSome = true ∧ (∀ l ∈ List.range 64, (s.old.rv 1 l).psn = false) ∧
      (s.old.rx 1).v = 0xFFF00 ∧ (s.old.rx 2).v.toNat = 4) ∧
    (∀ l ∈ List.range 64, (0xFFF00#64 + BitVec.ofNat 64 (4 * l)).toNat % 4 = 0 ∧
      (scratchPlace 0 (0xFFF00#64 + BitVec.ofNat 64 (4 * l)).toNat 4).isSome = true) ∧
    (0xFFF00#64 + (252#32).setWidth 64).toNat % 4 = 0 ∧ (scratchPlace 0 (0xFFF00#64 + (252#32).setWidth 64).toNat 4).isSome = true :=
  ⟨⟨running _ _ rfl rfl, ⟨by decide, by decide⟩, ⟨by decide, by decide⟩, by decide, by decide, by decide⟩,
    ⟨⟨rfl, rfl, rfl⟩, by decide, by decide, by decide, by decide, by decide⟩,
    ⟨running _ _ rfl rfl, by decide, by decide, by decide, by decide, by decide, by decide, by decide, by decide⟩, by decide, by decide⟩

/-! ### Witnesses: execution, code and CSRs -/

/-- A range with a step left and one without, with an open step and with none, the bank asked for and not; a standby that is ready and none. -/
theorem wit_StepsAndSwitch :
    (let s := mach { wrlo := 4, wrhi := 5 } last;
      Running s ∧ (s.ctx s.cur).retry = 0 ∧ (s.ctx s.cur).preempt = none ∧ s.regs.openStep = false ∧ (s.launchOf s.cur).faulted = false ∧
      s.regs.wrlo < s.regs.wrhi ∧ s.closable s.cur true = true) ∧
    (let s := mach { wrlo := 5, wrhi := 5, openStep := true } last;
      Running s ∧ s.regs.openStep = true ∧ s.closable s.cur false = true ∧ ¬ s.regs.wrlo < s.regs.wrhi ∧ (s.launchOf s.cur).untaken = 0) ∧
    (let s := (mach { wrlo := 5, wrhi := 5, openStep := true } last).modCtx 0 fun c => { c with preempt := some { at_ := 0, launch := 0, task := 1 } };
      Running s ∧ s.regs.openStep = true ∧ (s.ctx s.cur).retry = 0 ∧ s.closable s.cur false = true ∧ (s.ctx s.cur).preempt.isSome = true) ∧
    (let s := mach {} { first with todo := [{ idx := 0, word := 0, exu := .va }, { idx := 1, word := 0 }], cur := 1 };
      Running s ∧ s.closable s.cur (!s.regs.openStep) = false) ∧
    (let s := both (mach {} last); Running s ∧ (s.ctx (otherBank s.cur)).ready = true ∧ (s.core 0).active = 0 ∧
      s.launch? s.regs.launch.toNat ≠ none) ∧
    (let s := waiting (mach {} last); Running s ∧ (s.ctx (otherBank s.cur)).ready = false ∧ s.closable s.cur true = true ∧
      (s.yieldTo s.cur).isSome = true) ∧
    (mach {} last).yieldTo 0 = none :=
  ⟨⟨running _ _ rfl rfl, by decide⟩, ⟨running _ _ rfl rfl, by decide⟩, ⟨⟨rfl, rfl, rfl⟩, by decide⟩, ⟨running _ _ rfl rfl, by decide⟩,
    ⟨⟨rfl, rfl, rfl⟩, by decide⟩, ⟨⟨rfl, rfl, rfl⟩, by decide⟩, by decide⟩

/-- Cohort 0 and cohort 3, whose bits lie in HBM; both modes of CODESWAP. -/
theorem wit_CohortsAndCode :
    (let s := mach (xs [3, 0]) last;
      Running s ∧ (s.old.rx 1).psn = false ∧ ((s.old.rx 1).v + s.immZ (0#12)).toNat % 2 ^ 16 ≠ 0 ∧ ((s.old.rx 2).v + s.immZ (0#12)).toNat % 2 ^ 16 = 0 ∧
      region ((s.launchOf s.cur).cohorts + 512 * 3 + s.regs.task.toNat / 8) = .hbm ∧ s.bars = [] ∧ s.regs.mode ≠ 2) ∧
    (let s := mach { xs [0xFFFF, 7] with mode := 2 } last;
      Running s ∧ s.regs.mode = 2 ∧ (s.old.rx 1).psn = false ∧ (s.old.rx 2).psn = false ∧
      region ((s.csr 0x50010).toNat / 2 ^ 19 * 2 ^ 19 % 2 ^ 50 + 8 * ((s.old.rx 1).v.toNat % 2 ^ 16)) = .hbm) :=
  ⟨⟨running _ _ rfl rfl, by decide⟩, running _ _ rfl rfl, by decide⟩

/-- A clean source and a poisoned one; the first and the last CSR of each range; a CORE CSR that a lower slot has written, and none; an older
matrix slot, and none; an image that holds a slot of S. -/
theorem wit_ControlRegisters :
    (Running (mach (xs [1]) last) ∧ ((mach (xs [1]) last).old.rx 1).psn = false ∧ ((mach (xs [1]) last).ctx 0).issue.flags = 0) ∧
    (Running (mach px last) ∧ ((mach px last).old.rx 1).psn = true) ∧
    (let s := mach {} { last with coreOld := [(0x101, 5), (0x17F, 6)] };
      Running s ∧ (s.ctx 0).issue.coreOld.find (0x101 : BitVec 12).toNat = some 5 ∧ (s.ctx 0).issue.coreOld.find (0x17F : BitVec 12).toNat = some 6 ∧
      ((mach {} last).ctx 0).issue.coreOld = []) ∧
    (let c := (mach (xs [1]) last).ctx 0; c.older = [] ∧ (∀ q ∈ c.issue.todo, q.exu = .mx → c.issue.cur ≤ q.idx) ∧ (mach (xs [1]) last).cmds = []) ∧
    (let s := mach (xs [1]) { first with todo := [{ idx := 0, word := 0, exu := .mx }, { idx := 1, word := 0 }], cur := 1 }; let c := s.ctx 0;
      Running s ∧ ¬ ∀ q ∈ c.issue.todo, q.exu = .mx → c.issue.cur ≤ q.idx) ∧
    (let s := handler; (s.ctx 0).img1 = some image ∧ ∃ q ∈ image.issue.todo, q.exu = .s) ∧
    (∀ n ∈ [0x11, 0x3E], 0x11 ≤ (BitVec.ofNat 12 n).toNat ∧ (BitVec.ofNat 12 n).toNat < 0x3F) ∧
    (∀ n ∈ [0x108, 0x10F], 0x108 ≤ (BitVec.ofNat 12 n).toNat ∧ (BitVec.ofNat 12 n).toNat < 0x110) ∧
    (∀ n ∈ [0x110, 0x12B], 0x110 ≤ (BitVec.ofNat 12 n).toNat ∧ (BitVec.ofNat 12 n).toNat < 0x12C) ∧
    (∀ n ∈ [0x140, 0x147], 0x140 ≤ (BitVec.ofNat 12 n).toNat ∧ (BitVec.ofNat 12 n).toNat < 0x148) :=
  ⟨⟨running _ _ rfl rfl, by decide⟩, ⟨running _ _ rfl rfl, by decide⟩, ⟨running _ _ rfl rfl, by decide⟩, by decide,
    ⟨running _ _ rfl rfl, by decide⟩, ⟨rfl, by decide⟩, by decide⟩

/-- f1 bound to endpoint 5 of this device, f2 to endpoint 6, f0 not bound; endpoint 5 holds a word, 6 one with EOS, 7 none. -/
def links : Regs := { xs [7] with f := [(1, { valid := true, endp := 5 }), (2, { valid := true, endp := 6 }), (3, { valid := true, endp := 7 })] }

/-- Links bound and unbound, with no word and with one in flight; endpoints with a word, with an EOS word and empty. -/
theorem wit_FifosAndQueues :
    (let s := { mapped (mach links last) with fifos := [(5, [(⟨1, false⟩, false)]), (6, [(⟨2, false⟩, true)])], mem := [(0xFF7, 0x80)] };
      Running s ∧ (s.old.rx 1).psn = false ∧ ¬ (∃ r ∈ s.reqs, r.owner = Owner.link (s.ctx s.cur).inc 1) ∧
      (s.regs.rf 0).valid = false ∧ (s.regs.rf 1).valid = true ∧ (s.regs.rf 1).peer.toNat = s.peer ∧ s.roomFor 0 false 0 = true ∧
      (s.reqs.filter fun r => r.owner = Owner.link (s.ctx s.cur).inc 1).length < 64 ∧
      s.fifos.get [] (s.regs.rf 1).endp.toNat = [(⟨1, false⟩, false)] ∧ s.fifos.get [] (s.regs.rf 2).endp.toNat = [(⟨2, false⟩, true)] ∧
      s.fifos.get [] (s.regs.rf 3).endp.toNat = []) ∧
    (let s := { mach links last with reqs := [{ owner := .link 1 1, addr := 0, act := .fifo 5 false ⟨0, false⟩ }] };
      Running s ∧ ∃ r ∈ s.reqs, r.owner = Owner.link (s.ctx s.cur).inc 1) :=
  ⟨⟨⟨rfl, rfl, rfl⟩, by decide, by decide, by decide, by decide, by decide, by decide, by decide, by decide, by decide⟩,
    ⟨rfl, rfl, rfl⟩, by decide⟩

/-! ### Witnesses: global memory -/

/-- c1: 64 KiB at 0x20000 with all rights, c2: the same without A, c3: the first page of the SBM. h1: the page at 0x20000, h2: the same without
rights. x1: an offset of 0xFFF8, x2: one of 0xFFF9, x3: 128, x5: 1. -/
def glob : Regs := { xs [0xFFF8, 0xFFF9, 128, 0, 1] with
  c := [(1, Cap.make 0x20000 0x10000 0x7F 0 true), (2, Cap.make 0x20000 0x10000 0x77 0 true), (3, Cap.make 0x40000000 0x10000 0x7F 0 true)]
  h := [(1, { st := .valid, page := 0x20000, leaf := 0x2881F }), (2, { st := .valid, page := 0x20000, leaf := 0x20003 })]
  mask := [0b101] }
/-- The entry of the TLB for the first GiB, and one for the first page of the SBM. -/
def entry : TlbEntry := { asid := 0, page := 0, size := 2, leaf := 0x881F }
def entrySbm : TlbEntry := { asid := 0, page := 0x40000000, size := 0, leaf := BitVec.ofNat 64 (sbmBase + 0x881F) }
def globe : State := { mapped (mach glob last) with tlbs := [(0, [entry, entrySbm])] }

/-- The last doubleword of a handle's page, one that leaves the page, one that is not aligned, a page without rights; two active lanes at the
capability's base, and none. -/
theorem wit_GlobalAccess :
    (let s := globe; let h := s.old.rh 1; let q := fun o : Word64 => physical h.leaf h.size (h.page + o).toNat;
      Running s ∧ h.st = .valid ∧ (s.old.rx 1).psn = false ∧ (s.old.rx 2).psn = false ∧
      ((s.old.rx 1).v.toNat + 8 ≤ pageBytes h.size ∧ ¬ (s.old.rx 2).v.toNat + 8 ≤ pageBytes h.size) ∧ (s.old.rx 2).v.toNat % 2 ≠ 0 ∧
      q (s.old.rx 1).v / 2 ^ 50 = s.peer ∧ region (q (s.old.rx 1).v % 2 ^ 50) = .hbm ∧
      region (q (s.old.rx 1).v % 2 ^ 50 + 7) = .hbm ∧ s.parkedOf s.cur = [] ∧ (s.core 0).replay.length < 16 ∧ leafR h.leaf = true ∧ leafW h.leaf = true ∧ leafPz h.leaf = true ∧
      leafCow h.leaf = false ∧ (s.ctx s.cur).wc = [] ∧ s.postedOut s.cur true = false ∧
      (s.old.rh 2).st = .valid ∧ leafR (s.old.rh 2).leaf = false ∧ leafW (s.old.rh 2).leaf = false) ∧
    (let s := globe; let cap := s.old.rc 1;
      Running s ∧ (List.range 64).filter s.old.active = [0, 2] ∧ cap.psn = false ∧ s.parkedOf s.cur = [] ∧ (s.core 0).replay.length < 16 ∧ (s.old.rx 4).psn = false ∧
      (∀ l ∈ [0, 2], (s.old.rv 1 l).psn = false) ∧ cap.check 0x20000 12 permR = none ∧ cap.check 0x20000 12 permW = none ∧
      canonical 0x20000 = true ∧ (s.tlb 0).find? (fun e => e.maps 0 0x20000) = some entry ∧ physical entry.leaf entry.size 0x20000 = 0x20000 ∧
      region 0x20000 = .hbm ∧ leafR entry.leaf = true ∧ leafW entry.leaf = true ∧ leafCow entry.leaf = false ∧ leafPz entry.leaf = true ∧
      s.psn = [] ∧ (s.core 0).l1 = []) ∧
    (let s := mach { glob with mask := [0] } last; Running s ∧ (List.range 64).filter s.old.active = [] ∧ (s.old.rc 1).psn = false) :=
  ⟨⟨⟨rfl, rfl, rfl⟩, by decide⟩, ⟨⟨rfl, rfl, rfl⟩, by decide⟩, running _ _ rfl rfl, by decide⟩

/-- A doubleword that the capability covers with A and one without; an ATOMX that asks, and one whose answer is there. -/
theorem wit_AtomicForms :
    (let s := globe;
      Running s ∧ (s.old.rx 3).psn = false ∧ (s.old.rx 4).psn = false ∧ (s.old.rx 5).psn = false ∧ (s.old.rc 1).psn = false ∧
      ((s.old.rc 1).base + (s.old.rx 3).v.toNat) % 2 ^ 64 = 0x20080 ∧ (s.old.rc 1).check 0x20080 8 permA = none ∧
      (s.old.rc 2).check 0x20080 8 permA = some (0x12, 0x20080) ∧ (s.tlb 0).find? (fun e => e.maps 0 0x20080) = some entry ∧
      region (physical entry.leaf entry.size 0x20080 % 2 ^ 50) = .hbm ∧ s.parkedOf s.cur = [] ∧ (s.ctx s.cur).wc = [] ∧
      s.postedOut s.cur true = false ∧ (s.core 0).replay.length < 16 ∧ s.reqs = []) ∧
    (let s := { globe with reqs := [{ owner := .slot 0 0, addr := 0x20080, act := .charm 3 0 1 0, ans := some (.data (toBytes 8 9 false)) }] };
      Running s ∧ (s.old.rx 4).v = 0 ∧ (s.old.rx 5).v = 1 ∧ (toBytes 8 9 false).length = 8 ∧
      (s.reqs.find? fun q => decide (q.owner = s.me)).map (·.ix) = some 0) :=
  ⟨⟨⟨rfl, rfl, rfl⟩, by decide⟩, ⟨rfl, rfl, rfl⟩, by decide⟩

/-- A whole line of the SBM, and a word of HBM; ranges of 0 bytes, of a line and of a part of one. -/
theorem wit_BanksAndCaches :
    (let s := globe;
      Running s ∧ (s.old.rc 3).psn = false ∧ ((s.old.rc 3).base + (s.old.rx 4).v.toNat) % 2 ^ 64 = 0x40000000 ∧ 0x40000000 % 128 + 4 * (31 + 1) ≤ 128 ∧
      (s.old.rc 3).check 0x40000000 128 permA = none ∧ (s.tlb 0).find? (fun e => e.maps 0 0x40000000) = some entrySbm ∧
      region (physical entrySbm.leaf entrySbm.size 0x40000000 % 2 ^ 50) = .sbm ∧ leafR entrySbm.leaf = true ∧ leafW entrySbm.leaf = true ∧
      leafCow entrySbm.leaf = false ∧ s.parkedOf s.cur = [] ∧ (s.core 0).replay.length < 16 ∧ (s.old.rc 1).check 0x20000 128 permA = none ∧ (s.tlb 0).find? (fun e => e.maps 0 0x20000) = some entry ∧
      region (physical entry.leaf entry.size 0x20000 % 2 ^ 50) = .hbm) ∧
    (let s := globe;
      Running s ∧ s.parkedOf s.cur = [] ∧ (s.ctx s.cur).wc = [] ∧ s.postedOut s.cur true = false ∧
      ((s.old.rx 4).v.toNat = 0 ∧ (s.old.rx 3).v.toNat % 128 = 0 ∧ 0 < (s.old.rx 3).v.toNat ∧ (s.old.rx 1).v.toNat % 128 ≠ 0) ∧
      0x20000 % 0x10000 + (s.old.rx 3).v.toNat ≤ 0x10000 ∧ leafMs entry.leaf = false ∧ leafCow entry.leaf = false ∧
      s.copying (s.launchOf s.cur).asid 0x20000 = false ∧ (s.old.rc 1).check 0x20000 128 permR = none ∧ (s.old.rc 1).check 0x20000 128 permW = none) :=
  ⟨⟨⟨rfl, rfl, rfl⟩, by decide⟩, ⟨rfl, rfl, rfl⟩, by decide⟩

/-! ### Witnesses: the matrix unit and the engines -/

theorem idle (r : Regs) (i : Issue) : Idle (mach r i) := by intro c h; simp [mach] at h
theorem unhindered_of (s : State) (h : s.cmds = [] ∧ s.ctxOf (s.ctx s.cur).inc = some s.cur ∧ (∀ t ∈ s.slot.deps, (s.ctx s.cur).satisfied t = true) ∧
    (s.core (s.cur / 2)).board = [] ∧ (s.ctx s.cur).older = [] ∧
    (∀ q ∈ (s.ctx s.cur).issue.todo, q.idx < (s.ctx s.cur).issue.cur → q.scratch = none ∧ q.exu ≠ .va) ∧
    (s.ctx s.cur).younger = [] ∧ (s.ctx s.cur).img1 = none ∧ (s.ctx s.cur).img2 = none) : Unhindered s := by
  obtain ⟨h0, h1, h2, h3, h4, h5, h6, h7, h8⟩ := h
  exact ⟨by simp [Idle, h0], h1, h2, h3, by simp [h4], h5, by simp [h6], by simp [h7, h8]⟩
theorem unhindered (r : Regs) (s : State) (hx : s.ctxs = (mach r last).ctxs := by rfl) (hc : s.cmds = [] := by rfl) (hb : s.cores = [] := by rfl)
    (hk : s.cur = 0 := by rfl) : Unhindered s := by
  have e : s.ctx s.cur = (mach r last).ctx 0 := by simp only [State.ctx, hx, hk]
  refine unhindered_of s ⟨hc, ?_, ?_, by simp [State.core, hb]; rfl, by rw [e]; rfl, ?_, by rw [e]; rfl, by rw [e]; rfl, by rw [e]; rfl⟩
  · rw [e, hk, State.ctxOf, hx]; rfl
  · intro t h
    have : s.slot.deps = [] := by rw [State.slot, e]; rfl
    simp [this] at h
  · rw [e]; intro q _ h
    exact absurd h (Nat.not_lt_zero _)
/-- Operands at 0 and at 0x80000, their pitches 32 and 128; a misaligned one; a block-scaled format and one that is staged. -/
theorem wit_MatrixMultiply :
    (let s := mach { xs [0, 0x80000, 1] with nactive := [(3, 32 + 128 * 2 ^ 20), (4, 0x90000 + 0xA0000 * 2 ^ 24)] } last;
      Running s ∧ Idle s ∧ (s.old.rx 1).psn = false ∧ (s.old.rx 2).psn = false ∧ (s.old.rx 3).psn = false ∧ (s.old.rx 3).v.toNat % 32 ≠ 0 ∧
      ((5#3).toNat < 6 ∧ ¬ (6#3).toNat < 6 ∧ (2#3).toNat < 3) ∧
      (s.regs.nactive.get 0 3).toNat % 2 ^ 20 = 32 ∧ (s.regs.nactive.get 0 3).toNat / 2 ^ 20 % 2 ^ 20 = 128 ∧
      (scratchPlace 0 0 (127 * 32 + 32)).isSome = true ∧ (scratchPlace 0 0x80000 (31 * 128 + 128)).isSome = true ∧
      (scratchPlace 0 ((s.regs.nactive.get 0 4).toNat % 2 ^ 24) 128).isSome = true ∧
      (scratchPlace 0 ((s.regs.nactive.get 0 4).toNat / 2 ^ 24 % 2 ^ 24) 128).isSome = true ∧ 0 + (31 * 128 + 128) ≤ 65536) :=
  ⟨running _ _ rfl rfl, idle _ _, by decide⟩

/-- A valid nest of one level with one iteration (DEPTH 1, format s8), as the shadow copy. -/
def nest : Regs := { xs [0x20000, 0] with
  nshadow := [(0, 3 + 64), (2, 0x80000), (3, 32 + 128 * 2 ^ 20), (0x10, 2 ^ 32)], c := [(1, Cap.make 0x20000 0x40000 0x7F 0 true)] }

/-- A slot of the MX queue that S has given a token of channel 8. -/
def given : State :=
  (mach {} { last with todo := [{ idx := 0, word := 0, exu := .mx, tok := some 0x20000000 }] }).modCtx 0 fun c => { c with chans := [(8, { next := 1 })] }
theorem given_free : Unhindered given := 
  unhindered_of _ ⟨rfl, rfl, fun t h => absurd (show t ∈ ([] : List (BitVec 32)) from h) (List.not_mem_nil), rfl, rfl,
    fun _ _ h => absurd h (Nat.not_lt_zero _), rfl, rfl, rfl⟩
/-- Every index of a nest register, clean and poisoned; a shadow copy that is valid, and one that is not, with room in the log, a token given
and none; a nest that runs. -/
theorem wit_NestsOfLoops :
    (Running (mach (xs [1]) last) ∧ Idle (mach (xs [1]) last) ∧ ((mach (xs [1]) last).old.rx 1).psn = false ∧
      ∀ i ∈ [0#6, 6#6, 0x10#6, 0x26#6], i.toNat < 7 ∨ (0x10 ≤ i.toNat ∧ i.toNat < 0x28 ∧ i.toNat % 4 ≠ 3)) ∧
    (Running (mach px last) ∧ Idle (mach px last) ∧ ((mach px last).old.rx 1).psn = true) ∧
    (let s := mach nest last; let n : Nest := fun i => s.regs.nshadow.get 0 i;
      Running s ∧ Unhindered s ∧ Room s 8 1 ∧ s.slot.tok = none ∧ n.valid 0 false = true ∧ ngoCheck true 1 2 s = .ok (none, s)) ∧
    (let s := mach {} last; let n : Nest := fun i => s.regs.nshadow.get 0 i;
      Running s ∧ Unhindered s ∧ Room s 8 1 ∧ s.slot.tok = none ∧ n.valid 0 false = false ∧ ((s.ctx s.cur).chan 8).log.length < 4) ∧
    (let s := given; Running s ∧ Unhindered s ∧ s.slot.tok = some 0x20000000 ∧ (s.ctx s.cur).satisfied 0x20000000 = false ∧ ((s.ctx s.cur).chan 8).log.length < 4) ∧
    (let s := { mach nest last with cmds := [{ id := 0, inc := 1, launch := 0, task := 0, ctx := 0, asid := 0, token := 0x20000000, unit := .nest, op := .nest false, phase := .running }] };
      Running s ∧ ∃ c ∈ s.cmds, c.unit = .nest ∧ c.ctx / 2 = 0 ∧ c.phase ≠ .queued) :=
  ⟨⟨running _ _ rfl rfl, idle _ _, by decide, by decide⟩, ⟨running _ _ rfl rfl, idle _ _, by decide⟩,
    ⟨running _ _ rfl rfl, unhindered nest _, by unfold Room; decide, rfl, by decide, rfl⟩,
    ⟨running _ _ rfl rfl, unhindered {} _, by unfold Room; decide, by decide⟩,
    ⟨⟨rfl, rfl, rfl⟩, given_free, by decide⟩, ⟨rfl, rfl, rfl⟩, by decide⟩

/-- The entry of the TLB on a page with COW. -/
def cowEntry : TlbEntry := { entry with leaf := 0x981F }
/-- A row index, clean and poisoned; aligned sources and destinations of a broadcast, the last KiB, and one past it; a tile at the capability's
base, and a misaligned one; the same with COW set and no copy that may start. -/
theorem wit_AccumulatorsAndMerges :
    (let s := mach { xs [0xFFC00, 0x03FC00, 1, 0xFFC20] with mask := [0b101] } last;
      Running s ∧ Idle s ∧ Unhindered s ∧ Room s 8 1 ∧ (s.old.rx 1).psn = false ∧ (s.old.rx 2).psn = false ∧
      ((s.old.rx 1).v.toNat % 32 = 0 ∧ (s.old.rx 1).v.toNat + 1024 ≤ 2 ^ 20 ∧ 2 ^ 20 < (s.old.rx 4).v.toNat + 1024 ∧ (s.old.rx 4).v.toNat % 32 = 0 ∧
        (s.old.rx 3).v.toNat % 32 ≠ 0) ∧
      (s.old.rx 2).v.toNat < 2 ^ 24 ∧ (s.old.rx 2).v.toNat % 2 ^ 16 + 1024 ≤ 65536 ∧ (s.old.rx 2).v.toNat % 2 ^ 16 % 32 = 0) ∧
    (Running (mach px last) ∧ ((mach px last).old.rx 1).psn = true) ∧
    (let s := { mapped (mach { nest with x := [(1, ⟨0, false⟩), (2, ⟨1, false⟩)] } last) with tlbs := [(0, [entry])] };
      Running s ∧ Unhindered s ∧ Room s 16 1 ∧ s.cowLine = [] ∧ (s.old.rc 1).psn = false ∧ (s.old.rx 1).psn = false ∧ (s.old.rc 1).check 0x20000 65536 permW = none ∧
      (s.old.rc 1).check 0x20001 65536 permW = none ∧ 0x20000 % 128 = 0 ∧ 0x20001 % 128 ≠ 0 ∧ canonical 0x20000 = true ∧ canonical (0x20000 + 65535) = true ∧
      (s.tlb 0).find? (fun e => e.maps 0 0x20000) = some entry ∧ (s.tlb 0).find? (fun e => e.maps 0 (0x20000 + 65535)) = some entry ∧
      leafW entry.leaf = true ∧ leafCow entry.leaf = false ∧ s.inHbm (physical entry.leaf entry.size 0x20000) = true ∧
      s.inHbm (physical entry.leaf entry.size (0x20000 + 65535)) = true ∧ (s.immZ (31#5)).toNat < 65536 ∧ (s.immZ (3#2)).toNat < 65536) ∧
    (let s := { mapped (mach { nest with x := [(1, ⟨0, false⟩), (2, ⟨1, false⟩)] } last) with tlbs := [(0, [cowEntry])] };
      Running s ∧ Unhindered s ∧ Room s 16 1 ∧ s.cowLine = [] ∧ (s.old.rc 1).check 0x20000 65536 permW = none ∧
      (∀ u ∈ [0x20000, 0x20000 + 65535], (s.tlb 0).find? (fun e => e.maps 0 u) = some cowEntry ∧ s.inHbm (physical cowEntry.leaf cowEntry.size u) = true) ∧
      leafW cowEntry.leaf = true ∧ leafCow cowEntry.leaf = true ∧ s.poolReady = false ∧ s.copying 0 0x20000 = false ∧
      s.cowWant.contains (0, 2) = false) :=
  ⟨⟨running _ _ rfl rfl, idle _ _, unhindered _ _, by unfold Room; decide, by decide⟩, ⟨running _ _ rfl rfl, by decide⟩,
    ⟨⟨rfl, rfl, rfl⟩, unhindered { nest with x := [(1, ⟨0, false⟩), (2, ⟨1, false⟩)] } _, by unfold Room; decide, by decide⟩, ⟨rfl, rfl, rfl⟩,
    unhindered { nest with x := [(1, ⟨0, false⟩), (2, ⟨1, false⟩)] } _, by unfold Room; decide, by decide⟩

/-- c1 and x33: flat operands of 4 KiB; c2: untagged; c3: a pool. -/
def copies : Regs := { mask := [], x := [(1, ⟨0x100, false⟩), (2, ⟨0, false⟩), (3, ⟨0x400, false⟩), (4, ⟨0x30000, false⟩), (33, ⟨0x10000000004000, false⟩)]
                       c := [(1, Cap.make 0x20000 0x1000 0x7F 0 true), (2, Cap.make 0x20000 0x1000 0x7F 0 false),
                         (3, Cap.make 0x20000 0x12000 0x7F 0 true), (4, Cap.make 0x20008 0x1000 0x7F 0 true)] }
/-- In the scratchpad at 0x100 the descriptor of a collective with one dimension of 16 elements on one axis of one device, its participant list at
0x200. -/
def engine : State := { mapped (mach copies last) with
  tlbs := [(0, [entry])]
  mem := [(0x104, 1), (0x105, 1), (0x106, 1), (0x108, 1), (0x110, 16), (0x131, 2)].map fun e => (scratchAddr 0 e.1, e.2) }

/-- Flat operands of one length and an untagged one; a route to this device and none to others; a send channel with a group open and without; a
valid descriptor and one that is not; the bounds of the tree and qubit forms. -/
theorem wit_EngineIssue :
    (let s := engine; let x := s.old.rx 33;
      Running s ∧ Room s 0 1 ∧ s.cmds = [] ∧ (s.old.rc 1).psn = false ∧ (s.old.rc 1).tag = true ∧ (s.old.rc 1).shape = 0 ∧ (s.old.rc 1).len = 0x1000 ∧
      (s.old.rc 1).check 0x20000 0x1000 (permR ||| permCP) = none ∧ (s.old.rc 1).check 0x20000 0x1000 (permW ||| permCP) = none ∧ x.psn = false ∧
      x.v.toNat = x.v.toNat % 2 ^ 24 + 0x1000 * 2 ^ 40 ∧ (scratchPlace 0 (x.v.toNat % 2 ^ 24) 0x1000).isSome = true ∧ (s.old.rc 2).tag = false) ∧
    (let s := engine;
      Room s 9 1 ∧ Room s 17 1 ∧ (s.old.rx 1).psn = false ∧ (s.old.rc 4).psn = false ∧ (s.old.rc 4).base % 16 ≠ 0 ∧ (s.old.rc 1).base % 16 = 0 ∧
      (s.old.rx 1).v.toNat % 16 = 0 ∧ (s.old.rc 1).check 0x20000 256 permW = none ∧ (scratchPlace 0 0x100 256).isSome = true ∧
      s.regs.qmode.getLsbD 12 = false ∧ Room s 17 1 ∧ (s.old.rx 2).v.toNat % 2 ^ 14 = s.peer ∧ s.routed 0 = false) ∧
    (let s := { mach { copies with qmode := 0x1000 } last with dev := [(0x80000, 0x8000), (0x200800, 0x8000000000000000)] };
      Running s ∧ Room s 17 1 ∧ s.regs.qmode.getLsbD 12 = true ∧ s.regs.qmode.getLsbD 13 = false ∧
      s.routed ((s.old.rx 1).v.toNat % 2 ^ 14) = true) ∧
    (let s := engine; let ds := s.peekN (scratchAddr 0 0x100) 64; let q := scratchAddr 0 0x200;
      Room s 15 3 ∧ (s.old.rc 3).psn = false ∧ (s.old.rc 4).psn = false ∧ (s.old.rx 1).v.toNat % 16 = 0 ∧
      scratchPlace 0 (s.old.rx 1).v.toNat 64 = some (scratchAddr 0 0x100) ∧ poisonedAt s (scratchAddr 0 0x100) 64 = false ∧
      fieldOf ds 0x30 4 = 0x200 ∧ scratchPlace 0 0x200 2 = some q ∧ poisonedAt s q 2 = false ∧ fieldOf ds 6 2 = 1 ∧
      s.collMembers (s.launchOf 0) 0 = [0] ∧ s.regs.task.toNat = 0 ∧ collValid ds [0] s.peer 1 = true ∧
      collValid (s.peekN (scratchAddr 0 0x400) 64) [] s.peer 1 = false ∧ (s.old.rc 3).check 0x20000 64 permR = none ∧
      (s.old.rc 4).check 0x20008 64 permW = none) ∧
    (let s := engine;
      Room s 13 1 ∧ (s.old.rc 4).base % 128 ≠ 0 ∧ (s.old.rc 3).base % 128 = 0 ∧ (s.old.rc 3).check 0x20000 0x12000 (permR ||| permW ||| permA) = none ∧
      (s.old.rx 2).psn = false ∧ (s.old.rx 2).v.toNat / 2 ^ 16 % 2 ^ 16 = 0 ∧ 0 < (s.old.rx 4).v.toNat / 2 ^ 16 % 2 ^ 16 ∧
      (scratchPlace 0 (s.old.rx 2).v.toNat 32).isSome = true ∧ (scratchPlace 0 (s.old.rx 3).v.toNat 12).isSome = true) ∧
    (let s := engine; Room s 14 1 ∧ (s.old.rx 1).psn = false ∧ (s.old.rc 1).psn = false ∧ (s.old.rc 1).tag = true) ∧
    (let s := { engine with cmds := List.replicate 16 { id := 0, inc := 9, launch := 0, task := 0, ctx := 9, asid := 0, token := 0, unit := .age, op := .qbmapEnd } };
      Running s ∧ Room s 14 1 ∧ 16 ≤ (s.cmds.filter fun e => e.unit = .age ∧ e.phase = .queued).length) :=
  ⟨⟨⟨rfl, rfl, rfl⟩, by unfold Room; decide, by decide⟩, ⟨by unfold Room; decide, by unfold Room; decide, by decide, by decide, by decide, by decide, by decide, by decide, by decide,
      by decide, by unfold Room; decide, by decide⟩,
    ⟨⟨rfl, rfl, rfl⟩, by unfold Room; decide, by decide⟩, ⟨by unfold Room; decide, by decide⟩, ⟨by unfold Room; decide, by decide⟩,
    ⟨by unfold Room; decide, by decide⟩, ⟨rfl, rfl, rfl⟩, by unfold Room; decide, by decide⟩

/-- A barrier object of cohort 0 at 0x20000, with two arrivals to come and phase 1; a failed and a pending token on channel 8. -/
def barrier : State := { mapped (mach { copies with t := [(1, ⟨0x20000000, false⟩), (2, ⟨0, true⟩)] } last) with
  tlbs := [(0, [entry])]
  mem := [(0x20003, 1), (0x20004, 2), (0x20008, 1), (0x20040, 1)]
  bars := [{ pa := 0x20000, launch := 0, cohort := 0 }] }

/-- Tokens satisfied, not satisfied and poisoned; a counter at its threshold and above; a barrier that is set up and one that is not, phases below and
at the one waited for; a free trigger and none; every queue number of QSTAT. -/
theorem wit_CountersAndBarriers :
    (let s := barrier.modCtx 0 fun c => { c with chans := [(8, { next := 1, log := [(0, 0x21)] })] };
      let x := (s.ctx s.cur).chan 8; let seq := (s.old.rt 1).v.extractLsb' 0 26;
      Running s ∧ (s.old.rt 1).v.toNat / 2 ^ 26 = 8 ∧ (s.old.rt 1).psn = false ∧ (seq - x.w).toNat < (x.next - x.w).toNat ∧ x.next ≠ x.w ∧
      (s.old.rt 2).psn = true ∧ ((s.ctx s.cur).chan 9).next = ((s.ctx s.cur).chan 9).w) ∧
    (let s := (mach copies { last with nexts := [(8, 1)] }).modCtx 0 fun c => { c with chans := [(8, { next := 2 }), (9, { next := 1, w := 1 })] };
      let c := s.ctx s.cur; let y := c.chan 8;
      Running s ∧ ¬ (c.issue.nexts.get 0 8 = y.w ∨ (y.next - y.w).toNat < (c.issue.nexts.get 0 8 - y.w).toNat) ∧
      (0 : BitVec 26) ≠ (c.chan 9).w ∧ ((c.chan 9).next - (c.chan 9).w).toNat < ((c.issue.nexts.get 0 9) - (c.chan 9).w).toNat) ∧
    (let s := { mach copies last with reqs := [{ owner := .slot 0 1, addr := 0, act := .read 8 }] };
      Running s ∧ (s.old.rx 2).psn = false ∧ ((s.old.rx 2).v + s.immZ (0#6)).toNat = 0 ∧ ((s.old.rx 2).v + s.immZ (1#6)).toNat = 1 ∧
      (s.reqs.filter fun r => r.ans.isNone && (match r.owner with
        | .slot k n => decide (k = s.cur ∧ n ≠ 40) | .posted i => decide (i = (s.ctx s.cur).inc) | _ => false)).length = 1) ∧
    (let s := barrier; let cap := s.old.rc 3;
      Running s ∧ cap.psn = false ∧ cap.base % 1024 = 0 ∧ cap.check cap.base 1024 (permR ||| permW ||| permA) = none ∧ canonical cap.base = true ∧ s.cowLine = [] ∧
      (s.tlb 0).find? (fun e => e.maps 0 cap.base) = some entry ∧ physical entry.leaf entry.size cap.base = 0x20000 ∧ region 0x20000 = .hbm ∧
      leafMs entry.leaf = false ∧ s.parkedOf s.cur = [] ∧ s.postedOut s.cur false = false ∧ (s.ctx s.cur).wc = [] ∧
      (s.peek 0x20003).v.getLsbD 0 = true ∧ numberAt s 0x20018 2 = (s.launchOf s.cur).num ∧ numberAt s 0x20000 2 = 0 ∧
      s.member (s.launchOf s.cur) 0 0 = true ∧ (s.peek 0x20040).v.getLsbD 0 = true ∧ (s.bar? 0x20000).isSome = true ∧ numberAt s 0x20004 4 = 2 ∧
      numberAt s 0x20010 8 = 0 ∧ (s.old.rt 1).psn = false ∧ (s.ctx s.cur).satisfied (s.old.rt 1).v = true ∧
      ((s.old.rx 2).v.toNat < numberAt s 0x20008 8 ∧ numberAt s 0x20008 8 ≤ (s.old.rx 1).v.toNat)) ∧
    (let s := engine; let l := s.launchOf s.cur;
      Running s ∧ (s.old.rx 2).v.toNat / 2 ^ 16 % 8 < 5 ∧ (s.peek 0x20003).v.getLsbD 0 = false ∧ s.bars.length < 1024 ∧ l.count ≤ 4096 ∧ l.count = 1 ∧
      cohortByte l 0 0 < 0x20000) ∧
    (let s := engine; let cap := s.old.rc 1; let p := scratchAddr 0 0x400;
      Running s ∧ s.trigs = [] ∧ (s.old.rx 3).v.toNat % 16 = 0 ∧ scratchPlace 0 (s.old.rx 3).v.toNat 32 = some p ∧ poisonedAt s p 32 = false ∧
      numberAt s (p + 0x19) 1 ≤ 1 ∧ numberAt s (p + 0x1A) 6 = 0 ∧ (cap.base + numberAt s (p + 0x10) 8) % 2 ^ 64 = 0x20000 ∧
      cap.check 0x20000 8 permW = none ∧ numberAt s (p + 0x18) 1 = 0 ∧ numberAt s p 8 ≤ s.gt / 2 ^ 16) ∧
    (∀ f : Nat, f < 8 → ∃ i : BitVec 6, i.toNat = 24 + f) :=
  ⟨⟨⟨rfl, rfl, rfl⟩, by decide⟩, ⟨⟨rfl, rfl, rfl⟩, by decide⟩, ⟨⟨rfl, rfl, rfl⟩, by decide⟩, ⟨⟨rfl, rfl, rfl⟩, by decide⟩, ⟨⟨rfl, rfl, rfl⟩, by decide⟩,
    ⟨⟨rfl, rfl, rfl⟩, by decide⟩, fun f h => ⟨BitVec.ofNat 6 (24 + f), by simp; omega⟩⟩

/-! ### Witnesses: dispatch and memory events -/

/-- A second context of launch 0, in bank 0 of core 1, with a range of its own; the first waits for steps. -/
def thief : State :=
  { mach {} last with ctxs := [(0, { occ := .resident, inc := 1, retry := 1 }), (2, { occ := .resident, inc := 2, regs := { wrlo := 5, wrhi := 8 } })] }
/-- Every column at its threshold; context 0 runs at priority 3, an entry of priority 0 waits. -/
def crowded : State :=
  { waiting (mach { prio := 3 } last) with dev := (List.range 16).map fun i => (0x50100 + 8 * i, 0) }

/-- A waiting thief and one that does not wait, a victim with 3 steps; a column with a bank free and one at its threshold; an entry that wants a bank;
a context asked to leave and quiet; a save that is written. -/
theorem wit_Dispatching :
    (let s := thief; let c := s.ctx 0; let w := s.ctx 2;
      (c.occ = .resident ∧ c.retry ≠ 0 ∧ ¬ c.regs.wrlo < c.regs.wrhi) ∧ (2 : Nat) ≠ 0 ∧ w.occ = .resident ∧ w.regs.launch = c.regs.launch ∧
      w.regs.wrlo < w.regs.wrhi ∧ 2 ≤ (w.regs.wrhi - w.regs.wrlo).toNat ∧ s.gt < c.retry ∧ c.retry ≤ ({ s with gt := 1 } : State).gt ∧
      w.retry = 0) ∧
    (let s := waiting (mach {} last);
      s.reserved 0 = none ∧ s.occupancy 0 < s.threshold 0 ∧ s.firstFree 0 = some 1 ∧
      (s.pick 0).map (fun x => (x.1.saved, (s.launch? x.1.launch).isSome)) = some (none, true)) ∧
    (crowded.reserved 0 = none ∧ crowded.threshold 0 ≤ crowded.occupancy 0) ∧
    ((crowded.wants 0).map (·.2) = some 0 ∧ crowded.wants 1 = none) ∧
    (let s := { crowded.modCtx 0 fun c => { c with preempt := some { at_ := 0, launch := 0, task := 1 } } with gt := 50 * 65536000 };
      let c := s.ctx 0;
      (∃ r, c.preempt = some r ∧ r.at_ + s.grace * 65536000 ≤ s.gt) ∧ c.occ = .resident ∧ c.halt = 0 ∧ s.quiet 0 = true) ∧
    (let s := { crowded with saving := [{ ctx := 0, entry := { launch := 0, task := 0, prio := 3, arrival := 0, since := 0 } }] };
      ∃ v l, s.saving.find? (fun v => v.ctx = 0) = some v ∧ s.launch? v.entry.launch = some l ∧ l.faulted = false ∧ v.wanted = none) :=
  ⟨by decide, by decide, by decide, by decide, ⟨⟨_, rfl, by decide⟩, by decide⟩, _, _, rfl, rfl, by decide⟩

/-- Handles pending: with the leaf of the TLB, without it for a page of the TLB, and for an address that is not canonical; a parked store. -/
theorem wit_TranslationAndReplay :
    (let s := mapped (mach { h := [(1, { st := .pending, page := 0x20000, leaf := 0x2881F }), (2, { st := .pending, page := 0x20000 }),
        (3, { st := .pending, page := 0x8000000000000000 })] } last);
      (s.ctx 0).occ = .resident ∧ (∀ n ∈ [1, 2, 3], ((s.ctx 0).regs.rh n).st = .pending) ∧ ((s.ctx 0).regs.rh 1).leaf ≠ 0 ∧
      ((s.ctx 0).regs.rh 2).leaf = 0 ∧ canonical 0x20000 = true ∧ (s.tlb 0).find? (fun e => e.maps (s.launchOf 0).asid 0x20000) = some entry ∧
      canonical 0x8000000000000000 = false ∧ ((s.ctx 0).regs.rh 4).st ≠ .pending) ∧
    (let e : Parked := { ctx := 0, gen := 0, issue := 0, parts := [(2, .absent)], op := .store ((List.range 8).map fun i => (0x2FFF8 + i, ⟨1, false⟩)) false };
      let s := (mapped (mach {} last)).modCore 0 fun c => { c with replay := [e] };
      (s.departing 0)[0]? = some (e, 0x2FFF8 / 0x10000) ∧ e.home = none ∧ s.reqs = [] ∧ s.cowLine = [] ∧ e.ctx / 2 = 0 ∧ 0x2FFF8 % 0x10000 + 8 ≤ 0x10000 ∧
      e.op = .store ((List.range 8).map fun i => (0x2FFF8 + i, ⟨1, false⟩)) false ∧ canonical 0x2FFF8 = true ∧
      (s.tlb 0).find? (fun x => x.maps (s.launchOf e.ctx).asid 0x2FFF8) = some entry ∧ leafW entry.leaf = true ∧ leafCow entry.leaf = false ∧ leafOrd entry.leaf ≠ 0 ∧
      physical entry.leaf entry.size 0x2FFF8 = 0x2FFF8 ∧ region 0x2FFF8 = .hbm) :=
  ⟨by decide, by decide⟩

/-- A charm request of context 0 for routine 1 at 0x20080. -/
def charmReq : Req := { owner := .slot 0 3, addr := 0x20080, act := .charm 1 7 0 0, tag := 5 }
/-- Routines at 0x1000: routine 1 is ECALL at once, the words of routine 0 are 0, routine 2 jumps to itself. -/
def charmed : State := { mach {} last with
  reqs := [charmReq], dev := [(0xA00, 0x1001)]
  mem := [(0x1040, 0x73), (0x1080, 0x6F)] }

/-- A request whose line is clean, and one whose line is poisoned; a routine that ends, one that fails at once, and one that never ends. -/
theorem wit_CharmEvents :
    (let s := charmed;
      s.reqs.find? (fun q => decide (q.tag = charmReq.tag)) = some charmReq ∧ charmReq.ans = none ∧ charmReq.addr / 2 ^ 50 = s.peer ∧
      poisonedAt s 0x20080 128 = false ∧ region 0x20080 = .hbm ∧
      (match s.charmEnd 0x20080 1 7 0 with | .done m _ bs => decide (m = 7 ∧ bs.length = 128) | .fail _ _ => false) = true ∧
      (match s.charmEnd 0x20080 0 7 0 with | .done _ _ _ => false | .fail c _ => decide (c ≠ 0x25)) = true ∧
      (match s.charmEnd 0x20080 2 7 0 with | .done _ _ _ => false | .fail c _ => decide (c = 0x25)) = true) ∧
    poisonedAt { charmed with psn := [0x20084 / 4] } 0x20080 128 = true := by decide +kernel

/-- A page of space 0 that is copied on write, with the tables of its walk, a pool of four pages, and a writer that waits. -/
def cowPage : State :=
  let s := (mach {} last).load64 0x100000 0x101001
  let s := (s.load64 0x101000 0x102001).load64 0x102000 0x103001
  let s := (s.load64 0x103000 0x104001).load64 0x104000 0x2101F
  { s with dev := [(0, 0x100001), (0x900, 0x400000), (0x908, 4)], cowWant := [(0, 0)] }

/-- A shootdown to begin, one under way that is done and one that a pin holds up; a copy to begin and one under way; tails of the log before and past the
head; an empty pool and one in use. -/
theorem wit_ShootdownAndSnapshots :
    (let s := mach {} last;
      (s.csr 0x818).getLsbD 63 = false ∧ (0x100#64).toNat / 256 % 2 ^ 32 = 1 ∧ (0x4000000000000000#64).getLsbD 62 = true ∧ s.pool = []) ∧
    (let y : Shoot := { asid := 0, all := false, page := 2, count := 1, before := 0 };
      let s := { mach {} last with shoot := some y, dev := [(0x818, 0x8000000000000000)] };
      (s.csr 0x818).getLsbD 63 = true ∧ s.shootDone y = true ∧ ({ s with pins := [(none, 0, 2)] } : State).shootDone y = false) ∧
    (let s := cowPage;
      s.cowWaits 0 0 = true ∧ s.copying 0 0 = false ∧ (s.pte 0 0).2 = (.ok 0x2101F 0, 0x104000) ∧ s.inHbm (physical 0x2101F 0 0) = true ∧ leafCow 0x2101F = true ∧ s.poolReady = true ∧
      0 < (s.csr 0x908).toNat % 2 ^ 32 ∧ s.pool.contains 0 = false ∧ region (physical 0x2101F 0 0 % 2 ^ 50) = .hbm ∧
      region ((s.csr 0x900).toNat / 0x10000 * 0x10000 % 2 ^ 50 + 0 * 0x10000) = .hbm) ∧
    (let s := { cowPage with copies := [⟨0, 0, 0, 0x10000⟩], pool := [0], dev := [(0x920, 3), (0x930, 1)] };
      (s.copies.find? (fun c => decide (c.asid = 0 ∧ c.page = 0 ∧ c.pos = 0x10000))).isSome = true ∧ s.pool ≠ [] ∧
      let head := (s.csr 0x920).toNat; let tail := (s.csr 0x930).toNat % 2 ^ 32;
      ((3 + 2 ^ 32 - tail) % 2 ^ 32 ≤ (head % 2 ^ 32 + 2 ^ 32 - tail) % 2 ^ 32 ∧ (head % 2 ^ 32 + 2 ^ 32 - tail) % 2 ^ 32 < (4 + 2 ^ 32 - tail) % 2 ^ 32)) := by
  decide

/-- Granules of HBM with its line in the LLC, in the L1, and in none; a device before READY and READY; a full/empty wait at its limit and before. -/
theorem wit_ErrorsAndHostMemory :
    (let s := { mach {} last with llc := [(0x20000 / 128, {})], psn := [0x30000 / 4] };
      (s.llc.find ((0x20000#39).toNat / 128)).isSome = true ∧ (s.llc.find ((0x30000#39).toNat / 128)).isSome = false ∧
      poisonedAt s 0x30000 64 = true ∧ poisonedAt s 0x30040 64 = false ∧
      (let u := s.modCore 0 fun c => { c with l1 := [(0x20000 / 128, { asid := 0, page := 2, bytes := [] })] };
        ((u.core (0#11).toNat).l1.find (0x400#32).toNat).isSome = true) ∧ s.booted = true ∧ (State.reset).booted = false) ∧
    (let s := (mach {} last).modCtx 0 fun c => { c with tagWait := some (0x100, 1) };
      (s.ctx 0).occ = .resident ∧ (s.ctx 0).tagWait = some (0x100, 1) ∧
      ((s.ctx 0).issue.todo.find? fun q => decide (q.exu = .s)).isSome = true ∧ s.gt < 1 + tagLimit ∧ 1 + tagLimit ≤ ({ s with gt := 1 + tagLimit } : State).gt) := by
  decide

/-! ### Witnesses: engine events -/

/-- The machine whose every unit has the entry in its TLB. -/
def units (s : State) : State := { s with tlbs := [0, tlbTce 0, tlbSte 0, tlbSte 1, tlbAge 0, tlbOfu, tlbExport].map fun u => (u, [entry]) }
theorem leads (s : State) (u va n : Nat) (r w : Bool) (ht : s.tlb u = [entry]) (hp : s.peer = 0)
    (h : canonical va = true ∧ va % 0x10000 + n ≤ 0x10000 ∧ va < 0x40000000) : Leads s u 0 va n va r w := by
  obtain ⟨h1, h2, h3⟩ := h
  have hr : region va = .hbm := by unfold region; rw [if_pos]; omega
  refine ⟨h1, h2, by simp [hr], entry, ?_, ?_, fun _ => rfl, fun _ => ⟨rfl, rfl⟩⟩
  · rw [ht]
    have : entry.maps 0 va = true := by simp [entry, TlbEntry.maps, pageBytes]; omega
    simp [this]
  · rw [hp]
    have : physical entry.leaf entry.size va = va := by
      show (0x881F : Nat) / 0x10000 * 0x10000 + va % 0x40000000 = va
      omega
    rw [this]; omega

/-- A command of context 0 on token channel `ch`. -/
def cmd (unit : CmdUnit) (op : CmdOp) (ch : Nat) : Cmd :=
  { id := 0, inc := 1, launch := 0, task := 0, ctx := 0, asid := 0, token := BitVec.ofNat 32 (ch * 2 ^ 26), unit, op, caps := [copies.rc 3, copies.rc 3] }
/-- The machine with that command issued, and its token out. -/
def issued (c : Cmd) : State :=
  let s := (units (mach {} last)).modCtx 0 fun x => { x with chans := [(tokenChan c.token, { next := 1 })] }
  { s with cmds := [c], nextCmd := 1 }
/-- A collective of one device and one member over 16 elements. -/
def coll1 : CollDesc := { cohort := 0, ord := 0, type := 2, red := 0, extents := [16], sizes := [1], src := [0], dst := [0], plan := [], plist := [0], mine := 0, m := 1, l := 0, digest := 0, launch := 0 }

theorem holds (c : Cmd) (h : c.inc = 1) : Holds (issued c) c.inc 0 := by
  refine ⟨rfl, h.symm, ?_⟩
  intro e he _ _
  simp only [issued, mach, units, State.modCtx, State.setCtx, Sparse.put, Sparse.splice] at he
  simp at he
  rw [he]

/-- A command of each kind of engine that may start; one that waits for a token; an AGE with its group bound to the task and unbound, for a context that is
placed; a stopped command at
its watermark, with a failure and without. -/
theorem wit_EngineProgress :
    (∀ c ∈ [cmd (.tce 0) (.send 0 0 0 false false) 0, cmd (.send 0) (.send 0x20000 (scratchAddr 0 0) 16 false false) 9,
        cmd (.ste 0) (.trroot 0) 13, cmd .coll (.coll coll1) 15, cmd .age .qbmapEnd 14],
      (issued c).cmd? 0 = some c ∧ c.fail = none ∧ (issued c).startable c = true) ∧
    (Leads (issued (cmd (.send 0) (.send 0x20000 (scratchAddr 0 0) 16 false false) 9)) tlbOfu 0 0x20000 16 0x20000 false true) ∧
    (Leads (issued (cmd (.ste 0) (.trroot 0) 13)) (tlbSte (0 / 256)) 0 0x20000 1 0x20000 false false ∧ region 0x20000 ≠ .scratch) ∧
    (let s := issued (cmd .coll (.coll coll1) 15); let n := elemBytes (typeHalf coll1.type) (countAll (localExt [16] [1] [0]));
      s.notes = [] ∧ s.cowLine = [] ∧ 0 < n ∧ Leads s tlbOfu 0 0x20000 n 0x20000 true false ∧ Leads s tlbOfu 0 0x20000 n 0x20000 false true) ∧
    (let s := issued (cmd .age .qbmapEnd 14);
      (s.csr 0xC00).getLsbD 63 = false ∧ (cmd .age .qbmapEnd 14).inc ≠ 0 ∧ (({ s with dev := [(0xC00, 0x8000000000000000)] } : State).csr 0xC00).getLsbD 63 = true) ∧
    (let c := { cmd .age .qbmapEnd 14 with deps := [0x20000000] };
      let s := (issued c).modCtx 0 fun x => { x with chans := [(8, { next := 1 }), (14, { next := 1 })] };
      s.cmd? 0 = some c ∧ 0x20000000 ∈ c.deps ∧ s.tokenDone c.inc 0x20000000 = false) ∧
    (let t : Tensor := { glob := true, base := 0x20000, dims := [(0, 1)] };
      let c := { cmd (.tce 0) (.copy 2 t t 4) 0 with phase := .stopped }; let x := ((issued c).ctx 0).chan (tokenChan c.token);
      (issued c).cmd? 0 = some c ∧ Holds (issued c) c.inc 0 ∧ tokenSeq c.token = x.w ∧ x.done = [] ∧ (tokenSeq c.token - x.w).toNat < (x.next - x.w).toNat ∧ ((issued c).ctx 0).pend.length < 15) ∧
    (let c := { cmd .nest (.nest false) 8 with phase := .stopped, fail := some { cause := 0x21 }, token := 0x20000001 };
      let x := ((issued c).ctx 0).chan (tokenChan c.token);
      (issued c).cmd? 0 = some c ∧ Holds (issued c) c.inc 0 ∧ tokenSeq c.token ≠ x.w ∧ x.w ∉ x.done) ∧
    (let c := { cmd .nest (.nest false) 8 with phase := .stopped, fail := some { cause := 0x21 }, token := 0x20000001 };
      let s := (issued c).modCtx 0 fun x => { x with chans := [(8, { next := 2 })] }; let x := (s.ctx 0).chan (tokenChan c.token);
      s.cmd? 0 = some c ∧ (tokenSeq c.token - x.w).toNat < (x.next - x.w).toNat ∧ tokenSeq c.token ∉ x.done ∧ tokenSeq c.token ≠ x.w ∧ x.w ∉ x.done) :=
  ⟨by decide, leads _ _ _ _ _ _ rfl rfl (by decide), ⟨leads _ _ _ _ _ _ rfl rfl (by decide), by decide⟩,
    ⟨rfl, rfl, by decide, leads _ _ _ _ _ _ rfl rfl (by decide), leads _ _ _ _ _ _ rfl rfl (by decide)⟩, by decide, by decide,
    ⟨by decide, holds _ rfl, by decide⟩, ⟨by decide, holds _ rfl, by decide⟩, by decide⟩

/-- A request before which a buffer closes; requests that open a buffer, join one of the same count and of another; a slice with a free buffer and one with eight in use; a complete buffer; a
refused request. -/
theorem wit_MergeBuffers :
    (let r : MergeReq := { cmd := 0, p := 0x20000, p2 := none, n := 2 };
      let b : MergeBuf := { p := 0x20000, p2 := none, n := 1, opener := some 0, parts := [[]] };
      let s := { issued (cmd .merge (.mopen 0x20000 1) 16) with mergeQ := [r], merges := [b] };
      s.mergeQ.find? (fun q => q.slice = (BitVec.ofNat 6 r.slice).toNat ∧ q.refused.isNone) = some r ∧
      ((s.merges.filter fun b => homeSlice b.p = (BitVec.ofNat 6 r.slice).toNat).filter fun b => b.opener.isSome && b.parts.length = b.n) = [b]) ∧
    (let c := cmd .merge (.mopen 0x20000 2) 16; let r : MergeReq := { cmd := 0, p := 0x20000, p2 := none, n := 2 };
      let s := { issued c with mergeQ := [r] };
      s.mergeQ.find? (fun q => q.slice = (BitVec.ofNat 6 r.slice).toNat ∧ q.refused.isNone) = some r ∧ s.cmd? r.cmd = some c ∧ r.data = none ∧
      s.merges.find? (fun b => b.p = r.p) = none ∧ (s.merges.filter fun b => homeSlice b.p = r.slice).length < 8) ∧
    (let c := cmd .merge (.accmerge 0x20000 2 0 false) 16; let r : MergeReq := { cmd := 0, p := 0x20000, p2 := none, n := 2, data := some [] };
      let s := { issued c with mergeQ := [r], merges := [{ p := 0x20000, p2 := none, n := 2 }] };
      s.mergeQ.find? (fun q => q.slice = (BitVec.ofNat 6 r.slice).toNat ∧ q.refused.isNone) = some r ∧ r.data = some [] ∧
      (s.merges.find? fun b => b.p = r.p).map (fun b => (b.n, b.p2, b.opener, decide (b.parts.length ≠ b.n))) = some (2, none, none, true)) ∧
    (let c := cmd .merge (.mopen 0x20000 3) 16; let r : MergeReq := { cmd := 0, p := 0x20000, p2 := none, n := 3 };
      let s := { issued c with mergeQ := [r], merges := [{ p := 0x20000, p2 := none, n := 2 }] };
      s.mergeQ.find? (fun q => q.slice = (BitVec.ofNat 6 r.slice).toNat ∧ q.refused.isNone) = some r ∧
      (s.merges.find? fun b => b.p = r.p).map (·.n) = some 2) ∧
    (let r : MergeReq := { cmd := 0, p := 0x20000, p2 := none, n := 2 };
      let s := { issued (cmd .merge (.mopen 0x20000 2) 16) with mergeQ := [r], merges := (List.range 8).map fun i => { p := 0x20200, p2 := some i, n := 1 } };
      s.merges.find? (fun b => b.p = r.p) = none ∧ homeSlice 0x20200 = homeSlice 0x20000 ∧
      8 ≤ (s.merges.filter fun b => homeSlice b.p = r.slice).length) ∧
    (let c := cmd .merge (.mopen 0x20000 1) 16; let b : MergeBuf := { p := 0x20000, p2 := none, n := 1, opener := some 0, parts := [[]] };
      let s := { issued c with merges := [b] };
      (s.merges.filter fun b => homeSlice b.p = (BitVec.ofNat 6 (homeSlice 0x20000)).toNat).find? (fun b => b.opener.isSome && b.parts.length = b.n) = some b ∧
      b.p + 65536 ≤ 2 ^ 39 ∧ s.cmd? 0 = some c) ∧
    (let q : MergeReq := { cmd := 0, p := 0x20000, p2 := none, n := 2, refused := some 0 };
      ({ mach {} last with mergeQ := [q] } : State).mergeQ = [q] ∧ ¬ 0 + 65536000 ≤ (mach {} last).gt ∧ 0 + 65536000 ≤ ({ mach {} last with gt := 65536000 } : State).gt) := by
  decide

/-- A tree command on the pool at 0x20000, whose descriptor is set up with `used` records in use. -/
def tree (op : CmdOp) (phase : Phase) (pos : Nat) (run : TreeRun) : Cmd :=
  { cmd (.ste 0) op 13 with caps := [Cap.make 0x20000 0x12100 0x7F 0 true], path := [0x20000], phase, pos, tree := some run }
def pool (c : Cmd) (used : Nat) : State := { issued c with mem := [(0x20000, 0x80), (0x20034, BitVec.ofNat 8 used), (0x20035, BitVec.ofNat 8 (used / 256))] }
theorem pool_leads (c : Cmd) (used va n : Nat) (r w : Bool) (h : canonical va = true ∧ va % 0x10000 + n ≤ 0x10000 ∧ va < 0x40000000) :
    Leads (pool c used) (tlbSte 0) 0 va n va r w := leads _ _ _ _ _ _ rfl rfl h

/-- A TRSEL that waits for a record, with 255 and 256 in use; a batch before its time and at it; a walk that ends with no block and with one; writes of
triggers, subtractions of barriers, and their refusals; time that may step and not; a collective and a HOLD before their limits and at them. -/
theorem wit_TreeAndSync :
    (let c := tree (.trsel 0) .waiting 0 {}; let s := pool c 255;
      s.cmd? 0 = some c ∧ c.fail = none ∧ c.cap.base % 0x10000 = 0 ∧ c.cap.check c.cap.base 0x12000 permR = none ∧
      region 0x20000 = .hbm ∧ region (c.poolPa % 2 ^ 50) = .hbm ∧ poisonedAt s 0x20000 128 = false ∧ s.psn = [] ∧ s.cowLine = [] ∧ s.llc = [] ∧ (s.peek 0x20000).v.getLsbD 7 = true ∧
      numberAt s 0x20034 4 < 256 ∧ (s.peek 0x21005).v.getLsbD 0 = false ∧ (s.peek 0x21005).v.getLsbD 3 = false ∧ 256 ≤ numberAt (pool c 256) 0x20034 4) ∧
    Leads (pool (tree (.trsel 0) .waiting 0 {}) 255) (tlbSte 0) 0 0x20000 0x10000 0x20000 true true ∧
    (let c := tree (.trsel 0) .waiting 5 { due := 1 }; let s := pool c 1;
      c.pos = 5 ∧ c.phase = .waiting ∧ s.gt / 2 ^ 16 < 1 ∧ 1 ≤ ({ s with gt := 2 ^ 16 } : State).gt / 2 ^ 16) ∧
    (let c := tree .trwalk .running 0 { pushed := [0], blk := 1, nodes := 1 };
      c.cap.check (0x20000 + 0x12000 + 32 * (0 * 1)) 32 permR = none ∧ Leads (pool c 1) (tlbSte 0) 0 0x32000 32 0x32000 false true ∧
      0x32014 / 0x10000 ≠ 0x20000 / 0x10000 ∧ region 0x32014 = region 0x20000) ∧
    (let f : Trigger := { inc := 1, core := 0, asid := 0, id := 0, isTime := true, thresh := 0, va := 0x20008, value := 1, add := true };
      let s := { units (mach {} last) with fired := [f] };
      s.fired = [f] ∧ s.cowLine = [] ∧ f.va.toNat % 8 = 0 ∧ Leads s f.core f.asid f.va.toNat 8 0x20008 f.add true ∧ poisonedAt s 0x20008 8 = false) ∧
    (let e : TlbEntry := { asid := 0, page := 0, size := 2, leaf := 7 }; let s := { mach {} last with tlbs := [(0, [e])] };
      canonical 0x20008 = true ∧ (s.tlb 0).find? (fun e => e.maps 0 0x20008) = some e ∧ leafW e.leaf = false) ∧
    (let s := { mach {} last with subs := [(0x20000, 4, true)], mem := [(0x20010, 5)] };
      0x20000 % 1024 = 0 ∧ region 0x20000 = .hbm ∧ 4 < numberAt s (0x20000 + 16) 8) ∧
    ((mach {} last).syncLost = false ∧ ({ mach {} last with syncLost := true } : State).syncLost = true ∧ (mach {} last).fired = [] ∧ (mach {} last).subs = []) ∧
    (let c := { cmd .coll (.coll coll1) 15 with phase := .running }; let s := issued c; let limit := (s.csr 0x100098).toNat % 2 ^ 32 * 65536000;
      s.cmd? 0 = some c ∧ c.fail = none ∧ s.gt - c.since < limit ∧ limit ≤ ({ s with gt := 10000 * 65536000 } : State).gt - c.since) ∧
    (let m : CollNote := { id := 7, src := 3, digest := some 0 }; let s := { mach {} last with notes := [m] };
      s.notes = [m] ∧ m.src < 2 ^ 14 ∧ s.roomFor m.src false 0 = true ∧ m.digest.isSome = true ∧ m.id < 2 ^ 63 ∧ s.collFor m.id = none ∧ s.gt < m.heldAt + 65536000 ∧
      m.heldAt + 65536000 ≤ ({ s with gt := 65536000 } : State).gt) :=
  ⟨by decide, pool_leads _ _ _ _ _ _ (by decide), by decide, ⟨by decide, pool_leads _ _ _ _ _ _ (by decide), by decide⟩,
    ⟨rfl, rfl, by decide, leads _ _ _ _ _ _ rfl rfl (by decide), by decide⟩, by decide, by decide, by decide, by decide, by decide⟩

/-! ### Witnesses: the command processor -/

/-- An entry with the given numbers at byte offsets. -/
def ent (fs : List (Nat × Nat)) : BitVec 512 := BitVec.ofNat 512 (fs.map fun f => f.2 * 256 ^ f.1).sum
/-- A handle on 64 KiB of HBM at `base`. -/
def bufAt (base : Nat) : BitVec 128 := BitVec.ofNat 128 (2 ^ 127 + 0x10000 * 2 ^ 64 + base)
/-- A machine with one command of the CP, started. -/
def cpc (fs : List (Nat × Nat)) (slots : List (Nat × Bool × BitVec 128)) : CpCmd := { id := 0, queue := 0, entry := ent fs, slots, started := true }
def withCp (c : CpCmd) (dev : Sparse Word64) (mem : Memory) : State := { mach {} last with cps := [c], nextCp := 1, dev := (0x90200, 4) :: dev, mem }

/-- Queue 0 enabled with one entry to fetch, overrun, and empty; an entry that keeps the format and one that does not. -/
theorem wit_CommandProcessor :
    (let s := { mach {} last with dev := [(0x40008, 0x8000000000000004), (0x40018, 1)] };
      s.zqPick = some 0 ∧ s.cps.length < 1024 ∧ (1 + 2 ^ 32 - 0) % 2 ^ 32 ≤ 2 ^ 4 ∧ (s.csr 0x40008).toNat % 32 = 4) ∧
    (let s := { mach {} last with dev := [(0x40008, 0x8000000000000004), (0x40018, 17)] }; s.zqPick = some 0 ∧ 2 ^ 4 < (17 + 2 ^ 32 - 0) % 2 ^ 32) ∧
    ((mach {} last).csr 0x40008).getLsbD 63 = false ∧
    (let e := ent [(0, 2), (1, 3), (2, 1), (0x10, 0x8005)]; let f := entryField e;
      f 0 1 = 2 ∧ f 1 1 < 4 ∧ f 2 1 ≤ 6 ∧ f 8 8 % 8 = 0 ∧ f 0x1C 4 = 0 ∧ f 0x38 8 = 0 ∧ f 0x10 2 / 4096 % 8 = 0 ∧ f 0x12 2 = 0) ∧
    entryField (ent [(0, 8)]) 0 1 = 8 ∧
    (let c := { cpc [(0, 2), (8, 0x1000), (1, 2), (3, 5)] [] with started := false }; let s := withCp c [] [];
      s.cp? 0 = some c ∧ c.deps = [] ∧ c.started = false ∧ c.result = none) ∧
    (let c := { cpc [(0, 2), (8, 0x1000), (1, 2), (3, 5)] [] with result := some (0, 0) }; let s := withCp c [] [];
      s.cp? 0 = some c ∧ c.result.isSome = true ∧ s.reqs = [] ∧ c.f 8 8 % 8 = 0 ∧ c.f 8 8 ≠ 0 ∧ c.entry.getLsbD 9 = true ∧ c.f 1 1 < 4 ∧
      ({ c with posted := true } : CpCmd).posted = true) := by decide +kernel

/-- A copy that goes on, one that is done and one out of range; a signal; a wait whose word has reached the value and one that has not; an operator block
that keeps its rules and one that does not; a launch that has ended and one that runs. -/
theorem wit_CopiesAndLaunches :
    (let c := cpc [(0, 2), (0x30, 256)] [(1, false, bufAt 0x10000), (2, true, bufAt 0x20000)]; let s := withCp c [] [];
      s.cp? 0 = some c ∧ c.started = true ∧ c.result = none ∧ c.op = 2 ∧ (c.slots.all fun h => h.2.2.getLsbD 127) = true ∧
      0 + c.f 0x30 8 ≤ handleLen (bufAt 0x10000) ∧ handleBase (bufAt 0x10000) = 0x10000 ∧ 0x10000 + 256 ≤ 2 ^ 39 ∧ c.pos < c.f 0x30 8 ∧ 0x10000 + 256 ≤ 0x20000 ∧
      ¬ 0x10001 ≤ handleLen (bufAt 0x10000)) ∧
    (cpc [(0, 3), (0x28, 7)] [(2, true, bufAt 0x20000)]).op = 3 ∧
    (let c := cpc [(0, 4), (0x28, 7)] [(2, false, bufAt 0x20000)]; let s := withCp c [] [(0x20000, 7)];
      c.op = 4 ∧ poisonedAt s 0x20000 8 = false ∧ 7 ≤ numberAt s 0x20000 8 ∧ numberAt (withCp c [] []) 0x20000 8 < 7) ∧
    (let c := cpc [(0, 1), (0x20, 0x100)] []; let op := [(0x103, 1), (0x106, 2)] ++ (List.range 6).map (fun i => (0x108 + 4 * i, 1));
      let s := { withCp c [(0, 1)] op with launches := [] };
      s.cp? 0 = some c ∧ c.op = 1 ∧ c.f 0x20 8 % 256 = 0 ∧ poisonedAt s 0x100 256 = false ∧ s.opGood 0x100 = true ∧ s.nextLaunch = 1 ∧
      s.launch? 1 = none ∧ numberAt (withCp c [] []) (0x100 + 6) 2 = 0) ∧
    ((mach {} last).launch? 0).map (fun l => (l.count, l.ended, l.untaken)) = some (1, [], 0) ∧
    (let s := { mach {} last with launches := [{ num := 0, ended := [0] }] };
      ((s.launch? 0).map fun l => ((List.range l.count).all fun i => l.ended.contains i, decide (l.untaken = 0))) = some (true, true) ∧ s.reqs = []) := by decide +kernel

/-- A page of 64 KiB that is present, a misaligned one, and a shootdown that is done and one that is not; a code table in HBM; the tables that a command may
write, and that it may not; a switch that is armed and due, with sync and without. -/
theorem wit_SnapshotAndTables :
    (let c := cpc [(0, 5), (0x30, 1)] []; let s := { cowPage with cps := [c] };
      s.cp? 0 = some c ∧ c.op = 5 ∧ c.shoot = none ∧ c.f 0x28 8 % 0x10000 = 0 ∧ (s.csr 0).getLsbD 0 = true ∧ c.f 0x30 4 = 1 ∧
      (s.pte 0 0).2 = (.ok 0x2101F 0, 0x104000) ∧ region 0x104000 = .hbm ∧ (cpc [(0, 5), (0x28, 8)] []).f 0x28 8 % 0x10000 ≠ 0) ∧
    (let y : Shoot := { asid := 0, all := false, page := 2, count := 1, before := 0 }; let c := { cpc [(0, 5)] [] with shoot := some y };
      let s := withCp c [] []; s.cp? 0 = some c ∧ s.shootDone y = true ∧ ({ s with pins := [(none, 0, 2)] } : State).shootDone y = false) ∧
    (let c := cpc [(0, 6), (0x20, 5)] []; let s := withCp c [] [];
      s.cp? 0 = some c ∧ c.op = 6 ∧ s.swaps = [] ∧ (s.csr 0x50010).toNat / 2 ^ 19 * 2 ^ 19 + 8 * c.f 0x20 2 + 8 ≤ 2 ^ 39 ∧
      ({ s with swaps := [(0, [])] } : State).swaps.find? (fun w => w.1 = 0) = some (0, [])) ∧
    (let c := cpc [(0, 7), (0x28, 0x31FFF8), (0x30, 0x1000), (0x38, 8)] []; let s := withCp c [(0x50008, 1)] [];
      s.cp? 0 = some c ∧ c.op = 7 ∧ c.f 0x20 1 = 0 ∧ (s.csr 0x50008).getLsbD 0 = true ∧ (s.csr 0x100088).getLsbD 63 = false ∧ 0x300000 ≤ c.f 0x28 8 ∧
      c.f 0x28 8 % 8 = 0 ∧ c.f 0x38 4 % 8 = 0 ∧ c.f 0x28 8 + c.f 0x38 4 ≤ 0x320000 ∧ ((withCp c [] []).csr 0x50008).getLsbD 0 = false ∧
      (cpc [(0, 7)] []).f 0x28 8 < 0x100040) ∧
    (let c := cpc [(0, 7), (0x20, 1), (0x28, 10000)] []; let s := withCp c [(0x50008, 1)] [];
      c.f 0x20 1 = 1 ∧ (s.csr 0x100040).getLsbD 0 = false ∧ (s.csr 0x100050).getLsbD 0 = false ∧ (s.csr 0x100000).getLsbD 0 = false ∧
      (s.dev.all fun e => e.1 < 0x300000 ∨ 0x320000 ≤ e.1) = true ∧ s.gt / 2 ^ 16 + 10000 ≤ c.f 0x28 8 ∧ (cpc [(0, 7), (0x20, 1)] []).f 0x28 8 < s.gt / 2 ^ 16 + 10000) ∧
    (let s := { mach {} last with dev := [(0x100080, 5), (0x100088, 0x9000000000000000)] };
      (s.csr 0x100088).getLsbD 63 = true ∧ s.gt / 2 ^ 16 < (s.csr 0x100080).toNat ∧
      (s.csr 0x100080).toNat ≤ ({ s with gt := 5 * 2 ^ 16 } : State).gt / 2 ^ 16 ∧ s.syncLost = false) := by decide +kernel

/-! ### Witnesses: the fabric -/

/-- The bulk rotation enabled with one slot of 1,000 ns, whose transmitter 0 of port 0 reads send queue 3. -/
def rotation : State := { mach {} last with dev := [(0x80000, 0x8000), (0x90200, 4), (0x100000, BitVec.ofNat 64 (2 ^ 32 + 1000 * 2 ^ 15 + 1)), (0x200028, 2 ^ 63), (0x1000000, 0x80000003)] }
/-- A RECORDS flit for device 5 with a body of zeros, and flits that arrive from it. -/
def flit : Flit := { dst := 5, src := 0, kind := 1, body := List.replicate 256 0 }
/-- The header of a flit from device 5 with LAST set, above its CRC, and the flit with the CRC `c` and a body of zeros. -/
def head (kind dst seq : Nat) : BitVec 104 := BitVec.ofNat 104 (dst * 2 ^ 90 + 5 * 2 ^ 76 + kind * 2 ^ 72 + seq * 2 ^ 53 + 2 ^ 9)
def bare (kind dst seq : Nat) (c : BitVec 24) : BitVec 2176 := head kind dst seq ++ c ++ (0 : BitVec 2048)
def arriving (kind dst seq : Nat) : BitVec 2176 := bare kind dst seq (crc24 (crcBytes (bare kind dst seq 0)))
theorem arriving_good (kind dst seq : Nat) : crcGood (arriving kind dst seq) = true := (crcGood_append _ _ _).trans (decide_eq_true rfl)
theorem arriving_read (kind dst seq : Nat) : Flit.ofWire (arriving kind dst seq) = Flit.ofWire (bare kind dst seq 0) := ofWire_append _ _ _ _
theorem flit_bad : ∃ w, crcGood w = false := by
  refine ⟨bare 1 0 0 (~~~crc24 (crcBytes (bare 1 0 0 0))), (crcGood_append _ _ _).trans (decide_eq_false fun h => ?_)⟩
  have : ∀ c : BitVec 24, c ≠ ~~~c := fun c e => by
    have := congrArg (·.getLsbD 0) e
    simp at this
  exact this _ h

/-- Ports of both kinds at their bounds; a mesh transmitter that has lost one line, with a spare free, and an external line with its twin lost; an event queue that is empty and full; a slot that is due and not, its one cell and its one flit; flits of each
kind with a good CRC and one without; streams before their limits and at them; requests out, held and without an answer. -/
theorem wit_FabricLines :
    ((31#6).toNat < 32 ∧ 32 ≤ (32#6).toNat ∧ (47#6).toNat < 48 ∧ ¬ (48#6).toNat < 48 ∧ (mach {} last).ofuEvents.length < 16 ∧
      16 ≤ ({ mach {} last with ofuEvents := List.replicate 16 0 } : State).ofuEvents.length ∧ (mach {} last).ccount.get 0 0 < 128 ∧
      (mach {} last).lineState 0 0 = 0) ∧
    (let s := { mach {} last with mesh := [(64, 2)] };
      s.lineState 32 64 = 2 ∧ 0 % 64 < 60 ∧ (∀ i, i < 4 → ((s.csr 0x100500).extractLsb' (8 * i) 8).toNat ≠ 128 + 0 % 64) ∧
      ((s.csr 0x100500).extractLsb' 0 8).toNat < 128 ∧ s.lineState 32 60 = 0 ∧ s.lineState 32 65 ≠ 2) ∧
    (let s := { rotation with sendq := [(3, [flit])] };
      s.slotDue true = true ∧ s.slotNow true = some 0 ∧ 0 * 100 + 1024 * 2 ^ 16 ≤ ((s.rot true).base + 0 * (s.rot true).slot + (s.rot true).slot - (s.rot true).guard) * 2 ^ 16 * 100 ∧
      s.gt = 0 ∧ s.txFree = [] ∧ s.ccount.get 0 (5 * 2048) < 128 ∧ s.cellsNow true = [{ port := 0, tx := 0, tw := false, cls := 0, sq := 3 }] ∧
      s.lineState 0 0 = 0 ∧ flit.src = s.peer ∧ flit.body.length = 256 ∧ s.links = [] ∧ s.nextHop 5 = 5 ∧ s.sent.get 0 (5 * 2048) = s.ccount.get 0 (5 * 2048) ∧
      s.slotDue false = false) ∧
    (let l : Link := { una := [{ flit, at_ := 0, port := 0, line := 0, sq := 3 }], owed := some 0 }; let s := { rotation with links := [(5, l)] };
      (s.link 5).owed = some 0 ∧ s.routed 5 = true ∧ (s.sendq.get [] (routeMsq (s.route 5))).length < 512 ∧ routeDup (s.route 5) = false ∧ s.gt < 0 + 65536000 ∧ 0 + 65536000 ≤ ({ s with gt := 65536000 } : State).gt ∧
      (s.link 6).una = [] ∧ (s.link 6).owed = none) ∧
    (let r : Req := { owner := .slot 0 2, addr := 5 * 2 ^ 50, act := .read 8, sentAt := some 0 }; let s := { rotation with reqs := [r] };
      s.reqs.find? (fun q => q.tag = r.tag) = some r ∧ r.ans = none ∧ r.hold = 0 ∧ s.gt < 0 + (s.csr 0x100090).toNat / 2 ^ 32 * 65536000 ∧
      0 + (s.csr 0x100090).toNat / 2 ^ 32 * 65536000 ≤ ({ s with gt := 1000 * 65536000 } : State).gt) ∧
    (let r : Req := { owner := .cmd 0, addr := 5 * 2 ^ 50, act := .clasp 1 0 0, sentAt := some 0, hold := 1 };
      r.query = false ∧ r.hold ≠ 0 ∧ rotation.gt < r.hold ∧ r.hold ≤ ({ rotation with gt := 1 } : State).gt) := by decide +kernel
/-- Flits that are good and one that is not; one for another device; a record flit in sequence and one received before; an ACK, a SYNC, an unknown kind. -/
theorem wit_FabricLines_flits :
    (crcGood (arriving 1 0 0) = true ∧ ∃ w, crcGood w = false) ∧
    (let f := Flit.ofWire (arriving 0 7 0); f.dst = 7 ∧ f.kind = 0 ∧ f.transit = false) ∧
    (({ rotation with dev := (0x200038, 2 ^ 63) :: rotation.dev } : State).route 7 = 2 ^ 63 ∧ routeTr (2 ^ 63) = false ∧
      routeDup (2 ^ 63) = false ∧ rotation.outQ = [] ∧ rotation.passing = [] ∧ (rotation.sendq.get [] (routeMsq (2 ^ 63))).length < 512 ∧
      ¬ (({ rotation with sendq := [(routeMsq (2 ^ 63), List.replicate 512 flit)] } : State).sendq.get [] (routeMsq (2 ^ 63))).length < 512) ∧
    (let e : Word64 := BitVec.ofNat 64 (2 ^ 63 + 2 ^ 18 + 2 ^ 17); routeDup e = true ∧ routeMsq2 e ≠ routeMsq e) ∧
    (let f := Flit.ofWire (arriving 1 0 0); let l := rotation.link f.src;
      f.dst = rotation.peer ∧ f.kind = 1 ∧ f.last = true ∧ f.seq = l.got ∧ l.held = [] ∧ l.open_ = [] ∧ rotation.routed f.src = true ∧
      ((List.range 8).all fun i => (Rec.ofBytes ((f.body.drop (32 * i)).take 32) (f.poison.getLsbD i)).rtype = 0) = true) ∧
    (Flit.ofWire (arriving 1 0 (2 ^ 19 - 1))).seq = (rotation.link 5).got + 2 ^ 19 - 1 ∧ (Flit.ofWire (arriving 2 0 0)).kind = 2 ∧
    (Flit.ofWire (arriving 4 0 0)).kind = 4 ∧ 5 ≤ (Flit.ofWire (arriving 5 0 0)).kind := by
  refine ⟨⟨arriving_good _ _ _, flit_bad⟩, ?_⟩
  rw [arriving_read, arriving_read, arriving_read, arriving_read, arriving_read, arriving_read]
  decide +kernel

/-- The machine with one record received from device 5, and a request to that device out. -/
def received (r : Rec) (data : List (Val 8)) : State := { rotation with
  inbox := [{ src := 5, rec_ := r, data }]
  reqs := [{ owner := .slot 0 2, addr := 5 * 2 ^ 50, act := .read 8, tag := 9, queued := true }] }

/-- Records of every request, in HBM, at their bounds; every answer to the request that is out. -/
theorem wit_PeerTraffic :
    (∀ r ∈ ([{ rtype := 1, aux := 16 }, { rtype := 1, aux := 17 }, { rtype := 2, aux := 16 }, { rtype := 3 }, { rtype := 5, aux := 13 }, { rtype := 5, aux := 18 },
        { rtype := 6, addr := 0x20080 }, { rtype := 7 }, { rtype := 13, aux := 0x10001 }] : List Rec),
      ((received r []).inbox.find? fun e => e.src = (5#14).toNat) = some { src := 5, rec_ := r }) ∧
    (0 < 16 ∧ 0 + 17 ≤ 2 ^ 39 ∧ (toBytes 32 0 false).length = 32 ∧ (0 : Nat).testBit 24 = false ∧ (18 : Nat) % 16 = 2 ∧ (18 : Nat).testBit 4 = true ∧ 13 ≤ (13 : Nat) % 16) ∧
    (poisonedAt rotation 0 8 = false ∧ poisonedAt { charmed with psn := [0x20084 / 4] } 0x20080 128 = true ∧ poisonedAt charmed 0x20080 128 = false ∧
      (match charmed.charmEnd 0x20080 1 7 0 with | .done _ _ bs => decide (bs.length = 128) | .fail _ _ => false) = true) ∧
    ((rotation.fifos.get [] 0).length < 512 ∧ (65537 : Nat) % 2 ^ 16 = 1 ∧ (65537 : Nat).testBit 16 = true ∧
      512 ≤ (({ rotation with fifos := [(0, List.replicate 512 (⟨0, false⟩, false))] } : State).fifos.get [] 0).length) ∧
    (∀ r ∈ ([{ rtype := 8, tag := 9 }, { rtype := 8, tag := 9, aux := 0x22 }, { rtype := 9, tag := 9 }, { rtype := 9, tag := 9, aux := 0x22 }, { rtype := 4, tag := 9 },
        { rtype := 10, tag := 9, aux := 3 }] : List Rec),
      let s := received r [];
      (s.inbox.find? fun e => e.src = (5#14).toNat).isSome = true ∧
        ((s.reqs.find? fun q => q.ans.isNone && q.queued && decide (q.addr / 2 ^ 50 = (5#14).toNat ∧ s.wireTag q = r.tag)).map (·.owner)) = some (.slot 0 2)) := by decide +kernel

/-- A staging slot of device 5's group 7, and a group of this device that has aborted. -/
def staged : State := { rotation with stages := [(0, { src := 5, grp := 7, writes := [(0x20000, true, toBytes 16 1 false)] })], closed := [(5, 8, true)] }

/-- Each clasp record, with staging on and off, a slot free and none, a group that is staged and one that is not, writes left and none; an aborted group that
has not been reported. -/
theorem wit_ClaspGroups :
    (∀ sub ∈ [0, 1, 2, 3, 4], ∀ g ∈ [7, 8, 9], ((received { rtype := 11, aux := sub, data := g } []).inbox.find? fun e => e.src = (5#14).toNat) =
      some { src := 5, rec_ := { rtype := 11, aux := sub, data := g } }) ∧
    ((rotation.csr 0xB00).getLsbD 0 = false ∧ (({ rotation with dev := [(0xB00, 1)] } : State).csr 0xB00).getLsbD 0 = true ∧ rotation.stages.find 0 = none ∧
      (List.range 256).all (fun i => (Sparse.find ((List.range 256).map fun i => (i, ({ src := 6, grp := 0 } : Stage))) i).isSome) = true) ∧
    ((staged.stages.find? fun x => decide (x.2.src = 5 ∧ x.2.grp = 7)).map (fun x => (x.1, x.2.writes.length)) = some (0, 1) ∧
      staged.stages.find? (fun x => decide (x.2.src = 5 ∧ x.2.grp = 8)) = none ∧ 0x20000 + 16 ≤ 2 ^ 39 ∧
      staged.closed.find? (fun x => x.1 = 5 ∧ x.2.1 = 8) = some (5, 8, true) ∧ staged.closed.find? (fun x => x.1 = 5 ∧ x.2.1 = 9) = none) := by decide +kernel
theorem wit_ClaspGroups_aborted :
    let x : Clasp := { grp := 7, inc := 1, ctx := 0, ch := 0, peer := 5, aborted := true }
    let c := cmd (.send 0) (.clopen 5) 17
    let s := { issued c with clasps := [x] }
    s.clasps.find? (fun x => x.grp = (7#14).toNat && x.aborted && !s.closeHeld x) = some x ∧ s.sendq = [] ∧ s.outQ = [] ∧ Holds s x.inc 0 ∧ (s.ctx 0).pend.length < 15 ∧
      s.cmd? c.id = some c ∧ c.inc = x.inc ∧ c.unit = .send x.ch ∧ c.op = .clopen x.peer ∧ c.phase ≠ .stopped ∧ ∀ d ∈ s.cmds, d.inc = x.inc → d.op ≠ .clclose := by
  refine ⟨by decide, rfl, rfl, holds (cmd (.send 0) (.clopen 5) 17) rfl, by decide, by decide, by decide, by decide, by decide, by decide, ?_⟩
  intro d hd _
  simp only [issued, List.mem_singleton] at hd
  rw [hd]; simp [cmd]

/-- Every record of a collective, for one that is known here and one that is not. -/
theorem wit_CollectiveRecords :
    (∀ sub ∈ [0, 1, 2, 3, 4], ((received { rtype := 12, aux := sub } []).inbox.find? fun e => e.src = (5#14).toNat) =
      some { src := 5, rec_ := { rtype := 12, aux := sub } }) ∧
    (let c := { cmd .coll (.coll coll1) 15 with phase := .running }; let s := { issued c with inbox := (received { rtype := 12, aux := 1 } []).inbox };
      s.collFor 0 = some (c, coll1) ∧ s.cmd? c.id = some c ∧ c.phase = .running ∧ s.collFor 5 = none ∧ s.notes = [] ∧ coll1.digest ≠ 1 ∧ s.strms = []) ∧
    (let c := { cmd .age .qbmapEnd 14 with phase := .running, age := some { seq := 3 } }; let s := issued c;
      s.cmds.find? (fun c => c.unit = .age ∧ c.phase = .running ∧ ageId c = 2 ^ 63 + 3) = some c ∧ 2 ^ 63 ≤ 2 ^ 63 + 3) ∧
    (let s := { mach {} last with dev := [(0xC00, 0x8000000000000000)], age := { (mach {} last).age with plist := [5] } };
      s.cmds = [] ∧ (s.csr 0xC00).getLsbD 63 = true ∧ (5#14).toNat ∈ s.age.plist) := by decide +kernel

/-! ### Witnesses: faults, the debugger, boot, power, the host, and the machine as a whole -/

/-- A context between bundles with a pending record. -/
def pending : State := (mach {} { last with todo := [] }).modCtx 0 fun c => { c with pend := [{ cause := 0x20 }] }
/-- A context blocked on two page requests, the second of them not answered. -/
def blocked : State :=
  (mach {} last).modCtx 0 fun c => { c with gen := 3, pf := [{ va := 0x10000, kind := .read, sent := true, answer := some true }, { va := 0x20000, kind := .write }] }
/-- A context whose h1 is STALE, on a page that the tables of its space do not map; requests are served. -/
def stale : State := { mach { h := [(1, { st := .stale, page := 0x20000 })] } last with dev := [(0, 0x100001), (0x80010, 0x8000000000000006)] }

/-- A record that is due for the launch's handler, for the system's, and one that is not due; a request to send with room in the ring, and served
by nobody; a STALE handle on a page that is not present, with requests served and not; the last answer that resolves, one with another to come, one that
denies, one before a request of a slot has ended, and a stale one. -/
theorem wit_FaultRecords :
    (let s := pending; let c := s.ctx 0;
      c.pend = { cause := 0x20 } :: [] ∧ c.younger = [] ∧
      (c.occ = .resident ∧ c.pf = [] ∧ s.isActive 0 = true ∧ c.regs.mode = 0 ∧ c.issue.todo = [] ∧ c.placing = false ∧ c.halt = 0) ∧
      Undebugged s 0 ∧ (s.launchOf 0).trapent ≠ 0) ∧
    (let s : State := { pending with launches := [{ num := 0 }] };
      (s.launchOf 0).trapent = 0 ∧ (s.csr csrTrapEnt).extractLsb' 0 57 ≠ 0 ∧ Undebugged s 0) ∧
    (let c := (pending.modCtx 0 fun c => { c with halt := 1 }).ctx 0; c.pend = { cause := 0x20 } :: [] ∧ c.halt ≠ 0) ∧
    (let s := stale; let h := s.old.rh (1#4).toNat;
      Running s ∧ h.st = .stale ∧ (s.ctx s.cur).pf = [] ∧ canonical h.page.toNat = true ∧ s.tlb 0 = [] ∧ (s.walk 0 h.page.toNat).2 = .absent ∧
      (s.csr csrPfCtl).getLsbD 63 = true ∧ s.parkedOf 0 = [] ∧ (s.core 0).replay.length < 16 ∧ s.isActive 0 = true ∧
      (({ s with dev := [(0, 0x100001)] } : State).csr csrPfCtl).getLsbD 63 = false) ∧
    (let s := { blocked with dev := [(0x80010, 0x8000000000000006)] };
      (s.ctx 0).pf = [{ va := 0x10000, kind := .read, sent := true, answer := some true }] ++ { va := 0x20000, kind := .write } :: [] ∧
      (s.csr 0x80010).getLsbD 63 = true ∧ ((s.csr 0x80018).toNat % 2 ^ 32 + 2 ^ 32 - (s.csr 0x80020).toNat % 2 ^ 32) % 2 ^ 32 < 2 ^ 6 ∧ s.reqs = [] ∧
      (blocked.csr 0x80010).getLsbD 63 = false) ∧
    (let s := blocked; let c := s.ctx 0; let v : Word64 := 0x0003000000000000; let d : Word64 := 0x0003010000000000;
      c.occ = .resident ∧ c.gen = v.extractLsb' 48 16 ∧ v.extractLsb' 0 12 = 0 ∧ v.extractLsb' 40 8 = 0 ∧ d.extractLsb' 40 8 ≠ 0 ∧
      s.asksOut 0 = false ∧
      ({ s with reqs := [{ owner := .slot 0 1, addr := 0, act := .read 8, host := 0x1000 }] } : State).asksOut 0 = true ∧
      d.extractLsb' 48 16 = 3 ∧ c.regs.mode = 0 ∧ (s.launchOf 0).trapent ≠ 0 ∧ Undebugged s 0) ∧
    (let c := (blocked.modCtx 0 fun c => { c with pf := c.pf ++ c.pf.drop 1 }).ctx 0;
      ∃ pre post q, c.pf = pre ++ q :: post ∧ (∀ p ∈ pre, p.answer ≠ none) ∧ q.answer = none ∧ ∃ p ∈ post, p.answer = none) ∧
    ((blocked.ctx 0).gen ≠ (0 : Word64).extractLsb' 48 16 ∧ blocked.ready ++ blocked.saving.map (·.entry) = []) := by
  refine ⟨⟨rfl, rfl, by decide, by unfold Undebugged; decide, by decide⟩, ⟨by decide, by decide, by unfold Undebugged; decide⟩, by decide, ⟨⟨rfl, rfl, rfl⟩, by decide +kernel⟩, by decide, ?_, ?_,
    by decide⟩
  · exact ⟨rfl, rfl, rfl, rfl, by decide, by decide, by decide, by decide, rfl, by decide, by unfold Undebugged; decide⟩
  · exact ⟨_, _, _, show _ = [_] ++ _ :: [_] from rfl, by decide, rfl, _, List.mem_singleton_self _, rfl⟩

/-- No launch of the number; the placed task of the number; one that is not placed; all of a launch. -/
theorem wit_KilledTasks :
    (mach {} last).launch? 5 = none ∧ (mach {} last).launch? 0 ≠ none ∧
    (let s := mach {} last; let mine := fun j : Nat => j ∈ s.residents 0 ∧ (s.ctx j).regs.task.toNat = 0;
      mine 0 ∧ ∀ j, mine j → j = 0) ∧
    (let s := mach {} last; ∀ j, ¬ (j ∈ s.residents 0 ∧ (s.ctx j).regs.task.toNat = 5)) ∧
    (∀ e ∈ (mach {} last).ctxs, (mach {} last).ctx e.1 = e.2) := by
  have r : (mach {} last).residents 0 = [0] := by decide
  refine ⟨rfl, by decide, ⟨⟨by rw [r]; simp, by decide⟩, fun j h => ?_⟩, fun j h => ?_, by decide⟩
  · rw [r] at h; simpa using h.1
  · rw [r] at h
    have e : j = 0 := by simpa using h.1
    subst e
    exact absurd h.2 (by decide)

/-- A debugger attached to launch 0, with task 0 selected. -/
def debugged (s : State) : State := { s with dev := (0x80000, 0x8000) :: (0x80040, 0x8000000000000000) :: [(0x90200, 4)] }
theorem selected (s : State) (h : (debugged s).residents 0 = [0]) (h' : (s.ctx 0).regs.task = 0) : Selected (debugged s) 0 := by
  have e : ((debugged s).csr 0x80040).toNat % 2 ^ 16 = 0 := by
    show ((debugged (mach {} last)).csr 0x80040).toNat % 2 ^ 16 = 0
    decide
  have e' : ((debugged s).csr 0x80048).toNat % 2 ^ 12 = 0 := by
    show ((debugged (mach {} last)).csr 0x80048).toNat % 2 ^ 12 = 0
    decide
  refine ⟨by show ((debugged (mach {} last)).csr 0x80040).getLsbD 63 = true; decide, ⟨by rw [e, h]; simp, ?_⟩, fun j hj => ?_⟩
  · show (s.ctx 0).regs.task.toNat = _
    rw [h', e']; rfl
  · rw [e, h] at hj; simpa using hj.1
/-- The handler of `image`, stopped at a BREAK. -/
def broken : State := debugged (handler.modCtx 0 fun c => { c with issue := {}, brk := true, halt := 31 })
theorem broken_selected : Selected broken 0 := selected _ (by decide) (by decide)
theorem broken_intact : broken.opaqueIntact ((broken.launchOf 0).slot 0 + imageArea 1) 0x2000 image.stamp = true :=
  handler_intact broken.dev

/-- An attachment to a launch that is there, and to none; no debugger; a selected context that runs, and one at a BREAK; all five sequencers stopped,
with register numbers and word numbers at the ends of their ranges. -/
theorem wit_DebugPort :
    ((0x8000000000000005 : Word64).getLsbD 63 = true ∧ (mach {} last).launch? ((0x8000000000000005 : Word64).toNat % 2 ^ 16) = none ∧
      (mach {} last).launch? ((0x8000000000000000 : Word64).toNat % 2 ^ 16) ≠ none ∧ ((mach {} last).csr 0x80040).getLsbD 63 = false) ∧
    (let s := debugged (mach {} last); Selected s 0 ∧ (s.ctx 0).brk = false ∧ s.allStopped 0 = false) ∧
    (let s := broken; let c := s.ctx 0;
      Selected s 0 ∧ c.brk = true ∧ c.img1 = some image ∧ c.regs.mode = BitVec.ofNat 2 1 ∧ c.regs.act = false ∧ s.allStopped 0 = true ∧
      c.regs.lc.length = 4 ∧ s.opaqueIntact ((s.launchOf 0).slot c.regs.task.toNat + imageArea 1) 0x2000 image.stamp = true) ∧
    (let s := debugged ((mach { mask := [5] } { last with todo := [] }).modCtx 0 fun c => { c with halt := 31 }); Selected s 0 ∧ s.allStopped 0 = true ∧
      0 < (s.ctx 0).regs.mask.length) ∧
    (let r := fun v : Word64 => ((v.extractLsb' 32 4).toNat, (v.extractLsb' 8 12).toNat, (v.extractLsb' 0 8).toNat, v.getLsbD 63);
      r 0x8000000000003F00 = (0, 63, 0, true) ∧ r 0x0000000100005F00 = (1, 95, 0, false) ∧ r 0x0000000200003F1F = (2, 63, 31, false) ∧
      r 0x8000000300000F01 = (3, 15, 1, true) ∧ r 0x0000000400001F00 = (4, 31, 0, false) ∧ r 0x0000000600000300 = (6, 3, 0, false) ∧
      r 0x0000000900000000 = (9, 0, 0, false) ∧ r 0x8000000700000100 = (7, 1, 0, true) ∧ csrReadOnly 1 = true ∧ r 0x0000000A00000000 = (10, 0, 0, false) ∧
      r 0x0000000300001000 = (3, 16, 0, false)) :=
  ⟨by decide, ⟨selected _ (by decide) rfl, by decide⟩,
    ⟨broken_selected, rfl, rfl, rfl, rfl, rfl, rfl, broken_intact⟩, ⟨selected _ (by decide) rfl, by decide⟩,
    rfl, rfl, rfl, rfl, rfl, rfl, rfl, rfl, by decide, rfl, rfl⟩

/-- A BREAK in NORMAL and in HANDLER mode, in an attached launch and without a debugger; the release of one. -/
theorem wit_BreakStops :
    (let e : Exc := { trap := { cause := 0x51 }, seq := 0, slot := 7 }; e.trap.cause = 0x51 ∧ e.async = none ∧ e.svc = false ∧ e.fetch = false ∧ e.seq = 0 ∧
      ((mach {} last).ctx 0).younger = []) ∧
    (let s := debugged (mach {} last);
      ((s.csr csrDbgAttach).getLsbD 63 = true ∧ (s.csr csrDbgAttach).extractLsb' 0 16 = (s.ctx 0).regs.launch) ∧ (s.ctx 0).regs.mode = 0 ∧
      (s.launchOf 0).trapent ≠ 0) ∧
    (let s := debugged (mach { mode := 1 } last);
      (s.ctx 0).regs.mode ≠ 2 ∧ (s.ctx 0).regs.mode ≠ 0 ∧ (s.csr csrTrapEnt).extractLsb' 0 57 ≠ 0) ∧
    (let s := mach {} last; (s.csr csrDbgAttach).getLsbD 63 = false ∧ (s.ctx 0).halt = 0) ∧
    (let s := broken; let c := s.ctx 0;
      Selected s 0 ∧ c.brk = true ∧ c.img1 = some image ∧ c.regs.mode = BitVec.ofNat 2 1 ∧ c.regs.act = false ∧
      s.opaqueIntact ((s.launchOf 0).slot c.regs.task.toNat + imageArea 1) 0x2000 image.stamp = true) :=
  ⟨by decide, by decide, by decide, by decide, broken_selected, rfl, rfl, rfl, rfl, broken_intact⟩

/-- Each stage that a clause names, with and without an update in progress. -/
theorem wit_BootAndRecovery :
    (let st := fun n : Nat => (({ mach {} last with dev := [(0x90200, BitVec.ofNat 64 n)] } : State).csr 0x90200).toNat % 8;
      st 2 = 2 ∧ st 3 = 3 ∧ st 4 = 4 ∧ st 0x105 = 5) ∧
    (1 : Word64).getLsbD 0 = true ∧ (0 : Word64).getLsbD 0 = false ∧
    ({ State.reset with updating := true } : State).updating = true ∧ State.reset.updating = false ∧
    (State.reset.bootStage ≠ 4 ∧ State.reset.reqs = [] ∧ ∃ t, step State.reset = .next t) := by
  exact ⟨by decide, by decide, by decide, rfl, rfl, by decide, rfl, _, rfl⟩

/-- A step table whose lowest step is in use and one where none is; an interval that is over and one that is not; a column that is hot, one above its
grant, one that is clear for the eleventh time, each at either end of its duty; the clamp asserted and not. -/
theorem wit_PowerLimits :
    (let entry : Word64 := 0x8000000003520258;
      entry.getLsbD 63 = true ∧ 350 ≤ entry.toNat / 2 ^ 16 % 2 ^ 16 ∧ entry.toNat / 2 ^ 16 % 2 ^ 16 ≤ 1050 ∧ entry.toNat / 2 ^ 16 % 2 ^ 16 % 25 = 0 ∧
      450 ≤ entry.toNat % 2 ^ 16 ∧ entry.toNat % 2 ^ 16 ≤ 650 ∧ ({ State.reset with dev := [(0xA0000, entry)] } : State).csr 0xA0000 = entry ∧
      (({ State.reset with dev := [(0xA0000, 0)] } : State).csr 0xA0000).getLsbD 63 = false) ∧
    (State.reset.gt < State.reset.arbiterAt + intervalLength ∧
      (let s := { State.reset with gt := intervalLength }; s.arbiterAt + intervalLength ≤ s.gt ∧ (s.csr 0xA0200).toNat / 2 ^ 16 % 2 ^ 8 < 96 ∧
        (s.csr 0xA0300).toNat / 2 ^ 40 % 2 ^ 5 = 16 ∧ s.clear.get 0 0 < 10 ∧ s.clamped = false)) ∧
    (let s := { State.reset with dev := [(0xA0300, 4 * 2 ^ 40)], clear := [(0, 10)], clamped := true };
      (s.csr 0xA0300).toNat / 2 ^ 40 % 2 ^ 5 = 4 ∧ 10 ≤ s.clear.get 0 0 ∧ s.clamped = true) ∧
    State.reset.pwrEvents = [] := by decide

/-- READY and not; a served queue and one that is not; a request of a slot and of the device that waits for the host; the report. -/
theorem wit_HostRegisters :
    ((State.reset.csr 0x90200).toNat % 8 ≠ 4 ∧ ((mach {} last).csr 0x90200).toNat % 8 = 4 ∧
      ((mach {} last).csr 0x40008).getLsbD 63 = false ∧
      (({ mach {} last with dev := [(0x40008, 0x8000000000000004)] } : State).csr 0x40008).getLsbD 63 = true) ∧
    (let r : Req := { owner := .slot 0 2, addr := 0x1000, act := .read 1, tag := 7 }; let s := { mach {} last with reqs := [r] };
      s.reqs.find? (fun q => decide (q.tag = 7)) = some r ∧ r.ans = none ∧ (∃ m, r.act = .read m) ∧ r.addr / 2 ^ 50 = s.peer ∧
      ([⟨5, false⟩] : List (Val 8)).length = 1 ∧ s.reqs.find? (fun q => decide (q.tag = 8)) = none) ∧
    (let r : Req := { owner := .device, ix := 3, addr := 0x1000, act := .write [⟨0, false⟩], tag := 7 };
      r.ix ≠ sigMark ∧ r.ix % 2 = 1 ∧ ∃ b, r.act = .write b) ∧
    ({ owner := .device, ix := sigMark, addr := 0x1000, act := .write [], tag := 7 } : Req).ix = sigMark ∧
    ((1 : Word64).getLsbD 0 = true ∧ (mach {} last).csr 0x90328 = 0 ∧ (mach {} last).booted = true ∧ (0 : Word64).getLsbD 0 = false) :=
  ⟨by decide, ⟨rfl, rfl, ⟨_, rfl⟩, by decide, rfl, rfl⟩, ⟨by decide, by decide, _, rfl⟩, rfl, by decide⟩

/-- ADD x3 = x1 + x2 is well formed and has a word, which decodes. -/
theorem wit_EncodeThenDecode : (Instr.add true 3 1 2).wf = true ∧ encode (.add true 3 1 2) = some 0x900C1080 := by decide
theorem wit_DecodeThenEncode : decode 0x900C1080 = .ok (.add true 3 1 2) := by decide

/-- A machine whose pc stands at the word of ADD x3 = x1 + x2, in HBM under a TLB entry that lets it be fetched. -/
def atAdd : State := { mapped (mach {} { last with todo := [] }) with mem := Memory.write [] 0x1000 4 fun i => byteOf 0x900C1080 i }
/-- The turn of a context with a slot to run, and of one between bundles; the turn of its VL queue, whose bundle is an older one, with no wait to be
counted. -/
theorem wit_StepRunsDecoded :
    (let s : State := { mach {} { last with todo := [{ idx := 0, word := 0x900C1080 }] } with agenda := [.run 0] };
      let s1 : State := { s.tick with agenda := [] };
      s.agenda = .run 0 :: [] ∧ s.tick.tagNow = none ∧ s1.booted = true ∧ s1.canRun 0 = true ∧ (s1.ctx 0).placing = false ∧ (s1.ctx 0).badRestore = false ∧
      (s1.ctx 0).nextS = some { idx := 0, word := 0x900C1080 } ∧ decode 0x900C1080 = .ok (.add true 3 1 2)) ∧
    (let s : State := { atAdd with agenda := [.run 0] }; let s1 : State := { s.tick with agenda := [] };
      s.tick.tagNow = none ∧ s1.booted = true ∧ s1.canRun 0 = true ∧ (s1.ctx 0).nextS = none ∧ s1.recordDue 0 = false ∧ (s1.tryIssue 0).2 = true ∧
      ((s1.tryIssue 0).1.ctx 0).issue.has .s = true ∧
      ((s1.tryIssue 0).1.ctx 0).issue.todo.head? = some { idx := 0, word := 0x900C1080 } ∧
      (s1.tryIssue 0).1.sReady 0 { idx := 0, word := 0x900C1080 } = true) ∧
    (let q : QSlot := { idx := 0, word := 0xDC0C1000, exu := .vl };
      let s : State := { (mach {} { last with todo := [] }).modCtx 0 (fun c => { c with older := [{ addr := 0xFFC, next := 0x1000, todo := [q] }], counted := [.vl] })
        with agenda := [.queue 0 .vl] };
      let s1 : State := { s.tick with agenda := [] }; let f := s1.modCtx 0 fun c => c.focus .vl;
      s.tick.tagNow = none ∧ s1.booted = true ∧ s1.canQueue 0 .vl = true ∧ (s1.ctx 0).counted.contains .vl = true ∧ f.group 0 .vl = [q] ∧
      decode q.word = .ok (.vld true 3 1)) :=
  ⟨⟨rfl, by decide, by decide, by decide, by decide, by decide, by decide, rfl⟩, by decide +kernel, by decide +kernel⟩

theorem wit_IssuesWhatStandsAtPc :
    let s := atAdd; let c := s.ctx 0; let l := s.launchOf 0; let cap : Cap := { bits := l.codeCap, tag := true }; let va := c.pc.toNat;
    let w : BitVec 32 := 0x900C1080; let e : TlbEntry := { asid := 0, page := 0, size := 2, leaf := 0x881F };
    c.chk = false ∧ cap.check va 4 permX = none ∧ canonical va = true ∧ (s.tlb 0).find? (fun e => e.maps l.asid va) = some e ∧
    leafX e.leaf = true ∧ physical e.leaf e.size va = s.peer * 2 ^ 50 + 0x1000 ∧ region 0x1000 = .hbm ∧
    (∀ j, j < 4 → s.peek (0x1000 + j) = ⟨w.extractLsb' (8 * j) 8, false⟩) ∧
    stops w = true ∧ isPrefix w = false ∧ decode w = .ok (.add true 3 1 2) ∧ countTooWide w none = false ∧ forbidden c.regs.mode w = false ∧
    majorOf w < 0x6E ∧ majorOf w ≠ 0x2D ∧ (infoOf w).exu = .s ∧ c.older = [] ∧ c.issue.todo = [] ∧ c.younger = [] ∧ s.parkedOf 0 = [] ∧
    (let u : BitVec 32 := 0xDC0C1000; stops u = true ∧ isPrefix u = false ∧ decode u = .ok (.vld true 3 1) ∧ countTooWide u none = false ∧
      majorOf u < 0x6E ∧ (infoOf u).exu = .vl ∧ ∀ v, targetOf (.vld true 3 1) v = none) ∧ ∀ u, targetOf (.add true 3 1 2) u = none :=
  ⟨by decide, by decide, by decide, by decide, by decide, by decide, by decide, by decide, by decide, by decide, by decide, by decide, by decide,
    by decide, by decide, by decide, rfl, rfl, rfl, by decide, ⟨by decide, by decide, rfl, by decide, by decide, by decide, fun _ => rfl⟩, fun _ => rfl⟩

/-- A device that has tripped. -/
theorem wit_TrippedHolds :
    let s : State := { State.reset with dev := [(0x90200, 6)] };
    s.bootStage = 6 ∧ ∀ t ∈ s.agenda, t ≠ .event .coldReset ∧ t ≠ .event .powerLoss := by decide

/-- CMINT, CODESWAP and TRAPRET have words; words of major 0 and of a reserved major. -/
theorem wit_ReservedAndPrivileged :
    majorOf 0x80000000 = 0 ∧ (0x80000000 : BitVec 32) &&& 0xFFFFFF = 0 ∧ majorOf 0x80000001 = 0 ∧ (0x80000001 : BitVec 32) &&& 0xFFFFFF ≠ 0 ∧
    decode 0x80000000 = .ok (.nop true) ∧ Running (mach {} last) ∧ majorOf 0xFF000000 = 0x7F ∧ majorOf 0x04000000 = 4 ∧
    (encode (.cmint true 3 1 2)).isSome = true ∧ (encode (.codeswap true 1 2)).isSome = true ∧ (encode (.trapret true)).isSome = true ∧ (0 : BitVec 2) ≠ 3 :=
  ⟨by decide, by decide, by decide, by decide, by decide, running _ _ rfl rfl, by decide, by decide, by decide, by decide, by decide, by decide⟩

/-! ### Worked examples of the spec -/

/-- Words that the spec prints beside their source text, in the examples of R105, R180, R271, R276, R277 and R311. -/
theorem test_words_of_examples : ∀ p ∈ ([
    (0x020A0200, .pguard false 5 false 1), (0x02130400, .pguard false 9 true 2), (0x01000012, .limm false 0x12),
    (0x120C3345, .addi false 3 3 0x345), (0xA8FFFFFF, .br true 0xFFFFFF), (0xEC084148, .mma true 2 4 5 false false true 0),
    (0xE21421D4, .lda true 5 2 7 2 4), (0xE4503205, .atomx true 20 0 3 8 5), (0xE5000034, .fence true false false false true true false 4),
    (0xF2042A20, .copy true 1 2 40 4 0)] : List (BitVec 32 × Instr)), decode p.1 = .ok p.2 := by
  simp only [List.forall_mem_cons, List.not_mem_nil, IsEmpty.forall_iff, implies_true, and_true]
  exact ⟨rfl, rfl, rfl, rfl, rfl, rfl, rfl, rfl, rfl, rfl⟩

/-- The ADDI and the BR of the worked example of R105: x3 = 0x10, LIMM 0x12, the bundle at 0x10008. -/
def bundle : Issue := { addr := 0x10008, next := 0x1001C, todo := [{ idx := 0, word := 0x120C3345, limm := some 0x12 }] }
theorem test_example_addi : xr 3 (run (.addi false 3 3 0x345) (mach { x := [(3, ⟨0x10, false⟩)] } bundle)) = (0x12355, false) := by decide
theorem test_example_branch : targetOf (.br true 0xFFFFFF) (mach {} bundle) = some 0x10004 := by decide

/-- R121, R122: the sum of 2^64 - 1 and 2 wraps; the saturating one of two large words does not. -/
theorem test_add_wraps : xr 3 (run (.add true 3 1 2) (mach (xs [-1, 2]) last)) = (1, false) := by decide
theorem test_add_saturates :
    xr 3 (run (.addSatS32 true 3 1 2) (mach (xs [0x7FFFFFFF, 1]) last)) = (0x7FFFFFFF, false) := by decide
/-- R124, and its examples. -/
theorem test_div_overflow :
    xr 3 (run (.divS32 true 3 1 2) (mach (xs [0x80000000, 0xFFFFFFFF]) last)) = (0xFFFFFFFF80000000, false) := by decide
theorem test_rem_by_zero : xr 3 (run (.remZ64 true 3 1 2) (mach (xs [77, 0]) last)) = (77, false) := by decide
/-- R107: the destination may be a source; x0 takes no write. -/
theorem test_same_register : xr 1 (run (.sub true 1 1 2) (mach (xs [3, 5]) last)) = (-2, false) := by decide
theorem test_x0_reads_zero : xr 0 (run (.add true 0 1 2) (mach (xs [3, 5]) last)) = (0, false) := by decide
/-- Poison of a source goes to the destination. -/
theorem test_poison_spreads : (xr 3 (run (.add true 3 1 2) (mach px last))).2 = true := by decide

/-- The table of R41, in lane 0. -/
def lane (x : BitVec 32) : State := mach { v := [(64, ⟨x, false⟩)], mask := [1] } last
def vr (s : State) : BitVec 32 × Bool := ((s.regs.rv 2 0).v, (s.regs.rv 2 0).psn)
theorem test_vrcpe : vr (run (.vrcpe true 2 1) (lane 0x40400000)) = (0x3EAAB000, false) := by decide +kernel
theorem test_vrsqrte : vr (run (.vrsqrte true 2 1) (lane 0x40000000)) = (0x3F350000, false) := by decide +kernel
theorem test_vexp2e : vr (run (.vexp2e true 2 1) (lane 0x40400000)) = (0x41000000, false) := by decide +kernel
/-- The examples of R34 (464 and 465 in E4M3) and of R35 and R36 (BF16 with the Seed 1 and with RNE). -/
theorem test_vcvt_e4m3 :
    (convert (.fl .f32) (.fl .e4m3) 0 false 0x43E80000).1 = 0x7E ∧ (convert (.fl .f32) (.fl .e4m3) 0 true 0x43E88000).1 = 0x7E := by decide
theorem test_vcvt_stochastic :
    vr (run (.vcvt true 2 1 11 9 true 0) (lane 0x3F804000)) = (0x3F81, false) ∧
    (run (.vcvt true 2 1 11 9 true 0) (lane 0x3F804000)).regs.seed.getD 0 0 = 0x42021 := by decide +kernel
theorem test_vcvt_nearest : vr (run (.vcvt true 2 1 11 9 false 0) (lane 0x3F804000)) = (0x3F80, false) := by decide
/-- R173: VSEED.X of x0. -/
theorem test_vseed_x : ((run (.vseedX true 0) (mach {} last)).regs.seed.take 2) = [0x9E3779B9, 0x3C6EF372] := by decide +kernel

/-- The example of R178: two products of 2^-24 in one step, and one; the operands at 0 and 0x8000. -/
def products (k : Nat) : State :=
  { mach {} last with mem := Memory.write (Memory.write [] 0 (2 * k) fun i => byteOf 0x3980 (i % 2)) 0x8000 (256 * k) fun i =>
      if i % 256 < 2 then byteOf 0x3980 (i % 256) else 0 }
def step1 : MmaStep := { fmt := 4, bs := false, zs := false, stg := false, apitch := 32, bpitch := 256, a := 0, b := 0x8000, sa := 0, sb := 0 }
theorem test_mma_two_products : (products 2).mmaElem 0 step1 ⟨0x3F800000, false⟩ 0 0 = ⟨0x3F800001, false⟩ := by decide +kernel
theorem test_mma_one_product : (products 1).mmaElem 0 step1 ⟨0x3F800000, false⟩ 0 0 = ⟨0x3F800000, false⟩ := by decide +kernel

/-- The example of R288: the scores of nodes 4 to 6, and of node 4 after the increment. -/
def pool1 : TreeRun := { cpuct := 0x3FC00000, vlw := 0x100000000, np := 4 }
theorem test_tree_scores :
    treeScore pool1 2 0 0x100000000 0x8000 = 0x3F800000 ∧ treeScore pool1 1 1 0xC0000000 0x4000 = 0x3E000000 ∧
    treeScore pool1 0 0 0 0x4000 = 0x3F400000 ∧ treeScore pool1 2 1 0x100000000 0x8000 = 0x3EC00000 := by decide +kernel


/-- R133: a condition of FCMP above 4 is ILLEGAL_FUNCTION. -/
theorem test_fcmp_condition : decode 0b1_0100011_000010_000011_000100_110101 = .error .illegalFunction := rfl
/-- R119, R169: VMOV.Z of a poisoned lane delivers value bits 0, as VMOV does. -/
theorem test_vmovz_poison :
    vr (run (.vmovZ true 2 1) (mach { v := [(64, ⟨0x1234, true⟩)], mask := [1] } last)) = (0, true) := by decide
/-- R54, R148: a CSRR of a CORE CSR reads what it held at issue, though a lower slot of the bundle has written it. -/
theorem test_csrr_at_issue :
    xr 3 (run (.csrr true 3 0x101) (mach {} { last with coreOld := [(0x101, 5)] })) = (5, false) := by decide
end Sys2Proof.Tests
end

section
/-! SUPPORT. The statements of scope (00_scope.md): every instruction and event answers a next state, the state after reset,
and the writes of device registers with the completions of the host link. -/
namespace Sys2Proof.Scope
open Sys2Proof Sys2Proof.Machine

/-! ## Every instruction and every event answers a next state (R10, R91) -/

theorem exists_next_of_answers {o : Host.Outcome State Fault Refusal} (h : Answers o = true) : ∃ t, o = .next t := by
  cases o with
  | next t => exact ⟨t, rfl⟩
  | fault r => cases h
  | refused r => cases h

theorem answers_ite {p : Prop} [Decidable p] {x y : Host.Outcome State Fault Refusal} (hx : Answers x = true) (hy : Answers y = true) :
    Answers (if p then x else y) = true := by
  split
  · exact hx
  · exact hy

/-! ### The operations that slots share -/

theorem slotOut_answers (m : M Unit) (s : State) : Answers (slotOut m s) = true := by
  obtain ⟨t, h⟩ := slotOut_next m s
  rw [h]; rfl

theorem trySlot_answers (f : Regs → Regs → Except Trap Regs) (s : State) : Answers (trySlot f s) = true := by
  obtain ⟨t, h⟩ := trySlot_next f s
  rw [h]; rfl

theorem pred2_answers (d a b : BitVec 7) (f : Bool → Bool → Bool) (s : State) : Answers (pred2 d a b f s) = true := by
  unfold pred2; exact trySlot_answers _ s
theorem select_answers (d a : BitVec 6) (p : BitVec 7) (f : Bool → Val 64 → Val 64 → Val 64) (s : State) :
    Answers (select d a p f s) = true := by
  unfold select; exact trySlot_answers _ s
theorem pushLanes_answers (a : BitVec 6) (f : Word64 → Word64 → Word64) (s : State) : Answers (pushLanes a f s) = true := by
  unfold pushLanes; exact trySlot_answers _ s
theorem pushScalar_answers (a : BitVec 6) (f : Word64 → Word64 → Word64) (s : State) : Answers (pushScalar a f s) = true := by
  unfold pushScalar; exact trySlot_answers _ s
theorem fusedVec_answers (nc : Bool) (d a b : BitVec 6) (bs np : Bool) (v : BitVec 4) (s : State) :
    Answers (fusedVec nc d a b bs np v s) = true := by
  unfold fusedVec
  cases eltType v <;> rfl

/-! ### The slots with a case of their own -/

theorem execCmp_answers (p : BitVec 7) (a b : BitVec 6) (c : BitVec 3) (s : State) : Answers (execCmp p a b c s) = true := by
  unfold execCmp; exact trySlot_answers _ s
theorem execCmpi_answers (p : BitVec 7) (a i : BitVec 6) (c : BitVec 3) (s : State) : Answers (execCmpi p a i c s) = true := by
  unfold execCmpi; exact trySlot_answers _ s
theorem execLoopPush_answers (a : BitVec 6) (s : State) : Answers (execLoopPush a s) = true := by
  unfold execLoopPush; exact trySlot_answers _ s
theorem execVseed_answers (a : BitVec 6) (s : State) : Answers (execVseed a s) = true := by
  unfold execVseed; exact trySlot_answers _ s
theorem execVseedX_answers (a : BitVec 6) (s : State) : Answers (execVseedX a s) = true := by
  unfold execVseedX; exact trySlot_answers _ s
theorem execNget_answers (d i : BitVec 6) (s : State) : Answers (execNget d i s) = true := by
  unfold execNget; exact slotOut_answers _ s
theorem execTstatLog_answers (d c : BitVec 6) (s : State) : Answers (execTstatLog d c s) = true := by
  unfold execTstatLog; exact slotOut_answers _ s

/-- The end of a step, which a preemption may wait for, and the end of a task. -/
theorem execStepend_answers (s : State) : Answers (execStepend s) = true := by
  unfold execStepend
  refine answers_ite (answers_ite rfl ?_) (answers_ite rfl rfl)
  dsimp only
  split <;> rfl
theorem execYield_answers (s : State) : Answers (execYield s) = true := by
  unfold execYield
  refine answers_ite rfl ?_
  split
  · exact answers_ite rfl (answers_ite rfl rfl)
  · rfl
theorem execPrefetch_answers (d : BitVec 6) (c : BitVec 4) (b : BitVec 6) (o : Bool) (s : State) :
    Answers (execPrefetch d c b o s) = true := by
  unfold execPrefetch
  dsimp only
  split <;> rfl
theorem execVsqrt_answers (d a : BitVec 6) (v : BitVec 4) (s : State) : Answers (execVsqrt d a v s) = true := by
  unfold execVsqrt
  cases eltType v <;> rfl
theorem execVcmp_answers (y : Bool) (c : BitVec 3) (a b : BitVec 6) (x : Bool) (v : BitVec 4) (s : State) :
    Answers (execVcmp y c a b x v s) = true := by
  unfold execVcmp
  dsimp only
  split <;> rfl

/-- A meaning reaches its next state in one of three ways: the end of a slot that may wait, ask or raise decides (`slotOut`), a
branch of its own does, or no branch stands before it. -/
theorem exec_answers (i : Instr) (s : State) : Answers (exec i s) = true := by
  cases i with
  | loops | cnarrowOff | cnarrowLen | cnarrowBase | cnarrowiOff | cnarrowiLen | cnarrowiBase | cperm | cshape | trans | wtake | join
  | leave | lds | sts | ldf | ldfe | ste | stf | tagclr | vld | vldBank | vldStr | vldG | vst | vstBank | vstStr | vstG | vldg | vldgG
  | vstg | vstgG | vldt | ldg | stg | lda | sta | atomSwap | atomCas | atomAdd | atomAnd | atomOr | atomXor | atomMinS | atomMaxS
  | atomMinZ | atomMaxZ | atomFadd | atomFmin | atomFmax | atomx | fence | flush | discard | sbopFill | sbopAdd | sbopFadd | sbopMax
  | mma | nset | nsetA | ngetA | ngo | ngoM | accrd | accwr | accz | obcast | mopen | accmerge | copy | send | fbind | funbind | fpush
  | fpushEos | fpop | coll | clopen | clclose | trsel | trexp | trback | trbackVo | trroot | trpoolInit | trpoolParam | qbgate
  | qbdiag | qbmap | qbmapSet | qbmapGet | qbmapEnd | qbswap | qbnorm | qbprob | qbcoll | twait | twaitCh | tstat | waitc | barinit
  | bararr | barexp | barwait | bartry | trigat | trigcnt | trigcan | qdepthX | qmode => exact slotOut_answers _ _
  | nget => exact execNget_answers _ _ _
  | tstatLog => exact execTstatLog_answers _ _ _
  | pand _ d a b => exact pred2_answers d a b (· && ·) s
  | por _ d a b => exact pred2_answers d a b (· || ·) s
  | pxor _ d a b => exact pred2_answers d a b (· != ·) s
  | pandn _ d a b => exact pred2_answers d a b (fun x y => x && !y) s
  | porn _ d a b => exact pred2_answers d a b (fun x y => x || !y) s
  | pmov _ d a => exact pred2_answers d a a (fun x _ => x) s
  | pnot _ d a => exact pred2_answers d a a (fun x _ => !x) s
  | pxnor _ d a b => exact pred2_answers d a b (· == ·) s
  | sel _ d a p => exact select_answers d a p (fun q x z => if q then x else z) s
  | selz _ d a p => exact select_answers d a p (fun q x _ => if q then x else ⟨0, false⟩) s
  | seln _ d a p => exact select_answers d a p (fun q x z => if q then z else x) s
  | mpush _ a => exact pushLanes_answers a (· &&& ·) s
  | mpushRaw _ a => exact pushLanes_answers a (fun m _ => m) s
  | mpushX _ a => exact pushScalar_answers a (· &&& ·) s
  | mpushXRaw _ a => exact pushScalar_answers a (fun m _ => m) s
  | cmp => exact execCmp_answers _ _ _ _ _
  | cmpi => exact execCmpi_answers _ _ _ _ _
  | loopPush => exact execLoopPush_answers _ _
  | vseed => exact execVseed_answers _ _
  | vseedX => exact execVseedX_answers _ _
  | vfma | vfms => exact fusedVec_answers _ _ _ _ _ _ _ _
  | vsqrt => exact execVsqrt_answers _ _ _ _
  | vcmp => exact execVcmp_answers _ _ _ _ _ _ _
  | prefetch => exact execPrefetch_answers _ _ _ _ _
  | stepend => exact execStepend_answers _
  | yield => exact execYield_answers _
  | fadd | fsub | fmul | fmin | fmax | ffma | ffms | ffnma | ffnms | fdiv | fsqrt | fcvt | fclass | bri | ret | loop | claspAbort =>
    exact answers_ite rfl rfl
  | fcmp | trapret => exact answers_ite rfl (answers_ite rfl rfl)
  | csrw => exact answers_ite rfl (answers_ite rfl (answers_ite rfl rfl))
  | cmint | codeswap => exact answers_ite rfl (slotOut_answers _ _)
  | _ => rfl

/-- Settles O59: the meaning of every constructor answers a next state. -/
theorem nothingStops : Obligations.NothingStops := by
  unfold Obligations.NothingStops
  exact fun i s => exists_next_of_answers (exec_answers i s)

/-! ## The state after reset (R6, R12, R437) -/

/-- No byte of the state after reset is set or poisoned: log entry 1. -/
theorem reset_peek (a : Nat) : State.reset.peek a = ⟨0, false⟩ := rfl

/-- Nothing is written yet: a register holds what the spec gives it for reset. -/
theorem reset_csr (o : Nat) : State.reset.csr o = csrReset o := rfl

/-- Settles O57: each part is read off the empty state. -/
theorem resetState : Obligations.ResetState := by
  unfold Obligations.ResetState
  refine ⟨rfl, rfl, rfl, rfl, rfl, State.reset_mem_wf, reset_peek, rfl, ?_⟩
  simp only [reset_csr]
  decide

/-! ## Writes of device registers (R6, R325, R437) -/

/-- What the statement asks of a write that reaches the register at `o`, with the RW bits `m` and the W1C bits `clear`. -/
def StoresAt (s : State) (off : BitVec 32) (v : Word64) (o : Nat) (m clear : Word64) : Prop :=
  off.toNat = o → ∃ t, exec (.registerWrite off v) s = .next t ∧
    t.csr o = ((s.csr o &&& ~~~m) ||| (v &&& m)) &&& ~~~(v &&& clear) ∧ (∀ p, p ≠ o → t.csr p = s.csr p) ∧ t = { s with dev := t.dev }

theorem exec_registerWrite (s : State) (off : BitVec 32) (v : Word64) :
    exec (.registerWrite off v) s = .next (if s.reaches off.toNat ∧ (s.writable off.toNat ||| clearMask off.toNat) ≠ 0 then
      s.setCsr off.toNat (((s.csr off.toNat &&& ~~~(s.writable off.toNat)) ||| (v &&& s.writable off.toNat)) &&&
        ~~~(v &&& clearMask off.toNat)) else s) := rfl

/-- A write that reaches a register with a bit to write changes that register alone. -/
theorem storesAt_of_masks {s : State} {o : Nat} {m clear : Word64} (hr : s.reaches o = true) (hm : s.writable o = m)
    (hc : clearMask o = clear) (hne : m ||| clear ≠ 0) (off : BitVec 32) (v : Word64) : StoresAt s off v o m clear := by
  rintro rfl
  refine ⟨_, by rw [exec_registerWrite, if_pos ⟨hr, by rwa [hm, hc]⟩, hm, hc], ?_, ?_, rfl⟩
  · exact State.csr_setCsr_same _ _ _
  · intro p hp
    rw [State.csr_setCsr, if_neg hp]

/-- A write that does not reach its register is lost. -/
theorem registerWrite_of_not_reaches {s : State} {off : BitVec 32} (v : Word64) (h : s.reaches off.toNat = false) :
    exec (.registerWrite off v) s = .next s := by
  rw [exec_registerWrite, if_neg (by simp [h])]
/-- A register with no bit to write now stays as it is. -/
theorem registerWrite_of_no_bits {s : State} {off : BitVec 32} (v : Word64) (hm : s.writable off.toNat = 0)
    (hc : clearMask off.toNat = 0) : exec (.registerWrite off v) s = .next s := by
  rw [exec_registerWrite, if_neg (by simp [hm, hc])]

/-! ### Which registers a write reaches -/

theorem booted_iff (s : State) : s.booted = true ↔ (s.csr 0x90200).toNat % 8 = 4 := by
  simp [State.booted]
theorem reaches_of_booted {s : State} (h : s.booted = true) (o : Nat) : s.reaches o = true := by
  simp [State.reaches, h]
theorem reaches_of_boot_register (s : State) {o : Nat} (h : 0x90200 ≤ o ∧ o < 0x90300) : s.reaches o = true := by
  simp [State.reaches, h]
theorem not_reaches_before_ready {s : State} {o : Nat} (h : s.booted = false) (ho : o < 0x90200 ∨ 0x90300 ≤ o) :
    s.reaches o = false := by
  simp only [State.reaches, h, Bool.false_or, decide_eq_false_iff_not]
  omega

/-! ### The bits of a register that a write reaches -/

/-- Outside the Zhoask queues the RW bits are always open, and no bit is W1C. -/
theorem writable_of_not_queue (s : State) {o : Nat} (h : o < 0x40000 ∨ 0x40800 ≤ o) : s.writable o = rwMask o := by
  rw [State.writable, if_neg (by omega)]
theorem clearMask_of_not_queue {o : Nat} (h : o < 0x40000 ∨ 0x40800 ≤ o) : clearMask o = 0 := by
  rw [clearMask, if_neg (by omega)]

/-- A register outside the queues, by its RW bits. -/
theorem storesAt_of_rwMask {s : State} {o : Nat} {m : Word64} (hr : s.reaches o = true) (ho : o < 0x40000 ∨ 0x40800 ≤ o)
    (hm : rwMask o = m) (hne : m ≠ 0) (off : BitVec 32) (v : Word64) : StoresAt s off v o m 0 :=
  storesAt_of_masks hr ((writable_of_not_queue s ho).trans hm) (clearMask_of_not_queue ho) (by simpa using hne) off v

theorem rwMask_step {k : Nat} (h : k < 8) : rwMask (0xA0000 + 8 * k) = 0x80000007FFFFFFFF := by
  revert k; decide

theorem rwMask_queue_base {q : Nat} (h : q < 64) : rwMask (0x40000 + 0x20 * q) = 0xFFFFFFFFFFFFF000 := by
  revert q; decide
theorem rwMask_queue_ctl {q : Nat} (h : q < 64) : rwMask (0x40000 + 0x20 * q + 8) = 0x800000000000031F := by
  revert q; decide
theorem rwMask_queue_tail {q : Nat} (h : q < 64) : rwMask (0x40000 + 0x20 * q + 0x18) = 0xFFFFFFFF := by
  revert q; decide

/-- The register at offset `j` of queue `q`, with whether the queue is served (R325). -/
theorem writable_queue (s : State) {q j : Nat} (hq : q < 64) (hj : j < 0x20) :
    s.writable (0x40000 + 0x20 * q + j) =
      if (s.csr (0x40000 + 0x20 * q + 8)).getLsbD 63 = true then
        if j = 0 then 0 else if j = 8 then 0x8000000000000300 else rwMask (0x40000 + 0x20 * q + j)
      else rwMask (0x40000 + 0x20 * q + j) := by
  have hz : (0x40000 + 0x20 * q + j) / 0x20 * 0x20 + 8 = 0x40000 + 0x20 * q + 8 := by omega
  have hm : (0x40000 + 0x20 * q + j) % 0x20 = j := by omega
  have hin : 0x40000 ≤ 0x40000 + 0x20 * q + j ∧ 0x40000 + 0x20 * q + j < 0x40800 := by omega
  simp only [State.writable, hz, hm, hin, true_and]
theorem clearMask_queue {q j : Nat} (hq : q < 64) (hj : j < 0x20) :
    clearMask (0x40000 + 0x20 * q + j) = if j = 8 then 0x4000000000000000 else 0 := by
  have hm : (0x40000 + 0x20 * q + j) % 0x20 = j := by omega
  have hin : 0x40000 ≤ 0x40000 + 0x20 * q + j ∧ 0x40000 + 0x20 * q + j < 0x40800 := by omega
  simp only [clearMask, hm, hin, true_and]

/-! ### The registers of one Zhoask queue -/

section
variable {s : State} {q : Nat} (hb : s.booted = true) (hq : q < 64)
include hb hq

theorem stores_idle_queue (h : (s.csr (0x40000 + 0x20 * q + 8)).getLsbD 63 = false) (off : BitVec 32) (v : Word64) :
    StoresAt s off v (0x40000 + 0x20 * q) 0xFFFFFFFFFFFFF000 0 ∧
      StoresAt s off v (0x40000 + 0x20 * q + 8) 0x800000000000031F 0x4000000000000000 := by
  have base := writable_queue s hq (j := 0) (by decide)
  have ctl := writable_queue s hq (j := 8) (by decide)
  simp only [h, Bool.false_eq_true, if_false] at base ctl
  exact ⟨storesAt_of_masks (reaches_of_booted hb _) (base.trans (rwMask_queue_base hq))
      (clearMask_queue hq (j := 0) (by decide)) (by decide) off v,
    storesAt_of_masks (reaches_of_booted hb _) (ctl.trans (rwMask_queue_ctl hq))
      (clearMask_queue hq (j := 8) (by decide)) (by decide) off v⟩

/-- While a queue is served, LOG2SIZE and BASE hold. -/
theorem stores_served_queue (h : (s.csr (0x40000 + 0x20 * q + 8)).getLsbD 63 = true) (off : BitVec 32) (v : Word64) :
    StoresAt s off v (0x40000 + 0x20 * q + 8) 0x8000000000000300 0x4000000000000000 ∧
      (off.toNat = 0x40000 + 0x20 * q → exec (.registerWrite off v) s = .next s) := by
  have base := writable_queue s hq (j := 0) (by decide)
  have ctl := writable_queue s hq (j := 8) (by decide)
  rw [if_pos h] at base ctl
  have ctl : s.writable (0x40000 + 0x20 * q + 8) = 0x8000000000000300 := ctl
  have clr : clearMask (0x40000 + 0x20 * q + 8) = 0x4000000000000000 := clearMask_queue hq (by decide)
  refine ⟨storesAt_of_masks (reaches_of_booted hb _) ctl clr (by decide) off v, fun ho => registerWrite_of_no_bits v ?_ ?_⟩
  · rw [ho]; exact base
  · rw [ho]; exact clearMask_queue hq (j := 0) (by decide)

theorem stores_queue_tail (off : BitVec 32) (v : Word64) : StoresAt s off v (0x40000 + 0x20 * q + 0x18) 0xFFFFFFFF 0 := by
  have tail := writable_queue s hq (j := 0x18) (by decide)
  simp only [Nat.reduceEqDiff, if_false, ite_self, rwMask_queue_tail hq] at tail
  exact storesAt_of_masks (reaches_of_booted hb _) tail (clearMask_queue hq (j := 0x18) (by decide)) (by decide) off v
end

/-- A register that is written is one of boot, one of the device, or one of a queue, with the masks of its kind. -/
theorem registerWrites : Sys2Proof.Parts.RegisterWrites := by
  unfold Sys2Proof.Parts.RegisterWrites
  intro s off v
  refine ⟨fun hn ho => ?_, ⟨?_, ?_⟩, fun h4 => ?_⟩
  · have hb : s.booted = false := by simpa [State.booted] using hn
    exact registerWrite_of_not_reaches v (not_reaches_before_ready hb ho)
  · exact storesAt_of_rwMask (reaches_of_boot_register s (by decide)) (by decide) rfl (by decide) off v
  · exact storesAt_of_rwMask (reaches_of_boot_register s (by decide)) (by decide) rfl (by decide) off v
  · have hb := (booted_iff s).mpr h4
    have one : ∀ {o : Nat} {m : Word64}, (o < 0x40000 ∨ 0x40800 ≤ o) → rwMask o = m → m ≠ 0 → StoresAt s off v o m 0 :=
      fun ho hm hne => storesAt_of_rwMask (reaches_of_booted hb _) ho hm hne off v
    refine ⟨one (by decide) rfl (by decide), one (by decide) rfl (by decide), one (by decide) rfl (by decide),
      one (by decide) rfl (by decide), one (by decide) rfl (by decide), one (by decide) rfl (by decide),
      one (by decide) rfl (by decide), one (by decide) rfl (by decide), one (by decide) rfl (by decide),
      one (by decide) rfl (by decide), one (by decide) rfl (by decide), one (by decide) rfl (by decide),
      one (by decide) rfl (by decide), fun k hk => one (by omega) (rwMask_step hk) (by decide), fun q hq => ?_⟩
    exact ⟨fun h => stores_idle_queue hb hq h off v, fun h => stores_served_queue hb hq h off v, stores_queue_tail hb hq off v⟩

/-! ## Completions of the host link (R434, R423, R439) -/

theorem exec_hostLinkCompletion (s : State) (n : Nat) (err : Bool) (data : List (Val 8)) :
    exec (.hostLinkCompletion n err data) s = execHostLinkCompletion n err data s := rfl

/-- What the host link carries: reads, writes and atomics. -/
def Carried (a : Ask) : Prop := (∃ m, a = .read m) ∨ (∃ b, a = .write b) ∨ ∃ op w x y o, a = .atomic op w x y o

/-- A request of the device, or to an address of this device, goes to no peer. -/
theorem not_outbound_of_carried {s : State} {r : Req} (hc : Carried r.act) (ho : r.owner = .device ∨ r.addr / 2 ^ 50 = s.peer) :
    s.outbound r = false := by
  unfold State.outbound
  rcases ho with ho | ho
  · simp [ho]
  · rcases hc with ⟨m, h⟩ | ⟨b, h⟩ | ⟨op, w, x, y, o, h⟩ <;> rw [ho, h] <;> simp

/-- Without an answer it waits for the host. -/
theorem hostBound_of_carried {s : State} {r : Req} (ha : r.ans = none) (hc : Carried r.act)
    (ho : r.owner = .device ∨ r.addr / 2 ^ 50 = s.peer) : s.hostBound r = true := by
  unfold State.hostBound
  rw [ha, not_outbound_of_carried hc ho]
  rcases hc with ⟨m, h⟩ | ⟨b, h⟩ | ⟨op, w, x, y, o, h⟩ <;> rw [h] <;> rfl

/-- The answer that a completion carries. -/
def completion (err : Bool) (data : List (Val 8)) : Answer := if err then .fail 0x22 0 else .data data

section
variable {s : State} {n : Nat} {err : Bool} {data : List (Val 8)} {r : Req}

theorem completion_none (h : s.reqs.find? (fun q => decide (q.tag = n)) = none) :
    exec (.hostLinkCompletion n err data) s = .next s := by
  rw [exec_hostLinkCompletion, execHostLinkCompletion, h]

variable (hf : s.reqs.find? (fun q => decide (q.tag = n)) = some r) (hb : s.hostBound r = true)
include hf

theorem tag_of_find : r.tag = n := by
  simpa using List.find?_some hf

include hb

/-- An error status, or as many bytes as were asked for, answers the request. -/
theorem completion_answers (h : err = true ∨ data.length = r.act.answerBytes) :
    exec (.hostLinkCompletion n err data) s = .next (s.answer r (completion err data)) := by
  rw [exec_hostLinkCompletion, execHostLinkCompletion, hf]
  cases err
  · simp [hb, completion, h.resolve_left]
  · simp [hb, completion]

/-- Any other number of bytes is no answer. -/
theorem completion_wrong_length (he : err = false) (h : data.length ≠ r.act.answerBytes) :
    exec (.hostLinkCompletion n err data) s = .next s := by
  rw [exec_hostLinkCompletion, execHostLinkCompletion, hf]
  simp [hb, he, h]
end

/-! ### Requests of the device itself, and of a slot -/

theorem tag_ne_of_mem_filter {rs : List Req} {n : Nat} {q : Req} (h : q ∈ rs.filter fun q => q.tag ≠ n) : q.tag ≠ n := by
  simpa using (List.mem_filter.mp h).2
theorem csr_setCsr_of_notMem {s : State} {k o : Nat} {v : Word64} (h : o ∉ [k]) : (s.setCsr k v).csr o = s.csr o := by
  rw [State.csr_setCsr, if_neg (by simpa using h)]

/-- A counter of 32 bits reads as it was written. -/
theorem toNat_csr_setCsr_mod (s : State) (k n : Nat) : ((s.setCsr k (BitVec.ofNat 64 (n % 2 ^ 32))).csr k).toNat = n % 2 ^ 32 := by
  rw [State.csr_setCsr_same, BitVec.toNat_ofNat]
  exact Nat.mod_eq_of_lt (by omega)

theorem answer_of_slot {s : State} {r : Req} {k j : Nat} (h : r.owner = .slot k j) (a : Answer) :
    s.answer r a = { s with reqs := s.reqs.map fun q => if q.tag = r.tag then { q with ans := some a } else q } := by
  simp only [State.answer, h]

/-- A page request of the device: it is counted, whether it was written or failed (log entries 20 and 44). -/
theorem answer_of_page {s : State} {r : Req} (h : r.owner = .device) (hs : r.ix ≠ sigMark) (ho : r.ix % 2 = 1) (a : Answer) :
    s.answer r a = { s with reqs := s.reqs.filter fun q => q.tag ≠ r.tag, irqs := s.irqs ++ [r.ix / 2] }.setCsr csrPfTail
      (BitVec.ofNat 64 (((s.csr csrPfTail).toNat + 1) % 2 ^ 32)) := by
  simp only [State.answer, h, hs, ho, if_false, if_true]

/-- The report is written. -/
theorem answer_of_report {s : State} {r : Req} (h : r.owner = .device) (hs : r.ix = sigMark) (bs : List (Val 8)) :
    s.answer r (.data bs) = { s with reqs := s.reqs.filter fun q => q.tag ≠ r.tag }.setCsr csrSigCmd 0 := by
  simp only [State.answer, h, hs, if_true]

/-! ### The report (R439) -/

/-- The bytes of a report, of length `256 + n % 1025`, and the request that writes them. -/
def reportBytes (n k : Nat) : List (Val 8) := (List.range (256 + n % 1025)).map fun i => ⟨Config.byte k i, false⟩
def reportReq (s : State) (bs : List (Val 8)) : Req :=
  { owner := .device, ix := sigMark, addr := (s.csr 0x90320).toNat / 4096 * 4096, act := .write bs, scope := 6 }

theorem exec_sigCmd (s : State) (v : Word64) :
    exec (.sigCmd v) s = .next (if v.getLsbD 0 ∧ s.csr csrSigCmd = 0 ∧ s.booted = true then
      ({ s with free := s.free + 2 }.addReq (reportReq s (reportBytes (Config.choice s.free) (s.free + 1)))).setCsr csrSigCmd 1
    else s) := rfl

theorem length_reportBytes (n k : Nat) : (reportBytes n k).length = 256 + n % 1025 := by
  simp [reportBytes]

/-- A request made is appended, as it is but for its number, its time and who made it. -/
theorem addReq_eq (s : State) (r : Req) : ∃ q : Req, q.owner = r.owner ∧ q.addr = r.addr ∧ q.act = r.act ∧
    s.addReq r = { s with reqs := s.reqs ++ [q], nextReq := s.nextReq + 1 } := by
  refine ⟨_, ?_, ?_, ?_, rfl⟩
  all_goals rfl

/-- SIG.CMD asks the host to take the report, and reads 1 until it has. -/
theorem sigCmd_sends {s : State} {v : Word64} (h : v.getLsbD 0 = true ∧ s.csr csrSigCmd = 0 ∧ s.booted = true) :
    ∃ q t bs, exec (.sigCmd v) s = .next (State.setCsr t csrSigCmd 1) ∧
      t = { s with free := t.free, reqs := s.reqs ++ [q], nextReq := t.nextReq } ∧
      q.owner = .device ∧ q.addr = (s.csr 0x90320).toNat / 4096 * 4096 ∧ q.act = .write bs ∧ 256 ≤ bs.length ∧ bs.length ≤ 1280 := by
  obtain ⟨q, howner, haddr, hact, hq⟩ :=
    addReq_eq { s with free := s.free + 2 } (reportReq s (reportBytes (Config.choice s.free) (s.free + 1)))
  have hlen := length_reportBytes (Config.choice s.free) (s.free + 1)
  refine ⟨q, _, _, by rw [exec_sigCmd, if_pos h], ?_, howner, haddr, hact, by omega, by omega⟩
  rw [hq]
/-- No report is asked for while one is on its way, or by a write of 0. -/
theorem sigCmd_ignored {s : State} {v : Word64} (h : v.getLsbD 0 = false ∨ s.csr csrSigCmd ≠ 0) :
    exec (.sigCmd v) s = .next s := by
  rw [exec_sigCmd, if_neg]
  rintro ⟨hv, hc, -⟩
  rcases h with h | h
  · rw [h] at hv; cases hv
  · exact h hc

/-- A completion is an answer to a request that waits for the host; the owner decides what the answer does. -/
theorem hostLink : Sys2Proof.Parts.HostLink := by
  unfold Sys2Proof.Parts.HostLink
  intro s n err data r v asked carried only
  have hasked : asked = r.act.answerBytes := by
    simp only [asked]
    cases r.act <;> rfl
  refine ⟨fun hf ha hc => ?_, completion_none, fun hv hz hb => ?_, sigCmd_ignored⟩
  · have ht : r.tag = n := tag_of_find hf
    have answers : (r.owner = .device ∨ r.addr / 2 ^ 50 = s.peer) → (err = true ∨ data.length = asked) →
        exec (.hostLinkCompletion n err data) s = .next (s.answer r (completion err data)) := fun ho h =>
      completion_answers hf (hostBound_of_carried ha hc ho) (by rwa [← hasked])
    refine ⟨fun ho he h => ?_, fun k j ho hp h => ?_, fun ho hs h1 h => ?_, fun ho hs he h => ?_⟩
    · exact completion_wrong_length hf (hostBound_of_carried ha hc ho) he (by rwa [← hasked])
    · refine ⟨_, answers (.inr hp) h, ?_⟩
      rw [answer_of_slot ho, ht]
      exact ⟨⟨fun _ _ => rfl, rfl, rfl⟩, rfl⟩
    · refine ⟨_, answers (.inl ho) h, ?_⟩
      rw [answer_of_page ho hs h1, ht]
      exact ⟨⟨fun o ho => csr_setCsr_of_notMem ho, rfl, rfl⟩, toNat_csr_setCsr_mod _ _ _, rfl, fun q hq => tag_ne_of_mem_filter hq⟩
    · refine ⟨_, answers (.inl ho) (.inr h), ?_⟩
      rw [completion, if_neg (ne_true_of_eq_false he), answer_of_report ho hs, ht]
      exact ⟨⟨fun o ho => csr_setCsr_of_notMem ho, rfl, rfl⟩, State.csr_setCsr_same _ _ _, fun q hq => tag_ne_of_mem_filter hq⟩
  · obtain ⟨q, t, bs, he, ht, howner, haddr, hact, hlen⟩ := sigCmd_sends ⟨hv, hz, hb⟩
    rw [ht] at he
    exact ⟨_, q, bs, he, ⟨fun o ho => csr_setCsr_of_notMem ho, rfl, rfl⟩, State.csr_setCsr_same _ _ _, rfl, howner, haddr, hact, hlen⟩

/-- Settles O51: each write by the masks of its register, each completion by the request that it answers. -/
theorem hostRegisters : Obligations.HostRegisters := by
  unfold Obligations.HostRegisters
  exact ⟨registerWrites, hostLink⟩

end Sys2Proof.Scope
end

section
/-! SUPPORT. Clocks and power (R25, R440 to R443): the arbiter's grants, its action on a column, the margin warning and the package
clamp. The columns are dealt with one after the other; each finds its own registers as they stood before the first. -/
namespace Sys2Proof.Power
open Sys2Proof Sys2Proof.Machine

/-! ## Grants (R443) -/

/-- A demand and its grant, raised by `x` W as far as the demand goes. -/
def topUp (x : Nat) (g : Nat × Nat) : Nat × Nat := (g.1, min g.1 (g.2 + x))
/-- The watts granted. -/
def granted (gs : List (Nat × Nat)) : Nat := (gs.map (·.2)).sum

theorem topUp_topUp (x y : Nat) (g : Nat × Nat) : topUp y (topUp x g) = topUp (x + y) g := by
  simp only [topUp, Prod.mk.injEq, true_and]
  omega
theorem topUp_zero {g : Nat × Nat} (h : g.2 ≤ g.1) : topUp 0 g = g := Prod.ext rfl (Nat.min_eq_right h)
theorem map_topUp_zero {gs : List (Nat × Nat)} (h : ∀ g ∈ gs, g.2 ≤ g.1) : gs.map (topUp 0) = gs :=
  (List.map_congr_left fun g hg => topUp_zero (h g hg)).trans (List.map_id gs)
/-- Only a column that demands more takes up watts. -/
theorem granted_topUp_le {gs : List (Nat × Nat)} (h : ∀ g ∈ gs, g.2 ≤ g.1) (x : Nat) :
    granted (gs.map (topUp x)) ≤ granted gs + (gs.filter fun g => g.2 < g.1).length * x := by
  induction gs with
  | nil => simp [granted]
  | cons g gs ih =>
    have hg := h g List.mem_cons_self
    have ih := ih fun g hg => h g (List.mem_cons_of_mem _ hg)
    simp only [granted, List.map_cons, List.sum_cons, List.filter_cons, decide_eq_true_eq] at ih ⊢
    split
    · simp only [List.length_cons, Nat.succ_mul, topUp] at ih ⊢
      omega
    · simp only [topUp] at ih ⊢
      omega

/-- The rest of the budget raises every column by one amount, as far as its demand goes, and no more is shared than is left. -/
theorem shareOut_eq (n : Nat) : ∀ (left : Nat) (gs : List (Nat × Nat)), (∀ g ∈ gs, g.2 ≤ g.1) →
    ∃ x, shareOut n left gs = gs.map (topUp x) ∧ granted (gs.map (topUp x)) ≤ granted gs + left := by
  induction n with
  | zero =>
    intro left gs h
    exact ⟨0, (map_topUp_zero h).symm, by rw [map_topUp_zero h]; omega⟩
  | succ n ih =>
    intro left gs h
    rw [shareOut]
    split
    · exact ⟨0, (map_topUp_zero h).symm, by rw [map_topUp_zero h]; omega⟩
    · have hone := granted_topUp_le h (left / (gs.filter fun g => g.2 < g.1).length)
      have hdiv := Nat.mul_div_le left (gs.filter fun g => g.2 < g.1).length
      generalize left / (gs.filter fun g => g.2 < g.1).length = q at hone hdiv ⊢
      obtain ⟨x, heq, hsum⟩ := ih (left - (granted (gs.map (topUp q)) - granted gs)) (gs.map (topUp q)) fun g hg => by
        obtain ⟨p, -, rfl⟩ := List.mem_map.mp hg
        exact Nat.min_le_left _ _
      have hcomp : (gs.map (topUp q)).map (topUp x) = gs.map (topUp (q + x)) := by
        rw [List.map_map]
        exact List.map_congr_left fun g _ => topUp_topUp q x g
      rw [hcomp] at heq hsum
      exact ⟨q + x, heq, by omega⟩

/-- What each column first receives. -/
def firstShares (budget : Nat) (demands : List Nat) : List (Nat × Nat) := demands.map fun d => (d, min d (budget / 16))

theorem grantsOf_eq_shareOut (budget : Nat) (demands : List Nat) : grantsOf budget demands =
    (shareOut 17 (budget - granted (firstShares budget demands)) (firstShares budget demands)).map (·.2) := rfl
/-- Sixteen columns first receive no more than the budget. -/
theorem granted_firstShares_le {budget : Nat} {demands : List Nat} (hlen : demands.length = 16) :
    granted (firstShares budget demands) ≤ budget := by
  have := List.sum_le_card_nsmul (demands.map fun d => min d (budget / 16)) (budget / 16) (by simp)
  simp only [List.length_map, hlen, smul_eq_mul] at this
  simp only [granted, firstShares, List.map_map, Function.comp_def]
  omega

/-- Each of sixteen columns is granted its demand up to one level, a sixteenth of the budget or more; the grants stay in the budget. -/
theorem grantsOf_eq {budget : Nat} {demands : List Nat} (hlen : demands.length = 16) :
    ∃ x, grantsOf budget demands = demands.map (fun d => min d (budget / 16 + x)) ∧ (grantsOf budget demands).sum ≤ budget := by
  have hfirst := granted_firstShares_le (budget := budget) hlen
  obtain ⟨x, heq, hsum⟩ := shareOut_eq 17 (budget - granted (firstShares budget demands)) (firstShares budget demands)
    (by simp [firstShares])
  rw [grantsOf_eq_shareOut, heq]
  refine ⟨x, ?_, hsum.trans (by omega)⟩
  simp only [firstShares, List.map_map]
  refine List.map_congr_left fun d _ => ?_
  simp only [Function.comp, topUp]
  omega

/-! ## The registers of a column -/

/-- The field of `n` bits from bit `lo` on of PWR.COLc. -/
def row (s : State) (c lo n : Nat) : Nat := (s.csr (0xA0300 + 8 * c)).toNat / 2 ^ lo % 2 ^ n

/-- PWR.CFG.TCAP. -/
def tcap (s : State) : Nat := (s.csr 0xA0200).toNat / 2 ^ 16 % 2 ^ 8

theorem toNat_extract {w : Nat} (x : BitVec w) (lo n : Nat) : (x.extractLsb' lo n).toNat = x.toNat / 2 ^ lo % 2 ^ n := by
  rw [BitVec.extractLsb'_toNat, Nat.shiftRight_eq_div_pow]
theorem duty_eq (s : State) (c : Nat) : s.duty c = row s c 40 5 := toNat_extract _ _ _
theorem duty_lt (s : State) (c : Nat) : s.duty c < 32 := (s.csr (colReg c) |>.extractLsb' 40 5).isLt
theorem curStep_lt (s : State) (c : Nat) : s.curStep c < 8 := Nat.mod_lt _ (by decide)

/-- An entry in use, by its fields (R441). -/
theorem stepGood_iff (e : Word64) : stepGood e = true ↔ e.getLsbD 63 = true ∧ 350 ≤ e.toNat / 2 ^ 16 % 2 ^ 16 ∧
    e.toNat / 2 ^ 16 % 2 ^ 16 ≤ 1050 ∧ e.toNat / 2 ^ 16 % 2 ^ 16 % 25 = 0 ∧ 450 ≤ e.toNat % 2 ^ 16 ∧ e.toNat % 2 ^ 16 ≤ 650 := by
  have hv : (e.extractLsb' 0 16).toNat = e.toNat % 2 ^ 16 := by rw [toNat_extract, Nat.pow_zero, Nat.div_one]
  simp only [stepGood, Bool.and_eq_true, decide_eq_true_eq, hv, toNat_extract]

/-- Fields of words that agree on their bits. -/
theorem field_congr {v w : Word64} {lo n : Nat} (h : ∀ i, lo ≤ i → i < lo + n → v.getLsbD i = w.getLsbD i) :
    v.toNat / 2 ^ lo % 2 ^ n = w.toNat / 2 ^ lo % 2 ^ n := by
  rw [← toNat_extract, ← toNat_extract]
  refine congrArg BitVec.toNat (BitVec.eq_of_getLsbD_eq fun i hi => ?_)
  simp only [BitVec.getLsbD_extractLsb', hi, decide_true, Bool.true_and]
  exact h _ (by omega) (by omega)

/-- All bits but those of DUTY. -/
def dutyMask : Word64 := 0xFFFFE0FFFFFFFFFF
theorem getLsbD_dutyMask : ∀ i, i < 64 → dutyMask.getLsbD i = !decide (40 ≤ i ∧ i < 45) := by decide

/-- A word of PWR.COLc with another DUTY. -/
def withDuty (w : Word64) (d : Nat) : Word64 := (w &&& dutyMask) ||| (BitVec.ofNat 64 d <<< 40)

theorem testBit_duty {d : Nat} (hd : d < 32) {i : Nat} (hi : 5 ≤ i) : d.testBit i = false :=
  Nat.testBit_lt_two_pow (hd.trans_le (Nat.pow_le_pow_right (n := 2) (by decide) hi))
theorem getLsbD_withDuty {d : Nat} (hd : d < 32) (w : Word64) {i : Nat} (hi : i < 64) :
    (withDuty w d).getLsbD i = if 40 ≤ i ∧ i < 45 then d.testBit (i - 40) else w.getLsbD i := by
  simp only [withDuty, BitVec.getLsbD_or, BitVec.getLsbD_and, getLsbD_dutyMask i hi, BitVec.getLsbD_shiftLeft, BitVec.getLsbD_ofNat, hi,
    show i - 40 < 64 by omega, decide_true, Bool.true_and]
  split
  next h => simp [h]
  next h =>
    by_cases h40 : i < 40
    · simp [h40]
    · simp [h40, testBit_duty hd (show 5 ≤ i - 40 by omega), show ¬ i < 45 by omega]

/-! ## Writes of a column's registers -/

section
variable (s : State) (c : Nat)

@[simp] theorem row_setStep (k lo n : Nat) : row (s.setStep c k) c lo n = row s c lo n := by
  rw [row, State.setStep, State.csr_setCsr, if_neg (by omega), row]
@[simp] theorem curStep_setStep (k : Nat) : (s.setStep c k).curStep c = k % 8 := by
  simp only [State.curStep, State.setStep, State.csr_setCsr_same, BitVec.toNat_ofNat]
  omega
@[simp] theorem curStep_setDuty (d : Nat) : (s.setDuty c d).curStep c = s.curStep c := by
  rw [State.curStep, State.setDuty, State.csr_setCsr, if_neg (by simp only [colReg]; omega), State.curStep]
theorem row_setDuty (d lo n : Nat) : row (s.setDuty c d) c lo n = (withDuty (s.csr (colReg c)) d).toNat / 2 ^ lo % 2 ^ n := by
  rw [row, State.setDuty]
  exact congrArg (fun w : Word64 => w.toNat / 2 ^ lo % 2 ^ n) (State.csr_setCsr_same _ _ _)
theorem row_setDuty_duty {d : Nat} (hd : d < 32) : row (s.setDuty c d) c 40 5 = d := by
  rw [row_setDuty, ← toNat_extract]
  refine Nat.eq_of_testBit_eq fun i => ?_
  rw [BitVec.testBit_toNat, BitVec.getLsbD_extractLsb']
  by_cases hi : i < 5
  · rw [getLsbD_withDuty hd _ (by omega), if_pos (by omega)]
    simp [hi]
  · simp [hi, testBit_duty hd (show 5 ≤ i by omega)]
/-- The other fields keep their values. -/
theorem row_setDuty_of_disjoint {d lo n : Nat} (hd : d < 32) (h : lo + n ≤ 40 ∨ 45 ≤ lo) : row (s.setDuty c d) c lo n = row s c lo n := by
  rw [row_setDuty]
  refine field_congr fun i h1 h2 => ?_
  by_cases hi : i < 64
  · rw [getLsbD_withDuty hd _ hi, if_neg (by omega)]; rfl
  · rw [BitVec.getLsbD_of_ge _ _ (by omega), BitVec.getLsbD_of_ge _ _ (by omega)]
end

/-! ## What a part of an interval leaves as it is -/

/-- `t` is as `s` but for the registers and the counts of the columns in `P`, the events and the interrupts. -/
structure OnlyColumns (P : Nat → Prop) (s t : State) : Prop where
  csr : ∀ o, (∀ c, P c → o ≠ 0xA0100 + 8 * c ∧ o ≠ 0xA0300 + 8 * c) → t.csr o = s.csr o
  clear : ∀ c, ¬ P c → t.clear.get 0 c = s.clear.get 0 c
  clamped : t.clamped = s.clamped
  arbiterAt : t.arbiterAt = s.arbiterAt
  gt : t.gt = s.gt

namespace OnlyColumns
variable {P Q : Nat → Prop} {s t u : State}

theorem refl (P : Nat → Prop) (s : State) : OnlyColumns P s s := ⟨fun _ _ => rfl, fun _ _ => rfl, rfl, rfl, rfl⟩
theorem trans (h : OnlyColumns P s t) (h' : OnlyColumns P t u) : OnlyColumns P s u :=
  ⟨fun o ho => (h'.csr o ho).trans (h.csr o ho), fun c hc => (h'.clear c hc).trans (h.clear c hc), h'.clamped.trans h.clamped,
    h'.arbiterAt.trans h.arbiterAt, h'.gt.trans h.gt⟩
theorem mono (h : OnlyColumns P s t) (hpq : ∀ c, P c → Q c) : OnlyColumns Q s t :=
  ⟨fun o ho => h.csr o fun c hc => ho c (hpq c hc), fun c hc => h.clear c fun hp => hc (hpq c hp), h.clamped, h.arbiterAt, h.gt⟩

/-- One column after another. -/
theorem foldl {f : State → Nat → State} (hf : ∀ s c, OnlyColumns (· = c) s (f s c)) (cs : List Nat) (s : State) :
    OnlyColumns (· ∈ cs) s (cs.foldl f s) := by
  induction cs generalizing s with
  | nil => exact refl _ _
  | cons c cs ih =>
    exact ((hf s c).mono fun j hj => hj ▸ List.mem_cons_self).trans ((ih _).mono fun j hj => List.mem_cons_of_mem _ hj)

/-- A column's turn among the others: before it and after it only other columns change. -/
theorem foldl_turn {f : State → Nat → State} (hf : ∀ s c, OnlyColumns (· = c) s (f s c)) {cs : List Nat} (hn : cs.Nodup) {c : Nat}
    (hc : c ∈ cs) (s : State) :
    ∃ u, OnlyColumns (fun j => j ∈ cs ∧ j ≠ c) s u ∧ OnlyColumns (fun j => j ∈ cs ∧ j ≠ c) (f u c) (cs.foldl f s) := by
  obtain ⟨as, bs, rfl⟩ := List.append_of_mem hc
  have hmid := List.nodup_middle.mp hn
  have hnot : c ∉ as ++ bs := (List.nodup_cons.mp hmid).1
  refine ⟨as.foldl f s, (foldl hf as s).mono fun j hj => ⟨by simp [hj], ?_⟩, ?_⟩
  · rintro rfl
    exact hnot (List.mem_append_left _ hj)
  · rw [List.foldl_append, List.foldl_cons]
    refine (foldl hf bs _).mono fun j hj => ⟨by simp [hj], ?_⟩
    rintro rfl
    exact hnot (List.mem_append_right _ hj)

/-! ### What a column finds while the others change -/

section
variable {c : Nat} (h : OnlyColumns (fun j => j ∈ List.range 16 ∧ j ≠ c) s t)
include h

theorem row_eq (hc : c < 16) (lo n : Nat) : row t c lo n = row s c lo n := by
  rw [row, h.csr _ fun j hj => ?_, row]
  have := List.mem_range.mp hj.1
  omega
theorem curStep_eq (hc : c < 16) : t.curStep c = s.curStep c := by
  rw [State.curStep, h.csr _ fun j hj => ?_, State.curStep]
  have := List.mem_range.mp hj.1
  omega
theorem stepEntry_eq {k : Nat} (hk : k < 8) : t.stepEntry k = s.stepEntry k :=
  h.csr _ fun j _ => by omega
theorem tcap_eq : tcap t = tcap s := by
  rw [tcap, h.csr _ fun j hj => ?_, tcap]
  have := List.mem_range.mp hj.1
  omega
end
end OnlyColumns

theorem setCsr_onlyColumns (s : State) (c : Nat) {o : Nat} (v : Word64) (ho : o = 0xA0100 + 8 * c ∨ o = 0xA0300 + 8 * c) :
    OnlyColumns (· = c) s (s.setCsr o v) := by
  refine ⟨fun p hp => ?_, fun _ _ => rfl, rfl, rfl, rfl⟩
  obtain ⟨h1, h2⟩ := hp c rfl
  rw [State.csr_setCsr, if_neg (by omega)]
theorem setStep_onlyColumns (s : State) (c k : Nat) : OnlyColumns (· = c) s (s.setStep c k) := setCsr_onlyColumns s c _ (.inl rfl)
theorem setDuty_onlyColumns (s : State) (c d : Nat) : OnlyColumns (· = c) s (s.setDuty c d) := setCsr_onlyColumns s c _ (.inr rfl)
theorem setClear_onlyColumns (s : State) (c n : Nat) : OnlyColumns (· = c) s { s with clear := s.clear.put c n } := by
  refine ⟨fun _ _ => rfl, fun j hj => ?_, rfl, rfl, rfl⟩
  rw [Sparse.get_put, if_neg hj]

/-! ## The events (R443) -/

theorem raiseFor_eq (s : State) (empty : Bool) (en lo : Nat) : ∃ irqs, s.raiseFor empty en lo = { s with irqs } := by
  unfold State.raiseFor
  dsimp only
  split
  · exact ⟨_, rfl⟩
  · exact ⟨s.irqs, rfl⟩
/-- A record changes the queue of events, its overflow and the interrupts. -/
theorem powerEvent_eq (s : State) (code c : Nat) :
    ∃ pwrEvents pwrOvf irqs, s.powerEvent code c = { s with pwrEvents, pwrOvf, irqs } := by
  unfold State.powerEvent
  dsimp only
  split
  · obtain ⟨irqs, h⟩ := raiseFor_eq { s with pwrEvents := s.pwrEvents ++ [_] } s.pwrEvents.isEmpty 17 8
    exact ⟨_, _, irqs, h⟩
  · exact ⟨_, _, s.irqs, rfl⟩
theorem pwrEvents_powerEvent {s : State} (h : s.pwrEvents.length < 16) (code c : Nat) :
    (s.powerEvent code c).pwrEvents = s.pwrEvents ++ [BitVec.ofNat 64 (code * 2 ^ 56 + c * 2 ^ 48 + s.gt / 2 ^ 16 % 2 ^ 43)] := by
  unfold State.powerEvent
  rw [if_pos h]
  obtain ⟨irqs, h⟩ := raiseFor_eq { s with pwrEvents := s.pwrEvents ++ [_] } s.pwrEvents.isEmpty 17 8
  rw [h]; rfl

section
variable (s : State) (code j : Nat)
@[simp] theorem csr_powerEvent (o : Nat) : (s.powerEvent code j).csr o = s.csr o := by
  obtain ⟨_, _, _, h⟩ := powerEvent_eq s code j
  rw [h]; rfl
@[simp] theorem clear_powerEvent : (s.powerEvent code j).clear = s.clear := by
  obtain ⟨_, _, _, h⟩ := powerEvent_eq s code j
  rw [h]
theorem powerEvent_onlyColumns (P : Nat → Prop) : OnlyColumns P s (s.powerEvent code j) := by
  obtain ⟨_, _, _, h⟩ := powerEvent_eq s code j
  rw [h]
  exact ⟨fun _ _ => rfl, fun _ _ => rfl, rfl, rfl, rfl⟩
end

/-! ## One action on a column (R443) -/

theorem find?_reverse_range {p : Nat → Bool} {n k : Nat} (hk : k < n) (hp : p k = true) (h : ∀ j, k < j → j < n → p j = false) :
    (List.range n).reverse.find? p = some k := by
  induction n with
  | zero => omega
  | succ n ih =>
    rw [List.range_succ, List.reverse_append, List.reverse_singleton, List.singleton_append, List.find?_cons]
    rcases Nat.lt_succ_iff_lt_or_eq.mp hk with hlt | rfl
    · rw [h n hlt (by omega)]
      exact ih hlt fun j h1 h2 => h j h1 (by omega)
    · rw [hp]

/-- A cap action on a column with duty `d` at step `k`, `used` telling the steps in use: the duty first, at its floor the next step
below. -/
def Capped (used : Nat → Prop) (d k d' k' : Nat) : Prop :=
  (4 < d → d' = d - 1 ∧ k' = k) ∧
  (d ≤ 4 → d' = d ∧ (∀ i, i < k → used i → (∀ j, i < j → j < k → ¬ used j) → k' = i) ∧ ((∀ i, i < k → ¬ used i) → k' = k))
/-- A release action: the next step above first, then the duty. -/
def Eased (used : Nat → Prop) (d k d' k' : Nat) : Prop :=
  (∀ i, k < i → i < 8 → used i → (∀ j, k < j → j < i → ¬ used j) → k' = i ∧ d' = d) ∧
  ((∀ i, k < i → i < 8 → ¬ used i) → k' = k ∧ d' = if d < 16 then d + 1 else d)

theorem Capped.congr {used used' : Nat → Prop} {d k d' k' : Nat} (h : ∀ i, i < 8 → (used' i ↔ used i)) (hk : k < 8)
    (hc : Capped used d k d' k') : Capped used' d k d' k' := by
  refine ⟨hc.1, fun hd => ?_⟩
  obtain ⟨hduty, hnext, hlowest⟩ := hc.2 hd
  refine ⟨hduty, fun i hi hu hno => hnext i hi ((h i (by omega)).mp hu) fun j h1 h2 => ?_, fun hno => hlowest fun i hi => ?_⟩
  · exact mt (h j (by omega)).mpr (hno j h1 h2)
  · exact mt (h i (by omega)).mpr (hno i hi)
theorem Eased.congr {used used' : Nat → Prop} {d k d' k' : Nat} (h : ∀ i, i < 8 → (used' i ↔ used i))
    (hc : Eased used d k d' k') : Eased used' d k d' k' := by
  obtain ⟨hnext, hhighest⟩ := hc
  refine ⟨fun i h1 h2 hu hno => hnext i h1 h2 ((h i h2).mp hu) fun j h3 h4 => ?_, fun hno => hhighest fun i h1 h2 => ?_⟩
  · exact mt (h j (by omega)).mpr (hno j h3 h4)
  · exact mt (h i h2).mpr (hno i h1 h2)

/-- What one action may do to a column. -/
def Moved (s t : State) (c : Nat) : Prop := t = s ∨ (∃ k, t = s.setStep c k) ∨ ∃ d, d < 32 ∧ t = s.setDuty c d

theorem Moved.onlyColumns {s t : State} {c : Nat} (h : Moved s t c) : OnlyColumns (· = c) s t := by
  rcases h with rfl | ⟨k, rfl⟩ | ⟨d, -, rfl⟩
  · exact .refl _ _
  · exact setStep_onlyColumns _ _ _
  · exact setDuty_onlyColumns _ _ _
theorem Moved.clear {s t : State} {c : Nat} (h : Moved s t c) : t.clear = s.clear := by
  rcases h with rfl | ⟨k, rfl⟩ | ⟨d, -, rfl⟩ <;> rfl
/-- The fields beside DUTY stay. -/
theorem Moved.row_eq {s t : State} {c lo n : Nat} (h : Moved s t c) (hf : lo + n ≤ 40 ∨ 45 ≤ lo) : row t c lo n = row s c lo n := by
  rcases h with rfl | ⟨k, rfl⟩ | ⟨d, hd, rfl⟩
  · rfl
  · exact row_setStep _ _ _ _ _
  · exact row_setDuty_of_disjoint _ _ hd hf

section
variable (s : State) (c : Nat)

theorem capColumn_moved : Moved s (s.capColumn c) c := by
  unfold State.capColumn
  split
  · have := duty_lt s c
    exact .inr (.inr ⟨s.duty c - 1, by omega, rfl⟩)
  · split
    · exact .inr (.inl ⟨_, rfl⟩)
    · exact .inl rfl
theorem easeColumn_moved : Moved s (s.easeColumn c) c := by
  unfold State.easeColumn
  split
  · exact .inr (.inl ⟨_, rfl⟩)
  · split
    · exact .inr (.inr ⟨s.duty c + 1, by omega, rfl⟩)
    · exact .inl rfl

theorem capColumn_capped : Capped (fun k => stepGood (s.stepEntry k) = true) (row s c 40 5) (s.curStep c) (row (s.capColumn c) c 40 5)
    ((s.capColumn c).curStep c) := by
  have hlt := duty_lt s c
  rw [← duty_eq s]
  refine ⟨fun hd => ?_, fun hd => ?_⟩
  · rw [State.capColumn, if_pos hd]
    exact ⟨row_setDuty_duty s c (by omega), curStep_setDuty s c _⟩
  · rw [State.capColumn, if_neg (by omega)]
    refine ⟨?_, fun k hk hu hno => ?_, fun hno => ?_⟩
    · rw [duty_eq]
      split
      · exact row_setStep _ _ _ _ _
      · rfl
    · rw [find?_reverse_range hk hu fun j h1 h2 => by simpa using hno j h1 h2]
      have := curStep_lt s c
      exact (curStep_setStep s c k).trans (Nat.mod_eq_of_lt (by omega))
    · rw [List.find?_eq_none.mpr fun k hk => hno k (by simpa using hk)]

theorem easeColumn_eased : Eased (fun k => stepGood (s.stepEntry k) = true) (row s c 40 5) (s.curStep c) (row (s.easeColumn c) c 40 5)
    ((s.easeColumn c).curStep c) := by
  rw [← duty_eq s]
  refine ⟨fun k hk h8 hu hno => ?_, fun hno => ?_⟩
  · have hfind : (List.range 8).find? (fun k => decide (s.curStep c < k) && stepGood (s.stepEntry k)) = some k := by
      rw [List.find?_range_eq_some]
      refine ⟨by simp [hk, hu], List.mem_range.mpr h8, fun j hj => ?_⟩
      by_cases hcj : s.curStep c < j
      · simpa [hcj] using hno j hcj hj
      · simp [hcj]
    rw [State.easeColumn, hfind]
    exact ⟨(curStep_setStep s c k).trans (Nat.mod_eq_of_lt h8), (row_setStep _ _ _ _ _).trans (duty_eq s c).symm⟩
  · have hfind : (List.range 8).find? (fun k => decide (s.curStep c < k) && stepGood (s.stepEntry k)) = none := by
      rw [List.find?_eq_none]
      intro k hk
      simp only [Bool.and_eq_true, decide_eq_true_eq, not_and]
      exact fun h => hno k h (List.mem_range.mp hk)
    rw [State.easeColumn, hfind]
    dsimp only
    split
    · exact ⟨curStep_setDuty s c _, row_setDuty_duty s c (by omega)⟩
    · exact ⟨rfl, (duty_eq s c).symm⟩
end

/-! ## A column's part of an interval (R443) -/

/-- The column with what was measured and granted in its register. -/
def measured (s : State) (c grant draw temp demand : Nat) : State := s.setCsr (colReg c)
  (BitVec.ofNat 64 (grant % 2 ^ 12 + draw % 2 ^ 12 * 2 ^ 16 + temp % 2 ^ 8 * 2 ^ 32 + s.duty c * 2 ^ 40 + demand % 2 ^ 12 * 2 ^ 48))

/-- What a column's part of an interval makes of its register row, its step and its count of clear intervals. -/
structure Arbitrated (s t : State) (c grant draw temp demand : Nat) : Prop where
  grant_eq : row t c 0 12 = grant
  draw_eq : row t c 16 12 = draw
  temp_eq : row t c 32 8 = temp
  demand_eq : row t c 48 12 = demand
  cap : tcap s < temp ∨ grant < draw →
    Capped (fun k => stepGood (s.stepEntry k) = true) (row s c 40 5) (s.curStep c) (row t c 40 5) (t.curStep c) ∧ t.clear.get 0 c = 0
  count : ¬ tcap s < temp → draw ≤ grant → t.clear.get 0 c = s.clear.get 0 c + 1 ∧
    (s.clear.get 0 c < 10 ∨ s.clamped = true → row t c 40 5 = row s c 40 5 ∧ t.curStep c = s.curStep c) ∧
    (10 ≤ s.clear.get 0 c → s.clamped = false →
      Eased (fun k => stepGood (s.stepEntry k) = true) (row s c 40 5) (s.curStep c) (row t c 40 5) (t.curStep c))

section
variable (s : State) (c grant draw temp demand : Nat)

theorem measured_onlyColumns : OnlyColumns (· = c) s (measured s c grant draw temp demand) := setCsr_onlyColumns s c _ (.inr rfl)
theorem curStep_measured : (measured s c grant draw temp demand).curStep c = s.curStep c := by
  rw [State.curStep, measured, State.csr_setCsr, if_neg (by simp only [colReg]; omega), State.curStep]
theorem stepEntry_measured {k : Nat} (hk : k < 8) : (measured s c grant draw temp demand).stepEntry k = s.stepEntry k :=
  (measured_onlyColumns s c grant draw temp demand).csr _ fun j _ => by omega

/-- The fields of the register as they were put. -/
theorem row_measured (hg : grant < 2 ^ 12) (hd : draw < 2 ^ 12) (ht : temp < 2 ^ 8) (hm : demand < 2 ^ 12) :
    let t := measured s c grant draw temp demand
    row t c 0 12 = grant ∧ row t c 16 12 = draw ∧ row t c 32 8 = temp ∧ row t c 40 5 = row s c 40 5 ∧ row t c 48 12 = demand := by
  intro t
  have hu := duty_lt s c
  have hw : (t.csr (0xA0300 + 8 * c)).toNat = grant + draw * 2 ^ 16 + temp * 2 ^ 32 + s.duty c * 2 ^ 40 + demand * 2 ^ 48 := by
    simp only [t, measured]
    rw [show 0xA0300 + 8 * c = colReg c from rfl, State.csr_setCsr_same, BitVec.toNat_ofNat, Nat.mod_eq_of_lt hg, Nat.mod_eq_of_lt hd,
      Nat.mod_eq_of_lt ht, Nat.mod_eq_of_lt hm]
    omega
  rw [← duty_eq s]
  simp only [row, hw]
  omega

/-- An action reads nothing of the counts. -/
theorem easeColumn_clear (n : Sparse Nat) : ({ s with clear := n } : State).easeColumn c = { s.easeColumn c with clear := n } := by
  unfold State.easeColumn
  simp only [show ({ s with clear := n } : State).curStep c = s.curStep c from rfl,
    show ∀ k, ({ s with clear := n } : State).stepEntry k = s.stepEntry k from fun _ => rfl,
    show ({ s with clear := n } : State).duty c = s.duty c from rfl]
  split
  · rfl
  · split <;> rfl

/-- The events of a column that is hot, draws more than its grant, or both. -/
def logged (hot more : Bool) (c : Nat) (s : State) : State :=
  let s := if hot then s.powerEvent 1 c else s
  if more then s.powerEvent 2 c else s

@[simp] theorem csr_logged (hot more : Bool) (o : Nat) : (logged hot more c s).csr o = s.csr o := by
  cases hot <;> cases more <;> simp [logged]
@[simp] theorem clear_logged (hot more : Bool) : (logged hot more c s).clear = s.clear := by
  cases hot <;> cases more <;> simp [logged]
theorem logged_onlyColumns (hot more : Bool) (P : Nat → Prop) : OnlyColumns P s (logged hot more c s) := by
  cases hot <;> cases more
  · exact .refl _ _
  · exact powerEvent_onlyColumns _ _ _ _
  · exact powerEvent_onlyColumns _ _ _ _
  · exact (powerEvent_onlyColumns _ _ _ _).trans (powerEvent_onlyColumns _ _ _ _)

theorem over_iff {s : State} {grant draw temp : Nat} :
    (decide (tcap s < temp) || decide (grant < draw)) = true ↔ tcap s < temp ∨ grant < draw := by
  rw [Bool.or_eq_true, decide_eq_true_eq, decide_eq_true_eq]
theorem arbitrate_of_over (h : tcap s < temp ∨ grant < draw) :
    ∃ hot more, s.arbitrate c grant draw temp demand =
      logged hot more c { (measured s c grant draw temp demand).capColumn c with clear := s.clear.put c 0 } := by
  refine ⟨decide (tcap s < temp), decide (grant < draw), ?_⟩
  rw [State.arbitrate]
  exact if_pos (over_iff.mpr h)
/-- A column that is within its limits is eased or kept. -/
theorem kept_or_eased : (s.clear.get 0 c < 10 ∨ s.clamped = true) ∨ (10 ≤ s.clear.get 0 c ∧ s.clamped = false) := by
  cases s.clamped
  · simpa using Nat.lt_or_ge _ _
  · exact .inl (.inr rfl)
theorem arbitrate_of_eased (h : ¬ tcap s < temp) (h' : draw ≤ grant) (hn : 10 ≤ s.clear.get 0 c)
    (hc : s.clamped = false) : s.arbitrate c grant draw temp demand =
      { (measured s c grant draw temp demand).easeColumn c with clear := s.clear.put c (s.clear.get 0 c + 1) } := by
  exact ((if_neg (mt over_iff.mp (by omega))).trans (if_pos (by simp [hn, hc]))).trans (easeColumn_clear _ _ _)
theorem arbitrate_of_kept (h : ¬ tcap s < temp) (h' : draw ≤ grant)
    (hk : s.clear.get 0 c < 10 ∨ s.clamped = true) : s.arbitrate c grant draw temp demand =
      { measured s c grant draw temp demand with clear := s.clear.put c (s.clear.get 0 c + 1) } := by
  refine (if_neg (mt over_iff.mp (by omega))).trans (if_neg ?_)
  rcases hk with hk | hk
  · simp [show ¬ 10 ≤ s.clear.get 0 c by omega]
  · simp [hk]

/-- The register of a column is measured, then one action at most moves the column, and the count is written; the events come last. -/
theorem arbitrate_moved : ∃ u n, Moved (measured s c grant draw temp demand) u c ∧
    OnlyColumns (fun _ => False) { u with clear := s.clear.put c n } (s.arbitrate c grant draw temp demand) := by
  by_cases h : tcap s < temp ∨ grant < draw
  · obtain ⟨hot, more, heq⟩ := arbitrate_of_over s c grant draw temp demand h
    rw [heq]
    exact ⟨_, 0, capColumn_moved _ c, logged_onlyColumns _ _ _ _ _⟩
  · obtain ⟨hcool, hless⟩ := not_or.mp h
    rcases kept_or_eased s c with hk | ⟨hn, hc⟩
    · rw [arbitrate_of_kept s c grant draw temp demand hcool (by omega) hk]
      exact ⟨_, _, .inl rfl, .refl _ _⟩
    · rw [arbitrate_of_eased s c grant draw temp demand hcool (by omega) hn hc]
      exact ⟨_, _, easeColumn_moved _ c, .refl _ _⟩

theorem arbitrate_onlyColumns : OnlyColumns (· = c) s (s.arbitrate c grant draw temp demand) := by
  obtain ⟨u, n, hu, ht⟩ := arbitrate_moved s c grant draw temp demand
  have hclear := setClear_onlyColumns u c n
  rw [hu.clear] at hclear
  exact (measured_onlyColumns s c grant draw temp demand).trans (hu.onlyColumns.trans (hclear.trans (ht.mono fun _ => False.elim)))

theorem stepGood_measured (k : Nat) (hk : k < 8) :
    stepGood (s.stepEntry k) = true ↔ stepGood ((measured s c grant draw temp demand).stepEntry k) = true := by
  rw [stepEntry_measured s c grant draw temp demand hk]

/-- A column's part of an interval does what R443 says of one. -/
theorem arbitrate_arbitrated (hg : grant < 2 ^ 12) (hd : draw < 2 ^ 12) (ht : temp < 2 ^ 8) (hm : demand < 2 ^ 12) :
    Arbitrated s (s.arbitrate c grant draw temp demand) c grant draw temp demand := by
  obtain ⟨hgrant, hdraw, htemp, hduty, hdemand⟩ := row_measured s c grant draw temp demand hg hd ht hm
  have hstep := curStep_measured s c grant draw temp demand
  have hused := stepGood_measured s c grant draw temp demand
  obtain ⟨u, n, hu, honly⟩ := arbitrate_moved s c grant draw temp demand
  have hkeeps : ∀ lo n, lo + n ≤ 40 ∨ 45 ≤ lo →
      row (s.arbitrate c grant draw temp demand) c lo n = row (measured s c grant draw temp demand) c lo n := fun lo n hf =>
    (congrArg (fun w : Word64 => w.toNat / 2 ^ lo % 2 ^ n) (honly.csr (0xA0300 + 8 * c) fun _ => False.elim)).trans (hu.row_eq hf)
  refine ⟨(hkeeps 0 12 (by decide)).trans hgrant, (hkeeps 16 12 (by decide)).trans hdraw, (hkeeps 32 8 (by decide)).trans htemp,
    (hkeeps 48 12 (by decide)).trans hdemand, fun hover => ?_, fun hcool hless => ⟨?_, fun hk => ?_, fun hn hc => ?_⟩⟩
  · obtain ⟨hot, more, heq⟩ := arbitrate_of_over s c grant draw temp demand hover
    have hcaps := (capColumn_capped (measured s c grant draw temp demand) c).congr hused (curStep_lt _ _)
    rw [hduty, hstep] at hcaps
    simp only [heq, row, State.curStep, csr_logged, clear_logged, Sparse.get_put, if_true, and_true]
    exact hcaps
  · rcases kept_or_eased s c with hk | ⟨hn, hc⟩
    · rw [arbitrate_of_kept s c grant draw temp demand hcool hless hk, Sparse.get_put, if_pos rfl]
    · rw [arbitrate_of_eased s c grant draw temp demand hcool hless hn hc, Sparse.get_put, if_pos rfl]
  · rw [arbitrate_of_kept s c grant draw temp demand hcool hless hk]
    exact ⟨hduty, hstep⟩
  · have heases := (easeColumn_eased (measured s c grant draw temp demand) c).congr hused
    rw [hduty, hstep] at heases
    rw [arbitrate_of_eased s c grant draw temp demand hcool hless hn hc]
    exact heases
end

/-- What the other columns do before and after does not matter to a column. -/
theorem Arbitrated.of_turn {s u v t : State} {c grant draw temp demand : Nat} (h : Arbitrated u v c grant draw temp demand) (hc : c < 16)
    (before : OnlyColumns (fun j => j ∈ List.range 16 ∧ j ≠ c) s u) (after : OnlyColumns (fun j => j ∈ List.range 16 ∧ j ≠ c) v t) :
    Arbitrated s t c grant draw temp demand := by
  have hself : ¬ (c ∈ List.range 16 ∧ c ≠ c) := fun h => h.2 rfl
  have hused : ∀ k, k < 8 → (stepGood (s.stepEntry k) = true ↔ stepGood (u.stepEntry k) = true) := fun k hk => by
    rw [before.stepEntry_eq hk]
  obtain ⟨hgrant, hdraw, htemp, hdemand, hcap, hcount⟩ := h
  simp only [before.row_eq hc, before.curStep_eq hc, before.tcap_eq, before.clear c hself, before.clamped] at hcap hcount
  refine ⟨?_, ?_, ?_, ?_, fun hover => ?_, fun hcool hless => ?_⟩
  · rwa [after.row_eq hc]
  · rwa [after.row_eq hc]
  · rwa [after.row_eq hc]
  · rwa [after.row_eq hc]
  · rw [after.row_eq hc, after.curStep_eq hc, after.clear c hself]
    exact (hcap hover).imp_left fun h => h.congr hused (curStep_lt _ _)
  · rw [after.row_eq hc, after.curStep_eq hc, after.clear c hself]
    obtain ⟨hn, hkept, heased⟩ := hcount hcool hless
    exact ⟨hn, hkept, fun h1 h2 => (heased h1 h2).congr hused⟩

/-! ## An interval of the arbiter (R443) -/

section
variable (s : State) (draws : BitVec 192) (temps : BitVec 128)

/-- What the sensors measured of a column, and what it demands. -/
def drawOf (c : Nat) : Nat := draws.toNat / 2 ^ (12 * c) % 2 ^ 12
def tempOf (c : Nat) : Nat := temps.toNat / 2 ^ (8 * c) % 2 ^ 8
def demandAt (c : Nat) : Nat := min 4095 ((drawOf draws c * 16 + row s c 40 5 - 1) / row s c 40 5)
/-- The budget, clamped to 3,200 W (R25). -/
def budgetOf : Nat := min ((s.csr 0xA0200).toNat % 2 ^ 12) 3200
def grantsAt : List Nat := grantsOf (budgetOf s) ((List.range 16).map (demandAt s draws))
/-- A column's turn in an interval that begins in `s`. -/
def arbitrateTurn (t : State) (c : Nat) : State :=
  t.arbitrate c ((grantsAt s draws).getD c 0) (drawOf draws c) (tempOf temps c) (demandAt s draws c)
/-- The state when an interval has ended. -/
def afterInterval : State :=
  (List.range 16).foldl (arbitrateTurn s draws temps) { s with arbiterAt := s.gt / intervalLength * intervalLength }

theorem exec_arbiterInterval :
    exec (.arbiterInterval draws temps) s = .next (if !s.intervalDue then s else afterInterval s draws temps) := by
  show execArbiterInterval draws temps s = _
  simp only [execArbiterInterval, toNat_extract, duty_eq]
  rfl
theorem arbiterInterval_early (h : s.gt < s.arbiterAt + intervalLength) : exec (.arbiterInterval draws temps) s = .next s := by
  rw [exec_arbiterInterval, State.intervalDue, if_pos (by simpa using h)]
theorem arbiterInterval_due (h : s.arbiterAt + intervalLength ≤ s.gt) :
    exec (.arbiterInterval draws temps) s = .next (afterInterval s draws temps) := by
  rw [exec_arbiterInterval, State.intervalDue, if_neg (by simpa using h)]

theorem afterInterval_onlyColumns : OnlyColumns (· ∈ List.range 16)
    { s with arbiterAt := s.gt / intervalLength * intervalLength } (afterInterval s draws temps) :=
  .foldl (fun _ _ => arbitrate_onlyColumns _ _ _ _ _ _) _ _

/-- Every column is granted its demand up to one level. -/
theorem grantsAt_eq : ∃ x, grantsAt s draws = (List.range 16).map (fun c => min (demandAt s draws c) (budgetOf s / 16 + x)) ∧
    (grantsAt s draws).sum ≤ budgetOf s := by
  obtain ⟨x, heq, hsum⟩ := grantsOf_eq (budget := budgetOf s) (demands := (List.range 16).map (demandAt s draws)) (by simp)
  rw [List.map_map] at heq
  exact ⟨x, heq, hsum⟩
theorem grantAt_bounds {c : Nat} (hc : c < 16) : min (demandAt s draws c) (budgetOf s / 16) ≤ (grantsAt s draws).getD c 0 ∧
    (grantsAt s draws).getD c 0 ≤ demandAt s draws c := by
  obtain ⟨x, heq, -⟩ := grantsAt_eq s draws
  have hget : (grantsAt s draws).getD c 0 = min (demandAt s draws c) (budgetOf s / 16 + x) := by
    simp [heq, hc]
  omega

theorem demandAt_lt (c : Nat) : demandAt s draws c < 2 ^ 12 := Nat.lt_of_le_of_lt (Nat.min_le_left _ _) (by decide)

theorem afterInterval_arbitrated {c : Nat} (hc : c < 16) : Arbitrated s (afterInterval s draws temps) c ((grantsAt s draws).getD c 0)
    (drawOf draws c) (tempOf temps c) (demandAt s draws c) := by
  obtain ⟨u, before, after⟩ := OnlyColumns.foldl_turn (f := arbitrateTurn s draws temps) (fun _ _ => arbitrate_onlyColumns _ _ _ _ _ _)
    List.nodup_range (List.mem_range.mpr hc) { s with arbiterAt := s.gt / intervalLength * intervalLength }
  have hdemand := demandAt_lt s draws c
  have hgrant := (grantAt_bounds s draws hc).2
  have harb := arbitrate_arbitrated u c ((grantsAt s draws).getD c 0) (drawOf draws c) (tempOf temps c) (demandAt s draws c)
    (by omega) (Nat.mod_lt _ (by decide)) (Nat.mod_lt _ (by decide)) hdemand
  obtain ⟨hg, hd, ht, hm, hcap, hcount⟩ := harb.of_turn hc before after
  exact ⟨hg, hd, ht, hm, hcap, hcount⟩

/-- What is granted stays in the budget. -/
theorem afterInterval_sum_le : ((List.range 16).map fun c => row (afterInterval s draws temps) c 0 12).sum ≤ budgetOf s := by
  obtain ⟨x, heq, hsum⟩ := grantsAt_eq s draws
  refine Nat.le_trans (Nat.le_of_eq ?_) hsum
  refine congrArg List.sum ((List.map_congr_left fun c hc => ?_).trans heq.symm)
  have hc := List.mem_range.mp hc
  rw [(afterInterval_arbitrated s draws temps hc).grant_eq, heq]
  simp [hc]
end

/-! ## The margin warning (R442) and the package clamp (R440) -/

theorem exec_marginWarning (s : State) (col : BitVec 4) : exec (.marginWarning col) s =
    .next (if stepGood (s.stepEntry (s.curStep col.toNat)) then
      s.setStep col.toNat ((s.stepEntry (s.curStep col.toNat)).extractLsb' 32 3).toNat else s) := rfl

/-- A step is held in 3 bits. -/
theorem csr_setStep (s : State) (c : Nat) (k : BitVec 3) : (s.setStep c k.toNat).csr (0xA0100 + 8 * c) = k.setWidth 64 := by
  rw [State.setStep, State.csr_setCsr_same]
  refine BitVec.eq_of_toNat_eq ?_
  have := k.isLt
  simp only [BitVec.toNat_ofNat, BitVec.toNat_setWidth]
  omega

/-- A column at the clamp: the duty floor, step 0, and a record. -/
def clampTurn (s : State) (c : Nat) : State := ((s.setDuty c 4).setStep c 0).powerEvent 2 c

theorem exec_packagePowerClamp (s : State) : exec .packagePowerClamp s =
    .next (if s.clamped then s else (List.range 16).foldl clampTurn { s with clamped := true }) := rfl

theorem clampTurn_onlyColumns (s : State) (c : Nat) : OnlyColumns (· = c) s (clampTurn s c) :=
  (setDuty_onlyColumns s c 4).trans ((setStep_onlyColumns _ c 0).trans (powerEvent_onlyColumns _ _ _ _))
theorem row_clampTurn (s : State) (c lo n : Nat) : row (clampTurn s c) c lo n = row (s.setDuty c 4) c lo n := by
  rw [row, clampTurn, csr_powerEvent]
  exact row_setStep _ _ _ _ _

theorem clamped_column (s : State) {c : Nat} (hc : c < 16) :
    let t := (List.range 16).foldl clampTurn s
    row t c 40 5 = 4 ∧ t.curStep c = 0 ∧ row t c 0 40 = row s c 0 40 := by
  intro t
  obtain ⟨u, before, after⟩ := OnlyColumns.foldl_turn clampTurn_onlyColumns List.nodup_range (List.mem_range.mpr hc) s
  have hstep : (clampTurn u c).curStep c = 0 := by
    rw [State.curStep, clampTurn, csr_powerEvent]
    exact curStep_setStep _ c 0
  refine ⟨?_, (after.curStep_eq hc).trans hstep, ?_⟩
  · rw [after.row_eq hc, row_clampTurn, row_setDuty_duty _ _ (by decide)]
  · rw [after.row_eq hc, row_clampTurn, row_setDuty_of_disjoint _ _ (by decide) (by decide), before.row_eq hc]

/-- The clamp records each column in turn. -/
theorem pwrEvents_clamped {s : State} (h : s.pwrEvents = []) (n : Nat) (hn : n ≤ 16) : ((List.range n).foldl clampTurn s).pwrEvents =
    (List.range n).map fun c => BitVec.ofNat 64 (2 * 2 ^ 56 + c * 2 ^ 48 + s.gt / 2 ^ 16 % 2 ^ 43) := by
  induction n with
  | zero => exact h
  | succ n ih =>
    have ih := ih (by omega)
    have hgt := (OnlyColumns.foldl clampTurn_onlyColumns (List.range n) s).gt
    rw [List.range_succ, List.foldl_append, List.map_append, ← ih, ← hgt]
    generalize (List.range n).foldl clampTurn s = u at ih
    exact pwrEvents_powerEvent (s := (u.setDuty n 4).setStep n 0) (by
      show u.pwrEvents.length < 16
      rw [ih, List.length_map, List.length_range]
      omega) 2 n

/-! ## The statement -/

/-- Settles O50: the margin warning by the entry of the current step, an interval by each column's turn in it, the clamp likewise. -/
theorem powerLimits : Obligations.PowerLimits := by
  unfold Obligations.PowerLimits
  intro s col draws temps cur used rowOf
  have hused : ∀ k, used k ↔ stepGood (s.stepEntry k) = true := fun k => (stepGood_iff _).symm
  have hwarn : used (cur s col.toNat) ↔ stepGood (s.stepEntry (s.curStep col.toNat)) = true := hused _
  refine ⟨fun hu => ?_, fun hu => ?_, arbiterInterval_early s draws temps, fun hdue => ?_, ?_, fun hc => ?_, fun hc => ?_, ?_⟩
  · rw [exec_marginWarning, if_pos (hwarn.mp hu)]
    exact ⟨_, rfl, csr_setStep s _ _⟩
  · rw [exec_marginWarning, if_neg (mt hwarn.mpr hu)]
  · intro budget draw temp duty demand
    have honly := afterInterval_onlyColumns s draws temps
    refine ⟨_, arbiterInterval_due s draws temps hdue, ?_, ?_, afterInterval_sum_le s draws temps, fun o h1 h2 => ?_, fun c hc => ?_⟩
    · rw [honly.arbiterAt]
      exact Nat.div_mul_le_self _ _
    · rw [honly.arbiterAt]
      exact Nat.lt_div_mul_add (by decide)
    · exact honly.csr o fun j hj => by
        have := List.mem_range.mp hj
        omega
    · obtain ⟨hgrant, hdraw, htemp, hdemand, hcap, hcount⟩ := afterInterval_arbitrated s draws temps hc
      obtain ⟨hmin, hmax⟩ := grantAt_bounds s draws hc
      rw [← hgrant] at hmin hmax hcap hcount
      refine ⟨hmin, hmax, hdraw, htemp, hdemand, fun hover => ?_, fun hcool hless => ?_⟩
      · obtain ⟨hcaps, hclear⟩ := hcap hover
        obtain ⟨hduty, hfloor⟩ := hcaps.congr (fun k _ => hused k) (curStep_lt _ _)
        exact ⟨hduty, hfloor, hclear⟩
      · obtain ⟨hn, hkept, heased⟩ := hcount hcool hless
        exact ⟨hn, hkept, fun h10 hc => (heased h10 hc).congr fun k _ => hused k⟩
  · exact ⟨_, rfl, rfl, List.drop_one, rfl, rfl, rfl⟩
  · rw [exec_packagePowerClamp, if_pos hc]
  · rw [exec_packagePowerClamp, if_neg (by simp [hc])]
    exact ⟨_, rfl, (OnlyColumns.foldl clampTurn_onlyColumns _ _).clamped, fun c hc => clamped_column { s with clamped := true } hc,
      fun he => pwrEvents_clamped (s := { s with clamped := true }) he 16 (by decide)⟩
  · exact ⟨_, rfl, rfl⟩

end Sys2Proof.Power
end

section
/-! SUPPORT. Rounding (R33): the grid of a format around a magnitude, the bits that hold a point of the grid, and that the point
which `Fmt.round` delivers is the nearest one in its mode. -/
namespace Sys2Proof.Rounding
open Sys2Proof Sys2Proof.Machine

/-! ## Magnitudes -/

/-- The magnitude m × 2^e. -/
def mag (m : Nat) (e : Int) : ℚ := m * (2 : ℚ) ^ e

theorem mag_nonneg (m : Nat) (e : Int) : 0 ≤ mag m e := by unfold mag; positivity
theorem mag_pos {m : Nat} (h : 0 < m) (e : Int) : 0 < mag m e := by unfold mag; positivity
theorem mag_le_mag {m n : Nat} {e : Int} : mag m e ≤ mag n e ↔ m ≤ n := by
  rw [mag, mag, mul_le_mul_iff_left₀ (by positivity), Nat.cast_le]
theorem mag_lt_mag {m n : Nat} {e : Int} : mag m e < mag n e ↔ m < n := by
  rw [mag, mag, mul_lt_mul_iff_left₀ (by positivity), Nat.cast_lt]
theorem mag_inj {m n : Nat} {e : Int} : mag m e = mag n e ↔ m = n := by simp only [le_antisymm_iff, mag_le_mag]
theorem mag_add (m n : Nat) (e : Int) : mag (m + n) e = mag m e + mag n e := by simp only [mag, Nat.cast_add, add_mul]
/-- The same magnitude at a smaller exponent. -/
theorem mag_at {p q : Int} (h : q ≤ p) (m : Nat) : mag m p = mag (m * 2 ^ (p - q).toNat) q := by
  rw [mag, mag, Nat.cast_mul, mul_assoc, Nat.cast_pow, Nat.cast_ofNat, ← zpow_natCast, ← zpow_add₀ two_ne_zero]
  congr 2
  omega
theorem mag_shift (m n : Nat) (e : Int) : mag m (e + n) = mag (m * 2 ^ n) e := by
  rw [mag_at (q := e) (by omega), add_sub_cancel_left, Int.toNat_natCast]

theorem bitLen_pos {m : Nat} (h : 0 < m) : 0 < bitLen m := by simp [bitLen, h.ne']
theorem lt_two_pow_bitLen {m : Nat} (h : 0 < m) : m < 2 ^ bitLen m := by
  rw [bitLen, if_neg h.ne']
  exact Nat.lt_log2_self
theorem two_pow_bitLen_le {m : Nat} (h : 0 < m) : 2 ^ (bitLen m - 1) ≤ m := by
  rw [bitLen, if_neg h.ne']
  exact Nat.log2_self_le h.ne'

/-! ## The grid -/

/-- The magnitude `x` lies from the `k`-th point of the grid with unit 2^q up to the next; the unit is the least one in which
`k` has no more bits than a significand of `t` (R26). -/
structure OnCell (t : Fmt) (x : ℚ) (k : Nat) (q : Int) : Prop where
  lower : mag k q ≤ x
  upper : x < mag (k + 1) q
  fits : k < 2 ^ (t.f + 1)
  least : t.emin ≤ q
  full : q = t.emin ∨ 2 ^ t.f ≤ k

/-- No magnitude of the format lies within a cell. -/
theorem OnCell.no_gap {t : Fmt} {x : ℚ} {k n : Nat} {p q : Int} (h : OnCell t x k q) (hn : n < 2 ^ (t.f + 1)) (hp : t.emin ≤ p) :
    mag n p ≤ mag k q ∨ mag (k + 1) q ≤ mag n p := by
  rcases le_or_gt q p with hqp | hpq
  · rw [mag_at hqp, mag_le_mag, mag_le_mag]
    omega
  · left
    have hfull : 2 ^ t.f ≤ k := h.full.resolve_left (by omega)
    rw [mag_at hpq.le, mag_le_mag]
    obtain ⟨j, hj⟩ : ∃ j, (q - p).toNat = j + 1 := ⟨(q - p).toNat - 1, by omega⟩
    calc n ≤ 2 ^ t.f * 2 := by rw [← pow_succ]; exact hn.le
      _ ≤ k * 2 ^ (q - p).toNat := Nat.mul_le_mul hfull (by rw [hj, pow_succ]; exact Nat.le_mul_of_pos_left _ (by positivity))

/-- Whether the mode takes `x` in the cell of `k` to its upper end (R33). -/
def GoesUp (mode : BitVec 2) (neg : Bool) (k : Nat) (q : Int) (x : ℚ) : Prop :=
  mag k q ≠ x ∧ match mode.toNat with
    | 0 => mag k q + mag (k + 1) q < 2 * x ∨ (mag k q + mag (k + 1) q = 2 * x ∧ k % 2 = 1)
    | 1 => False
    | 2 => neg = true
    | _ => neg = false

theorem roundUp_iff (mode : BitVec 2) (neg : Bool) (k r sh : Nat) (e : Int) (hr : r < 2 ^ sh) :
    roundUp mode neg (decide (k % 2 = 1)) r sh false = true ↔ GoesUp mode neg k (e + sh) (mag (k * 2 ^ sh + r) e) := by
  have hne : mag k (e + sh) ≠ mag (k * 2 ^ sh + r) e ↔ r ≠ 0 := by
    rw [mag_shift, Ne, mag_inj]
    omega
  have hhalf : mag k (e + sh) + mag (k + 1) (e + sh) = mag (2 * (k * 2 ^ sh) + 2 ^ sh) e := by
    rw [mag_shift, mag_shift, ← mag_add]
    congr 1
    ring
  have htwo : 2 * mag (k * 2 ^ sh + r) e = mag (2 * (k * 2 ^ sh + r)) e := by
    rw [two_mul, two_mul, mag_add (_ + r)]
  rw [GoesUp, hne, roundUp, hhalf, htwo, mag_lt_mag, mag_inj]
  rcases mode.toNat with _ | _ | _ | j
  · simp only [Bool.false_or, Bool.or_eq_true, Bool.and_eq_true, decide_eq_true_eq]
    omega
  all_goals simp [and_comm]

/-- Where the grid of the format rounds a magnitude to, and whether that changes it. -/
theorem onGrid_eq (t : Fmt) (mode : BitVec 2) (neg : Bool) {m : Nat} (e : Int) (hm : 0 < m) :
    ∃ k q, ∃ u : Bool, onGrid (t.f + 1) t.emin (roundUp mode neg) m e false = (k + u.toNat, q, decide (mag k q ≠ mag m e)) ∧
      OnCell t (mag m e) k q ∧ (u = true ↔ GoesUp mode neg k q (mag m e)) := by
  have hlen := bitLen_pos hm
  have hlt := lt_two_pow_bitLen hm
  have hle := two_pow_bitLen_le hm
  rw [onGrid]
  generalize hq : max (e + bitLen m - (t.f + 1 : Nat)) t.emin = q
  split
  · case isTrue h =>
    have hx := mag_at h m
    refine ⟨m * 2 ^ (e - q).toNat, q, false, by simp [hx], ⟨hx.ge, ?_, ?_, by omega, ?_⟩, by simp [GoesUp, hx]⟩
    · rw [hx, mag_lt_mag]
      omega
    · calc m * 2 ^ (e - q).toNat < 2 ^ bitLen m * 2 ^ (e - q).toNat := Nat.mul_lt_mul_of_pos_right hlt (by positivity)
        _ ≤ 2 ^ (t.f + 1) := by rw [← pow_add]; exact Nat.pow_le_pow_right two_pos (by omega)
    · refine (eq_or_ne q t.emin).imp_right fun hne => ?_
      calc 2 ^ t.f = 2 ^ (bitLen m - 1) * 2 ^ (e - q).toNat := by rw [← pow_add]; congr 1; omega
        _ ≤ m * 2 ^ (e - q).toNat := Nat.mul_le_mul_right _ hle
  · case isFalse h =>
    obtain ⟨sh, hsh⟩ : ∃ sh : Nat, q = e + sh := ⟨(q - e).toNat, by omega⟩
    have hdiv : m / 2 ^ sh * 2 ^ sh + m % 2 ^ sh = m := Nat.div_add_mod' m _
    have hmod : m % 2 ^ sh < 2 ^ sh := Nat.mod_lt _ (by positivity)
    have hup := roundUp_iff mode neg (m / 2 ^ sh) (m % 2 ^ sh) sh e hmod
    rw [hdiv] at hup
    simp only [hsh, add_sub_cancel_left, Int.toNat_natCast, Nat.shiftRight_eq_div_pow]
    refine ⟨m / 2 ^ sh, e + sh, _, ?_, ⟨?_, ?_, ?_, by omega, ?_⟩, hup⟩
    · congr 2
      simp only [mag_shift, Ne, mag_inj, Bool.or_false, decide_eq_decide]
      omega
    · rw [mag_shift, mag_le_mag]
      omega
    · rw [mag_shift, mag_lt_mag, add_mul]
      omega
    · rw [Nat.div_lt_iff_lt_mul (by positivity), ← pow_add]
      exact hlt.trans_le (Nat.pow_le_pow_right two_pos (by omega))
    · refine (eq_or_ne q t.emin).imp (fun h => by rw [← hsh, h]) fun hne => ?_
      rw [Nat.le_div_iff_mul_le (by positivity), ← pow_add]
      exact le_trans (Nat.pow_le_pow_right two_pos (by omega)) hle

/-! ## Bits of a format (R26) -/

theorem value_fits {t : Fmt} {b k : Nat} {n : Bool} {p : Int} (h : t.value b = .num n k p) : k < 2 ^ (t.f + 1) ∧ t.emin ≤ p := by
  have hfrac : b % 2 ^ t.f < 2 ^ t.f := Nat.mod_lt _ (by positivity)
  have key : ∀ n', Fl.num n' (if b / 2 ^ t.f % 2 ^ t.e = 0 then b % 2 ^ t.f else 2 ^ t.f + b % 2 ^ t.f)
      ((max (b / 2 ^ t.f % 2 ^ t.e) 1 : Nat) - t.bias - t.f) = Fl.num n k p → k < 2 ^ (t.f + 1) ∧ t.emin ≤ p := by
    intro n' he
    injection he with _ hk hp
    rw [Fmt.emin, pow_succ]
    refine ⟨?_, by omega⟩
    split at hk <;> omega
  simp only [Fmt.value] at h
  split at h
  · split at h
    · split at h <;> cases h
    · exact key _ (by rw [← h]; push_cast; rfl)
  · split at h
    · cases h
    · exact key _ (by rw [← h]; push_cast; rfl)
  · exact key _ (by rw [← h]; push_cast; rfl)

/-- Bits below those of infinity, under a sign. -/
theorem value_sign_add {t : Fmt} (ht : t.sp = .ieee) (neg : Bool) {c : Nat} (hc : c < t.infBits) :
    t.value (t.sign neg + c) =
      .num neg (if c / 2 ^ t.f = 0 then c % 2 ^ t.f else 2 ^ t.f + c % 2 ^ t.f) ((max (c / 2 ^ t.f) 1 : Nat) - t.bias - t.f) := by
  have hex : c / 2 ^ t.f < 2 ^ t.e - 1 := (Nat.div_lt_iff_lt_mul (by positivity)).mpr hc
  have hsign : t.sign neg = 2 ^ t.f * (neg.toNat * 2 ^ t.e) := by
    rw [Fmt.sign, pow_add]
    ring
  have hfrac : (t.sign neg + c) % 2 ^ t.f = c % 2 ^ t.f := by rw [hsign, Nat.mul_add_mod]
  have hdiv : (t.sign neg + c) / 2 ^ t.f = neg.toNat * 2 ^ t.e + c / 2 ^ t.f := by
    rw [hsign, Nat.mul_add_div (by positivity)]
  have hexp : (neg.toNat * 2 ^ t.e + c / 2 ^ t.f) % 2 ^ t.e = c / 2 ^ t.f := by
    rw [mul_comm, Nat.mul_add_mod, Nat.mod_eq_of_lt (hex.trans_le (Nat.sub_le _ _))]
  have hneg : (t.sign neg + c) / 2 ^ (t.e + t.f) = neg.toNat := by
    rw [add_comm t.e, pow_add, ← Nat.div_div_eq_div_mul, hdiv, mul_comm, Nat.mul_add_div (by positivity),
      Nat.div_eq_of_lt (hex.trans_le (Nat.sub_le _ _)), add_zero]
  simp only [Fmt.value, ht, hfrac, hdiv, hexp, hneg, if_neg (show c / 2 ^ t.f ≠ 2 ^ t.e - 1 by omega)]
  cases neg <;> simp

/-- The bits of a point of the grid, counted from 0 up (R26). -/
theorem encode_eq {t : Fmt} {m : Nat} {q : Int} (hm : m ≤ 2 ^ (t.f + 1)) (hq : t.emin ≤ q) (hfull : q = t.emin ∨ 2 ^ t.f ≤ m) :
    t.encode m q = (q - t.emin).toNat * 2 ^ t.f + m := by
  rcases Nat.eq_zero_or_pos m with rfl | hpos
  · have hq : q = t.emin := hfull.resolve_right (by simp)
    simp [Fmt.encode, hq]
  rw [Fmt.encode, if_neg hpos.ne']
  have hlog := Nat.log2_self_le hpos.ne'
  rcases lt_or_ge m (2 ^ t.f) with hlt | hge
  · -- a subnormal
    have hq : q = t.emin := hfull.resolve_right (by omega)
    have := (Nat.log2_lt hpos.ne').mpr hlt
    rw [if_neg (by rw [hq, Fmt.emin]; omega), hq]
    simp
  rcases hm.lt_or_eq with hlt | heq
  · have hl : Nat.log2 m = t.f := (Nat.log2_eq_iff hpos.ne').mpr ⟨hge, hlt⟩
    have he : (q + t.f + t.bias).toNat = (q - t.emin).toNat + 1 := by rw [Fmt.emin] at hq ⊢; omega
    rw [hl, if_pos (by rw [Fmt.emin] at hq; omega), he, Nat.mul_div_cancel _ (by positivity), add_mul]
    omega
  · -- the next power of 2
    have hl : Nat.log2 m = t.f + 1 := by rw [heq, Nat.log2_two_pow]
    have he : (q + (t.f + 1 : Nat) + t.bias).toNat = (q - t.emin).toNat + 2 := by rw [Fmt.emin] at hq ⊢; omega
    rw [hl, if_pos (by rw [Fmt.emin] at hq; omega), he, heq, Nat.mul_div_cancel_left _ (by positivity), add_mul, pow_succ]
    omega

/-- The largest finite magnitude. -/
def top (t : Fmt) : ℚ := mag t.maxSig t.maxExp

theorem exceeds_iff (t : Fmt) (m : Nat) (q : Int) : t.exceeds m q = true ↔ top t < mag m q := by
  rw [Fmt.exceeds, top]
  split
  · case isTrue h => rw [mag_at h, mag_lt_mag, decide_eq_true_eq]
  · case isFalse h => rw [mag_at (le_of_not_ge h) t.maxSig, mag_lt_mag, decide_eq_true_eq]

/-- A format with infinities and subnormals of more than one bit: those of the scalar slots. -/
structure Plain (t : Fmt) : Prop where
  ieee : t.sp = .ieee
  exp : 2 ≤ t.e
  frac : 1 ≤ t.f

theorem Plain.scalarFmt (c : BitVec 2) : Plain (scalarFmt c) := by
  rw [Machine.scalarFmt]
  split <;> exact ⟨rfl, by decide, by decide⟩

theorem Plain.maxSig {t : Fmt} (h : Plain t) : t.maxSig = 2 ^ (t.f + 1) - 1 := by rw [Fmt.maxSig, h.ieee]
theorem Plain.maxExp {t : Fmt} (h : Plain t) : t.maxExp = t.emin + (2 ^ t.e - 3 : Nat) := by
  have : 2 ^ 2 ≤ 2 ^ t.e := Nat.pow_le_pow_right two_pos h.exp
  rw [Fmt.maxExp, h.ieee, Fmt.emin, Nat.cast_sub (by omega)]
  push_cast
  ring

/-- A significand in its grid, finite in the format, by its bits. -/
theorem value_sign_add_sig {t : Fmt} (ht : Plain t) (neg : Bool) {m j : Nat} (hm : m < 2 ^ (t.f + 1)) (hfull : j = 0 ∨ 2 ^ t.f ≤ m)
    (hfin : mag m (t.emin + j) ≤ top t) : t.value (t.sign neg + (j * 2 ^ t.f + m)) = .num neg m (t.emin + j) := by
  have hexp : 2 ^ 2 ≤ 2 ^ t.e := Nat.pow_le_pow_right two_pos ht.exp
  rcases lt_or_ge m (2 ^ t.f) with hlt | hge
  · obtain rfl : j = 0 := hfull.resolve_right (by omega)
    have hinf : 0 * 2 ^ t.f + m < t.infBits := by
      rw [Fmt.infBits, zero_mul, zero_add]
      exact hlt.trans_le (Nat.le_mul_of_pos_left _ (by omega))
    rw [value_sign_add ht.ieee neg hinf, zero_mul, zero_add, Nat.div_eq_of_lt hlt, if_pos rfl, Nat.mod_eq_of_lt hlt, Fmt.emin]
    simp
  · obtain ⟨r, rfl⟩ := Nat.exists_eq_add_of_le hge
    have hr : r < 2 ^ t.f := by rw [pow_succ] at hm; omega
    have hj : j ≤ 2 ^ t.e - 3 := by
      by_contra hj
      refine absurd hfin (not_le.mpr ?_)
      rw [top, ht.maxExp, ht.maxSig, mag_shift, mag_shift, mag_lt_mag]
      have hpow : 2 ^ (2 ^ t.e - 3) * 2 ≤ 2 ^ j := by
        rw [← pow_succ]
        exact Nat.pow_le_pow_right two_pos (by omega)
      calc (2 ^ (t.f + 1) - 1) * 2 ^ (2 ^ t.e - 3) < 2 ^ (t.f + 1) * 2 ^ (2 ^ t.e - 3) :=
            Nat.mul_lt_mul_of_pos_right (Nat.sub_lt (by positivity) one_pos) (by positivity)
        _ = 2 ^ t.f * (2 ^ (2 ^ t.e - 3) * 2) := by ring
        _ ≤ (2 ^ t.f + r) * 2 ^ j := Nat.mul_le_mul (Nat.le_add_right _ _) hpow
    have hc : j * 2 ^ t.f + (2 ^ t.f + r) = 2 ^ t.f * (j + 1) + r := by ring
    have hinf : 2 ^ t.f * (j + 1) + r < t.infBits := by
      calc 2 ^ t.f * (j + 1) + r < 2 ^ t.f * (j + 2) := by rw [Nat.mul_add _ j 2, Nat.mul_add _ j 1]; omega
        _ ≤ t.infBits := by rw [Fmt.infBits, mul_comm]; exact Nat.mul_le_mul_right _ (by omega)
    rw [hc, value_sign_add ht.ieee neg hinf, Nat.mul_add_div (by positivity), Nat.div_eq_of_lt hr, Nat.mul_add_mod,
      Nat.mod_eq_of_lt hr, if_neg (by omega), Fmt.emin]
    congr 1
    push_cast
    rw [max_eq_left (by omega)]
    ring

/-- A point of the grid that is finite in the format, by its bits. -/
theorem value_encode {t : Fmt} (ht : Plain t) (neg : Bool) {m : Nat} {q : Int} (hm : m ≤ 2 ^ (t.f + 1)) (hq : t.emin ≤ q)
    (hfull : q = t.emin ∨ 2 ^ t.f ≤ m) (hfin : mag m q ≤ top t) :
    ∃ n p, t.value (t.sign neg + t.encode m q) = .num neg n p ∧ mag n p = mag m q := by
  rw [encode_eq hm hq hfull]
  obtain ⟨j, rfl⟩ : ∃ j : Nat, q = t.emin + j := ⟨(q - t.emin).toNat, by omega⟩
  rw [add_sub_cancel_left, Int.toNat_natCast]
  rcases hm.lt_or_eq with hlt | rfl
  · exact ⟨_, _, value_sign_add_sig ht neg hlt (hfull.imp_left (by omega)) hfin, rfl⟩
  · -- the significand has grown to the next power of 2
    have hmag : mag (2 ^ t.f) (t.emin + (j + 1 : Nat)) = mag (2 ^ (t.f + 1)) (t.emin + j) := by
      rw [mag_shift, mag_shift, pow_succ, pow_succ]
      congr 1
      ring
    have hbits : j * 2 ^ t.f + 2 ^ (t.f + 1) = (j + 1) * 2 ^ t.f + 2 ^ t.f := by ring
    rw [hbits]
    have hfits : 2 ^ t.f < 2 ^ (t.f + 1) := Nat.pow_lt_pow_right one_lt_two (Nat.lt_succ_self _)
    exact ⟨_, _, value_sign_add_sig ht neg hfits (.inr le_rfl) (hmag.trans_le hfin), hmag⟩

/-! ## Delivery -/

/-- What `round` delivers for a magnitude up to the largest finite one: the end of its cell that the mode names, and NX where that is
another value (R33, R37). -/
theorem round_eq {t : Fmt} (ht : Plain t) (mode : BitVec 2) (neg : Bool) {m : Nat} {e : Int} (hm : 0 < m) (hfin : mag m e ≤ top t) :
    ∃ k q, ∃ u : Bool, OnCell t (mag m e) k q ∧ (u = true ↔ GoesUp mode neg k q (mag m e)) ∧
      (∃ n p, t.value (t.round mode false neg m e false).1 = .num neg n p ∧ mag n p = mag (k + u.toNat) q) ∧
      (t.round mode false neg m e false).1 % 2 = (k + u.toNat) % 2 ∧
      (t.round mode false neg m e false).2.getLsbD 0 = decide (mag k q ≠ mag m e) := by
  obtain ⟨k, q, u, hg, hcell, hu⟩ := onGrid_eq t mode neg e hm
  have hsig : k + u.toNat ≤ 2 ^ (t.f + 1) := by
    have := hcell.fits
    have := u.toNat_le
    omega
  have hfull : q = t.emin ∨ 2 ^ t.f ≤ k + u.toNat := hcell.full.imp_right fun h => by omega
  have htop : mag (k + u.toNat) q ≤ top t := by
    cases hb : u with
    | false => exact hcell.lower.trans hfin
    | true =>
      -- the largest finite magnitude does not lie in the cell, and is not below `mag m e`
      have hlo : mag k q < mag m e := lt_of_le_of_ne hcell.lower (hu.mp hb).1
      have hmax : t.maxSig < 2 ^ (t.f + 1) ∧ t.emin ≤ t.maxExp := by
        rw [ht.maxSig, ht.maxExp]
        exact ⟨Nat.sub_lt (by positivity) one_pos, by omega⟩
      exact (hcell.no_gap hmax.1 hmax.2).resolve_left (not_le.mpr (hlo.trans_le hfin))
  have hex : t.exceeds (k + u.toNat) q = false := by
    rw [Bool.eq_false_iff, Ne, exceeds_iff]
    exact not_lt.mpr htop
  rw [Fmt.round, hg, Fmt.deliver]
  simp only [hex, Bool.false_eq_true, if_false]
  refine ⟨k, q, u, hcell, hu, value_encode ht neg hsig hcell.least hfull htop, ?_, ?_⟩
  · have heven : ∀ c, 2 ^ t.f * c % 2 = 0 := fun c => by
      rw [← Nat.sub_add_cancel ht.frac, pow_succ, mul_assoc, mul_left_comm, Nat.mul_mod_right]
    rw [encode_eq hsig hcell.least hfull, Fmt.sign, pow_add, ← mul_assoc, mul_comm _ (2 ^ t.f), mul_comm _ (2 ^ t.f), Nat.add_mod,
      heven, zero_add, Nat.mod_mod, Nat.add_mod, heven, zero_add, Nat.mod_mod]
  · split
    · split <;> simp_all [fNX, fUF]
    · simp_all

/-! ## The nearest value -/

/-- The value of an encoding, where it is finite. -/
def finite : Fl → Option ℚ
  | .num n k p => some ((if n then (-1 : ℚ) else 1) * k * (2 : ℚ) ^ p)
  | _ => none

/-- 1 or −1. -/
def sgn (neg : Bool) : ℚ := if neg then -1 else 1
theorem finite_num (n : Bool) (k : Nat) (p : Int) : finite (.num n k p) = some (sgn n * mag k p) := by
  simp [finite, sgn, mag]
theorem of_finite_eq_some {v : Fl} {z : ℚ} (h : finite v = some z) : ∃ n k p, v = .num n k p ∧ z = sgn n * mag k p := by
  cases v with
  | nan _ => cases h
  | inf _ => cases h
  | num n k p => exact ⟨n, k, p, rfl, by rw [finite_num] at h; exact (Option.some.inj h).symm⟩

/-- Seen from the side of `neg`, a value of the format lies at or below the cell, or at or above it. -/
theorem OnCell.signed_no_gap {t : Fmt} {x : ℚ} {k n : Nat} {p q : Int} (h : OnCell t x k q) (hn : n < 2 ^ (t.f + 1)) (hp : t.emin ≤ p)
    (s neg : Bool) : sgn neg * (sgn s * mag n p) ≤ mag k q ∨ mag (k + 1) q ≤ sgn neg * (sgn s * mag n p) := by
  have h0 := mag_nonneg n p
  have h1 := mag_nonneg k q
  have := h.no_gap hn hp
  cases s <;> cases neg <;> simp only [sgn, Bool.false_eq_true, if_true, if_false, one_mul, neg_mul, neg_neg]
  · exact this
  · exact .inl (by linarith)
  · exact .inl (by linarith)
  · exact this

theorem sgn_mul_self (neg : Bool) : sgn neg * sgn neg = 1 := by cases neg <;> simp [sgn]
theorem sgn_not (neg : Bool) : sgn (!neg) = -sgn neg := by cases neg <;> simp [sgn]
theorem abs_sgn (neg : Bool) : |sgn neg| = 1 := by cases neg <;> simp [sgn]
theorem sgn_mul_inj {neg : Bool} {a b : ℚ} : sgn neg * a = sgn neg * b ↔ a = b :=
  mul_right_inj' fun h => by simpa [h] using sgn_mul_self neg
/-- Distances are the same seen from the side of `neg`. -/
theorem abs_sgn_mul_sub (neg : Bool) (a z : ℚ) : |z - sgn neg * a| = |sgn neg * z - a| := by
  rw [← one_mul |z - _|, ← abs_sgn neg, ← abs_mul, mul_sub, ← mul_assoc, sgn_mul_self, one_mul]

section
variable {lo hi x w : ℚ}

/-- No value outside the cell lies nearer to `x` than its nearer end; one as near is the other end, and `x` the midpoint. -/
theorem nearest_end {up : Bool} {odd : Prop} (hlo : lo ≤ x) (hhi : x < hi) (hw : w ≤ lo ∨ hi ≤ w)
    (hup : up = true ↔ lo ≠ x ∧ (lo + hi < 2 * x ∨ (lo + hi = 2 * x ∧ odd))) :
    |(if up then hi else lo) - x| ≤ |w - x| ∧
      (|(if up then hi else lo) - x| = |w - x| → w ≠ (if up then hi else lo) → lo ≠ x ∧ lo + hi = 2 * x) := by
  have hdlo : |lo - x| = x - lo := by rw [abs_of_nonpos (by linarith)]; ring
  have hdhi : |hi - x| = hi - x := abs_of_pos (by linarith)
  have hdw : (w ≤ lo ∧ |w - x| = x - w) ∨ (hi ≤ w ∧ |w - x| = w - x) :=
    hw.imp (fun h => ⟨h, by rw [abs_of_nonpos (by linarith)]; ring⟩) fun h => ⟨h, abs_of_pos (by linarith)⟩
  cases up with
  | true =>
    obtain ⟨hne, hmid⟩ := hup.mp rfl
    have hmid : lo + hi ≤ 2 * x := hmid.elim le_of_lt fun h => h.1.le
    rw [if_pos rfl, hdhi]
    rcases hdw with ⟨hle, he⟩ | ⟨hge, he⟩
    · exact ⟨by linarith, fun heq _ => ⟨hne, by linarith⟩⟩
    · exact ⟨by linarith, fun heq hw => absurd (show w = hi by linarith) hw⟩
  | false =>
    have hmid : lo = x ∨ 2 * x ≤ lo + hi := by
      by_contra! h
      exact Bool.false_ne_true (hup.mpr ⟨h.1, .inl h.2⟩)
    rw [if_neg Bool.false_ne_true, hdlo]
    rcases hdw with ⟨hle, he⟩ | ⟨hge, he⟩
    · exact ⟨by linarith, fun heq hw => absurd (show w = lo by linarith) hw⟩
    · refine ⟨by rcases hmid with h | h <;> linarith, fun heq _ => ?_⟩
      have hne : lo ≠ x := fun h => by linarith
      exact ⟨hne, by have := hmid.resolve_left hne; linarith⟩

/-- The lower end is the largest value up to `x`. -/
theorem le_lower_end (hhi : x < hi) (hw : w ≤ lo ∨ hi ≤ w) (h : w ≤ x) : w ≤ lo :=
  hw.resolve_right fun h' => by linarith

/-- The upper end, or the lower one where that is `x`, is the least value from `x` on. -/
theorem upper_end_le {up : Bool} (hlo : lo ≤ x) (hw : w ≤ lo ∨ hi ≤ w) (hup : up = true ↔ lo ≠ x) (h : x ≤ w) :
    (if up then hi else lo) ≤ w := by
  split
  · case isTrue hu => exact hw.resolve_left fun h' => hup.mp hu (by linarith)
  · exact hlo.trans h

theorem le_upper_end {up : Bool} (hhi : x < hi) (hup : up = true ↔ lo ≠ x) : x ≤ (if up then hi else lo) := by
  split
  · exact hhi.le
  · case isFalse hu => exact (not_ne_iff.mp (mt hup.mpr hu)).ge

/-- Of the values, the end of the cell away from zero for a negative one, and the end toward zero for another, is the largest up to
`x`. -/
theorem largest_end {up neg : Bool} {z : ℚ} (hlo : lo ≤ x) (hhi : x < hi) (hw : sgn neg * z ≤ lo ∨ hi ≤ sgn neg * z)
    (hup : up = true ↔ lo ≠ x ∧ neg = true) :
    sgn neg * (if up then hi else lo) ≤ sgn neg * x ∧ (z ≤ sgn neg * x → z ≤ sgn neg * (if up then hi else lo)) := by
  cases neg with
  | false =>
    have hup : up = false := by simpa using hup
    simp only [sgn, hup, Bool.false_eq_true, if_false, one_mul] at hw ⊢
    exact ⟨hlo, le_lower_end hhi hw⟩
  | true =>
    have hup : up = true ↔ lo ≠ x := by simpa using hup
    simp only [sgn, if_true, neg_mul, one_mul] at hw ⊢
    exact ⟨neg_le_neg (le_upper_end hhi hup), fun h => le_neg_of_le_neg (upper_end_le hlo hw hup (le_neg_of_le_neg h))⟩

end

theorem mag_end (k : Nat) (q : Int) (u : Bool) : mag (k + u.toNat) q = if u then mag (k + 1) q else mag k q := by
  cases u <;> rfl

/-- Settles O5: the result is the end of the cell around the magnitude that the mode names, and no value of the format lies within the
cell. -/
theorem roundingIsNearest : Obligations.RoundingIsNearest := by
  unfold Obligations.RoundingIsNearest
  intro t rm neg m e hm f val x r hfin
  have hval : val = finite := by funext v; cases v <;> rfl
  have hx : x = sgn neg * mag m e := mul_assoc _ _ _
  obtain ⟨k, q, u, hcell, hu, ⟨n, p, hv, hn⟩, hpar, hnx⟩ := round_eq (Plain.scalarFmt t) rm neg hm hfin
  have hlo := hcell.lower
  have hhi := hcell.upper
  rw [mag_end] at hn
  refine ⟨_, by rw [hval, hv, finite_num, hn], ?_, fun b z hz => ?_⟩
  · refine hnx.trans (decide_eq_decide.mpr ?_)
    rw [hx, Ne, Ne, sgn_mul_inj]
    cases u with
    | false => rfl
    | true => exact iff_of_true (hu.mp rfl).1 hhi.ne'
  · rw [hval] at hz
    obtain ⟨s, j, i, hb, rfl⟩ := of_finite_eq_some hz
    obtain ⟨hj, hi⟩ := value_fits hb
    have hw := hcell.signed_no_gap hj hi s neg
    have h0 := mag_nonneg k q
    have hpos := mag_pos hm e
    generalize sgn s * mag j i = z at *
    generalize mag m e = a at *
    rw [hx]
    split
    · case h_1 h =>
      simp only [GoesUp, h] at hu
      obtain ⟨hnear, htie⟩ := nearest_end hlo hhi hw hu
      rw [abs_sgn_mul_sub, abs_sgn_mul_sub, ← mul_assoc, sgn_mul_self, one_mul]
      refine ⟨hnear, fun heq hne => ?_⟩
      obtain ⟨hnex, hmid⟩ := htie heq fun h => hne (by rw [← h, ← mul_assoc, sgn_mul_self, one_mul])
      rw [show r.1 % 2 = _ from hpar]
      have hodd : u = true ↔ k % 2 = 1 := by simpa [hnex, hmid] using hu
      cases u with
      | false => simpa using hodd
      | true => have := hodd.mp rfl; simp only [Bool.toNat_true]; omega
    · case h_2 h =>
      simp only [GoesUp, h, and_false, iff_false] at hu
      have habs : ∀ c, |sgn neg * c| = |c| := fun c => by rw [abs_mul, abs_sgn, one_mul]
      rw [if_neg hu, habs, habs, abs_of_nonneg h0, abs_of_pos hpos]
      refine ⟨hlo, fun hle hsame => ?_⟩
      have hsame : 0 ≤ sgn neg * z := nonneg_of_mul_nonneg_left (by rwa [mul_left_comm, ← mul_assoc] at hsame) hpos
      rw [← habs, abs_of_nonneg hsame] at hle ⊢
      exact le_lower_end hhi hw hle
    · case h_3 h =>
      simp only [GoesUp, h] at hu
      exact largest_end hlo hhi hw hu
    · case h_4 hm0 hm1 hm2 =>
      have hu : u = true ↔ mag k q ≠ a ∧ (!neg) = true := by
        rw [hu, GoesUp]
        split <;> simp_all
      -- the least value from `x` on is the opposite of the largest one up to `-x`
      have hopp : ∀ c, sgn neg * c = -(sgn (!neg) * c) := fun c => by rw [sgn_not, neg_mul, neg_neg]
      obtain ⟨hle, hleast⟩ := largest_end (z := -z) hlo hhi (by rwa [sgn_not, neg_mul_neg]) hu
      rw [hopp, hopp]
      exact ⟨neg_le_neg hle, fun h => neg_le_of_neg_le (hleast (neg_le_of_neg_le h))⟩

end Sys2Proof.Rounding
end

section
/-! SUPPORT. Lanes and elements of vector registers (R32, R150 to R153): what the lanes that an instruction writes leave in the
registers and in the flags, and the slots that write elements. -/
namespace Sys2Proof.Lanes
open Sys2Proof Sys2Proof.Machine

/-! ## A slot that sets flags (R37, R39) -/

theorem modRegs_modRegs (s : State) (f g : Regs → Regs) : (s.modRegs f).modRegs g = s.modRegs (g ∘ f) := by
  simp [State.modRegs]

/-- A slot that computes on registers and sets flags. -/
theorem gives_flagged {s : State} {i : Instr} {Q : Regs → Prop} (g : Regs → Regs) (fl : BitVec 5) (run : Running s)
    (he : exec i s = .next ((s.modRegs g).setFlags fl).retire) (q : Q ((g s.regs).flag fl)) : Gives s i Q := by
  have hu : (s.modRegs g).setFlags fl = s.modCtx s.cur fun c =>
      { c with regs := (g c.regs).flag fl, issue := { c.issue with flags := c.issue.flags ||| fl } } := by
    simp [State.setFlags, State.modRegs]
  rw [hu] at he
  exact (Touched.modCtx s _ rfl rfl rfl rfl rfl rfl).gives run he (by simp) (by simpa [State.regs] using q)

theorem getLsbD_flag (r : Regs) (fl : BitVec 5) (b : Nat) : (r.flag fl).fcsr.getLsbD b = (r.fcsr.getLsbD b || fl.getLsbD b) := by
  simp only [Regs.flag, BitVec.getLsbD_or, BitVec.getLsbD_setWidth]
  by_cases h : b < 32
  · simp [h]
  · simp [h, BitVec.getLsbD_of_ge fl b (by omega)]

theorem getLsbD_foldl_or {α : Type} (f : α → BitVec 5) (xs : List α) (b : Nat) :
    (xs.foldl (fun acc x => acc ||| f x) 0).getLsbD b = xs.any fun x => (f x).getLsbD b := by
  have key : ∀ (xs : List α) (acc : BitVec 5),
      (xs.foldl (fun acc x => acc ||| f x) acc).getLsbD b = (acc.getLsbD b || xs.any fun x => (f x).getLsbD b) := by
    intro xs
    induction xs with
    | nil => simp
    | cons x xs ih =>
      intro acc
      rw [List.foldl_cons, ih, List.any_cons, BitVec.getLsbD_or, Bool.or_assoc]
  exact (key xs 0).trans (by simp)
theorem getLsbD_flagsOf (ls : List (Option Elt)) (b : Nat) :
    (flagsOf ls).getLsbD b = ls.any fun o => (o.getD {}).fl.getLsbD b := by
  rw [← getLsbD_foldl_or, flagsOf]
  congr 2
  funext f o
  cases o <;> simp

/-! ## Lanes written -/

/-- What a lane that held `x` holds after the write of `o`. -/
def laneAfter (x : Val 32) (o : Option Elt) : Val 32 := match o with | some e => ⟨BitVec.ofNat 32 e.v, e.psn⟩ | none => x
@[simp] theorem laneAfter_some (x : Val 32) (e : Elt) : laneAfter x (some e) = ⟨BitVec.ofNat 32 e.v, e.psn⟩ := rfl
@[simp] theorem laneAfter_none (x : Val 32) : laneAfter x none = x := rfl

theorem wLanes_eq_wv (r : Regs) (n : Nat) {ls : List (Option Elt)} (h : ls.length = 64) :
    r.wLanes n ls = r.wv n fun l => laneAfter (r.rv n l) (ls.getD l none) := by
  simp only [Regs.wLanes, Regs.wv, Sparse.putRange, h]
  congr 2
  refine List.ext_getElem (by simp [h]) fun l h1 h2 => ?_
  rw [List.length_mapIdx] at h1
  simp only [List.getElem_mapIdx, List.getElem_map, List.getElem_range, List.getD_eq_getElem _ _ h1, Prod.mk.injEq, true_and]
  cases ls[l] <;> rfl

theorem rv_wLanes (r : Regs) (n m l : Nat) {ls : List (Option Elt)} (h : ls.length = 64) (hl : l < 64) :
    (r.wLanes n ls).rv m l = if m = n then laneAfter (r.rv n l) (ls.getD l none) else r.rv m l := by
  rw [wLanes_eq_wv r n h, Regs.rv_wv _ _ _ _ _ hl]

/-- A vector slot, by what holds of the registers that it leaves. -/
theorem gives_vecSlot {s : State} {i : Instr} {d : BitVec 6} {Q : Regs → Prop} (f : Regs → List (Option Elt)) (run : Running s)
    (he : exec i s = vecSlot d f s) (q : Q ((s.regs.wLanes d.toNat (f s.old)).flag (flagsOf (f s.old)))) : Gives s i Q :=
  gives_flagged (fun r => r.wLanes d.toNat (f s.old)) _ run he q

theorem onlyV_wLanes (r : Regs) (n : Nat) {ls : List (Option Elt)} (fl : BitVec 5) (h : ls.length = 64) :
    OnlyV n r ((r.wLanes n ls).flag fl) :=
  ⟨rfl, fun m l hm hl => (rv_wLanes r n m l h hl).trans (if_neg hm)⟩

/-! ## Elements in lanes -/

/-- The widths of the element types (R97). -/
def IsWidth (w : Nat) : Prop := w = 4 ∨ w = 8 ∨ w = 16 ∨ w = 32 ∨ w = 64

theorem isWidth_eltType (v : BitVec 4) : IsWidth (eltType v).width := by
  rw [eltType]
  split <;> simp [IsWidth, NumType.width, Fmt.width, Fmt.f64, Fmt.f32, Fmt.f16, Fmt.bf16, Fmt.e5m2, Fmt.e4m3, Fmt.e2m1]

/-- The bits `[w × j, w × j + w)` of a number. -/
def digit (w j x : Nat) : Nat := x / 2 ^ (w * j) % 2 ^ w

theorem digit_zero (w x : Nat) : digit w 0 x = x % 2 ^ w := by simp [digit]
theorem digit_succ (w j x : Nat) : digit w (j + 1) x = digit w j (x / 2 ^ w) := by
  rw [digit, digit, Nat.div_div_eq_div_mul, ← pow_add, Nat.mul_succ, add_comm w]
theorem testBit_digit (w j x i : Nat) : (digit w j x).testBit i = (decide (i < w) && x.testBit (w * j + i)) := by
  rw [digit, Nat.testBit_mod_two_pow, Nat.testBit_div_two_pow, add_comm i]
/-- A digit below bit `n` is that of the number's low `n` bits. -/
theorem digit_mod {w j n : Nat} (h : w * j + w ≤ n) (x : Nat) : digit w j (x % 2 ^ n) = digit w j x := by
  refine Nat.eq_of_testBit_eq fun i => ?_
  rw [testBit_digit, testBit_digit, Nat.testBit_mod_two_pow]
  by_cases hi : i < w
  · simp [show w * j + i < n by omega]
  · simp [hi]

theorem digit_packLane (w : Nat) (es : List Elt) {j : Nat} (hj : j < es.length) : digit w j (packLane w es).v = es[j].v % 2 ^ w := by
  induction es generalizing j with
  | nil => simp at hj
  | cons e es ih =>
    have hv : (packLane w (e :: es)).v = 2 ^ w * (packLane w es).v + e.v % 2 ^ w := Nat.add_comm _ _
    have hlt : e.v % 2 ^ w < 2 ^ w := Nat.mod_lt _ (by positivity)
    rw [hv]
    cases j with
    | zero => rw [digit_zero, Nat.mul_add_mod, Nat.mod_mod, List.getElem_cons_zero]
    | succ j =>
      rw [digit_succ, Nat.mul_add_div (by positivity), Nat.div_eq_of_lt hlt, add_zero, List.getElem_cons_succ,
        ih (by simpa using hj)]
theorem psn_packLane (w : Nat) (es : List Elt) : (packLane w es).psn = es.any (·.psn) := by
  induction es with
  | nil => rfl
  | cons e es ih => rw [List.any_cons, ← ih]; rfl
theorem fl_packLane (w : Nat) (es : List Elt) (b : Nat) : (packLane w es).fl.getLsbD b = es.any (·.fl.getLsbD b) := by
  induction es with
  | nil => simp [packLane]
  | cons e es ih => rw [List.any_cons, ← ih, ← BitVec.getLsbD_or]; rfl

/-- What an element function writes to lane `l`, an active one. -/
def laneOf (w : Nat) (f : Nat → Elt) (l : Nat) : Elt :=
  if w = 64 then (splitLanes (f (l / 2))).getD (l % 2) {} else packLane w ((List.range (32 / w)).map fun i => f (l * (32 / w) + i))

theorem length_flatMap_range {α : Type} {g : Nat → List α} {k : Nat} (hk : ∀ u, (g u).length = k) (n : Nat) :
    ((List.range n).flatMap g).length = n * k := by
  simp [List.length_flatMap, hk]
/-- Pieces of one length, put one after the other. -/
theorem getD_flatMap_range {α : Type} {g : Nat → List α} {k n u l : Nat} (hk : ∀ u, (g u).length = k) (hu : u < n) (hl : l < k)
    (x : α) : ((List.range n).flatMap g).getD (u * k + l) x = (g u).getD l x := by
  induction n with
  | zero => omega
  | succ n ih =>
    have hlen := length_flatMap_range hk n
    rw [List.range_succ, List.flatMap_append, List.flatMap_singleton]
    rcases Nat.lt_succ_iff_lt_or_eq.mp hu with h | rfl
    · rw [List.getD_append _ _ _ _ ?_, ih h]
      calc u * k + l < (u + 1) * k := by rw [add_mul]; omega
        _ ≤ _ := by rw [hlen]; exact Nat.mul_le_mul_right k h
    · rw [List.getD_append_right _ _ _ _ (by omega), hlen, Nat.add_sub_cancel_left]

theorem length_lanes (r : Regs) (w : Nat) (f : Nat → Elt) : (r.lanes w f).length = 64 := by
  rw [Regs.lanes]
  split
  · exact length_flatMap_range (k := 2) (fun u => by split <;> rfl) 32
  · simp

theorem getD_lanes (r : Regs) (w : Nat) (f : Nat → Elt) {l : Nat} (hl : l < 64) :
    (r.lanes w f).getD l none = if r.active (ruling w l) then some (laneOf w f l) else none := by
  rw [Regs.lanes, ruling, laneOf]
  split
  · conv_lhs => rw [← Nat.div_add_mod' l 2]
    rw [getD_flatMap_range (k := 2) (fun u => by split <;> rfl) (by omega) (by omega), mul_comm 2]
    rcases Nat.mod_two_eq_zero_or_one l with h | h <;> split <;> simp [h, splitLanes]
  · simp [List.getD_eq_getElem?_getD, hl]

/-- Where the elements narrower than a lane stand. -/
theorem slot_arith {w j : Nat} (hw : IsWidth w) (h64 : w ≠ 64) (hj : j < 32 / w) (l : Nat) :
    (l * (32 / w) + j) * w / 32 = l ∧ (l * (32 / w) + j) * w % 32 = w * j ∧ w * j + w ≤ 32 ∧
      (l * (32 / w) + j < 2048 / w ↔ l < 64) := by
  rcases hw with rfl | rfl | rfl | rfl | rfl
  case inr.inr.inr.inr => exact absurd rfl h64
  all_goals omega
theorem maskLane_slot {w j : Nat} (hw : IsWidth w) (h64 : w ≠ 64) (hj : j < 32 / w) (l : Nat) :
    maskLane w (l * (32 / w) + j) = l := by rw [maskLane, if_neg h64, (slot_arith hw h64 hj l).1]
/-- Every element narrower than a lane stands in one. -/
theorem exists_slot {w : Nat} (hw : IsWidth w) (h64 : w ≠ 64) (e : Nat) : ∃ l j, j < 32 / w ∧ e = l * (32 / w) + j := by
  refine ⟨e / (32 / w), e % (32 / w), Nat.mod_lt _ ?_, (Nat.div_add_mod' _ _).symm⟩
  rcases hw with rfl | rfl | rfl | rfl | rfl
  case inr.inr.inr.inr => exact absurd rfl h64
  all_goals decide

theorem elt_slot {w j : Nat} (hw : IsWidth w) (h64 : w ≠ 64) (hj : j < 32 / w) (r : Regs) (n l : Nat) :
    r.elt n w (l * (32 / w) + j) = { v := digit w j (r.rv n l).v.toNat, psn := (r.rv n l).psn } := by
  obtain ⟨hlane, hbit, -, -⟩ := slot_arith hw h64 hj l
  rw [Regs.elt, if_neg h64, hlane, hbit]
  rfl

/-- An element read from the lanes that its element function wrote. -/
theorem elt_of_laneOf {w : Nat} (hw : IsWidth w) {r : Regs} {n e : Nat} (he : e ∈ elements w) (f : Nat → Elt)
    (h : ∀ l, l < 64 → ruling w l = maskLane w e → (r.rv n l).v = BitVec.ofNat 32 (laneOf w f l).v) :
    (r.elt n w e).v = (f e).v % 2 ^ w := by
  rw [elements, List.mem_range] at he
  by_cases h64 : w = 64
  · subst h64
    have hlo := h (2 * e) (by omega) (by simp only [ruling, maskLane, if_true]; omega)
    have hhi := h (2 * e + 1) (by omega) (by simp only [ruling, maskLane, if_true]; omega)
    simp only [laneOf, if_true, show 2 * e / 2 = e by omega, show 2 * e % 2 = 0 by omega, show (2 * e + 1) / 2 = e by omega,
      show (2 * e + 1) % 2 = 1 by omega, splitLanes, List.getD_cons_zero, List.getD_cons_succ] at hlo hhi
    simp only [Regs.elt, if_true, hlo, hhi, BitVec.toNat_ofNat]
    omega
  · obtain ⟨l, j, hj, rfl⟩ := exists_slot hw h64 e
    obtain ⟨hlane, -, hfit, hlt⟩ := slot_arith hw h64 hj l
    have hl := h l (hlt.mp he) (by rw [maskLane_slot hw h64 hj, ruling, if_neg h64])
    rw [elt_slot hw h64 hj, hl, laneOf, if_neg h64, BitVec.toNat_ofNat, digit_mod hfit, digit_packLane w _ (by simpa using hj)]
    simp

/-- What holds of an element in the lanes ruled by `m`, lane by lane. -/
theorem exists_element_iff {w : Nat} (hw : IsWidth w) (P : Nat → Nat → Prop) :
    (∃ e ∈ elements w, P (maskLane w e) e) ↔
      ∃ l, l < 64 ∧ if w = 64 then l % 2 = 0 ∧ P l (l / 2) else ∃ j, j < 32 / w ∧ P l (l * (32 / w) + j) := by
  simp only [elements, List.mem_range]
  by_cases h64 : w = 64
  · subst h64
    simp only [maskLane, if_true]
    constructor
    · rintro ⟨e, he, hp⟩
      exact ⟨2 * e, by omega, by omega, by rwa [Nat.mul_div_cancel_left _ two_pos]⟩
    · rintro ⟨l, hl, heven, hp⟩
      exact ⟨l / 2, by omega, by rwa [Nat.mul_div_cancel' (Nat.dvd_of_mod_eq_zero heven)]⟩
  · simp only [if_neg h64]
    constructor
    · rintro ⟨e, he, hp⟩
      obtain ⟨l, j, hj, rfl⟩ := exists_slot hw h64 e
      exact ⟨l, (slot_arith hw h64 hj l).2.2.2.mp he, j, hj, by rwa [maskLane_slot hw h64 hj] at hp⟩
    · rintro ⟨l, hl, j, hj, hp⟩
      exact ⟨_, (slot_arith hw h64 hj l).2.2.2.mpr hl, by rwa [maskLane_slot hw h64 hj]⟩

theorem any_elements_ruled {w l : Nat} (hw : IsWidth w) (hl : l < 64) (p : Nat → Bool) :
    ((elements w).any fun e => maskLane w e = ruling w l && p e) =
      if w = 64 then p (l / 2) else (List.range (32 / w)).any fun i => p (l * (32 / w) + i) := by
  rw [Bool.eq_iff_iff]
  have key := exists_element_iff hw fun m e => m = ruling w l ∧ p e = true
  simp only [List.any_eq_true, Bool.and_eq_true, decide_eq_true_eq]
  rw [key, ruling]
  by_cases h64 : w = 64
  · simp only [if_pos h64]
    constructor
    · rintro ⟨m, -, -, rfl, hp⟩
      rwa [Nat.mul_div_cancel _ two_pos] at hp
    · exact fun hp => ⟨l / 2 * 2, by omega, by omega, rfl, by rwa [Nat.mul_div_cancel _ two_pos]⟩
  · simp only [if_neg h64, List.any_eq_true, List.mem_range]
    constructor
    · rintro ⟨_, -, j, hj, rfl, hp⟩
      exact ⟨j, hj, hp⟩
    · rintro ⟨j, hj, hp⟩
      exact ⟨l, hl, j, hj, rfl, hp⟩

theorem psn_laneOf {w l : Nat} (hw : IsWidth w) (hl : l < 64) (f : Nat → Elt) :
    (laneOf w f l).psn = (elements w).any fun e => maskLane w e = ruling w l && (f e).psn := by
  rw [any_elements_ruled hw hl fun e => (f e).psn, laneOf]
  split
  · rcases Nat.mod_two_eq_zero_or_one l with h | h <;> simp [h, splitLanes]
  · rw [psn_packLane, List.any_map]
    rfl

/-- A flag of an active lane comes from an element in it; of a 64-bit element, from its first lane. -/
theorem active_fl_laneOf {w : Nat} (r : Regs) (f : Nat → Elt) (l b : Nat) :
    (r.active (ruling w l) = true ∧ (laneOf w f l).fl.getLsbD b = true) ↔
      if w = 64 then l % 2 = 0 ∧ r.active l = true ∧ (f (l / 2)).fl.getLsbD b = true
      else ∃ j, j < 32 / w ∧ r.active l = true ∧ (f (l * (32 / w) + j)).fl.getLsbD b = true := by
  rw [laneOf, ruling]
  split
  · rcases Nat.mod_two_eq_zero_or_one l with h | h
    · simp [h, splitLanes, Nat.div_mul_cancel (Nat.dvd_of_mod_eq_zero h)]
    · simp [h, splitLanes]
  · rw [fl_packLane, List.any_map]
    simp only [List.any_eq_true, List.mem_range, Function.comp]
    exact ⟨fun ⟨ha, j, hj, hb⟩ => ⟨j, hj, ha, hb⟩, fun ⟨j, hj, ha, hb⟩ => ⟨ha, j, hj, hb⟩⟩

theorem any_eq_true_iff_getD {α : Type} {ls : List (Option α)} {n : Nat} (h : ls.length = n) (p : Option α → Bool) :
    ls.any p = true ↔ ∃ l, l < n ∧ p (ls.getD l none) = true := by
  subst h
  rw [List.any_eq_true]
  constructor
  · rintro ⟨o, ho, hp⟩
    obtain ⟨l, hl, rfl⟩ := List.getElem_of_mem ho
    exact ⟨l, hl, by rwa [List.getD_eq_getElem _ _ hl]⟩
  · rintro ⟨l, hl, hp⟩
    rw [List.getD_eq_getElem _ _ hl] at hp
    exact ⟨_, List.getElem_mem hl, hp⟩

/-- The flags of the active elements (R39). -/
theorem getLsbD_flagsOf_lanes {w : Nat} (hw : IsWidth w) (r : Regs) (f : Nat → Elt) (b : Nat) :
    (flagsOf (r.lanes w f)).getLsbD b = (elements w).any fun e => r.active (maskLane w e) && (f e).fl.getLsbD b := by
  have key := exists_element_iff hw fun m e => r.active m = true ∧ (f e).fl.getLsbD b = true
  rw [getLsbD_flagsOf, Bool.eq_iff_iff, any_eq_true_iff_getD (length_lanes r w f)]
  simp only [List.any_eq_true, Bool.and_eq_true]
  rw [key]
  refine exists_congr fun l => and_congr_right fun hl => ?_
  rw [← active_fl_laneOf, getD_lanes r w f hl]
  split <;> simp_all

/-! ## Slots that write elements -/

/-- A slot that writes what its element function says, poisoned elements with value bits 0. -/
theorem givesV_lanes {s : State} {i : Instr} {d : BitVec 6} {w : Nat} (f : Regs → Nat → Elt) (hw : IsWidth w)
    (hzero : ∀ e, (f s.old e).psn = true → (f s.old e).v = 0) (run : Running s)
    (he : exec i s = vecSlot d (fun old => old.lanes w (f old)) s) : GivesV s i d w (f s.old) := by
  have hlen := length_lanes s.old w (f s.old)
  have hrv : ∀ l, l < 64 →
      ((s.regs.wLanes d.toNat (s.old.lanes w (f s.old))).flag (flagsOf (s.old.lanes w (f s.old)))).rv d.toNat l =
        if s.old.active (ruling w l) then ⟨BitVec.ofNat 32 (laneOf w (f s.old) l).v, (laneOf w (f s.old) l).psn⟩
        else s.regs.rv d.toNat l := by
    intro l hl
    refine (rv_wLanes s.regs d.toNat d.toNat l hlen hl).trans ?_
    rw [if_pos rfl, getD_lanes _ _ _ hl]
    split <;> rfl
  refine gives_vecSlot _ run he ⟨onlyV_wLanes _ _ _ hlen, fun l hl hoff => ?_, fun e he hon => ?_, fun l hl hon => ?_, fun b => ?_⟩
  · rw [hrv l hl, if_neg (by simp [hoff])]
  · have hv : ∀ l, l < 64 → ruling w l = maskLane w e → _ := fun l hl h => congrArg Val.v ((hrv l hl).trans (if_pos (by rwa [h])))
    rw [elt_of_laneOf hw he _ hv]
    split
    · case isTrue hp => rw [hzero e hp, Nat.zero_mod]
    · rfl
  · rw [hrv l hl, if_pos hon]
    exact psn_laneOf hw hl _
  · rw [getLsbD_flag, getLsbD_flagsOf_lanes hw]
    rfl

/-! ## Operands (R152) -/

theorem lift1_zero {a : Elt} {g : Nat → Nat × BitVec 5} (h : (lift1 a g).psn = true) : (lift1 a g).v = 0 := by
  unfold lift1 at h ⊢
  split at h <;> simp_all [Elt.bad]
theorem lift3_zero {a b c : Elt} {g : Nat → Nat → Nat → Nat × BitVec 5} (h : (lift3 a b c g).psn = true) :
    (lift3 a b c g).v = 0 := by
  unfold lift3 at h ⊢
  split at h <;> simp_all [Elt.bad]

end Sys2Proof.Lanes
end

section
/-! SUPPORT. The approximations of R41 and the conversions of R162 to R164. -/
namespace Sys2Proof.VectorFunctions
open Sys2Proof Sys2Proof.Machine Sys2Proof.Lanes

/-! ## Approximations (R41, R159) -/

theorem approx_nan {x : Nat} {g : Bool} (h : Fmt.f32.value x = .nan g) :
    ∀ r ∈ [approxRcp x, approxRsqrt x, approxExp2 x, approxLog2 x], r = (0x7FC00000, if g then fIV else 0) := by
  have hout : Fmt.f32.nanOut g = (0x7FC00000, if g then fIV else 0) := by cases g <;> rfl
  simp [approxRcp, approxRsqrt, approxExp2, approxLog2, h, hout]

theorem approx_inf {x : Nat} {n : Bool} (h : Fmt.f32.value x = .inf n) :
    approxRcp x = (if n then 0x80000000 else 0, 0) ∧ approxRsqrt x = (if n then (0x7FC00000, fIV) else (0, 0)) ∧
      approxExp2 x = (if n then 0 else 0x7F800000, 0) ∧ approxLog2 x = (if n then (0x7FC00000, fIV) else (0x7F800000, 0)) := by
  simp only [approxRcp, approxRsqrt, approxExp2, approxLog2, h]
  cases n <;> exact ⟨rfl, rfl, rfl, rfl⟩

theorem approx_zero {x : Nat} {n : Bool} {e : Int} (h : Fmt.f32.value x = .num n 0 e) :
    approxRcp x = (if n then 0xFF800000 else 0x7F800000, fDZ) ∧ approxRsqrt x = (if n then 0xFF800000 else 0x7F800000, fDZ) ∧
      approxExp2 x = (0x3F800000, 0) ∧ approxLog2 x = (0xFF800000, fDZ) := by
  have hone : Fmt.f32.encode 1 0 = 0x3F800000 := by decide
  simp only [approxRcp, approxRsqrt, approxExp2, approxLog2, h, if_true, hone]
  cases n <;> exact ⟨rfl, rfl, trivial, rfl⟩

theorem approx_neg {x m : Nat} {e : Int} (h : Fmt.f32.value x = .num true m e) (hm : m ≠ 0) :
    approxRsqrt x = (0x7FC00000, fIV) ∧ approxLog2 x = (0x7FC00000, fIV) := by
  simp only [approxRsqrt, approxLog2, h, if_neg hm]
  exact ⟨rfl, rfl⟩

/-- R41, R159: lane by lane, and the special inputs class by class. -/
theorem vectorApproximations : Sys2Proof.Parts.VectorApproximations := by
  unfold Sys2Proof.Parts.VectorApproximations
  constructor
  · intro s st d a run va
    have approx : ∀ (i : Instr) (g : Nat → Nat × BitVec 5), exec i s = unaryVec d a 32 (fun _ => g) s →
        GivesV s i d 32 fun e => lift1 (va e) g := fun i g he =>
      givesV_lanes (fun old e => lift1 (old.elt a.toNat 32 e) g) (by simp [IsWidth]) (fun _ => lift1_zero) run he
    exact ⟨approx _ _ rfl, approx _ _ rfl, approx _ _ rfl, approx _ _ rfl⟩
  · intro x v inf all
    have hv : Fmt.f32.value x = v := rfl
    clear_value v
    cases v with
    | nan g => exact ⟨fun _ => approx_nan hv, by simp [Fl.isZero], by simp [Fl.isInf], by simp [Fl.isInf], by simp [Fl.isNeg]⟩
    | inf n =>
      obtain ⟨hrcp, hrsqrt, hexp, hlog⟩ := approx_inf hv
      rw [hrcp, hrsqrt, hexp, hlog]
      refine ⟨by simp [Fl.isNan], by simp [Fl.isZero], fun _ hn => ?_, fun _ hn => ?_, fun hn _ => ?_⟩
      all_goals rw [show n = _ from hn]; simp [inf]
    | num n m e =>
      refine ⟨by simp [Fl.isNan], fun hz => ?_, by simp [Fl.isInf], by simp [Fl.isInf], fun hn hz => ?_⟩
      · obtain rfl : m = 0 := by simpa [Fl.isZero] using hz
        exact approx_zero hv
      · obtain rfl : n = true := hn
        exact approx_neg hv (by simpa [Fl.isZero] using hz)

/-! ## A lane patched (R163) -/

/-- A lane's bits after the write of element `p.2`, of width `w`, at slot `p.1`. -/
def patch (w v : Nat) (p : Nat × Elt) : Nat := v - v / 2 ^ (p.1 * w) % 2 ^ w * 2 ^ (p.1 * w) + p.2.v % 2 ^ w * 2 ^ (p.1 * w)

theorem digit_add (w i j x : Nat) : digit w (i + j) x = digit w j (x / 2 ^ (w * i)) := by
  rw [digit, digit, Nat.div_div_eq_div_mul, ← pow_add, Nat.mul_add]

theorem digit_patch (w v j : Nat) (p : Nat × Elt) : digit w j (patch w v p) = if j = p.1 then p.2.v % 2 ^ w else digit w j v := by
  obtain ⟨t, e⟩ := p
  have hx : e.v % 2 ^ w < 2 ^ w := Nat.mod_lt _ (by positivity)
  have hlow : v % 2 ^ (w * t) < 2 ^ (w * t) := Nat.mod_lt _ (by positivity)
  have hpatch : patch w v (t, e) = 2 ^ (w * t) * (2 ^ w * (v / 2 ^ (w * t) / 2 ^ w) + e.v % 2 ^ w) + v % 2 ^ (w * t) := by
    have h1 := Nat.div_add_mod v (2 ^ (w * t))
    have h2 := Nat.div_add_mod (v / 2 ^ (w * t)) (2 ^ w)
    rw [patch, mul_comm t w]
    generalize v / 2 ^ (w * t) = q at *
    generalize hA : 2 ^ w * (q / 2 ^ w) = A at *
    have h3 : 2 ^ (w * t) * q = 2 ^ (w * t) * A + q % 2 ^ w * 2 ^ (w * t) := by
      conv_lhs => rw [← h2]
      rw [Nat.mul_add, mul_comm (q % 2 ^ w)]
    rw [Nat.mul_add, mul_comm (e.v % _)]
    omega
  rw [hpatch]
  rcases lt_trichotomy j t with h | rfl | h
  · have hfit : w * j + w ≤ w * t := by rw [← Nat.mul_succ]; exact Nat.mul_le_mul_left w h
    rw [if_neg h.ne, ← digit_mod hfit, Nat.mul_add_mod, Nat.mod_mod, digit_mod hfit]
  · rw [if_pos rfl, digit, Nat.mul_add_div (by positivity), Nat.div_eq_of_lt hlow, add_zero, Nat.mul_add_mod, Nat.mod_mod]
  · obtain ⟨i, rfl⟩ := Nat.exists_eq_add_of_lt h
    rw [if_neg (by dsimp only; omega), add_assoc, add_comm i 1, ← add_assoc, digit_add, digit_add]
    congr 1
    rw [Nat.mul_succ, pow_add, ← Nat.div_div_eq_div_mul, ← Nat.div_div_eq_div_mul, Nat.mul_add_div (by positivity),
      Nat.div_eq_of_lt hlow, add_zero, Nat.mul_add_div (by positivity), Nat.div_eq_of_lt hx, add_zero]

theorem digit_foldl_patch_of_ne {w j : Nat} {es : List (Nat × Elt)} (h : ∀ p ∈ es, p.1 ≠ j) (v : Nat) :
    digit w j (es.foldl (patch w) v) = digit w j v := by
  induction es generalizing v with
  | nil => rfl
  | cons p es ih =>
    rw [List.foldl_cons, ih (fun q hq => h q (List.mem_cons_of_mem _ hq)), digit_patch, if_neg (h p List.mem_cons_self).symm]
theorem digit_foldl_patch_of_mem {w : Nat} {es : List (Nat × Elt)} (hne : es.Pairwise fun p q => q.1 ≠ p.1) {p : Nat × Elt}
    (hp : p ∈ es) (v : Nat) : digit w p.1 (es.foldl (patch w) v) = p.2.v % 2 ^ w := by
  induction es generalizing v with
  | nil => cases hp
  | cons q es ih =>
    obtain ⟨hq, hne⟩ := List.pairwise_cons.mp hne
    rw [List.foldl_cons]
    rcases List.mem_cons.mp hp with rfl | hp
    · rw [digit_foldl_patch_of_ne hq, digit_patch, if_pos rfl]
    · exact ih hne hp _

/-! ## The lanes of a unit (R163) -/

/-- The elements, of `k`, that land in lane `l` of a unit, the first at slot `c`. -/
def landing (w c k l : Nat) : List Nat := (List.range k).filter fun i => (c + i) * w / 32 = l

theorem mem_landing {w c k l i : Nat} : i ∈ landing w c k l ↔ i < k ∧ (c + i) * w / 32 = l := by
  rw [landing, List.mem_filter, List.mem_range, decide_eq_true_eq]

/-- What `k` elements, written from slot `c` of a unit on, do to lane `l` of it, which held `x`. -/
def unitLane (w c k : Nat) (el : Nat → Elt) (x : Val 32) (l : Nat) : Option Elt :=
  if w = 64 then ((List.range k).flatMap fun i => (splitLanes (el i)).map some).getD l none
  else if landing w c k l = [] then none
  else some (patchLane w x ((landing w c k l).map fun i => (c + i - l * 32 / w, el i)))

section
variable {w : Nat} (hw : IsWidth w) (h64 : w ≠ 64) {c k l : Nat} (el : Nat → Elt) (x : Val 32)
include hw h64

omit hw in
theorem unitLane_none (h : landing w c k l = []) : unitLane w c k el x l = none := by rw [unitLane, if_neg h64, if_pos h]

/-- The first slot of lane `l`. -/
theorem lane_base (l : Nat) : l * 32 / w = l * (32 / w) := by
  rcases hw with rfl | rfl | rfl | rfl | rfl
  case inr.inr.inr.inr => exact absurd rfl h64
  all_goals omega

theorem slot_of_mem_landing {i : Nat} (h : i ∈ landing w c k l) : i < k ∧ ∃ j, j < 32 / w ∧ c + i = l * (32 / w) + j := by
  obtain ⟨hi, hl⟩ := mem_landing.mp h
  obtain ⟨m, j, hj, he⟩ := exists_slot hw h64 (c + i)
  rw [he, (slot_arith hw h64 hj m).1] at hl
  exact ⟨hi, j, hj, by rw [he, hl]⟩

/-- The patches of a lane, by slots of the lane: no two at one slot. -/
theorem patches_pairwise (l : Nat) :
    ((landing w c k l).map fun i => (c + i - l * 32 / w, el i)).Pairwise fun p q => q.1 ≠ p.1 := by
  rw [List.pairwise_map]
  have hlt : (landing w c k l).Pairwise (· < ·) := List.pairwise_lt_range.filter _
  refine hlt.imp_of_mem fun {i j} hi hj hij => ?_
  obtain ⟨-, t, -, ht⟩ := slot_of_mem_landing hw h64 hi
  rw [lane_base hw h64]
  dsimp only
  omega

theorem landing_slot {i j : Nat} (hi : i < k) (hj : j < 32 / w) (he : c + i = l * (32 / w) + j) : i ∈ landing w c k l :=
  mem_landing.mpr ⟨hi, by rw [he, (slot_arith hw h64 hj l).1]⟩

/-- An element lands in its slot. -/
theorem unitLane_value {i j : Nat} (hi : i < k) (hj : j < 32 / w) (he : c + i = l * (32 / w) + j) :
    ∃ e, unitLane w c k el x l = some e ∧ digit w j e.v = (el i).v % 2 ^ w := by
  have hmem := landing_slot hw h64 hi hj he
  refine ⟨_, by rw [unitLane, if_neg h64, if_neg (List.ne_nil_of_mem hmem)], ?_⟩
  have := digit_foldl_patch_of_mem (w := w) (patches_pairwise hw h64 el l) (List.mem_map_of_mem hmem) x.v.toNat
  rw [lane_base hw h64] at this ⊢
  rwa [he, Nat.add_sub_cancel_left] at this

/-- A slot of a lane written in part, where no element lands, keeps its bits. -/
theorem unitLane_frame {j : Nat} (hne : ∀ i, i < k → l * (32 / w) + j ≠ c + i) (h : landing w c k l ≠ []) :
    ∃ e, unitLane w c k el x l = some e ∧ digit w j e.v = digit w j x.v.toNat := by
  refine ⟨_, by rw [unitLane, if_neg h64, if_neg h], digit_foldl_patch_of_ne (fun p hp => ?_) _⟩
  obtain ⟨i, hi, rfl⟩ := List.mem_map.mp hp
  obtain ⟨hik, t, -, ht⟩ := slot_of_mem_landing hw h64 hi
  have := hne i hik
  rw [lane_base hw h64]
  dsimp only
  omega

omit hw in
/-- The poison of a lane: that of the elements that land in it, and its own where they leave a part of it. -/
theorem unitLane_psn (h : landing w c k l ≠ []) : ∃ e, unitLane w c k el x l = some e ∧
    e.psn = (((landing w c k l).any fun i => (el i).psn) || (decide ((landing w c k l).length * w < 32) && x.psn)) := by
  refine ⟨_, by rw [unitLane, if_neg h64, if_neg h], ?_⟩
  simp [patchLane, List.any_map, Function.comp_def]

omit hw in
theorem unitLane_fl (b : Nat) :
    ((unitLane w c k el x l).getD {}).fl.getLsbD b = (landing w c k l).any fun i => (el i).fl.getLsbD b := by
  rw [unitLane, if_neg h64]
  split
  · case isTrue h => simp [h]
  · exact (getLsbD_foldl_or (fun p : Nat × Elt => p.2.fl) _ b).trans List.any_map

end

/-! ## Units (R163) -/

/-- The bits of a unit, and the elements that it converts. -/
def unitBits (ws wd : Nat) : Nat := (cvtUnit ws wd).1
def unitCount (ws wd : Nat) : Nat := (cvtUnit ws wd).2
/-- The first slot of a unit that PART `p` names. -/
def firstSlot (ws wd p : Nat) : Nat := if wd < ws then p * unitCount ws wd else 0

section
variable {ws wd : Nat} (hs : IsWidth ws) (hd : IsWidth wd)
include hs hd

theorem unitBits_eq : unitBits ws wd = if ws = 64 ∨ wd = 64 then 64 else 32 := by
  rcases hs with rfl | rfl | rfl | rfl | rfl <;> rcases hd with rfl | rfl | rfl | rfl | rfl <;> rfl
/-- A unit of 64-bit results holds one element. -/
theorem unitCount_wide (h : wd = 64) : unitCount ws wd = 1 := by
  subst h
  rcases hs with rfl | rfl | rfl | rfl | rfl <;> rfl
/-- The slots that PART names stand in the unit. -/
theorem firstSlot_fits {p : Nat} (hp : p < vcvtParts ws wd) : firstSlot ws wd p + unitCount ws wd ≤ unitBits ws wd / wd := by
  have h : unitCount ws wd * (if wd < ws then vcvtParts ws wd else 1) = unitBits ws wd / wd := by
    rcases hs with rfl | rfl | rfl | rfl | rfl <;> rcases hd with rfl | rfl | rfl | rfl | rfl <;> rfl
  rw [firstSlot, ← h]
  split
  · calc p * unitCount ws wd + unitCount ws wd = unitCount ws wd * (p + 1) := by ring
      _ ≤ unitCount ws wd * vcvtParts ws wd := Nat.mul_le_mul_left _ hp
  · omega
/-- The lanes of a unit. -/
theorem lane_of_unit (u : Nat) : u * unitBits ws wd / 32 = u * (unitBits ws wd / 32) := by
  rw [unitBits_eq hs hd]
  split <;> omega
theorem lanes_of_units {u l : Nat} (hu : u < 2048 / unitBits ws wd) (hl : l < unitBits ws wd / 32) :
    u * (unitBits ws wd / 32) + l < 64 := by
  rw [unitBits_eq hs hd] at hu hl ⊢
  by_cases h : ws = 64 ∨ wd = 64
  · simp only [if_pos h] at hu hl ⊢
    omega
  · simp only [if_neg h] at hu hl ⊢
    omega
/-- The slots of a unit, lane by lane. -/
theorem slots_of_unit (h64 : wd ≠ 64) : unitBits ws wd / wd = unitBits ws wd / 32 * (32 / wd) := by
  rw [unitBits_eq hs hd]
  rcases hd with rfl | rfl | rfl | rfl | rfl
  case inr.inr.inr.inr => exact absurd rfl h64
  all_goals split <;> rfl

end

/-! ## The conversion (R162 to R164) -/

section
variable (old : Regs) (d a : Nat) (src dst : NumType) (sat sr : Bool) (p : Nat)

/-- The elements that unit `u` converts. -/
def cvtEl (u i : Nat) : Elt :=
  cvtElt src dst old.rm sat
    (if sr then some (seedAfter (old.seed.getD (u * unitBits src.width dst.width / 32) 0) (i + 1)) else none)
    (old.elt a src.width (u * (unitBits src.width dst.width / src.width) +
      if src.width < dst.width then p * unitCount src.width dst.width + i else i))

theorem cvtEl_zero (u i : Nat) (h : (cvtEl old a src dst sat sr p u i).psn = true) : (cvtEl old a src dst sat sr p u i).v = 0 :=
  lift1_zero h

theorem cvtSlots_eq (u : Nat) : old.cvtSlots a src dst sat sr p u =
    (List.range (unitCount src.width dst.width)).map fun i =>
      (firstSlot src.width dst.width p + i, cvtEl old a src dst sat sr p u i) := by
  refine List.map_congr_left fun i _ => Prod.ext ?_ rfl
  show (if _ then _ else _) = firstSlot _ _ _ + i
  rw [firstSlot]
  split <;> simp [unitCount, cvtUnit]

/-- The lanes of unit `u`. -/
def unitLanes (u : Nat) : List (Option Elt) :=
  if old.active (u * unitBits src.width dst.width / 32) then
    if dst.width = 64 then (old.cvtSlots a src dst sat sr p u).flatMap fun e => (splitLanes e.2).map some
    else (List.range (unitBits src.width dst.width / 32)).map fun l =>
      let mine := (old.cvtSlots a src dst sat sr p u).filter fun e => e.1 * dst.width / 32 = l
      if mine.isEmpty then none
      else some (patchLane dst.width (old.rv d (u * unitBits src.width dst.width / 32 + l))
        (mine.map fun e => (e.1 - l * 32 / dst.width, e.2)))
  else List.replicate (unitBits src.width dst.width / 32) none

theorem cvtLanes_eq : old.cvtLanes d a src dst sat sr p =
    (List.range (2048 / unitBits src.width dst.width)).flatMap (unitLanes old d a src dst sat sr p) := rfl

variable {src dst} (hs : IsWidth src.width) (hd : IsWidth dst.width)
include hs hd

theorem length_unitLanes (u : Nat) : (unitLanes old d a src dst sat sr p u).length = unitBits src.width dst.width / 32 := by
  rw [unitLanes]
  split
  · split
    · case isTrue h =>
      rw [cvtSlots_eq, unitCount_wide hs hd h, unitBits_eq hs hd, if_pos (.inr h)]
      rfl
    · simp
  · simp

omit hs hd in
theorem getD_unitLanes (u : Nat) {l : Nat} (hl : l < unitBits src.width dst.width / 32) :
    (unitLanes old d a src dst sat sr p u).getD l none =
      if old.active (u * unitBits src.width dst.width / 32) then
        unitLane dst.width (firstSlot src.width dst.width p) (unitCount src.width dst.width) (cvtEl old a src dst sat sr p u)
          (old.rv d (u * unitBits src.width dst.width / 32 + l)) l
      else none := by
  rw [unitLanes, unitLane, cvtSlots_eq]
  split
  · split
    · rw [List.flatMap_map]
    · rw [List.getD_eq_getElem?_getD, List.getElem?_map, List.getElem?_range hl]
      simp only [List.filter_map, List.map_map, Option.map_some, Option.getD_some, List.isEmpty_map, List.isEmpty_iff]
      rfl
  · rw [List.getD_eq_getElem?_getD, List.getElem?_replicate, if_pos hl]
    rfl

theorem length_cvtLanes : (old.cvtLanes d a src dst sat sr p).length = 64 := by
  rw [cvtLanes_eq, length_flatMap_range (length_unitLanes old d a sat sr p hs hd), unitBits_eq hs hd]
  split <;> rfl

theorem getD_cvtLanes {u l : Nat} (hu : u < 2048 / unitBits src.width dst.width) (hl : l < unitBits src.width dst.width / 32) :
    (old.cvtLanes d a src dst sat sr p).getD (u * (unitBits src.width dst.width / 32) + l) none =
      if old.active (u * unitBits src.width dst.width / 32) then
        unitLane dst.width (firstSlot src.width dst.width p) (unitCount src.width dst.width) (cvtEl old a src dst sat sr p u)
          (old.rv d (u * unitBits src.width dst.width / 32 + l)) l
      else none := by
  rw [cvtLanes_eq, getD_flatMap_range (length_unitLanes old d a sat sr p hs hd) hu hl, getD_unitLanes old d a sat sr p u hl]

end

/-! ## A unit after the conversion -/

/-- The `n` lanes of unit `u` of vD have been written with `k` elements from slot `c` on. -/
structure UnitWritten (w c k n u d : Nat) (el : Nat → Elt) (old r r' : Regs) : Prop where
  lane : ∀ l, l < n → r'.rv d (u * n + l) = laneAfter (r.rv d (u * n + l)) (unitLane w c k el (old.rv d (u * n + l)) l)
  zero : ∀ i, (el i).psn = true → (el i).v = 0

section
variable {w c k n u d : Nat} {el : Nat → Elt} {old r r' : Regs} (hw : IsWidth w) (h : UnitWritten w c k n u d el old r r')
include hw h

omit hw in
theorem UnitWritten.zeroed (i : Nat) : (el i).v % 2 ^ w = if (el i).psn then 0 else (el i).v % 2 ^ w := by
  split
  · case isTrue hp => rw [h.zero i hp, Nat.zero_mod]
  · rfl

/-- The elements converted, at their slots. -/
theorem UnitWritten.value (h64 : w ≠ 64) (hfit : c + k ≤ n * (32 / w)) {i : Nat} (hi : i < k) :
    (r'.elt d w (u * (n * (32 / w)) + (c + i))).v = if (el i).psn then 0 else (el i).v % 2 ^ w := by
  obtain ⟨l, j, hj, he⟩ := exists_slot hw h64 (c + i)
  have hl : l < n := Nat.lt_of_mul_lt_mul_right (a := 32 / w) (by omega)
  obtain ⟨E, hE, hv⟩ := unitLane_value hw h64 el (old.rv d (u * n + l)) hi hj he
  obtain ⟨-, -, hbit, -⟩ := slot_arith hw h64 hj l
  rw [he, show u * (n * (32 / w)) + (l * (32 / w) + j) = (u * n + l) * (32 / w) + j by ring, elt_slot hw h64 hj, h.lane l hl, hE,
    laneAfter_some, BitVec.toNat_ofNat, digit_mod hbit, hv]
  exact h.zeroed i

/-- The other slots: those of a lane written in part as they were read, those of other lanes as they stand. -/
theorem UnitWritten.frame (h64 : w ≠ 64) {j : Nat} (hj : j < n * (32 / w)) (hne : ∀ i, i < k → j ≠ c + i) :
    (r'.elt d w (u * (n * (32 / w)) + j)).v =
      ((if (List.range k).any fun i => (c + i) * w / 32 == j * w / 32 then old else r).elt d w (u * (n * (32 / w)) + j)).v := by
  obtain ⟨l, t, ht, rfl⟩ := exists_slot hw h64 j
  obtain ⟨hlane, -, hbit, -⟩ := slot_arith hw h64 ht l
  have hl : l < n := Nat.lt_of_mul_lt_mul_right (a := 32 / w) (by omega)
  have hany : ((List.range k).any fun i => (c + i) * w / 32 == l) = true ↔ landing w c k l ≠ [] := by
    rw [List.any_eq_true, Ne, List.eq_nil_iff_forall_not_mem]
    push Not
    simp [mem_landing]
  rw [show u * (n * (32 / w)) + (l * (32 / w) + t) = (u * n + l) * (32 / w) + t by ring, elt_slot hw h64 ht, elt_slot hw h64 ht,
    h.lane l hl, hlane]
  dsimp only
  split
  · case isTrue hin =>
    obtain ⟨E, hE, hv⟩ := unitLane_frame hw h64 el (old.rv d (u * n + l)) hne (hany.mp hin)
    rw [hE, laneAfter_some, BitVec.toNat_ofNat, digit_mod hbit, hv]
  · case isFalse hout => rw [unitLane_none h64 el _ (not_ne_iff.mp (mt hany.mpr hout)), laneAfter_none]

end

/-- The flags of the lanes of a unit are those of its elements. -/
theorem exists_unitLane_fl_iff {w c k n : Nat} (hw : IsWidth w) (el : Nat → Elt) (x : Nat → Val 32) (b : Nat)
    (hwide : w = 64 → c = 0 ∧ k = 1 ∧ n = 2) (hfit : w ≠ 64 → c + k ≤ n * (32 / w)) :
    (∃ l, l < n ∧ ((unitLane w c k el (x l) l).getD {}).fl.getLsbD b = true) ↔ ∃ i, i < k ∧ (el i).fl.getLsbD b = true := by
  by_cases h64 : w = 64
  · subst h64
    obtain ⟨rfl, rfl, rfl⟩ := hwide rfl
    constructor
    · rintro ⟨l, hl, hb⟩
      interval_cases l
      · exact ⟨0, one_pos, hb⟩
      · simp [unitLane, splitLanes] at hb
    · rintro ⟨i, hi, hb⟩
      obtain rfl : i = 0 := Nat.lt_one_iff.mp hi
      exact ⟨0, two_pos, hb⟩
  · simp only [unitLane_fl h64, List.any_eq_true, mem_landing]
    constructor
    · rintro ⟨l, -, i, ⟨hi, -⟩, hb⟩
      exact ⟨i, hi, hb⟩
    · rintro ⟨i, hi, hb⟩
      obtain ⟨l, j, hj, he⟩ := exists_slot hw h64 (c + i)
      have hfit := hfit h64
      exact ⟨l, Nat.lt_of_mul_lt_mul_right (a := 32 / w) (by omega), i, ⟨hi, by rw [he, (slot_arith hw h64 hj l).1]⟩, hb⟩

/-- A 64-bit element converted. -/
theorem UnitWritten.value_wide {u d : Nat} {el : Nat → Elt} {old r r' : Regs} (h : UnitWritten 64 0 1 2 u d el old r r') (hu : u < 32) :
    (r'.elt d 64 u).v = if (el 0).psn then 0 else (el 0).v % 2 ^ 64 := by
  rw [← h.zeroed]
  refine elt_of_laneOf (by simp [IsWidth]) (by simpa [elements] using hu) (fun _ => el 0) fun l _ hl => ?_
  have hl : l = u * 2 + l % 2 := by
    simp only [ruling, maskLane, if_true] at hl
    omega
  have := h.lane (l % 2) (Nat.mod_lt _ two_pos)
  rw [← hl] at this
  rw [this]
  rcases Nat.mod_two_eq_zero_or_one l with hb | hb <;> simp [unitLane, laneOf, hb, splitLanes]

/-- The poison of the lanes of a unit (R152). -/
theorem UnitWritten.psn {w c k n u d : Nat} {el : Nat → Elt} {old r r' : Regs} (h : UnitWritten w c k n u d el old r r')
    (hwide : w = 64 → c = 0 ∧ k = 1 ∧ n = 2) {l : Nat} (hl : l < n) :
    let mine := (List.range k).filter fun i => w == 64 || (c + i) * w / 32 == l
    (r'.rv d (u * n + l)).psn = if mine = [] then (r.rv d (u * n + l)).psn
      else (mine.any fun i => (el i).psn) || (decide (mine.length * w < 32) && (old.rv d (u * n + l)).psn) := by
  intro mine
  rw [h.lane l hl]
  by_cases h64 : w = 64
  · subst h64
    obtain ⟨rfl, rfl, rfl⟩ := hwide rfl
    have hmine : mine = [0] := rfl
    rw [hmine]
    interval_cases l <;> simp [unitLane, splitLanes]
  · have hmine : mine = landing w c k l := by
      refine List.filter_congr fun i _ => ?_
      rw [beq_false_of_ne h64, Bool.false_or, beq_eq_decide]
    rw [hmine]
    split
    · case isTrue hnil => rw [unitLane_none h64 el _ hnil, laneAfter_none]
    · case isFalse hne =>
      obtain ⟨E, hE, hpsn⟩ := unitLane_psn h64 el (old.rv d (u * n + l)) hne
      rw [hE, laneAfter_some]
      exact hpsn

/-! ## The registers after the conversion -/

/-- What VCVT does to the registers, flags apart. -/
def cvtRegs (old : Regs) (d a : Nat) (src dst : NumType) (sat sr : Bool) (p : Nat) (r : Regs) : Regs :=
  if sr then Regs.cvtSeeds old (r.wLanes d (old.cvtLanes d a src dst sat sr p)) src.width dst.width
  else r.wLanes d (old.cvtLanes d a src dst sat sr p)

theorem execVcvt_eq (d a : BitVec 6) (e g : BitVec 4) (sr : Bool) (p : BitVec 3) (s : State) :
    execVcvt d a e g sr p s =
      .next ((s.modRegs (cvtRegs s.old d.toNat a.toNat (eltType g) (cvtDst e) (e = 15) sr p.toNat)).setFlags
        (flagsOf (s.old.cvtLanes d.toNat a.toNat (eltType g) (cvtDst e) (e = 15) sr p.toNat))).retire := by
  unfold execVcvt cvtRegs
  cases sr with
  | false => rfl
  | true =>
    simp only [if_true, modRegs_modRegs]
    rfl

section
variable {src dst : NumType} (hs : IsWidth src.width) (hd : IsWidth dst.width) (old : Regs) (d a : Nat) (sat sr : Bool) (p : Nat) (r : Regs)

theorem cvtRegs_only : cvtRegs old d a src dst sat sr p r =
    { r with v := (cvtRegs old d a src dst sat sr p r).v, seed := (cvtRegs old d a src dst sat sr p r).seed } := by
  cases sr <;> rfl

theorem rv_cvtRegs (m l : Nat) :
    (cvtRegs old d a src dst sat sr p r).rv m l = (r.wLanes d (old.cvtLanes d a src dst sat sr p)).rv m l := by
  cases sr <;> rfl

/-- The Seeds of a unit (R36). -/
theorem seed_cvtRegs {u l : Nat} (hl : l < unitBits src.width dst.width / 32)
    (hlen : u * (unitBits src.width dst.width / 32) + l < r.seed.length) :
    (cvtRegs old d a src dst sat sr p r).seed.getD (u * (unitBits src.width dst.width / 32) + l) 0 =
      if sr = true ∧ l = 0 ∧ old.active (u * (unitBits src.width dst.width / 32)) = true then
        seedAfter (r.seed.getD (u * (unitBits src.width dst.width / 32)) 0) (unitCount src.width dst.width)
      else r.seed.getD (u * (unitBits src.width dst.width / 32) + l) 0 := by
  cases sr with
  | false => rfl
  | true =>
    have hmod : (u * (unitBits src.width dst.width / 32) + l) % (unitBits src.width dst.width / 32) = l := by
      rw [mul_comm, Nat.mul_add_mod, Nat.mod_eq_of_lt hl]
    have hseed : (cvtRegs old d a src dst sat true p r).seed = r.seed.mapIdx fun m x =>
        if m % (unitBits src.width dst.width / 32) = 0 ∧ old.active m then seedAfter x (unitCount src.width dst.width) else x := rfl
    rw [hseed, List.getD_eq_getElem _ _ (by simpa using hlen), List.getElem_mapIdx, hmod, List.getD_eq_getElem _ _ hlen]
    by_cases h0 : l = 0
    · subst h0
      rw [Nat.add_zero] at hlen
      simp [List.getElem?_eq_getElem hlen]
    · simp [h0]

include hs hd

/-- How the elements lie in the lanes of a unit. -/
theorem unit_layout : dst.width = 64 → firstSlot src.width dst.width p = 0 ∧ unitCount src.width dst.width = 1 ∧
    unitBits src.width dst.width / 32 = 2 := by
  intro h
  refine ⟨?_, unitCount_wide hs hd h, by rw [unitBits_eq hs hd, if_pos (.inr h)]⟩
  rw [firstSlot, h, if_neg]
  rcases hs with hs | hs | hs | hs | hs <;> omega

/-- The flags of the elements of the active units (R39). -/
theorem getLsbD_flagsOf_cvtLanes (hp : p < vcvtParts src.width dst.width) (b : Nat) :
    (flagsOf (old.cvtLanes d a src dst sat sr p)).getLsbD b =
      (List.range (2048 / unitBits src.width dst.width)).any fun u => old.active (u * unitBits src.width dst.width / 32) &&
        (List.range (unitCount src.width dst.width)).any fun i => (cvtEl old a src dst sat sr p u i).fl.getLsbD b := by
  have hfit : dst.width ≠ 64 → _ := fun h64 => (firstSlot_fits hs hd hp).trans_eq (slots_of_unit hs hd h64)
  have hunit : ∀ u, _ := fun u => exists_unitLane_fl_iff hd (cvtEl old a src dst sat sr p u)
    (fun l => old.rv d (u * unitBits src.width dst.width / 32 + l)) b (unit_layout hs hd p) hfit
  have hpos : 0 < unitBits src.width dst.width / 32 := by rw [unitBits_eq hs hd]; split <;> decide
  have hcount : 2048 / unitBits src.width dst.width * (unitBits src.width dst.width / 32) = 64 := by
    rw [unitBits_eq hs hd]
    split <;> rfl
  have hlane := fun u l => getD_cvtLanes old d a sat sr p hs hd (u := u) (l := l)
  rw [getLsbD_flagsOf, Bool.eq_iff_iff, any_eq_true_iff_getD (length_cvtLanes old d a sat sr p hs hd)]
  simp only [List.any_eq_true, List.mem_range, Bool.and_eq_true, ← hunit]
  constructor
  · rintro ⟨m, hm, hb⟩
    have hu : m / (unitBits src.width dst.width / 32) < 2048 / unitBits src.width dst.width := by
      rw [Nat.div_lt_iff_lt_mul hpos, hcount]
      exact hm
    have hl := Nat.mod_lt m hpos
    rw [← Nat.div_add_mod' m (unitBits src.width dst.width / 32), hlane _ _ hu hl] at hb
    split at hb
    · case isTrue hon => exact ⟨_, hu, hon, _, hl, hb⟩
    · simp at hb
  · rintro ⟨u, hu, hon, l, hl, hb⟩
    exact ⟨_, lanes_of_units hs hd hu hl, by rwa [hlane u l hu hl, if_pos hon]⟩

theorem unitWritten_cvtRegs {u : Nat} (hu : u < 2048 / unitBits src.width dst.width)
    (hon : old.active (u * unitBits src.width dst.width / 32) = true) :
    UnitWritten dst.width (firstSlot src.width dst.width p) (unitCount src.width dst.width) (unitBits src.width dst.width / 32) u d
      (cvtEl old a src dst sat sr p u) old r (cvtRegs old d a src dst sat sr p r) := by
  refine ⟨fun l hl => ?_, cvtEl_zero old a src dst sat sr p u⟩
  rw [rv_cvtRegs, rv_wLanes r d d _ (length_cvtLanes old d a sat sr p hs hd) (lanes_of_units hs hd hu hl), if_pos rfl,
    getD_cvtLanes old d a sat sr p hs hd hu hl, if_pos hon, lane_of_unit hs hd]

/-- An inactive unit keeps its lanes. -/
theorem rv_cvtRegs_inactive {u l : Nat} (hu : u < 2048 / unitBits src.width dst.width)
    (hoff : old.active (u * unitBits src.width dst.width / 32) = false) (hl : l < unitBits src.width dst.width / 32) :
    (cvtRegs old d a src dst sat sr p r).rv d (u * (unitBits src.width dst.width / 32) + l) =
      r.rv d (u * (unitBits src.width dst.width / 32) + l) := by
  rw [rv_cvtRegs, rv_wLanes r d d _ (length_cvtLanes old d a sat sr p hs hd) (lanes_of_units hs hd hu hl), if_pos rfl,
    getD_cvtLanes old d a sat sr p hs hd hu hl, if_neg (Bool.eq_false_iff.mp hoff), laneAfter_none]

variable (hp : p < vcvtParts src.width dst.width) {u : Nat} (hu : u < 2048 / unitBits src.width dst.width)
  (hon : old.active (u * unitBits src.width dst.width / 32) = true)
include hp hu hon

/-- The slots of an active unit that PART names. -/
theorem elt_cvtRegs_converted {i : Nat} (hi : i < unitCount src.width dst.width) :
    ((cvtRegs old d a src dst sat sr p r).elt d dst.width
      (u * (unitBits src.width dst.width / dst.width) + (firstSlot src.width dst.width p + i))).v =
      if (cvtEl old a src dst sat sr p u i).psn then 0 else (cvtEl old a src dst sat sr p u i).v % 2 ^ dst.width := by
  have hunit := unitWritten_cvtRegs hs hd old d a sat sr p r hu hon
  by_cases h64 : dst.width = 64
  · obtain ⟨hfirst, hcount, hlanes⟩ := unit_layout hs hd p h64
    have hbits : unitBits src.width dst.width = 64 := by rw [unitBits_eq hs hd, if_pos (.inr h64)]
    rw [hfirst, hcount, hlanes, h64] at hunit
    obtain rfl : i = 0 := by omega
    rw [hfirst, hbits, h64, Nat.div_self (by decide), mul_one]
    exact hunit.value_wide (by rwa [hbits] at hu)
  · have hslots := slots_of_unit hs hd h64
    rw [hslots]
    exact hunit.value hd h64 ((firstSlot_fits hs hd hp).trans_eq hslots) hi

omit hp in
/-- The other slots of an active unit. -/
theorem elt_cvtRegs_other {j : Nat} (hj : j < unitBits src.width dst.width / dst.width)
    (hne : ∀ i, i < unitCount src.width dst.width → j ≠ firstSlot src.width dst.width p + i) :
    ((cvtRegs old d a src dst sat sr p r).elt d dst.width (u * (unitBits src.width dst.width / dst.width) + j)).v =
      ((if (List.range (unitCount src.width dst.width)).any fun i =>
          (firstSlot src.width dst.width p + i) * dst.width / 32 == j * dst.width / 32 then old else r).elt d dst.width
        (u * (unitBits src.width dst.width / dst.width) + j)).v := by
  have hunit := unitWritten_cvtRegs hs hd old d a sat sr p r hu hon
  by_cases h64 : dst.width = 64
  · -- the one slot of such a unit takes its element
    obtain ⟨hfirst, hcount, -⟩ := unit_layout hs hd p h64
    have hbits : unitBits src.width dst.width = 64 := by rw [unitBits_eq hs hd, if_pos (.inr h64)]
    rw [hbits, h64, Nat.div_self (by decide)] at hj
    exact absurd (by omega) (hne 0 (by omega))
  · have hslots := slots_of_unit hs hd h64
    rw [hslots] at hj ⊢
    exact hunit.frame hd h64 hj hne

end

/-! ## The statement -/

theorem vcvtWidth_source (g : BitVec 4) : vcvtWidth g false = (eltType g).width := by revert g; decide
theorem vcvtWidth_target (e : BitVec 4) : vcvtWidth e true = (cvtDst e).width := by revert e; decide
theorem isWidth_cvtDst (e : BitVec 4) : IsWidth (cvtDst e).width := by
  rw [cvtDst]
  split
  · simp [IsWidth, NumType.width, Fmt.width, Fmt.e4m3]
  · exact isWidth_eltType e

/-- R162 to R164: each unit by what its lanes hold after the write. -/
theorem vectorConvert : Sys2Proof.Parts.VectorConvert := by
  unfold Sys2Proof.Parts.VectorConvert
  intro s st sr d a e g p run hwf src dst ws wd unit k first seeds from_ to_ el
  have hs : IsWidth ws := isWidth_eltType g
  have hd : IsWidth wd := isWidth_cvtDst e
  have hp : p.toNat < vcvtParts ws wd := by
    have hok : vcvtOk e g sr p = true := hwf
    simp only [vcvtOk, vcvtWidth_source, vcvtWidth_target, Bool.and_eq_true, decide_eq_true_eq] at hok
    exact hok.2
  have hto : ∀ i, to_ i = firstSlot ws wd p.toNat + i := fun i => by
    show (if _ then _ else _) = _
    rw [firstSlot]
    split
    · rfl
    · rw [Nat.zero_add]
  have hfirst : ∀ u, first u = u * (unit / 32) := lane_of_unit hs hd
  refine gives_flagged _ _ run (execVcvt_eq d a e g sr p s)
    ⟨?_, fun n l hn hl => ?_, fun u hu => ⟨fun hoff l hl => ?_,
      fun hon => ⟨fun i hi => ?_, fun j hj hne => ?_, fun l hl => ?_⟩, ?_, fun b => ?_⟩⟩
  · rw [cvtRegs_only]
    rfl
  · exact (rv_cvtRegs ..).trans ((rv_wLanes s.regs d.toNat n l (length_cvtLanes _ _ _ _ _ _ hs hd) hl).trans (if_neg hn))
  · rw [hfirst]
    exact rv_cvtRegs_inactive hs hd _ _ _ _ _ _ _ hu hoff hl
  · rw [hto]
    exact elt_cvtRegs_converted hs hd _ _ _ _ _ _ _ hp hu hon hi
  · simp only [hto] at hne ⊢
    exact elt_cvtRegs_other hs hd _ _ _ _ _ _ _ hu hon hj hne
  · rw [hfirst]
    simp only [hto]
    exact (unitWritten_cvtRegs hs hd _ _ _ _ _ _ _ hu hon).psn (unit_layout hs hd _) hl
  · rw [hfirst]
    exact fun l hl hlen => seed_cvtRegs _ _ _ _ _ _ _ hl hlen
  · rw [cvtRegs_only]
    exact (getLsbD_flag _ _ b).trans (congrArg _ (getLsbD_flagsOf_cvtLanes hs hd _ _ _ _ _ _ hp b))

/-- Settles O13: the approximations lane by lane, the conversions unit by unit. -/
theorem vectorFunctions : Obligations.VectorFunctions := by
  unfold Obligations.VectorFunctions
  exact ⟨vectorApproximations, vectorConvert⟩

end Sys2Proof.VectorFunctions
end

section
/-! SUPPORT. Reductions and dot products of vectors (R43, R170, R171). -/
namespace Sys2Proof.VectorReduce
open Sys2Proof Sys2Proof.Machine Sys2Proof.Lanes

/-! ## The lanes of a reduction (R170) -/

/-- The lanes written: the result in the first one or two. -/
def resultLanes (wide : Bool) (r : Elt) : List (Option Elt) :=
  ((if wide then splitLanes r else [r]).map some) ++ List.replicate (if wide then 62 else 63) none

theorem length_resultLanes (wide : Bool) (r : Elt) : (resultLanes wide r).length = 64 := by cases wide <;> rfl
theorem getD_resultLanes_rest (wide : Bool) (r : Elt) {l : Nat} (h : (if wide then 2 else 1) ≤ l) :
    (resultLanes wide r).getD l none = none := by
  rw [resultLanes, List.getD_append_right _ _ _ _ (by cases wide <;> simpa [splitLanes] using h), List.getD_eq_getElem?_getD,
    List.getElem?_replicate]
  split_ifs <;> rfl
theorem flagsOf_resultLanes (wide : Bool) (r : Elt) : flagsOf (resultLanes wide r) = r.fl := by
  refine BitVec.eq_of_getLsbD_eq fun b _ => ?_
  rw [getLsbD_flagsOf]
  cases wide <;> simp [resultLanes, splitLanes]

/-- What a reduction with the result `e` leaves in the registers. -/
structure Reduced (wide : Bool) (d : Nat) (e : Elt) (r r' : Regs) : Prop where
  only : OnlyV d r r'
  rest : ∀ l, (if wide then 2 else 1) ≤ l → l < 64 → r'.rv d l = r.rv d l
  lane : ∀ l, l < (if wide then 2 else 1) → r'.rv d l = ⟨BitVec.ofNat 32 (e.v / 2 ^ (32 * l)), e.psn⟩
  flags : r'.fcsr = r.fcsr ||| e.fl.setWidth 32

theorem reduced_wLanes (wide : Bool) (d : Nat) (e : Elt) (r : Regs) :
    Reduced wide d e r ((r.wLanes d (resultLanes wide e)).flag (flagsOf (resultLanes wide e))) := by
  have hlen := length_resultLanes wide e
  have hrv : ∀ l, l < 64 → ((r.wLanes d (resultLanes wide e)).flag (flagsOf (resultLanes wide e))).rv d l =
      laneAfter (r.rv d l) ((resultLanes wide e).getD l none) := fun l hl => (rv_wLanes r d d l hlen hl).trans (if_pos rfl)
  refine ⟨onlyV_wLanes r d _ hlen, fun l hl h64 => ?_, fun l hl => ?_, by rw [flagsOf_resultLanes]; rfl⟩
  · rw [hrv l h64, getD_resultLanes_rest wide e hl, laneAfter_none]
  · rw [hrv l (hl.trans (by split <;> decide))]
    cases wide with
    | false =>
      obtain rfl : l = 0 := Nat.lt_one_iff.mp hl
      simp [resultLanes]
    | true =>
      have hmod : ∀ x, BitVec.ofNat 32 (x % 4294967296) = BitVec.ofNat 32 x := fun x => BitVec.eq_of_toNat_eq (by simp)
      rw [if_pos rfl] at hl
      interval_cases l <;> simp [resultLanes, splitLanes, hmod]

theorem Reduced.value_wide {d : Nat} {e : Elt} {r r' : Regs} (h : Reduced true d e r r') : (r'.elt d 64 0).v = e.v % 2 ^ 64 := by
  have h0 := h.lane 0 (by decide)
  have h1 := h.lane 1 (by decide)
  simp only [Regs.elt, if_true, mul_zero, zero_add, h0, h1, BitVec.toNat_ofNat]
  omega
theorem Reduced.value_narrow {d : Nat} {e : Elt} {r r' : Regs} (h : Reduced false d e r r') : (r'.rv d 0).v.toNat = e.v % 2 ^ 32 := by
  simp [h.lane 0 (by decide)]

/-! ## The result of a reduction -/

/-- Whether the result has 64 bits. -/
def isWide (ty : NumType) : Bool := match ty with | .fl t => decide (t.width = 64) | _ => true
/-- Whether an active element of vA is poisoned. -/
def anyPoisoned (old : Regs) (a w : Nat) : Bool := (elements w).any fun e => old.active (maskLane w e) && (old.elt a w e).psn
/-- The elements of vA, `x` in the place of an inactive one. -/
def orIdentity {α : Type} (old : Regs) (a w : Nat) (f : Nat → α) (x : α) : List α :=
  (elements w).map fun e => if old.active (maskLane w e) then f (old.elt a w e).v else x
/-- The result of a reduction. -/
def redElt (old : Regs) (a : Nat) (ty : NumType) (fl : Fmt → BitVec 2 → Nat → Nat → Nat × BitVec 5) (idf : Fmt → Nat)
    (int : Int → Int → Int) (idi : Nat → Bool → Int) : Elt :=
  if anyPoisoned old a ty.width then .bad
  else match ty with
    | .fl t =>
      let x := tree (fl t old.rm) (Nat.log2 (2048 / ty.width)) (orIdentity old a ty.width id (idf t))
      { v := x.1, fl := x.2 }
    | _ =>
      let (m, g) := ty.asInt
      { v := bitsOf 64 ((orIdentity old a ty.width (intOf m g) (idi m g)).foldl int (idi m g)) }

theorem maskLane_eq (w e : Nat) : maskLane w e = e * w / 32 := by
  rw [maskLane]
  split
  · case isTrue h => subst h; omega
  · rfl

theorem reduce_eq (d a : BitVec 6) (v : BitVec 4) (fl : Fmt → BitVec 2 → Nat → Nat → Nat × BitVec 5) (idf : Fmt → Nat)
    (int : Int → Int → Int) (idi : Nat → Bool → Int) (s : State) :
    reduce d a v fl idf int idi s =
      vecSlot d (fun old => resultLanes (isWide (eltType v)) (redElt old a.toNat (eltType v) fl idf int idi)) s := by
  unfold reduce redElt anyPoisoned orIdentity
  simp only [maskLane_eq]
  rfl

section
variable {old : Regs} {a : Nat} {ty : NumType} (fl : Fmt → BitVec 2 → Nat → Nat → Nat × BitVec 5) (idf : Fmt → Nat)
  (int : Int → Int → Int) (idi : Nat → Bool → Int)

theorem redElt_poisoned (h : anyPoisoned old a ty.width = true) : redElt old a ty fl idf int idi = .bad := if_pos h
theorem redElt_float {t : Fmt} (h : anyPoisoned old a ty.width = false) (ht : ty = .fl t) : redElt old a ty fl idf int idi =
    let x := tree (fl t old.rm) (Nat.log2 (2048 / ty.width)) (orIdentity old a ty.width id (idf t))
    { v := x.1, fl := x.2 } := by
  subst ht
  exact if_neg (Bool.eq_false_iff.mp h)
theorem redElt_int (h : anyPoisoned old a ty.width = false) (ht : ∀ t, ty = .fl t → False) : redElt old a ty fl idf int idi =
    { v := bitsOf 64 ((orIdentity old a ty.width (intOf ty.asInt.1 ty.asInt.2) (idi ty.asInt.1 ty.asInt.2)).foldl int
        (idi ty.asInt.1 ty.asInt.2)) } := by
  cases ty with
  | fl t => exact absurd rfl (ht t)
  | int n g => exact if_neg (Bool.eq_false_iff.mp h)
  | q32 => exact if_neg (Bool.eq_false_iff.mp h)
theorem redElt_psn (old : Regs) (a : Nat) (ty : NumType) : (redElt old a ty fl idf int idi).psn = anyPoisoned old a ty.width := by
  by_cases h : anyPoisoned old a ty.width = true
  · rw [redElt_poisoned fl idf int idi h, h]
    rfl
  · have h := Bool.eq_false_iff.mpr h
    by_cases ht : ∃ t, ty = .fl t
    · obtain ⟨t, ht⟩ := ht
      rw [redElt_float fl idf int idi h ht, h]
    · rw [redElt_int fl idf int idi h fun t he => ht ⟨t, he⟩, h]

end

/-- A slot of VRED, by what holds of the registers that it leaves. -/
theorem gives_reduce {s : State} {i : Instr} {d a : BitVec 6} {v : BitVec 4} {Q : Regs → Prop}
    {fl : Fmt → BitVec 2 → Nat → Nat → Nat × BitVec 5} {idf : Fmt → Nat} {int : Int → Int → Int} {idi : Nat → Bool → Int}
    (run : Running s) (he : exec i s = reduce d a v fl idf int idi s)
    (q : ∀ r, Reduced (isWide (eltType v)) d.toNat (redElt s.old a.toNat (eltType v) fl idf int idi) s.regs r → Q r) : Gives s i Q :=
  gives_vecSlot _ run (he.trans (reduce_eq ..)) (q _ (reduced_wLanes _ _ _ _))

/-! ## Integers (R157, R170) -/

theorem asInt_eltType {v : BitVec 4} (h : ∀ t, eltType v = .fl t → False) :
    (eltType v).asInt = ((eltType v).width, decide (v.toNat < 4 ∨ v = 15)) := by
  have key : ∀ v : BitVec 4, (∃ t ∈ [Fmt.f64, .f32, .f16, .bf16, .e5m2, .e4m3, .e2m1], eltType v = .fl t) ∨
      (eltType v).asInt = ((eltType v).width, decide (v.toNat < 4 ∨ v = 15)) := by decide
  exact (key v).resolve_left fun ⟨t, _, ht⟩ => h t ht

theorem bitsOf_eq (n : Nat) (z : Int) : bitsOf n z = (z % 2 ^ n).toNat := by
  rw [bitsOf, BitVec.toNat_ofInt]
  norm_cast
theorem cast_bitsOf (n : Nat) (z : Int) : (bitsOf n z : Int) = z % 2 ^ n := by
  rw [bitsOf_eq, Int.toNat_of_nonneg (Int.emod_nonneg _ (by positivity))]
theorem bitsOf_lt (n : Nat) (z : Int) : bitsOf n z < 2 ^ n := BitVec.isLt _

theorem foldl_add_eq_sum (xs : List Int) (x : Int) : xs.foldl (· + ·) x = x + xs.sum := by
  induction xs generalizing x with
  | nil => simp
  | cons y ys ih => rw [List.foldl_cons, ih, List.sum_cons, add_assoc]
theorem sum_orZero (es : List Nat) (on : Nat → Bool) (f : Nat → Int) :
    (es.map fun e => if on e then f e else 0).sum = ((es.filter on).map f).sum := by
  induction es with
  | nil => rfl
  | cons e es ih =>
    rw [List.map_cons, List.sum_cons, ih, List.filter_cons]
    split <;> simp

section
variable {op : Int → Int → Int} {R : Int → Int → Prop} (refl : ∀ x, R x x) (trans : ∀ x y z, R x y → R y z → R x z)
  (left : ∀ x y, R (op x y) x) (right : ∀ x y, R (op x y) y) (select : ∀ x y, op x y = x ∨ op x y = y)
include refl trans left right select

/-- An operation that selects the first of its operands in an order selects the first of a list. -/
theorem foldl_select (xs : List Int) (x : Int) :
    R (xs.foldl op x) x ∧ (∀ y ∈ xs, R (xs.foldl op x) y) ∧ (xs.foldl op x ∈ xs ∨ xs.foldl op x = x) := by
  induction xs generalizing x with
  | nil => exact ⟨refl x, by simp, .inr rfl⟩
  | cons y ys ih =>
    obtain ⟨hacc, hall, hsel⟩ := ih (op x y)
    rw [List.foldl_cons]
    refine ⟨trans _ _ _ hacc (left x y), fun z hz => ?_, ?_⟩
    · rcases List.mem_cons.mp hz with rfl | hz
      · exact trans _ _ _ hacc (right x z)
      · exact hall z hz
    · rcases hsel with hmem | heq
      · exact .inl (List.mem_cons_of_mem _ hmem)
      · rcases select x y with h | h
        · exact .inr (heq.trans h)
        · exact .inl (by rw [heq, h]; exact List.mem_cons_self)

/-- The minimum, or maximum, of the active elements and the identity. -/
theorem foldl_select_active (old : Regs) (a w : Nat) (f : Nat → Int) (x : Int) :
    (∀ e ∈ elements w, old.active (maskLane w e) = true → R ((orIdentity old a w f x).foldl op x) (f (old.elt a w e).v)) ∧
      ((∃ e ∈ elements w, old.active (maskLane w e) = true ∧ (orIdentity old a w f x).foldl op x = f (old.elt a w e).v) ∨
        (orIdentity old a w f x).foldl op x = x) := by
  obtain ⟨-, hall, hsel⟩ := foldl_select refl trans left right select (orIdentity old a w f x) x
  constructor
  · intro e he hon
    exact hall _ (List.mem_map.mpr ⟨e, he, if_pos hon⟩)
  · rcases hsel with hmem | h
    · obtain ⟨e, he, heq⟩ := List.mem_map.mp hmem
      split at heq
      · case isTrue hon => exact .inl ⟨e, he, hon, heq.symm⟩
      · exact .inr heq.symm
    · exact .inr h

end

/-- The clean result of a reduction: of floats by the tree, of integers exactly. -/
theorem Reduced.result {d a : Nat} {ty : NumType} {g : Bool} {old r r' : Regs} {fl : Fmt → BitVec 2 → Nat → Nat → Nat × BitVec 5}
    {idf : Fmt → Nat} {int : Int → Int → Int} {idi : Nat → Bool → Int} {P : Int → Prop}
    (hr : Reduced (isWide ty) d (redElt old a ty fl idf int idi) r r') (hp : anyPoisoned old a ty.width = false)
    (hint : (∀ t, ty = .fl t → False) → ty.asInt = (ty.width, g))
    (hP : P ((orIdentity old a ty.width (intOf ty.width g) (idi ty.width g)).foldl int (idi ty.width g))) :
    match (generalizing := false) ty with
    | .fl t =>
      let x := tree (fl t old.rm) (Nat.log2 (2048 / ty.width)) (orIdentity old a ty.width id (idf t))
      (if isWide ty then (r'.elt d 64 0).v = x.1 % 2 ^ 64 else (r'.rv d 0).v.toNat = x.1 % 2 ^ 32) ∧
        r'.fcsr = r.fcsr ||| x.2.setWidth 32
    | _ => (∃ z, P z ∧ ((r'.elt d 64 0).v : Int) = z % 2 ^ 64) ∧ r'.fcsr = r.fcsr := by
  split
  · case h_1 t =>
    rw [redElt_float fl idf int idi hp rfl] at hr
    refine ⟨?_, hr.flags⟩
    generalize isWide (.fl t) = wide at hr
    cases wide with
    | false => exact hr.value_narrow
    | true => exact hr.value_wide
  · case h_2 ht =>
    have hwide : isWide ty = true := by
      cases ty with
      | fl t => exact absurd rfl (ht t)
      | int n g => rfl
      | q32 => rfl
    rw [redElt_int fl idf int idi hp ht, hint ht, hwide] at hr
    refine ⟨⟨_, hP, ?_⟩, by simpa using hr.flags⟩
    rw [hr.value_wide, Nat.mod_eq_of_lt (bitsOf_lt 64 _)]
    exact cast_bitsOf 64 _

/-! ## Dot products (R171) -/

/-- The accumulator and the products of a lane, summed exactly. -/
def dotSum (n : Nat) (g : Bool) (acc x y : Nat) : Int :=
  intOf 32 g acc +
    ((List.range (32 / n)).map fun i => intOf n g (x / 2 ^ (n * i) % 2 ^ n) * intOf n g (y / 2 ^ (n * i) % 2 ^ n)).sum

theorem dotInt_eq (n : Nat) (g sat : Bool) (acc x y : Nat) : dotInt n g sat acc x y =
    ((if sat then max (rangeLo 32 g) (min (rangeHi 32 g) (dotSum n g acc x y)) else dotSum n g acc x y) % 2 ^ 32).toNat := by
  rw [dotInt, intResult, bitsOf_eq, dotSum, ← foldl_add_eq_sum, List.foldl_map]

/-- What VDOT does with the three words of a lane. -/
def dotOf (ty : NumType) (sat : Bool) (mode : BitVec 2) (acc x y : Nat) : Nat × BitVec 5 :=
  match ty with
  | .fl t => dotFloat t mode acc x y
  | _ => let (n, g) := ty.asInt; (dotInt n g sat acc x y, 0)

theorem dotOf_int {ty : NumType} (ht : ∀ t, ty = .fl t → False) (sat : Bool) (mode : BitVec 2) (acc x y : Nat) :
    dotOf ty sat mode acc x y = (dotInt ty.asInt.1 ty.asInt.2 sat acc x y, 0) := by
  cases ty with
  | fl t => exact absurd rfl (ht t)
  | int n g => rfl
  | q32 => rfl

theorem lift3_congr {a b c : Elt} {f g : Nat → Nat → Nat → Nat × BitVec 5} (h : f a.v b.v c.v = g a.v b.v c.v) :
    lift3 a b c f = lift3 a b c g := by rw [lift3, lift3, h]

theorem elt_lt (r : Regs) (n l : Nat) : (r.elt n 32 l).v < 2 ^ 32 := Nat.mod_lt _ (by positivity)

/-- A lane of VDOT. -/
def dotElt (d a b : BitVec 6) (c sat : Bool) (v : BitVec 4) (old : Regs) (l : Nat) : Elt :=
  lift3 (old.elt d.toNat 32 l) (old.elt a.toNat 32 l) (old.second c b.toNat 32 l) (dotOf (eltType v) sat old.rm)

theorem execVdot_eq (d a b : BitVec 6) (c sat : Bool) (v : BitVec 4) (s : State) :
    execVdot d a b c sat v s = vecSlot d (fun old => old.lanes 32 (dotElt d a b c sat v old)) s := by
  unfold execVdot dotElt dotOf
  cases eltType v <;> rfl

theorem givesV_vdot {s : State} (run : Running s) (st c sat : Bool) (d a b : BitVec 6) (v : BitVec 4) :
    GivesV s (.vdot st d a b c sat v) d 32 (dotElt d a b c sat v s.old) :=
  givesV_lanes (dotElt d a b c sat v) (by simp [IsWidth]) (fun _ => lift3_zero) run (execVdot_eq d a b c sat v s)

/-! ## The statement -/

/-- Settles O16: a reduction by its result and the lanes that it writes, a dot product lane by lane. -/
theorem vectorReduce : Obligations.VectorReduce := by
  unfold Obligations.VectorReduce
  intro s st c sat d a b v run ty w old on va signed num psn wide last nodes reduces
  have hwide : wide = isWide ty := by
    show (match ty with | .fl t => decide (t.width = 64) | _ => true) = _
    cases ty <;> rfl
  have hnum : num = intOf w (decide signed) := funext fun x => by simp only [num, intOf, decide_eq_true_eq]
  have key : ∀ (i : Instr) (fl : Fmt → BitVec 2 → Nat → Nat → Nat × BitVec 5) (idf : Fmt → Nat) (int : Int → Int → Int)
      (idi : Nat → Bool → Int) (P : Int → Prop), exec i s = reduce d a v fl idf int idi s →
      P ((orIdentity old a.toNat w num (idi w (decide signed))).foldl int (idi w (decide signed))) →
      reduces i (fun t => fl t old.rm) idf P := by
    intro i fl idf int idi P he hP _
    refine gives_reduce run he fun r hr => ⟨hr.only, ?_⟩
    have hlane : ∀ l, l < last → l < (if isWide (eltType v) then 2 else 1) := fun l hl => by rwa [← hwide]
    refine ⟨?_, fun l hl => by rw [hr.lane l (hlane l hl), redElt_psn]; rfl, fun hp => ?_, fun hp => ?_⟩
    · rw [show last = if isWide (eltType v) then 2 else 1 by rw [← hwide]]
      exact hr.rest
    · rw [redElt_poisoned fl idf int idi hp] at hr
      exact ⟨fun l hl => by simp [hr.lane l (hlane l hl), Elt.bad], by simp [hr.flags, Elt.bad]⟩
    · have := hr.result hp asInt_eltType (P := P) (by rwa [← hnum])
      rw [← hwide] at this
      exact this
  refine ⟨key _ (fun t m x y => fpAdd t m false x y) _ (· + ·) (fun _ _ => 0) _ rfl ?_,
    key _ (fun t _ x y => fpMinMax t false x y) _ min rangeHi _ rfl ?_,
    key _ (fun t _ x y => fpMinMax t true x y) _ max rangeLo _ rfl ?_, fun _ => ?_⟩
  · rw [foldl_add_eq_sum, zero_add]
    exact sum_orZero (elements w) on fun e => num (va e).v
  · have := foldl_select_active (op := min) (R := (· ≤ ·)) le_refl (fun _ _ _ => le_trans) min_le_left min_le_right min_choice
      old a.toNat w num (rangeHi w (decide signed))
    simpa [rangeHi] using this
  · have := foldl_select_active (op := max) (R := (· ≥ ·)) le_refl (fun _ _ _ => ge_trans) le_max_left le_max_right max_choice
      old a.toNat w num (rangeLo w (decide signed))
    simpa [rangeLo] using this
  · have := givesV_vdot run st c sat d a b v
    convert this using 1
    funext l
    refine lift3_congr ?_
    have hacc : ((old.elt d.toNat 32 l).v : Int) = ((old.elt d.toNat 32 l).v % 2 ^ 32 : Nat) := by
      rw [Nat.mod_eq_of_lt (elt_lt old d.toNat l)]
    have hword : ∀ x, (if signed then (BitVec.ofNat 32 x).toInt else (x % 2 ^ 32 : Nat)) = intOf 32 (decide signed) x := fun x => by
      simp only [intOf, decide_eq_true_eq]
    have hlo : (if signed then -2 ^ 31 else 0) = rangeLo 32 (decide signed) := by simp [rangeLo]
    have hhi : (if signed then 2 ^ 31 - 1 else 2 ^ 32 - 1) = rangeHi 32 (decide signed) := by simp [rangeHi]
    have hint : (∀ t, ty = .fl t → False) → ty.asInt = (w, decide signed) := asInt_eltType
    dsimp only
    rw [hnum, hacc, hword, hlo, hhi, show eltType v = ty from rfl]
    clear_value ty
    split
    · rfl
    · case h_2 ht => rw [dotOf_int ht, hint ht, dotInt_eq, dotSum]

end Sys2Proof.VectorReduce
end

section
/-! SUPPORT. Banks as the execution rules change them: the switch of a core's active bank (R49), the end of a slot as its own bank sees
it, the launch of a context, and what a save leaves (R76, R77). -/
namespace Sys2Proof.Machine
theorem OnlyMemory.tab {s u : State} {a count size : Nat} {f : Nat → Nat} (h : OnlyMemory s u) :
    OnlyMemory s (u.pokeTab a count size f) := h.trans (u.poke_only _ _ _ _)
theorem OnlyMemory.bits {s u : State} {a n : Nat} {f : Nat → Bool} (h : OnlyMemory s u) : OnlyMemory s (u.pokeBits a n f) := h.tab

section
variable {s t : State} (h : OnlyMemory s t)
include h
theorem OnlyMemory.cur : t.cur = s.cur := by rw [h.rest]
theorem OnlyMemory.gt : t.gt = s.gt := by rw [h.rest]
theorem OnlyMemory.ctxs : t.ctxs = s.ctxs := by rw [h.rest]
theorem OnlyMemory.cores : t.cores = s.cores := by rw [h.rest]
theorem OnlyMemory.launches : t.launches = s.launches := by rw [h.rest]
theorem OnlyMemory.ready : t.ready = s.ready := by rw [h.rest]
theorem OnlyMemory.saving : t.saving = s.saving := by rw [h.rest]
theorem OnlyMemory.nextInc : t.nextInc = s.nextInc := by rw [h.rest]
end
end Sys2Proof.Machine

namespace Sys2Proof.Banks
open Sys2Proof Sys2Proof.Machine

/-! ## The active bank of a core (R49) -/

theorem otherBank_div (k : Nat) : otherBank k / 2 = k / 2 := by
  unfold otherBank; split <;> omega
theorem otherBank_ne (k : Nat) : otherBank k ≠ k := by
  unfold otherBank; split <;> omega

/-- A change of the active bank changes cores only. -/
theorem activate_eq (s : State) (k : Nat) : ∃ cores, s.activate k = { s with cores } := by
  unfold State.activate
  split
  · exact ⟨s.cores, rfl⟩
  · exact ⟨_, rfl⟩
theorem handOver_eq (s : State) (k : Nat) : ∃ cores, s.handOver k = { s with cores } := by
  unfold State.handOver
  split
  · exact activate_eq s _
  · exact ⟨s.cores, rfl⟩
theorem wake_eq (s : State) (k : Nat) : ∃ cores, s.wake k = { s with cores } := by
  unfold State.wake
  split
  · exact ⟨s.cores, rfl⟩
  · exact activate_eq s k

theorem active_activate (s : State) (k : Nat) : ((s.activate k).core (k / 2)).active = k % 2 := by
  unfold State.activate
  split
  next h => simpa [State.isActive] using h
  next => simp [State.addPerf]
/-- A ready standby takes over. -/
theorem active_handOver {s : State} {k : Nat} (h : (s.ctx (otherBank k)).ready = true) :
    ((s.handOver k).core (k / 2)).active = otherBank k % 2 := by
  rw [State.handOver, if_pos h, ← otherBank_div]
  exact active_activate s _
theorem handOver_of_not_ready {s : State} {k : Nat} (h : (s.ctx (otherBank k)).ready = false) : s.handOver k = s :=
  if_neg (by simp [h])

@[simp] theorem ctx_handOver (s : State) (k j : Nat) : (s.handOver k).ctx j = s.ctx j := by
  obtain ⟨cores, h⟩ := handOver_eq s k
  rw [h]; rfl
@[simp] theorem launches_handOver (s : State) (k : Nat) : (s.handOver k).launches = s.launches := by
  obtain ⟨cores, h⟩ := handOver_eq s k
  rw [h]
@[simp] theorem cur_handOver (s : State) (k : Nat) : (s.handOver k).cur = s.cur := by
  obtain ⟨cores, h⟩ := handOver_eq s k
  rw [h]

/-! ## The end of a slot -/

@[simp] theorem retired_regs (c : Ctx) (u : ExecUnit) : (c.retired u).regs = c.regs := by
  unfold Ctx.retired; dsimp only; split <;> rfl
@[simp] theorem retired_chk (c : Ctx) (u : ExecUnit) : (c.retired u).chk = c.chk := by
  unfold Ctx.retired; dsimp only; split <;> rfl
/-- Where control stands after a slot depends on the bundle, the younger ones and the pc alone. -/
theorem retired_congr {c d : Ctx} (hissue : d.issue = c.issue) (hyounger : d.younger = c.younger) (hpc : d.pc = c.pc) (u v : ExecUnit) :
    (d.retired u).pc = (c.retired v).pc ∧ (d.retired u).issue = (c.retired v).issue := by
  unfold Ctx.retired
  rw [hissue, hyounger]
  dsimp only
  split
  · exact ⟨rfl, rfl⟩
  · exact ⟨hpc, rfl⟩

/-- The end of a slot changes nothing but its bank and its requests. -/
structure Retires (u t : State) : Prop where
  rest : t = { u with asks := 0, reqs := t.reqs, ctxs := t.ctxs }
  others : ∀ j, j ≠ u.cur → t.ctx j = u.ctx j
  regs : t.regs = u.regs
  chk : (t.ctx u.cur).chk = (u.ctx u.cur).chk

theorem retire_retires {u : State} (run : Running u) : Retires u u.retire := by
  rw [State.retire_eq u run]
  refine ⟨rfl, fun j hj => State.ctx_setCtx_other _ _ _ _ hj, ?_, ?_⟩
  · simp [State.regs]
  · simp

theorem Retires.mem {u t : State} (h : Retires u t) : t.mem = u.mem := by rw [h.rest]
theorem Retires.cores {u t : State} (h : Retires u t) : t.cores = u.cores := by rw [h.rest]
theorem Retires.launchOf {u t : State} (h : Retires u t) : t.launchOf u.cur = u.launchOf u.cur := by
  have hl : t.launches = u.launches := by rw [h.rest]
  have hc : t.cur = u.cur := by rw [h.rest]
  have hr : (t.ctx u.cur).regs = (u.ctx u.cur).regs := by
    have := h.regs
    rwa [State.regs, State.regs, hc] at this
  rw [State.launchOf, State.launchOf, State.launch?, State.launch?, hl, hr]

section
variable {s u : State} {tgt : Option Word64} (run : Running s) (hcur : u.cur = s.cur)
  (hissue : (u.ctx s.cur).issue = { (s.ctx s.cur).issue with target := tgt })
include run hcur hissue

/-- A slot that has set the target of its bundle, or left it, still runs. -/
theorem running_of_issue (hocc : (u.ctx s.cur).occ = (s.ctx s.cur).occ) : Running u := by
  obtain ⟨hres, htrap, hret⟩ := run
  exact ⟨by rw [hcur, hocc, hres], by rw [hcur, hissue, ← htrap], by rw [hcur, hissue, ← hret]⟩

/-- Control after a slot of which the bundle remembers `tgt` (R81). -/
theorem goesTo_retire (hocc : (u.ctx s.cur).occ = (s.ctx s.cur).occ) (hyounger : (u.ctx s.cur).younger = (s.ctx s.cur).younger)
    (hpc : (u.ctx s.cur).pc = (s.ctx s.cur).pc) : GoesTo s u.retire tgt := by
  have hgoes := (Touched.modCtx s (fun c => { c with issue := { c.issue with target := tgt } }) rfl rfl rfl rfl rfl rfl).goes run
  have hv := Touched.running (Touched.modCtx s (fun c => { c with issue := { c.issue with target := tgt } }) rfl rfl rfl rfl rfl rfl) run
  rw [GoesTo, State.retire_eq _ hv] at hgoes
  rw [GoesTo, State.retire_eq u (running_of_issue run hcur hissue hocc), hcur]
  simp only [State.modCtx_eq, State.setCtx_cur, State.ctx_setCtx_same] at hgoes ⊢
  obtain ⟨h1, h2⟩ := retired_congr (c := { s.ctx s.cur with issue := { (s.ctx s.cur).issue with target := tgt } }) hissue hyounger hpc
    u.slot.exu (State.slot (s.setCtx s.cur { s.ctx s.cur with issue := { (s.ctx s.cur).issue with target := tgt } })).exu
  rw [h1, h2]
  exact hgoes
end

/-! ## The launch of a context -/

theorem launch?_num {s : State} {n : Nat} {l : Launch} (h : s.launch? n = some l) : l.num = n := by
  simpa using List.find?_some h
theorem launchOf_of_some {s : State} {k : Nat} {l : Launch} (h : s.launch? (s.ctx k).regs.launch.toNat = some l) : s.launchOf k = l := by
  rw [State.launchOf, h]; rfl
/-- A change of a launch that keeps its number. -/
theorem launch?_modLaunch (s : State) (n m : Nat) {f : Launch → Launch} (hf : ∀ l, (f l).num = l.num) :
    (s.modLaunch n f).launch? m = (s.launch? m).map fun l => if l.num = n then f l else l := by
  have hnum : (fun l : Launch => decide (l.num = m)) ∘ (fun l => if l.num = n then f l else l) = fun l => decide (l.num = m) := by
    funext l
    by_cases h : l.num = n <;> simp [h, hf]
  rw [State.launch?, State.modLaunch, List.find?_map, hnum, State.launch?]

/-! ## What a save leaves (R76, R77) -/

theorem ite_only {s u v : State} {p : Prop} [Decidable p] (hu : OnlyMemory s u) (hv : OnlyMemory s v) :
    OnlyMemory s (if p then u else v) := by
  split
  · exact hu
  · exact hv

/-- A save slot is written as a chain of tables and bit maps, some of them only in a forced save (R425). -/
theorem writeSlot_only (s : State) (a k kind : Nat) (full win : Bool) : OnlyMemory s (s.writeSlot a k kind full win) := by
  unfold State.writeSlot
  extract_lets c r l s1 pcS s2 s3 s4 s5 s6 s7 s8 s9 s10 s11 s12 s13 s14 s15 s16 s17 s18 s19 s20 s21 s22 s23 s24 w s0 s25 s26
  have h1 : OnlyMemory s s1 := (OnlyMemory.refl s).tab
  have h2 : OnlyMemory s s2 := ite_only h1.tab h1
  have h13 : OnlyMemory s s13 := h2.tab.tab.bits.tab.bits.bits.bits.tab.tab.tab.tab
  have h23 : OnlyMemory s s23 := h13.bits.bits.tab.tab.tab.tab.tab.tab.tab.bits
  have h24 : OnlyMemory s s24 := ite_only h23.tab.bits h23
  exact ite_only (h24.bits.bits.trans (State.poke_only _ _ _ _ _)) h24

/-- The bank that is saved is no longer resident, its context is among those that are saved, and no other bank changes. -/
structure SavedTo (s t : State) (k : Nat) (wanted : Option (Nat × Nat)) : Prop where
  occ : (t.ctx k).occ = .saving
  others : ∀ j, j ≠ k → t.ctx j = s.ctx j
  saving : ∃ e : Ready, t.saving = s.saving ++ [{ ctx := k, entry := e, wanted }] ∧ e.launch = (s.launchOf k).num ∧
    e.task = (s.ctx k).regs.task.toNat

theorem save_savedTo (s : State) (k : Nat) (forced : Bool) (wanted : Option (Nat × Nat)) : SavedTo s (s.save k forced wanted) k wanted := by
  unfold State.save
  extract_lets c l task u
  have hu : OnlyMemory s u := writeSlot_only _ _ _ _ _ _
  obtain ⟨stamp, v, hv, hdraw⟩ : ∃ stamp v, OnlyMemory u v ∧ u.draw id = (stamp, v) :=
    ⟨_, { u with free := u.free + 1 }, ⟨rfl, id⟩, rfl⟩
  rw [hdraw]
  dsimp -zeta only
  extract_lets x y e z z1 z2
  have hy : OnlyMemory s y := ((hu.trans hv).trans (State.poke_only _ _ _ _ _)).trans (State.poke_only _ _ _ _ _)
  clear_value y
  refine ⟨by simp, fun j hj => ?_, e, ?_, rfl, rfl⟩
  · rw [State.ctx_setCtx_other _ _ _ _ hj]
    exact hy.ctx j
  · show y.saving ++ _ = _
    rw [hy.saving]

theorem SavedTo.last {s t : State} {k : Nat} {wanted : Option (Nat × Nat)} (h : SavedTo s t k wanted) :
    t.saving.getLast?.map (fun v => (v.ctx, v.wanted)) = some (k, wanted) := by
  obtain ⟨e, he, -⟩ := h.saving
  simp [he]

/-! ## What stands beside banks, cores and launches -/

/-- `t` has the banks, the cores and the launches of `s`. -/
structure Aside (s t : State) : Prop where
  ctxs : t.ctxs = s.ctxs
  cores : t.cores = s.cores
  launches : t.launches = s.launches

namespace Aside
variable {s t u : State}
theorem refl (s : State) : Aside s s := ⟨rfl, rfl, rfl⟩
theorem trans (h : Aside s t) (h' : Aside t u) : Aside s u :=
  ⟨h'.ctxs.trans h.ctxs, h'.cores.trans h.cores, h'.launches.trans h.launches⟩
theorem ctx (h : Aside s t) (k : Nat) : t.ctx k = s.ctx k := by rw [State.ctx, h.ctxs, State.ctx]
theorem core (h : Aside s t) (k : Nat) : t.core k = s.core k := by rw [State.core, h.cores, State.core]
theorem foldl {α : Type} {f : State → α → State} (h : ∀ s x, Aside s (f s x)) (xs : List α) (s : State) : Aside s (xs.foldl f s) := by
  induction xs generalizing s with
  | nil => exact refl s
  | cons x xs ih => exact (h s x).trans (ih _)
end Aside

theorem aside_of_onlyMemory {s t : State} (h : OnlyMemory s t) : Aside s t := ⟨h.ctxs, h.cores, h.launches⟩
theorem pokeNat_aside (s : State) (a n v : Nat) : Aside s (s.pokeNat a n v) := aside_of_onlyMemory (s.pokeNat_only a n v)

/-! ### Write-combining buffers (R254) -/

theorem drainWc_aside (s : State) (k : Nat) (w : WcBuf) : Aside s (s.drainWc k w) :=
  .foldl (f := fun (t : State) (x : Nat × List (Val 8)) => t.numberReq
    { owner := .posted (s.ctx k).inc, addr := w.pa + x.1, act := .write x.2, scope := 6, asid := (s.launchOf k).asid
      launch := (s.ctx k).regs.launch.toNat, task := (s.ctx k).regs.task.toNat, issue := (s.ctx k).issue.addr })
    (fun _ _ => ⟨rfl, rfl, rfl⟩) w.runs s

/-- A context's buffers leave; its bank keeps all else. -/
theorem drainAll_eq (s : State) (k : Nat) : ∃ u, Aside s u ∧ s.drainAll k = u.setCtx k { s.ctx k with wc := [] } := by
  have h : Aside s ((s.ctx k).wc.foldl (fun s w => s.drainWc k w) s) := .foldl (fun s w => drainWc_aside s k w) _ s
  refine ⟨_, h, ?_⟩
  rw [State.drainAll, State.modCtx_eq, h.ctx]

/-! ### Cohorts and barriers (R73 to R75, R398, R399) -/

theorem setMember_aside (s : State) (l : Launch) (cohort task : Nat) (b : Bool) : Aside s (s.setMember l cohort task b) := by
  unfold State.setMember
  split
  · exact .refl s
  · exact pokeNat_aside _ _ _ _
theorem readCohort_aside (s : State) (l : Launch) (cohort : Nat) : Aside s (s.readCohort l cohort) := by
  unfold State.readCohort
  split
  · exact .refl s
  · exact aside_of_onlyMemory (s.touchRead_only _ _ _)
theorem setExpect_aside (s : State) (b : Nat) (ms : List Nat) : Aside s (s.setExpect b ms) :=
  (aside_of_onlyMemory (State.poke_only _ _ _ _ _)).trans (pokeNat_aside _ _ _ _)
theorem modBar_aside (s : State) (b : Nat) (f : BarEntry → BarEntry) : Aside s (s.modBar b f) := ⟨rfl, rfl, rfl⟩
theorem arriveBit_aside (s : State) (b task : Nat) : Aside s (s.arriveBit b task) :=
  ((pokeNat_aside _ _ _ _).trans (pokeNat_aside _ _ _ _)).trans (modBar_aside _ _ _)

theorem barCheck_aside (b fuel : Nat) (s : State) : Aside s (s.barCheck b fuel) := by
  induction fuel generalizing s with
  | zero => exact .refl s
  | succ fuel ih =>
    unfold State.barCheck
    split
    · extract_lets u l v ds w
      have hu : Aside s u := (pokeNat_aside _ _ _ _).trans (pokeNat_aside _ _ _ _)
      have hw : Aside s w := ((hu.trans (readCohort_aside _ _ _)).trans (setExpect_aside _ _ _)).trans (modBar_aside _ _ _)
      refine hw.trans (.foldl (fun s t => ?_) _ _)
      split
      · exact ((modBar_aside _ _ _).trans (arriveBit_aside _ _ _)).trans (ih _)
      · exact modBar_aside _ _ _
    · exact .refl s
theorem leaveBars_aside (s : State) (launch cohort task : Nat) : Aside s (s.leaveBars launch cohort task) := by
  refine .foldl (fun s e => .trans ?_ (barCheck_aside _ _ _)) _ s
  split
  · exact arriveBit_aside _ _ _
  · exact .refl s
theorem leaveCohort_aside (s : State) (l : Launch) (cohort task : Nat) : Aside s (s.leaveCohort l cohort task) := by
  unfold State.leaveCohort
  split
  · exact .refl s
  · exact (setMember_aside _ _ _ _ _).trans (leaveBars_aside _ _ _ _)

/-! ### The end of a task (R67, R75, R406) -/

theorem taskGone_aside (s : State) (inc launch task k : Nat) : Aside s (s.taskGone inc launch task k) := by
  unfold State.taskGone
  extract_lets u ctl leads binds e
  split
  · exact ⟨rfl, rfl, rfl⟩
  · exact ⟨rfl, rfl, rfl⟩

/-- A task counts as ended in its launch. -/
def counted (task : Nat) (l : Launch) : Launch := { l with ended := l.ended.setRange task 1 fun _ => true }

theorem contains_counted (task : Nat) (l : Launch) : (counted task l).ended.contains task = true := by
  simp [counted, KeySet.mem_setRange]

/-- A task that ends leaves its cohorts, and its launch counts it as ended. -/
theorem leaveAll_eq (s : State) (l : Launch) (task : Nat) :
    ∃ u, Aside s u ∧ Aside (u.modLaunch l.num (counted task)) (s.leaveAll l task) :=
  ⟨_, .foldl (fun s _ => leaveCohort_aside s l _ task) _ s, leaveBars_aside _ _ _ _⟩

end Sys2Proof.Banks
end

section
/-! SUPPORT. Steps and the end of a task (R63, R66, R67, R147), and the switch of banks by a slot (R49). -/
namespace Sys2Proof.Steps
open Sys2Proof Sys2Proof.Machine Sys2Proof.Banks

/-! ## Reads leave every byte as it is (R212, R213) -/

/-- What is evicted was written back first: HBM takes the line's own bytes. -/
theorem mem_evict (s : State) (line : Nat) : (s.evict line).mem = s.mem := by
  have hclean : ∀ u : State, (∀ e, u.llc.find line = some e → e.dram = none) → (u.dropLine line).mem = u.mem := by
    intro u hu
    unfold State.dropLine
    split
    · next e he => simp [hu e he]
    · rfl
  have hmem : (s.writeBack line).mem = s.mem := by
    unfold State.writeBack
    split <;> rfl
  refine (hclean _ fun e he => ?_).trans hmem
  unfold State.writeBack at he
  split at he
  · have hput : ∀ v : LlcLine, (s.llc.put line v).find line = some v := fun v => by
      rw [Sparse.put, Sparse.find_splice _ _ _ _ _ (by simp)]
      simp [Sparse.find]
    rw [show (State.bump _ _).llc = s.llc.put line { dramPsn := blockPoison s.psn line } from rfl, hput] at he
    cases he
    rfl
  · next h =>
    cases hd : e.dram with
    | none => rfl
    | some bs => exact absurd (he.trans (congrArg some (show e = ⟨some bs, e.dramPsn⟩ by rw [← hd]))) (h bs e.dramPsn)
theorem mem_fillLine (s : State) (line : Nat) : (s.fillLine line).mem = s.mem := by
  unfold State.fillLine
  dsimp only
  split
  · rfl
  · split
    · rfl
    · split
      · exact mem_evict _ _
      · rfl
theorem mem_touchLine_read (s : State) (al : Alloc) (line : Nat) : (s.touchLine al false line).1.mem = s.mem := by
  cases al with
  | ms => exact mem_evict s line
  | fill => exact mem_fillLine s line
  | nt =>
    unfold State.touchLine
    dsimp only
    split
    · exact mem_fillLine s line
    · rfl
theorem mem_touchRead (s : State) (al : Alloc) (a n : Nat) : (s.touchRead al a n).mem = s.mem := by
  unfold State.touchRead
  split
  · generalize pieces 128 a n = ps
    induction ps generalizing s with
    | nil => rfl
    | cons p ps ih => exact (ih _).trans (mem_touchLine_read s al _)
  · rfl
/-- Bytes lie in the memory's cells, which the cores' swizzles decide (R206). -/
theorem sameBytes_of_mem {s t : State} (hmem : t.mem = s.mem) (hcores : t.cores = s.cores) : SameBytes s t := by
  intro a
  have hcell : t.cell a = s.cell a := by simp only [State.cell, State.core, hcores]
  simp only [State.peek, hcell, hmem]

/-! ## WTAKE (R63, R147) -/

theorem bind_reads {α β : Type} (f : State → α) (g : α → M β) (s : State) : (reads f >>= g) s = g (f s) s := rfl
theorem bind_change {β : Type} (f : State → State) (g : Unit → M β) (s : State) : (change f >>= g) s = g () (f s) := rfl
theorem slotOut_gone {m : M Unit} {s t : State} (h : m s = .error (.gone t)) : slotOut m s = .next t := by simp [slotOut, h]
theorem slotOut_congr {m m' : M Unit} {s : State} (h : m s = m' s) : slotOut m s = slotOut m' s := by simp only [slotOut, h]

/-- What WTAKE does with the step `n`. -/
def entered (d : BitVec 6) (p : BitVec 7) (k : Nat) (u : State) (n : BitVec 41) : State :=
  let v := u.modRegs fun r => (r.wx d.toNat ⟨n.setWidth 64, false⟩).wp p.toNat false
  ((v.readCode (v.launchOf k)).jump (u.codeEntry (u.launchOf k))).modCtx k fun c => { c with chk := true }

/-- What WTAKE does once the open step is closed, when nobody has asked for the bank. -/
def takes (d : BitVec 6) (p : BitVec 7) (k : Nat) : M Unit := fun s =>
  match s.take k with
  | (u, .granted n) => .ok ((), entered d p k u n)
  | (u, .exhausted) => .ok ((), u.modRegs fun r => (r.wx d.toNat ⟨BitVec.allOnes 64, false⟩).wp p.toNat true)
  | (u, .none) => .error (.wait (u.awaitRange k))

@[simp] theorem preempt_closeStep (s : State) (k : Nat) : ((s.closeStep k).ctx k).preempt = (s.ctx k).preempt := by
  simp [State.closeStep]
theorem closeStep_regs (s : State) (k : Nat) : ((s.closeStep k).ctx k).regs = { (s.ctx k).regs with openStep := false } := by
  simp [State.closeStep]
theorem launchOf_closeStep (s : State) (k : Nat) : (s.closeStep k).launchOf k = s.launchOf k := by
  rw [State.launchOf, closeStep_regs, State.launchOf]
  rfl

section
variable {s : State} (d : BitVec 6) (p : BitVec 7) (hretry : (s.ctx s.cur).retry = 0)
include hretry

theorem execWtake_saves (hopen : s.regs.openStep = true) (hclosed : s.closable s.cur false = true) {q : Preempt}
    (hq : (s.ctx s.cur).preempt = some q) :
    execWtake d p s = .next ((s.closeStep s.cur).save s.cur false (some (q.launch, q.task))) := by
  rw [State.regs] at hopen
  refine slotOut_gone ?_
  simp [self, bind_reads, bind_change, hretry, hopen, hclosed, hq]

theorem execWtake_takes (hclose : s.regs.openStep = true → (s.ctx s.cur).preempt = none ∧ s.closable s.cur false = true) :
    execWtake d p s = slotOut (fun s => takes d p s.cur (s.closeStep s.cur)) s := by
  rw [State.regs] at hclose
  refine slotOut_congr ?_
  have hbind : ∀ g : Take → M Unit, ((fun s' : State => .ok ((s'.take s.cur).2, (s'.take s.cur).1)) >>= g) (s.closeStep s.cur) =
      g ((s.closeStep s.cur).take s.cur).2 ((s.closeStep s.cur).take s.cur).1 := fun _ => rfl
  cases hopen : (s.ctx s.cur).regs.openStep
  all_goals
    simp only [self, bind_reads, bind_change, hbind, takes, hretry, hopen, hclose, preempt_closeStep, State.modCtx_eq, ne_eq, decide_not,
      decide_true, Bool.not_true, Bool.false_eq_true, if_false, if_true]
    generalize (s.closeStep s.cur).take s.cur = x
    obtain ⟨u, _ | _ | _⟩ := x <;> rfl
end

theorem take_exhausted {s : State} {k : Nat} (h : (s.launchOf k).faulted = true ∨
    (¬ (s.ctx k).regs.wrlo < (s.ctx k).regs.wrhi ∧ (s.launchOf k).untaken = 0)) : s.take k = (s, .exhausted) := by
  unfold State.take
  dsimp only
  by_cases hf : (s.launchOf k).faulted = true
  · rw [if_pos hf]
  · obtain ⟨hrange, hnone⟩ := h.resolve_left hf
    rw [if_neg hf, if_neg hrange, if_pos hnone]
theorem take_granted {s : State} {k : Nat} (hf : (s.launchOf k).faulted = false) (h : (s.ctx k).regs.wrlo < (s.ctx k).regs.wrhi) :
    s.take k = s.grant k := by
  unfold State.take
  dsimp only
  rw [if_neg (by simp [hf]), if_pos h]

/-! ### A step granted -/

/-- The bank after it has taken the lowest step of its range (R61, R66). -/
def stepTaken (c : Ctx) : Ctx := { c with
  regs := { c.regs with wrlo := c.regs.wrlo + 1, step := c.regs.wrlo, openStep := true }
  mark := c.chans.map fun e => (e.1, e.2.next) }
/-- A launch with one step fewer to take. -/
def oneTaken (l : Launch) : Launch := { l with untaken := l.untaken - 1 }

/-- The state that WTAKE, its step closed, reaches with a grant: the bank has taken the step, and the launch counts it. -/
structure Granted (s u : State) : Prop where
  cur : u.cur = s.cur
  mem : u.mem = s.mem
  cores : u.cores = s.cores
  psn : u.psn = s.psn
  dev : u.dev = s.dev
  own : u.ctx s.cur = stepTaken (s.ctx s.cur)
  others : ∀ k, k ≠ s.cur → u.ctx k = s.ctx k
  launches : u.launches = (s.modLaunch s.regs.launch.toNat oneTaken).launches

@[simp] theorem ctx_modLaunch (s : State) (n k : Nat) (f : Launch → Launch) : (s.modLaunch n f).ctx k = s.ctx k := rfl
@[simp] theorem ctx_passSwaps (s : State) (n t k : Nat) : (s.passSwaps n t).ctx k = s.ctx k := rfl

theorem grant_granted (s : State) : ∃ u, (s.closeStep s.cur).grant s.cur = (u, .granted s.regs.wrlo) ∧ Granted s u := by
  simp only [State.grant, State.closeStep, State.modCtx_eq, State.ctx_setCtx_same, State.setCtx_setCtx, State.regs]
  refine ⟨_, rfl, ?_, ?_, ?_, ?_, ?_, ?_, fun k hk => ?_, ?_⟩
  · simp only [State.passSwaps, State.modLaunch, State.setCtx_cur]
  · simp only [State.passSwaps, State.modLaunch, State.setCtx_mem]
  · simp only [State.passSwaps, State.modLaunch, State.setCtx_cores]
  · simp only [State.passSwaps, State.modLaunch, State.setCtx_psn]
  · simp only [State.passSwaps, State.modLaunch, State.setCtx_dev]
  · simp only [ctx_passSwaps, ctx_modLaunch, State.ctx_setCtx_same, stepTaken]
  · simp only [ctx_passSwaps, ctx_modLaunch, State.ctx_setCtx_other _ _ _ _ hk]
  · simp only [State.passSwaps, State.modLaunch, State.setCtx_launches, State.regs, oneTaken]
    rfl

/-- A context whose launch has one step fewer to take. -/
theorem launchOf_oneTaken {s t : State} {k : Nat} (hlaunch : (t.ctx k).regs.launch = (s.ctx k).regs.launch)
    (h : t.launches = (s.modLaunch (s.ctx k).regs.launch.toNat oneTaken).launches) : t.launchOf k = oneTaken (s.launchOf k) := by
  have hfind := launch?_modLaunch s (s.ctx k).regs.launch.toNat (s.ctx k).regs.launch.toNat (f := oneTaken) fun _ => rfl
  rw [State.launch?, ← h] at hfind
  rw [State.launchOf, State.launch?, hlaunch, hfind, State.launchOf]
  cases hl : s.launch? (s.ctx k).regs.launch.toNat with
  | none => rfl
  | some l => simp [launch?_num hl]

theorem wx_wp_eq (r : Regs) (n m : Nat) (v : Val 64) (b : Bool) :
    (r.wx n v).wp m b = { r with x := (r.wx n v).x, p := (r.wp m b).p } := by
  unfold Regs.wx Regs.wp
  split <;> split <;> rfl

/-- The registers after WTAKE has taken a step: xD and pF are written too. -/
def enteredRegs (d : BitVec 6) (p : BitVec 7) (c : Ctx) : Regs :=
  ((stepTaken c).regs.wx d.toNat ⟨c.regs.wrlo.setWidth 64, false⟩).wp p.toNat false
/-- The bank then: the bundle ends at the entry `e`, which is to be checked. -/
def enteredBank (d : BitVec 6) (p : BitVec 7) (e : Word64) (c : Ctx) : Ctx :=
  { stepTaken c with regs := enteredRegs d p c, issue := { c.issue with target := some e }, chk := true }

section
variable (d : BitVec 6) (p : BitVec 7) (e : Word64) (c : Ctx)
theorem enteredBank_occ : (enteredBank d p e c).occ = c.occ := rfl
theorem enteredBank_pc : (enteredBank d p e c).pc = c.pc := rfl
theorem enteredBank_younger : (enteredBank d p e c).younger = c.younger := rfl
theorem enteredBank_issue : (enteredBank d p e c).issue = { c.issue with target := some e } := rfl
theorem enteredBank_chk : (enteredBank d p e c).chk = true := rfl
theorem enteredBank_regs : (enteredBank d p e c).regs = enteredRegs d p c := rfl
theorem enteredBank_launch : (enteredBank d p e c).regs.launch = c.regs.launch := by
  rw [enteredBank_regs, enteredRegs, wx_wp_eq]; rfl
end

/-- The state in which WTAKE has been granted a step, before its slot ends: of its bank the registers, the marks, the bundle's target and
the check to come have changed, and of the rest the launch, the commands that wait for it, and what a read changes. -/
structure Entered (d : BitVec 6) (p : BitVec 7) (s t : State) : Prop where
  cur : t.cur = s.cur
  own : t.ctx s.cur = enteredBank d p (s.codeEntry (s.launchOf s.cur)) (s.ctx s.cur)
  others : ∀ k, k ≠ s.cur → t.ctx k = s.ctx k
  launch : t.launchOf s.cur = oneTaken (s.launchOf s.cur)
  mem : t.mem = s.mem
  cores : t.cores = s.cores

section
variable {s u : State} (h : Granted s u)
include h

theorem Granted.launchOf_eq : u.launchOf s.cur = oneTaken (s.launchOf s.cur) :=
  launchOf_oneTaken (by rw [h.own]; rfl) h.launches
theorem Granted.codeEntry_eq : u.codeEntry (u.launchOf s.cur) = s.codeEntry (s.launchOf s.cur) := by
  have hpeek : ∀ a, u.peek a = s.peek a := fun a => by
    simp only [State.peek, State.psnAt, State.cell, State.core, h.mem, h.cores, h.psn]
  have hcsr : ∀ o, u.csr o = s.csr o := fun o => by rw [State.csr, h.dev, State.csr]
  rw [h.launchOf_eq]
  simp only [State.codeEntry, State.peekNat, State.peekN, hpeek, hcsr, oneTaken]

end

theorem Granted.entered {s u : State} (h : Granted s u) (d : BitVec 6) (p : BitVec 7) :
    Entered d p s (entered d p s.cur u s.regs.wrlo) := by
  unfold Steps.entered
  rw [h.codeEntry_eq]
  extract_lets v
  have hv : v = u.setCtx s.cur { u.ctx s.cur with
      regs := ((u.ctx s.cur).regs.wx d.toNat ⟨s.regs.wrlo.setWidth 64, false⟩).wp p.toNat false } := by
    simp only [v, State.modRegs, State.modCtx_eq, h.cur]
  have hw : OnlyMemory v (v.readCode (v.launchOf s.cur)) := v.touchRead_only _ _ _
  have hread : (v.readCode (v.launchOf s.cur)).mem = v.mem := mem_touchRead v _ _ _
  generalize v.readCode (v.launchOf s.cur) = w at hw hread
  have hcur : w.cur = s.cur := by rw [hw.cur, hv, State.setCtx_cur, h.cur]
  have hcores : w.cores = s.cores := by rw [hw.cores, hv, State.setCtx_cores, h.cores]
  have hlaunches : w.launches = u.launches := by rw [hw.launches, hv, State.setCtx_launches]
  have hmem : w.mem = s.mem := by rw [hread, hv, State.setCtx_mem, h.mem]
  have hctx : w.ctx s.cur = { stepTaken (s.ctx s.cur) with regs := enteredRegs d p (s.ctx s.cur) } := by
    rw [hw.ctx, hv, State.ctx_setCtx_same, h.own]
    rfl
  have hothers : ∀ k, k ≠ s.cur → w.ctx k = s.ctx k := fun k hk => by
    rw [hw.ctx, hv, State.ctx_setCtx_other _ _ _ _ hk, h.others k hk]
  simp only [State.jump, State.modCtx_eq, hcur, State.ctx_setCtx_same, State.setCtx_setCtx, hctx]
  have hown : State.ctx (w.setCtx s.cur (enteredBank d p (s.codeEntry (s.launchOf s.cur)) (s.ctx s.cur))) s.cur = _ :=
    State.ctx_setCtx_same _ _ _
  exact {
    cur := (State.setCtx_cur _ _ _).trans hcur
    own := hown
    others := fun k hk => (State.ctx_setCtx_other _ _ _ _ hk).trans (hothers k hk)
    launch := launchOf_oneTaken ((congrArg (fun c : Ctx => c.regs.launch) hown).trans (enteredBank_launch _ _ _ _))
      ((State.setCtx_launches _ _ _).trans (hlaunches.trans h.launches))
    mem := (State.setCtx_mem _ _ _).trans hmem
    cores := (State.setCtx_cores _ _ _).trans hcores }

/-! ### The results in xD and pF -/

theorem rx_wx_same (r : Regs) (d : BitVec 6) (v : Val 64) : (r.wx d.toNat v).rx d.toNat = xAfter d v := by
  by_cases hd : d = 0
  · simp [xAfter, hd]
  · rw [Regs.rx_wx, if_neg (BitVec_toNat_ne_zero d hd), if_pos rfl, xAfter, if_neg hd]
theorem rp_wp_same (r : Regs) (p : BitVec 7) (b : Bool) : (r.wp p.toNat b).rp p.toNat = pAfter p b := by
  by_cases hp : p = 0
  · simp [pAfter, hp]
  · have hne : p.toNat ≠ 0 := fun h => hp (BitVec.eq_of_toNat_eq (by simpa using h))
    rw [Regs.rp_wp, if_neg hne, if_pos rfl, pAfter, if_neg hp]
theorem rp_wp_other (r : Regs) {n m : Nat} (b : Bool) (h : m ≠ n) : (r.wp n b).rp m = r.rp m := by
  rw [Regs.rp_wp, if_neg h]
  split
  next h0 => rw [h0]; rfl
  next => rfl

/-- xD and pF hold what WTAKE gives them, and every other register what it held (R63). -/
theorem wtake_results (r : Regs) (d : BitVec 6) (p : BitVec 7) (v : Val 64) (b : Bool) {r' : Regs} (h : r' = (r.wx d.toNat v).wp p.toNat b) :
    r' = { r with x := r'.x, p := r'.p } ∧ r'.rx d.toNat = xAfter d v ∧ r'.rp p.toNat = pAfter p b ∧
      (∀ m, m ≠ d.toNat → r'.rx m = r.rx m) ∧ ∀ m, m ≠ p.toNat → r'.rp m = r.rp m := by
  have heq := wx_wp_eq r d.toNat p.toNat v b
  rw [← h] at heq
  have hx : ∀ m, r'.rx m = (r.wx d.toNat v).rx m := fun m => by rw [heq]; rfl
  have hp : ∀ m, r'.rp m = (r.wp p.toNat b).rp m := fun m => by rw [heq]; rfl
  refine ⟨by rw [heq], ?_, ?_, fun m hm => ?_, fun m hm => ?_⟩
  · rw [hx, rx_wx_same]
  · rw [hp, rp_wp_same]
  · rw [hx, (onlyX_wx r d.toNat v).2 m hm]
  · rw [hp, rp_wp_other r b hm]

/-! ### The three outcomes of WTAKE -/

/-- A step granted, the bank saved at the boundary, or no step left. -/
theorem wtakeGrants : Sys2Proof.Parts.WtakeGrants := by
  unfold Sys2Proof.Parts.WtakeGrants
  intro s st d p run c l r0
  refine ⟨fun hretry hclose hfaulted hrange => ?_, fun hopen hretry hclosed q hq => ?_, fun hretry hclose hnone => ?_⟩
  · obtain ⟨u, hgrant, hgranted⟩ := grant_granted s
    have htake : (s.closeStep s.cur).take s.cur = (u, .granted s.regs.wrlo) := by
      rw [take_granted (by rwa [launchOf_closeStep]) (by rw [closeStep_regs]; exact hrange), hgrant]
    obtain ⟨hcur, hown, hothers, hlaunch, hmem, hcores⟩ := hgranted.entered d p
    generalize hv : entered d p s.cur u s.regs.wrlo = v at hcur hown hothers hlaunch hmem hcores
    have hexec : exec (.wtake st d p) s = .next v.retire :=
      (execWtake_takes d p hretry hclose).trans (slotOut_ok (by simp only [takes, htake, hv]))
    have hissue : (v.ctx s.cur).issue = { (s.ctx s.cur).issue with target := some (s.codeEntry l) } := by rw [hown, enteredBank_issue]
    have hocc : (v.ctx s.cur).occ = (s.ctx s.cur).occ := by rw [hown, enteredBank_occ]
    have hend := retire_retires (running_of_issue run hcur hissue hocc)
    have hregs : v.retire.regs = enteredRegs d p (s.ctx s.cur) := by rw [hend.regs, State.regs, hcur, hown, enteredBank_regs]
    obtain ⟨heq, hx, hp, hxs, hps⟩ := wtake_results _ d p _ _ hregs
    refine ⟨_, hexec, goesTo_retire run hcur hissue hocc (by rw [hown, enteredBank_younger]) (by rw [hown, enteredBank_pc]), ?_, ?_,
      fun k hk => ?_, sameBytes_of_mem (hend.mem.trans hmem) (hend.cores.trans hcores), heq, hx, hp, hxs, hps⟩
    · rw [← hcur, hend.chk, hcur, hown, enteredBank_chk]
    · rw [← hcur, hend.launchOf, hcur, hlaunch]
      rfl
    · rw [hend.others k (by rwa [hcur]), hothers k hk]
  · have hsaved := save_savedTo (s.closeStep s.cur) s.cur false (some (q.launch, q.task))
    exact ⟨_, execWtake_saves d p hretry hopen hclosed hq, hsaved.occ, hsaved.last⟩
  · have htake : (s.closeStep s.cur).take s.cur = (s.closeStep s.cur, .exhausted) :=
      take_exhausted (by rw [launchOf_closeStep, closeStep_regs]; exact hnone)
    have hexec : exec (.wtake st d p) s = regSlot
        (fun _ r => ({ r with openStep := false }.wx d.toNat ⟨BitVec.allOnes 64, false⟩).wp p.toNat true) s := by
      refine (execWtake_takes d p hretry hclose).trans ?_
      rw [slotOut_ok (by simp only [takes, htake]; rfl), regSlot]
      exact congrArg (fun t : State => Host.Outcome.next t.retire) (Lanes.modRegs_modRegs s (fun r => { r with openStep := false })
        fun r => (r.wx d.toNat ⟨BitVec.allOnes 64, false⟩).wp p.toNat true)
    exact gives_regSlot _ run hexec (wtake_results { s.regs with openStep := false } d p _ _ rfl)

/-! ## STEPEND (R66, R67) -/

/-- The emptied bank keeps its accumulators, its GEN and its reservation, and no other bank changes (R49, R78, R422). -/
structure Emptied (s t : State) (k : Nat) : Prop where
  occ : (t.ctx k).occ = .none
  regs : (t.ctx k).regs = { a := (s.ctx k).regs.a }
  gen : (t.ctx k).gen = (s.ctx k).gen
  others : ∀ j, j ≠ k → t.ctx j = s.ctx j
  launches : t.launches = s.launches
  active : (s.core (k / 2)).active = k % 2 → (s.ctx (otherBank k)).ready = true → (t.core (k / 2)).active = otherBank k % 2

theorem emptyBank_emptied (s : State) (k : Nat) : Emptied s (s.emptyBank k) k := by
  unfold State.emptyBank
  extract_lets c u v w
  have hown : w.ctx k = { gen := c.gen, lastLaunch := some (s.launchOf k).cmd, regs := { a := c.regs.a }, preempt := c.preempt } :=
    State.ctx_setCtx_same _ _ _
  have hothers : ∀ j, j ≠ k → w.ctx j = s.ctx j := fun j hj => State.ctx_setCtx_other _ _ _ _ hj
  have hcore : w.core (k / 2) = { s.core (k / 2) with replay := (s.core (k / 2)).replay.filter fun r => r.ctx ≠ k } :=
    State.core_setCore_same _ _ _
  have hactive : (w.core (k / 2)).active = (s.core (k / 2)).active := by rw [hcore]
  have hlaunches : w.launches = s.launches := rfl
  clear_value w
  split
  · exact ⟨by rw [ctx_handOver, hown], by rw [ctx_handOver, hown], by rw [ctx_handOver, hown], fun j hj => by rw [ctx_handOver, hothers j hj],
      by rw [launches_handOver, hlaunches], fun _ hready => active_handOver (by rwa [hothers _ (otherBank_ne k)])⟩
  · next hinactive =>
    refine ⟨by rw [hown], by rw [hown], by rw [hown], hothers, hlaunches, fun ha _ => absurd ?_ hinactive⟩
    rw [State.isActive, hactive, ha, decide_eq_true rfl]

/-- A task that ends has left its cohorts and its commands: its bank is drained, and its launch counts it as ended. -/
structure TaskLeft (s t : State) (k : Nat) : Prop where
  own : t.ctx k = { s.ctx k with wc := [] }
  others : ∀ j, j ≠ k → t.ctx j = s.ctx j
  cores : t.cores = s.cores
  launches : t.launches = (s.modLaunch (s.launchOf k).num (counted (s.ctx k).regs.task.toNat)).launches

theorem passSwaps_aside (s : State) (n t : Nat) : Aside s (s.passSwaps n t) := ⟨rfl, rfl, rfl⟩

theorem endTask_eq (s : State) (k : Nat) : ∃ u, TaskLeft s u k ∧ s.endTask k = u.emptyBank k := by
  unfold State.endTask
  extract_lets c task l v
  obtain ⟨d, hd, hdrain⟩ := drainAll_eq s k
  have hgone : Aside (s.drainAll k) v := taskGone_aside _ _ _ _ _
  obtain ⟨w, hw, hleft⟩ := leaveAll_eq v l task
  have hleft := hleft.trans (passSwaps_aside _ l.num task)
  have hw := hgone.trans hw
  rw [hdrain] at hw
  have hctx : ∀ j, State.ctx (State.passSwaps (v.leaveAll l task) l.num task) j = (d.setCtx k { c with wc := [] }).ctx j := fun j => by
    rw [hleft.ctx, ctx_modLaunch, hw.ctx]
  refine ⟨_, ⟨(hctx k).trans (State.ctx_setCtx_same _ _ _), fun j hj => ?_, ?_, ?_⟩, rfl⟩
  · rw [hctx, State.ctx_setCtx_other _ _ _ _ hj, hd.ctx]
  · exact hleft.cores.trans (hw.cores.trans ((State.setCtx_cores _ _ _).trans hd.cores))
  · rw [hleft.launches, State.modLaunch, hw.launches, State.setCtx_launches, hd.launches]
    rfl

section
variable {s : State}
theorem execStepend_closes (hopen : (s.ctx s.cur).regs.openStep = true) (hpre : (s.ctx s.cur).preempt = none)
    (hclosed : s.closable s.cur false = true) : execStepend s = .next (s.closeStep s.cur).retire := by
  simp only [execStepend, hopen, hclosed, hpre, if_true, Bool.not_true, Bool.false_eq_true, if_false]
theorem execStepend_ends (hopen : (s.ctx s.cur).regs.openStep = false) (hclosed : s.closable s.cur true = true) :
    execStepend s = .next (s.endTask s.cur) := by
  simp only [execStepend, hopen, hclosed, Bool.not_true, Bool.false_eq_true, if_false]
theorem execStepend_waits (hwait : s.closable s.cur (!(s.ctx s.cur).regs.openStep) = false) : execStepend s = .next s.stall := by
  cases hopen : (s.ctx s.cur).regs.openStep <;> rw [hopen] at hwait <;>
    simp only [Bool.not_true, Bool.not_false] at hwait <;> simp [execStepend, hopen, hwait]
end

/-- A slot that waits changes nothing of its context but what it waits for. -/
theorem stall_waits (s : State) : s.stall.regs = s.regs ∧ (s.stall.ctx s.cur).issue = (s.ctx s.cur).issue ∧
    ∀ j, j ≠ s.cur → s.stall.ctx j = s.ctx j := by
  obtain ⟨waits, hown⟩ : ∃ waits, s.stall.ctx s.cur = { s.ctx s.cur with waits } := ⟨_, State.ctx_setCtx_same _ _ _⟩
  refine ⟨?_, by rw [hown], fun j hj => State.ctx_setCtx_other _ _ _ _ hj⟩
  show (s.stall.ctx s.cur).regs = _
  rw [hown]
  rfl

/-- An open step closes, a task with none ends, and one whose work is out waits. -/
theorem stependCloses : Sys2Proof.Parts.StependCloses := by
  unfold Sys2Proof.Parts.StependCloses
  intro s st run k c
  refine ⟨fun hopen hpre hclosed => ?_, fun hopen hclosed => ?_, fun hwait => ?_⟩
  · exact gives_regSlot (fun _ r => { r with openStep := false }) run (execStepend_closes hopen hpre hclosed) rfl
  · obtain ⟨u, hu, hend⟩ := endTask_eq s k
    have he := emptyBank_emptied u k
    refine ⟨_, (execStepend_ends hopen hclosed).trans (congrArg _ hend), he.occ, by rw [he.regs, hu.own], by rw [he.gen, hu.own],
      fun j hj => by rw [he.others j hj, hu.others j hj], fun l hl => ?_, fun hactive hready => he.active ?_ ?_⟩
    · have hnum := launch?_num hl
      have hfind := launch?_modLaunch s l.num l.num (f := counted c.regs.task.toNat) fun _ => rfl
      rw [hnum, hl, Option.map_some, if_pos hnum, State.launch?] at hfind
      rw [State.launch?, he.launches, hu.launches, launchOf_of_some hl, hnum, hfind]
      exact congrArg some (contains_counted _ _)
    · rw [State.core, hu.cores]; exact hactive
    · rw [hu.others _ (otherBank_ne k)]; exact hready
  · exact ⟨_, execStepend_waits hwait, stall_waits s⟩

/-! ## SWITCH and YIELD (R49) -/

theorem touched_refl (s : State) : Touched s s := ⟨rfl, fun _ _ => rfl, rfl, rfl, rfl, rfl, rfl, rfl⟩
/-- A slot without an effect. -/
theorem gives_retire {s : State} {i : Instr} (run : Running s) (h : exec i s = .next s.retire) : Gives s i (· = s.regs) :=
  (touched_refl s).gives run h rfl rfl

theorem execSwitch_not_ready {s : State} (h : (s.ctx (otherBank s.cur)).ready = false) : execSwitch s = .next s.retire := by
  rw [execSwitch, handOver_of_not_ready h]

section
variable {s : State}
theorem execYield_ready (h : (s.ctx (otherBank s.cur)).ready = true) : execYield s = .next (s.handOver s.cur).retire := by
  simp only [execYield, h, if_true]

variable (h : (s.ctx (otherBank s.cur)).ready = false)
include h
theorem execYield_nothing (hno : s.regs.openStep = true ∨ s.yieldTo s.cur = none) : execYield s = .next s.retire := by
  simp only [execYield, h, Bool.false_eq_true, if_false]
  cases hto : s.yieldTo s.cur with
  | none => rfl
  | some e => exact if_pos (hno.resolve_right (by simp [hto]))
theorem execYield_saves (hopen : s.regs.openStep = false) (hclosed : s.closable s.cur true = true) {e : Ready}
    (hto : s.yieldTo s.cur = some e) : execYield s = .next (s.retire.save s.cur false (some (e.launch, e.task))) := by
  rw [State.regs] at hopen
  simp only [execYield, h, hto, hopen, hclosed, Bool.not_true, Bool.false_eq_true, if_false]
end

/-- A ready standby takes the core over, and the context's control goes on. -/
theorem handOver_switches {s : State} (run : Running s) (hready : (s.ctx (otherBank s.cur)).ready = true) :
    let t := (s.handOver s.cur).retire
    t.regs = s.regs ∧ (∀ j, j ≠ s.cur → t.ctx j = s.ctx j) ∧ GoesTo s t (s.ctx s.cur).issue.target ∧
      (t.core (s.cur / 2)).active = otherBank s.cur % 2 := by
  have hcur := cur_handOver s s.cur
  have hctx := ctx_handOver s s.cur
  have hactive := active_handOver hready
  generalize s.handOver s.cur = u at hcur hctx hactive
  have hissue : (u.ctx s.cur).issue = { (s.ctx s.cur).issue with target := (s.ctx s.cur).issue.target } := by rw [hctx]
  have hend := retire_retires (running_of_issue run hcur hissue (by rw [hctx]))
  refine ⟨?_, fun j hj => ?_, goesTo_retire run hcur hissue (by rw [hctx]) (by rw [hctx]) (by rw [hctx]), ?_⟩
  · rw [hend.regs, State.regs, hcur, hctx, State.regs]
  · rw [hend.others j (by rwa [hcur]), hctx]
  · rw [State.core, hend.cores]
    exact hactive

/-- With a ready standby the core changes banks; without one only YIELD, with no step open, gives its bank to a task. -/
theorem switchYield : Sys2Proof.Parts.SwitchYield := by
  unfold Sys2Proof.Parts.SwitchYield
  intro s st run k switched
  refine ⟨fun hready => ?_, fun hready => ⟨?_, fun hno => ?_, fun e hopen hclosed hto => ?_⟩⟩
  · have hswitch := handOver_switches run hready
    exact ⟨⟨_, rfl, hswitch⟩, ⟨_, execYield_ready hready, hswitch⟩⟩
  · exact gives_retire run (execSwitch_not_ready hready)
  · exact gives_retire run (execYield_nothing hready hno)
  · have hsaved := save_savedTo s.retire k false (some (e.launch, e.task))
    exact ⟨_, execYield_saves hready hopen hclosed hto, hsaved.occ, hsaved.last⟩

/-- Settles O18: a grant, a save or exhaustion for WTAKE; the closing of a step and the end of a task; the change of banks. -/
theorem stepsAndSwitch : Obligations.StepsAndSwitch := by
  unfold Obligations.StepsAndSwitch
  exact ⟨wtakeGrants, stependCloses, switchYield⟩

end Sys2Proof.Steps
end

section
/-! SUPPORT. The dispatchers (R60, R63 to R65, R77, R382 to R385): steals, the placement of a task, aging, pre-emption and the end of a
save. -/
namespace Sys2Proof.Dispatching
open Sys2Proof Sys2Proof.Machine Sys2Proof.Banks

/-! ## STEAL, STEAL_RETRY (R63 to R65) -/

theorem starved_iff (s : State) (k : Nat) : s.starved k = true ↔
    (s.ctx k).occ = .resident ∧ (s.ctx k).retry ≠ 0 ∧ ¬ (s.ctx k).regs.wrlo < (s.ctx k).regs.wrhi := by
  simp [State.starved, and_assoc]
theorem canGive_iff (s : State) (v k : Nat) : s.canGive v k = true ↔
    v ≠ k ∧ (s.ctx v).occ = .resident ∧ (s.ctx v).regs.launch = (s.ctx k).regs.launch ∧
      (s.ctx v).regs.wrlo < (s.ctx v).regs.wrhi ∧ 2 ≤ ((s.ctx v).regs.wrhi - (s.ctx v).regs.wrlo).toNat := by
  simp [State.canGive, and_assoc]

/-! A thief that no longer waits, or whose microsecond has not passed, is left as it is. -/
theorem execSteal_not_starved {s : State} {thief victim : BitVec 12} (h : ¬ s.starved thief.toNat = true) :
    exec (.steal thief victim) s = .next s := by
  show execSteal thief victim s = _
  rw [execSteal, if_neg fun hg => h (Bool.and_eq_true_iff.mp hg).1]
theorem execSteal_gives {s : State} {thief victim : BitVec 12} (h : s.starved thief.toNat = true)
    (hg : s.canGive victim.toNat thief.toNat = true) : exec (.steal thief victim) s =
      .next ((s.giveHalf victim.toNat thief.toNat).modCtx thief.toNat fun c => { c with retry := 0 }) := by
  show execSteal thief victim s = _
  rw [execSteal, if_pos (Bool.and_eq_true_iff.mpr ⟨h, hg⟩)]
theorem execStealRetry_passes {s : State} {thief : BitVec 12} (h : s.starved thief.toNat = true) (hdue : (s.ctx thief.toNat).retry ≤ s.gt) :
    exec (.stealRetry thief) s = .next (s.modCtx thief.toNat fun c => { c with retry := 0 }) := by
  show execStealRetry thief s = _
  rw [execStealRetry, if_pos (Bool.and_eq_true_iff.mpr ⟨h, decide_eq_true hdue⟩)]
theorem execStealRetry_waits {s : State} {thief : BitVec 12} (h : ¬ s.starved thief.toNat = true ∨ s.gt < (s.ctx thief.toNat).retry) :
    exec (.stealRetry thief) s = .next s := by
  show execStealRetry thief s = _
  rw [execStealRetry, if_neg fun hg => ?_]
  obtain ⟨hs, hdue⟩ := Bool.and_eq_true_iff.mp hg
  exact h.elim (fun h => h hs) (Nat.not_lt.mpr (of_decide_eq_true hdue))

/-- The victim's upper half is the thief's range, and no other bank changes. -/
theorem giveHalf_ctx (s : State) {v k : Nat} (hne : v ≠ k) :
    let g := ((s.ctx v).regs.wrhi - (s.ctx v).regs.wrlo) / 2
    (s.giveHalf v k).ctx v = { s.ctx v with regs := { (s.ctx v).regs with wrhi := (s.ctx v).regs.wrhi - g } } ∧
      (s.giveHalf v k).ctx k =
        { s.ctx k with regs := { (s.ctx k).regs with wrlo := (s.ctx v).regs.wrhi - g, wrhi := (s.ctx v).regs.wrhi } } ∧
      ∀ j, j ≠ k → j ≠ v → (s.giveHalf v k).ctx j = s.ctx j := by
  refine ⟨?_, ?_, fun j hk hv => ?_⟩
  · rw [State.giveHalf, State.modCtx_eq, State.ctx_setCtx_other _ _ _ _ hne, State.modCtx_eq, State.ctx_setCtx_same]
  · rw [State.giveHalf, State.modCtx_eq, State.ctx_setCtx_same, State.modCtx_eq, State.ctx_setCtx_other _ _ _ _ hne.symm]
  · rw [State.giveHalf, State.modCtx_eq, State.ctx_setCtx_other _ _ _ _ hk, State.modCtx_eq, State.ctx_setCtx_other _ _ _ _ hv]

/-- A thief that waits is given half, or makes its pass again; one that does not wait is left alone. -/
theorem stealEvents : Sys2Proof.Parts.StealEvents := by
  unfold Sys2Proof.Parts.StealEvents
  intro s thief victim k v c w g starved
  have hstarved : s.starved k = true ↔ starved := starved_iff s k
  refine ⟨fun hs hne hres hlaunch hrange htwo => ?_, fun hs hdue => ?_, fun hno => ?_, fun hno => ?_⟩
  · obtain ⟨hv, hk, hothers⟩ := giveHalf_ctx s hne
    have hgive := (canGive_iff s v k).mpr ⟨hne, hres, hlaunch, hrange, htwo⟩
    refine ⟨_, execSteal_gives (hstarved.mpr hs) hgive, ?_, ?_, fun j hjk hjv => ?_, rfl⟩
    · rw [State.modCtx_eq, State.ctx_setCtx_other _ _ _ _ hne, hv]
    · rw [State.modCtx_eq, State.ctx_setCtx_same, hk]
    · rw [State.modCtx_eq, State.ctx_setCtx_other _ _ _ _ hjk, hothers j hjk hjv]
  · exact ⟨_, execStealRetry_passes (hstarved.mpr hs) hdue, State.ctx_setCtx_same _ _ _, fun j hj => State.ctx_setCtx_other _ _ _ _ hj, rfl⟩
  · exact execStealRetry_waits (by rwa [hstarved])
  · exact execSteal_not_starved (by rwa [hstarved])

/-! ## COLUMN_DISPATCH (R60, R382) -/

/-- `t` has the ready list, the clock and the next incarnation of `s`, and its banks their GEN. -/
structure Prepared (s t : State) : Prop where
  gen : ∀ k, (t.ctx k).gen = (s.ctx k).gen
  gt : t.gt = s.gt
  nextInc : t.nextInc = s.nextInc
  ready : t.ready = s.ready

theorem Prepared.trans {s t u : State} (h : Prepared s t) (h' : Prepared t u) : Prepared s u :=
  ⟨fun k => (h'.gen k).trans (h.gen k), h'.gt.trans h.gt, h'.nextInc.trans h.nextInc, h'.ready.trans h.ready⟩
theorem prepared_of_onlyMemory {s t : State} (h : OnlyMemory s t) : Prepared s t :=
  ⟨fun k => by rw [h.ctx], h.gt, h.nextInc, h.ready⟩
/-- A change of a bank that keeps its GEN. -/
theorem prepared_modCtx (s : State) (k : Nat) (f : Ctx → Ctx) (hf : ∀ c, (f c).gen = c.gen) : Prepared s (s.modCtx k f) := by
  refine ⟨fun j => ?_, rfl, rfl, rfl⟩
  by_cases hj : j = k
  · rw [hj, State.modCtx_eq, State.ctx_setCtx_same, hf]
  · rw [State.modCtx_eq, State.ctx_setCtx_other _ _ _ _ hj]
theorem prepared_modCore (s : State) (core : Nat) (f : Core → Core) : Prepared s (s.modCore core f) := ⟨fun _ => rfl, rfl, rfl, rfl⟩
theorem prepared_modLaunch (s : State) (n : Nat) (f : Launch → Launch) : Prepared s (s.modLaunch n f) := ⟨fun _ => rfl, rfl, rfl, rfl⟩

/-- A placement clears the scratchpad and the accumulators of a core, and loads the launch's image (R78). -/
theorem prepare_prepared (s : State) (k : Nat) (l : Launch) : Prepared s (s.prepare k l) := by
  unfold State.prepare
  extract_lets core bare u v bs
  have hbare : ∀ c, (bare c).gen = c.gen := fun _ => rfl
  split
  · split
    · exact ⟨fun _ => rfl, rfl, rfl, rfl⟩
    · exact prepared_modCtx s k bare hbare
  · have hu : Prepared s u := (prepared_of_onlyMemory (State.zeroScratch_only s core)).trans (prepared_modCore _ _ _)
    have hv : Prepared s v := (hu.trans (prepared_modCtx u _ bare hbare)).trans (prepared_modCtx _ _ bare hbare)
    exact hv.trans (prepared_of_onlyMemory ((State.touchRead_only v _ _ _).trans (State.pokeL_only _ _ _ _)))

/-- The registers and the state of a bank into which `s` places task entry `e` with the range `h` (R60). -/
structure Placed (s t : State) (k : Nat) (l : Launch) (e : Ready) (h : HeldRange) : Prop where
  occ : (t.ctx k).occ = .resident
  placing : (t.ctx k).placing = true
  placedAt : (t.ctx k).placedAt = s.gt
  inc : (t.ctx k).inc = s.nextInc
  gen : (t.ctx k).gen = (s.ctx k).gen + 1
  nextInc : t.nextInc = s.nextInc + 1
  ready : t.ready = s.ready
  pf : (t.ctx k).pf = []
  regs : (t.ctx k).regs = { a := (s.ctx k).regs.a, c := [(0, { bits := l.arg, tag := true })], launch := BitVec.ofNat 16 l.num
                            task := BitVec.ofNat 12 e.task, qdepth := 64, prio := BitVec.ofNat 2 e.prio
                            wrlo := BitVec.ofNat 41 h.lo, wrhi := BitVec.ofNat 41 h.hi }

theorem placeNew_placed (s : State) (k : Nat) (l : Launch) (e : Ready) (h : HeldRange) : Placed s (s.placeNew k l e h) k l e h := by
  unfold State.placeNew
  extract_lets c r
  exact {
    occ := congrArg Ctx.occ (State.ctx_setCtx_same _ k _)
    placing := congrArg Ctx.placing (State.ctx_setCtx_same _ k _)
    placedAt := congrArg Ctx.placedAt (State.ctx_setCtx_same _ k _)
    inc := congrArg Ctx.inc (State.ctx_setCtx_same _ k _)
    gen := congrArg Ctx.gen (State.ctx_setCtx_same _ k _)
    nextInc := State.setCtx_nextInc _ _ _
    ready := State.setCtx_ready _ _ _
    pf := congrArg Ctx.pf (State.ctx_setCtx_same _ k _)
    regs := congrArg Ctx.regs (State.ctx_setCtx_same _ k _) }

/-- The ready lists without the entry of `e`'s task. -/
def unlisted (s : State) (e : Ready) : State :=
  { s with ready := s.ready.filter fun f => !(f.launch = e.launch && f.task = e.task) }

theorem place_unsaved {s : State} {k : Nat} {e : Ready} {l : Launch} (hl : s.launch? e.launch = some l) (hsaved : e.saved = none) :
    s.place k e =
      let h := (l.held.find? fun h => h.task = e.task).getD ⟨e.task, 0, 0⟩
      let t := ((((unlisted s e).prepare k l).modCtx k fun c => { c with preempt := none }).modLaunch l.num fun l =>
        { l with held := l.held.erase h }).placeNew k l e h
      if (t.ctx k).ready then t.wake k else t.resumePages k := by
  rw [State.place, hl]
  simp only [hsaved]
  rfl

/-- The placement of a task that was not saved: its entry leaves the list, and its bank takes it up. -/
theorem place_new {s : State} {k : Nat} {e : Ready} {l : Launch} (hl : s.launch? e.launch = some l) (hsaved : e.saved = none) :
    ∃ u, Prepared (unlisted s e) u ∧
      Placed u (s.place k e) k l e ((l.held.find? fun h => h.task = e.task).getD ⟨e.task, 0, 0⟩) := by
  rw [place_unsaved hl hsaved]
  dsimp only
  generalize (l.held.find? fun h => h.task = e.task).getD ⟨e.task, 0, 0⟩ = h
  have hu := ((prepare_prepared (unlisted s e) k l).trans (prepared_modCtx _ k (fun c => { c with preempt := none }) fun _ => rfl)).trans
    (prepared_modLaunch _ l.num fun l => { l with held := l.held.erase h })
  generalize State.modLaunch _ l.num _ = u at hu
  have hp := placeNew_placed u k l e h
  generalize u.placeNew k l e h = t at hp
  have hready : (t.ctx k).ready = true := by simp [Ctx.ready, hp.occ, hp.pf]
  obtain ⟨cores, hwake⟩ := wake_eq t k
  refine ⟨u, hu, ?_⟩
  rw [if_pos hready, hwake]
  exact ⟨hp.occ, hp.placing, hp.placedAt, hp.inc, hp.gen, hp.nextInc, hp.ready, hp.pf, hp.regs⟩

/-- An entry that is passed over counts it (R381). -/
def passedBy (passed : List Ready) (q : Ready) : Ready :=
  if passed.any fun f => f.is q.launch q.task then { q with bypassed := q.bypassed + 1 } else q

theorem passedBy_eq (passed : List Ready) (q : Ready) : ∃ n, passedBy passed q = { q with bypassed := n } := by
  unfold passedBy
  split
  · exact ⟨_, rfl⟩
  · exact ⟨q.bypassed, rfl⟩

section
variable {s : State} {col : BitVec 4} (hfree : s.reserved col.toNat = none)
include hfree
theorem columnDispatch_full (h : s.threshold col.toNat ≤ s.occupancy col.toNat) : exec (.columnDispatch col) s = .next s := by
  show execColumnDispatch col s = _
  simp only [execColumnDispatch, hfree, Nat.not_lt.mpr h, if_false]
theorem columnDispatch_places (h : s.occupancy col.toNat < s.threshold col.toNat) {k : Nat} (hk : s.firstFree col.toNat = some k)
    {e : Ready} {passed : List Ready} (hpick : s.pick col.toNat = some (e, passed)) : exec (.columnDispatch col) s = .next
      (State.place { s with ready := s.ready.map (passedBy passed), dealt := dealNext s.dealt col.toNat } k (passedBy passed e)) := by
  show execColumnDispatch col s = _
  simp only [execColumnDispatch, hfree, h, hk, hpick, if_true]
  rfl
end

/-- A full column places nothing, and one below its threshold the picked task. -/
theorem columnDispatch : Sys2Proof.Parts.ColumnDispatch := by
  unfold Sys2Proof.Parts.ColumnDispatch
  intro s col hfree
  refine ⟨columnDispatch_full hfree, fun hbelow k e passed l hk hpick hsaved hl => ?_⟩
  obtain ⟨n, hn⟩ := passedBy_eq passed e
  have hexec := columnDispatch_places hfree hbelow hk hpick
  rw [hn] at hexec
  obtain ⟨u, hu, hp⟩ := place_new (s := { s with ready := s.ready.map (passedBy passed), dealt := dealNext s.dealt col.toNat }) (k := k)
    (e := { e with bypassed := n }) hl hsaved
  refine ⟨_, hexec, hp.occ, hp.placing, hp.placedAt.trans hu.gt, hp.inc.trans hu.nextInc, ?_, ?_, ?_, fun f hf => ?_⟩
  · rw [hp.nextInc, hu.nextInc]; rfl
  · rw [hp.gen, hu.gen]; rfl
  · dsimp only
    rw [hp.regs, launch?_num hl]
    exact ⟨rfl, rfl, rfl, rfl, rfl, rfl, rfl, rfl, rfl, fun m hm => by simp [Regs.rc, Sparse.get, Sparse.find, hm.symm],
      fun m => by simp [Regs.rx, Sparse.get, Sparse.find],
      fun _ _ => rfl, rfl⟩
  · rw [hp.ready, hu.ready] at hf
    simpa [imp_iff_not_or] using (List.mem_filter.mp hf).2

/-! ## TASK_AGING (R383) -/

theorem aged_iff (s : State) (e : Ready) : s.aged e = true ↔ s.aging ≠ 0 ∧ e.prio ≠ 0 ∧ e.since + s.aging * 65536000 ≤ s.gt := by
  rw [show (65536000 : Nat) = microsecond from rfl]
  simp [State.aged, and_assoc]

/-! ## PREEMPT_REQUEST, FORCED_SAVE, SAVE_COMPLETE (R385, R77) -/

section
variable {s : State} {p : BitVec 2}
theorem preemptRequest_names {e : Ready} {k : Nat} (h : s.wants p.toNat = some (e, k)) : exec (.preemptRequest p) s =
    .next (s.modCtx k fun c => { c with preempt := some { at_ := s.gt, launch := e.launch, task := e.task } }) := by
  show execPreemptRequest p s = _
  rw [execPreemptRequest, h]
theorem preemptRequest_none (h : s.wants p.toNat = none) : exec (.preemptRequest p) s = .next s := by
  show execPreemptRequest p s = _
  rw [execPreemptRequest, h]
end

section
variable {s : State} {ctx : BitVec 12}
theorem forcedSave_none (h : (s.ctx ctx.toNat).preempt = none) : exec (.forcedSave ctx) s = .next s := by
  show execForcedSave ctx s = _
  rw [execForcedSave, h]
theorem forcedSave_saves {r : Preempt} (hr : (s.ctx ctx.toNat).preempt = some r) (hres : (s.ctx ctx.toNat).occ = .resident)
    (hhalt : (s.ctx ctx.toNat).halt = 0) (hgrace : r.at_ + s.grace * 65536000 ≤ s.gt) (hquiet : s.quiet ctx.toNat = true) :
    exec (.forcedSave ctx) s = .next (s.save ctx.toNat true (some (r.launch, r.task))) := by
  have hover : s.graceOver ctx.toNat = true := by simp [State.graceOver, hr, hres, hhalt, microsecond, hgrace]
  show execForcedSave ctx s = _
  simp only [execForcedSave, hr, hover, hquiet, Bool.and_true, if_true]

/-- The bank whose context is saved: empty, with its accumulators kept (R49). -/
def vacated (c : Ctx) : Ctx := { c with occ := .none, regs := { a := c.regs.a } }

/-- The save of bank `k` is over: the bank is empty, and the context is in its list. -/
def saveOver (s : State) (k : Nat) (e : Ready) : State :=
  ((({ s with saving := s.saving.filter fun w => w.ctx ≠ k } : State).modCtx k vacated).enlist { e with arrival := s.gt, since := s.gt })

/-- A context of a launch without a fault, whose bank is kept for no entry, takes its place in its list. -/
theorem saveComplete_over {v : Saving} {l : Launch} (hv : s.saving.find? (fun v => v.ctx = ctx.toNat) = some v)
    (hl : s.launch? v.entry.launch = some l) (hfaulted : l.faulted = false) (hwanted : v.wanted = none) :
    exec (.saveComplete ctx) s = .next (saveOver s ctx.toNat v.entry) := by
  have hno : ¬ ((saveOver s ctx.toNat v.entry).launch? v.entry.launch).map (·.faulted) = some true := by
    rw [show (saveOver s ctx.toNat v.entry).launch? v.entry.launch = some l from hl]
    simp [hfaulted]
  show execSaveComplete ctx s = _
  simp only [execSaveComplete, hv, hwanted, Option.bind_none]
  exact congrArg Host.Outcome.next (if_neg hno)
end

/-- A list takes an entry up and loses none. -/
theorem mem_enlist (s : State) (e f : Ready) : f ∈ (s.enlist e).ready ↔ f = e ∨ f ∈ s.ready := by
  simp only [State.enlist, List.mem_append, List.mem_filter, List.mem_singleton]
  cases f.before e <;> simp [or_comm]

/-- Aging, the naming of a victim, its forced save, and the end of a save. -/
theorem preemptionEvents : Sys2Proof.Parts.PreemptionEvents := by
  unfold Sys2Proof.Parts.PreemptionEvents
  intro s launch task ctx p k c
  refine ⟨⟨_, rfl, rfl, List.length_map .., fun i e hi => ?_⟩, fun e j hw => ?_, preemptRequest_none,
    fun r hr hres hhalt hgrace hquiet => ?_, forcedSave_none, fun v l hv hl hfaulted hwanted => ?_⟩
  · rw [List.getElem?_map, hi, Option.map_some]
    refine congrArg some (if_congr ?_ rfl rfl)
    simp [Ready.is, aged_iff, and_assoc]
  · exact ⟨_, preemptRequest_names hw, State.ctx_setCtx_same _ _ _, fun m hm => State.ctx_setCtx_other _ _ _ _ hm, rfl⟩
  · have hexec : exec (.forcedSave ctx) s = .next (s.save k true (some (r.launch, r.task))) := forcedSave_saves hr hres hhalt hgrace hquiet
    obtain ⟨hocc, hothers, e, hsaving, hlaunch, htask⟩ := save_savedTo s k true (some (r.launch, r.task))
    refine ⟨_, hexec, hocc, hothers, by simp [hsaving], ?_⟩
    simp [hsaving, hlaunch, htask, c]
  · refine ⟨_, saveComplete_over hv hl hfaulted hwanted, congrArg Ctx.occ (State.ctx_setCtx_same _ _ _),
      congrArg Ctx.regs (State.ctx_setCtx_same _ _ _), fun m hm => State.ctx_setCtx_other _ _ _ _ hm, fun w hw => ?_,
      (mem_enlist _ _ _).mpr (.inl rfl), fun e he => (mem_enlist _ _ _).mpr (.inr he)⟩
    exact of_decide_eq_true (List.mem_filter.mp hw).2

/-- Settles O30: a waiting thief's half, the picked task in a free bank, and a victim's way from its request to its list. -/
theorem dispatching : Obligations.Dispatching := by
  unfold Obligations.Dispatching
  exact ⟨stealEvents, columnDispatch, preemptionEvents⟩

end Sys2Proof.Dispatching
end

section
/-! SUPPORT. Slot words (R80, R91 to R95): the fields of a word, the pieces of a field, and that the decoder and the encoder are each
the other's inverse. -/
namespace Sys2Proof.Encoding
open Sys2Proof Sys2Proof.Machine

/-! ## Pieces of a field

A field that holds several operands is an append of pieces, and the decoder reads each piece by its place. -/

theorem append_extract_high {p q : Nat} (x : BitVec p) (y : BitVec q) (o n : Nat) (h : q ≤ o) :
    (BitVec.append x y).extractLsb' o n = x.extractLsb' (o - q) n := extract_high x y o n h

theorem append_extract_low {p q : Nat} (x : BitVec p) (y : BitVec q) (o n : Nat) (h : o + n ≤ q) :
    (BitVec.append x y).extractLsb' o n = y.extractLsb' o n := extract_low x y o n h

theorem append_bit_high {p q : Nat} (x : BitVec p) (y : BitVec q) (o : Nat) (h : q ≤ o) :
    (BitVec.append x y).getLsbD o = x.getLsbD (o - q) := by
  rw [BitVec.append_eq, BitVec.getLsbD_append, if_neg (Nat.not_lt.mpr h)]

theorem append_bit_low {p q : Nat} (x : BitVec p) (y : BitVec q) (o : Nat) (h : o < q) :
    (BitVec.append x y).getLsbD o = y.getLsbD o := by
  rw [BitVec.append_eq, BitVec.getLsbD_append, if_pos h]

theorem ofBool_bit (c : Bool) : (BitVec.ofBool c).getLsbD 0 = c := by simp

/-- A bit, read as a flag or as a piece of one bit. -/
theorem ofBool_getLsbD {n : Nat} (v : BitVec n) (o : Nat) : BitVec.ofBool (v.getLsbD o) = v.extractLsb' o 1 := by
  apply BitVec.eq_of_getLsbD_eq
  intro i hi
  obtain rfl : i = 0 := by omega
  simp

theorem extract_extract {n : Nat} (v : BitVec n) (o p q r : Nat) (h : q + r ≤ p) :
    (v.extractLsb' o p).extractLsb' q r = v.extractLsb' (o + q) r := by
  apply BitVec.eq_of_getLsbD_eq
  intro i hi
  have hin : q + i < p := by omega
  simp only [BitVec.getLsbD_extractLsb', hi, hin, decide_true, Bool.true_and, Nat.add_assoc]

theorem extract_append_extract {n : Nat} (v : BitVec n) (o o' p q : Nat) (h : o' = o + q) :
    BitVec.append (v.extractLsb' o' p) (v.extractLsb' o q) = v.extractLsb' o (p + q) :=
  BitVec.extractLsb'_append_extractLsb'_eq_extractLsb' h

/-- A field is the append of two pieces when each of them is what stands in its place. -/
theorem append_eq_of_pieces {p q : Nat} {x : BitVec p} {y : BitVec q} {v : BitVec (p + q)} (hx : x = v.extractLsb' q p)
    (hy : y = v.extractLsb' 0 q) : x ++ y = v := by
  rw [hx, hy]
  exact (extract_append_extract v 0 q p q (Nat.zero_add q).symm).trans (extract_all v)

/-- Two fields are the same when both of their pieces are. -/
theorem eq_iff_pieces {n p q : Nat} (h : p + q = n) (v c : BitVec n) :
    v = c ↔ v.extractLsb' q p = c.extractLsb' q p ∧ v.extractLsb' 0 q = c.extractLsb' 0 q := by
  subst h
  refine ⟨fun e => e ▸ ⟨rfl, rfl⟩, fun ⟨hhigh, hlow⟩ => ?_⟩
  rw [← append_eq_of_pieces hhigh hlow]
  exact (append_eq_of_pieces rfl rfl).symm

/-! ## The fields of a word (R80) -/

theorem ofWord_word (x : Fields) : Fields.ofWord x.word = x := by
  obtain ⟨s, op, d, a, b, f⟩ := x
  simp only [Fields.ofWord, Fields.word, HAppend.hAppend, append_bit_high, append_extract_high, append_extract_low, extract_all,
    ofBool_bit, Nat.reduceAdd, Nat.reduceSub, Nat.reduceLeDiff, Nat.le_refl]

theorem word_ofWord (w : BitVec 32) : (Fields.ofWord w).word = w := by
  simp only [Fields.ofWord, Fields.word, ofBool_getLsbD, HAppend.hAppend, extract_append_extract, extract_all, Nat.reduceAdd]

/-! ## A word that decodes is the word of what it decodes to -/

/-- What a row, or the rest of a major's rows, reads from the fields has those fields. -/
def Reads (x : Fields) (r : Option Instr) : Prop := ∀ i, r = some i → i.fields = some x

theorem reads_none (x : Fields) : Reads x none := by
  rintro i ⟨⟩
theorem reads_some {x : Fields} {j : Instr} (h : j.fields = some x) : Reads x (some j) := by
  rintro i ⟨⟩
  exact h
theorem reads_ite {x : Fields} {j : Instr} {r : Option Instr} {c : Prop} [Decidable c] (h : c → j.fields = some x) (hr : Reads x r) :
    Reads x (if c then some j else r) := by
  split
  · exact reads_some (h ‹c›)
  · exact hr

theorem some_fields_eq {s : Bool} {op : BitVec 7} {d a b f : BitVec 6} {x : Fields} (hs : s = x.s) (hop : x.op.toNat = op.toNat)
    (hd : d = x.d) (ha : a = x.a) (hb : b = x.b) (hf : f = x.f) : some (Fields.mk s op d a b f) = some x := by
  cases BitVec.eq_of_toNat_eq hop
  subst hs hd ha hb hf
  rfl

/-- Each row of each major gives its fields back: what its condition fixes, and the pieces that it reads. -/
theorem decodeRow_reads (x : Fields) : Reads x (decodeRow x) := by
  unfold decodeRow
  split
  all_goals
    rename_i hop
    repeat' apply reads_ite
    all_goals try exact reads_none x
    all_goals try apply reads_some
    all_goals
      intros
      refine some_fields_eq rfl hop ?_ ?_ ?_ ?_
      all_goals
        repeat' apply append_eq_of_pieces
        all_goals simp only [*, HAppend.hAppend, append_extract_high, append_extract_low, extract_extract, ofBool_getLsbD, extract_all,
          Nat.reduceAdd, Nat.reduceSub, Nat.reduceLeDiff, Nat.le_refl, BitVec.ofNat_eq_ofNat]

/-! ## The word of an instruction decodes to it -/

theorem eq_of_some_fields {x : Fields} {s : Bool} {op : BitVec 7} {d a b f : BitVec 6} (h : some (Fields.mk s op d a b f) = some x) :
    ∃ d' a' b' f', x = ⟨s, op, d', a', b', f'⟩ ∧ d' = d ∧ a' = a ∧ b' = b ∧ f' = f := by
  cases h
  exact ⟨_, _, _, _, rfl, rfl, rfl, rfl, rfl⟩

/-- The row of an instruction is the first of its major whose condition the fields meet, and it reads the operands back. A major with
one row has no condition; where a row before it has fixed fields across the instruction's pieces, these are compared piece by piece. -/
theorem decodeRow_of_fields {i : Instr} {x : Fields} (h : i.fields = some x) : decodeRow x = some i := by
  cases i with
  | steal | stealRetry | columnDispatch | taskAging | preemptRequest | forcedSave | saveComplete | tagTimeout | transComplete
  | replayDepart | nestComplete | mergeOpen | mergeContribute | mergeClose | mergeResend | charmRun | charmTimeout | shootdown
  | shootdownComplete | cowCopy | cowCopyComplete | snapReturn | snapLogTailWrite | snapLogBaseWrite | snapPoolPagesWrite
  | softErrorCorrected | softErrorUncorrected | hostMemAccess | tceCommandStart | sendChannelStart | commandFinish | batchTimeout
  | reserveSlot | endOfWalk | zhoaskFetch | cpCommandStart | cpCommandComplete | launch | cpCopy | signal | wait | waitPoll | snap
  | cpCodeswap | codeswapCompletion | tableWrite | tableArm | tableSwitch | launchComplete | slotStart | flitReceive | ack | sync
  | hold | read | write | wblk | rblk | atom | charm | fifo | resp | done | refuse | flushRecord | claspOpen | claspClose
  | claspCommitted | claspAbort | claspStatusQuery | collStart | collAbort | collFinished | collData | retransmitTimeout | ackTimer
  | e2eTimeout | retryResend | holdTimer | collTimeout | lineWeak | lineDrift | lineLost | combLost | syncLost | syncRestored
  | retuneComplete | portRequalify | ofuEventRead | ofuCredSelWrite | ageCommandStart | triggerFire | barrierSubtract | gtStep
  | asyncFaultDelivery | pfRequestWrite | pfAnswer | fltKill | dbgAttach | dbgHalt | dbgStep | dbgRelease | dbgRegRead | dbgRegWrite
  | coldReset | bootPeerWrite | initComplete | recoveryGo | flashUpdateComplete | sigCmd | marginWarning | arbiterInterval
  | pwrEventRead | packagePowerClamp | packagePowerRelease | thermalTrip | registerWrite | steCommandStart | bangleCollStart
  | hostLinkCompletion | powerLoss => cases h
  | limm | addi | bfx | bfi | fcmp | br | bri | call | loops | vadd | vsub | vmul | vfma | vfms | vcvt | vdot | atomx | mma | obcast
  | copy | send =>
    obtain ⟨d', a', b', f', rfl, hd, ha, hb, hf⟩ := eq_of_some_fields h
    change some _ = _
    simp only [hd, ha, hb, hf, HAppend.hAppend, append_extract_high, append_extract_low, append_bit_high, append_bit_low, ofBool_bit,
      extract_extract, extract_append_extract, extract_all, Nat.reduceAdd, Nat.reduceSub, Nat.reduceLeDiff, Nat.reduceLT, Nat.le_refl]
  | pxnor | vext | vins | bartry | vldG | vldgG | vstG | vstgG =>
    obtain ⟨d', a', b', f', rfl, hd, ha, hb, hf⟩ := eq_of_some_fields h
    change (if _ then _ else _) = _
    simp only [hd, ha, hb, hf, HAppend.hAppend, append_extract_high, append_extract_low, append_bit_high, append_bit_low, ofBool_bit,
      extract_extract, extract_append_extract, extract_all, Nat.reduceAdd, Nat.reduceSub, Nat.reduceLeDiff, Nat.reduceLT, Nat.le_refl,
      BitVec.ofNat_eq_ofNat, BitVec.reduceEq, BitVec.reduceExtractLsb', and_true, and_false, reduceIte,
      eq_iff_pieces (show 2 + 2 = 4 from rfl), eq_iff_pieces (show 3 + 3 = 6 from rfl)]
  | _ =>
    obtain ⟨d', a', b', f', rfl, hd, ha, hb, hf⟩ := eq_of_some_fields h
    change (if _ then _ else _) = _
    simp only [hd, ha, hb, hf, HAppend.hAppend, append_extract_high, append_extract_low, append_bit_high, append_bit_low, ofBool_bit,
      extract_extract, extract_append_extract, extract_all, Nat.reduceAdd, Nat.reduceSub, Nat.reduceLeDiff, Nat.reduceLT, Nat.le_refl,
      BitVec.ofNat_eq_ofNat, BitVec.reduceEq, BitVec.reduceExtractLsb', and_true, true_and, and_false, reduceIte]

/-! ## The decoder (R92, R94) -/

/-- No slot has a reserved major. -/
theorem reservedMajor_of_fields {i : Instr} {x : Fields} (h : i.fields = some x) : reservedMajor x.op.toNat = false := by
  cases i
  all_goals cases h
  all_goals rfl

theorem decode_reserved {w : BitVec 32} (h : reservedMajor (majorOf w) = true) : decode w = .error .illegalOpcode := if_pos h

theorem decode_eq_ok_iff (w : BitVec 32) (i : Instr) : decode w = .ok i ↔ i.fields = some (Fields.ofWord w) ∧ i.wf = true := by
  constructor
  · intro h
    unfold decode at h
    dsimp only at h
    split at h
    · cases h
    · split at h
      · split at h
        · cases h
          exact ⟨decodeRow_reads _ _ ‹_›, ‹_›⟩
        · cases h
      · cases h
  · rintro ⟨hfields, hwf⟩
    simp only [decode, reservedMajor_of_fields hfields, decodeRow_of_fields hfields, hwf, Bool.false_eq_true, if_true, if_false]

theorem encode_eq_some_iff (i : Instr) (w : BitVec 32) : encode i = some w ↔ i.fields = some (Fields.ofWord w) := by
  unfold encode
  constructor
  · intro h
    obtain ⟨x, hx, rfl⟩ := Option.map_eq_some_iff.mp h
    rw [ofWord_word, hx]
  · intro h
    rw [h, Option.map_some, word_ofWord]

/-- Settles O52: the row that the fields of the word select is the instruction's own. -/
theorem encodeThenDecode : Obligations.EncodeThenDecode := by
  unfold Obligations.EncodeThenDecode
  intro i w hwf hw
  exact (decode_eq_ok_iff w i).mpr ⟨(encode_eq_some_iff i w).mp hw, hwf⟩

/-- Settles O53: the row that the fields select is one with those fields. -/
theorem decodeThenEncode : Obligations.DecodeThenEncode := by
  unfold Obligations.DecodeThenEncode
  intro w i h
  obtain ⟨hfields, hwf⟩ := (decode_eq_ok_iff w i).mp h
  exact ⟨hwf, (encode_eq_some_iff i w).mpr hfields⟩

end Sys2Proof.Encoding
end

section
/-! SUPPORT. The word of a slot at issue: its view, its facts, its run (R91, R92), and the checks of a bundle of one slot. -/
namespace Sys2Proof.Words
open Sys2Proof Sys2Proof.Machine Sys2Proof.Encoding

/-! ## The view of a word is that of what it decodes to -/

theorem viewWord_eq (w : BitVec 32) : viewWord w = (decode w).map viewOf := by
  unfold viewWord decode viewRow
  dsimp only
  split
  · rfl
  · cases hrow : decodeRow (Fields.ofWord w) with
    | none => rfl
    | some i =>
      cases hwf : i.wf
      all_goals simp [viewOf, hwf, Except.map]

theorem viewWord_of_decode {w : BitVec 32} {i : Instr} (h : decode w = .ok i) : viewWord w = .ok (viewOf i) := by
  rw [viewWord_eq, h]
  rfl
theorem viewWord_of_error {w : BitVec 32} {e : DecodeError} (h : decode w = .error e) : viewWord w = .error e := by
  rw [viewWord_eq, h]
  rfl

theorem infoOf_of_decode {w : BitVec 32} {i : Instr} (h : decode w = .ok i) : infoOf w = i.slotInfo := by
  unfold infoOf
  rw [viewWord_of_decode h]
  rfl

/-- A slot runs as `exec` of the instruction that its word decodes to (R91). -/
theorem runSlot_of_decode {q : QSlot} {i : Instr} (h : decode q.word = .ok i) (s : State) (k : Nat) :
    s.runSlot k q = exec i (s.atSlot k q.idx) := by
  unfold State.runSlot
  rw [viewWord_of_decode h]
  rfl

/-! ## The checks of a bundle of one slot (R92) -/

theorem majorOf_eq (w : BitVec 32) : majorOf w = (Fields.ofWord w).op.toNat := rfl

theorem slotCheck_of_illegalOpcode {mode : BitVec 2} {ws : List (BitVec 32)} {i : Nat} (h : decode (wordAt ws i) = .error .illegalOpcode) :
    slotCheck mode ws i = some (.illegalOpcode, i) := by
  simp only [slotCheck, viewWord_of_error h]

theorem mainSlots_single {w : BitVec 32} (h : isPrefix w = false) : mainSlots [w] = [0] := by
  simp [mainSlots, wordAt, h, List.range_succ]

theorem slotCheck_single {w : BitVec 32} {i : Instr} (mode : BitVec 2) (hdec : decode w = .ok i) (hprefix : isPrefix w = false)
    (hwide : countTooWide w none = false) : slotCheck mode [w] 0 = if forbidden mode w then some (.privViolation, 0) else none := by
  have hword : wordAt [w] 0 = w := rfl
  have hlimm : limmOf [w] 0 = none := by simp [limmOf, prefixesOf]
  unfold slotCheck
  simp [hword, viewWord_of_decode hdec, hprefix, hlimm, hwide]

theorem conflictAt_single {w : BitVec 32} (hprefix : isPrefix w = false) : conflictAt [w] 0 = false := by
  have hword : wordAt [w] 0 = w := rfl
  unfold conflictAt
  simp only [hword, hprefix, mainSlots_single hprefix]
  cases (infoAt [w] 0).cls
  all_goals rfl

/-- A bundle of one slot that decodes passes every check but that of the mode (R92, R412). -/
theorem bundleCheck_single {w : BitVec 32} {i : Instr} (mode : BitVec 2) (hdec : decode w = .ok i) (hstop : stops w = true)
    (hprefix : isPrefix w = false) (hwide : countTooWide w none = false) :
    bundleCheck mode [w] = if forbidden mode w then some (.privViolation, 0) else none := by
  unfold bundleCheck
  simp only [framing, List.getLast?_singleton, Option.getD_some, hstop, hprefix, List.length_singleton, List.range_one,
    List.findSome?_cons, List.findSome?_nil, List.find?_cons, List.find?_nil, slotCheck_single mode hdec hprefix hwide,
    conflictAt_single hprefix]
  cases forbidden mode w
  all_goals rfl

/-! ## Words written out -/

/-- Settles O56: the fields of each word are those of its instruction, by evaluation. -/
theorem wordsDecode : Obligations.WordsDecode := by
  unfold Obligations.WordsDecode
  simp only [decode_eq_ok_iff]
  refine ⟨?_, ?_, ?_, ?_, ?_, ?_, ?_, ?_, ?_, ?_, ?_, ?_, ?_, ?_, ?_, ?_, ?_, ?_, ?_, ?_⟩
  case refine_19 => exact decode_reserved rfl
  case refine_20 => rfl
  all_goals exact ⟨rfl, rfl⟩

/-! ## NOP and the reserved majors (R88, R94) -/

theorem op_eq_of_majorOf {w : BitVec 32} {op : BitVec 7} (h : majorOf w = op.toNat) : (Fields.ofWord w).op = op :=
  BitVec.eq_of_toNat_eq h

/-- The low 24 bits are the four operand fields. -/
theorem ofWord_lowBits (w : BitVec 32) : Fields.ofWord (w &&& 0xFFFFFF) = { Fields.ofWord w with s := false, op := 0 } := by
  have all6 : ∀ x : BitVec 6, x &&& 63#6 = x := fun x => BitVec.and_allOnes
  simp only [Fields.ofWord, BitVec.extractLsb'_and, BitVec.reduceExtractLsb', BitVec.ofNat_eq_ofNat, all6, BitVec.and_zero,
    BitVec.getLsbD_and]
  simp

theorem lowBits_eq_zero_iff (w : BitVec 32) : w &&& 0xFFFFFF = 0 ↔
    (Fields.ofWord w).d = 0 ∧ (Fields.ofWord w).a = 0 ∧ (Fields.ofWord w).b = 0 ∧ (Fields.ofWord w).f = 0 := by
  have hzero : Fields.ofWord 0 = ⟨false, 0, 0, 0, 0, 0⟩ := rfl
  rw [← (Function.LeftInverse.injective word_ofWord).eq_iff, ofWord_lowBits, hzero, Fields.mk.injEq]
  simp

theorem decode_major00 {w : BitVec 32} (h : majorOf w = 0) :
    decode w = if w &&& 0xFFFFFF = 0 then .ok (.nop (stops w)) else .error .illegalFunction := by
  have hop : (Fields.ofWord w).op.toNat = 0 := h
  have hres : reservedMajor 0 = false := rfl
  simp only [decode, decodeRow, hop, decodeMajor00, hres, lowBits_eq_zero_iff]
  by_cases hz : (Fields.ofWord w).d = 0 ∧ (Fields.ofWord w).a = 0 ∧ (Fields.ofWord w).b = 0 ∧ (Fields.ofWord w).f = 0
  · simp only [hz]
    rfl
  · simp only [if_neg hz]
    rfl

theorem mem_nopWords {w : BitVec 32} (h : majorOf w = 0) (hz : w &&& 0xFFFFFF = 0) : w ∈ [0x00000000#32, 0x80000000#32] := by
  obtain ⟨hd, ha, hb, hf⟩ := (lowBits_eq_zero_iff w).mp hz
  rw [← word_ofWord w, Fields.word, op_eq_of_majorOf (op := 0) h, hd, ha, hb, hf]
  cases (Fields.ofWord w).s
  all_goals decide

theorem majorOf_of_decode_nop {w : BitVec 32} {st : Bool} (h : decode w = .ok (.nop st)) : majorOf w = 0 := by
  obtain ⟨hfields, -⟩ := (decode_eq_ok_iff w _).mp h
  rw [majorOf_eq, ← Option.some.inj hfields]
  rfl

theorem reservedMajor_of_mem {n : Nat} (h : (4 ≤ n ∧ n ≤ 15) ∨ n ∈ [0x26, 0x27, 0x37, 0x56, 0x57, 0x68, 0x69, 0x6A, 0x6B, 0x7F]) :
    reservedMajor n = true := by
  simp only [List.mem_cons, List.not_mem_nil, or_false] at h
  simp only [reservedMajor, Bool.or_eq_true, Bool.and_eq_true, decide_eq_true_eq, beq_iff_eq]
  omega

/-- The rows of NOP, PGUARD and DEPS have the F value 0 only. -/
theorem decodeRow_f_eq_zero {x : Fields} {i : Instr} (h : decodeRow x = some i) (hop : x.op.toNat ∈ [0, 2, 3]) : x.f = 0 := by
  have of_ite : ∀ {c : Prop} [Decidable c] {j : Instr}, (if c then some j else none) = some i → c := by
    intro c _ j hj
    by_contra hc
    rw [if_neg hc] at hj
    cases hj
  simp only [List.mem_cons, List.not_mem_nil, or_false] at hop
  unfold decodeRow at h
  rcases hop with hop | hop | hop
  · rw [hop] at h
    exact (of_ite h).2.2.2
  · rw [hop] at h
    exact (of_ite h).2
  · rw [hop] at h
    exact of_ite h

theorem nopAndReserved : Parts.NopAndReserved := by
  refine ⟨?_, ?_, ?_, ?_, ?_, ?_, ?_⟩
  · intro w hmajor
    rw [decode_major00 hmajor]
    exact ⟨fun hz => ⟨mem_nopWords hmajor hz, if_pos hz⟩, fun hz => if_neg hz⟩
  · intro w st
    exact majorOf_of_decode_nop
  · intro st
    rfl
  · intro mode
    exact bundleCheck_single (i := .nop true) mode ((decode_eq_ok_iff _ _).mpr ⟨rfl, rfl⟩) rfl rfl rfl
  · intro s st hrun
    exact gives_regSlot (fun _ r => r) hrun rfl rfl
  · intro w mode ws i hmajor
    have hdec := decode_reserved (reservedMajor_of_mem hmajor)
    refine ⟨hdec, ?_⟩
    rintro rfl
    exact slotCheck_of_illegalOpcode hdec
  · intro w i hdec hmajor
    exact decodeRow_f_eq_zero (decodeRow_of_fields ((decode_eq_ok_iff w i).mp hdec).1) hmajor

/-! ## Privileged forms (R412) -/

/-- A word of a form other than LIMM, PGUARD, DEPS, MOPEN and ACCMERGE: alone in its bundle it is judged by the mode only. -/
theorem bundleCheck_form {i : Instr} {w : BitVec 32} {x : Fields} (mode : BitVec 2) (op : BitVec 7) (henc : encode i = some w)
    (hwf : i.wf = true) (hx : i.fields = some x) (hstop : x.s = true) (hop : x.op = op)
    (hform : op ∉ [1, 2, 3, 0x71]) :
    bundleCheck mode [w] = if forbidden mode w then some (.privViolation, 0) else none := by
  have hfields := (encode_eq_some_iff i w).mp henc
  obtain rfl : x = Fields.ofWord w := Option.some.inj (hx.symm.trans hfields)
  have hmajor : ∀ n : BitVec 7, n ∈ [1, 2, 3, 0x71] → majorOf w ≠ n.toNat := by
    rintro n hn he
    exact hform (hop ▸ op_eq_of_majorOf he ▸ hn)
  have hprefix : isPrefix w = false := by
    simp only [isPrefix, Bool.or_eq_false_iff, decide_eq_false_iff_not]
    exact ⟨⟨hmajor 1 (by decide), hmajor 2 (by decide)⟩, hmajor 3 (by decide)⟩
  exact bundleCheck_single mode ((decode_eq_ok_iff w i).mpr ⟨hfields, hwf⟩) hstop hprefix (by simp [countTooWide])

/-- A form that SYSTEM alone has. -/
theorem forbidden_system {mode : BitVec 2} {w : BitVec 32} (h : majorOf w = 0x34 ∨ majorOf w = 0x3F ∧ w.extractLsb' 0 6 = 0) :
    forbidden mode w = decide (mode ≠ 2) := by
  unfold forbidden
  rcases h with h | ⟨h, hf⟩
  · simp [h]
  · simp [h, hf]
/-- A form that USER alone lacks. -/
theorem forbidden_handler {mode : BitVec 2} {w : BitVec 32} (h : majorOf w = 0x3F) (hf : w.extractLsb' 0 6 ≠ 0) :
    forbidden mode w = decide (mode = 0) := by
  simp only [forbidden, h, if_neg hf, if_true]
  rfl

theorem privilegedForms : Parts.PrivilegedForms := by
  intro mode d a b w hmode
  refine ⟨?_, ?_, ?_⟩
  · intro henc hd
    have hx := Option.some.inj ((encode_eq_some_iff _ w).mp henc)
    rw [bundleCheck_form mode 0x34 henc (decide_eq_true hd) rfl rfl rfl (by decide),
      forbidden_system (.inl (congrArg (·.op.toNat) hx).symm)]
    simp only [decide_eq_true_eq, ite_not]
  · intro henc
    have hx := Option.some.inj ((encode_eq_some_iff _ w).mp henc)
    rw [bundleCheck_form mode 0x3F henc rfl rfl rfl rfl (by decide),
      forbidden_system (.inr ⟨(congrArg (·.op.toNat) hx).symm, (congrArg (·.f) hx).symm⟩)]
    simp only [decide_eq_true_eq, ite_not]
  · intro henc
    have hx := Option.some.inj ((encode_eq_some_iff _ w).mp henc)
    have hf : w.extractLsb' 0 6 = 1 := (congrArg (·.f) hx).symm
    rw [bundleCheck_form mode 0x3F henc rfl rfl rfl rfl (by decide),
      forbidden_handler (congrArg (·.op.toNat) hx).symm (by rw [hf]; decide)]
    simp only [decide_eq_true_eq]

/-- Settles O60: a word of major 0 with operand bits fits no row, and a bundle of one privileged form is judged by the mode alone. -/
theorem reservedAndPrivileged : Obligations.ReservedAndPrivileged := ⟨nopAndReserved, privilegedForms⟩

end Sys2Proof.Words
end

section
/-! SUPPORT. A step whose turn is the first of the agenda, and the turns of a context and of a queue (R55, R81). -/
namespace Sys2Proof.Turns
open Sys2Proof Sys2Proof.Machine Sys2Proof.Words

theorem nextOf_next (s t : State) : nextOf s (.next t) = t := rfl

/-- What `exec` answers is a next state, and `nextOf` gives it. -/
theorem exec_eq_nextOf (i : Instr) (s t : State) : exec i s = .next (nextOf t (exec i s)) := by
  obtain ⟨u, hu⟩ := Scope.nothingStops i s
  rw [hu, nextOf_next]

/-! ## The turn that a step takes -/

@[simp] theorem crossTime_agenda (s : State) : s.crossTime.agenda = s.agenda := by
  unfold State.crossTime
  dsimp only
  split
  · rfl
  · rfl
@[simp] theorem tick_agenda (s : State) : s.tick.agenda = s.agenda := by
  unfold State.tick
  split
  · rw [crossTime_agenda]
  · rfl

/-- With no full/empty operation to test again, the step takes the first turn of the agenda. -/
theorem step_of_agenda {s : State} {t : Turn} {ts : List Turn} (htag : s.tick.tagNow = none) (hagenda : s.agenda = t :: ts) :
    step s = closing (({ s.tick with agenda := ts } : State).takeTurn t) := by
  have hnext : s.tick.nextTurn = (some t, { s.tick with agenda := ts }) := by
    simp only [State.nextTurn, htag, tick_agenda, hagenda]
  simp only [step, hnext]

/-! ## Turns of the S sequencer -/

theorem putOff_done (s : State) (k n i : Nat) (u : ExecUnit) : s.putOff k n i u .done = false := rfl
theorem putOff_waits (s : State) (k n i : Nat) (u : ExecUnit) : s.putOff k n i u .waits = false := rfl

/-- A slot of S runs as its instruction, unless another unit must end what it has begun first. -/
theorem runS_of_decode {q : QSlot} {i : Instr} (h : decode q.word = .ok i) (s : State) (k : Nat) :
    s.runS k q = if s.putOff k (s.ctx k).issue.num q.idx .s (slotEnd k q s (nextOf s (exec i (s.atSlot k q.idx)))) then .next s
      else exec i (s.atSlot k q.idx) := by
  have hrun := exec_eq_nextOf i (s.atSlot k q.idx) s
  unfold State.runS
  rw [runSlot_of_decode h]
  generalize nextOf s (exec i (s.atSlot k q.idx)) = t at hrun ⊢
  rw [hrun]
  dsimp only
  split
  · rfl
  · rfl

/-- In a bundle, the turn of the S sequencer is its next slot. -/
theorem runCtx_slot {s : State} {k : Nat} {q : QSlot} (hcan : s.canRun k = true) (hplacing : (s.ctx k).placing = false)
    (hrestore : (s.ctx k).badRestore = false) (hnext : (s.ctx k).nextS = some q) : s.runCtx k = s.runS k q := by
  simp only [State.runCtx, hcan, hplacing, hrestore, hnext, Bool.not_true, Bool.false_eq_true, if_false]

/-- Between bundles, it is the first slot of the bundle that the sequencer issues. -/
theorem runCtx_issue {s t : State} {k : Nat} (hcan : s.canRun k = true) (hplacing : (s.ctx k).placing = false)
    (hrestore : (s.ctx k).badRestore = false) (hnext : (s.ctx k).nextS = none) (hrecord : s.recordDue k = false)
    (hissue : s.tryIssue k = (t, true)) : s.runCtx k = t.runFirst k := by
  simp only [State.runCtx, hcan, hplacing, hrestore, hnext, hrecord, hissue, Bool.not_true, Bool.false_eq_true, if_false]

theorem runFirst_s {s : State} {k : Nat} {q : QSlot} (hs : (s.ctx k).issue.has .s = true) (hhead : (s.ctx k).issue.todo.head? = some q)
    (hunit : q.exu = .s) (hready : s.sReady k q = true) : s.runFirst k = s.runS k q := by
  simp only [State.runFirst, hs, hhead, hunit, hready, if_true]

/-! ## The turn of a queue -/

/-- A slot of the group is one that its bundle still has to run. -/
theorem mem_todo_of_mem_group {s : State} {k : Nat} {u : ExecUnit} {q : QSlot} (h : q ∈ s.group k u) : q ∈ (s.ctx k).issue.todo := by
  unfold State.group at h
  dsimp only at h
  split at h
  · cases h
  · split at h
    · exact List.mem_of_mem_filter (List.mem_of_mem_filter h)
    · cases h

theorem runAll_single {s : State} {k : Nat} {q : QSlot} (h : q ∈ (s.ctx k).issue.todo) :
    State.runAll k [q] s = nextOf s (s.runSlot k q) := by
  have hidx : ((s.ctx k).issue.todo.any fun p => decide (p.idx = q.idx)) = true := List.any_eq_true.mpr ⟨q, h, by simp⟩
  simp only [State.runAll, hidx, if_true]

/-- A queue whose next slot goes alone runs it, unless another unit must end what it has begun first. -/
theorem runQueue_single {s f : State} {k : Nat} {u : ExecUnit} {q : QSlot} (hf : s.modCtx k (fun c => c.focus u) = f)
    (hcounted : u = .vl → (s.ctx k).counted.contains .vl = true) (hgroup : f.group k u = [q]) :
    s.runQueue k u =
      if f.putOff k (f.ctx k).issue.num q.idx u (slotEnd k q f (nextOf f (f.runSlot k q))) then s
      else (nextOf f (f.runSlot k q)).modCtx k fun c => if c.younger.isEmpty then c else (c.adopt (infoOf q.word).writes).settle := by
  have hcount : ¬ (u = .vl ∧ (s.ctx k).counted.contains .vl = false) := by
    rintro ⟨hu, hc⟩
    rw [hcounted hu] at hc
    cases hc
  have hrun := runAll_single (mem_todo_of_mem_group (hgroup ▸ List.mem_singleton_self q))
  unfold State.runQueue
  simp only [if_neg hcount, hf, hgroup, hrun, List.map_cons, List.map_nil, List.find?_cons, List.find?_nil, List.any_cons, List.any_nil,
    List.flatMap_cons, List.flatMap_nil, List.append_nil, Bool.or_false]
  cases slotEnd k q f (nextOf f (f.runSlot k q))
  all_goals simp only [decide_true, decide_false, reduceCtorEq, hrun, putOff_waits, putOff_done, Bool.false_eq_true, if_false]

/-- Settles O54: the turn of the S sequencer, in a bundle or between two, and that of a queue come down to `exec` of the decoded word. -/
theorem stepRunsDecoded : Obligations.StepRunsDecoded := by
  unfold Obligations.StepRunsDecoded
  intro s k u ts q i hdec s1 slot off runs htag hbooted
  refine ⟨?_, ?_⟩
  · intro hagenda hcan hplacing hrestore
    have hstep : step s = closing (s1.runCtx k) := by
      rw [step_of_agenda htag hagenda]
      exact congrArg closing (if_pos hbooted)
    refine ⟨?_, ?_⟩
    · intro hnext
      change step s = _
      rw [hstep, runCtx_slot hcan hplacing hrestore hnext, runS_of_decode hdec]
    · intro s2 hnext hrecord hissue hs hhead hunit hready
      change step s = _
      rw [hstep, runCtx_issue hcan hplacing hrestore hnext hrecord hissue, runFirst_s hs hhead hunit hready, runS_of_decode hdec]
  · intro hagenda hcan hcounted f hgroup
    have hturn : s1.takeTurn (.queue k u) = .next (s1.runQueue k u) := if_pos (by rw [hbooted, hcan]; rfl)
    rw [step_of_agenda htag hagenda, hturn, runQueue_single rfl hcounted hgroup, runSlot_of_decode hdec]

end Sys2Proof.Turns
end

section
/-! SUPPORT. Control transfers and the loop counters (R81, R135, R136). -/
namespace Sys2Proof.Transfer
open Sys2Proof Sys2Proof.Machine

/-! ## A slot that transfers control, or may -/

/-- Registers written and the target remembered are one change of the bank. -/
theorem modRegs_jump_eq (s : State) (f : Regs → Regs) (a : Word64) :
    (s.modRegs f).jump a = s.modCtx s.cur fun c => { c with regs := f c.regs, issue := { c.issue with target := some a } } := by
  simp only [State.jump, State.modRegs, State.modCtx_eq, State.setCtx_cur, State.ctx_setCtx_same, State.setCtx_setCtx]

/-- A slot that writes registers and sends control to `t`, or leaves where it goes. -/
theorem transfers_transferSlot {s : State} {i : Instr} {t tgt : Option Word64} {Q : Regs → Prop} (f : Regs → Regs) (r : Running s)
    (he : exec i s = transferSlot t f s) (ht : t.or (s.ctx s.cur).issue.target = tgt) (q : Q (f s.regs)) : Transfers s i tgt Q := by
  subst ht
  cases t with
  | none =>
    exact (Touched.modRegs s f).transfers r he (by simp [State.modRegs]) (by simpa [State.regs, State.modRegs] using q)
  | some a =>
    have htouched : Touched s ((s.modRegs f).jump a) := by
      rw [modRegs_jump_eq]
      exact Touched.modCtx s _ rfl rfl rfl rfl rfl rfl
    refine htouched.transfers r he ?_ ?_
    · simp [modRegs_jump_eq]
    · simpa [State.regs, modRegs_jump_eq] using q

theorem rel_eq {w : Nat} (s : State) (o : BitVec w) : s.rel o = (s.ctx s.cur).issue.addr + BitVec.ofInt 64 (4 * o.toInt) := by
  have hscale : o.signExtend 64 <<< 2 = BitVec.ofInt 64 (4 * o.toInt) := by
    rw [BitVec.shiftLeft_eq_mul_twoPow, BitVec.signExtend, BitVec.ofInt_mul, BitVec.mul_comm]
    rfl
  rw [State.rel, hscale]
  rfl

/-- The link register of a call. -/
theorem onlyX_link (r : Regs) (d : BitVec 6) (v : Val 64) : OnlyX d.toNat r (r.wx d.toNat v) ∧ (r.wx d.toNat v).rx d.toNat = xAfter d v :=
  ⟨onlyX_wx r d.toNat v, Steps.rx_wx_same r d v⟩

theorem branches : Parts.Branches := by
  unfold Parts.Branches
  intro s st d a o z i hrun c x far imm same link top
  have hnoLane : s.old.noLane = decide (top = 0) := rfl
  have hfar : ∀ {w : Nat} (n : BitVec w), far n.toInt = s.rel n := fun n => (rel_eq s n).symm
  simp only [hfar]
  refine ⟨?_, ?_, ?_, ?_, ?_⟩
  · exact transfers_transferSlot (t := some (s.rel o)) id hrun rfl rfl rfl
  · exact transfers_transferSlot (t := some (s.rel o)) (fun r => r.wx 63 ⟨s.nextBundle, false⟩) hrun rfl rfl (onlyX_link s.regs 63 _)
  · intro hclean
    have hx : ¬ x.psn = true := by simp [hclean]
    refine ⟨?_, ?_⟩
    · exact transfers_transferSlot (t := some (x.v + imm)) (fun r => r.wx d.toNat ⟨s.nextBundle, false⟩) hrun (if_neg hx) rfl
        (onlyX_link s.regs d _)
    · exact transfers_transferSlot (t := some x.v) id hrun (if_neg hx) rfl rfl
  · refine transfers_transferSlot (t := if s.old.noLane then some (s.rel z) else none) id hrun rfl ?_ rfl
    rw [hnoLane]
    by_cases h : top = 0
    · simp only [h, decide_true, if_true, Option.some_or]
    · simp only [h, decide_false, if_false, Bool.false_eq_true, Option.none_or]
      rfl
  · refine transfers_transferSlot (t := if s.old.noLane then none else some (s.rel z)) id hrun rfl ?_ rfl
    rw [hnoLane]
    by_cases h : top = 0
    · simp only [h, decide_true, if_true, ne_eq, not_true_eq_false, if_false, Option.none_or]
      rfl
    · simp only [h, decide_false, if_false, Bool.false_eq_true, ne_eq, not_false_eq_true, if_true, Option.some_or]

/-! ## The loop counters -/

/-- A slot that computes on registers and raises nothing. -/
theorem gives_trySlot {s : State} {i : Instr} {f : Regs → Regs → Except Trap Regs} {v : Regs} {Q : Regs → Prop} (r : Running s)
    (he : exec i s = trySlot f s) (hf : f s.old s.regs = .ok v) (q : Q v) : Gives s i Q := by
  refine (Touched.modRegs s fun _ => v).gives r ?_ (by simp [State.modRegs]) (by simpa [State.regs, State.modRegs] using q)
  rw [he, trySlot, hf]

theorem loops_iff (r : Regs) : r.loops = true ↔ 0 < r.ldepth ∧ 1 < (r.loopCount 0).toNat := by
  simp [Regs.loops, BitVec.lt_def]

theorem loopPop_pos {r : Regs} (h : 0 < r.ldepth) :
    r.loopPop = { r with lc := [r.loopCount 1, r.loopCount 2, r.loopCount 3, 0], ldepth := r.ldepth - 1 } := if_pos h
theorem loopPop_zero {r : Regs} (h : ¬ 0 < r.ldepth) : r.loopPop = r := if_neg h

/-- The registers `r` with the loop counters of `old` after a pop. -/
def popped (old r : Regs) : Regs := { r with lc := old.loopPop.lc, ldepth := old.loopPop.ldepth }

theorem loops : Parts.Loops := by
  unfold Parts.Loops
  intro s st a o hrun c x lc n counts target
  have hpop : 0 < n → counts (lc 1) (lc 2) (lc 3) 0 (n - 1) (popped s.old s.regs) := by
    intro hn
    rw [popped, loopPop_pos hn]
    exact ⟨rfl, rfl, rfl, rfl, rfl⟩
  have hkeep : ¬ 0 < n → counts (lc 0) (lc 1) (lc 2) (lc 3) n (popped s.old s.regs) := by
    intro hn
    rw [popped, loopPop_zero hn]
    exact ⟨rfl, rfl, rfl, rfl, rfl⟩
  have hfall : ¬ (0 < n ∧ 1 < (lc 0).toNat) → exec (.loop st o) s = transferSlot none (popped s.old) s := by
    intro h
    exact if_neg (mt (loops_iff s.old).mp h)
  refine ⟨?_, ?_, ?_, ?_, ?_⟩
  · intro hclean
    have hx : ¬ x.psn = true := by simp [hclean]
    have hval : x.v.extractLsb' 0 32 = x.v.setWidth 32 := BitVec.eq_of_toNat_eq (by simp)
    rw [hval]
    have hexec : exec (.loopPush st a) s = execLoopPush a s := rfl
    exact gives_trySlot hrun hexec (if_neg hx) ⟨rfl, rfl, rfl, rfl, rfl⟩
  · refine gives_regSlot popped hrun rfl ?_
    split
    · exact hpop ‹_›
    · exact hkeep ‹_›
  · intro hn hcount
    refine transfers_transferSlot (t := some (s.rel o)) (fun r => { r with lc := [lc 0 - 1, lc 1, lc 2, lc 3] }) hrun
      (if_pos ((loops_iff s.old).mpr ⟨hn, hcount⟩)) (congrArg some (rel_eq s o)) ⟨rfl, ?_, ?_⟩
    · exact BitVec.toNat_sub_of_le (BitVec.le_def.mpr (Nat.le_of_lt hcount))
    · intro i hi hi4
      interval_cases i
      all_goals rfl
  · intro hn hcount
    exact transfers_transferSlot _ hrun (hfall fun h => absurd h.2 (Nat.not_lt.mpr hcount)) rfl (hpop hn)
  · intro hn
    have hn' : ¬ 0 < n := Nat.not_lt.mpr (Nat.le_of_eq hn)
    refine transfers_transferSlot _ hrun (hfall fun h => hn' h.1) rfl ?_
    have hkept := hkeep hn'
    rwa [hn] at hkept

/-- Settles O6: every form is a transfer slot, or computes on the registers alone. -/
theorem branchesAndLoops : Obligations.BranchesAndLoops := ⟨branches, loops⟩

end Sys2Proof.Transfer
end

section
/-! SUPPORT. Bytes of one line written by a slot, and the slots that write a cohort's bit or a code-table entry (R72, R73, R149). -/
namespace Sys2Proof.Cohorts
open Sys2Proof Sys2Proof.Machine

/-! ## The device CSRs that a write may change: the counters of the LLC (R233) -/

/-- The CSRs outside the LLC counters stand. -/
def CountersOnly (s t : State) : Prop := ∀ o, (o < 0x10000 ∨ 0x11000 ≤ o) → t.csr o = s.csr o

theorem CountersOnly.refl (s : State) : CountersOnly s s := fun _ _ => rfl
theorem CountersOnly.trans {s t u : State} (h : CountersOnly s t) (h' : CountersOnly t u) : CountersOnly s u :=
  fun o ho => (h' o ho).trans (h o ho)
theorem countersOnly_of_dev {s t : State} (h : t.dev = s.dev) : CountersOnly s t := fun o _ => by rw [State.csr, State.csr, h]

theorem homeSlice_lt (h : Nat) : homeSlice h < 64 := by
  unfold homeSlice
  omega
theorem bump_counter (s : State) (h : Nat) {k : Nat} (hk : k < 8) : CountersOnly s (s.bump (llcCounter (homeSlice h) k)) := by
  intro o ho
  have hlt := homeSlice_lt h
  have hne : o ≠ llcCounter (homeSlice h) k := by
    unfold llcCounter
    omega
  rw [State.bump, State.csr_setCsr, if_neg hne]

theorem evict_counters (s : State) (line : Nat) : CountersOnly s (s.evict line) := by
  have hback : CountersOnly s (s.writeBack line) := by
    unfold State.writeBack
    split
    · exact (countersOnly_of_dev rfl).trans (bump_counter _ _ (by omega))
    · exact .refl s
  have hdrop : CountersOnly (s.writeBack line) (s.evict line) := by
    refine countersOnly_of_dev ?_
    rw [State.evict, State.dropLine]
    split
    · rfl
    · rfl
  exact hback.trans hdrop
theorem fillLine_counters (s : State) (line : Nat) : CountersOnly s (s.fillLine line) := by
  unfold State.fillLine
  dsimp only
  split
  · exact bump_counter _ _ (by omega)
  · have hbump := bump_counter s (line * 128) (k := 1) (by omega)
    refine .trans ?_ (countersOnly_of_dev rfl)
    split
    · exact hbump
    · split
      · exact (hbump.trans (countersOnly_of_dev rfl)).trans (evict_counters _ _)
      · exact hbump.trans (countersOnly_of_dev rfl)
theorem dirtyLine_counters (s : State) (line : Nat) : CountersOnly s (s.dirtyLine line) := by
  refine countersOnly_of_dev ?_
  unfold State.dirtyLine
  split
  · rfl
  · rfl

theorem mem_dirtyLine (s : State) (line : Nat) : (s.dirtyLine line).mem = s.mem := by
  unfold State.dirtyLine
  split
  · rfl
  · rfl

/-! ## A write within one line of HBM -/

theorem pieces_line {a n : Nat} (hn : n ≠ 0) (hline : (a + n - 1) / 128 = a / 128) : pieces 128 a n = [(a, 0, n)] := by
  have hlo : max a (a / 128 * 128) = a := by omega
  have hhi : min (a + n) ((a / 128 + 1) * 128) = a + n := by omega
  rw [pieces, if_neg hn, hline, Nat.sub_self]
  simp [List.range_succ, hlo, hhi]

theorem poke_line {s : State} {a n : Nat} {f : Nat → Val 8} (hhbm : region a = .hbm) (hn : n ≠ 0)
    (hline : (a + n - 1) / 128 = a / 128) :
    s.poke .fill a n f = ((s.fillLine (a / 128)).dirtyLine (a / 128)).putCells 32 a n f := by
  simp [State.poke, hhbm, pieces_line hn hline, State.touchLine]

theorem poke_line_counters {s : State} {a n : Nat} {f : Nat → Val 8} (hhbm : region a = .hbm) (hn : n ≠ 0)
    (hline : (a + n - 1) / 128 = a / 128) : CountersOnly s (s.poke .fill a n f) := by
  rw [poke_line hhbm hn hline]
  exact ((fillLine_counters s _).trans (dirtyLine_counters _ _)).trans (countersOnly_of_dev rfl)

theorem byte_poke_line {s : State} {a n : Nat} {f : Nat → Val 8} (hhbm : region a = .hbm) (hn : n ≠ 0)
    (hline : (a + n - 1) / 128 = a / 128) (x : Nat) :
    (s.poke .fill a n f).mem.byte x = if a ≤ x ∧ x < a + n then (f (x - a)).v else s.mem.byte x := by
  rw [poke_line hhbm hn hline, State.putCells, Memory.byte_write, mem_dirtyLine, Steps.mem_fillLine]

theorem region_eq_hbm_iff (a : Nat) : region a = .hbm ↔ a < 0x8000000000 := by
  unfold region
  split
  · simp [*]
  · simp only [*, iff_false]
    repeat' split
    all_goals simp

/-- A byte lies in an HBM cell exactly when it is that byte of HBM: only scratchpad bytes move (R206). -/
theorem cell_hbm_iff (s : State) {a n : Nat} (h : a + n ≤ 0x8000000000) (x : Nat) :
    (a ≤ s.cell x ∧ s.cell x < a + n ↔ a ≤ x ∧ x < a + n) ∧ (a ≤ x → x < a + n → s.cell x = x) := by
  unfold State.cell
  split
  next hr =>
    have hx : ¬ x < 0x8000000000 := by
      rw [← region_eq_hbm_iff, hr]
      exact Region.noConfusion
    have hcell : ∀ k o, 0x8000000000 ≤ scratchAddr k o := fun k o => by
      unfold scratchAddr scratchBase
      omega
    refine ⟨⟨fun hc => absurd hc.2 (Nat.not_lt.mpr (h.trans (hcell _ _))), fun hc => ?_⟩, fun _ hc => ?_⟩
    · omega
    · omega
  next => exact ⟨Iff.rfl, fun _ _ => rfl⟩

theorem storedAt_poke_line {s : State} {a n : Nat} {f : Nat → Val 8} (hhbm : a + n ≤ 0x8000000000) (hn : n ≠ 0)
    (hline : (a + n - 1) / 128 = a / 128) : StoredAt s (s.poke .fill a n f) a n fun i => (f i).v := by
  intro x
  have hregion : region a = .hbm := (region_eq_hbm_iff a).mpr (by omega)
  have hcell : (s.poke .fill a n f).cell x = s.cell x := by
    simp only [State.cell, (s.poke_only .fill a n f).core]
  obtain ⟨hiff, hin⟩ := cell_hbm_iff s hhbm x
  show (s.poke .fill a n f).mem.byte ((s.poke .fill a n f).cell x) = _
  rw [hcell, byte_poke_line hregion hn hline]
  by_cases h : a ≤ x ∧ x < a + n
  · rw [if_pos h, if_pos (hiff.mpr h), hin h.1 h.2]
  · rw [if_neg h, if_neg (mt hiff.mp h)]
    rfl

/-! ## A slot that changes memory and no register -/

theorem touched_refl (s : State) : Touched s s := ⟨rfl, fun _ _ => rfl, rfl, rfl, rfl, rfl, rfl, rfl⟩

/-- The end of a slot that has changed memory only. -/
theorem completes_of_onlyMemory {s u : State} {i : Instr} {Q : State → Prop} (hrun : Running s) (hmem : OnlyMemory s u)
    (hcsr : CountersOnly s u) (he : exec i s = .next u.retire)
    (q : ∀ t, t.regs = s.regs → (∀ a, t.peek a = u.peek a) → Q t) : Completes s i Q := by
  have hctx := hmem.ctx
  have hcur : u.cur = s.cur := by rw [hmem.rest]
  have hme : u.me = s.me := by simp only [State.me, State.slot, hcur, hctx]
  have hurun : Running u := by
    obtain ⟨h1, h2, h3⟩ := hrun
    constructor
    all_goals rwa [hcur, hctx]
  obtain ⟨hown, hregs⟩ := (touched_refl u).retire hurun
  obtain ⟨hrest, hothers, hbank, hpeek, hdone⟩ := hown
  rw [hcur, hctx] at hbank hdone
  have hcore : ∀ c, u.retire.core c = s.core c := by
    intro c
    rw [hrest]
    exact hmem.core c
  refine ⟨u.retire, he, ?_, ?_, q _ ?_ hpeek⟩
  · refine ⟨?_, ?_, hbank, ?_, ?_, ?_, hdone⟩
    · rw [hme] at hrest
      generalize u.retire = t at hrest ⊢
      rw [hrest, hmem.rest]
    · intro k hk
      rw [hothers k (by rwa [hcur]), hctx]
    · intro c _
      exact hcore c
    · rw [hcore]
    · intro o ho
      rw [hrest]
      exact hcsr o ho
  · have hissue : (u.ctx s.cur).issue = { (s.ctx s.cur).issue with target := (s.ctx s.cur).issue.target } := by rw [hctx]
    exact Banks.goesTo_retire hrun hcur hissue (by rw [hctx]) (by rw [hctx]) (by rw [hctx])
  · rw [hregs, State.regs, State.regs, hcur, hctx]

/-! ## NOP and the prefixes (R84 to R86) -/

theorem noEffect : Parts.NoEffect := by
  unfold Parts.NoEffect
  intro s st b n q c d0 d1 d2 k hrun same
  have hkeeps : ∀ i : Instr, exec i s = regSlot (fun _ r => r) s → Gives s i same := fun i he => gives_regSlot _ hrun he rfl
  exact ⟨hkeeps _ rfl, hkeeps _ rfl, hkeeps _ rfl, hkeeps _ rfl⟩

/-! ## JOIN and LEAVE (R73) -/

theorem run_xClean {s : State} {n : Nat} (h : (s.old.rx n).psn = false) : xClean n s = .ok ((s.old.rx n).v, s) := by
  have hraise : raiseIf (s.old.rx n).psn (.poison (regTag 0 n)) s = .ok ((), s) := by
    rw [M.run_raiseIf, h]
    rfl
  exact (M.bind_ok (M.run_reads _ s)).trans (M.bind_ok hraise)

/-- A slot of a cohort id: what it does with the id and the task of its context. -/
theorem slotOut_cohort {s : State} {a : BitVec 6} {i : BitVec 12} {f : Nat → State → State} (hclean : (s.old.rx a.toNat).psn = false) :
    slotOut (do
      let n ← cohortId a i
      change (f n)) s = .next (f (((s.old.rx a.toNat).v + s.immZ i).toNat % 2 ^ 16) s).retire := by
  have hid : cohortId a i s = .ok (((s.old.rx a.toNat).v + s.immZ i).toNat % 2 ^ 16, s) :=
    (M.bind_ok (run_xClean hclean)).trans (M.bind_ok (M.run_reads _ s))
  exact slotOut_ok ((M.bind_ok hid).trans (M.run_change _ s))

theorem exec_join {s : State} {st : Bool} {a : BitVec 6} {i : BitVec 12} (hclean : (s.old.rx a.toNat).psn = false) :
    exec (.join st a i) s =
      .next (s.joinCohort (s.launchOf s.cur) (((s.old.rx a.toNat).v + s.immZ i).toNat % 2 ^ 16) s.regs.task.toNat).retire :=
  slotOut_cohort (f := fun n s => s.joinCohort (s.launchOf s.cur) n s.regs.task.toNat) hclean
theorem exec_leave {s : State} {st : Bool} {a : BitVec 6} {i : BitVec 12} (hclean : (s.old.rx a.toNat).psn = false) :
    exec (.leave st a i) s =
      .next (s.leaveCohort (s.launchOf s.cur) (((s.old.rx a.toNat).v + s.immZ i).toNat % 2 ^ 16) s.regs.task.toNat).retire :=
  slotOut_cohort (f := fun n s => s.leaveCohort (s.launchOf s.cur) n s.regs.task.toNat) hclean

/-- A byte with the task's bit set or cleared (R72). -/
def withBit (v : Byte) (task : Nat) (bit : Bool) : Byte :=
  if bit then v ||| ((1 : Byte) <<< (task % 8)) else v &&& ~~~((1 : Byte) <<< (task % 8))

theorem getLsbD_withBit (v : Byte) (task : Nat) (bit : Bool) {q : Nat} (hq : q < 8) :
    (withBit v task bit).getLsbD q = if q = task % 8 then bit else v.getLsbD q := by
  have hone : ((1 : Byte) <<< (task % 8)).getLsbD q = decide (q = task % 8) := by
    have htask : task % 8 < 8 := Nat.mod_lt _ (by decide)
    have htwo : (1 : Byte) <<< (task % 8) = BitVec.twoPow 8 (task % 8) := (BitVec.twoPow_eq 8 _).symm
    rw [htwo, BitVec.getLsbD_twoPow, decide_eq_true htask, Bool.true_and]
    exact decide_eq_decide.mpr eq_comm
  cases bit
  · show (v &&& ~~~((1 : Byte) <<< (task % 8))).getLsbD q = _
    rw [BitVec.getLsbD_and, BitVec.getLsbD_not, hone, decide_eq_true hq, Bool.true_and]
    by_cases h : q = task % 8
    · simp [h]
    · simp [h]
  · show (v ||| (1 : Byte) <<< (task % 8)).getLsbD q = _
    rw [BitVec.getLsbD_or, hone]
    by_cases h : q = task % 8
    · simp [h]
    · simp [h]

theorem setMember_eq {s : State} {l : Launch} {n task : Nat} (bit : Bool) (hn : n ≠ 0) :
    s.setMember l n task bit =
      s.pokeNat (cohortByte l n task) 1 (withBit (s.peek (cohortByte l n task)).v task bit).toNat := by
  rw [State.setMember, if_neg hn]
  rfl

/-- The byte of the cohort's area after the task's bit is written, and every other byte. -/
def BitSet (s t : State) (b task : Nat) (bit : Bool) : Prop :=
  (∀ u, u ≠ b → (t.peek u).v = (s.peek u).v) ∧
    ∀ q, q < 8 → (t.peek b).v.getLsbD q = if q = task % 8 then bit else (s.peek b).v.getLsbD q

theorem setMember_bitSet {s : State} {l : Launch} {n task : Nat} (bit : Bool) (hn : n ≠ 0) (hhbm : region (cohortByte l n task) = .hbm) :
    BitSet s (s.setMember l n task bit) (cohortByte l n task) task bit := by
  have hlt := (region_eq_hbm_iff _).mp hhbm
  have hstored := storedAt_poke_line (s := s) (a := cohortByte l n task) (n := 1)
    (f := fun i => ⟨BitVec.ofNat 8 ((withBit (s.peek (cohortByte l n task)).v task bit).toNat / 256 ^ i), false⟩) hlt one_ne_zero
    (by rw [Nat.add_sub_cancel])
  rw [setMember_eq bit hn]
  refine ⟨fun u hu => ?_, fun q hq => ?_⟩
  · have hout : ¬ (cohortByte l n task ≤ u ∧ u < cohortByte l n task + 1) := by omega
    exact (hstored u).trans (if_neg hout)
  · have hval := (hstored (cohortByte l n task)).trans (if_pos ⟨le_rfl, Nat.lt_succ_self _⟩)
    rw [State.pokeNat, hval, ← getLsbD_withBit _ _ _ hq]
    simp

theorem setMember_counters {s : State} {l : Launch} {n task : Nat} (bit : Bool) (hhbm : region (cohortByte l n task) = .hbm) :
    CountersOnly s (s.setMember l n task bit) := by
  unfold State.setMember
  split
  · exact .refl s
  · exact poke_line_counters hhbm one_ne_zero (by rw [Nat.add_sub_cancel])
theorem setMember_only (s : State) (l : Launch) (n task : Nat) (bit : Bool) : OnlyMemory s (s.setMember l n task bit) := by
  unfold State.setMember
  split
  · exact .refl s
  · exact s.pokeNat_only _ _ _

/-- LEAVE with no object of the cohort: the bit alone, and nothing where the task is no member. -/
theorem leaveCohort_eq {s : State} {l : Launch} {n task : Nat} (hn : n ≠ 0)
    (hbars : ∀ e ∈ s.bars, ¬ (e.launch = l.num ∧ e.cohort = n)) :
    s.leaveCohort l n task = if s.member l n task then s.setMember l n task false else s := by
  have hnone : ((s.setMember l n task false).leaveBars l.num n task) = s.setMember l n task false := by
    have hsame : (s.setMember l n task false).bars = s.bars := by rw [(setMember_only s l n task false).rest]
    have hfilter : (s.bars.filter fun e => decide (e.launch = l.num ∧ e.cohort = n)) = [] :=
      List.filter_eq_nil_iff.mpr fun e he => by simpa using hbars e he
    rw [State.leaveBars, hsame, hfilter]
    rfl
  rw [State.leaveCohort, hnone]
  by_cases hm : s.member l n task = true
  · simp [hn, hm]
  · simp [hm]

/-- A task that is no member has its bit clear already. -/
theorem bitSet_of_not_member {s : State} {l : Launch} {n task : Nat} (hn : n ≠ 0) (hm : s.member l n task = false) :
    BitSet s s (cohortByte l n task) task false := by
  refine ⟨fun _ _ => rfl, fun q _ => ?_⟩
  split
  next h =>
    rw [State.member, if_neg hn] at hm
    rw [h, hm]
  next => rfl

theorem joinLeave : Parts.JoinLeave := by
  unfold Parts.JoinLeave
  intro s st a i hrun hclean l task n b sets
  have hjoin := exec_join (st := st) (i := i) hclean
  have hleave := exec_leave (st := st) (i := i) hclean
  have hsets : ∀ (j : Instr) (bit : Bool) (u : State), OnlyMemory s u → CountersOnly s u → exec j s = .next u.retire →
      BitSet s u b task bit → sets j bit := by
    intro j bit u hmem hcsr he hbit
    obtain ⟨hkept, hset⟩ := hbit
    refine completes_of_onlyMemory hrun hmem hcsr he fun t hregs hpeek => ⟨hregs, fun x hx => ?_, fun q hq => ?_⟩
    · rw [hpeek, hkept x hx]
    · rw [hpeek, hset q hq]
  refine ⟨fun hn => ?_, fun hn hhbm => ⟨?_, fun hbars => ?_⟩⟩
  · have hnoJoin : s.joinCohort (s.launchOf s.cur) n s.regs.task.toNat = s := if_pos hn
    have hnoLeave : s.leaveCohort (s.launchOf s.cur) n s.regs.task.toNat = s := if_pos (.inl hn)
    have hjoined : exec (.join st a i) s = .next s.retire := hjoin.trans (congrArg (fun u => Host.Outcome.next (State.retire u)) hnoJoin)
    have hleft : exec (.leave st a i) s = .next s.retire := hleave.trans (congrArg (fun u => Host.Outcome.next (State.retire u)) hnoLeave)
    exact ⟨(touched_refl s).gives hrun hjoined rfl rfl, (touched_refl s).gives hrun hleft rfl rfl⟩
  · exact hsets _ true _ (setMember_only s _ _ _ _) (setMember_counters true hhbm) hjoin (setMember_bitSet true hn hhbm)
  · rw [leaveCohort_eq hn hbars] at hleave
    split at hleave
    next => exact hsets _ false _ (setMember_only s _ _ _ _) (setMember_counters false hhbm) hleave (setMember_bitSet false hn hhbm)
    next hm => exact hsets _ false s (.refl s) (.refl s) hleave (bitSet_of_not_member hn (by simpa using hm))

/-! ## CODESWAP (R149) -/

theorem exec_codeswap {s : State} {st : Bool} {a b : BitVec 6} (hmode : s.regs.mode = 2) (hx : (s.old.rx a.toNat).psn = false)
    (hy : (s.old.rx b.toNat).psn = false) :
    exec (.codeswap st a b) s = .next (s.writeCode ((s.old.rx a.toNat).v.toNat % 2 ^ 16) (s.old.rx b.toNat).v).retire := by
  have hpriv : ¬ s.regs.mode ≠ 2 := not_not.mpr hmode
  refine (if_neg hpriv).trans (slotOut_ok ?_)
  exact (M.bind_ok (run_xClean hx)).trans ((M.bind_ok (run_xClean hy)).trans (M.run_change _ s))

theorem codeswap : Parts.Codeswap := by
  unfold Parts.Codeswap
  intro s st a b hrun x y p
  refine ⟨fun hmode => if_pos hmode, fun hmode hx hy hhbm => ?_⟩
  have hlt := (region_eq_hbm_iff p).mp hhbm
  have halign : p % 8 = 0 := by omega
  have hend : p + 8 ≤ 0x8000000000 := by omega
  have hline : (p + 8 - 1) / 128 = p / 128 := by omega
  refine completes_of_onlyMemory hrun (s.pokeNat_only p 8 _) (poke_line_counters hhbm (by decide) hline) (exec_codeswap hmode hx hy)
    fun t hregs hpeek => ⟨hregs, fun u => ?_⟩
  rw [hpeek]
  exact storedAt_poke_line hend (by decide) hline u

/-- Settles O19: JOIN, LEAVE and CODESWAP write within one line of HBM, and what has no effect is a slot that keeps the registers. -/
theorem cohortsAndCode : Obligations.CohortsAndCode := ⟨noEffect, joinLeave, codeswap⟩

end Sys2Proof.Cohorts
end

section
/-! SUPPORT. The issue of a bundle of one slot: its word fetched from HBM through the TLB, its checks, and the queues that it goes to
(R51, R81, R82, R258). -/
namespace Sys2Proof.Issuing
open Sys2Proof Sys2Proof.Machine Sys2Proof.Words

theorem bind_pure_run {α β : Type} (a : α) (f : α → M β) (s : State) : ((pure a : M α) >>= f) s = f a s := rfl

/-! ## The word fetched (R82, R258) -/

theorem target_hbm {s : State} {p : Nat} (hhbm : region p = .hbm) : s.target (s.peer * 2 ^ 50 + p) = .mem := by
  have hlt := (Cohorts.region_eq_hbm_iff p).mp hhbm
  have hpeer : (s.peer * 2 ^ 50 + p) / 2 ^ 50 = s.peer := by omega
  have hlocal : (s.peer * 2 ^ 50 + p) % 2 ^ 50 = p := by omega
  simp only [State.target, hpeer, hlocal, hhbm, ne_eq, not_true_eq_false, if_false]
theorem governs_hbm {s : State} {leaf : Word64} {p : Nat} (hhbm : region p = .hbm) : s.governs leaf (s.peer * 2 ^ 50 + p) = leaf := by
  have hlt := (Cohorts.region_eq_hbm_iff p).mp hhbm
  have hpeer : (s.peer * 2 ^ 50 + p) / 2 ^ 50 = s.peer := by omega
  have hown : s.exported (s.peer * 2 ^ 50 + p) = false := by
    rw [State.exported, hpeer]
    simp only [ne_eq, not_true_eq_false, decide_false, Bool.false_and]
  rw [State.governs, hown]
  rfl
theorem refusal_fetch {s : State} {va pa : Nat} {leaf : Word64} {sn : Bool} (htarget : s.target pa = .mem) (hX : leafX leaf = true) :
    s.refusal [{ va, off := 0, len := 4, leaf, pa }] .fetch sn = none := by
  simp [State.refusal, htarget, Need.ok, hX, State.noWindow]

/-- A piece of a fetch, in the memory of the device. -/
theorem loadPiece_mem {s : State} {who : Owner} {nt : Bool} {asid : Nat} {q : Piece} (htarget : s.target q.pa = .mem) :
    loadPiece who none nt asid q s =
      .ok (.ok (s.peekN (q.pa % 2 ^ 50) q.len), s.touchRead (allocOf q.leaf nt) (q.pa % 2 ^ 50) q.len) := by
  unfold loadPiece
  rw [htarget]

theorem peekN_word {s : State} {p : Nat} {w : BitVec 32} (h : ∀ j, j < 4 → s.peek (p + j) = ⟨w.extractLsb' (8 * j) 8, false⟩) :
    s.peekN p 4 = (List.range 4).map fun j => ⟨w.extractLsb' (8 * j) 8, false⟩ :=
  List.map_congr_left fun j hj => h j (List.mem_range.mp hj)
/-- The four bytes of a word, little-endian (R5). -/
theorem leNat_word (w : BitVec 32) : BitVec.ofNat 32 (leNat ((List.range 4).map fun j => ⟨w.extractLsb' (8 * j) 8, false⟩)) = w := by
  apply BitVec.eq_of_toNat_eq
  have hw := w.isLt
  simp only [List.range_succ, List.range_zero, List.nil_append, List.cons_append, List.map_cons, List.map_nil, leNat,
    BitVec.extractLsb'_toNat, BitVec.toNat_ofNat, Nat.shiftRight_eq_div_pow]
  omega
theorem anyPsn_word (w : BitVec 32) : anyPsn ((List.range 4).map fun j => ⟨w.extractLsb' (8 * j) 8, false⟩) = false := by
  simp [anyPsn]

theorem translate_hit {s : State} {unit asid va : Nat} {e : TlbEntry} (hcanon : canonical va = true)
    (hfind : (s.tlb unit).find? (fun e => e.maps asid va) = some e) : s.translate unit asid va = (s, .ok e.leaf e.size) := by
  simp [State.translate, hcanon, hfind]

/-- What lets context `k` fetch the word `w` at `va`: the code capability, and a TLB entry that maps it with X to HBM, where it stands. -/
structure Fetchable (s : State) (k : Nat) (va : Word64) (e : TlbEntry) (p : Nat) (w : BitVec 32) : Prop where
  check : (s.launchOf k).code_.check va.toNat 4 permX = none
  canon : canonical va.toNat = true
  hit : (s.tlb (k / 2)).find? (fun e => e.maps (s.launchOf k).asid va.toNat) = some e
  execute : leafX e.leaf = true
  place : physical e.leaf e.size va.toNat = s.peer * 2 ^ 50 + p
  hbm : region p = .hbm
  bytes : ∀ j, j < 4 → s.peek (p + j) = ⟨w.extractLsb' (8 * j) 8, false⟩

theorem fetchWord_hit {s : State} {k : Nat} {va : Word64} {e : TlbEntry} {p : Nat} {w : BitVec 32} (h : Fetchable s k va e p w) :
    fetchWord k va s = .ok (w, s.touchRead (allocOf e.leaf false) p 4) := by
  obtain ⟨hcheck, hcanon, hhit, hX, hplace, hhbm, hbytes⟩ := h
  have hlt := (Cohorts.region_eq_hbm_iff p).mp hhbm
  have hlocal : (s.peer * 2 ^ 50 + p) % 2 ^ 50 = p := by omega
  have htarget := target_hbm (s := s) hhbm
  have hgoverns := governs_hbm (s := s) (leaf := e.leaf) hhbm
  generalize s.peer * 2 ^ 50 + p = pa at hplace hlocal htarget hgoverns
  have hwalk : (fun s : State =>
      let (s', w) := s.translate (k / 2) (s.launchOf k).asid va.toNat
      (.ok (w, s') : Except Exit (Walk × State))) s = .ok (.ok e.leaf e.size, s) := by
    simp only [translate_hit hcanon hhit]
  unfold fetchWord
  rw [Steps.bind_reads]
  simp only [hcheck]
  rw [M.bind_ok hwalk]
  simp only [hplace]
  rw [Steps.bind_reads, hgoverns]
  refine (M.bind_ok (a := none) (t := s) (congrArg (fun r => Except.ok (r, s)) (refusal_fetch htarget hX))).trans ?_
  dsimp only
  rw [M.bind_ok (loadPiece_mem htarget)]
  simp only [hlocal, peekN_word hbytes, anyPsn_word, leNat_word]
  rfl

/-- A word with its stop bit set is a bundle (R81). -/
theorem fetchBundle_single {s t : State} {k n : Nat} {va : Word64} {w : BitVec 32} (hfetch : fetchWord k va s = .ok (w, t))
    (hstop : stops w = true) : fetchBundle k (n + 1) va s = .ok ([w], t) := by
  rw [fetchBundle, M.bind_ok hfetch, if_pos hstop]
  rfl

/-! ## The bundle of one slot -/

/-- The slot of a bundle of one word. -/
def onlySlot (w : BitVec 32) : QSlot := { idx := 0, word := w, exu := (infoOf w).exu, limm := none, deps := [] }

theorem placed_single {w : BitVec 32} (r : Regs) (hprefix : isPrefix w = false) : placed r [w] = [onlySlot w] := by
  have hword : wordAt [w] 0 = w := rfl
  have hprefixes : ∀ m, prefixesOf [w] m 0 = [] := fun m => rfl
  simp [placed, mainSlots_single hprefix, enabled, hword, infoAt, limmOf, hprefixes, onlySlot]

theorem bundle_todo {w : BitVec 32} (c : Ctx) (hprefix : isPrefix w = false) : (c.bundle [w]).todo = [onlySlot w] := by
  rw [← placed_single c.regs hprefix, Ctx.bundle]

theorem poisonAt_single {w : BitVec 32} (r : Regs) (hprefix : isPrefix w = false) : poisonAt r [w] 0 = none := by
  have hword : wordAt [w] 0 = w := rfl
  simp only [isPrefix, Bool.or_eq_false_iff, decide_eq_false_iff_not] at hprefix
  obtain ⟨⟨_, hguard⟩, hdeps⟩ := hprefix
  simp [poisonAt, hword, hguard, hdeps]

/-- Nothing older of context `k` is left: no slot of its bundles, and nothing that is parked. -/
structure NothingLeft (s : State) (k : Nat) : Prop where
  older : (s.ctx k).older = []
  todo : (s.ctx k).issue.todo = []
  younger : (s.ctx k).younger = []
  parked : s.parkedOf k = []

section
variable {s : State} {k : Nat} (h : NothingLeft s k)
include h

theorem flight_eq : (s.ctx k).flight = [(s.ctx k).issue] := by
  rw [Ctx.flight, h.older, h.younger]
  rfl
theorem queued_eq (u : ExecUnit) : (s.ctx k).queued u = [] := by simp [Ctx.queued, flight_eq h, h.todo]
theorem owed_eq : s.owed k = [] := by simp [State.owed, flight_eq h, h.todo]
theorem owedParked_eq : s.owedParked k = [] := by simp [State.owedParked, h.parked]
omit h in
theorem meets_nil (xs : List RegName) : meets xs [] = false := by simp [meets]

/-- No slot waits for a value that is still to be written (R54, R56). -/
theorem early_eq_false (q : QSlot) : s.early k q = false := by
  simp [State.early, State.losing, owed_eq h, owedParked_eq h, meets_nil, queued_eq h]

/-- A queue that is empty has room for one slot (R298). -/
theorem queueFull_single (q : QSlot) : s.queueFull k [q] = [] := by
  have hroom : ∀ u, ([q].filter fun p => p.exu = u).drop (unitCap u - s.slotsQueued k u) = [] := by
    intro u
    have hcap : 1 ≤ unitCap u := by
      unfold unitCap
      split
      all_goals decide
    rw [State.slotsQueued, queued_eq h, List.length_nil, Nat.sub_zero]
    exact List.drop_eq_nil_of_le ((List.length_filter_le _ _).trans hcap)
  simp [State.queueFull, hroom]
end

theorem mxChannel_eq_none {w : BitVec 32} (h : majorOf w < 0x6E) : mxChannel w = none := by
  have h6E : majorOf w ≠ 0x6E := by omega
  have h70 : majorOf w ≠ 0x70 := by omega
  have h71 : majorOf w ≠ 0x71 := by omega
  simp [mxChannel, h6E, h70, h71]
theorem tokenFull_single (s : State) (k : Nat) (q : QSlot) (h : majorOf q.word < 0x6E) : s.tokenFull k [q] = [] := by
  simp [State.tokenFull, mxChannel_eq_none h]
theorem fullSlots_single (s : State) (k : Nat) (q : QSlot) (h : majorOf q.word < 0x6E) : fullSlots k [q] s = [] := by
  have hnot : ¬ (0x72 ≤ majorOf q.word ∧ majorOf q.word < 0x7F) := by omega
  exact if_neg hnot

theorem transfer_single {b : Issue} {q : QSlot} {i : Instr} (s : State) (k : Nat) (hb : b.todo = [q]) (hdec : decode q.word = .ok i)
    (htarget : ∀ u, targetOf i u = none) : s.transfer k b = none := by
  have hview : (viewOf i).target = targetOf i := rfl
  simp [State.transfer, hb, viewWord_of_decode hdec, hview, htarget]
theorem loopsWaits_single {b : Issue} {q : QSlot} (s : State) (k : Nat) (hb : b.todo = [q]) (hmajor : majorOf q.word ≠ 0x2D) :
    s.loopsWaits k b = false := by
  simp [State.loopsWaits, hb, hmajor]

/-- A word that stands alone in its bundle, passes the checks of R92, and neither transfers control nor stands for a command. -/
structure Plain (w : BitVec 32) (i : Instr) (mode : BitVec 2) : Prop where
  stop : stops w = true
  noPrefix : isPrefix w = false
  decodes : decode w = .ok i
  narrow : countTooWide w none = false
  permitted : forbidden mode w = false
  noCommand : majorOf w < 0x6E
  noLoops : majorOf w ≠ 0x2D
  noTarget : ∀ u, targetOf i u = none

/-- The next bundle of a context with nothing older left is issued. -/
theorem issueBundle_single {s t : State} {k : Nat} {w : BitVec 32} {i : Instr} (hchk : (s.ctx k).chk = false)
    (hfetch : fetchWord k (s.ctx k).pc s = .ok (w, t)) (hleft : NothingLeft t k)
    (hplain : Plain w i (s.ctx k).regs.mode) : issueBundle k s = .ok (.go ((s.ctx k).bundle [w]), t) := by
  obtain ⟨hstop, hprefix, hdec, hwide, hmode, hmajor, hloops, htarget⟩ := hplain
  have hcheck : bundleCheck (s.ctx k).regs.mode [w] = none := by
    rw [bundleCheck_single _ hdec hstop hprefix hwide, hmode]
    rfl
  have hpoison : (List.range [w].length).findSome? (poisonAt (s.ctx k).regs [w]) = none := by
    simp [List.range_succ, poisonAt_single _ hprefix]
  have htodo : ((s.ctx k).bundle [w]).todo = [onlySlot w] := bundle_todo _ hprefix
  have hearly : (((s.ctx k).bundle [w]).todo.any fun q => t.early k q) = false := by simp [htodo, early_eq_false hleft]
  have hfound : t.queueFull k ((s.ctx k).bundle [w]).todo ++ t.tokenFull k ((s.ctx k).bundle [w]).todo ++
      fullSlots k ((s.ctx k).bundle [w]).todo (t.modCtx k fun c => { c with issue := (s.ctx k).bundle [w] }) = [] := by
    rw [htodo, queueFull_single hleft, tokenFull_single t k (onlySlot w) hmajor, fullSlots_single _ k (onlySlot w) hmajor]
    rfl
  unfold issueBundle
  rw [Steps.bind_reads, hchk]
  simp only [Bool.false_eq_true, if_false]
  rw [bind_pure_run]
  simp only
  rw [M.bind_ok (fetchBundle_single hfetch hstop)]
  simp only [hcheck, hpoison]
  rw [Steps.bind_reads, hearly]
  simp only [Bool.false_eq_true, if_false]
  rw [Steps.bind_reads, loopsWaits_single t k htodo hloops]
  simp only [Bool.false_eq_true, if_false]
  rw [Steps.bind_reads, transfer_single t k htodo hdec htarget]
  simp only
  rw [bind_pure_run]
  simp only
  rw [Steps.bind_reads, hfound]
  rfl

/-! ## The state after the issue (R51, R55) -/

/-- Bytes lie in the memory's cells, which only the swizzle registers of the cores move (R206). -/
theorem sameBytes_of_swz {s t : State} (hmem : t.mem = s.mem) (hswz : ∀ j, (t.core j).swz = (s.core j).swz) : SameBytes s t := by
  intro a
  have hkey : ∀ j row, swzKey (t.core j) row = swzKey (s.core j) row := fun j row => by simp only [swzKey, hswz]
  have hcell : t.cell a = s.cell a := by simp only [State.cell, hkey]
  simp only [State.peek, hcell, hmem]

theorem swz_addPerf (s : State) (core csr n j : Nat) : ((s.addPerf core csr n).core j).swz = (s.core j).swz := by
  rw [State.addPerf, State.modCore_eq, State.core_setCore]
  split
  next h => rw [h]
  next => rfl

/-- The bank of a context whose next bundle `b` has been issued. -/
def issuedBank (c : Ctx) (b : Issue) : Ctx :=
  { c with issue := b, bundles := c.bundles + 1, chk := false, waits := c.waits.filter (· ≠ .s), tally := [] }
/-- The bank when the S sequencer has gone on from a bundle with slots left. -/
def leftBank (c : Ctx) : Ctx :=
  { c with pc := c.issue.next, issue := {}, older := c.older ++ [c.issue], stepOne := false }

theorem endBundle_plain {s : State} {k : Nat} (htodo : (s.ctx k).issue.todo ≠ []) (htrap : (s.ctx k).issue.endTrap = none)
    (hret : (s.ctx k).issue.ret = false) (htarget : (s.ctx k).issue.target = none) :
    s.endBundle k = s.setCtx k (leftBank (s.ctx k)) := by
  have hkept : { (s.ctx k).issue with endTrap := none, ret := false, target := none } = (s.ctx k).issue := by
    rw [← htrap, ← hret, ← htarget]
  have hsome : (s.ctx k).issue.todo.isEmpty = false := by simpa using htodo
  simp only [State.endBundle, hret, htrap, htarget, hsome, hkept, State.modCtx_eq, Bool.false_eq_true, if_false, Option.getD_none, leftBank]

theorem giveToken_plain {q : QSlot} (c : Ctx) (h : majorOf q.word < 0x6E) : c.giveToken q = c := by
  rw [Ctx.giveToken, mxChannel_eq_none h]

/-- A bundle of one slot waits for S, or in its queue while the S sequencer goes on. -/
theorem issued_single {b : Issue} {q : QSlot} (s : State) (k : Nat) (htodo : b.todo = [q]) (hmajor : majorOf q.word < 0x6E)
    (htrap : b.endTrap = none) (hret : b.ret = false) (htarget : b.target = none) :
    s.issued k b = (s.addPerf (k / 2) 0x141 1).setCtx k
      (if q.exu = .s then issuedBank (s.ctx k) b else leftBank (issuedBank (s.ctx k) b)) := by
  have hctx : (s.addPerf (k / 2) 0x141 1).ctx k = s.ctx k := rfl
  have hbank : (s.addPerf (k / 2) 0x141 1).modCtx k (fun c => b.todo.foldl Ctx.giveToken
      { c with issue := b, bundles := c.bundles + 1, chk := false, waits := c.waits.filter (· ≠ .s), tally := [] }) =
      (s.addPerf (k / 2) 0x141 1).setCtx k (issuedBank (s.ctx k) b) := by
    rw [State.modCtx_eq, hctx, htodo, List.foldl_cons, List.foldl_nil, giveToken_plain _ hmajor]
    rfl
  have hhas : b.has .s = decide (q.exu = .s) := by simp [Issue.has, htodo]
  rw [State.issued, hbank, hhas]
  by_cases hs : q.exu = .s
  · simp only [hs, decide_true, if_true]
  · simp only [hs, decide_false, Bool.false_eq_true, if_false]
    have hend := endBundle_plain (s := (s.addPerf (k / 2) 0x141 1).setCtx k (issuedBank (s.ctx k) b)) (k := k)
    rw [State.ctx_setCtx_same] at hend
    rw [hend (by simp [issuedBank, htodo]) htrap hret htarget, State.setCtx_setCtx]

/-- The state in which the bundle of context `k` is fetched. -/
def fetching (s : State) (k : Nat) : State := { s with asks := 0, cur := k }

theorem issue_of_go {s t : State} {k : Nat} {b : Issue} (h : issueBundle k (fetching s k) = .ok (.go b, t)) :
    s.issue k = ((t.dropAsks k).issued k b, true) := by
  unfold fetching at h
  simp only [State.issue, h]

/-- Settles O55: the fetch gives the word, the word passes every check, and the issued bundle holds its one slot. -/
theorem issuesWhatStandsAtPc : Obligations.IssuesWhatStandsAtPc := by
  unfold Obligations.IssuesWhatStandsAtPc
  intro s k p e w i c l cap va u hchk hcheck hcanon hfind hX hplace hend hhbm hbytes hstop hprefix hdec hwide hmode hmajor hloops htarget
    holder htodo hyounger hparked
  have hfetch : fetchWord k c.pc (fetching s k) = .ok (w, (fetching s k).touchRead (allocOf e.leaf false) p 4) :=
    fetchWord_hit ⟨hcheck, hcanon, hfind, hX, hplace, hhbm, hbytes⟩
  have honly := (fetching s k).touchRead_only (allocOf e.leaf false) p 4
  have hmem := Steps.mem_touchRead (fetching s k) (allocOf e.leaf false) p 4
  generalize (fetching s k).touchRead (allocOf e.leaf false) p 4 = t at hfetch honly hmem
  have hctx : t.ctx k = c := honly.ctx k
  have hleft : NothingLeft t k := by
    constructor
    · rw [hctx, holder]
    · rw [hctx, htodo]
    · rw [hctx, hyounger]
    · rw [State.parkedOf, honly.core]
      exact hparked
  have hplain : Plain w i c.regs.mode := ⟨hstop, hprefix, hdec, hwide, hmode, hmajor, hloops, htarget⟩
  have hissue : s.issue k = ((t.dropAsks k).issued k (c.bundle [w]), true) :=
    issue_of_go (issueBundle_single (s := fetching s k) hchk hfetch hleft hplain)
  have htodo' : (c.bundle [w]).todo = [onlySlot w] := bundle_todo c hprefix
  have hbank : (t.dropAsks k).ctx k = c := hctx
  have hissued := issued_single (t.dropAsks k) k htodo' hmajor rfl rfl rfl
  rw [hbank] at hissued
  refine ⟨_, c.bundle [w], hissue, htodo', rfl, rfl, rfl, ?_, ?_, ?_, ?_⟩
  · rw [hissued, State.ctx_setCtx_same]
    split
    · rfl
    · rfl
  · rw [hissued]
    refine sameBytes_of_swz hmem fun j => ?_
    rw [State.core_setCtx, swz_addPerf]
    exact congrArg Core.swz (honly.core j)
  · intro hu
    have hs : (onlySlot w).exu = .s := hu
    rw [hissued, State.ctx_setCtx_same, if_pos hs]
    exact ⟨rfl, holder, rfl⟩
  · intro hu
    have hs : ¬ (onlySlot w).exu = .s := hu
    rw [hissued, State.ctx_setCtx_same, if_neg hs]
    refine ⟨rfl, ?_, rfl⟩
    show c.older ++ [c.bundle [w]] = _
    rw [holder]
    rfl

end Sys2Proof.Issuing
end

section
/-! SUPPORT. CSRR and CSRW (R112, R148): what each CSR reads, what a write of it stores, and the slots that change one CORE CSR. -/
namespace Sys2Proof.ControlRegisters
open Sys2Proof Sys2Proof.Machine Sys2Proof.Banks Sys2Proof.Steps

/-! ## CTX CSRs as they read (R61, R62, R113, R415, R416) -/

theorem toNat_append_add {p q : Nat} (x : BitVec p) (y : BitVec q) : (x ++ y).toNat = x.toNat * 2 ^ q + y.toNat := by
  rw [BitVec.toNat_append, ← Nat.shiftLeft_add_eq_or_of_lt y.isLt, Nat.shiftLeft_eq]

theorem xstat_eq (c : Ctx) (k : Nat) :
    c.xstat k = BitVec.ofNat 64 (c.regs.launch.toNat * 2 ^ 32 + c.regs.task.toNat * 2 ^ 20 + c.regs.qdepth.toNat * 2 ^ 13 +
      c.regs.prio.toNat * 2 ^ 9 + c.regs.openStep.toNat * 2 ^ 8 + k % 2) := by
  have hbank : (decide (k % 2 = 1)).toNat = k % 2 := by
    rcases Nat.mod_two_eq_zero_or_one k with h | h
    · rw [h]; rfl
    · rw [h]; rfl
  have hfields : (c.xstat k).toNat = c.regs.launch.toNat * 2 ^ 32 + c.regs.task.toNat * 2 ^ 20 + c.regs.qdepth.toNat * 2 ^ 13 +
      c.regs.prio.toNat * 2 ^ 9 + c.regs.openStep.toNat * 2 ^ 8 + k % 2 := by
    simp only [Ctx.xstat, toNat_append_add, BitVec.toNat_ofBool, hbank, BitVec.ofNat_eq_ofNat, BitVec.toNat_ofNat]
    omega
  rw [← hfields, BitVec.ofNat_toNat, BitVec.setWidth_eq]
theorem stacks_eq (c : Ctx) : c.stacks = BitVec.ofNat 64 (c.regs.mask.length + 256 * c.regs.ldepth) := by
  rw [Ctx.stacks, Nat.add_comm, Nat.mul_comm]
theorem ffctl_eq (c : Ctx) :
    c.ffctl = BitVec.ofNat 64 (c.regs.mode.toNat + 4 * c.regs.act.toNat + 256 * c.regs.lost.toNat + 4096 * c.pend.length) := by
  rw [Ctx.ffctl]
  congr 1
  omega
/-- The CSRs of the two frames. -/
theorem csr_frame (c : Ctx) (k : Nat) {n : Nat} (hlo : 0x11 ≤ n) (hhi : n < 0x3F) : c.csr k n = c.regs.ff.get 0 n := by
  unfold Ctx.csr
  split
  case h_12 => rw [if_pos ⟨hlo, hhi⟩]
  all_goals omega

/-! ## CORE CSRs as they read (R54, R114, R205, R403, R409) -/

theorem perfListed_iff {n : Nat} : perfListed n = true ↔ (0x110 ≤ n ∧ n < 0x12C) ∨ (0x140 ≤ n ∧ n < 0x148) := by simp [perfListed]

theorem coreCsr_swz (s : State) (core : Nat) {n : Nat} (hlo : 0x108 ≤ n) (hhi : n < 0x110) :
    s.coreCsr core n = (s.core core).swz.get 0 (n - 0x108) := by
  have hid : n ≠ 0x100 := by omega
  have hzeroed : n ≠ 0x101 := by omega
  rw [State.coreCsr, if_neg hid, if_neg hzeroed, if_pos ⟨hlo, hhi⟩]
theorem coreCsr_perf (s : State) (core : Nat) {n : Nat} (hn : (0x110 ≤ n ∧ n < 0x12C) ∨ (0x140 ≤ n ∧ n < 0x148)) :
    s.coreCsr core n = ((s.core core).perf.get 0 n).setWidth 64 := by
  have hid : n ≠ 0x100 := by omega
  have hzeroed : n ≠ 0x101 := by omega
  have hswz : ¬ (0x108 ≤ n ∧ n < 0x110) := by omega
  have hns : n ≠ 0x17E := by omega
  have hfrac : n ≠ 0x17F := by omega
  rw [State.coreCsr, if_neg hid, if_neg hzeroed, if_neg hswz, if_neg hns, if_neg hfrac, if_pos (perfListed_iff.mpr hn)]

/-- A CSR as a slot of the running bundle reads it (R54). -/
def readCsr (s : State) (n : Nat) : Word64 := if n < 0x100 then { s.ctx s.cur with regs := s.old }.csr s.cur n else s.oldCore n

theorem readCsr_frame (s : State) {n : Nat} (hlo : 0x11 ≤ n) (hhi : n < 0x3F) : readCsr s n = s.old.ff.get 0 n := by
  have hctx : n < 0x100 := by omega
  rw [readCsr, if_pos hctx, csr_frame _ _ hlo hhi]
/-- A lower slot of the bundle wrote the CSR. -/
theorem readCsr_written {s : State} {n : Nat} {v : Word64} (hn : 0x100 ≤ n) (h : (s.ctx s.cur).issue.coreOld.find n = some v) :
    readCsr s n = v := by
  rw [readCsr, if_neg (Nat.not_lt.mpr hn), State.oldCore, h]
  rfl
theorem readCsr_core {s : State} {n : Nat} (hn : 0x100 ≤ n) (h : (s.ctx s.cur).issue.coreOld = []) :
    readCsr s n = s.coreCsr (s.cur / 2) n := by
  rw [readCsr, if_neg (Nat.not_lt.mpr hn), State.oldCore, h]
  rfl

/-! ## A slot that changes one core (R54) -/

theorem touched_trans {s t u : State} (h : Touched s t) (h' : Touched t u) : Touched s u := by
  have hcur := h.cur
  obtain ⟨hrest, hothers, hown, htodo, hidx, hnext, htrap, hret⟩ := h
  obtain ⟨hrest', hothers', hown', htodo', hidx', hnext', htrap', hret'⟩ := h'
  rw [hcur] at hothers' hown' htodo' hidx' hnext' htrap' hret'
  refine ⟨?_, fun k hk => (hothers' k hk).trans (hothers k hk), ?_, htodo'.trans htodo, hidx'.trans hidx, hnext'.trans hnext,
    htrap'.trans htrap, hret'.trans hret⟩
  · rw [hrest', hrest]
  · rw [hown', hown]

/-- The record of what a CORE CSR held changes the bundle's record only. -/
theorem keepCore_eq (s : State) (n : Nat) :
    ∃ kept, s.keepCore n = s.setCtx s.cur { s.ctx s.cur with issue := { (s.ctx s.cur).issue with coreOld := kept } } := by
  rw [State.keepCore, State.modCtx_eq]
  split
  · exact ⟨(s.ctx s.cur).issue.coreOld, rfl⟩
  · exact ⟨_, rfl⟩
theorem touched_keepCore (s : State) (n : Nat) : Touched s (s.keepCore n) := by
  obtain ⟨kept, h⟩ := keepCore_eq s n
  rw [h]
  exact Touched.modCtx s (fun c => { c with issue := { c.issue with coreOld := kept } }) rfl rfl rfl rfl rfl rfl
@[simp] theorem regs_keepCore (s : State) (n : Nat) : (s.keepCore n).regs = s.regs := by
  obtain ⟨kept, h⟩ := keepCore_eq s n
  rw [h, State.regs, State.setCtx_cur, State.ctx_setCtx_same]
  rfl
@[simp] theorem target_keepCore (s : State) (n : Nat) : ((s.keepCore n).ctx s.cur).issue.target = (s.ctx s.cur).issue.target := by
  obtain ⟨kept, h⟩ := keepCore_eq s n
  rw [h, State.ctx_setCtx_same]
@[simp] theorem core_keepCore (s : State) (n k : Nat) : (s.keepCore n).core k = s.core k := rfl

theorem retire_setCore {s : State} (run : Running s) (k : Nat) (e : Core) : (s.setCore k e).retire = s.retire.setCore k e := by
  have hrun : Running (s.setCore k e) := ⟨run.resident, run.noTrap, run.noReturn⟩
  rw [State.retire_eq _ hrun, State.retire_eq _ run]
  rfl

/-- The slot has left registers `r`, and core `k` is `e`; no other core, no byte and no device CSR has changed, and control goes on. -/
structure LeavesCore (s t : State) (r : Regs) (k : Nat) (e : Core) : Prop where
  regs : t.regs = r
  goes : GoesTo s t (s.ctx s.cur).issue.target
  core : t.core k = e
  others : ∀ c, c ≠ k → t.core c = s.core c
  mem : t.mem = s.mem
  dev : t.dev = s.dev

theorem leavesCore_retire {s u : State} (run : Running s) (h : Touched s u)
    (htarget : (u.ctx s.cur).issue.target = (s.ctx s.cur).issue.target) (k : Nat) (e : Core) :
    LeavesCore s (u.setCore k e).retire u.regs k e := by
  obtain ⟨hown, hregs⟩ := h.retire run
  have hgoes := h.goes run
  rw [htarget] at hgoes
  rw [retire_setCore (h.running run)]
  have hrest := hown.rest
  refine ⟨hregs, hgoes, State.core_setCore_same _ _ _, fun c hc => ?_, ?_, ?_⟩
  · rw [State.core_setCore, if_neg hc, hrest]
    rfl
  · rw [State.setCore_mem, hrest]
  · rw [State.setCore_dev, hrest]

/-! ## CSRR -/

section
variable {s : State} {st : Bool} {d : BitVec 6} {n : BitVec 12}

theorem exec_csrr (hn : n.toNat ≠ 0x17E) :
    exec (.csrr st d n) s = regSlot (fun _ r => r.wx d.toNat ⟨readCsr s n.toNat, false⟩) s :=
  congrArg (fun t : State => Host.Outcome.next t.retire) (if_neg hn)

/-- A read without a side effect. -/
theorem gives_csrr (run : Running s) (hn : n.toNat ≠ 0x17E) {v : Word64} (hv : readCsr s n.toNat = v) :
    Gives s (.csrr st d n) fun q => OnlyX d.toNat s.regs q ∧ q.rx d.toNat = xAfter d ⟨v, false⟩ := by
  rw [← hv]
  exact gives_regSlot _ run (exec_csrr hn) ⟨onlyX_wx _ _ _, rx_wx_same _ _ _⟩

/-- A read of CORE.GTNS (R403): the state before the fraction is latched. -/
def gtnsRead (d : BitVec 6) (s : State) : State := (s.modRegs fun r => r.wx d.toNat ⟨readCsr s 0x17E, false⟩).keepCore 0x17F

theorem touched_gtnsRead (d : BitVec 6) (s : State) : Touched s (gtnsRead d s) :=
  touched_trans (Touched.modRegs s _) (touched_keepCore _ _)
theorem exec_csrr_gtns : exec (.csrr st d 0x17E) s =
    .next ((gtnsRead d s).setCore (s.cur / 2) { s.core (s.cur / 2) with gtFrac := BitVec.ofNat 16 (s.gt % 2 ^ 16) }).retire := rfl
theorem target_gtnsRead (d : BitVec 6) (s : State) : ((gtnsRead d s).ctx s.cur).issue.target = (s.ctx s.cur).issue.target := by
  refine (target_keepCore (s.modRegs _) 0x17F).trans ?_
  rw [State.modRegs, State.modCtx_eq, State.setCtx_cur, State.ctx_setCtx_same]
theorem regs_gtnsRead (d : BitVec 6) (s : State) : (gtnsRead d s).regs = s.regs.wx d.toNat ⟨readCsr s 0x17E, false⟩ := by
  rw [gtnsRead, regs_keepCore, State.modRegs, State.modCtx_eq, State.regs, State.setCtx_cur, State.ctx_setCtx_same]
  rfl
end

theorem csrRead : Parts.CsrRead := by
  unfold Parts.CsrRead
  intro s st d run r core gives xstat
  have hframe : ∀ n : BitVec 12, 0x11 ≤ n.toNat → n.toNat < 0x3F → gives n (r.ff.get 0 n.toNat) := fun n hlo hhi =>
    gives_csrr run (by omega) (readCsr_frame s hlo hhi)
  have hwritten : ∀ (n : BitVec 12) v, 0x100 ≤ n.toNat → n ≠ 0x17E → (s.ctx s.cur).issue.coreOld.find n.toNat = some v → gives n v :=
    fun n v hn hne h => gives_csrr run (fun h' => hne (BitVec.eq_of_toNat_eq h')) (readCsr_written hn h)
  refine ⟨gives_csrr run (by decide) rfl, gives_csrr run (by decide) (xstat_eq _ _), gives_csrr run (by decide) rfl,
    gives_csrr run (by decide) rfl, gives_csrr run (by decide) rfl, gives_csrr run (by decide) (stacks_eq _),
    gives_csrr run (by decide) rfl, gives_csrr run (by decide) rfl, gives_csrr run (by decide) rfl, gives_csrr run (by decide) rfl,
    gives_csrr run (by decide) (ffctl_eq _), hframe, hwritten, fun hnone => ?_⟩
  have hcore : ∀ (n : BitVec 12) v, 0x100 ≤ n.toNat → n.toNat ≠ 0x17E → s.coreCsr (s.cur / 2) n.toNat = v → gives n v :=
    fun n v hn hne hv => gives_csrr run hne ((readCsr_core hn hnone).trans hv)
  refine ⟨hcore _ _ (by decide) (by decide) rfl, hcore _ _ (by decide) (by decide) rfl,
    fun n hlo hhi => hcore n _ (by omega) (by omega) (coreCsr_swz s _ hlo hhi), fun n hlo hn => ?_,
    hcore _ _ (by decide) (by decide) rfl, ?_⟩
  · exact hcore n _ (by omega) (by omega) (coreCsr_perf s _ (by omega))
  · have hend := leavesCore_retire run (touched_gtnsRead d s) (target_gtnsRead d s) (s.cur / 2)
      { s.core (s.cur / 2) with gtFrac := BitVec.ofNat 16 (s.gt % 2 ^ 16) }
    have hregs := hend.regs.trans (regs_gtnsRead d s)
    have hvalue : readCsr s 0x17E = BitVec.ofNat 64 (s.gt / 2 ^ 16) := readCsr_core (by decide) hnone
    refine ⟨_, exec_csrr_gtns, ?_, ?_, ?_⟩
    · rw [hregs]
      exact onlyX_wx _ _ _
    · rw [hregs, rx_wx_same, hvalue]
    · rw [hend.core]

/-! ## What a write stores (R38, R205, R303, R416) -/

/-- A write of CTX.QMODE keeps its bits 15:12 and takes bits 11:0 (R303). -/
theorem qmode_written (q v : Word64) :
    (q &&& 0xF000) ||| (v &&& 0xFFF) = (q.extractLsb' 12 4 ++ v.extractLsb' 0 12 : BitVec 16).setWidth 64 := by
  have hhigh : ∀ i < 64, (0xF000 : Word64).getLsbD i = (decide (12 ≤ i) && decide (i < 16)) := by decide
  have hlow : ∀ i < 64, (0xFFF : Word64).getLsbD i = decide (i < 12) := by decide
  refine BitVec.eq_of_getLsbD_eq fun i hi => ?_
  rw [BitVec.getLsbD_or, BitVec.getLsbD_and, BitVec.getLsbD_and, hhigh i hi, hlow i hi, BitVec.getLsbD_setWidth, BitVec.getLsbD_append,
    BitVec.getLsbD_extractLsb', BitVec.getLsbD_extractLsb']
  by_cases h12 : i < 12
  · simp [h12, hi]
  · have hfield : decide (i - 12 < 4) = (decide (12 ≤ i) && decide (i < 16)) := by
      rw [← Bool.decide_and]
      exact decide_eq_decide.mpr (by omega)
    have hsource : 12 + (i - 12) = i := by omega
    simp [h12, hi, hfield, hsource, Bool.and_comm]

/-- A write of the rounding mode and the flags, by a bundle that has set none (R90). -/
theorem writeCsr_fcsr {c : Ctx} (v : Word64) (hflags : c.issue.flags = 0) :
    c.writeCsr 0 v = { c with regs := { c.regs with fcsr := v.setWidth 32 &&& 0x31F } } := by
  have hnone : (v.setWidth 32 &&& 0x31F) ||| c.issue.flags.setWidth 32 = v.setWidth 32 &&& 0x31F := by simp [hflags]
  rw [Ctx.writeCsr, if_pos rfl, hnone]
theorem writeCsr_qmode (c : Ctx) (v : Word64) : c.writeCsr 6 v =
    { c with regs := { c.regs with qmode := (c.regs.qmode.extractLsb' 12 4 ++ v.extractLsb' 0 12 : BitVec 16).setWidth 64 } } := by
  rw [← qmode_written]
  rfl
/-- A frame CSR other than FFn.PC_S. -/
theorem writeCsr_frame (c : Ctx) {n : Nat} (v : Word64) (hlo : 0x11 ≤ n) (hhi : n < 0x3F) (h1 : n ≠ 0x12) (h2 : n ≠ 0x29) :
    c.writeCsr n v = { c with regs := { c.regs with ff := c.regs.ff.put n v } } := by
  have hother : n ≠ 0 ∧ n ≠ 6 ∧ n ≠ 8 ∧ n ≠ 9 ∧ n ≠ 10 ∧ n ≠ 0x10 := by omega
  simp [Ctx.writeCsr, hother, h1, h2, hlo, hhi]
/-- FFn.SCR0 to FFn.SCR3, the handler's scratch (R416). -/
theorem scratch_writable : ∀ n ∈ [0x24, 0x25, 0x26, 0x27, 0x3B, 0x3C, 0x3D, 0x3E],
    csrReadOnly n = false ∧ 0x11 ≤ n ∧ n < 0x3F ∧ n ≠ 0x12 ∧ n ≠ 0x29 := by decide

theorem writeCsr_poisonZeroed (e : Core) (v : Word64) : e.writeCsr 0x101 v = { e with poisonZeroed := v.setWidth 48 } := rfl
theorem writeCsr_swz (e : Core) {n : Nat} (v : Word64) (hlo : 0x108 ≤ n) (hhi : n < 0x110) :
    e.writeCsr n v = { e with swz := e.swz.put (n - 0x108) (v &&& swzMask) } := by
  have hzeroed : n ≠ 0x101 := by omega
  rw [Core.writeCsr, if_neg hzeroed, if_pos ⟨hlo, hhi⟩]
theorem writeCsr_perf (e : Core) {n : Nat} (v : Word64) (hn : (0x110 ≤ n ∧ n < 0x12C) ∨ (0x140 ≤ n ∧ n < 0x148)) :
    e.writeCsr n v = { e with perf := e.perf.put n (v.setWidth 48) } := by
  have hzeroed : n ≠ 0x101 := by omega
  have hswz : ¬ (0x108 ≤ n ∧ n < 0x110) := by omega
  rw [Core.writeCsr, if_neg hzeroed, if_neg hswz, if_pos (perfListed_iff.mpr hn)]

/-- The CORE CSRs between CORE.ID and CORE.GTNS have a field that software writes. -/
theorem csrReadOnly_core {n : Nat} (hlo : 0x100 < n) (hhi : n < 0x17E) : csrReadOnly n = false := by
  simp only [csrReadOnly, Bool.or_eq_false_iff, Bool.and_eq_false_iff, decide_eq_false_iff_not]
  omega

/-- An image without the S image holds no slot of S (R416). -/
theorem todo_dropS (i : Image) : ∀ q ∈ i.dropS.issue.todo, q.exu ≠ .s := fun q hq => by
  simpa using (List.mem_filter.mp hq).2

/-! ## CSRW -/

/-- What a CSRW that nothing holds back stores. -/
def storeCsr (s : State) (n : Nat) (v : Word64) : State :=
  if n < 0x100 then s.modCtx s.cur fun e => e.writeCsr n v else (s.keepCore n).modCore (s.cur / 2) fun e => e.writeCsr n v

/-- No older matrix slot, nest or broadcast of the running context is on its way (R206). -/
def MatrixQuiet (s : State) : Prop :=
  (∀ b ∈ (s.ctx s.cur).older, ∀ q ∈ b.todo, q.exu ≠ .mx) ∧
    (∀ q ∈ (s.ctx s.cur).issue.todo, q.exu = .mx → (s.ctx s.cur).issue.cur ≤ q.idx) ∧
    ∀ d ∈ s.cmds, d.inc = (s.ctx s.cur).inc → d.unit ≠ .nest ∧ d.unit ≠ .stage

theorem swzWaits_eq_false_iff (s : State) : s.swzWaits = false ↔ MatrixQuiet s := by
  simp [State.swzWaits, MatrixQuiet, Issue.has, and_assoc]

section
variable {s : State} {st : Bool} {a : BitVec 6} {n : BitVec 12}

theorem exec_csrw_poisoned (hx : (s.old.rx a.toNat).psn = true) :
    exec (.csrw st a n) s = .next (s.raise (.poison (regTag 0 a.toNat))) := if_pos hx

variable (hx : (s.old.rx a.toNat).psn = false)
include hx

theorem exec_csrw : exec (.csrw st a n) s =
    if csrReadOnly n.toNat = true then .next (s.raise .privViolation)
    else if 0x108 ≤ n.toNat ∧ n.toNat < 0x110 ∧ s.swzWaits = true then .next s.stall
    else .next (storeCsr s n.toNat (s.old.rx a.toNat).v).retire :=
  if_neg (by rw [hx]; exact Bool.false_ne_true)

theorem exec_csrw_readOnly (hro : csrReadOnly n.toNat = true) : exec (.csrw st a n) s = .next (s.raise .privViolation) :=
  (exec_csrw hx).trans (if_pos hro)

theorem exec_csrw_ctx (hro : csrReadOnly n.toNat = false) (hn : n.toNat < 0x100) :
    exec (.csrw st a n) s = .next (s.modCtx s.cur fun e => e.writeCsr n.toNat (s.old.rx a.toNat).v).retire := by
  have hgo : ¬ (0x108 ≤ n.toNat ∧ n.toNat < 0x110 ∧ s.swzWaits = true) := by omega
  rw [exec_csrw hx, hro, if_neg Bool.false_ne_true, if_neg hgo, storeCsr, if_pos hn]

/-- A write of a CTX CSR that is a register of its own bank. -/
theorem gives_csrw (run : Running s) (hro : csrReadOnly n.toNat = false) (hn : n.toNat < 0x100) {r : Regs}
    (hw : (s.ctx s.cur).writeCsr n.toNat (s.old.rx a.toNat).v = { s.ctx s.cur with regs := r }) :
    Gives s (.csrw st a n) fun q => q = r := by
  refine gives_regSlot (fun _ _ => r) run ((exec_csrw_ctx hx hro hn).trans ?_) rfl
  rw [State.modCtx_eq, hw]
  rfl

/-- A write of a CORE CSR. -/
theorem leavesCore_csrw (run : Running s) (hlo : 0x100 < n.toNat) (hhi : n.toNat < 0x17E)
    (hgo : ¬ (0x108 ≤ n.toNat ∧ n.toNat < 0x110 ∧ s.swzWaits = true)) {e : Core}
    (hw : (s.core (s.cur / 2)).writeCsr n.toNat (s.old.rx a.toNat).v = e) :
    ∃ t, exec (.csrw st a n) s = .next t ∧ LeavesCore s t s.regs (s.cur / 2) e := by
  have hn : ¬ n.toNat < 0x100 := by omega
  have hend := leavesCore_retire run (touched_keepCore s n.toNat) (target_keepCore s n.toNat) (s.cur / 2) e
  rw [regs_keepCore] at hend
  refine ⟨_, ?_, hend⟩
  rw [exec_csrw hx, csrReadOnly_core hlo hhi, if_neg Bool.false_ne_true, if_neg hgo, storeCsr, if_neg hn, State.modCore_eq, core_keepCore, hw]

/-- A write of CORE.SWZn behind matrix work waits (R206). -/
theorem waits_csrw_swz (hlo : 0x108 ≤ n.toNat) (hhi : n.toNat < 0x110) (hwaits : s.swzWaits = true) : Waits s (.csrw st a n) := by
  have hexec : exec (.csrw st a n) s = .next s.stall := by
    rw [exec_csrw hx, csrReadOnly_core (by omega) (by omega), if_neg Bool.false_ne_true, if_pos ⟨hlo, hhi, hwaits⟩]
  obtain ⟨hregs, hissue, -⟩ := stall_waits s
  refine ⟨_, hexec, ?_, ?_, hregs, fun _ => rfl⟩
  · rw [hissue]
  · exact (congrArg Ctx.pc (State.ctx_setCtx_same _ _ _)).trans rfl
end

/-! ### A write of FFn.PC_S (R416) -/

@[simp] theorem retired_img1 (c : Ctx) (u : ExecUnit) : (c.retired u).img1 = c.img1 := by
  unfold Ctx.retired; dsimp only; split <;> rfl
@[simp] theorem retired_img2 (c : Ctx) (u : ExecUnit) : (c.retired u).img2 = c.img2 := by
  unfold Ctx.retired; dsimp only; split <;> rfl

/-- The slot has left registers `r` and the images `i1` and `i2`, and control goes on. -/
structure LeavesImages (s t : State) (r : Regs) (i1 i2 : Option Image) : Prop where
  regs : t.regs = r
  goes : GoesTo s t (s.ctx s.cur).issue.target
  img1 : (t.ctx s.cur).img1 = i1
  img2 : (t.ctx s.cur).img2 = i2

theorem leavesImages_retire {s u : State} {r : Regs} {i1 i2 : Option Image} (run : Running s) (hcur : u.cur = s.cur)
    (hown : u.ctx s.cur = { s.ctx s.cur with regs := r, img1 := i1, img2 := i2 }) : LeavesImages s u.retire r i1 i2 := by
  have hissue : (u.ctx s.cur).issue = { (s.ctx s.cur).issue with target := (s.ctx s.cur).issue.target } := by rw [hown]
  have hrun : Running u := running_of_issue run hcur hissue (by rw [hown])
  have hctx : u.retire.ctx s.cur = (u.ctx s.cur).retired u.slot.exu := by
    rw [State.retire_eq u hrun, hcur, State.ctx_setCtx_same]
  refine ⟨?_, goesTo_retire run hcur hissue (by rw [hown]) (by rw [hown]) (by rw [hown]), ?_, ?_⟩
  · rw [(retire_retires hrun).regs, State.regs, hcur, hown]
  · rw [hctx, retired_img1, hown]
  · rw [hctx, retired_img2, hown]

theorem leavesImages_csrw {s : State} {st : Bool} {a : BitVec 6} {n : BitVec 12} {r : Regs} {i1 i2 : Option Image} (run : Running s)
    (hx : (s.old.rx a.toNat).psn = false) (hro : csrReadOnly n.toNat = false) (hn : n.toNat < 0x100)
    (hw : (s.ctx s.cur).writeCsr n.toNat (s.old.rx a.toNat).v = { s.ctx s.cur with regs := r, img1 := i1, img2 := i2 }) :
    ∃ t, exec (.csrw st a n) s = .next t ∧ LeavesImages s t r i1 i2 :=
  ⟨_, exec_csrw_ctx hx hro hn, leavesImages_retire run rfl ((State.ctx_setCtx_same _ _ _).trans hw)⟩

theorem todo_of_map_dropS {o : Option Image} {im : Image} (h : o.map Image.dropS = some im) : ∀ q ∈ im.issue.todo, q.exu ≠ .s := by
  obtain ⟨i, -, rfl⟩ := Option.map_eq_some_iff.mp h
  exact todo_dropS i

/-! ### Every CSR -/

theorem csrWrite : Parts.CsrWrite := by
  unfold Parts.CsrWrite
  intro s st a run x v i c quiet core cores
  refine ⟨fun hx n => exec_csrw_poisoned hx, fun hx => ?_⟩
  have hcores : ∀ (n : BitVec 12) (e : Core), 0x100 < n.toNat → n.toNat < 0x17E →
      ¬ (0x108 ≤ n.toNat ∧ n.toNat < 0x110 ∧ s.swzWaits = true) → core.writeCsr n.toNat v = e → cores n e := by
    intro n e hlo hhi hgo hw
    obtain ⟨t, hexec, hregs, hgoes, hcore, hothers, hmem, hdev⟩ := leavesCore_csrw (st := st) hx run hlo hhi hgo hw
    exact ⟨t, hexec, hregs, hgoes, hcore, hothers, hmem, hdev⟩
  have hquiet : s.swzWaits = false ↔ quiet := swzWaits_eq_false_iff s
  refine ⟨fun n hn => exec_csrw_readOnly hx ?_, fun hflags => ?_, ?_, gives_csrw hx run (by decide) (by decide) rfl,
    gives_csrw hx run (by decide) (by decide) rfl, gives_csrw hx run (by decide) (by decide) rfl,
    gives_csrw hx run (by decide) (by decide) rfl, fun n hn => ?_, ?_, fun n m hn => ?_, fun hbusy n hlo hhi => ?_,
    fun n hq hlo hhi => ?_, fun n hn => ?_⟩
  · revert n
    decide
  · exact gives_csrw hx run (by decide) (by decide) (writeCsr_fcsr v hflags)
  · exact gives_csrw hx run (by decide) (by decide) (writeCsr_qmode _ v)
  · obtain ⟨hro, hlo, hhi, h1, h2⟩ := scratch_writable n.toNat hn
    exact gives_csrw hx run hro (by omega) (writeCsr_frame _ v hlo hhi h1 h2)
  · exact hcores 0x101 _ (by decide) (by decide) (fun hswz => absurd hswz.1 (by decide)) (writeCsr_poisonZeroed _ _)
  · rcases hn with ⟨rfl, rfl⟩ | ⟨rfl, rfl⟩
    · obtain ⟨t, hexec, hregs, hgoes, h1, -⟩ := leavesImages_csrw (st := st) (n := 0x12) run hx (by decide) (by decide) rfl
      exact ⟨t, hexec, hregs, hgoes, fun im him => todo_of_map_dropS (h1.symm.trans him)⟩
    · obtain ⟨t, hexec, hregs, hgoes, -, h2⟩ := leavesImages_csrw (st := st) (n := 0x29) run hx (by decide) (by decide) rfl
      exact ⟨t, hexec, hregs, hgoes, fun im him => todo_of_map_dropS (h2.symm.trans him)⟩
  · exact waits_csrw_swz hx hlo hhi (Bool.eq_true_of_not_eq_false (mt hquiet.mp hbusy))
  · refine hcores n _ (by omega) (by omega) ?_ (writeCsr_swz _ _ hlo hhi)
    rw [hquiet.mpr hq]
    simp
  · exact hcores n _ (by omega) (by omega) (by omega) (writeCsr_perf _ _ hn)

/-- Settles O20: each CSR reads and stores what its rule says, and a slot of a CORE CSR changes one core. -/
theorem controlRegisters : Obligations.ControlRegisters := ⟨csrRead, csrWrite⟩

end Sys2Proof.ControlRegisters
end

section
/-! SUPPORT. The words of the scalar forms (R91 to R95, R121 to R131): their rows, the prefixes that they accept, and the words that none has. -/
namespace Sys2Proof.Forms
open Sys2Proof Sys2Proof.Machine Sys2Proof.Encoding Sys2Proof.Words

/-- Every instruction that a row, or the rest of a major's rows, reads satisfies `P`. -/
def Rows (P : Instr → Prop) (r : Option Instr) : Prop := ∀ i, r = some i → P i

theorem rows_none (P : Instr → Prop) : Rows P none := by
  rintro i ⟨⟩
theorem rows_some {P : Instr → Prop} {j : Instr} (h : P j) : Rows P (some j) := by
  rintro i ⟨⟩
  exact h
theorem rows_ite {P : Instr → Prop} {j : Instr} {r : Option Instr} {c : Prop} [Decidable c] (h : c → P j) (hr : Rows P r) :
    Rows P (if c then some j else r) := by
  split
  · exact rows_some (h ‹c›)
  · exact hr

/-- The rows of the major decide what a word decodes to. -/
theorem rows_of_decode {P : Instr → Prop} {w : BitVec 32} {i : Instr} (h : decode w = .ok i) (hrows : Rows P (decodeRow (Fields.ofWord w))) :
    P i := hrows i (decodeRow_of_fields ((decode_eq_ok_iff w i).mp h).1)

/-- A scalar form, with the immediate that it takes from LIMM. -/
def Scalar (limm : Option (Nat × Bool)) (i : Instr) : Prop := i.slotInfo.exu = .s ∧ i.slotInfo.deps = false ∧ i.slotInfo.limm = limm

theorem integerRows {x : Fields} (h : x.op.toNat ∈ [0x10, 0x11, 0x12, 0x13, 0x14]) :
    Rows (Scalar (if x.op.toNat = 0x12 then some (12, true) else none)) (decodeRow x) := by
  simp only [List.mem_cons, List.not_mem_nil, or_false] at h
  unfold decodeRow
  rcases h with h | h | h | h | h
  case inr.inr.inl =>
    rw [h]
    exact rows_some ⟨rfl, rfl, rfl⟩
  all_goals
    rw [h]
    repeat' refine rows_ite (fun _ => ⟨rfl, rfl, rfl⟩) ?_
    exact rows_none _

theorem integerForms : Parts.IntegerForms := by
  refine ⟨fun st d a b i => ?_, fun w i h hmajor => rows_of_decode h (integerRows hmajor)⟩
  repeat' apply And.intro
  all_goals rfl

/-! ## Words that no row has -/

/-- A word of a major that has rows, and that is no instruction. -/
theorem decode_illegalFunction {w : BitVec 32} (hres : reservedMajor (majorOf w) = false) (h : ∀ i, decode w ≠ .ok i) :
    decode w = .error .illegalFunction := by
  have hres' : reservedMajor (Fields.ofWord w).op.toNat = false := hres
  unfold decode at h ⊢
  simp only [hres', Bool.false_eq_true, if_false] at h ⊢
  split
  next i _ =>
    split
    · exact absurd (by simp only [*, if_true]) (h i)
    · rfl
  next => rfl

/-- What holds of every well-formed row of its major holds of a word that decodes; where it fails the word is ILLEGAL_FUNCTION. -/
theorem illegalFunction_of_rows {w : BitVec 32} {Q : Instr → Prop} {P : Prop} (hres : reservedMajor (majorOf w) = false)
    (hrows : Rows (fun i => Q i ∧ (i.wf = true → P)) (decodeRow (Fields.ofWord w))) (hp : ¬ P) : decode w = .error .illegalFunction :=
  decode_illegalFunction hres fun i hi => hp ((rows_of_decode hi hrows).2 ((decode_eq_ok_iff w i).mp hi).2)

/-! ## LOGIC to EXT (R125 to R128) -/

section
variable {x : Fields}

theorem logicRows (h : x.op.toNat = 0x15) :
    Rows (fun i => Scalar (if x.f.getLsbD 5 = true then some (6, true) else none) i ∧ (i.wf = true → x.f.extractLsb' 3 2 = 0)) (decodeRow x) := by
  unfold decodeRow
  rw [h]
  repeat' refine rows_ite (fun hf => by rw [hf]; exact ⟨⟨rfl, rfl, rfl⟩, fun _ => rfl⟩) ?_
  exact rows_none _

/-- The place of the immediate bit and of the reserved bit beside it; the amount of an immediate form on 32 bits. -/
def ShiftFields (x : Fields) : Prop :=
  x.f.extractLsb' 0 3 < 5 ∧ (x.f.extractLsb' 4 2).getLsbD 0 = false ∧ ((x.f.extractLsb' 4 2).getLsbD 1 = true → x.f.getLsbD 3 = true → x.b < 32)

theorem shiftFields_register {k : BitVec 3} (hhigh : x.f.extractLsb' 4 2 = 0) (hlow : x.f.extractLsb' 0 3 = k) (hk : k < 5) : ShiftFields x := by
  rw [ShiftFields, hhigh, hlow]
  exact ⟨hk, rfl, fun himm => absurd himm (by decide)⟩
theorem shiftFields_immediate {k : BitVec 3} (hhigh : x.f.extractLsb' 4 2 = 2) (hlow : x.f.extractLsb' 0 3 = k) (hk : k < 5)
    (hwf : (!x.f.getLsbD 3 || decide (x.b < 32)) = true) : ShiftFields x := by
  rw [ShiftFields, hhigh, hlow]
  refine ⟨hk, rfl, fun _ hw => ?_⟩
  rw [hw] at hwf
  exact of_decide_eq_true hwf

theorem shiftRows (h : x.op.toNat = 0x16) : Rows (fun i => Scalar none i ∧ (i.wf = true → ShiftFields x)) (decodeRow x) := by
  unfold decodeRow
  rw [h]
  iterate 5 refine rows_ite (fun ⟨hhigh, hlow⟩ => ⟨⟨rfl, rfl, rfl⟩, fun _ => shiftFields_register hhigh hlow (by decide)⟩) ?_
  iterate 5 refine rows_ite (fun ⟨hhigh, hlow⟩ => ⟨⟨rfl, rfl, rfl⟩, fun hwf => shiftFields_immediate hhigh hlow (by decide) hwf⟩) ?_
  exact rows_none _

theorem bitsRows (h : x.op.toNat = 0x17) : Rows (fun i => Scalar none i ∧ (i.wf = true → x.b = 0 ∧ x.f < 5)) (decodeRow x) := by
  unfold decodeRow
  rw [h]
  repeat' refine rows_ite (fun ⟨hb, hf⟩ => by rw [hb, hf]; exact ⟨⟨rfl, rfl, rfl⟩, fun _ => ⟨rfl, by decide⟩⟩) ?_
  exact rows_none _

theorem minMaxRows (h : x.op.toNat = 0x18) : Rows (fun i => Scalar none i ∧ (i.wf = true → x.f < 4)) (decodeRow x) := by
  unfold decodeRow
  rw [h]
  repeat' refine rows_ite (fun hf => by rw [hf]; exact ⟨⟨rfl, rfl, rfl⟩, fun _ => by decide⟩) ?_
  exact rows_none _

theorem fieldRows (h : x.op.toNat = 0x19 ∨ x.op.toNat = 0x1A) : Rows (Scalar none) (decodeRow x) := by
  unfold decodeRow
  rcases h with h | h
  all_goals
    rw [h]
    exact rows_some ⟨rfl, rfl, rfl⟩

theorem extRows (h : x.op.toNat = 0x1B) : Rows (fun i => Scalar none i ∧ (i.wf = true → x.b < 2)) (decodeRow x) := by
  unfold decodeRow
  rw [h]
  repeat' refine rows_ite (fun hb => by rw [hb]; exact ⟨⟨rfl, rfl, rfl⟩, fun _ => by decide⟩) ?_
  exact rows_none _

end

theorem getLsbD_f (w : BitVec 32) {i : Nat} (hi : i < 6) : (Fields.ofWord w).f.getLsbD i = w.getLsbD i := by
  simp [Fields.ofWord, hi]
theorem extract_f (w : BitVec 32) {o n : Nat} (h : o + n ≤ 6) : (Fields.ofWord w).f.extractLsb' o n = w.extractLsb' o n :=
  (extract_extract w 0 6 o n h).trans (by rw [Nat.zero_add])

theorem reservedMajor_of_eq {w : BitVec 32} {n : Nat} (h : majorOf w = n) (hn : reservedMajor n = false) : reservedMajor (majorOf w) = false := by
  rw [h, hn]

theorem logicForms : Parts.LogicForms := by
  refine ⟨fun st w d a b f => ?_, fun w i h hmajor => ?_, fun w => ⟨?_, ?_, ?_, ?_, ?_⟩⟩
  · repeat' apply And.intro
    all_goals rfl
  · simp only [List.mem_cons, List.not_mem_nil, or_false] at hmajor
    have hnone : ∀ n, majorOf w = n → n ≠ 0x15 → (if majorOf w = 0x15 ∧ w.getLsbD 5 = true then some (6, true) else none) = (none : Option (Nat × Bool)) :=
      fun n hn hne => if_neg fun hw => hne (hn.symm.trans hw.1)
    rcases hmajor with hmajor | hmajor | hmajor | hmajor | hmajor | hmajor | hmajor
    case inl =>
      have hrow := (rows_of_decode h (logicRows hmajor)).1
      simpa only [Scalar, getLsbD_f w (by decide : 5 < 6), hmajor, true_and] using hrow
    all_goals rw [hnone _ hmajor (by decide)]
    · exact (rows_of_decode h (shiftRows hmajor)).1
    · exact (rows_of_decode h (bitsRows hmajor)).1
    · exact (rows_of_decode h (minMaxRows hmajor)).1
    · exact rows_of_decode h (fieldRows (.inl hmajor))
    · exact rows_of_decode h (fieldRows (.inr hmajor))
    · exact (rows_of_decode h (extRows hmajor)).1
  · intro hmajor hf
    exact illegalFunction_of_rows (reservedMajor_of_eq hmajor rfl) (logicRows hmajor) (by rwa [extract_f w (by decide)])
  · intro hmajor hk
    refine illegalFunction_of_rows (reservedMajor_of_eq hmajor rfl) (shiftRows hmajor) ?_
    rintro ⟨hlow, hhigh, himm⟩
    rw [extract_f w (by decide)] at hlow
    rcases hk with hk | hk | ⟨h5, h3, hb⟩
    · exact absurd hlow (BitVec.not_lt.mpr hk)
    · have h4 : w.getLsbD 4 = false := by simpa [extract_f] using hhigh
      exact absurd (h4.symm.trans hk) (by decide)
    · refine absurd (himm ?_ ?_) (BitVec.not_lt.mpr hb)
      · simpa [extract_f] using h5
      · rwa [getLsbD_f w (by decide)]
  · intro hmajor hf
    refine illegalFunction_of_rows (reservedMajor_of_eq hmajor rfl) (bitsRows hmajor) ?_
    rintro ⟨hb, hlow⟩
    exact hf.elim (fun h => h hb) fun h => absurd hlow (BitVec.not_lt.mpr h)
  · intro hmajor hf
    exact illegalFunction_of_rows (reservedMajor_of_eq hmajor rfl) (minMaxRows hmajor) (BitVec.not_lt.mpr hf)
  · intro hmajor hb
    exact illegalFunction_of_rows (reservedMajor_of_eq hmajor rfl) (extRows hmajor) (BitVec.not_lt.mpr hb)

/-! ## CMP to SEL (R129 to R131) -/

/-- A predicate number, from its high bit in the F field and its low bits. -/
def predAt (x : Fields) (bit : Nat) (lo : BitVec 6) : BitVec 7 := x.f.extractLsb' bit 1 ++ lo

section
variable {x : Fields}

theorem cmpRows (h : x.op.toNat = 0x1C) :
    Rows (fun i => Scalar none i ∧ (i.wf = true → x.f.extractLsb' 3 2 = 0 ∧ predAt x 5 x.d < 96)) (decodeRow x) := by
  unfold decodeRow
  rw [h]
  refine rows_ite (fun hf => ⟨⟨rfl, rfl, rfl⟩, fun hwf => ⟨hf, of_decide_eq_true hwf⟩⟩) ?_
  exact rows_none _

/-- The immediate extends by sign, but for the unsigned conditions. -/
theorem cmpi_extends (c : BitVec 3) : (c != 4 && c != 5) = decide (c ≠ 4 ∧ c ≠ 5) := by
  revert c
  decide

theorem cmpiRows (h : x.op.toNat = 0x1D) :
    Rows (fun i => Scalar (some (6, decide (x.f.extractLsb' 0 3 ≠ 4 ∧ x.f.extractLsb' 0 3 ≠ 5))) i ∧
      (i.wf = true → x.f.extractLsb' 3 2 = 0 ∧ predAt x 5 x.d < 96)) (decodeRow x) := by
  unfold decodeRow
  rw [h, ← cmpi_extends]
  refine rows_ite (fun hf => ⟨⟨rfl, rfl, rfl⟩, fun hwf => ⟨hf, of_decide_eq_true hwf⟩⟩) ?_
  exact rows_none _

/-- The predicates of PLOGIC; a form of one operand has 0 in the place of the second. -/
def PredicateFields (x : Fields) : Prop :=
  (predAt x 5 x.d < 96 ∧ predAt x 4 x.a < 96 ∧ predAt x 3 x.b < 96) ∧
    (x.f.extractLsb' 0 3 = 5 ∨ x.f.extractLsb' 0 3 = 6 → x.b = 0 ∧ x.f.extractLsb' 3 1 = 0)

theorem predicateFields_two {k : BitVec 3} (hf : x.f.extractLsb' 0 3 = k) (hk : ¬ (k = 5 ∨ k = 6))
    (hwf : (decide (predAt x 5 x.d < 96) && decide (predAt x 4 x.a < 96) && decide (predAt x 3 x.b < 96)) = true) : PredicateFields x := by
  rw [PredicateFields, hf]
  simp only [Bool.and_eq_true, decide_eq_true_eq] at hwf
  exact ⟨⟨hwf.1.1, hwf.1.2, hwf.2⟩, fun h => absurd h hk⟩

theorem predicateFields_one {k : BitVec 4} (hb : x.b = 0) (hf : x.f.extractLsb' 0 4 = k) (hk : k < 8)
    (hwf : (decide (predAt x 5 x.d < 96) && decide (predAt x 4 x.a < 96)) = true) : PredicateFields x := by
  have hbit : x.f.extractLsb' 3 1 = 0 := by
    rw [← Nat.zero_add 3, ← extract_extract x.f 0 4 3 1 (by decide), hf]
    clear hf
    revert k
    decide
  simp only [Bool.and_eq_true, decide_eq_true_eq] at hwf
  refine ⟨⟨hwf.1, hwf.2, ?_⟩, fun _ => ⟨hb, hbit⟩⟩
  rw [predAt, hbit, hb]
  decide

theorem plogicRows (h : x.op.toNat = 0x1E) : Rows (fun i => Scalar none i ∧ (i.wf = true → PredicateFields x)) (decodeRow x) := by
  unfold decodeRow
  rw [h]
  iterate 5 refine rows_ite (fun hf => ⟨⟨rfl, rfl, rfl⟩, fun hwf => predicateFields_two hf (by decide) hwf⟩) ?_
  iterate 2 refine rows_ite (fun ⟨hb, hf⟩ => ⟨⟨rfl, rfl, rfl⟩, fun hwf => predicateFields_one hb hf (by decide) hwf⟩) ?_
  refine rows_ite (fun hf => ⟨⟨rfl, rfl, rfl⟩, fun hwf => predicateFields_two hf (by decide) hwf⟩) ?_
  exact rows_none _

theorem selRows (h : x.op.toNat = 0x1F) :
    Rows (fun i => Scalar none i ∧ (i.wf = true → predAt x 5 x.b < 96 ∧ x.f.extractLsb' 0 5 < 3)) (decodeRow x) := by
  unfold decodeRow
  rw [h]
  repeat' refine rows_ite (fun hf => ⟨⟨rfl, rfl, rfl⟩, fun hwf => ⟨of_decide_eq_true hwf, by rw [hf]; decide⟩⟩) ?_
  exact rows_none _

end

theorem predAt_ofWord (w : BitVec 32) {bit : Nat} (lo : BitVec 6) (hbit : bit + 1 ≤ 6) :
    predAt (Fields.ofWord w) bit lo = w.extractLsb' bit 1 ++ lo := by
  rw [predAt, extract_f w hbit]

/-- The word of a form of PLOGIC with one operand. -/
theorem word_one_operand (st : Bool) (p q : BitVec 7) (k : BitVec 3) :
    Fields.word ⟨st, 0x1E, p.extractLsb' 0 6, q.extractLsb' 0 6, 0, p.extractLsb' 6 1 ++ q.extractLsb' 6 1 ++ ((0 : BitVec 1) ++ k)⟩ =
      Fields.word ⟨st, 0x1E, p.extractLsb' 0 6, q.extractLsb' 0 6, 0, p.extractLsb' 6 1 ++ q.extractLsb' 6 1 ++ (0 : BitVec 1) ++ k⟩ := by
  have hf : ∀ (h : BitVec 2) (k : BitVec 3), (h ++ ((0 : BitVec 1) ++ k) : BitVec 6) = h ++ (0 : BitVec 1) ++ k := by decide
  exact congrArg (fun f => Fields.word ⟨st, 0x1E, p.extractLsb' 0 6, q.extractLsb' 0 6, 0, f⟩) (hf (p.extractLsb' 6 1 ++ q.extractLsb' 6 1) k)

theorem compareForms : Parts.CompareForms := by
  refine ⟨fun st p q u d a b c => ?_, fun w i h hmajor => ?_, fun w => ⟨?_, ?_, ?_⟩⟩
  · refine ⟨rfl, rfl, rfl, rfl, rfl, rfl, rfl, rfl, ?_, ?_, rfl, rfl, rfl⟩
    · exact congrArg some (word_one_operand st p q 5)
    · exact congrArg some (word_one_operand st p q 6)
  · simp only [List.mem_cons, List.not_mem_nil, or_false] at hmajor
    have hlimm := extract_f w (o := 0) (n := 3) (by decide)
    rcases hmajor with hmajor | hmajor | hmajor | hmajor
    case inr.inl =>
      rw [if_pos hmajor, ← hlimm]
      exact (rows_of_decode h (cmpiRows hmajor)).1
    all_goals rw [if_neg (by rw [hmajor]; decide)]
    · exact (rows_of_decode h (cmpRows hmajor)).1
    · exact (rows_of_decode h (plogicRows hmajor)).1
    · exact (rows_of_decode h (selRows hmajor)).1
  · intro hmajor hbad
    have hp : ¬ (w.extractLsb' 3 2 = 0 ∧ w.extractLsb' 5 1 ++ w.extractLsb' 18 6 < 96) := fun ⟨hf, hlt⟩ =>
      hbad.elim (fun h => h hf) fun h => absurd hlt (BitVec.not_lt.mpr h)
    rw [← extract_f w (by decide), ← predAt_ofWord w _ (by decide)] at hp
    rcases hmajor with hmajor | hmajor
    · exact illegalFunction_of_rows (reservedMajor_of_eq hmajor rfl) (cmpRows hmajor) hp
    · exact illegalFunction_of_rows (reservedMajor_of_eq hmajor rfl) (cmpiRows hmajor) hp
  · intro hmajor hbad
    refine illegalFunction_of_rows (reservedMajor_of_eq hmajor rfl) (plogicRows hmajor) ?_
    rintro ⟨⟨hd, ha, hb⟩, hone⟩
    rw [predAt_ofWord w _ (by decide)] at hd ha hb
    rw [extract_f w (by decide), extract_f w (by decide)] at hone
    rcases hbad with h | h | h | ⟨hf, h⟩
    · exact absurd hd (BitVec.not_lt.mpr h)
    · exact absurd ha (BitVec.not_lt.mpr h)
    · exact absurd hb (BitVec.not_lt.mpr h)
    · obtain ⟨hzero, hbit⟩ := hone hf
      rw [← ofBool_getLsbD] at hbit
      rcases h with h | h
      · exact h hzero
      · rw [h] at hbit
        exact absurd hbit (by decide)
  · intro hmajor hbad
    refine illegalFunction_of_rows (reservedMajor_of_eq hmajor rfl) (selRows hmajor) ?_
    rintro ⟨hp, hf⟩
    rw [predAt_ofWord w _ (by decide)] at hp
    rw [extract_f w (by decide)] at hf
    rcases hbad with h | h
    · exact absurd hp (BitVec.not_lt.mpr h)
    · exact absurd hf (BitVec.not_lt.mpr h)

end Sys2Proof.Forms
end

section
/-! SUPPORT. Integer arithmetic of the scalar slots (R29, R118, R121 to R124): exact values of the results. -/
namespace Sys2Proof.Integers
open Sys2Proof Sys2Proof.Machine

/-! ## Halves, extensions and clamps (R118, R121) -/

theorem lo32_eq (x : Word64) : lo32 x = x.extractLsb' 0 32 := BitVec.setWidth_eq_extractLsb' (by decide)

theorem toInt_sext32 (v : BitVec 32) : (sext32 v).toInt = v.toInt := BitVec.toInt_signExtend_of_le (by decide)
theorem toNat_zext32 (v : BitVec 32) : (zext32 v).toNat = v.toNat := BitVec.toNat_setWidth_of_le (by decide)

theorem toInt_clampS {n : Nat} (hn : 0 < n) (e : Int) : (clampS n e).toInt = max (-2 ^ (n - 1)) (min (2 ^ (n - 1) - 1) e) := by
  have hpos : (0 : Int) < 2 ^ (n - 1) := by positivity
  have htwo : (2 : Int) ^ n = 2 * 2 ^ (n - 1) := by rw [← pow_succ']; congr 1; omega
  rw [clampS, BitVec.toInt_ofInt]
  apply Int.bmod_eq_of_le
  all_goals
    push_cast
    omega

theorem toNat_clampZ (n : Nat) (e : Int) : ((clampZ n e).toNat : Int) = max 0 (min (2 ^ n - 1) e) := by
  have hpos : (0 : Int) < 2 ^ n := by positivity
  rw [clampZ, BitVec.toNat_ofInt]
  push_cast
  rw [Int.emod_eq_of_lt, Int.toNat_of_nonneg]
  all_goals omega

section
variable {n : Nat} (h64 : n ≤ 64) (x y : Word64)
include h64

theorem toInt_satS (hn : 0 < n) (e : Int → Int → Int) : (satS n e x y).toInt =
    max (-2 ^ (n - 1)) (min (2 ^ (n - 1) - 1) (e (x.extractLsb' 0 n).toInt (y.extractLsb' 0 n).toInt)) := by
  rw [satS, toInt_clampS hn, BitVec.setWidth_eq_extractLsb' h64, BitVec.setWidth_eq_extractLsb' h64]
theorem toNat_satZ (e : Int → Int → Int) : ((satZ n e x y).toNat : Int) =
    max 0 (min (2 ^ n - 1) (e (x.extractLsb' 0 n).toNat (y.extractLsb' 0 n).toNat)) := by
  rw [satZ, toNat_clampZ, BitVec.setWidth_eq_extractLsb' h64, BitVec.setWidth_eq_extractLsb' h64]

theorem toNat_satZ_add : (satZ n (· + ·) x y).toNat = min (2 ^ n - 1) ((x.extractLsb' 0 n).toNat + (y.extractLsb' 0 n).toNat) := by
  have hpos : (0 : Int) < 2 ^ n := by positivity
  have h := toNat_satZ h64 x y (· + ·)
  zify [Nat.one_le_two_pow]
  omega
theorem toNat_satZ_sub : (satZ n (· - ·) x y).toNat = (x.extractLsb' 0 n).toNat - (y.extractLsb' 0 n).toNat := by
  have hlt := (x.extractLsb' 0 n).isLt
  have h := toNat_satZ h64 x y (· - ·)
  zify at hlt
  omega
end

/-! ## ADD, SUB, ADDI (R121, R122) -/

theorem toNat_sub_emod {n : Nat} (x y : BitVec n) : ((x - y).toNat : Int) = ((x.toNat : Int) - y.toNat) % 2 ^ n := by
  have hy := y.isLt
  rw [BitVec.toNat_sub]
  push_cast [hy.le]
  rw [show (2 : Int) ^ n - y.toNat + x.toNat = x.toNat - y.toNat + 2 ^ n by ring, Int.add_emod_right]

/-- ADDI adds its immediate modulo 2^64, with LIMM the one of 36 bits. -/
theorem toNat_add_immS (s : State) (x : Word64) (i : BitVec 12) : ((x + s.immS i).toNat : Int) =
    ((x.toNat : Int) + (match s.slot.limm with | some u => (u ++ i).toInt | none => i.toInt)) % 2 ^ 64 := by
  have hext : ∀ {w : Nat} (v : BitVec w), ((x + v.signExtend 64).toNat : Int) = ((x.toNat : Int) + (v.signExtend 64).toInt) % 2 ^ 64 := by
    intro w v
    rw [BitVec.toNat_add, BitVec.toInt_eq_toNat_cond]
    split
    all_goals omega
  unfold State.immS
  cases s.slot.limm with
  | none => exact (hext i).trans (by rw [BitVec.toInt_signExtend_of_le (by decide)])
  | some u => exact (hext (u ++ i)).trans (by rw [BitVec.toInt_signExtend_of_le (by decide)])

theorem addSubtract : Parts.AddSubtract := by
  intro s st d a b i run x y lo clamp imm
  refine ⟨givesX_int2 (· + ·) run rfl ?_, givesX_int2 (fun x y => sext32 (lo32 x + lo32 y)) run rfl ?_,
    givesX_int2 (fun x y => zext32 (lo32 x + lo32 y)) run rfl ?_, givesX_int2 (satS 64 (· + ·)) run rfl ?_,
    givesX_int2 (satZ 64 (· + ·)) run rfl ?_, givesX_int2 (fun x y => sext32 (satS 32 (· + ·) x y)) run rfl ?_,
    givesX_int2 (fun x y => zext32 (satZ 32 (· + ·) x y)) run rfl ?_, givesX_int2 (· - ·) run rfl ?_,
    givesX_int2 (fun x y => sext32 (lo32 x - lo32 y)) run rfl ?_, givesX_int2 (fun x y => zext32 (lo32 x - lo32 y)) run rfl ?_,
    givesX_int2 (satS 64 (· - ·)) run rfl ?_, givesX_int2 (satZ 64 (· - ·)) run rfl ?_,
    givesX_int2 (fun x y => sext32 (satS 32 (· - ·) x y)) run rfl ?_,
    givesX_int2 (fun x y => zext32 (satZ 32 (· - ·) x y)) run rfl ?_, givesX_int1 (· + s.immS i) run rfl ?_⟩
  · exact BitVec.toNat_add _ _
  · rw [toInt_sext32, BitVec.toInt_add, lo32_eq, lo32_eq]
  · rw [toNat_zext32, BitVec.toNat_add, lo32_eq, lo32_eq]
  · rw [toInt_satS (by decide) _ _ (by decide), extract_all, extract_all]
  · rw [toNat_satZ_add (by decide), extract_all, extract_all]
  · exact (toInt_sext32 _).trans (toInt_satS (by decide) _ _ (by decide) _)
  · exact (toNat_zext32 _).trans (toNat_satZ_add (by decide) _ _)
  · exact toNat_sub_emod _ _
  · rw [toInt_sext32, BitVec.toInt_sub, lo32_eq, lo32_eq]
  · rw [toNat_zext32, toNat_sub_emod, lo32_eq, lo32_eq]
  · rw [toInt_satS (by decide) _ _ (by decide), extract_all, extract_all]
  · rw [toNat_satZ_sub (by decide), extract_all, extract_all]
  · exact (toInt_sext32 _).trans (toInt_satS (by decide) _ _ (by decide) _)
  · exact (toNat_zext32 _).trans (toNat_satZ_sub (by decide) _ _)
  · exact toNat_add_immS s _ i

/-! ## MUL (R123) -/

/-- A product of two signed numbers of `n` bits, in magnitude at most 2^(2n - 2). -/
theorem natAbs_mul_toInt_le {n : Nat} (x y : BitVec n) : (x.toInt * y.toInt).natAbs ≤ 2 ^ (n - 1) * 2 ^ (n - 1) := by
  have habs : ∀ v : BitVec n, v.toInt.natAbs ≤ 2 ^ (n - 1) := by
    intro v
    have hlo := BitVec.le_toInt v
    have hhi := BitVec.toInt_lt (x := v)
    zify
    rw [abs_le]
    omega
  rw [Int.natAbs_mul]
  exact Nat.mul_le_mul (habs x) (habs y)

theorem toInt_mulhS64 (x y : Word64) :
    (((x.signExtend 128) * (y.signExtend 128)).extractLsb' 64 64).toInt = x.toInt * y.toInt / 2 ^ 64 := by
  have hprod : ((x.signExtend 128) * (y.signExtend 128) : BitVec 128).toInt = x.toInt * y.toInt := by
    have hle := natAbs_mul_toInt_le x y
    rw [BitVec.toInt_mul, BitVec.toInt_signExtend_of_le (by decide), BitVec.toInt_signExtend_of_le (by decide)]
    apply Int.bmod_eq_of_le
    all_goals omega
  generalize (x.signExtend 128) * (y.signExtend 128) = p at hprod ⊢
  rw [← hprod, BitVec.toInt_eq_toNat_bmod, BitVec.extractLsb'_toNat, BitVec.toInt_eq_toNat_bmod, Nat.shiftRight_eq_div_pow]
  have hlt := p.isLt
  simp only [Int.bmod]
  omega
theorem toNat_mulhZ64 (x y : Word64) : (((x.setWidth 128) * (y.setWidth 128)).extractLsb' 64 64).toNat = x.toNat * y.toNat / 2 ^ 64 := by
  have hlt : x.toNat * y.toNat < 2 ^ 64 * 2 ^ 64 := Nat.mul_lt_mul'' x.isLt y.isLt
  rw [BitVec.extractLsb'_toNat, BitVec.toNat_mul, BitVec.toNat_setWidth_of_le (by decide), BitVec.toNat_setWidth_of_le (by decide),
    Nat.shiftRight_eq_div_pow]
  omega

theorem toInt_mulS32 (v w : BitVec 32) : (sext32 v * sext32 w).toInt = v.toInt * w.toInt := by
  have hle := natAbs_mul_toInt_le v w
  rw [BitVec.toInt_mul, toInt_sext32, toInt_sext32]
  apply Int.bmod_eq_of_le
  all_goals omega
theorem toNat_mulZ32 (v w : BitVec 32) : (zext32 v * zext32 w).toNat = v.toNat * w.toNat := by
  have hlt : v.toNat * w.toNat < 2 ^ 32 * 2 ^ 32 := Nat.mul_lt_mul'' v.isLt w.isLt
  rw [BitVec.toNat_mul, toNat_zext32, toNat_zext32]
  exact Nat.mod_eq_of_lt hlt

theorem multiply : Parts.Multiply := by
  intro s st d a b run x y z lo
  refine ⟨givesX_int2 (· * ·) run rfl ?_,
    givesX_int2 (fun x y => ((x.signExtend 128) * (y.signExtend 128)).extractLsb' 64 64) run rfl ?_,
    givesX_int2 (fun x y => ((x.setWidth 128) * (y.setWidth 128)).extractLsb' 64 64) run rfl ?_,
    givesX_int2 (fun x y => sext32 (lo32 x) * sext32 (lo32 y)) run rfl ?_,
    givesX_int2 (fun x y => zext32 (lo32 x) * zext32 (lo32 y)) run rfl ?_, givesX_int3 (fun z x y => z + x * y) run rfl ?_⟩
  · exact BitVec.toNat_mul _ _
  · exact toInt_mulhS64 _ _
  · exact toNat_mulhZ64 _ _
  · rw [toInt_mulS32, lo32_eq, lo32_eq]
  · rw [toNat_mulZ32, lo32_eq, lo32_eq]
  · rw [BitVec.toNat_add, BitVec.toNat_mul, Nat.add_mod_mod]

/-! ## DIV and REM (R29, R124) -/

/-- The signed quotient and remainder of R29's table. -/
def quoS (n : Nat) (p q : Int) : Int := if q = 0 then -1 else if p = -2 ^ (n - 1) ∧ q = -1 then -2 ^ (n - 1) else p.tdiv q
def remainderS (n : Nat) (p q : Int) : Int := if q = 0 then p else if p = -2 ^ (n - 1) ∧ q = -1 then 0 else p - p.tdiv q * q

theorem toInt_neg_one {n : Nat} (hn : 0 < n) : (-1#n).toInt = -1 := by
  rw [BitVec.neg_one_eq_allOnes, BitVec.toInt_allOnes, if_pos hn]

theorem toInt_divS {n : Nat} (hn : 0 < n) (x y : BitVec n) : (divS x y).toInt = quoS n x.toInt y.toInt := by
  have hzero : y.toInt = 0 ↔ y = 0 := BitVec.toInt_zero (w := n) ▸ BitVec.toInt_inj
  unfold divS quoS
  simp only [hzero]
  split
  · rw [BitVec.toInt_allOnes, if_pos hn]
  · split
    next h =>
      have hx : x = BitVec.intMin n := BitVec.eq_of_toInt_eq (h.1.trans (BitVec.toInt_intMin_of_pos hn).symm)
      have hy : y = -1#n := BitVec.eq_of_toInt_eq (h.2.trans (toInt_neg_one hn).symm)
      rw [hx, hy, BitVec.intMin_sdiv_neg_one, BitVec.toInt_intMin_of_pos hn]
    next h =>
      refine BitVec.toInt_sdiv_of_ne_or_ne _ _ (not_and_or.mp fun hxy => h ?_)
      rw [hxy.1, hxy.2, BitVec.toInt_intMin_of_pos hn, toInt_neg_one hn]
      exact ⟨rfl, rfl⟩

theorem toInt_remS {n : Nat} (x y : BitVec n) : (remS x y).toInt = remainderS n x.toInt y.toInt := by
  have hzero : y.toInt = 0 ↔ y = 0 := BitVec.toInt_zero (w := n) ▸ BitVec.toInt_inj
  unfold remS remainderS
  simp only [hzero]
  split
  · rfl
  · split
    next h => rw [BitVec.toInt_srem, h.2, Int.tmod_neg, Int.tmod_one]
    next => rw [BitVec.toInt_srem, Int.tmod_def, Int.mul_comm]

theorem toNat_divZ {n : Nat} (x y : BitVec n) : (divZ x y).toNat = if y = 0 then 2 ^ n - 1 else x.toNat / y.toNat := by
  unfold divZ
  split
  · exact BitVec.toNat_allOnes
  · exact BitVec.toNat_udiv
theorem toNat_remZ {n : Nat} (x y : BitVec n) : (remZ x y).toNat = if y = 0 then x.toNat else x.toNat % y.toNat := by
  unfold remZ
  split
  · rfl
  · exact BitVec.toNat_umod

theorem divide : Parts.Divide := by
  intro s st d a b run x y lo quo rem
  refine ⟨givesX_int2 divS run rfl ?_, givesX_int2 divZ run rfl ?_, givesX_int2 remS run rfl ?_, givesX_int2 remZ run rfl ?_,
    givesX_int2 (fun x y => sext32 (divS (lo32 x) (lo32 y))) run rfl ?_,
    givesX_int2 (fun x y => zext32 (divZ (lo32 x) (lo32 y))) run rfl ?_,
    givesX_int2 (fun x y => sext32 (remS (lo32 x) (lo32 y))) run rfl ?_,
    givesX_int2 (fun x y => zext32 (remZ (lo32 x) (lo32 y))) run rfl ?_⟩
  · exact toInt_divS (by decide) _ _
  · exact toNat_divZ _ _
  · exact toInt_remS _ _
  · exact toNat_remZ _ _
  · rw [toInt_sext32, toInt_divS (by decide), lo32_eq, lo32_eq]
    rfl
  · rw [toNat_zext32, toNat_divZ, lo32_eq, lo32_eq]
  · rw [toInt_sext32, toInt_remS, lo32_eq, lo32_eq]
    rfl
  · rw [toNat_zext32, toNat_remZ, lo32_eq, lo32_eq]

/-- Settles O1: each result is the exact sum, product or quotient, reduced, clamped or extended as its form says. -/
theorem integerArithmetic : Obligations.IntegerArithmetic := ⟨addSubtract, multiply, divide, Forms.integerForms⟩

end Sys2Proof.Integers
end

section
/-! SUPPORT. Logic, shifts, counts of bits and bit fields of the scalar slots (R125 to R128): the bits of each result. -/
namespace Sys2Proof.Bits
open Sys2Proof Sys2Proof.Machine Sys2Proof.Integers Sys2Proof.Encoding

/-! ## LOGIC (R125) -/

/-- `op` acts on each bit as `f`. -/
def Bitwise (f : Bool → Bool → Bool) (op : Word64 → Word64 → Word64) : Prop :=
  ∀ x q : Word64, ∀ i, i < 64 → (op x q).getLsbD i = f (x.getLsbD i) (q.getLsbD i)

theorem bitwise_and : Bitwise (fun p q => p && q) (· &&& ·) := fun _ _ _ _ => BitVec.getLsbD_and
theorem bitwise_or : Bitwise (fun p q => p || q) (· ||| ·) := fun _ _ _ _ => BitVec.getLsbD_or
theorem bitwise_xor : Bitwise (fun p q => p != q) (· ^^^ ·) := fun _ _ _ _ => BitVec.getLsbD_xor
theorem Bitwise.not_right {f : Bool → Bool → Bool} {op : Word64 → Word64 → Word64} (h : Bitwise f op) :
    Bitwise (fun p q => f p (!q)) (fun x q => op x (~~~q)) := by
  intro x q i hi
  rw [h x (~~~q) i hi, BitVec.getLsbD_not, decide_eq_true hi, Bool.true_and]
theorem Bitwise.not {f : Bool → Bool → Bool} {op : Word64 → Word64 → Word64} (h : Bitwise f op) :
    Bitwise (fun p q => !f p q) (fun x q => ~~~op x q) := by
  intro x q i hi
  rw [BitVec.getLsbD_not, decide_eq_true hi, Bool.true_and, h x q i hi]
theorem bitwise_xnor : Bitwise (fun p q => p == q) (fun x q => ~~~(x ^^^ q)) := by
  intro x q i hi
  rw [bitwise_xor.not x q i hi]
  cases x.getLsbD i
  all_goals
    cases q.getLsbD i
    all_goals rfl

theorem logic : Parts.Logic := by
  intro s st d a b run x y imm bits
  refine ⟨givesX_int2 (· &&& ·) run rfl ?_, givesX_int2 (· ||| ·) run rfl ?_, givesX_int2 (· ^^^ ·) run rfl ?_,
    givesX_int2 (fun x y => x &&& ~~~y) run rfl ?_, givesX_int2 (fun x y => x ||| ~~~y) run rfl ?_, givesX_int2 (fun x y => ~~~(x ^^^ y)) run rfl ?_,
    givesX_int2 (fun x y => ~~~(x &&& y)) run rfl ?_, givesX_int2 (fun x y => ~~~(x ||| y)) run rfl ?_,
    givesX_int1 (· &&& s.immS b) run rfl ?_, givesX_int1 (· ||| s.immS b) run rfl ?_, givesX_int1 (· ^^^ s.immS b) run rfl ?_,
    givesX_int1 (fun x => x &&& ~~~s.immS b) run rfl ?_, givesX_int1 (fun x => x ||| ~~~s.immS b) run rfl ?_,
    givesX_int1 (fun x => ~~~(x ^^^ s.immS b)) run rfl ?_, givesX_int1 (fun x => ~~~(x &&& s.immS b)) run rfl ?_,
    givesX_int1 (fun x => ~~~(x ||| s.immS b)) run rfl ?_⟩
  · exact bitwise_and _ _
  · exact bitwise_or _ _
  · exact bitwise_xor _ _
  · exact bitwise_and.not_right _ _
  · exact bitwise_or.not_right _ _
  · exact bitwise_xnor _ _
  · exact bitwise_and.not _ _
  · exact bitwise_or.not _ _
  · exact bitwise_and _ (s.immS b)
  · exact bitwise_or _ (s.immS b)
  · exact bitwise_xor _ (s.immS b)
  · exact bitwise_and.not_right _ (s.immS b)
  · exact bitwise_or.not_right _ (s.immS b)
  · exact bitwise_xnor _ (s.immS b)
  · exact bitwise_and.not _ (s.immS b)
  · exact bitwise_or.not _ (s.immS b)

/-! ## SHIFT (R126) -/

/-- The width of a shift. -/
def shiftWidth (w : Bool) : Nat := if w then 32 else 64

/-- The bits of a result from the width on are those of its top bit there. -/
def Wide (n : Nat) (r : Word64) : Prop := ∀ i, n ≤ i → i < 64 → r.getLsbD i = r.getLsbD (n - 1)

theorem shiftWidth_pos (w : Bool) : 0 < shiftWidth w := by cases w <;> decide

section
variable (w : Bool) (f : {n : Nat} → BitVec n → Nat → BitVec n) (x : Word64) (k : Nat) {i : Nat}

/-- A shift acts on the low bits, its width of them, and takes the amount modulo it. -/
theorem shift_low (hi : i < shiftWidth w) :
    (shift w f x k).getLsbD i = (f (x.setWidth (shiftWidth w)) (k % shiftWidth w)).getLsbD i := by
  cases w with
  | false =>
    rw [shiftWidth, if_neg Bool.false_ne_true, BitVec.setWidth_eq]
    rfl
  | true =>
    have h32 : i < 32 := hi
    have h64 : i < 64 := by omega
    rw [shift, if_pos rfl, sext32, BitVec.getLsbD_signExtend, decide_eq_true h64, if_pos h32, Bool.true_and]
    rfl

/-- The bits that a shift of the low 32 bits leaves above them are its bit 31. -/
theorem shift_wide : Wide (shiftWidth w) (shift w f x k) := by
  intro i hi h64
  cases w with
  | false => exact absurd hi (Nat.not_le.mpr h64)
  | true =>
    have h32 : ¬ i < 32 := Nat.not_lt.mpr hi
    have hlast : 31 < shiftWidth true := by decide
    rw [show shiftWidth true - 1 = 31 from rfl, shift_low true f x k hlast, shift, if_pos rfl, sext32, BitVec.getLsbD_signExtend,
      decide_eq_true h64, if_neg h32, Bool.true_and, BitVec.msb_eq_getLsbD_last]
    rfl

end

section
variable {w : Bool} {x : Word64} {k i : Nat} (hi : i < shiftWidth w)
include hi

theorem getLsbD_operand : (x.setWidth (shiftWidth w)).getLsbD i = x.getLsbD i := by
  rw [BitVec.getLsbD_setWidth, decide_eq_true hi, Bool.true_and]

theorem getLsbD_shl : (shift w (fun v n => v <<< n) x k).getLsbD i =
    (decide (k % shiftWidth w ≤ i) && x.getLsbD (i - k % shiftWidth w)) := by
  rw [shift_low _ _ _ _ hi, BitVec.getLsbD_shiftLeft, getLsbD_operand (Nat.lt_of_le_of_lt (Nat.sub_le _ _) hi), decide_eq_true hi,
    Bool.true_and, ← decide_not]
  simp only [Nat.not_lt]

theorem getLsbD_shr : (shift w (fun v n => v >>> n) x k).getLsbD i =
    if i + k % shiftWidth w < shiftWidth w then x.getLsbD (i + k % shiftWidth w) else false := by
  rw [shift_low _ _ _ _ hi, BitVec.getLsbD_ushiftRight, BitVec.getLsbD_setWidth, Nat.add_comm i]
  split
  next h => rw [decide_eq_true h, Bool.true_and]
  next h => rw [decide_eq_false h, Bool.false_and]

theorem getLsbD_sar : (shift w BitVec.sshiftRight x k).getLsbD i =
    if i + k % shiftWidth w < shiftWidth w then x.getLsbD (i + k % shiftWidth w) else x.getLsbD (shiftWidth w - 1) := by
  rw [shift_low _ _ _ _ hi, BitVec.getLsbD_sshiftRight, decide_eq_false (Nat.not_le.mpr hi), Bool.not_false, Bool.true_and,
    BitVec.msb_eq_getLsbD_last, Nat.add_comm i]
  split
  next h => exact getLsbD_operand h
  next => exact getLsbD_operand (Nat.sub_lt (shiftWidth_pos w) Nat.one_pos)

theorem getLsbD_rol : (shift w BitVec.rotateLeft x k).getLsbD ((i + k % shiftWidth w) % shiftWidth w) = x.getLsbD i := by
  have hk := Nat.mod_lt k (shiftWidth_pos w)
  rw [shift_low _ _ _ _ (Nat.mod_lt _ (shiftWidth_pos w)), BitVec.getLsbD_rotateLeft, Nat.mod_mod]
  generalize k % shiftWidth w = m at hk ⊢
  by_cases h : i + m < shiftWidth w
  · rw [Nat.mod_eq_of_lt h, cond_eq_ite, if_neg (by simp), Nat.add_sub_cancel, decide_eq_true h, Bool.true_and, getLsbD_operand hi]
  · have hmod : (i + m) % shiftWidth w = i + m - shiftWidth w := by
      rw [Nat.mod_eq_sub_mod (Nat.not_lt.mp h), Nat.mod_eq_of_lt (by omega)]
    rw [hmod, cond_eq_ite, if_pos (by simp; omega), show shiftWidth w - m + (i + m - shiftWidth w) = i by omega, getLsbD_operand hi]

theorem getLsbD_ror : (shift w BitVec.rotateRight x k).getLsbD ((i + (shiftWidth w - k % shiftWidth w)) % shiftWidth w) = x.getLsbD i := by
  have hk := Nat.mod_lt k (shiftWidth_pos w)
  rw [shift_low _ _ _ _ (Nat.mod_lt _ (shiftWidth_pos w)), BitVec.getLsbD_rotateRight, Nat.mod_mod]
  generalize k % shiftWidth w = m at hk ⊢
  by_cases h : i < m
  · rw [Nat.mod_eq_of_lt (by omega), cond_eq_ite, if_neg (by simp), Nat.add_sub_cancel, decide_eq_true (by omega), Bool.true_and,
      getLsbD_operand hi]
  · have hmod : (i + (shiftWidth w - m)) % shiftWidth w = i - m := by
      rw [Nat.mod_eq_sub_mod (by omega), Nat.mod_eq_of_lt (by omega)]
      omega
    rw [hmod, cond_eq_ite, if_pos (by simp; omega), show m + (i - m) = i by omega, getLsbD_operand hi]
end

theorem shiftForms : Parts.Shift := by
  intro s st w d a b run x y n left right turn wide amount
  refine ⟨givesX_int2 (fun x y => shift w (fun v n => v <<< n) x y.toNat) run rfl ⟨fun i hi => getLsbD_shl hi, shift_wide w _ _ _⟩,
    givesX_int2 (fun x y => shift w (fun v n => v >>> n) x y.toNat) run rfl ⟨fun i hi => getLsbD_shr hi, shift_wide w _ _ _⟩,
    givesX_int2 (fun x y => shift w BitVec.sshiftRight x y.toNat) run rfl ⟨fun i hi => getLsbD_sar hi, shift_wide w _ _ _⟩,
    givesX_int2 (fun x y => shift w BitVec.rotateLeft x y.toNat) run rfl ⟨fun i hi => getLsbD_rol hi, shift_wide w _ _ _⟩,
    givesX_int2 (fun x y => shift w BitVec.rotateRight x y.toNat) run rfl ⟨fun i hi => getLsbD_ror hi, shift_wide w _ _ _⟩, fun hb => ?_⟩
  have hmod : b.toNat % shiftWidth w = b.toNat := Nat.mod_eq_of_lt hb
  rw [← hmod]
  exact ⟨givesX_int1 (fun x => shift w (fun v n => v <<< n) x b.toNat) run rfl ⟨fun i hi => getLsbD_shl hi, shift_wide w _ _ _⟩,
    givesX_int1 (fun x => shift w (fun v n => v >>> n) x b.toNat) run rfl ⟨fun i hi => getLsbD_shr hi, shift_wide w _ _ _⟩,
    givesX_int1 (fun x => shift w BitVec.sshiftRight x b.toNat) run rfl ⟨fun i hi => getLsbD_sar hi, shift_wide w _ _ _⟩,
    givesX_int1 (fun x => shift w BitVec.rotateLeft x b.toNat) run rfl ⟨fun i hi => getLsbD_rol hi, shift_wide w _ _ _⟩,
    givesX_int1 (fun x => shift w BitVec.rotateRight x b.toNat) run rfl ⟨fun i hi => getLsbD_ror hi, shift_wide w _ _ _⟩⟩

/-! ## BITS and MINMAX (R127) -/

/-- The first number below `n` that `p` holds of, or `n`. -/
theorem find?_range_getD (n : Nat) (p : Nat → Bool) : let k := ((List.range n).find? p).getD n
    k ≤ n ∧ (∀ i, i < k → p i = false) ∧ (k < n → p k = true) := by
  intro k
  cases h : (List.range n).find? p with
  | none =>
    have hk : k = n := by simp only [k, h, Option.getD_none]
    rw [hk]
    exact ⟨Nat.le_refl n, fun i hi => by simpa using List.find?_range_eq_none.mp h i hi, fun hn => absurd hn (Nat.lt_irrefl n)⟩
  | some m =>
    have hk : k = m := by simp only [k, h, Option.getD_some]
    obtain ⟨hp, hm, hbelow⟩ := List.find?_range_eq_some.mp h
    rw [hk]
    exact ⟨(List.mem_range.mp hm).le, fun i hi => by simpa using hbelow i hi, fun _ => hp⟩

theorem toNat_count {n : Nat} (h : n ≤ 64) : (BitVec.ofNat 64 n).toNat = n := Nat.mod_eq_of_lt (by omega)

theorem clz_spec (x : Word64) : (BitVec.ofNat 64 (clz x)).toNat ≤ 64 ∧
    (∀ i, i < (BitVec.ofNat 64 (clz x)).toNat → x.getLsbD (63 - i) = false) ∧
    ((BitVec.ofNat 64 (clz x)).toNat < 64 → x.getLsbD (63 - (BitVec.ofNat 64 (clz x)).toNat) = true) := by
  obtain ⟨hle, hbelow, hat⟩ : clz x ≤ 64 ∧ (∀ i, i < clz x → x.getMsbD i = false) ∧ (clz x < 64 → x.getMsbD (clz x) = true) :=
    find?_range_getD 64 fun i => x.getMsbD i
  have hmsb : ∀ i, i < 64 → x.getMsbD i = x.getLsbD (63 - i) := fun i hi => by
    rw [BitVec.getMsbD_eq_getLsbD, decide_eq_true hi, Bool.true_and]
  rw [toNat_count hle]
  exact ⟨hle, fun i hi => (hmsb i (hi.trans_le hle)).symm.trans (hbelow i hi), fun h => (hmsb _ h).symm.trans (hat h)⟩

theorem ctz_spec (x : Word64) : (BitVec.ofNat 64 (ctz x)).toNat ≤ 64 ∧
    (∀ i, i < (BitVec.ofNat 64 (ctz x)).toNat → x.getLsbD i = false) ∧
    ((BitVec.ofNat 64 (ctz x)).toNat < 64 → x.getLsbD (BitVec.ofNat 64 (ctz x)).toNat = true) := by
  have h := find?_range_getD 64 fun i => x.getLsbD i
  rwa [← toNat_count h.1] at h

theorem popc_le (x : Word64) : popc x ≤ 64 := (List.length_filter_le _ _).trans_eq List.length_range

theorem getLsbD_reverse (x : Word64) {i : Nat} (hi : i < 64) : x.reverse.getLsbD i = x.getLsbD (63 - i) := by
  rw [BitVec.getLsbD_reverse, BitVec.getMsbD_eq_getLsbD, decide_eq_true hi, Bool.true_and]

theorem extract_bswap (x : Word64) {i : Nat} (hi : i < 8) : (bswap x).extractLsb' (8 * i) 8 = x.extractLsb' (8 * (7 - i)) 8 := by
  unfold bswap
  interval_cases i
  all_goals simp only [HAppend.hAppend, append_extract_high, append_extract_low, extract_all, Nat.reduceMul, Nat.reduceSub, Nat.reduceAdd,
    Nat.reduceLeDiff, Nat.le_refl]

theorem toInt_min (x y : Word64) : (if y.slt x then y else x).toInt = min x.toInt y.toInt := by
  split
  next h => exact (min_eq_right (BitVec.slt_iff_toInt_lt.mp h).le).symm
  next h => exact (min_eq_left (not_lt.mp (mt BitVec.slt_iff_toInt_lt.mpr h))).symm
theorem toInt_max (x y : Word64) : (if x.slt y then y else x).toInt = max x.toInt y.toInt := by
  split
  next h => exact (max_eq_right (BitVec.slt_iff_toInt_lt.mp h).le).symm
  next h => exact (max_eq_left (not_lt.mp (mt BitVec.slt_iff_toInt_lt.mpr h))).symm
theorem toNat_min (x y : Word64) : (if y < x then y else x).toNat = min x.toNat y.toNat := by
  split
  next h => exact (min_eq_right (BitVec.lt_def.mp h).le).symm
  next h => exact (min_eq_left (BitVec.not_lt.mp h)).symm
theorem toNat_max (x y : Word64) : (if x < y then y else x).toNat = max x.toNat y.toNat := by
  split
  next h => exact (max_eq_right (BitVec.lt_def.mp h).le).symm
  next h => exact (max_eq_left (BitVec.not_lt.mp h)).symm

theorem bitsMinMax : Parts.BitsMinMax := by
  intro s st d a b run x y
  exact ⟨givesX_int1 (fun x => BitVec.ofNat 64 (clz x)) run rfl (clz_spec _),
    givesX_int1 (fun x => BitVec.ofNat 64 (ctz x)) run rfl (ctz_spec _),
    givesX_int1 (fun x => BitVec.ofNat 64 (popc x)) run rfl (toNat_count (popc_le _)),
    givesX_int1 BitVec.reverse run rfl fun i hi => getLsbD_reverse _ hi,
    givesX_int1 bswap run rfl fun i hi => extract_bswap _ hi,
    givesX_int2 (fun x y => if y.slt x then y else x) run rfl (toInt_min _ _),
    givesX_int2 (fun x y => if x.slt y then y else x) run rfl (toInt_max _ _),
    givesX_int2 (fun x y => if y < x then y else x) run rfl (toNat_min _ _),
    givesX_int2 (fun x y => if x < y then y else x) run rfl (toNat_max _ _)⟩

/-! ## BFX, BFI, EXT (R128) -/

theorem toNat_ones {n : Nat} (h : n ≤ 64) : (ones n).toNat = 2 ^ n - 1 := by
  have hle : 2 ^ n ≤ 2 ^ 64 := Nat.pow_le_pow_right (by decide) h
  exact Nat.mod_eq_of_lt (by omega)

theorem toNat_and_ones (x : Word64) {n : Nat} (h : n ≤ 64) : (x &&& ones n).toNat = x.toNat % 2 ^ n := by
  rw [BitVec.toNat_and, toNat_ones h, Nat.and_two_pow_sub_one_eq_mod]

theorem getLsbD_ones {n i : Nat} (h : n ≤ 64) : (ones n).getLsbD i = decide (i < n) := by
  rw [BitVec.getLsbD, toNat_ones h, Nat.testBit_two_pow_sub_one]

/-- A field of `n` bits at `p`, replaced by the low bits of `x`. -/
theorem getLsbD_insert (z x : Word64) {n i : Nat} (p : Nat) (h : n ≤ 64) (hi : i < 64) :
    ((z &&& ~~~(ones n <<< p)) ||| ((x <<< p) &&& (ones n <<< p))).getLsbD i =
      if p ≤ i ∧ i < p + n then x.getLsbD (i - p) else z.getLsbD i := by
  have hmask : (ones n <<< p).getLsbD i = decide (p ≤ i ∧ i < p + n) := by
    rw [BitVec.getLsbD_shiftLeft, getLsbD_ones h, ← decide_not, decide_eq_true hi, Bool.true_and, ← Bool.decide_and]
    exact decide_eq_decide.mpr (by omega)
  rw [BitVec.getLsbD_or, BitVec.getLsbD_and, BitVec.getLsbD_and, BitVec.getLsbD_not, hmask, BitVec.getLsbD_shiftLeft]
  split
  next hin => simp [hin, hi, Nat.not_lt.mpr hin.1]
  next hout => simp [hout, hi]

/-- The low `l + 1` bits, extended by sign. -/
theorem extS_eq (x : Word64) {l : Nat} (hl : l < 64) : (x <<< (63 - l)).sshiftRight (63 - l) = (x.setWidth (l + 1)).signExtend 64 := by
  apply BitVec.eq_of_getLsbD_eq
  intro i hi
  have hlast : (x.setWidth (l + 1)).msb = x.getLsbD l := by simp [BitVec.msb_eq_getLsbD_last]
  have hshl : ∀ j, 63 - l ≤ j → j < 64 → (x <<< (63 - l)).getLsbD j = x.getLsbD (j - (63 - l)) := fun j hlo hhi => by
    rw [BitVec.getLsbD_shiftLeft, decide_eq_true hhi, decide_eq_false (Nat.not_lt.mpr hlo), Bool.not_false, Bool.true_and, Bool.true_and]
  rw [BitVec.getLsbD_sshiftRight, BitVec.getLsbD_signExtend, hlast, BitVec.msb_eq_getLsbD_last, hshl 63 (by omega) (by decide),
    decide_eq_false (Nat.not_le.mpr hi), decide_eq_true hi, Bool.not_false, Bool.true_and, Bool.true_and]
  by_cases h : i < l + 1
  · rw [if_pos (by omega), if_pos h, hshl _ (by omega) (by omega), BitVec.getLsbD_setWidth, decide_eq_true h, Bool.true_and,
      Nat.add_sub_cancel_left]
  · rw [if_neg (by omega), if_neg h, show 63 - (63 - l) = l by omega]

theorem toInt_extS (x : Word64) {l : Nat} (hl : l < 64) : ((x <<< (63 - l)).sshiftRight (63 - l)).toInt = (x.toInt).bmod (2 ^ (l + 1)) := by
  rw [extS_eq x hl, BitVec.toInt_signExtend_of_le hl, BitVec.toInt_setWidth, BitVec.toInt_eq_toNat_bmod,
    Int.bmod_bmod_of_dvd (Nat.pow_dvd_pow 2 hl)]

/-- What BFI writes: xD, its field of `l + 1` bits at `p` those of xA. -/
def inserted (d a p l : BitVec 6) (old : Regs) : Val 64 :=
  ⟨((old.rx d.toNat).v &&& ~~~(ones (l.toNat + 1) <<< p.toNat)) ||| (((old.rx a.toNat).v <<< p.toNat) &&& (ones (l.toNat + 1) <<< p.toNat)),
    (old.rx d.toNat).psn || (old.rx a.toNat).psn⟩

theorem bitFields : Parts.BitFields := by
  intro s st d a p l run x z pos len
  have hlen : len ≤ 64 := l.isLt
  refine ⟨givesX_int1 (fun x => (x >>> p.toNat) &&& ones (l.toNat + 1)) run rfl ?_,
    givesX_regSlot (fun old r => r.wx d.toNat (inserted d a p l old)) (inserted d a p l s.old) run rfl rfl (by simp [inserted]) fun _ i hi => getLsbD_insert z x pos hlen hi,
    givesX_int1 (fun x => x &&& ones (l.toNat + 1)) run rfl (toNat_and_ones _ hlen),
    givesX_int1 (fun x => (x <<< (63 - l.toNat)).sshiftRight (63 - l.toNat)) run rfl (toInt_extS _ l.isLt)⟩
  rw [toNat_and_ones _ hlen, BitVec.toNat_ushiftRight, Nat.shiftRight_eq_div_pow]

/-- Settles O2: the bits of each result, and the words of the forms. -/
theorem integerLogic : Obligations.IntegerLogic := ⟨logic, shiftForms, bitsMinMax, bitFields, Forms.logicForms⟩

end Sys2Proof.Bits
end

section
/-! SUPPORT. Compares, predicate logic and selection of the scalar slots (R129 to R131). -/
namespace Sys2Proof.Compares
open Sys2Proof Sys2Proof.Machine

/-! ## Conditions (R129) -/

/-- The order and bit tests that the number of a condition names. -/
def Holds (c : BitVec 3) (v w : Word64) : Bool :=
  match c.toNat with
  | 0 => decide (v = w) | 1 => decide (v ≠ w) | 2 => decide (v.toInt < w.toInt) | 3 => decide (w.toInt ≤ v.toInt)
  | 4 => decide (v.toNat < w.toNat) | 5 => decide (w.toNat ≤ v.toNat) | 6 => decide (v &&& w ≠ 0) | _ => decide (v &&& w = 0)

theorem condition_holds (c : BitVec 3) (v w : Word64) : condition c v w = Holds c v w := by
  unfold condition Holds
  generalize c.toNat = n
  match n with
  | 0 => rfl
  | 1 => rfl
  | 2 => exact BitVec.slt_eq_decide
  | 3 => exact (congrArg not BitVec.slt_eq_decide).trans ((decide_not (p := v.toInt < w.toInt)).symm.trans (decide_eq_decide.mpr not_lt))
  | 4 => rfl
  | 5 => exact (decide_not (p := v < w)).symm.trans (decide_eq_decide.mpr BitVec.not_lt)
  | 6 => rfl
  | _ + 7 => rfl

theorem onlyP_frame (r : Regs) (n : Nat) (t : Bool) : r.wp n t = { r with p := (r.wp n t).p } := by
  unfold Regs.wp
  split
  · rfl
  · rfl

/-- The immediate of CMPI extends by sign, but for the unsigned conditions 4 and 5; LIMM adds 30 bits above it. -/
def compared (s : State) (c : BitVec 3) (b : BitVec 6) : Word64 := if c = 4 ∨ c = 5 then s.immZ b else s.immS b

theorem compared_eq (s : State) (c : BitVec 3) (b : BitVec 6) : compared s c b = match s.slot.limm with
    | some v => if c = 4 ∨ c = 5 then (v ++ b).setWidth 64 else (v ++ b).signExtend 64
    | none => if c = 4 ∨ c = 5 then b.setWidth 64 else b.signExtend 64 := by
  unfold compared State.immZ State.immS
  cases s.slot.limm with
  | some v => rfl
  | none => rfl

theorem decide_beq_decide (p q : Prop) [Decidable p] [Decidable q] [Decidable (p = q)] : (decide p == decide q) = decide (p = q) := by
  by_cases hp : p
  · simp [hp]
  · simp [hp]
theorem decide_bne_decide (p q : Prop) [Decidable p] [Decidable q] [Decidable (p ≠ q)] : (decide p != decide q) = decide (p ≠ q) := by
  by_cases hp : p
  · simp [hp]
  · simp [hp]

/-! ## Slots that write a predicate or a register -/

section
variable {s : State} {i : Instr} {f : Regs → Regs → Except Trap Regs} (run : Running s) (he : exec i s = trySlot f s)
include run he

theorem gives_pred (p : BitVec 7) {t : Bool} (hf : f s.old s.regs = .ok (s.regs.wp p.toNat t)) :
    Gives s i fun r => OnlyP p.toNat s.regs r ∧ r.rp p.toNat = pAfter p t :=
  Transfer.gives_trySlot run he hf ⟨⟨onlyP_frame _ _ _, fun _ => Steps.rp_wp_other _ _⟩, Steps.rp_wp_same _ _ _⟩
theorem gives_value (d : BitVec 6) {v : Val 64} (hf : f s.old s.regs = .ok (s.regs.wx d.toNat v)) :
    Gives s i fun r => OnlyX d.toNat s.regs r ∧ r.rx d.toNat = xAfter d v :=
  Transfer.gives_trySlot run he hf (Transfer.onlyX_link _ _ _)

end

section
variable {s : State} {i : Instr} (run : Running s)
include run

/-- A compare of two clean values writes its condition. -/
theorem gives_cmp (p : BitVec 7) (a b : BitVec 6) (c : BitVec 3) (he : exec i s = execCmp p a b c s)
    (ha : (s.old.rx a.toNat).psn = false) (hb : (s.old.rx b.toNat).psn = false) :
    Gives s i fun r => OnlyP p.toNat s.regs r ∧ r.rp p.toNat = pAfter p (Holds c (s.old.rx a.toNat).v (s.old.rx b.toNat).v) := by
  refine gives_pred run he p ?_
  simp only [ha, hb, Bool.false_eq_true, if_false, condition_holds]
theorem gives_cmpi (p : BitVec 7) (a b : BitVec 6) (c : BitVec 3) (he : exec i s = execCmpi p a b c s)
    (ha : (s.old.rx a.toNat).psn = false) :
    Gives s i fun r => OnlyP p.toNat s.regs r ∧ r.rp p.toNat = pAfter p (Holds c (s.old.rx a.toNat).v (compared s c b)) := by
  refine gives_pred (f := fun old r => if (old.rx a.toNat).psn then .error (.poison (regTag 0 a.toNat))
    else .ok (r.wp p.toNat (condition c (old.rx a.toNat).v (compared s c b)))) run he p ?_
  simp only [ha, Bool.false_eq_true, if_false, condition_holds]

/-- Predicate logic on two clean predicates. -/
theorem gives_pred2 (d a b : BitVec 7) (g : Bool → Bool → Bool) {t : Bool} (he : exec i s = pred2 d a b g s)
    (ha : (s.old.rp a.toNat).psn = false) (hb : (s.old.rp b.toNat).psn = false)
    (ht : g ((s.old.rp a.toNat).v = 1) ((s.old.rp b.toNat).v = 1) = t) :
    Gives s i fun r => OnlyP d.toNat s.regs r ∧ r.rp d.toNat = pAfter d t := by
  refine gives_pred run he d ?_
  simp only [ha, hb, Bool.false_eq_true, if_false, ht]

/-- A selection by a clean predicate. -/
theorem gives_select (d a : BitVec 6) (q : BitVec 7) (g : Bool → Val 64 → Val 64 → Val 64) {v : Val 64} (he : exec i s = select d a q g s)
    (hq : (s.old.rp q.toNat).psn = false) (hv : g ((s.old.rp q.toNat).v = 1) (s.old.rx a.toNat) (s.old.rx d.toNat) = v) :
    Gives s i fun r => OnlyX d.toNat s.regs r ∧ r.rx d.toNat = xAfter d v := by
  refine gives_value run he d ?_
  simp only [hq, Bool.false_eq_true, if_false, hv]

end

theorem comparePredicate : Parts.ComparePredicate := by
  intro s st p q u d a b c run x y old one imm holds pred value
  have himm : compared s c b = imm := compared_eq s c b
  refine ⟨fun hx hy => ?_, fun hx => ?_, fun hq => ⟨?_, ?_, ?_, ?_, ?_, fun hu => ⟨?_, ?_, ?_, ?_, ?_, ?_⟩⟩⟩
  · exact gives_cmp run p a b c rfl hx hy
  · exact himm ▸ gives_cmpi run p a b c rfl hx
  · exact gives_pred2 run p q q (fun x _ => x) rfl hq hq rfl
  · exact gives_pred2 run p q q (fun x _ => !x) rfl hq hq rfl
  · exact gives_select run d a q (fun q x z => if q then x else z) rfl hq (by simp [one, x, old])
  · exact gives_select run d a q (fun q x _ => if q then x else ⟨0, false⟩) rfl hq (by simp [one, x])
  · exact gives_select run d a q (fun q x z => if q then z else x) rfl hq (by simp [one, x, old])
  · exact gives_pred2 run p q u (· && ·) rfl hq hu (Bool.decide_and _ _).symm
  · exact gives_pred2 run p q u (· || ·) rfl hq hu (Bool.decide_or _ _).symm
  · exact gives_pred2 run p q u (· != ·) rfl hq hu (decide_bne_decide _ _)
  · exact gives_pred2 run p q u (fun x y => x && !y) rfl hq hu (by simp [one])
  · exact gives_pred2 run p q u (fun x y => x || !y) rfl hq hu (by simp [one])
  · exact gives_pred2 run p q u (· == ·) rfl hq hu (decide_beq_decide _ _)

/-- Settles O3: each compare writes its condition, and the words of the forms. -/
theorem compareAndSelect : Obligations.CompareAndSelect := ⟨comparePredicate, Forms.compareForms⟩

end Sys2Proof.Compares
end

section
/-! SUPPORT. The scalar floating-point slots (R119, R132 to R134), and the special values of their operations (R37). -/
namespace Sys2Proof.Floats
open Sys2Proof Sys2Proof.Machine

/-! ## Slots that write a register and the flags -/

/-- A floating-point slot: an x result with its flags, or a poisoned result with none. -/
theorem gives_fpSlot {s : State} {i : Instr} (run : Running s) (d : BitVec 6) (srcs : List (BitVec 6)) (f : Regs → Nat × BitVec 5)
    {v : Nat × BitVec 5} (he : exec i s = fpSlot d srcs f s) (hv : f s.old = v) : Gives s i fun r =>
      r = { s.regs with x := r.x, fcsr := r.fcsr } ∧ (∀ n, n ≠ d.toNat → r.rx n = s.regs.rx n) ∧
      if (∃ n ∈ srcs, (s.old.rx n.toNat).psn = true) then r.rx d.toNat = xAfter d ⟨0, true⟩ ∧ r.fcsr = s.regs.fcsr
      else r.rx d.toNat = xAfter d ⟨BitVec.ofNat 64 v.1, false⟩ ∧ r.fcsr = s.regs.fcsr ||| v.2.setWidth 32 := by
  have hframe : ∀ w : Val 64, (s.regs.wx d.toNat w).fcsr = s.regs.fcsr := fun w => by rw [(onlyX_wx s.regs d.toNat w).1]
  by_cases hpsn : ∃ n ∈ srcs, (s.old.rx n.toNat).psn = true
  · rw [fpSlot, if_pos (List.any_eq_true.mpr hpsn)] at he
    refine gives_regSlot (fun _ r => r.wx d.toNat ⟨0, true⟩) run he ?_
    obtain ⟨⟨hregs, hother⟩, hd⟩ := Transfer.onlyX_link s.regs d ⟨0, true⟩
    rw [if_pos hpsn]
    exact ⟨by rw [hregs], hother, hd, hframe _⟩
  · rw [fpSlot, if_neg (mt List.any_eq_true.mp hpsn), hv] at he
    refine Lanes.gives_flagged (fun c => c.wx d.toNat ⟨BitVec.ofNat 64 v.1, false⟩) v.2 run he ?_
    obtain ⟨⟨hregs, hother⟩, hd⟩ := Transfer.onlyX_link s.regs d ⟨BitVec.ofNat 64 v.1, false⟩
    rw [if_neg hpsn]
    exact ⟨by rw [Regs.flag, hregs], hother, hd, by rw [Regs.flag, hframe]⟩

theorem scalarFloat : Parts.ScalarFloat := by
  intro s st q z d a b t rm e g run f low x y c src dst cv slot
  exact ⟨gives_fpSlot run d [a, b] (fun o => fpAdd f rm false (o.fx f a) (o.fx f b)) rfl rfl,
    gives_fpSlot run d [a, b] (fun o => fpAdd f rm true (o.fx f a) (o.fx f b)) rfl rfl,
    gives_fpSlot run d [a, b] (fun o => fpMul f rm (o.fx f a) (o.fx f b)) rfl rfl,
    gives_fpSlot run d [a, b] (fun o => fpMinMax f false (o.fx f a) (o.fx f b)) rfl rfl,
    gives_fpSlot run d [a, b] (fun o => fpMinMax f true (o.fx f a) (o.fx f b)) rfl rfl,
    gives_fpSlot run d [d, a, b] (fun o => fpFma f rm false false (o.fx f a) (o.fx f b) (o.fx f d)) rfl rfl,
    gives_fpSlot run d [d, a, b] (fun o => fpFma f rm false true (o.fx f a) (o.fx f b) (o.fx f d)) rfl rfl,
    gives_fpSlot run d [d, a, b] (fun o => fpFma f rm true false (o.fx f a) (o.fx f b) (o.fx f d)) rfl rfl,
    gives_fpSlot run d [d, a, b] (fun o => fpFma f rm true true (o.fx f a) (o.fx f b) (o.fx f d)) rfl rfl,
    gives_fpSlot run d [a, b] (fun o => fpDiv f rm (o.fx f a) (o.fx f b)) rfl rfl,
    gives_fpSlot run d [a] (fun o => fpSqrt f rm (o.fx f a)) rfl rfl,
    gives_fpSlot run d [a] (fun o => (fpClass f (o.fx f a), 0)) rfl rfl,
    gives_fpSlot run d [a] (fun o => (dst.extend (convert src dst rm false (Val.low (o.rx a.toNat) src.width)).1,
      (convert src dst rm false (Val.low (o.rx a.toNat) src.width)).2)) rfl rfl⟩

/-! ## Special values (R37) -/

theorem isNan_iff {v : Fl} : v.isNan = true ↔ ∃ p, v = .nan p := by cases v <;> simp [Fl.isNan]
theorem isInf_iff {v : Fl} : v.isInf = true ↔ ∃ n, v = .inf n := by cases v <;> simp [Fl.isInf]
theorem isZero_iff {v : Fl} : v.isZero = true ↔ ∃ n e, v = .num n 0 e := by cases v <;> simp [Fl.isZero]

theorem sigFlag_pair (a b : Fl) : sigFlag [a, b] = if a.isSig || b.isSig then fIV else 0 := by simp [sigFlag]
theorem isNan_flip (c : Bool) (v : Fl) : (v.flip c).isNan = v.isNan := by cases v <;> rfl
theorem isSig_flip (c : Bool) (v : Fl) : (v.flip c).isSig = v.isSig := by cases v <;> rfl

section
variable {f : Fmt} (rm : BitVec 2) {x y : Nat}

/-- A NaN operand gives the canonical NaN, and IV when it signals. -/
theorem fpAdd_nan (sub : Bool) (h : ((f.value x).isNan || (f.value y).isNan) = true) :
    fpAdd f rm sub x y = (f.nan, if (f.value x).isSig || (f.value y).isSig then fIV else 0) := by
  have hany : ([f.value x, (f.value y).flip sub].any Fl.isNan) = true := by simpa [isNan_flip] using h
  rw [fpAdd, Fmt.sum, if_pos hany, sigFlag_pair, isSig_flip]
  simp
theorem fpMul_nan (h : ((f.value x).isNan || (f.value y).isNan) = true) :
    fpMul f rm x y = (f.nan, if (f.value x).isSig || (f.value y).isSig then fIV else 0) := by
  rw [fpMul, if_pos h, sigFlag_pair]
theorem fpDiv_nan (h : ((f.value x).isNan || (f.value y).isNan) = true) :
    fpDiv f rm x y = (f.nan, if (f.value x).isSig || (f.value y).isSig then fIV else 0) := by
  rw [fpDiv, sigFlag_pair]
  revert h
  generalize f.value x = a
  generalize f.value y = b
  cases a with
  | nan p => exact fun _ => rfl
  | inf n =>
    cases b with
    | nan p => exact fun _ => rfl
    | inf m => simp [Fl.isNan]
    | num m k e => simp [Fl.isNan]
  | num n k e =>
    cases b with
    | nan p => exact fun _ => rfl
    | inf m => simp [Fl.isNan]
    | num m k e => simp [Fl.isNan]

/-- Infinities of both signs have no sum. -/
theorem fpAdd_inf (sub : Bool) {n m : Bool} (hx : f.value x = .inf n) (hy : f.value y = .inf m) (h : n ≠ (m != sub)) :
    fpAdd f rm sub x y = (f.nan, fIV) := by
  have hn : (m != sub) = !n := by
    revert h
    cases n
    all_goals
      cases m != sub
      all_goals simp
  rw [fpAdd, hx, hy, Fl.flip, hn]
  cases n
  all_goals simp [Fmt.sum, sigFlag, Fl.isNan, Fl.isSig, Fl.isInf, Fl.isNeg]

/-- 0 × ∞, 0 / 0, ∞ / ∞ and the root of a negative value are invalid. -/
theorem fpMul_zero_inf {n m : Bool} {e : Int} (hx : f.value x = .num n 0 e) (hy : f.value y = .inf m) :
    fpMul f rm x y = (f.nan, fIV) ∧ fpMul f rm y x = (f.nan, fIV) := by
  simp [fpMul, hx, hy, Fl.mul, Fl.isNan, Fl.isZero]
theorem fpDiv_inf_inf {n m : Bool} (hx : f.value x = .inf n) (hy : f.value y = .inf m) : fpDiv f rm x y = (f.nan, fIV) := by
  simp only [fpDiv, hx, hy]
theorem fpDiv_zero_zero {n m : Bool} {e e' : Int} (hx : f.value x = .num n 0 e) (hy : f.value y = .num m 0 e') :
    fpDiv f rm x y = (f.nan, fIV) := by
  simp [fpDiv, hx, hy]
theorem fpDiv_by_zero {n m : Bool} {k : Nat} {e e' : Int} (hx : f.value x = .num n k e) (hk : k ≠ 0) (hy : f.value y = .num m 0 e') :
    fpDiv f rm x y = (f.sign ((f.value x).isNeg != (f.value y).isNeg) + f.infBits, fDZ) := by
  simp [fpDiv, hx, hy, hk]
theorem fpSqrt_zero {n : Bool} {e : Int} (hx : f.value x = .num n 0 e) : fpSqrt f rm x = (f.sign (f.value x).isNeg, 0) := by
  simp [fpSqrt, hx, Fl.isNeg]
theorem fpSqrt_neg (hnan : (!(f.value x).isNan) = true) (hzero : (!(f.value x).isZero) = true) (hneg : (f.value x).isNeg = true) :
    fpSqrt f rm x = (f.nan, fIV) := by
  unfold fpSqrt
  cases hx : f.value x with
  | nan p => simp [hx, Fl.isNan] at hnan
  | inf n =>
    rw [hx, Fl.isNeg] at hneg
    simp [hneg]
  | num n k e =>
    rw [hx] at hzero hneg
    rw [Fl.isNeg] at hneg
    simp only [Fl.isZero, Bool.not_eq_true', decide_eq_false_iff_not] at hzero
    simp [hzero, hneg]

end

section
variable {f : Fmt} {x y : Nat}

/-- FMIN and FMAX: the canonical NaN for two NaNs, the number where one is a NaN. -/
theorem fpMinMax_nan (mx : Bool) (hx : (f.value x).isNan = true) (hy : (f.value y).isNan = true) :
    fpMinMax f mx x y = (f.nan, if (f.value x).isSig || (f.value y).isSig then fIV else 0) := by
  rw [fpMinMax, if_pos (by rw [hx, hy, Bool.true_and]), sigFlag_pair]
theorem fpMinMax_nan_left (mx : Bool) (hx : (f.value x).isNan = true) (hy : (!(f.value y).isNan) = true) :
    fpMinMax f mx x y = (y, if (f.value x).isSig || (f.value y).isSig then fIV else 0) := by
  rw [Bool.not_eq_true'] at hy
  simp [fpMinMax, hx, hy, sigFlag_pair]
theorem fpMinMax_nan_right (mx : Bool) (hx : (f.value x).isNan = true) (hy : (!(f.value y).isNan) = true) :
    fpMinMax f mx y x = (y, if (f.value x).isSig || (f.value y).isSig then fIV else 0) := by
  rw [Bool.not_eq_true'] at hy
  simp [fpMinMax, hx, hy, sigFlag_pair, Bool.or_comm]

theorem cmp_zero_zero (n m : Bool) (e e' : Int) : (Fl.num n 0 e).cmp (.num m 0 e') = some .eq := by simp [Fl.cmp]

/-- −0 is below +0. -/
theorem fpMinMax_zeros (mx : Bool) {n m : Bool} {e e' : Int} (hx : f.value x = .num n 0 e) (hy : f.value y = .num m 0 e') :
    fpMinMax f mx x y = (if (n && !m) != mx then x else y, 0) := by
  simp [fpMinMax, hx, hy, cmp_zero_zero, Fl.isNan, Fl.isNeg, sigFlag, Fl.isSig]

end

theorem floatSpecials : Parts.FloatSpecials := by
  intro t rm x y f vx vy sig neg
  refine ⟨fun h => ⟨fpAdd_nan rm false h, fpAdd_nan rm true h, fpMul_nan rm h, fpDiv_nan rm h⟩, fun hx hy => ?_, fun hx hy => ?_,
    fun hx hy => ?_, fun hnan hinf hzero hy => ?_, fpSqrt_neg rm, fun hx => ?_, fun hx hy => ⟨fpMinMax_nan false hx hy, fpMinMax_nan true hx hy⟩,
    fun hx hy => ⟨fpMinMax_nan_left false hx hy, fpMinMax_nan_left true hx hy, fpMinMax_nan_right false hx hy, fpMinMax_nan_right true hx hy⟩,
    fun hx hy hneg hpos => ?_⟩
  · obtain ⟨n, hn⟩ := isInf_iff.mp hx
    obtain ⟨m, hm⟩ := isInf_iff.mp hy
    refine ⟨fpDiv_inf_inf rm hn hm, fun h => fpAdd_inf rm false hn hm ?_, fun h => fpAdd_inf rm true hn hm ?_⟩
    · simpa [hn, hm, Fl.isNeg] using h
    · simpa [hn, hm, Fl.isNeg] using h
  · obtain ⟨n, e, hn⟩ := isZero_iff.mp hx
    obtain ⟨m, hm⟩ := isInf_iff.mp hy
    exact fpMul_zero_inf rm hn hm
  · obtain ⟨n, e, hn⟩ := isZero_iff.mp hx
    obtain ⟨m, e', hm⟩ := isZero_iff.mp hy
    exact fpDiv_zero_zero rm hn hm
  · obtain ⟨m, e', hm⟩ := isZero_iff.mp hy
    cases hn : f.value x with
    | nan p => simp [vx, hn, Fl.isNan] at hnan
    | inf n => simp [vx, hn, Fl.isInf] at hinf
    | num n k e => exact fpDiv_by_zero rm hn (by simpa [vx, hn, Fl.isZero] using hzero) hm
  · obtain ⟨n, e, hn⟩ := isZero_iff.mp hx
    exact fpSqrt_zero rm hn
  · obtain ⟨n, e, hn⟩ := isZero_iff.mp hx
    obtain ⟨m, e', hm⟩ := isZero_iff.mp hy
    have hnt : n = true := by simpa [vx, hn, Fl.isNeg] using hneg
    have hmf : m = false := by simpa [vy, hm, Fl.isNeg] using hpos
    rw [hnt] at hn
    rw [hmf] at hm
    exact ⟨fpMinMax_zeros false hn hm, fpMinMax_zeros true hn hm, fpMinMax_zeros false hm hn, fpMinMax_zeros true hm hn⟩

/-! ## FCMP (R133) -/

theorem cmp_isNone (a b : Fl) : (a.cmp b = none) ↔ (a.isNan || b.isNan) = true := by
  cases a with
  | nan p => simp [Fl.cmp, Fl.isNan]
  | inf n => cases b <;> simp [Fl.cmp, Fl.isNan]
  | num n k e => cases b <;> simp [Fl.cmp, Fl.isNan]

theorem isNan_of_isSig {v : Fl} (h : v.isSig = true) : v.isNan = true := by
  cases v with
  | nan p => rfl
  | inf n => exact h
  | num n k e => exact h

/-- The conditions of FCMP, of whether an operand is a NaN and of the order of the values. -/
def Ordered (c : Nat) (nan : Bool) (o : Option Ordering) : Bool :=
  match c with
  | 0 => !nan && o = some .eq | 1 => !nan && o = some .lt | 2 => !nan && (o = some .lt || o = some .eq) | 3 => nan | _ => nan || !o = some .eq

theorem fpCond_fst (f : Fmt) (c x y : Nat) :
    (fpCond f c x y).1 = Ordered c ((f.value x).isNan || (f.value y).isNan) ((f.value x).cmp (f.value y)) := by
  have hnan := cmp_isNone (f.value x) (f.value y)
  simp only [fpCond]
  cases ho : (f.value x).cmp (f.value y) with
  | none =>
    rw [hnan.mp ho]
    match c with
    | 0 => rfl
    | 1 => rfl
    | 2 => rfl
    | 3 => rfl
    | _ + 4 => rfl
  | some o =>
    rw [Bool.eq_false_iff.mpr (mt hnan.mpr (by simp [ho]))]
    cases o
    all_goals
      match c with
      | 0 => rfl
      | 1 => rfl
      | 2 => rfl
      | 3 => rfl
      | _ + 4 => rfl

theorem fpCond_snd (f : Fmt) (c x y : Nat) : (fpCond f c x y).2 =
    if (if c = 1 ∨ c = 2 then (f.value x).isNan || (f.value y).isNan else (f.value x).isSig || (f.value y).isSig) then fIV else 0 := by
  have hnan := cmp_isNone (f.value x) (f.value y)
  have hsig : ((f.value x).isSig || (f.value y).isSig) = true → ((f.value x).isNan || (f.value y).isNan) = true := by
    rw [Bool.or_eq_true, Bool.or_eq_true]
    exact Or.imp isNan_of_isSig isNan_of_isSig
  simp only [fpCond, hnan, sigFlag_pair]
  by_cases hc : c = 1 ∨ c = 2
  · rw [if_pos hc]
    by_cases hn : ((f.value x).isNan || (f.value y).isNan) = true
    · rw [if_pos ⟨hc, hn⟩, if_pos hn]
    · rw [if_neg (fun h => hn h.2), if_neg hn, if_neg (mt hsig hn)]
  · rw [if_neg hc, if_neg fun h => hc h.1]

theorem floatCompare : Parts.FloatCompare := by
  intro s st p a b t c run hc ha hb f vx vy nan sig lt eq holds iv
  let r := fpCond f c.toNat (s.old.fx f a) (s.old.fx f b)
  have he : exec (.fcmp st p a b t c) s = .next ((s.modRegs fun q => q.wp p.toNat r.1).setFlags r.2).retire := by
    refine (if_neg ?_).trans (if_neg ?_)
    · rw [ha]
      exact Bool.false_ne_true
    · rw [hb]
      exact Bool.false_ne_true
  have hnum : (c.toNat = 1 ∨ c.toNat = 2) = (c = 1 ∨ c = 2) := by bv_omega
  have hflag : r.2 = if iv then fIV else 0 := (fpCond_snd f c.toNat _ _).trans (by simp only [hnum]; rfl)
  have hcond : r.1 = holds := fpCond_fst f c.toNat _ _
  refine Lanes.gives_flagged _ _ run he ⟨?_, fun n hn => Steps.rp_wp_other _ _ hn, ?_, ?_⟩
  · rw [Regs.flag, Compares.onlyP_frame]
  · exact hcond ▸ Steps.rp_wp_same _ _ _
  · rw [Regs.flag, Compares.onlyP_frame, hflag]
    cases iv
    · exact BitVec.or_zero
    · rfl

/-- Settles O4: the slots deliver the operation's bits and flags, and the special values follow from the values of the operands. -/
theorem scalarFloatForms : Obligations.ScalarFloatForms := ⟨scalarFloat, floatSpecials, floatCompare⟩

end Sys2Proof.Floats
end

section
/-! SUPPORT. Register operands that a slot reads clean (R119): what the slot does next, and the cause that poison raises. -/
namespace Sys2Proof.CleanReads
open Sys2Proof Sys2Proof.Machine

section
variable {β : Type} {s : State} {n : Nat}

theorem bind_xClean (h : (s.old.rx n).psn = false) (g : Word64 → M β) : (xClean n >>= g) s = g (s.old.rx n).v s :=
  M.bind_ok (Cohorts.run_xClean h)
theorem bind_xClean_poisoned (h : (s.old.rx n).psn = true) (g : Word64 → M β) :
    (xClean n >>= g) s = .error (.raise (.poison (regTag 0 n))) := by
  refine M.bind_error ((M.bind_ok (M.run_reads _ s)).trans (M.bind_error ?_))
  rw [M.run_raiseIf, if_pos h]
theorem bind_cClean (h : (s.old.rc n).psn = false) (g : Cap → M β) : (cClean n >>= g) s = g (s.old.rc n) s := by
  have hraise : raiseIf (s.old.rc n).psn (.poison (regTag 3 n)) s = .ok ((), s) := by
    rw [M.run_raiseIf, h]
    rfl
  exact M.bind_ok ((M.bind_ok (M.run_reads _ s)).trans (M.bind_ok hraise))
theorem bind_cClean_poisoned (h : (s.old.rc n).psn = true) (g : Cap → M β) :
    (cClean n >>= g) s = .error (.raise (.poison (regTag 3 n))) := by
  refine M.bind_error ((M.bind_ok (M.run_reads _ s)).trans (M.bind_error ?_))
  rw [M.run_raiseIf, if_pos h]

variable {b : Bool} {t : Trap} (g : Unit → M β)
theorem bind_raiseIf_false (h : b = false) : (raiseIf b t >>= g) s = g () s := M.bind_ok (by rw [M.run_raiseIf, h]; rfl)
theorem bind_raiseIf_true (h : b = true) : (raiseIf b t >>= g) s = .error (.raise t) := M.bind_error (by rw [M.run_raiseIf, if_pos h])

end

/-- A slot that ends in a change of registers. -/
theorem gives_setRegs {s : State} {i : Instr} {m : M Unit} {f : Regs → Regs} {Q : Regs → Prop} (run : Running s)
    (he : exec i s = slotOut m s) (hm : m s = setRegs f s) (q : Q (f s.regs)) : Gives s i Q :=
  gives_regSlot (fun _ => f) run (he.trans (slotOut_ok hm)) q
/-- A slot that raises a cause. -/
theorem raises_of_run {s : State} {i : Instr} {m : M Unit} {t : Trap} (he : exec i s = slotOut m s) (hm : m s = .error (.raise t)) :
    exec i s = .next (s.raise t) := he.trans (slotOut_raise hm)

end Sys2Proof.CleanReads

/-! SUPPORT. Capability instructions (R141 to R144). -/
namespace Sys2Proof.Capabilities
open Sys2Proof Sys2Proof.Machine Sys2Proof.CleanReads

/-! ## Fields and results -/

/-- Only cD differs. -/
theorem wc_frame (r : Regs) (d : Nat) (v : Cap) :
    r.wc d v = { r with c := (r.wc d v).c } ∧ (∀ n, n ≠ d → (r.wc d v).rc n = r.rc n) ∧ (r.wc d v).rc d = v :=
  ⟨rfl, fun n hn => by rw [Regs.rc_wc, if_neg hn], by rw [Regs.rc_wc, if_pos rfl]⟩

/-- `i` writes a capability of the fields given to cD. -/
def Makes (s : State) (i : Instr) (d : BitVec 6) (b n : Nat) (pm : BitVec 8) (sh : BitVec 16) : Prop :=
  Gives s i fun r => r = { s.regs with c := r.c } ∧ (∀ n, n ≠ d.toNat → r.rc n = s.regs.rc n) ∧
    r.rc d.toNat = { bits := BitVec.ofNat 64 b ++ BitVec.ofNat 40 n ++ pm ++ sh, tag := true, psn := false }

/-! ## CNARROW (R141) -/

section
variable {s : State} {i : Instr} {d a : BitVec 6} {v : M Word64} {w : Word64} {f : Nat → Nat → Nat → Option (Nat × Nat)}
  (he : exec i s = narrow d a v f s) (hv : v s = .ok (w, s)) (hclean : (s.old.rc a.toNat).psn = false)
include he hv hclean

theorem narrow_untagged (htag : (s.old.rc a.toNat).tag = false) : exec i s = .next (s.raise (.capTag a.toNat)) :=
  raises_of_run he (by rw [bind_cClean hclean, M.bind_ok hv, bind_raiseIf_true _ (by rw [htag]; rfl)])
theorem narrow_widens (htag : (s.old.rc a.toNat).tag = true) (hf : f (s.old.rc a.toNat).base (s.old.rc a.toNat).len w.toNat = none) :
    exec i s = .next (s.raise (.capWiden a.toNat)) :=
  raises_of_run he (by rw [bind_cClean hclean, M.bind_ok hv, bind_raiseIf_false _ (by rw [htag]; rfl), hf]; rfl)
theorem narrow_makes (run : Running s) (htag : (s.old.rc a.toNat).tag = true) {b n : Nat}
    (hf : f (s.old.rc a.toNat).base (s.old.rc a.toNat).len w.toNat = some (b, n)) :
    Makes s i d b n (s.old.rc a.toNat).perm (s.old.rc a.toNat).shape :=
  gives_setRegs (f := fun r => r.wc d.toNat (Cap.make b n (s.old.rc a.toNat).perm (s.old.rc a.toNat).shape true)) run he
    (by rw [bind_cClean hclean, M.bind_ok hv, bind_raiseIf_false _ (by rw [htag]; rfl), hf]) (wc_frame _ _ _)

end

theorem ofNat_add_mod (b v : Nat) : BitVec.ofNat 64 ((b + v) % 2 ^ 64) = BitVec.ofNat 64 (b + v) :=
  BitVec.eq_of_toNat_eq (Nat.mod_mod _ _)

section
variable {s : State} {i : Instr} {d a : BitVec 6} {v : M Word64} {w : Word64} (hv : v s = .ok (w, s))
  (hclean : (s.old.rc a.toNat).psn = false) (run : Running s) (htag : (s.old.rc a.toNat).tag = true)
include hv hclean run htag

theorem narrowOff_spec (he : exec i s = narrow d a v narrowOff s) : let c := s.old.rc a.toNat
    if w.toNat ≤ c.len then Makes s i d (c.base + w.toNat) (c.len - w.toNat) c.perm c.shape else exec i s = .next (s.raise (.capWiden a.toNat)) := by
  intro c
  split
  next hle =>
    have h := narrow_makes he hv hclean run htag (if_neg (Nat.not_lt.mpr hle))
    rwa [Makes, ofNat_add_mod] at h
  next hlt => exact narrow_widens he hv hclean htag (if_pos (Nat.lt_of_not_le hlt))
theorem narrowLen_spec (he : exec i s = narrow d a v narrowLen s) : let c := s.old.rc a.toNat
    if w.toNat ≤ c.len then Makes s i d c.base w.toNat c.perm c.shape else exec i s = .next (s.raise (.capWiden a.toNat)) := by
  intro c
  split
  next hle => exact narrow_makes he hv hclean run htag (if_neg (Nat.not_lt.mpr hle))
  next hlt => exact narrow_widens he hv hclean htag (if_pos (Nat.lt_of_not_le hlt))
theorem narrowBase_spec (he : exec i s = narrow d a v narrowBase s) : let c := s.old.rc a.toNat
    if c.base ≤ w.toNat ∧ w.toNat ≤ c.base + c.len then Makes s i d w.toNat (c.base + c.len - w.toNat) c.perm c.shape
    else exec i s = .next (s.raise (.capWiden a.toNat)) := by
  intro c
  split
  next hin => exact narrow_makes he hv hclean run htag (if_neg (by change ¬ (_ < c.base ∨ c.base + c.len < _); omega))
  next hout => exact narrow_widens he hv hclean htag (if_pos (by change _ < c.base ∨ c.base + c.len < _; omega))

end

/-! ## CPERM (R142) -/

theorem and_permSH (m : BitVec 8) : m &&& permSH = 0 ↔ m.getLsbD 6 = false := by
  revert m
  decide
theorem shape_kept (m : BitVec 8) (sh : BitVec 16) : (if m &&& permSH = 0 then 0 else sh) = if m.getLsbD 6 then sh else 0 := by
  cases h : m.getLsbD 6 with
  | false => exact if_pos ((and_permSH m).mpr h)
  | true => exact if_neg fun h0 => absurd (h.symm.trans ((and_permSH m).mp h0)) Bool.true_eq_false.mp

section
variable {s : State} {d a : BitVec 6} (st : Bool) (m : BitVec 8) (hclean : (s.old.rc a.toNat).psn = false)
include hclean

theorem cperm_untagged (htag : (s.old.rc a.toNat).tag = false) : exec (.cperm st d a m) s = .next (s.raise (.capTag a.toNat)) :=
  raises_of_run rfl (by rw [bind_cClean hclean, bind_raiseIf_true _ (by rw [htag]; rfl)])
theorem cperm_widens (htag : (s.old.rc a.toNat).tag = true) (h : m &&& ~~~(s.old.rc a.toNat).perm ≠ 0) :
    exec (.cperm st d a m) s = .next (s.raise (.capWiden a.toNat)) :=
  raises_of_run rfl (by rw [bind_cClean hclean, bind_raiseIf_false _ (by rw [htag]; rfl), bind_raiseIf_true _ (decide_eq_true h)])

theorem cperm_makes (run : Running s) (htag : (s.old.rc a.toNat).tag = true) (h : m &&& ~~~(s.old.rc a.toNat).perm = 0) :
    Makes s (.cperm st d a m) d (s.old.rc a.toNat).base (s.old.rc a.toNat).len m (if m.getLsbD 6 then (s.old.rc a.toNat).shape else 0) := by
  rw [← shape_kept]
  refine gives_setRegs (f := fun r => r.wc d.toNat (Cap.make (s.old.rc a.toNat).base (s.old.rc a.toNat).len m
    (if m &&& permSH = 0 then 0 else (s.old.rc a.toNat).shape) true)) run rfl ?_ (wc_frame _ _ _)
  rw [bind_cClean hclean, bind_raiseIf_false _ (by rw [htag]; rfl), bind_raiseIf_false _ (decide_eq_false (not_not.mpr h))]

end

theorem toNat_immZ (s : State) (b : BitVec 6) : (s.immZ b).toNat = match s.slot.limm with | some u => (u ++ b).toNat | none => b.toNat := by
  unfold State.immZ
  cases s.slot.limm with
  | some u => exact BitVec.toNat_setWidth_of_le (by decide)
  | none => exact BitVec.toNat_setWidth_of_le (by decide)

theorem narrows : Parts.Narrow := by
  intro s st d a b m run c x imm base len perm gives off lens bases all hclean
  have himm : (s.immZ b).toNat = imm := toNat_immZ s b
  refine ⟨fun htag => ⟨?_, fun hx => ?_⟩, fun htag => ⟨?_, ?_, ?_, fun hx => ⟨?_, ?_, ?_⟩, ?_⟩⟩
  · simp only [all, List.forall_mem_cons, List.not_mem_nil, false_imp_iff, implies_true, and_true]
    exact ⟨narrow_untagged rfl (M.run_pure _ _) hclean htag, narrow_untagged rfl (M.run_pure _ _) hclean htag,
      narrow_untagged rfl (M.run_pure _ _) hclean htag, cperm_untagged st m hclean htag⟩
  · have hv := Cohorts.run_xClean hx
    simp only [List.forall_mem_cons, List.not_mem_nil, false_imp_iff, implies_true, and_true]
    exact ⟨narrow_untagged rfl hv hclean htag, narrow_untagged rfl hv hclean htag, narrow_untagged rfl hv hclean htag⟩
  · exact himm ▸ narrowOff_spec (M.run_pure _ _) hclean run htag rfl
  · exact himm ▸ narrowLen_spec (M.run_pure _ _) hclean run htag rfl
  · exact himm ▸ narrowBase_spec (M.run_pure _ _) hclean run htag rfl
  · exact narrowOff_spec (Cohorts.run_xClean hx) hclean run htag rfl
  · exact narrowLen_spec (Cohorts.run_xClean hx) hclean run htag rfl
  · exact narrowBase_spec (Cohorts.run_xClean hx) hclean run htag rfl
  · split
    next h => exact cperm_makes st m hclean run htag h
    next h => exact cperm_widens st m hclean htag h

/-! ## CGET (R142) -/

theorem gives_cget {s : State} {i : Instr} (run : Running s) (d a : BitVec 6) (f : Cap → Word64) {v : Nat} (he : exec i s = cget d a f s)
    (hv : f (s.old.rc a.toNat) = BitVec.ofNat 64 v) : Gives s i fun r =>
      OnlyX d.toNat s.regs r ∧ r.rx d.toNat = xAfter d ⟨BitVec.ofNat 64 v, (s.old.rc a.toNat).psn⟩ :=
  gives_regSlot (fun old r => r.wx d.toNat ⟨f (old.rc a.toNat), (old.rc a.toNat).psn⟩) run he (hv ▸ Transfer.onlyX_link _ _ _)

theorem setWidth_extract {n : Nat} (x : BitVec 128) (o : Nat) (h : n ≤ 64) :
    (x.extractLsb' o n).setWidth 64 = BitVec.ofNat 64 (x.toNat / 2 ^ o % 2 ^ n) := by
  refine BitVec.eq_of_toNat_eq ?_
  have hlt : x.toNat / 2 ^ o % 2 ^ n < 2 ^ 64 := (Nat.mod_lt _ (Nat.two_pow_pos n)).trans_le (Nat.pow_le_pow_right (by decide) h)
  rw [BitVec.toNat_setWidth_of_le h, BitVec.extractLsb'_toNat, Nat.shiftRight_eq_div_pow, BitVec.toNat_ofNat, Nat.mod_eq_of_lt hlt]

theorem capabilityFields : Parts.CapabilityFields := by
  intro s st d a run c field n
  have hhi : n / 2 ^ 64 % 2 ^ 64 = n / 2 ^ 64 := Nat.mod_eq_of_lt (Nat.div_lt_of_lt_mul c.bits.isLt)
  refine ⟨gives_cget run d a (fun c => BitVec.ofNat 64 c.base) rfl ?_, gives_cget run d a (fun c => BitVec.ofNat 64 c.len) rfl ?_,
    gives_cget run d a (fun c => c.perm.setWidth 64) rfl (setWidth_extract c.bits 16 (by decide)),
    gives_cget run d a (fun c => c.shape.setWidth 64) rfl ?_, gives_cget run d a (fun c => if c.tag then 1 else 0) rfl ?_,
    gives_cget run d a (fun c => c.bits.extractLsb' 64 64) rfl ?_, gives_cget run d a (fun c => c.bits.extractLsb' 0 64) rfl ?_⟩
  · rw [← hhi, Cap.base, BitVec.extractLsb'_toNat, Nat.shiftRight_eq_div_pow]
  · rw [Cap.len, BitVec.extractLsb'_toNat, Nat.shiftRight_eq_div_pow]
  · have h := setWidth_extract c.bits 0 (n := 16) (by decide)
    rwa [Nat.pow_zero, Nat.div_one] at h
  · cases (s.old.rc a.toNat).tag
    · rfl
    · rfl
  · have h := setWidth_extract c.bits 64 (n := 64) (by decide)
    rwa [BitVec.setWidth_eq, hhi] at h
  · have h := setWidth_extract c.bits 0 (n := 64) (by decide)
    rwa [BitVec.setWidth_eq, Nat.pow_zero, Nat.div_one] at h

/-! ## CSHAPE (R143) -/

theorem perm_permSH (c : Cap) : c.perm &&& permSH = 0 ↔ c.bits.getLsbD 22 = false := by
  rw [and_permSH, Cap.perm, BitVec.getLsbD_extractLsb']
  rfl

/-- The capability with another shape. -/
theorem make_shaped (c : Cap) (x : Word64) : Cap.make c.base c.len c.perm (x.setWidth 16) true =
    { bits := c.bits.extractLsb' 16 112 ++ x.extractLsb' 0 16, tag := true, psn := false } := by
  have hfields : BitVec.ofNat 64 c.base ++ BitVec.ofNat 40 c.len ++ c.perm = c.bits.extractLsb' 16 112 := by
    rw [Cap.base, Cap.len, BitVec.ofNat_toNat, BitVec.ofNat_toNat, BitVec.setWidth_eq, BitVec.setWidth_eq,
      BitVec.extractLsb'_append_extractLsb'_eq_extractLsb' (by decide)]
    exact BitVec.extractLsb'_append_extractLsb'_eq_extractLsb' (by decide)
  have hshape : x.setWidth 16 = x.extractLsb' 0 16 := BitVec.setWidth_eq_extractLsb' (by decide)
  rw [Cap.make, hfields, hshape]

section
variable {s : State} (st : Bool) {d a b : BitVec 6} (hclean : (s.old.rc a.toNat).psn = false) (hx : (s.old.rx b.toNat).psn = false)
include hclean hx

theorem cshape_untagged (htag : (s.old.rc a.toNat).tag = false) : exec (.cshape st d a b) s = .next (s.raise (.capTag a.toNat)) :=
  raises_of_run rfl (by rw [bind_cClean hclean, bind_xClean hx, bind_raiseIf_true _ (by rw [htag]; rfl)])

variable (htag : (s.old.rc a.toNat).tag = true)
include htag
theorem cshape_flat (run : Running s) (h : (s.old.rx b.toNat).v = 0) : Gives s (.cshape st d a b) fun r =>
    r = { s.regs with c := r.c } ∧ (∀ n, n ≠ d.toNat → r.rc n = s.regs.rc n) ∧
      r.rc d.toNat = Cap.make (s.old.rc a.toNat).base (s.old.rc a.toNat).len (s.old.rc a.toNat).perm ((s.old.rx b.toNat).v.setWidth 16) true :=
  gives_setRegs run rfl (by rw [bind_cClean hclean, bind_xClean hx, bind_raiseIf_false _ (by rw [htag]; rfl), if_pos h]) (wc_frame _ _ _)

variable (hne : (s.old.rx b.toNat).v ≠ 0)
include hne
theorem cshape_unshared (h : (s.old.rc a.toNat).bits.getLsbD 22 = false) :
    exec (.cshape st d a b) s = .next (s.raise (.capPerm 0 a.toNat)) :=
  raises_of_run rfl (by
    rw [bind_cClean hclean, bind_xClean hx, bind_raiseIf_false _ (by rw [htag]; rfl), if_neg hne]
    exact bind_raiseIf_true _ (decide_eq_true ((perm_permSH _).mpr h)))

variable (hsh : (s.old.rc a.toNat).bits.getLsbD 22 = true)
include hsh
theorem cshape_large (h : 0xFFFF < (s.old.rx b.toNat).v.toNat) :
    exec (.cshape st d a b) s = .next (s.raise (.shapeInvalid (16 * (s.old.rx b.toNat).v.toNat))) :=
  raises_of_run rfl (by
    rw [bind_cClean hclean, bind_xClean hx, bind_raiseIf_false _ (by rw [htag]; rfl), if_neg hne]
    refine (bind_raiseIf_false _ (decide_eq_false fun h0 => ?_)).trans ?_
    · exact absurd (hsh.symm.trans ((perm_permSH _).mp h0)) Bool.true_eq_false.mp
    · rw [Nat.mul_comm 16]
      exact bind_raiseIf_true _ (decide_eq_true h))

/-- A clean header in the scratchpad: what is left are the checks of its count of dimensions and its type, and of the record's end. -/
theorem cshape_header (hsmall : (s.old.rx b.toNat).v.toNat ≤ 0xFFFF)
    {h0 h1 : Val 8} (h0v : s.peek (scratchAddr (s.cur / 2) (16 * (s.old.rx b.toNat).v.toNat + 0)) = h0)
    (h1v : s.peek (scratchAddr (s.cur / 2) (16 * (s.old.rx b.toNat).v.toNat + 1)) = h1) (h0p : h0.psn = false) (h1p : h1.psn = false) :
    exec (.cshape st d a b) s = slotOut (do
      raiseIf (h0.v.toNat = 0 ∨ 9 < h0.v.toNat ∨ 17 < h1.v.toNat) (.shapeInvalid (16 * (s.old.rx b.toNat).v.toNat))
      raiseIf (0x100000 < 16 * (s.old.rx b.toNat).v.toNat + 16 * (h0.v.toNat + 1)) (.shapeInvalid (16 * (s.old.rx b.toNat).v.toNat))
      setRegs fun r => r.wc d.toNat (Cap.make (s.old.rc a.toNat).base (s.old.rc a.toNat).len (s.old.rc a.toNat).perm
        ((s.old.rx b.toNat).v.setWidth 16) true)) s := by
  have hbytes : s.peekN (scratchAddr (s.cur / 2) ((s.old.rx b.toNat).v.toNat * 16)) 2 = [h0, h1] := by
    rw [← h0v, ← h1v, Nat.mul_comm 16]
    rfl
  refine Steps.slotOut_congr ?_
  rw [bind_cClean hclean, bind_xClean hx, bind_raiseIf_false _ (by rw [htag]; rfl), if_neg hne]
  refine (bind_raiseIf_false _ (decide_eq_false fun h0 => ?_)).trans ?_
  · exact absurd (hsh.symm.trans ((perm_permSH _).mp h0)) Bool.true_eq_false.mp
  · rw [bind_raiseIf_false _ (decide_eq_false (Nat.not_lt.mpr hsmall)), Steps.bind_reads, hbytes,
      bind_raiseIf_false _ (by simp [anyPsn, h0p, h1p]), Nat.mul_comm 16 (s.old.rx b.toNat).v.toNat]
    rfl

end

theorem shapeAttach : Parts.ShapeAttach := by
  intro s st d a b run c x h n gives raises invalid hclean hx
  have hmakes : Gives s (.cshape st d a b) (fun r => r = { s.regs with c := r.c } ∧ (∀ n, n ≠ d.toNat → r.rc n = s.regs.rc n) ∧
      r.rc d.toNat = Cap.make c.base c.len c.perm (x.setWidth 16) true) → gives := by
    rw [make_shaped]
    exact id
  refine ⟨cshape_untagged st hclean hx, fun htag hzero => hmakes (cshape_flat st hclean hx htag run hzero), cshape_unshared st hclean hx,
    fun htag hne hsh => ⟨cshape_large st hclean hx htag hne hsh, fun hsmall h0 h1 => ?_⟩⟩
  have hexec := cshape_header (d := d) st hclean hx htag hne hsh hsmall rfl rfl h0 h1
  refine ⟨fun hbad => raises_of_run hexec ?_, fun hpos hdims htype hend => hmakes (gives_setRegs
    (f := fun r => r.wc d.toNat (Cap.make c.base c.len c.perm (x.setWidth 16) true)) run hexec ?_ (wc_frame _ _ _))⟩
  · by_cases hform : n = 0 ∨ 9 < n ∨ 17 < (h 1).v.toNat
    · exact bind_raiseIf_true _ (decide_eq_true hform)
    · have hlong : 0x100000 < 16 * x.toNat + 16 * (n + 1) := by omega
      rw [bind_raiseIf_false _ (decide_eq_false hform)]
      exact bind_raiseIf_true _ (decide_eq_true hlong)
  · have hform : ¬ (n = 0 ∨ 9 < n ∨ 17 < (h 1).v.toNat) := by omega
    have hshort : ¬ 0x100000 < 16 * x.toNat + 16 * (n + 1) := by omega
    rw [bind_raiseIf_false _ (decide_eq_false hform), bind_raiseIf_false _ (decide_eq_false hshort)]

/-! ## CMINT (R144) -/

/-- The bits of an address from 56 on agree when they are all 0 or all 1. -/
theorem canonical_iff (x : Word64) : canonical x.toNat = true ↔ ∀ i, 56 ≤ i → i < 64 → x.getLsbD i = x.getLsbD 56 := by
  have htop : x.toNat / 2 ^ 56 = (x.extractLsb' 56 8).toNat := by
    rw [BitVec.extractLsb'_toNat, Nat.shiftRight_eq_div_pow]
    omega
  have hbits : ∀ v : BitVec 8, (v.toNat = 0 ∨ v.toNat = 0xFF) ↔ ∀ j, j < 8 → v.getLsbD j = v.getLsbD 0 := by decide
  rw [canonical, htop, Bool.or_eq_true, decide_eq_true_eq, decide_eq_true_eq, hbits]
  simp only [BitVec.getLsbD_extractLsb']
  constructor
  · intro h i hlo hhi
    simpa [show i - 56 < 8 by omega, show 56 + (i - 56) = i by omega] using h (i - 56) (by omega)
  · intro h j hj
    simpa [hj] using h (56 + j) (by omega) (by omega)

section
variable {s : State} (st : Bool) {d a b : BitVec 6}

theorem cmint_user (h : s.regs.mode ≠ 2) : exec (.cmint st d a b) s = .next (s.raise .privViolation) := if_pos h

variable (hmode : s.regs.mode = 2) (ha : (s.old.rx a.toNat).psn = false) (hb : (s.old.rx b.toNat).psn = false)
include hmode ha hb

/-- What is left of CMINT in SYSTEM mode: the checks of the base and of the end. -/
theorem cmint_system : exec (.cmint st d a b) s = slotOut (do
    raiseIf (!canonical (s.old.rx a.toNat).v.toNat) (.capBounds (s.old.rx a.toNat).v d.toNat)
    raiseIf (!(s.old.rx a.toNat).v.getLsbD 56 && 2 ^ 56 < (s.old.rx a.toNat).v.toNat + (s.old.rx b.toNat).v.toNat / 2 ^ 24)
      (.capBounds (BitVec.ofNat 64 (2 ^ 56)) d.toNat)
    raiseIf ((s.old.rx a.toNat).v.getLsbD 56 && 2 ^ 64 < (s.old.rx a.toNat).v.toNat + (s.old.rx b.toNat).v.toNat / 2 ^ 24)
      (.capBounds 0 d.toNat)
    setRegs fun r => r.wc d.toNat { bits := (s.old.rx a.toNat).v ++ (s.old.rx b.toNat).v, tag := true }) s := by
  refine (if_neg (not_not.mpr hmode)).trans (Steps.slotOut_congr ?_)
  rw [bind_xClean ha, bind_xClean hb]

end

theorem mint : Parts.Mint := by
  intro s st d a b run x y len canon fits
  refine ⟨cmint_user st, fun hmode ha hb => ?_⟩
  have hexec := cmint_system (d := d) st hmode ha hb
  have hfits : fits ↔ (!x.getLsbD 56 && 2 ^ 56 < x.toNat + len) = false ∧ (x.getLsbD 56 && 2 ^ 64 < x.toNat + len) = false := by
    simp only [fits]
    cases x.getLsbD 56 with
    | false => simp
    | true => simp
  rw [hfits]
  refine ⟨fun hcanon hend => gives_setRegs (f := fun r => r.wc d.toNat { bits := x ++ y, tag := true }) run hexec ?_ (wc_frame _ _ _),
    fun hbad => ?_⟩
  · rw [bind_raiseIf_false _ (by rw [(canonical_iff x).mpr hcanon]; rfl), bind_raiseIf_false _ hend.1, bind_raiseIf_false _ hend.2]
  · by_cases hcanon : canon
    · have hc : (!canonical x.toNat) = false := by rw [(canonical_iff x).mpr hcanon]; rfl
      cases hpos : !x.getLsbD 56 && decide (2 ^ 56 < x.toNat + len) with
      | true => exact ⟨_, rfl, rfl, raises_of_run hexec ((bind_raiseIf_false _ hc).trans (bind_raiseIf_true _ hpos))⟩
      | false =>
        cases hneg : x.getLsbD 56 && decide (2 ^ 64 < x.toNat + len) with
        | true => exact ⟨_, rfl, rfl, raises_of_run hexec
            ((bind_raiseIf_false _ hc).trans ((bind_raiseIf_false _ hpos).trans (bind_raiseIf_true _ hneg)))⟩
        | false => exact absurd ⟨hcanon, hpos, hneg⟩ hbad
    · have hc : (!canonical x.toNat) = true := by rw [Bool.eq_false_iff.mpr (mt (canonical_iff x).mp hcanon)]; rfl
      exact ⟨_, rfl, rfl, raises_of_run hexec (bind_raiseIf_true _ hc)⟩

/-- Settles O9: each form of the capability instructions, by the checks that it passes in turn. -/
theorem capabilities : Obligations.Capabilities := ⟨narrows, capabilityFields, shapeAttach, mint⟩

end Sys2Proof.Capabilities
end

section
/-! SUPPORT. TRANS and the handle registers (R142, R145). -/
namespace Sys2Proof.Handles
open Sys2Proof Sys2Proof.Machine Sys2Proof.CleanReads

/-- Only hD differs. -/
theorem wh_frame (r : Regs) (d : Nat) (h : Handle) :
    (r.wh d h = { r with h := (r.wh d h).h } ∧ ∀ n, n ≠ d → (r.wh d h).rh n = r.rh n) ∧ (r.wh d h).rh d = h :=
  ⟨⟨rfl, fun n hn => by rw [Regs.rh_wh, if_neg hn]⟩, by rw [Regs.rh_wh, if_pos rfl]⟩

theorem pageBytes_pos (size : Nat) : 0 < pageBytes size := by
  unfold pageBytes
  split
  · decide
  · split
    · decide
    · decide

/-- The page of a size that holds an address. -/
theorem page_holds (x : Word64) (size : Nat) :
    let page := BitVec.ofNat 64 (x.toNat / pageBytes size * pageBytes size)
    page.toNat ≤ x.toNat ∧ x.toNat < page.toNat + pageBytes size := by
  intro page
  have hle : x.toNat / pageBytes size * pageBytes size ≤ x.toNat := Nat.div_mul_le_self _ _
  have hpage : page.toNat = x.toNat / pageBytes size * pageBytes size := Nat.mod_eq_of_lt (hle.trans_lt x.isLt)
  rw [hpage]
  exact ⟨hle, Nat.lt_div_mul_add (pageBytes_pos size)⟩

/-- The entry of the core's TLB that TRANS finds for an address, and the handle that it makes. -/
def foundAt (s : State) (x : Word64) : Option TlbEntry := (s.tlb (s.cur / 2)).find? fun e => e.maps (s.launchOf s.cur).asid x.toNat
def pendingAt (s : State) (x : Word64) : Handle :=
  let size := ((foundAt s x).map (·.size)).getD 0
  { st := .pending, page := BitVec.ofNat 64 (x.toNat / pageBytes size * pageBytes size), size, leaf := ((foundAt s x).map (·.leaf)).getD 0 }

section
variable {s : State} (st : Bool) {d a : BitVec 6} (hx : (s.old.rx a.toNat).psn = false)
include hx

theorem trans_pending (run : Running s) (hc : canonical (s.old.rx a.toNat).v.toNat = true) {Q : Regs → Prop}
    (q : Q (s.regs.wh d.toNat (pendingAt s (s.old.rx a.toNat).v))) : Gives s (.trans st d a) Q := by
  refine gives_setRegs (f := fun r => r.wh d.toNat (pendingAt s (s.old.rx a.toNat).v)) run rfl ?_ q
  rw [bind_xClean hx, bind_raiseIf_false _ (by rw [hc]; rfl)]
  rfl
theorem trans_prot (hc : canonical (s.old.rx a.toNat).v.toNat = false) :
    exec (.trans st d a) s = .next (s.raise (.prot (s.old.rx a.toNat).v)) :=
  raises_of_run rfl (by rw [bind_xClean hx]; exact bind_raiseIf_true _ (by rw [hc]; rfl))

end

/-- Settles O10: TRANS by its check of the address, HGET and HDROP by the registers they write. -/
theorem handles : Obligations.Handles := by
  intro s st d a run x h canon only reads
  have hcanon : canonical x.v.toNat = true ↔ canon := Capabilities.canonical_iff x.v
  have hread : ∀ (i : Instr) (f : Regs → Word64), exec i s = regSlot (fun old r => r.wx d.toNat ⟨f old, false⟩) s → reads i (f s.old) :=
    fun i f he => gives_regSlot (fun old r => r.wx d.toNat ⟨f old, false⟩) run he (Transfer.onlyX_link _ _ _)
  refine ⟨fun hx hc => trans_pending st hx run (hcanon.mpr hc) ⟨(wh_frame _ _ _).1, ?_⟩,
    fun hx hc => trans_prot st hx (Bool.eq_false_iff.mpr (mt hcanon.mp hc)),
    hread (.hgetState st d a) (fun old => HandleState.code (old.rh a.toNat).st) rfl,
    hread (.hgetPage st d a) (fun old => (old.rh a.toNat).page) rfl,
    hread (.hgetSize st d a) (fun old => BitVec.ofNat 64 (old.rh a.toNat).size) rfl,
    gives_regSlot (fun _ r => r.wh d.toNat {}) run rfl (wh_frame _ _ _)⟩
  rw [(wh_frame _ _ _).2]
  exact ⟨rfl, rfl, page_holds x.v _⟩

end Sys2Proof.Handles
end

section
/-! SUPPORT. Operands whose poison raises POISON_CONSUMED (R119): the register that each form names. -/
namespace Sys2Proof.PoisonedOperands
open Sys2Proof Sys2Proof.Machine Sys2Proof.CleanReads

/-- `i` raises POISON_CONSUMED with the tag of register `r` of kind `k`. -/
def RaisesPoison (s : State) (i : Instr) (k r : Nat) : Prop := exec i s = .next (s.raise (.poison (BitVec.ofNat 64 (256 * k + r))))

theorem regTag_eq (k r : Nat) : regTag k r = BitVec.ofNat 64 (256 * k + r) := by rw [regTag, Nat.mul_comm]

theorem raisesPoison_of_exec {s : State} {i : Instr} {k r : Nat} (h : exec i s = .next (s.raise (.poison (regTag k r)))) :
    RaisesPoison s i k r := by
  rwa [regTag_eq] at h
theorem raisesPoison_of_try {s : State} {i : Instr} {k r : Nat} {f : Regs → Regs → Except Trap Regs} (he : exec i s = trySlot f s)
    (hf : f s.old s.regs = .error (.poison (regTag k r))) : RaisesPoison s i k r :=
  raisesPoison_of_exec (by rw [he, trySlot, hf])
theorem raisesPoison_of_run {s : State} {i : Instr} {k r : Nat} {m : M Unit} (he : exec i s = slotOut m s)
    (hm : m s = .error (.raise (.poison (regTag k r)))) : RaisesPoison s i k r :=
  raisesPoison_of_exec (raises_of_run he hm)

section
variable {s : State} (st : Bool) {p q u : BitVec 7} {d a b : BitVec 6} {c : BitVec 3} {t : BitVec 2} {i : BitVec 12} {m : BitVec 8}
  {n : BitVec 12}

/-! ## A poisoned xA -/

theorem execCmp_first (h : (s.old.rx a.toNat).psn = true) : execCmp p a b c s = .next (s.raise (.poison (regTag 0 a.toNat))) := by
  simp [execCmp, trySlot, h]
theorem execCmpi_first (h : (s.old.rx a.toNat).psn = true) : execCmpi p a b c s = .next (s.raise (.poison (regTag 0 a.toNat))) := by
  simp [execCmpi, trySlot, h]
theorem execLoopPush_first (h : (s.old.rx a.toNat).psn = true) : execLoopPush a s = .next (s.raise (.poison (regTag 0 a.toNat))) := by
  simp [execLoopPush, trySlot, h]

theorem first_x (h : (s.old.rx a.toNat).psn = true) :
    ∀ j ∈ [Instr.cmp st p a b c, .cmpi st p a b c, .fcmp st p a b t c, .bri st d a i, .ret st a, .loopPush st a, .trans st d a,
      .csrw st a n, .join st a i, .leave st a i], RaisesPoison s j 0 a.toNat := by
  have hcohort : ∀ {β : Type} (g : Nat → M β), (cohortId a i >>= g) s = .error (.raise (.poison (regTag 0 a.toNat))) :=
    fun g => M.bind_error (bind_xClean_poisoned h _)
  simp only [List.forall_mem_cons, List.not_mem_nil, false_imp_iff, implies_true, and_true]
  exact ⟨raisesPoison_of_exec (execCmp_first h), raisesPoison_of_exec (execCmpi_first h), raisesPoison_of_exec (if_pos h),
    raisesPoison_of_exec (if_pos h), raisesPoison_of_exec (if_pos h), raisesPoison_of_exec (execLoopPush_first h),
    raisesPoison_of_run rfl (bind_xClean_poisoned h _), raisesPoison_of_exec (if_pos h), raisesPoison_of_run rfl (hcohort _),
    raisesPoison_of_run rfl (hcohort _)⟩
theorem first_x_system (h : (s.old.rx a.toNat).psn = true) (hmode : s.regs.mode = 2) :
    RaisesPoison s (.cmint st d a b) 0 a.toNat ∧ RaisesPoison s (.codeswap st a b) 0 a.toNat :=
  ⟨raisesPoison_of_run (if_neg (not_not.mpr hmode)) (bind_xClean_poisoned h _),
    raisesPoison_of_run (if_neg (not_not.mpr hmode)) (bind_xClean_poisoned h _)⟩

/-! ## A poisoned xB beside a clean xA -/

theorem execCmp_second (ha : (s.old.rx a.toNat).psn = false) (h : (s.old.rx b.toNat).psn = true) :
    execCmp p a b c s = .next (s.raise (.poison (regTag 0 b.toNat))) := by
  simp [execCmp, trySlot, ha, h]

theorem second_x (ha : (s.old.rx a.toNat).psn = false) (h : (s.old.rx b.toNat).psn = true) :
    ∀ j ∈ [Instr.cmp st p a b c, .fcmp st p a b t c], RaisesPoison s j 0 b.toNat := by
  have hclean : ¬ (s.old.rx a.toNat).psn = true := Bool.eq_false_iff.mp ha
  simp only [List.forall_mem_cons, List.not_mem_nil, false_imp_iff, implies_true, and_true]
  exact ⟨raisesPoison_of_exec (execCmp_second ha h), raisesPoison_of_exec ((if_neg hclean).trans (if_pos h))⟩
theorem second_x_system (ha : (s.old.rx a.toNat).psn = false) (h : (s.old.rx b.toNat).psn = true) (hmode : s.regs.mode = 2) :
    RaisesPoison s (.cmint st d a b) 0 b.toNat ∧ RaisesPoison s (.codeswap st a b) 0 b.toNat :=
  ⟨raisesPoison_of_run (if_neg (not_not.mpr hmode)) ((bind_xClean ha _).trans (bind_xClean_poisoned h _)),
    raisesPoison_of_run (if_neg (not_not.mpr hmode)) ((bind_xClean ha _).trans (bind_xClean_poisoned h _))⟩

/-! ## Poisoned predicates -/

theorem first_p (h : (s.old.rp q.toNat).psn = true) :
    ∀ j ∈ [Instr.pand st p q u, .por st p q u, .pxor st p q u, .pandn st p q u, .porn st p q u, .pxnor st p q u, .pmov st p q,
      .pnot st p q, .sel st d a q, .selz st d a q, .seln st d a q], RaisesPoison s j 1 q.toNat := by
  have hpred : ∀ {i : Instr} (v : BitVec 7) (g : Bool → Bool → Bool), exec i s = pred2 p q v g s → RaisesPoison s i 1 q.toNat :=
    fun _ _ he => raisesPoison_of_try he (if_pos h)
  have hselect : ∀ {i : Instr} (g : Bool → Val 64 → Val 64 → Val 64), exec i s = select d a q g s → RaisesPoison s i 1 q.toNat :=
    fun _ he => raisesPoison_of_try he (if_pos h)
  simp only [List.forall_mem_cons, List.not_mem_nil, false_imp_iff, implies_true, and_true]
  exact ⟨hpred u (· && ·) rfl, hpred u (· || ·) rfl, hpred u (· != ·) rfl, hpred u (fun x y => x && !y) rfl,
    hpred u (fun x y => x || !y) rfl, hpred u (· == ·) rfl, hpred q (fun x _ => x) rfl, hpred q (fun x _ => !x) rfl,
    hselect (fun q x z => if q then x else z) rfl, hselect (fun q x _ => if q then x else ⟨0, false⟩) rfl,
    hselect (fun q x z => if q then z else x) rfl⟩
theorem second_p (hq : (s.old.rp q.toNat).psn = false) (h : (s.old.rp u.toNat).psn = true) :
    ∀ j ∈ [Instr.pand st p q u, .por st p q u, .pxor st p q u, .pandn st p q u, .porn st p q u, .pxnor st p q u],
      RaisesPoison s j 1 u.toNat := by
  have hpred : ∀ {i : Instr} (g : Bool → Bool → Bool), exec i s = pred2 p q u g s → RaisesPoison s i 1 u.toNat :=
    fun _ he => raisesPoison_of_try he ((if_neg (Bool.eq_false_iff.mp hq)).trans (if_pos h))
  simp only [List.forall_mem_cons, List.not_mem_nil, false_imp_iff, implies_true, and_true]
  exact ⟨hpred (· && ·) rfl, hpred (· || ·) rfl, hpred (· != ·) rfl, hpred (fun x y => x && !y) rfl, hpred (fun x y => x || !y) rfl,
    hpred (· == ·) rfl⟩

/-! ## A poisoned capability -/

theorem first_c (h : (s.old.rc a.toNat).psn = true) :
    ∀ j ∈ [Instr.cnarrowOff st d a b, .cnarrowLen st d a b, .cnarrowBase st d a b, .cnarrowiOff st d a b, .cnarrowiLen st d a b,
      .cnarrowiBase st d a b, .cperm st d a m, .cshape st d a b], RaisesPoison s j 3 a.toNat := by
  have hnarrow : ∀ {i : Instr} (v : M Word64) (f : Nat → Nat → Nat → Option (Nat × Nat)), exec i s = narrow d a v f s →
      RaisesPoison s i 3 a.toNat := fun _ _ he => raisesPoison_of_run he (bind_cClean_poisoned h _)
  simp only [List.forall_mem_cons, List.not_mem_nil, false_imp_iff, implies_true, and_true]
  exact ⟨hnarrow (xClean b.toNat) narrowOff rfl, hnarrow (xClean b.toNat) narrowLen rfl, hnarrow (xClean b.toNat) narrowBase rfl,
    hnarrow (pure (s.immZ b)) narrowOff rfl, hnarrow (pure (s.immZ b)) narrowLen rfl, hnarrow (pure (s.immZ b)) narrowBase rfl,
    raisesPoison_of_run rfl (bind_cClean_poisoned h _), raisesPoison_of_run rfl (bind_cClean_poisoned h _)⟩

end

/-- Settles O11: by the first operand that each form finds poisoned. -/
theorem poisonRaises : Obligations.PoisonRaises := by
  intro s st p q u d a b c t i m n raises
  exact ⟨fun h => ⟨first_x st h, first_x_system st h⟩, fun ha h => ⟨second_x st ha h, second_x_system st ha h⟩, first_p st, second_p st, first_c st⟩

end Sys2Proof.PoisonedOperands
end

section
/-! SUPPORT. What a write leaves of the device CSRs: all but the counters of the LLC (R233). -/
namespace Sys2Proof.Pokes
open Sys2Proof Sys2Proof.Machine Sys2Proof.Cohorts

theorem countersOnly_foldl {α : Type} (f : State → α → State) (h : ∀ s x, CountersOnly s (f s x)) (xs : List α) (s : State) :
    CountersOnly s (xs.foldl f s) := by
  induction xs generalizing s with
  | nil => exact .refl s
  | cons x xs ih => exact (h s x).trans (ih _)

theorem touchLine_counters (s : State) (al : Alloc) (wr : Bool) (line : Nat) : CountersOnly s (s.touchLine al wr line).1 := by
  have fill : CountersOnly s (if wr then (s.fillLine line).dirtyLine line else s.fillLine line) := by
    split
    · exact (fillLine_counters s line).trans (dirtyLine_counters _ line)
    · exact fillLine_counters s line
  cases al with
  | ms => exact (evict_counters s line).trans (bump_counter _ _ (by omega))
  | fill => exact fill
  | nt =>
    simp only [State.touchLine]
    split
    · exact fill
    · exact bump_counter _ _ (by omega)

theorem poke_counters (s : State) (al : Alloc) (a n : Nat) (f : Nat → Val 8) : CountersOnly s (s.poke al a n f) := by
  unfold State.poke
  split
  · refine countersOnly_foldl _ (fun s x => ?_) _ s
    exact (touchLine_counters s al true _).trans (countersOnly_of_dev rfl)
  · exact countersOnly_of_dev rfl
  · refine countersOnly_foldl _ (fun s x => ?_) _ s
    exact countersOnly_of_dev rfl
  · exact .refl s

end Sys2Proof.Pokes
end

section
/-! SUPPORT. Taking an exception outside a halt (R413 to R417): the handler entered, the frame, and what the context keeps. -/
namespace Sys2Proof.HandlerEntry
open Sys2Proof Sys2Proof.Machine Sys2Proof.Cohorts

/-! ## The frame (R416) -/

theorem get_foldl_put (ws : Nat → Word64) (b m : Nat) (f : Sparse Word64) (j : Nat) :
    (((List.range m).map fun i => (b + i, ws i)).foldl (fun f e => f.put e.1 e.2) f).get 0 j =
      if b ≤ j ∧ j < b + m then ws (j - b) else f.get 0 j := by
  induction m with
  | zero => simp
  | succ m ih =>
    rw [List.range_succ, List.map_append, List.foldl_append]
    simp only [List.map_cons, List.map_nil, List.foldl_cons, List.foldl_nil, Sparse.get_put, ih]
    grind

/-- The words of the frame of a cause that is not of asynchronous origin. -/
def frameWords (c : Ctx) (e : Exc) : List Word64 :=
  [e.causeWord c.regs.mode, c.resumePc, c.queuePc .vl c.resumePc, c.queuePc .va c.resumePc, c.queuePc .vs c.resumePc,
    c.queuePc .mx c.resumePc, e.trap.addr, e.trap.info, 0, if e.seq = 0 then e.issued else 0]

theorem getD_append_replicate (ws : List Word64) (n i : Nat) : (ws ++ List.replicate n 0).getD i 0 = ws.getD i 0 := by
  simp only [List.getD_eq_getElem?_getD, List.getElem?_append, List.getElem?_replicate]
  split
  · rfl
  next h =>
    rw [List.getElem?_eq_none (Nat.not_lt.mp h)]
    split
    · rfl
    · rfl

theorem frame_eq (c : Ctx) (n : Nat) {e : Exc} (h : e.async = none) : c.frame n e =
    ((List.range 19).map fun i => (frameBase n + i, (frameWords c e).getD i 0)).foldl (fun f e => f.put e.1 e.2) c.regs.ff := by
  have hws : ∀ i, (frameWords c e ++ List.replicate 9 0).getD i 0 = (frameWords c e).getD i 0 := getD_append_replicate _ 9
  simp only [← hws, Ctx.frame, h]
  rfl

theorem get_frame (c : Ctx) (n : Nat) {e : Exc} (h : e.async = none) (j : Nat) : (c.frame n e).get 0 j =
    if frameBase n ≤ j ∧ j < frameBase n + 19 then (frameWords c e).getD (j - frameBase n) 0 else c.regs.ff.get 0 j := by
  rw [frame_eq c n h]
  exact get_foldl_put (fun i => (frameWords c e).getD i 0) _ _ _ _

/-! ## The handler entered (R414) -/

theorem enterHandler_handler (s : State) (k n : Nat) (e : Exc) : ((s.enterHandler k n e).ctx k).pc = s.handler k n := by
  have hctx : ∀ u, OnlyMemory s u → CountersOnly s u → u.handler k n = s.handler k n := by
    intro u hu hc
    rw [State.handler, State.handler, hc csrTrapEnt (by decide), hu.rest]
    rfl
  simp only [State.enterHandler, State.ctx_setCtx_same]
  exact hctx _ ((⟨rfl, id⟩ : OnlyMemory s { s with free := s.free + 1 }).trans (State.poke_only _ _ _ _ _))
    ((countersOnly_of_dev rfl).trans (Pokes.poke_counters _ _ _ _ _))

theorem entered_of_enterHandler (s : State) (k n : Nat) {e : Exc} (h : e.async = none) :
    Entered s (s.enterHandler k n e) k n (s.handler k n) (frameWords (s.ctx k) e) := by
  obtain ⟨hissue, hregs, hchk, hothers⟩ := s.enterHandler_ctx k n e
  refine ⟨?_, enterHandler_handler s k n e, hchk, hissue, ⟨?_, ?_⟩, ?_, fun i hi => ?_, fun j hj => ?_, hothers⟩
  · rw [hregs]
  · simp [State.enterHandler]
  · simp [State.enterHandler]
  · simp [State.enterHandler]
  · rw [hregs]
    exact (get_frame _ n h _).trans (by rw [if_pos (by omega), Nat.add_sub_cancel_left])
  · rw [hregs]
    exact (get_frame _ n h _).trans (if_neg (by omega))

/-- What a cause leaves is told by the registers and the place of the context that takes it. -/
theorem entered_of_same {s u t : State} {k n : Nat} {entry : Word64} {ws : List Word64} (h : Entered u t k n entry ws)
    (hregs : (u.ctx k).regs = (s.ctx k).regs) (hocc : (u.ctx k).occ = (s.ctx k).occ) (hothers : ∀ j, j ≠ k → u.ctx j = s.ctx j) :
    Entered s t k n entry ws :=
  { h with
    regs := hregs ▸ h.regs
    resident := h.resident.trans hocc
    frameRest := fun j hj => (h.frameRest j hj).trans (by rw [hregs])
    others := fun j hj => (h.others j hj).trans (hothers j hj) }

/-- A change of the halt of the context leaves the handler entered. -/
theorem entered_setHalt {s t : State} {k n : Nat} {entry : Word64} {ws : List Word64} (h : Entered s t k n entry ws) (g : BitVec 5 → BitVec 5) :
    Entered s (t.modCtx k fun c => { c with halt := g c.halt }) k n entry ws := by
  obtain ⟨hregs, hpc, hchk, hempty, hqueues, hocc, hframe, hrest, hothers⟩ := h
  rw [State.modCtx_eq]
  refine ⟨?_, ?_, ?_, ?_, ?_, ?_, ?_, ?_, fun j hj => (State.ctx_setCtx_other _ _ _ _ hj).trans (hothers j hj)⟩
  all_goals simpa

/-! ## The level (R413) -/

section
variable {s : State} {k : Nat} {e : Exc} (hdbg : (s.csr csrDbgAttach).getLsbD 63 = false)
include hdbg

theorem takeException_level {n : Nat} (hlevel : s.level k e.svc = some n) : s.takeException k e =
    (s.enterHandler k n e).modCtx k fun c => { c with halt := if c.halt = 0 then 0 else 31 } := by
  have hno : ¬ (e.trap.cause = 0x51 ∧ (s.csr csrDbgAttach).getLsbD 63 = true ∧
      (s.csr csrDbgAttach).extractLsb' 0 16 = (s.ctx k).regs.launch ∧ (s.ctx k).regs.mode ≠ 2) := by
    rintro ⟨-, hset, -⟩
    exact absurd (hdbg.symm.trans hset) Bool.false_ne_true
  rw [State.takeException]
  dsimp only
  rw [if_neg hno, hlevel]

theorem entered_of_level (h : e.async = none) {n : Nat} (hlevel : s.level k e.svc = some n) :
    Entered s (s.takeException k e) k n (s.handler k n) (frameWords (s.ctx k) e) := by
  rw [takeException_level hdbg hlevel]
  exact entered_setHalt (entered_of_enterHandler s k n h) fun m => if m = 0 then 0 else 31

end

theorem level_launch {s : State} {k : Nat} (hmode : (s.ctx k).regs.mode = 0) (hentry : (s.launchOf k).trapent ≠ 0) :
    s.level k false = some 1 := if_pos ⟨hmode, rfl, hentry⟩
theorem level_system {s : State} {k : Nat} {svc : Bool} (hmode : (s.ctx k).regs.mode ≠ 2)
    (hlaunch : (s.ctx k).regs.mode ≠ 0 ∨ svc = true ∨ (s.launchOf k).trapent = 0)
    (hentry : (s.csr csrTrapEnt).extractLsb' 0 57 ≠ 0) : s.level k svc = some 2 := by
  rw [State.level]
  refine (if_neg ?_).trans (if_neg (not_or.mpr ⟨hmode, hentry⟩))
  rintro ⟨h0, hsvc, ht⟩
  rcases hlaunch with h | h | h
  · exact h h0
  · simp [h] at hsvc
  · exact ht h

end Sys2Proof.HandlerEntry
end

section
/-! SUPPORT. The end of a bundle in which a TRAP, SVC, BRK or TRAPRET has run (R51, R81, R138, R420). -/
namespace Sys2Proof.BundleEnds
open Sys2Proof Sys2Proof.Machine Sys2Proof.HandlerEntry

/-! ## A slot that has taken effect -/

/-- The state once the running slot has taken effect and, when it was the last of S, the S sequencer has left the bundle. -/
def slotDone (u : State) : State :=
  { u with asks := 0, reqs := u.reqs.filter fun r => r.owner ≠ u.me }.setCtx u.cur ((u.ctx u.cur).retired u.slot.exu)

/-- What a TRAP, SVC or BRK delivers at the end of the bundle at `a`. -/
def endExc (t : EndTrap) (a : Word64) : Exc :=
  match t with
  | .trap n c => { trap := { cause := 0x50, info := c.setWidth 64 }, slot := n, issued := a }
  | .svc n c => { trap := { cause := 0x50, info := c.setWidth 64 }, slot := n, issued := a, svc := true }
  | .brk n c => { trap := { cause := 0x51, info := c.setWidth 64 }, slot := n, issued := a }

theorem endExc_plain (t : EndTrap) (a : Word64) : (endExc t a).seq = 0 ∧ (endExc t a).fetch = false ∧ (endExc t a).async = none := by
  cases t
  all_goals exact ⟨rfl, rfl, rfl⟩

theorem lastSlot_iff (u : State) : LastSlot u ↔ (u.ctx u.cur).younger = [] ∧
    ((u.ctx u.cur).issue.todo.filter fun q => q.idx ≠ (u.ctx u.cur).issue.cur).any (fun q => q.exu = .s) = false := by
  simp only [LastSlot, List.any_eq_false, List.mem_filter, decide_eq_true_eq, and_imp]
  exact and_congr_right fun _ => ⟨fun H q m n e => n (H q m e), fun H q m e => by_contra fun n => H q m n e⟩

section
variable {u : State}

theorem retire_not_last (h : ¬ LastSlot u) : u.retire = slotDone u := by
  rw [lastSlot_iff] at h
  rw [State.retire, if_neg fun hlast => h hlast.2, slotDone, Ctx.retired, if_neg h]

variable (hocc : (u.ctx u.cur).occ = .resident) (hlast : LastSlot u)
include hocc hlast

theorem retire_traps {t : EndTrap} (hret : (u.ctx u.cur).issue.ret = false) (htrap : (u.ctx u.cur).issue.endTrap = some t) :
    u.retire = (slotDone u).takeException u.cur (endExc t (u.ctx u.cur).issue.addr) := by
  have h := (lastSlot_iff u).mp hlast
  rw [State.retire, if_pos ⟨hocc, h⟩, slotDone, Ctx.retired, if_pos h]
  simp only [State.endBundle, State.modCtx_eq, State.setCtx_cur, State.ctx_setCtx_same, State.setCtx_setCtx, hret, htrap]
  cases t with
  | trap n c => rfl
  | svc n c => rfl
  | brk n c => rfl
theorem retire_returns (hret : (u.ctx u.cur).issue.ret = true) : u.retire = (slotDone u).returnFromException u.cur := by
  have h := (lastSlot_iff u).mp hlast
  rw [State.retire, if_pos ⟨hocc, h⟩, slotDone, Ctx.retired, if_pos h]
  simp only [State.endBundle, State.modCtx_eq, State.setCtx_cur, State.ctx_setCtx_same, State.setCtx_setCtx, hret]
  rfl

end
/-! ## The frame of a cause at the end of the bundle (R416, R418) -/

section
variable {c : Ctx} (u : ExecUnit) (hend : c.younger = [] ∧ (c.issue.todo.filter fun q => q.idx ≠ c.issue.cur).any (fun q => q.exu = .s) = false)
include hend

theorem retired_resumePc : (c.retired u).resumePc = c.issue.target.getD c.issue.next := by
  rw [Ctx.retired, if_pos hend]
  simp [Ctx.resumePc, Ctx.front, hend.1, Issue.has]

/-- The oldest bundle of a queue, with what is left of the bundle that ends in the last place. -/
theorem retired_queuePc (q : ExecUnit) (pc : Word64) {i : Issue} (htodo : i.todo = c.issue.todo.filter fun q => q.idx ≠ c.issue.cur)
    (haddr : i.addr = c.issue.addr) :
    (c.retired u).queuePc q pc = (((c.older ++ [i]).find? fun i => i.todo.any fun p => p.exu = q).map (·.addr)).getD pc := by
  rw [Ctx.retired, if_pos hend, Ctx.queuePc, Ctx.flight]
  simp only [hend.1, ← htodo, ← haddr, List.find?_append, Issue.has]
  cases (c.older.find? fun i => i.todo.any fun p => p.exu = q) with
  | some j => rfl
  | none =>
    cases h : i.todo with
    | nil => simp [h]
    | cons p ps => by_cases hp : (p :: ps).any (fun p => p.exu = q) = true <;> simp [h, hp]

end

/-- The cause word of a slot of S (R417). -/
theorem causeWord_s (e : Exc) (mode : BitVec 2) (hseq : e.seq = 0) (hfetch : e.fetch = false) (hasync : e.async = none) :
    e.causeWord mode = (1 : BitVec 1) ++ (0 : BitVec 1) ++ BitVec.ofBool e.svc ++ (0 : BitVec 1) ++ mode ++ (0 : BitVec 5) ++
      BitVec.ofNat 3 e.slot ++ (0 : BitVec 42) ++ e.trap.cause := by
  have hzeros : ∀ {w : Nat} (x : BitVec w), (x ++ (0 : BitVec 2) ++ BitVec.ofNat 3 0 : BitVec (w + 5)) = x ++ (0 : BitVec 5) := by
    intro w x
    refine BitVec.eq_of_toNat_eq ?_
    simpa [BitVec.toNat_append] using (Nat.shiftLeft_add x.toNat 2 3).symm
  rw [Exc.causeWord, hseq, hfetch, hasync, hzeros]
  rfl

/-! ## TRAP, SVC, BRK (R138) -/

/-- The state in which the bundle remembers a cause for its end. -/
def remember (s : State) (t : EndTrap) : State := s.modCtx s.cur fun c => { c with issue := { c.issue with endTrap := some t } }

section
variable {s : State} (t : EndTrap)

theorem remember_cur : (remember s t).cur = s.cur := rfl
theorem remember_ctx : (remember s t).ctx s.cur = { s.ctx s.cur with issue := { (s.ctx s.cur).issue with endTrap := some t } } :=
  State.ctx_setCtx_same _ _ _
theorem remember_others {k : Nat} (h : k ≠ s.cur) : (remember s t).ctx k = s.ctx k := State.ctx_setCtx_other _ _ _ _ h
theorem remember_lastSlot : LastSlot (remember s t) ↔ LastSlot s := by
  rw [LastSlot, remember_cur, remember_ctx]
  rfl
theorem remember_me : (remember s t).me = s.me := by
  simp only [State.me, State.slot, remember_cur, remember_ctx]

theorem slotDone_others {u : State} {k : Nat} (h : k ≠ u.cur) : (slotDone u).ctx k = u.ctx k := State.ctx_setCtx_other _ _ _ _ h
theorem slotDone_ctx (u : State) : (slotDone u).ctx u.cur = (u.ctx u.cur).retired u.slot.exu := State.ctx_setCtx_same _ _ _

end

theorem slotDone_csr (u : State) (o : Nat) : (slotDone u).csr o = u.csr o := rfl
theorem slotDone_launchOf (u : State) (k : Nat) : (slotDone u).launchOf k = u.launchOf k := by
  have hregs : ((slotDone u).ctx k).regs = (u.ctx k).regs := by
    by_cases hk : k = u.cur
    · rw [hk, slotDone_ctx, Banks.retired_regs]
    · rw [slotDone_others hk]
  rw [State.launchOf, hregs]
  rfl

section
variable {s : State} (t : EndTrap)

/-- The state in which the cause is taken. -/
theorem ended_regs : ((slotDone (remember s t)).ctx s.cur).regs = (s.ctx s.cur).regs := by
  rw [← remember_cur t, slotDone_ctx, Banks.retired_regs, remember_cur, remember_ctx]
theorem ended_occ : ((slotDone (remember s t)).ctx s.cur).occ = (s.ctx s.cur).occ := by
  rw [← remember_cur t, slotDone_ctx, remember_cur, remember_ctx, Ctx.retired]
  split
  · rfl
  · rfl
theorem ended_launchOf : (slotDone (remember s t)).launchOf s.cur = s.launchOf s.cur := by
  rw [State.launchOf, ended_regs]
  rfl
theorem ended_level (svc : Bool) : (slotDone (remember s t)).level s.cur svc = s.level s.cur svc := by
  rw [State.level, State.level, ended_regs, ended_launchOf]
  rfl
theorem ended_handler (n : Nat) : (slotDone (remember s t)).handler s.cur n = s.handler s.cur n := by
  rw [State.handler, State.handler, ended_launchOf]
  rfl

variable {i : Instr} (he : exec i s = endTrapSlot t s) (run : Running s)
include he run

/-- In the last slot of S the cause is taken. -/
theorem endTrap_enters (hdbg : Undebugged s s.cur) (hlast : LastSlot s) {n : Nat}
    (hlevel : s.level s.cur (endExc t (s.ctx s.cur).issue.addr).svc = some n) : ∃ u, exec i s = .next u ∧
      Entered s u s.cur n (s.handler s.cur n) (frameWords ((slotDone (remember s t)).ctx s.cur) (endExc t (s.ctx s.cur).issue.addr)) := by
  have hctx := remember_ctx (s := s) t
  have hexec : exec i s = .next ((slotDone (remember s t)).takeException s.cur (endExc t (s.ctx s.cur).issue.addr)) := by
    have h := retire_traps (t := t) (u := remember s t) (by rw [remember_cur, hctx]; exact run.resident) ((remember_lastSlot t).mpr hlast)
      (by rw [remember_cur, hctx]; exact run.noReturn) (by rw [remember_cur, hctx])
    rw [remember_cur, hctx] at h
    exact he.trans (congrArg Host.Outcome.next h)
  refine ⟨_, hexec, ?_⟩
  obtain ⟨-, -, hasync⟩ := endExc_plain t (s.ctx s.cur).issue.addr
  have h := entered_of_level (s := slotDone (remember s t)) (k := s.cur) hdbg.1 hasync ((ended_level t _).trans hlevel)
  rw [ended_handler] at h
  exact entered_of_same h (ended_regs t) (ended_occ t) fun j hj => (slotDone_others (u := remember s t) hj).trans (remember_others t hj)

omit run in
/-- Before the last slot of S the bundle goes on, and remembers the cause. -/
theorem endTrap_remembers (hlast : ¬ LastSlot s) : ∃ u, exec i s = .next u ∧ OwnBank s u ∧ u.regs = s.regs ∧
    (u.ctx s.cur).pc = (s.ctx s.cur).pc ∧ (u.ctx s.cur).issue.endTrap = some t := by
  have hexec : exec i s = .next (slotDone (remember s t)) :=
    he.trans (congrArg Host.Outcome.next (retire_not_last (mt (remember_lastSlot t).mp hlast)))
  have hctx : (slotDone (remember s t)).ctx s.cur = ({ s.ctx s.cur with issue := { (s.ctx s.cur).issue with endTrap := some t } } : Ctx).retired
      (remember s t).slot.exu := by rw [← remember_cur t, slotDone_ctx, remember_cur, remember_ctx]
  have hstays := mt (lastSlot_iff s).mpr hlast
  rw [Ctx.retired, if_neg hstays] at hctx
  refine ⟨_, hexec, ⟨?_, fun k hk => (slotDone_others (u := remember s t) hk).trans (remember_others t hk), ?_, fun a => rfl, ?_⟩, ended_regs t, ?_, ?_⟩
  · rw [slotDone, remember_me]
    rfl
  · rw [hctx]
  · rw [hctx]
    simp
  · rw [hctx]
  · rw [hctx]

end

/-- The frame of a cause at the end of the bundle: the next bundle, and the oldest bundle of each queue. -/
theorem frameWords_ended {s : State} (t : EndTrap) (hlast : LastSlot s) (a : Word64) : let c := s.ctx s.cur
    let next := c.issue.target.getD c.issue.next
    let left := c.older ++ [{ c.issue with todo := c.issue.todo.filter fun q => q.idx ≠ c.issue.cur }]
    let queue := fun u : ExecUnit => ((left.find? fun i => i.todo.any fun q => q.exu = u).map (·.addr)).getD next
    frameWords ((slotDone (remember s t)).ctx s.cur) (endExc t a) =
      [(endExc t a).causeWord c.regs.mode, next, queue .vl, queue .va, queue .vs, queue .mx, 0, (endExc t a).trap.info, 0, a] := by
  intro c next left queue
  have hend := (lastSlot_iff (remember s t)).mp ((remember_lastSlot t).mpr hlast)
  rw [remember_cur] at hend
  have hctx : (slotDone (remember s t)).ctx s.cur = ((remember s t).ctx s.cur).retired (remember s t).slot.exu := slotDone_ctx (remember s t)
  have hpc := retired_resumePc (remember s t).slot.exu hend
  have hqueue : ∀ q pc, ((slotDone (remember s t)).ctx s.cur).queuePc q pc =
      ((left.find? fun i => i.todo.any fun p => p.exu = q).map (·.addr)).getD pc := fun q pc => by
    rw [hctx, retired_queuePc _ hend q pc (i := { c.issue with todo := c.issue.todo.filter fun q => q.idx ≠ c.issue.cur })
      (by rw [remember_ctx]) (by rw [remember_ctx]), remember_ctx]
  have hnext : ((slotDone (remember s t)).ctx s.cur).resumePc = next := by rw [hctx, hpc, remember_ctx]
  rw [frameWords, hnext, ended_regs]
  simp only [hqueue]
  cases t with
  | trap n c => rfl
  | svc n c => rfl
  | brk n c => rfl

theorem trapSvcBrk : Parts.TrapSvcBrk := by
  intro s st code run hdbg hidx c l sys next cause left queue frame enters later
  have henters : ∀ {i : Instr} (t : EndTrap) {n : Nat} {svc : Bool} {x : BitVec 8}, exec i s = endTrapSlot t s → LastSlot s →
      s.level s.cur svc = some n → (endExc t c.issue.addr).svc = svc → (endExc t c.issue.addr).slot = s.slot.idx →
      (endExc t c.issue.addr).trap = { cause := x, info := code.setWidth 64 } → enters i n (s.handler s.cur n) (frame svc x) := by
    intro i t n svc x he hlast hlevel hsvc hslot htrap
    obtain ⟨hseq, hfetch, hasync⟩ := endExc_plain t c.issue.addr
    have h := endTrap_enters t he run hdbg hlast (hsvc ▸ hlevel)
    rw [frameWords_ended t hlast, causeWord_s _ _ hseq hfetch hasync, hsvc, hslot, htrap] at h
    exact h
  refine ⟨fun hlast => ⟨fun hmode hentry => ?_, fun hmode hentry => ?_, fun hmode hlaunch hentry => ?_⟩, fun hlast => ?_⟩
  · have hlevel := level_launch hmode hentry
    exact ⟨henters (.trap s.slot.idx code) rfl hlast hlevel rfl rfl rfl, henters (.brk s.slot.idx code) rfl hlast hlevel rfl rfl rfl⟩
  · exact henters (.svc s.slot.idx code) rfl hlast (level_system hmode (.inr (.inl rfl)) hentry) rfl rfl rfl
  · have hlevel := level_system (svc := false) hmode (hlaunch.imp_right .inr) hentry
    exact ⟨henters (.trap s.slot.idx code) rfl hlast hlevel rfl rfl rfl, henters (.brk s.slot.idx code) rfl hlast hlevel rfl rfl rfl⟩
  · exact ⟨endTrap_remembers (.trap s.slot.idx code) rfl hlast, endTrap_remembers (.svc s.slot.idx code) rfl hlast,
      endTrap_remembers (.brk s.slot.idx code) rfl hlast⟩

/-! ## TRAPRET (R420) -/

/-- A bundle of an image, as it is reloaded. -/
def reloaded (i : Image) (r : Regs) (b : Issue) : Issue := { b with old := b.old.refresh i.regs r }
/-- The context that a TRAPRET at level `n` leaves, before its bundle settles. -/
def returned (c : Ctx) (n : Nat) (i : Image) : Ctx :=
  let cause := c.regs.ff.get 0 (frameBase n)
  let pcS := c.regs.ff.get 0 (frameBase n + 1)
  { c with
    issue := { reloaded i c.regs i.issue with next := pcS, target := none }
    older := i.older.map (reloaded i c.regs)
    img1 := if n = 1 then none else c.img1
    img2 := if n = 2 then none else c.img2
    regs := { c.regs with mode := cause.extractLsb' 58 2, ff := c.regs.ff.put (frameBase n) (cause &&& ~~~((1 : Word64) <<< 63)) }
    pc := pcS
    chk := true }

theorem returnFromException_reloads {s : State} {k n : Nat} {i : Image} (hmode : (s.ctx k).regs.mode.toNat = n)
    (himg : (if n = 1 then (s.ctx k).img1 else (s.ctx k).img2) = some i) (hact : (s.ctx k).regs.act = false)
    (hintact : s.opaqueIntact ((s.launchOf k).slot (s.ctx k).regs.task.toNat + imageArea n) 0x2000 i.stamp = true) :
    s.returnFromException k = s.setCtx k (returned (s.ctx k) n i).settleBundle := by
  rw [State.returnFromException]
  dsimp only
  rw [if_neg (Bool.eq_false_iff.mp hact), hmode, himg]
  dsimp only
  rw [if_pos hintact]
  rw [State.settleBundle, State.modCtx_eq, State.ctx_setCtx_same, State.setCtx_setCtx]
  rfl

section
variable (c : Ctx) (n : Nat) (i : Image)

theorem returned_kept : let t := (returned c n i).settleBundle
    t.pc = c.regs.ff.get 0 (frameBase n + 1) ∧ t.chk = true ∧ t.regs = { c.regs with
      mode := (c.regs.ff.get 0 (frameBase n)).extractLsb' 58 2
      ff := c.regs.ff.put (frameBase n) (c.regs.ff.get 0 (frameBase n) &&& ~~~((1 : Word64) <<< 63)) } := by
  intro t
  simp only [t, Ctx.settleBundle]
  split
  · exact ⟨rfl, rfl, rfl⟩
  · exact ⟨rfl, rfl, rfl⟩

/-- A reloaded bundle has its slots and its address, and reads its x and c registers, as in the image. -/
def SameBundle (p q : Issue) : Prop := p.todo = q.todo ∧ p.addr = q.addr ∧ (∀ m, p.old.rx m = q.old.rx m) ∧ ∀ m, p.old.rc m = q.old.rc m

theorem reloaded_same (r : Regs) (b : Issue) : SameBundle (reloaded i r b) b := ⟨rfl, rfl, fun _ => rfl, fun _ => rfl⟩
theorem reloaded_all (r : Regs) (bs : List Issue) : List.Forall₂ SameBundle (bs.map (reloaded i r)) bs :=
  List.forall₂_map_left_iff.mpr (List.forall₂_same.mpr fun b _ => reloaded_same i r b)

theorem returned_issue : if ∃ q ∈ i.issue.todo, q.exu = .s then
      List.Forall₂ SameBundle (returned c n i).settleBundle.older i.older ∧ SameBundle (returned c n i).settleBundle.issue i.issue ∧
        (returned c n i).settleBundle.issue.next = c.regs.ff.get 0 (frameBase n + 1)
    else List.Forall₂ SameBundle (returned c n i).settleBundle.older (i.older ++ (if i.issue.todo = [] then [] else [i.issue])) ∧
      (returned c n i).settleBundle.issue = {} := by
  have hhas : (returned c n i).issue.has .s = true ↔ ∃ q ∈ i.issue.todo, q.exu = .s := by simp [Issue.has, returned, reloaded]
  rw [Ctx.settleBundle]
  split
  next hs =>
    rw [if_pos (hhas.mpr hs)]
    exact ⟨reloaded_all i c.regs _, reloaded_same i c.regs _, rfl⟩
  next hs =>
    rw [if_neg (mt hhas.mp hs)]
    refine ⟨?_, rfl⟩
    cases htodo : i.issue.todo with
    | nil => simpa [returned, reloaded, htodo] using reloaded_all i c.regs i.older
    | cons q qs =>
      have hlast : SameBundle (returned c n i).issue i.issue := reloaded_same i c.regs _
      simpa [returned, reloaded, htodo] using List.rel_append (reloaded_all i c.regs i.older) (List.Forall₂.cons hlast .nil)

end

theorem clear_top (x : Word64) : x &&& ~~~((1 : Word64) <<< 63) = (x.setWidth 63).setWidth 64 := by
  have hones : ~~~((1 : Word64) <<< 63) = ones 63 := by decide
  rw [hones]
  refine BitVec.eq_of_toNat_eq ?_
  rw [Bits.toNat_and_ones x (by decide), BitVec.toNat_setWidth_of_le (by decide), BitVec.toNat_setWidth]

/-- The state in which the bundle remembers its return. -/
def willReturn (s : State) : State := s.modCtx s.cur fun c => { c with issue := { c.issue with ret := true } }

section
variable {s : State}
theorem willReturn_cur : (willReturn s).cur = s.cur := rfl
theorem willReturn_ctx : (willReturn s).ctx s.cur = { s.ctx s.cur with issue := { (s.ctx s.cur).issue with ret := true } } :=
  State.ctx_setCtx_same _ _ _
theorem willReturn_others {k : Nat} (h : k ≠ s.cur) : (willReturn s).ctx k = s.ctx k := State.ctx_setCtx_other _ _ _ _ h
theorem willReturn_lastSlot : LastSlot (willReturn s) ↔ LastSlot s := by
  rw [LastSlot, willReturn_cur, willReturn_ctx]
  rfl

/-- The context that returns keeps its registers and its images to the end of the bundle. -/
theorem returning_ctx : let d := (slotDone (willReturn s)).ctx s.cur
    d.regs = (s.ctx s.cur).regs ∧ d.img1 = (s.ctx s.cur).img1 ∧ d.img2 = (s.ctx s.cur).img2 := by
  intro d
  have hd : d = ((willReturn s).ctx s.cur).retired (willReturn s).slot.exu := slotDone_ctx (willReturn s)
  rw [hd, willReturn_ctx, Ctx.retired]
  split
  · exact ⟨rfl, rfl, rfl⟩
  · exact ⟨rfl, rfl, rfl⟩
theorem returning_launchOf : (slotDone (willReturn s)).launchOf s.cur = s.launchOf s.cur := by
  rw [State.launchOf, returning_ctx.1]
  rfl

theorem exec_trapret (st : Bool) (run : Running s) (hlast : LastSlot s) (hmode : (s.ctx s.cur).regs.mode ≠ 0)
    (hbusy : (s.ctx s.cur).queueBusy = false) : exec (.trapret st) s = .next ((slotDone (willReturn s)).returnFromException s.cur) := by
  have hexec : exec (.trapret st) s = .next (willReturn s).retire := (if_neg hmode).trans (if_neg (Bool.eq_false_iff.mp hbusy))
  have h := retire_returns (u := willReturn s) (by rw [willReturn_cur, willReturn_ctx]; exact run.resident) (willReturn_lastSlot.mpr hlast)
    (by rw [willReturn_cur, willReturn_ctx])
  exact hexec.trans (congrArg Host.Outcome.next h)

end

theorem trapReturn : Parts.TrapReturn := by
  intro s st n i run hlast c b cause same himg hmode hact hbusy hintact
  obtain ⟨hregs, himg1, himg2⟩ := returning_ctx (s := s)
  have hlevel : c.regs.mode ≠ 0 ∧ c.regs.mode.toNat = n ∧ (if n = 1 then c.img1 else c.img2) = some i := by
    rw [hmode]
    rcases himg with ⟨rfl, h⟩ | ⟨rfl, h⟩
    · exact ⟨by decide, rfl, h⟩
    · exact ⟨by decide, rfl, h⟩
  have hexec := exec_trapret st run hlast hlevel.1 hbusy
  rw [returnFromException_reloads (n := n) (i := i) (by rw [hregs]; exact hlevel.2.1) (by rw [himg1, himg2]; exact hlevel.2.2)
    (by rw [hregs]; exact hact) (by rw [returning_launchOf, hregs]; exact hintact)] at hexec
  have hctx := State.ctx_setCtx_same (slotDone (willReturn s)) s.cur (returned ((slotDone (willReturn s)).ctx s.cur) n i).settleBundle
  obtain ⟨hpc, hchk, hkept⟩ := returned_kept ((slotDone (willReturn s)).ctx s.cur) n i
  have hissue := returned_issue ((slotDone (willReturn s)).ctx s.cur) n i
  rw [← hctx, hregs] at hpc hkept hissue
  rw [← hctx] at hchk
  refine ⟨_, hexec, hpc, hchk, ?_, ?_, fun j hj => ?_, hissue, fun k hk => ?_, fun a => rfl⟩
  · rw [hkept]
  · rw [hkept, ← clear_top]
    exact (Sparse.get_put _ _ _ _ _).trans (if_pos rfl)
  · rw [hkept]
    exact (Sparse.get_put _ _ _ _ _).trans (if_neg hj)
  · exact (State.ctx_setCtx_other _ _ _ _ hk).trans ((slotDone_others (u := willReturn s) hk).trans (willReturn_others hk))

/-- Settles O8: the bundle remembers the cause or the return, and its last slot of S delivers it. -/
theorem trapsAndReturn : Obligations.TrapsAndReturn := ⟨trapSvcBrk, trapReturn⟩

end Sys2Proof.BundleEnds
end

section
/-! SUPPORT. TRANS_COMPLETE (R145). -/
namespace Sys2Proof.Translations
open Sys2Proof Sys2Proof.Machine

/-- Handle `n` of context `k` has become `g`; no other register and no other context has changed. -/
def Becomes (s t : State) (k n : Nat) (g : Handle) : Prop :=
  (t.ctx k).regs = { (s.ctx k).regs with h := (t.ctx k).regs.h } ∧ (t.ctx k).regs.rh n = g ∧
    (∀ m, m ≠ n → (t.ctx k).regs.rh m = (s.ctx k).regs.rh m) ∧ ∀ j, j ≠ k → t.ctx j = s.ctx j

theorem becomes_setHandle (s : State) (k n : Nat) (g : Handle) : Becomes s (s.setHandle k n g) k n g := by
  have hregs : ((s.setHandle k n g).ctx k).regs = (s.ctx k).regs.wh n g := by simp [State.setHandle]
  obtain ⟨⟨hframe, hother⟩, hsame⟩ := Handles.wh_frame (s.ctx k).regs n g
  rw [Becomes, hregs]
  exact ⟨hframe, hsame, hother, fun j hj => State.ctx_setCtx_other _ _ _ _ hj⟩

theorem translate_uncanonical {s : State} {unit asid va : Nat} (h : canonical va = false) : s.translate unit asid va = (s, .fail 0x22) := by
  simp [State.translate, h]

section
variable {s : State} {ctx : BitVec 12} {n : BitVec 4}

theorem transComplete_idle (h : (s.ctx ctx.toNat).occ ≠ .resident ∨ ((s.ctx ctx.toNat).regs.rh n.toNat).st ≠ .pending) :
    exec (.transComplete ctx n) s = .next s :=
  congrArg Host.Outcome.next (if_neg (not_and_or.mpr h))

variable (hready : (s.ctx ctx.toNat).occ = .resident ∧ ((s.ctx ctx.toNat).regs.rh n.toNat).st = .pending)
include hready

/-- What TRANS found in the TLB stands in the handle. -/
theorem transComplete_found (hleaf : ((s.ctx ctx.toNat).regs.rh n.toNat).leaf ≠ 0) :
    exec (.transComplete ctx n) s = .next (s.setHandle ctx.toNat n.toNat { (s.ctx ctx.toNat).regs.rh n.toNat with st := .valid }) :=
  congrArg Host.Outcome.next ((if_pos hready).trans (if_pos hleaf))

variable (hleaf : ((s.ctx ctx.toNat).regs.rh n.toNat).leaf = 0)
include hleaf

theorem transComplete_walks {leaf : Word64} {size : Nat}
    (h : s.translate (ctx.toNat / 2) (s.launchOf ctx.toNat).asid ((s.ctx ctx.toNat).regs.rh n.toNat).page.toNat = (s, .ok leaf size)) :
    exec (.transComplete ctx n) s = .next (s.setHandle ctx.toNat n.toNat
      { st := .valid, page := BitVec.ofNat 64 (((s.ctx ctx.toNat).regs.rh n.toNat).page.toNat / pageBytes size * pageBytes size), size, leaf }) := by
  refine congrArg Host.Outcome.next ((if_pos hready).trans ((if_neg (not_not.mpr hleaf)).trans ?_))
  rw [h]
theorem transComplete_fails {cause : BitVec 8}
    (h : s.translate (ctx.toNat / 2) (s.launchOf ctx.toNat).asid ((s.ctx ctx.toNat).regs.rh n.toNat).page.toNat = (s, .fail cause)) :
    exec (.transComplete ctx n) s = .next (s.setHandle ctx.toNat n.toNat
      { (s.ctx ctx.toNat).regs.rh n.toNat with st := .empty, walk := .failed cause }) := by
  refine congrArg Host.Outcome.next ((if_pos hready).trans ((if_neg (not_not.mpr hleaf)).trans ?_))
  rw [h]

end

theorem transComplete : Parts.TransComplete := by
  intro s ctx n k c h va becomes
  refine ⟨fun hocc hst => ⟨fun hleaf => ?_, fun hleaf hcanon e hfind => ?_, fun hleaf hcanon => ?_⟩, transComplete_idle⟩
  · exact ⟨_, transComplete_found ⟨hocc, hst⟩ hleaf, becomes_setHandle _ _ _ _⟩
  · exact ⟨_, transComplete_walks ⟨hocc, hst⟩ hleaf (Issuing.translate_hit hcanon hfind), becomes_setHandle _ _ _ _⟩
  · exact ⟨_, transComplete_fails ⟨hocc, hst⟩ hleaf (translate_uncanonical hcanon), becomes_setHandle _ _ _ _⟩

end Sys2Proof.Translations
end

section
/-! SUPPORT. The walk of a state in which another context takes its turn (R220). -/
namespace Sys2Proof.Turns
open Sys2Proof Sys2Proof.Machine

/-- The turn given to context `k`. -/
def turn (k : Nat) (s : State) : State := { s with cur := k, asks := 0 }
theorem turn_launchOf (k j : Nat) (s : State) : (turn k s).launchOf j = s.launchOf j := rfl
theorem turn_eq (k : Nat) (s : State) : ({ s with cur := k, asks := 0 } : State) = turn k s := rfl

section
variable (k : Nat) (s : State) (line : Nat)

theorem writeBack_turn : (turn k s).writeBack line = turn k (s.writeBack line) := by
  simp only [State.writeBack, turn]
  split
  · rfl
  · rfl
theorem dropLine_turn : (turn k s).dropLine line = turn k (s.dropLine line) := by
  simp only [State.dropLine, turn]
  split
  · rfl
  · rfl
theorem evict_turn : (turn k s).evict line = turn k (s.evict line) := by
  rw [State.evict, writeBack_turn, dropLine_turn, State.evict]
/-- A slice with a line dropped where it is full. -/
def withRoom (u : State) (line : Nat) : State :=
  let mine := (u.llc.map (·.1)).filter fun l => homeSlice (l * 128) = homeSlice (line * 128)
  if mine.length < 16 then u
  else if Config.choice u.free < mine.length ∨ mine.length ≥ 524288 then
    State.evict { u with free := u.free + 1 } (mine.getD (Config.choice u.free % mine.length) 0)
  else { u with free := u.free + 1 }
/-- A line brought into a slice that has room. -/
def placed (u : State) (line : Nat) : State := { u with llc := u.llc.put line { dramPsn := blockPoison u.psn line } }

theorem fillLine_miss (h : s.llc.find line = none) :
    s.fillLine line = placed (withRoom (s.bump (llcCounter (homeSlice (line * 128)) 1)) line) line := by
  unfold State.fillLine
  rw [h]
  rfl
theorem withRoom_turn : withRoom (turn k s) line = turn k (withRoom s line) := by
  by_cases hroom : ((s.llc.map (·.1)).filter fun l => homeSlice (l * 128) = homeSlice (line * 128)).length < 16
  · exact (if_pos hroom).trans (congrArg (turn k) (if_pos hroom).symm)
  · refine (if_neg hroom).trans (Eq.trans ?_ (congrArg (turn k) (if_neg hroom).symm))
    split
    next h => exact (evict_turn k { s with free := s.free + 1 } _).trans (congrArg (turn k) (if_pos h).symm)
    next h =>
      show turn k { s with free := s.free + 1 } = _
      exact congrArg (turn k) (if_neg h).symm
theorem fillLine_turn : (turn k s).fillLine line = turn k (s.fillLine line) := by
  cases h : s.llc.find line with
  | some e =>
    unfold State.fillLine
    rw [show (turn k s).llc.find line = some e from h, h]
    rfl
  | none =>
    rw [fillLine_miss s line h, fillLine_miss (turn k s) line h]
    exact congrArg (placed · line) (withRoom_turn k (s.bump _) line)
theorem touchLine_turn (al : Alloc) : ((turn k s).touchLine al false line).1 = turn k (s.touchLine al false line).1 := by
  cases al with
  | ms => exact congrArg (·.bump (llcCounter (homeSlice (line * 128)) 3)) (evict_turn k s line)
  | fill => exact fillLine_turn k s line
  | nt =>
    unfold State.touchLine
    dsimp only
    cases h : s.llc.find line with
    | some e => rw [show (turn k s).llc.find line = some e from h]; exact fillLine_turn k s line
    | none => rw [show (turn k s).llc.find line = none from h]; rfl
theorem touchRead_turn (al : Alloc) (a n : Nat) : (turn k s).touchRead al a n = turn k (s.touchRead al a n) := by
  unfold State.touchRead
  split
  · generalize pieces 128 a n = ps
    induction ps generalizing s with
    | nil => rfl
    | cons p ps ih => exact (congrArg (List.foldl _ · ps) (touchLine_turn k s _ al)).trans (ih _)
  · rfl
theorem read64_turn (a : Nat) : (turn k s).read64 a = (turn k (s.read64 a).1, (s.read64 a).2) := by
  rw [State.read64, touchRead_turn]
  rfl
theorem walkLevel_turn (t va lvl : Nat) : (turn k s).walkLevel t va lvl = (turn k (s.walkLevel t va lvl).1, (s.walkLevel t va lvl).2) := by
  rw [State.walkLevel, State.walkLevel, read64_turn]
  have hpage : ∀ e, (turn k (s.read64 (t % 2 ^ 50 + 8 * walkIndex va lvl)).1).malformed e lvl =
    (s.read64 (t % 2 ^ 50 + 8 * walkIndex va lvl)).1.malformed e lvl := fun e => rfl
  dsimp only
  rw [hpage]
  split
  · rfl
  · split
    · rfl
    · split
      · rfl
      · split
        · rfl
        · rfl
end

theorem walkFrom_turn (k va lvl : Nat) (s : State) (t : Nat) : (walkFrom va lvl (turn k s) t).2 = (walkFrom va lvl s t).2 := by
  induction lvl generalizing s t with
  | zero =>
    simp only [walkFrom, walkLevel_turn]
    rcases s.walkLevel t va 0 with ⟨u, w | t⟩
    · rfl
    · rfl
  | succ lvl ih =>
    simp only [walkFrom, walkLevel_turn]
    rcases s.walkLevel t va (lvl + 1) with ⟨u, w | t⟩
    · rfl
    · exact ih _ _
theorem walk_turn (k : Nat) (s : State) (asid va : Nat) : ((turn k s).walk asid va).2 = (s.walk asid va).2 := by
  have hcsr : (turn k s).csr (8 * asid) = s.csr (8 * asid) := rfl
  have hhbm : ∀ a, (turn k s).inHbm a = s.inHbm a := fun a => rfl
  unfold State.walk
  simp only [hcsr, hhbm]
  split
  · rfl
  · split
    · rfl
    · split
      · rfl
      · exact walkFrom_turn k va 4 s _

theorem partSo_turn (k : Nat) (s : State) (e : Parked) (page : Nat) : State.partSo (turn k s) e page = State.partSo s e page := by
  unfold State.partSo
  rw [show (turn k s).launchOf e.ctx = s.launchOf e.ctx from rfl, walk_turn]
/-- The order of a context's parked accesses does not depend on whose turn it is. -/
theorem soBefore_turn (k : Nat) (s : State) (e : Parked) (page : Nat) : (turn k s).soBefore e page = s.soBefore e page := by
  unfold State.soBefore
  simp only [partSo_turn]
  rfl

end Sys2Proof.Turns
end

section
/-! SUPPORT. The bytes that a write leaves in HBM, the SBM and the scratchpads (R206, R212, R214). -/
namespace Sys2Proof.Pokes
open Sys2Proof Sys2Proof.Machine Sys2Proof.Cohorts

/-! ## Pieces of a range -/

section
variable {unit a n : Nat} (hunit : unit = 4 ∨ unit = 128)
include hunit

/-- A piece lies in the range and in one unit. -/
theorem piece_bounds {p : Nat × Nat × Nat} (h : p ∈ pieces unit a n) :
    a ≤ p.1 ∧ p.1 + p.2.2 ≤ a + n ∧ p.2.1 = p.1 - a ∧ p.1 % unit + p.2.2 ≤ unit ∧ 0 < p.2.2 := by
  unfold pieces at h
  split at h
  · exact absurd h List.not_mem_nil
  · obtain ⟨j, hj, rfl⟩ := List.mem_map.mp h
    rw [List.mem_range] at hj
    dsimp only
    rcases hunit with rfl | rfl
    · omega
    · omega
theorem exists_piece_iff (x : Nat) : (∃ p ∈ pieces unit a n, p.1 ≤ x ∧ x < p.1 + p.2.2) ↔ a ≤ x ∧ x < a + n := by
  constructor
  · rintro ⟨p, hp, hlo, hhi⟩
    obtain ⟨h1, h2, -⟩ := piece_bounds hunit hp
    omega
  · rintro ⟨hlo, hhi⟩
    rw [pieces, if_neg (by omega)]
    refine ⟨_, List.mem_map.mpr ⟨x / unit - a / unit, ?_, rfl⟩, ?_⟩
    · rw [List.mem_range]
      rcases hunit with rfl | rfl
      · omega
      · omega
    · dsimp only
      rcases hunit with rfl | rfl
      · omega
      · omega

end

/-- Pieces written one after the other. -/
theorem peek_foldl {g : State → Nat × Nat × Nat → State} {ps : List (Nat × Nat × Nat)} {v : Nat → Byte}
    (hstep : ∀ u, ∀ p ∈ ps, ∀ x, ((g u p).peek x).v = if p.1 ≤ x ∧ x < p.1 + p.2.2 then v x else (u.peek x).v) (s : State) (x : Nat) :
    ((ps.foldl g s).peek x).v = if ∃ p ∈ ps, p.1 ≤ x ∧ x < p.1 + p.2.2 then v x else (s.peek x).v := by
  induction ps generalizing s with
  | nil => simp
  | cons p ps ih =>
    rw [List.foldl_cons, ih (fun u q hq => hstep u q (List.mem_cons_of_mem p hq)), hstep s p List.mem_cons_self]
    by_cases hp : p.1 ≤ x ∧ x < p.1 + p.2.2
    · rw [if_pos hp, ite_self, if_pos ⟨p, List.mem_cons_self, hp⟩]
    · simp only [List.exists_mem_cons_iff, hp, if_false, false_or]

/-! ## Cells -/

theorem region_eq_scratch_iff (a : Nat) : region a = .scratch ↔ scratchBase ≤ a ∧ a < scratchBase + 0x80000000 := by
  unfold region sbmBase scratchBase csrBase hostBase exportBase
  split
  · simp only [reduceCtorEq, false_iff]
    omega
  · split
    · simp only [reduceCtorEq, false_iff]
      omega
    · split
      · simp only [*, and_self]
      · split
        · simp only [reduceCtorEq, false_iff]
          omega
        · split
          · simp only [reduceCtorEq, false_iff]
            omega
          · split
            · simp only [reduceCtorEq, false_iff]
              omega
            · simp only [reduceCtorEq, false_iff]
              omega

/-- The swizzle key of row `r` of the scratchpads, counted from the first. -/
def rowKey (s : State) (r : Nat) : Nat := swzKey (s.core (r / 4096)) (r % 4096)

theorem rowKey_lt (s : State) (r : Nat) : rowKey s r < 64 := by
  unfold rowKey swzKey
  split
  · exact Nat.mod_lt _ (by decide)
  · decide

theorem cell_scratch (s : State) {b : Nat} (hb : b < 0x80000000) :
    s.cell (scratchBase + b) = scratchBase + b / 256 * 256 + ((b / 4 % 64) ^^^ rowKey s (b / 256)) * 4 + b % 4 := by
  have hregion : region (scratchBase + b) = .scratch := (region_eq_scratch_iff _).mpr ⟨Nat.le_add_right _ _, Nat.add_lt_add_left hb _⟩
  have hmod : (scratchBase + b) % 0x100000 = b % 0x100000 := by unfold scratchBase; omega
  have hrow : b % 0x100000 / 256 = b / 256 % 4096 := by omega
  have hcore : b / 0x100000 = b / 256 / 4096 := by omega
  have hword : b % 0x100000 / 4 % 64 = b / 4 % 64 := by omega
  rw [State.cell, if_pos hregion]
  simp only [hmod, Nat.add_sub_cancel_left, hrow, hcore, hword, scratchAddr, rowKey]
  omega
theorem cell_other (s : State) {a : Nat} (h : ¬ (scratchBase ≤ a ∧ a < scratchBase + 0x80000000)) : s.cell a = a :=
  if_neg (mt (region_eq_scratch_iff a).mp h)
theorem cell_scratch_bounds (s : State) {b : Nat} (hb : b < 0x80000000) :
    scratchBase ≤ s.cell (scratchBase + b) ∧ s.cell (scratchBase + b) < scratchBase + 0x80000000 := by
  have hx : (b / 4 % 64) ^^^ rowKey s (b / 256) < 2 ^ 6 := Nat.xor_lt_two_pow (Nat.mod_lt _ (by decide)) (rowKey_lt s _)
  rw [cell_scratch s hb]
  omega

/-- Below the scratchpads a byte stands at its address, and no scratchpad byte stands there. -/
theorem cell_below (s : State) {a n : Nat} (h : a + n ≤ scratchBase) (x : Nat) :
    (a ≤ s.cell x ∧ s.cell x < a + n ↔ a ≤ x ∧ x < a + n) ∧ (a ≤ x → x < a + n → s.cell x = x) := by
  by_cases hx : scratchBase ≤ x ∧ x < scratchBase + 0x80000000
  · obtain ⟨b, rfl⟩ := Nat.exists_eq_add_of_le hx.1
    have hb := cell_scratch_bounds s (Nat.lt_of_add_lt_add_left hx.2)
    omega
  · rw [cell_other s hx]
    exact ⟨Iff.rfl, fun _ _ => rfl⟩

/-- The bytes of a word of a scratchpad stand in a word, and no other byte does. -/
theorem cell_word (s : State) {b k : Nat} (hhi : b + k ≤ 0x80000000) (hword : b % 4 + k ≤ 4) (hk : 0 < k) (x : Nat) :
    (s.cell (scratchBase + b) ≤ s.cell x ∧ s.cell x < s.cell (scratchBase + b) + k ↔ scratchBase + b ≤ x ∧ x < scratchBase + b + k) ∧
      (scratchBase + b ≤ x → x < scratchBase + b + k → s.cell x - s.cell (scratchBase + b) = x - (scratchBase + b)) := by
  have hb : b < 0x80000000 := by omega
  by_cases hx : scratchBase ≤ x ∧ x < scratchBase + 0x80000000
  · obtain ⟨c, rfl⟩ := Nat.exists_eq_add_of_le hx.1
    have hc : c < 0x80000000 := Nat.lt_of_add_lt_add_left hx.2
    have hkeyb : (b / 4 % 64) ^^^ rowKey s (b / 256) < 2 ^ 6 := Nat.xor_lt_two_pow (Nat.mod_lt _ (by decide)) (rowKey_lt s _)
    have hkeyc : (c / 4 % 64) ^^^ rowKey s (c / 256) < 2 ^ 6 := Nat.xor_lt_two_pow (Nat.mod_lt _ (by decide)) (rowKey_lt s _)
    have hsame : b / 4 = c / 4 → (b / 4 % 64) ^^^ rowKey s (b / 256) = (c / 4 % 64) ^^^ rowKey s (c / 256) := fun h => by
      rw [h, show b / 256 = c / 256 by omega]
    have hinj : b / 256 = c / 256 → (b / 4 % 64) ^^^ rowKey s (b / 256) = (c / 4 % 64) ^^^ rowKey s (c / 256) → b / 4 % 64 = c / 4 % 64 :=
      fun hr h => Nat.xor_left_injective (by rw [hr] at h; exact h)
    rw [cell_scratch s hb, cell_scratch s hc]
    generalize (b / 4 % 64) ^^^ rowKey s (b / 256) = y at hkeyb hsame hinj
    generalize (c / 4 % 64) ^^^ rowKey s (c / 256) = z at hkeyc hsame hinj
    omega
  · have hkeyb : (b / 4 % 64) ^^^ rowKey s (b / 256) < 2 ^ 6 := Nat.xor_lt_two_pow (Nat.mod_lt _ (by decide)) (rowKey_lt s _)
    rw [cell_other s hx, cell_scratch s hb]
    generalize (b / 4 % 64) ^^^ rowKey s (b / 256) = y at hkeyb
    omega

/-! ## The write -/

theorem mem_touchLine_write (s : State) (al : Alloc) (line : Nat) : (s.touchLine al true line).1.mem = s.mem := by
  cases al with
  | ms => exact Steps.mem_evict s line
  | fill => exact (mem_dirtyLine _ line).trans (Steps.mem_fillLine s line)
  | nt =>
    unfold State.touchLine
    dsimp only
    split
    · exact (mem_dirtyLine _ line).trans (Steps.mem_fillLine s line)
    · rfl

theorem cell_congr {s t : State} (h : ∀ k, t.core k = s.core k) (x : Nat) : t.cell x = s.cell x := by
  simp only [State.cell, h]

/-- Bytes written in the cells from `c` on. -/
theorem peek_write {u t : State} {c k : Nat} {w : Nat → Byte} (hmem : t.mem = u.mem.write c k w) (hcore : ∀ j, t.core j = u.core j) (x : Nat) :
    (t.peek x).v = if c ≤ u.cell x ∧ u.cell x < c + k then w (u.cell x - c) else (u.peek x).v := by
  show t.mem.byte (t.cell x) = _
  rw [cell_congr hcore, hmem, Memory.byte_write]
  rfl

/-- A write by pieces leaves its bytes when every piece does. -/
theorem storedAt_pieces {unit a n : Nat} (hunit : unit = 4 ∨ unit = 128) {g : State → Nat × Nat × Nat → State} {f : Nat → Val 8}
    (hstep : ∀ u, ∀ p ∈ pieces unit a n, ∀ x, ((g u p).peek x).v = if p.1 ≤ x ∧ x < p.1 + p.2.2 then (f (x - a)).v else (u.peek x).v)
    (s : State) : StoredAt s ((pieces unit a n).foldl g s) a n fun i => (f i).v := by
  intro x
  rw [peek_foldl (v := fun x => (f (x - a)).v) hstep s x]
  simp only [exists_piece_iff hunit]

section
variable (s : State) (al : Alloc) {a n : Nat} (f : Nat → Val 8)

theorem storedAt_poke_hbm (h : a + n ≤ 0x8000000000) (hn : 0 < n) : StoredAt s (s.poke al a n f) a n fun i => (f i).v := by
  have hregion : region a = .hbm := (region_eq_hbm_iff a).mpr (by omega)
  simp only [State.poke, hregion]
  refine storedAt_pieces (.inr rfl) (fun u p hp x => ?_) s
  obtain ⟨hlo, hhi, hoff, -, -⟩ := piece_bounds (.inr rfl) hp
  obtain ⟨l, o, k⟩ := p
  obtain ⟨hiff, hin⟩ := cell_below u (show l + k ≤ scratchBase from (hhi.trans h).trans (by decide)) x
  refine (peek_write (u := u) (t := (u.touchLine al true (l / 128)).1.putCells (u.touchLine al true (l / 128)).2 l k fun i => f (o + i))
    (c := l) (k := k) (w := fun i => (f (o + i)).v)
    (congrArg (fun m : Memory => m.write l k fun i => (f (o + i)).v) (mem_touchLine_write u al (l / 128)))
    (u.touchLine_only al true (l / 128)).core x).trans ?_
  simp only [hiff]
  split
  next hx =>
    dsimp only at hoff hlo
    rw [hin hx.1 hx.2, hoff, show l - a + (x - l) = x - a by omega]
  next => rfl

theorem storedAt_poke_sbm (hlo : sbmBase ≤ a) (hhi : a + n ≤ sbmBase + 0x10000000) (hn : 0 < n) :
    StoredAt s (s.poke al a n f) a n fun i => (f i).v := by
  have hregion : region a = .sbm := by
    rw [region, if_neg (by unfold sbmBase at hlo; omega), if_pos (by omega)]
  intro x
  simp only [State.poke, hregion]
  obtain ⟨hiff, hin⟩ := cell_below s (show a + n ≤ scratchBase from hhi.trans (by decide)) x
  refine (peek_write (u := s) (t := s.putCells 4 a n f) (c := a) (k := n) (w := fun i => (f i).v) rfl (fun _ => rfl) x).trans ?_
  simp only [hiff]
  split
  next hx => rw [hin hx.1 hx.2]
  next => rfl

theorem storedAt_poke_scratch (hlo : scratchBase ≤ a) (hhi : a + n ≤ scratchBase + 0x80000000) (hn : 0 < n) :
    StoredAt s (s.poke al a n f) a n fun i => (f i).v := by
  have hregion : region a = .scratch := (region_eq_scratch_iff a).mpr (by omega)
  simp only [State.poke, hregion]
  refine storedAt_pieces (.inl rfl) (fun u p hp x => ?_) s
  obtain ⟨hpa, hpn, hoff, hword, hk⟩ := piece_bounds (.inl rfl) hp
  obtain ⟨l, o, k⟩ := p
  dsimp only at hpa hpn hoff hword hk
  obtain ⟨b, rfl⟩ := Nat.exists_eq_add_of_le (hlo.trans hpa)
  obtain ⟨hiff, hin⟩ := cell_word u (b := b) (k := k) (by omega) (by unfold scratchBase at hword; omega) hk x
  refine (peek_write (u := u) (t := u.putCells 4 (u.cell (scratchBase + b)) k fun i => f (o + i)) (c := u.cell (scratchBase + b)) (k := k)
    (w := fun i => (f (o + i)).v) rfl (fun _ => rfl) x).trans ?_
  simp only [hiff]
  split
  next hx => rw [hin hx.1 hx.2, hoff, show scratchBase + b - a + (x - (scratchBase + b)) = x - a by omega]
  next => rfl

end

/-- `[a, a + n)` lies in HBM, in the SBM or in the scratchpads. -/
def Local (a n : Nat) : Prop :=
  a + n ≤ 0x8000000000 ∨ (sbmBase ≤ a ∧ a + n ≤ sbmBase + 0x10000000) ∨ (scratchBase ≤ a ∧ a + n ≤ scratchBase + 0x80000000)

theorem storedAt_poke (s : State) (al : Alloc) {a n : Nat} (f : Nat → Val 8) (h : Local a n) (hn : 0 < n) :
    StoredAt s (s.poke al a n f) a n fun i => (f i).v := by
  rcases h with h | ⟨hlo, hhi⟩ | ⟨hlo, hhi⟩
  · exact storedAt_poke_hbm s al f h hn
  · exact storedAt_poke_sbm s al f hlo hhi hn
  · exact storedAt_poke_scratch s al f hlo hhi hn

theorem bounds_of_region_sbm {a : Nat} (h : region a = .sbm) : sbmBase ≤ a ∧ a < sbmBase + 0x10000000 := by
  unfold region at h
  split at h
  · cases h
  · split at h
    next hin => exact hin
    next =>
      revert h
      repeat' split
      all_goals simp

/-- Memory has no edge within 64 KiB. -/
theorem local_of_region {q m : Nat} (hregion : region q ∈ [Region.hbm, .sbm, .scratch]) (hunit : q % 0x10000 + m ≤ 0x10000) : Local q m := by
  unfold Local
  simp only [List.mem_cons, List.not_mem_nil, or_false] at hregion
  rcases hregion with h | h | h
  · have hlt := (region_eq_hbm_iff q).mp h
    omega
  · have hin := bounds_of_region_sbm h
    unfold sbmBase at hin ⊢
    omega
  · have hin := (region_eq_scratch_iff q).mp h
    unfold scratchBase at hin ⊢
    omega

end Sys2Proof.Pokes
end

section
/-! SUPPORT. REPLAY_DEPART of a parked store whose page is present (R251). -/
namespace Sys2Proof.Departures
open Sys2Proof Sys2Proof.Machine Sys2Proof.Pokes

/-! ## The part of a store on a page -/

/-- A parked store of the bytes `f` from `va` on, in one 64 KiB unit. -/
structure StoresOn (e : Parked) (va m : Nat) (f : Nat → Byte) (nt : Bool) : Prop where
  op : e.op = .store ((List.range m).map fun i => (va + i, ⟨f i, false⟩)) nt
  home : e.home = none
  pos : 0 < m
  unit : va % 0x10000 + m ≤ 0x10000

/-- Consecutive bytes are one run. -/
theorem runs_range (va m : Nat) (b : Nat → Val 8) (hm : 0 < m) :
    WcBuf.runs { pa := 0, bytes := (List.range m).map fun i => (va + i, b i) } = [(va, (List.range m).map b)] := by
  obtain ⟨k, rfl⟩ := Nat.exists_eq_add_one_of_ne_zero hm.ne'
  unfold WcBuf.runs
  refine List.reverse_eq_iff.mpr ?_
  induction k with
  | zero => simp
  | succ k ih =>
    dsimp only at ih ⊢
    rw [List.range_succ, List.map_append, List.foldl_append, ih (Nat.succ_pos k)]
    simp

theorem foldl_min_eq {xs : List (Nat × Val 8)} {a : Nat} (h : ∀ y ∈ xs, a ≤ y.1) : xs.foldl (fun m y => min m y.1) a = a := by
  induction xs with
  | nil => rfl
  | cons y ys ih =>
    rw [List.foldl_cons, min_eq_left (h y List.mem_cons_self)]
    exact ih fun z hz => h z (List.mem_cons_of_mem y hz)
theorem foldl_span (va m : Nat) (b : Nat → Val 8) :
    ((List.range m).map fun i => (va + i, b i)).foldl (fun n x => max n (x.1 + 1 - va)) 1 = max 1 m := by
  induction m with
  | zero => rfl
  | succ m ih =>
    rw [List.range_succ, List.map_append, List.foldl_append, ih]
    simp only [List.map_cons, List.map_nil, List.foldl_cons, List.foldl_nil]
    omega

section
variable {e : Parked} {va m : Nat} {f : Nat → Byte} {nt : Bool} (h : StoresOn e va m f nt)
include h

theorem bytesOn_eq : e.bytesOn (va / 0x10000) = (List.range m).map fun i => (va + i, ⟨f i, false⟩) := by
  have hunit := h.unit
  rw [Parked.bytesOn, h.op, h.home]
  refine List.filter_eq_self.mpr fun x hx => ?_
  obtain ⟨i, hi, rfl⟩ := List.mem_map.mp hx
  rw [List.mem_range] at hi
  exact decide_eq_true (by dsimp only; omega)
theorem addrOn_eq : e.addrOn (va / 0x10000) = va := by
  have hbytes := bytesOn_eq h
  rw [Parked.addrOn, h.op]
  dsimp only
  obtain ⟨k, hk⟩ := Nat.exists_eq_add_one_of_ne_zero h.pos.ne'
  rw [hbytes, hk, List.range_succ_eq_map, List.map_cons]
  refine foldl_min_eq fun y hy => ?_
  obtain ⟨i, -, rfl⟩ := List.mem_map.mp hy
  dsimp only
  omega
theorem sizeOn_eq : e.sizeOn (va / 0x10000) = m := by
  rw [Parked.sizeOn, h.op]
  dsimp only
  rw [addrOn_eq h, bytesOn_eq h, foldl_span]
  exact max_eq_right h.pos
theorem base_eq : e.base (va / 0x10000) = va / 0x10000 * 0x10000 := by
  rw [Parked.base, h.home]
  rfl
/-- The bytes of the part, as they are stored. -/
def bytesOf (m : Nat) (f : Nat → Byte) : List (Val 8) := (List.range m).map fun i => ⟨f i, false⟩

omit h in
theorem target_mem {u : State} {pa : Nat} (hpeer : pa / 2 ^ 50 = u.peer) (hregion : region (pa % 2 ^ 50) ∈ [Region.hbm, .sbm, .scratch]) :
    u.target pa = .mem := by
  simp only [List.mem_cons, List.not_mem_nil, or_false] at hregion
  rw [State.target, if_neg (not_not.mpr hpeer)]
  rcases hregion with h | h | h
  · rw [h]
  · rw [h]
  · rw [h]

/-- The part stored, and taken out of its entry. -/
def storedPart (u : State) (e : Parked) (p : Piece) (m : Nat) (f : Nat → Byte) (page : Nat) : State :=
  (u.storeLocal (some (e.ctx / 2)) (allocOf p.leaf false) (p.pa % 2 ^ 50) m (byteAt (bytesOf m f))).partDone e page

theorem parkDo_stores {u : State} {asid : Nat} {p : Piece} (htarget : u.target p.pa = .mem) :
    parkDo e (va / 0x10000) asid p u = .ok ((), storedPart u e p m f (va / 0x10000)) := by
  have hput : parkPut e asid nt { p with va := p.va + (va - va), len := (bytesOf m f).length, pa := p.pa + (va - va) } (bytesOf m f) u =
      .ok ((), u.storeLocal (some (e.ctx / 2)) (allocOf p.leaf false) (p.pa % 2 ^ 50) m (byteAt (bytesOf m f))) := by
    refine (M.bind_ok (M.run_reads _ u)).trans ?_
    simp only [Nat.sub_self, Nat.add_zero, htarget]
    rw [M.run_change]
    simp [bytesOf]
  rw [parkDo, h.op]
  dsimp only
  rw [bytesOn_eq h, runs_range va m (fun i => ⟨f i, false⟩) h.pos, addrOn_eq h]
  exact (M.bind_ok (a := ()) ((M.bind_ok hput).trans (M.run_pure _ _))).trans (M.run_change _ _)

end

/-! ## The part leaves -/

theorem page_dvd (size : Nat) : 0x10000 ∣ pageBytes size := by
  unfold pageBytes
  split
  · decide
  · split
    · decide
    · decide

/-- An address and the start of its 64 KiB unit are mapped alike. -/
theorem maps_unit (x : TlbEntry) (asid va : Nat) : x.maps asid (va / 0x10000 * 0x10000) = x.maps asid va := by
  obtain ⟨c, hc⟩ := page_dvd x.size
  have hdiv : va / 0x10000 * 0x10000 / pageBytes x.size = va / pageBytes x.size := by
    rw [hc, ← Nat.div_div_eq_div_mul, ← Nat.div_div_eq_div_mul, Nat.mul_div_cancel _ (by decide)]
  rw [TlbEntry.maps, TlbEntry.maps, hdiv]
theorem canonical_unit (va : Nat) : canonical (va / 0x10000 * 0x10000) = canonical va := by
  have hdiv : va / 0x10000 * 0x10000 / 2 ^ 56 = va / 2 ^ 56 := by omega
  rw [canonical, canonical, hdiv]

theorem governs_local {u : State} {leaf : Word64} {pa : Nat} (hpeer : pa / 2 ^ 50 = u.peer) : u.governs leaf pa = leaf := by
  refine if_neg ?_
  rw [State.exported, hpeer]
  simp

/-- A piece in memory whose leaf permits the write. -/
theorem refusal_none {u : State} {p : Piece} {sn : Bool} (htarget : u.target p.pa = .mem) (hw : leafW p.leaf = true) :
    u.refusal [p] .write sn = none := by
  simp [State.refusal, htarget, State.noWindow, Need.ok, hw]

section
variable {s : State} {e : Parked} {va m : Nat} {f : Nat → Byte} {nt : Bool} {entry : TlbEntry} (h : StoresOn e va m f nt)
  (hidle : ∀ r ∈ s.reqs, r.owner ≠ .replay e.ctx e.num) (hline : s.cowLine = []) (hcanon : canonical va = true)
  (hfind : (s.tlb (e.ctx / 2)).find? (fun x => x.maps (s.launchOf e.ctx).asid va) = some entry)
  (hwrite : leafW entry.leaf = true) (hcow : leafCow entry.leaf = false) (hso : leafOrd entry.leaf = 0 → s.soBefore e (va / 0x10000) = false)
  (hpeer : physical entry.leaf entry.size va / 2 ^ 50 = s.peer)
  (hregion : region (physical entry.leaf entry.size va % 2 ^ 50) ∈ [Region.hbm, .sbm, .scratch])

/-- The piece through which the part leaves. -/
def pieceOf (entry : TlbEntry) (va m : Nat) : Piece :=
  { va, off := 0, len := m, leaf := entry.leaf, pa := physical entry.leaf entry.size va }

include h hcanon hfind in
theorem translate_part : (Turns.turn e.ctx s).translate (e.ctx / 2) (s.launchOf e.ctx).asid (e.base (va / 0x10000)) =
    (Turns.turn e.ctx s, .ok entry.leaf entry.size) := by
  refine Issuing.translate_hit ?_ ?_
  · rw [base_eq h, canonical_unit]
    exact hcanon
  · rw [base_eq h]
    simp only [maps_unit]
    exact hfind

include hline hcow hso in
theorem partFree_part : (Turns.turn e.ctx s).partFree e (va / 0x10000) entry.leaf = true := by
  have hahead : (Turns.turn e.ctx s).cowAhead e.owner (s.launchOf e.ctx).asid (va / 0x10000) = false := by
    rw [State.cowAhead, show (Turns.turn e.ctx s).cowLine = [] from hline]
    rfl
  have hbefore : (decide (leafOrd entry.leaf = 0) && (Turns.turn e.ctx s).soBefore e (va / 0x10000)) = false := by
    rw [Turns.soBefore_turn]
    by_cases hord : leafOrd entry.leaf = 0
    · rw [hso hord, Bool.and_false]
    · rw [decide_eq_false hord, Bool.false_and]
  rw [State.partFree, hcow, show (Turns.turn e.ctx s).launchOf e.ctx = s.launchOf e.ctx from rfl, hahead, hbefore]
  rfl

include h hidle hline hcanon hfind hwrite hcow hso hpeer hregion in
theorem depart_stores : s.depart e (va / 0x10000) =
    { storedPart (Turns.turn e.ctx s) e (pieceOf entry va m) m f (va / 0x10000) with asks := 0 } := by
  have htarget : (Turns.turn e.ctx s).target (physical entry.leaf entry.size va) = .mem := target_mem hpeer hregion
  have hnone : ((Turns.turn e.ctx s).reqs.any fun r => r.owner = e.owner ∧ r.ans.isSome) = false := by
    refine List.any_eq_false.mpr fun r hr => ?_
    rw [decide_eq_true_eq]
    exact fun hown => hidle r hr hown.1
  have hneed : e.need = .write := by rw [Parked.need, h.op]
  have hgoverns : (Turns.turn e.ctx s).governs entry.leaf (physical entry.leaf entry.size va) = entry.leaf := governs_local hpeer
  have hdo : parkDo e (va / 0x10000) (s.launchOf e.ctx).asid
    { va, off := 0, len := m, leaf := entry.leaf, pa := physical entry.leaf entry.size va } (Turns.turn e.ctx s) = _ := parkDo_stores h htarget
  have hrefusal := refusal_none (p := { va, off := 0, len := m, leaf := entry.leaf, pa := physical entry.leaf entry.size va })
    (sn := decide (e.perm &&& permSN ≠ 0)) htarget hwrite
  have hfree := partFree_part (va := va) hline hcow hso
  rw [State.depart, Turns.turn_eq]
  refine (if_neg (Bool.eq_false_iff.mp hnone)).trans ?_
  rw [Turns.turn_launchOf, translate_part h hcanon hfind]
  dsimp only
  rw [h.home, addrOn_eq h, sizeOn_eq h, hgoverns, hneed]
  dsimp only
  rw [if_neg fun hhome => Bool.false_ne_true hhome.1]
  rw [hrefusal]
  dsimp only
  rw [if_pos hfree, hdo]
  rfl

end

/-! ## What the store and the part leave as it was -/

/-- Memory, poison, the swizzles and the contexts stand. -/
structure Stands (s t : State) : Prop where
  mem : t.mem = s.mem
  psn : t.psn = s.psn
  ctx : ∀ k, t.ctx k = s.ctx k
  swz : ∀ k, (t.core k).swz = (s.core k).swz

theorem Stands.peek {s t : State} (h : Stands s t) (a : Nat) : t.peek a = s.peek a := by
  have hkey : ∀ k row, swzKey (t.core k) row = swzKey (s.core k) row := fun k row => by rw [swzKey, swzKey, h.swz]
  have hcell : t.cell a = s.cell a := by simp only [State.cell, hkey]
  rw [State.peek, State.peek, hcell, State.psnAt, State.psnAt, h.mem, h.psn]

theorem stands_modCore (s : State) (k : Nat) {g : Core → Core} (hg : ∀ c, (g c).swz = c.swz) : Stands s (s.modCore k g) := by
  refine ⟨rfl, rfl, fun j => rfl, fun j => ?_⟩
  rw [State.modCore, State.core_setCore]
  split
  next hj => rw [hj, hg]
  next => rfl
theorem stands_storeL1 (s : State) (core a n : Nat) (b : Nat → Val 8) :
    Stands s (s.storeL1 core a n b) ∧ ∀ j, ((s.storeL1 core a n b).core j).replay = (s.core j).replay := by
  unfold State.storeL1
  split
  · exact ⟨⟨rfl, rfl, fun _ => rfl, fun _ => rfl⟩, fun _ => rfl⟩
  · refine ⟨stands_modCore s core fun c => rfl, fun j => ?_⟩
    rw [State.modCore, State.core_setCore]
    split
    next hj => rw [hj]
    next => rfl

/-- A local store leaves its bytes; the contexts and the replay queues stand. -/
theorem storeLocal_spec (s : State) (core : Nat) (al : Alloc) {a n : Nat} (b : Nat → Val 8) (hlocal : Local a n) (hn : 0 < n) :
    let t := s.storeLocal (some core) al a n b
    StoredAt s t a n (fun i => (b i).v) ∧ (∀ k, t.ctx k = s.ctx k) ∧ ∀ j, (t.core j).replay = (s.core j).replay := by
  have hpoke := storedAt_poke s al b hlocal hn
  have honly := s.poke_only al a n b
  obtain ⟨hstands, hreplay⟩ := stands_storeL1 (s.poke al a n b) core a n b
  intro t
  simp only [t, State.storeLocal]
  split
  · refine ⟨fun x => ?_, fun k => (hstands.ctx k).trans (honly.ctx k), fun j => (hreplay j).trans (by rw [honly.core])⟩
    rw [hstands.peek]
    exact hpoke x
  · exact ⟨hpoke, honly.ctx, fun j => by rw [honly.core]⟩

/-- An entry without the part of `e` on a page. -/
def withoutPart (e : Parked) (page : Nat) (r : Parked) : Parked :=
  { r with
    parts := r.parts.filter fun x => x.1 ≠ page
    op := match r.op with
      | .store b nt => .store (b.filter fun x => !((e.bytesOn page).any fun y => y.1 = x.1)) nt
      | op => op }

theorem partDone_spec (s : State) (e : Parked) (page : Nat) : let t := s.partDone e page
    Stands s t ∧ (t.core (e.ctx / 2)).replay =
      ((s.core (e.ctx / 2)).replay.map fun r => if r.num = e.num then withoutPart e page r else r).filter fun r => !r.parts.isEmpty := by
  intro t
  have hstands := stands_modCore s (e.ctx / 2) (g := fun c => { c with
    replay := (c.replay.map fun r => if r.num = e.num then withoutPart e page r else r).filter fun r => !r.parts.isEmpty }) fun c => rfl
  refine ⟨⟨hstands.mem, hstands.psn, hstands.ctx, hstands.swz⟩, ?_⟩
  exact congrArg Core.replay (State.core_setCore_same s (e.ctx / 2) _)

/-- The other entries stay in the queue while they have a part; those of the number of `e` have lost theirs on the page. -/
theorem mem_replay {rs : List Parked} {e r : Parked} {page : Nat}
    (h : r ∈ (rs.map fun r => if r.num = e.num then withoutPart e page r else r).filter fun r => !r.parts.isEmpty) :
    r.num = e.num → ∀ x ∈ r.parts, x.1 ≠ page := by
  obtain ⟨hmem, -⟩ := List.mem_filter.mp h
  obtain ⟨q, -, rfl⟩ := List.mem_map.mp hmem
  by_cases hq : q.num = e.num
  · rw [if_pos hq]
    exact fun _ x hx => of_decide_eq_true (List.mem_filter.mp hx).2
  · rw [if_neg hq]
    exact fun hnum => absurd hnum hq
theorem mem_replay_other {rs : List Parked} {e r : Parked} {page : Nat} (hr : r.num ≠ e.num) :
    r ∈ (rs.map fun r => if r.num = e.num then withoutPart e page r else r).filter (fun r => !r.parts.isEmpty) ↔ r ∈ rs ∧ r.parts ≠ [] := by
  have hmap : r ∈ (rs.map fun r => if r.num = e.num then withoutPart e page r else r) ↔ r ∈ rs := by
    rw [List.mem_map]
    constructor
    · rintro ⟨q, hq, rfl⟩
      by_cases hnum : q.num = e.num
      · rw [if_pos hnum] at hr
        exact absurd hnum hr
      · rwa [if_neg hnum]
    · exact fun h => ⟨r, h, if_neg hr⟩
  rw [List.mem_filter, hmap]
  simp

/-- Translation keeps the place of an address in its 64 KiB unit. -/
theorem physical_unit (leaf : Word64) (size va : Nat) : physical leaf size va % 2 ^ 50 % 0x10000 = va % 0x10000 := by
  have hpage : va % pageBytes size % 0x10000 = va % 0x10000 := Nat.mod_mod_of_dvd va (page_dvd size)
  unfold physical
  omega

theorem byteAt_bytesOf {m i : Nat} (f : Nat → Byte) (h : i < m) : (byteAt (bytesOf m f) i).v = f i := by
  simp [byteAt, bytesOf, h]

/-- A store that leaves by a page writes its bytes there, and its entry is without the part. -/
theorem storedPart_spec {u : State} {e : Parked} {p : Piece} {m : Nat} (f : Nat → Byte) {page : Nat}
    (hlocal : Local (p.pa % 2 ^ 50) m) (hm : 0 < m) : let t := storedPart u e p m f page
    StoredAt u t (p.pa % 2 ^ 50) m f ∧ (∀ k, t.ctx k = u.ctx k) ∧ (t.core (e.ctx / 2)).replay =
      ((u.core (e.ctx / 2)).replay.map fun r => if r.num = e.num then withoutPart e page r else r).filter fun r => !r.parts.isEmpty := by
  obtain ⟨hstored, hctx, hreplay⟩ := storeLocal_spec u (e.ctx / 2) (allocOf p.leaf false) (byteAt (bytesOf m f)) hlocal hm
  obtain ⟨hstands, hpart⟩ := partDone_spec
    (u.storeLocal (some (e.ctx / 2)) (allocOf p.leaf false) (p.pa % 2 ^ 50) m (byteAt (bytesOf m f))) e page
  refine ⟨fun x => ?_, fun k => (hstands.ctx k).trans (hctx k), by rw [← hreplay]; exact hpart⟩
  refine (congrArg Val.v (hstands.peek x)).trans ((hstored x).trans ?_)
  split
  next hx => exact byteAt_bytesOf f (by omega)
  next => rfl

theorem replayDepart : Parts.ReplayDepart := by
  intro s core n e va m f nt entry page hdeparts hcore hm hunit hhome hidle hline hop hcanon hfind hwrite hcow hso q hpeer hregion
  have h : StoresOn e va m f nt := ⟨hop, hhome, hm, hunit⟩
  have hexec : exec (.replayDepart core n) s = .next (s.depart e page) := by
    refine congrArg Host.Outcome.next ?_
    rw [hdeparts]
  rw [depart_stores h hidle hline hcanon (by rw [hcore]; exact hfind) hwrite hcow hso hpeer hregion] at hexec
  have hlocal : Local q m := local_of_region hregion (by rw [physical_unit]; exact hunit)
  obtain ⟨hstored, hctx, hreplay⟩ := storedPart_spec (u := Turns.turn e.ctx s) (e := e) (p := pieceOf entry va m) (page := page) f hlocal hm
  rw [hcore] at hreplay
  refine ⟨_, hexec, hstored, fun r hr => ?_, fun r hr => ?_, hctx⟩
  · exact (congrArg (r ∈ ·) hreplay).to_iff.trans (mem_replay_other hr)
  · exact mem_replay (hreplay ▸ hr)

/-- Settles O31: a pending handle takes what its translation gives; the departure of a part is one local store. -/
theorem translationAndReplay : Obligations.TranslationAndReplay := ⟨Translations.transComplete, replayDepart⟩

end Sys2Proof.Departures
end

section
/-! SUPPORT. Element-wise arithmetic of vectors (R150 to R153, R157, R158). -/
namespace Sys2Proof.VectorArithmetic
open Sys2Proof Sys2Proof.Machine Sys2Proof.Lanes Sys2Proof.VectorReduce

/-! ## Operands (R152) -/

theorem lift2_zero {a b : Elt} {g : Nat → Nat → Nat × BitVec 5} (h : (lift2 a b g).psn = true) : (lift2 a b g).v = 0 := by
  unfold lift2 at h ⊢
  split at h <;> simp_all [Elt.bad]
theorem lift2_congr {a b : Elt} {f g : Nat → Nat → Nat × BitVec 5} (h : f a.v b.v = g a.v b.v) : lift2 a b f = lift2 a b g := by
  rw [lift2, lift2, h]

/-! ## Integers (R29) -/

theorem rangeLo_decide (w : Nat) (p : Prop) [Decidable p] : rangeLo w (decide p) = if p then -2 ^ (w - 1) else 0 := by
  simp only [rangeLo, decide_eq_true_eq]
theorem rangeHi_decide (w : Nat) (p : Prop) [Decidable p] : rangeHi w (decide p) = if p then 2 ^ (w - 1) - 1 else 2 ^ w - 1 := by
  simp only [rangeHi, decide_eq_true_eq]

theorem intResult_eq (n : Nat) (g sat : Bool) (z : Int) :
    intResult n g sat z = ((if sat then max (rangeLo n g) (min (rangeHi n g) z) else z) % 2 ^ n).toNat := bitsOf_eq n _

/-- Division by 0 gives all ones, the bits of −1. -/
theorem quotient_eq (n : Nat) (g : Bool) (x y : Int) :
    quotient n g x y = ((if y = 0 then -1 else if g then x.tdiv y else x / y) % 2 ^ n).toNat := by
  rw [quotient]
  split
  · have hpos : (0 : Int) < 2 ^ n := by positivity
    have hmod : (-1 : Int) % 2 ^ n = 2 ^ n - 1 := by
      rw [← Int.add_emod_right, Int.emod_eq_of_lt]
      all_goals omega
    zify [Nat.one_le_two_pow, hmod]
    omega
  · exact bitsOf_eq n _

/-! ## Slots of two operands (R157) -/

/-- What a slot of R157 makes of the bits of two elements. -/
def arithOf (ty : NumType) (int : Nat → Bool → Int → Int → Nat) (fl : Fmt → Nat → Nat → Nat × BitVec 5) (x y : Nat) : Nat × BitVec 5 :=
  match ty with
  | .fl t => fl t x y
  | _ => let (n, g) := ty.asInt; (int n g (intOf n g x) (intOf n g y), 0)

theorem arithOf_int {ty : NumType} (ht : ∀ t, ty = .fl t → False) (int : Nat → Bool → Int → Int → Nat)
    (fl : Fmt → Nat → Nat → Nat × BitVec 5) (x y : Nat) : arithOf ty int fl x y =
      (int ty.asInt.1 ty.asInt.2 (intOf ty.asInt.1 ty.asInt.2 x) (intOf ty.asInt.1 ty.asInt.2 y), 0) := by
  cases ty with
  | fl t => exact absurd rfl (ht t)
  | int n g => rfl
  | q32 => rfl

theorem arith_eq (d a b : BitVec 6) (c : Bool) (v : BitVec 4) (int : Nat → Bool → Int → Int → Nat)
    (fl : Fmt → BitVec 2 → Nat → Nat → Nat × BitVec 5) (s : State) : arith d a b c v int fl s =
      vecSlot d (fun old => old.lanes (eltType v).width fun e =>
        lift2 (old.elt a.toNat (eltType v).width e) (old.second c b.toNat (eltType v).width e)
          (arithOf (eltType v) int fun t => fl t old.rm)) s := by
  unfold arith arithOf
  cases eltType v <;> rfl

theorem givesV_arith {s : State} {i : Instr} {d a b : BitVec 6} {c : Bool} {v : BitVec 4} {int : Nat → Bool → Int → Int → Nat}
    {fl : Fmt → BitVec 2 → Nat → Nat → Nat × BitVec 5} (run : Running s) (he : exec i s = arith d a b c v int fl s) :
    GivesV s i d (eltType v).width fun e =>
      lift2 (s.old.elt a.toNat (eltType v).width e) (s.old.second c b.toNat (eltType v).width e)
        (arithOf (eltType v) int fun t => fl t s.old.rm) :=
  givesV_lanes (fun old e => lift2 (old.elt a.toNat (eltType v).width e) (old.second c b.toNat (eltType v).width e)
    (arithOf (eltType v) int fun t => fl t old.rm)) (isWidth_eltType v) (fun _ => lift2_zero) run (he.trans (arith_eq ..))

/-! ## Fused slots and roots (R157) -/

theorem givesV_fused {s : State} {i : Instr} {d a b : BitVec 6} {c np nc : Bool} {v : BitVec 4} {t : Fmt} (run : Running s)
    (he : exec i s = fusedVec nc d a b c np v s) (ht : eltType v = .fl t) :
    GivesV s i d (eltType v).width fun e => lift3 (s.old.elt a.toNat (eltType v).width e)
      (s.old.second c b.toNat (eltType v).width e) (s.old.elt d.toNat (eltType v).width e) (fpFma t s.old.rm np nc) := by
  have hw := isWidth_eltType v
  unfold fusedVec at he
  rw [ht] at he hw ⊢
  exact givesV_lanes (fun old e => lift3 (old.elt a.toNat t.width e) (old.second c b.toNat t.width e) (old.elt d.toNat t.width e)
    (fpFma t old.rm np nc)) hw (fun _ => lift3_zero) run he

/-- A slot of one vector source. -/
theorem givesV_unary {s : State} {i : Instr} {d a : BitVec 6} {w : Nat} {f : BitVec 2 → Nat → Nat × BitVec 5} (hw : IsWidth w)
    (run : Running s) (he : exec i s = unaryVec d a w f s) :
    GivesV s i d w fun e => lift1 (s.old.elt a.toNat w e) (f s.old.rm) :=
  givesV_lanes (fun old e => lift1 (old.elt a.toNat w e) (f old.rm)) hw (fun _ => lift1_zero) run he

theorem exists_eltType_of_floatType {v : BitVec 4} (h : floatType v = true) : ∃ t, eltType v = .fl t := by
  have key : ∀ v : BitVec 4, floatType v = true → ∃ t ∈ [Fmt.f64, .f32, .f16, .bf16], eltType v = .fl t := by decide
  obtain ⟨t, -, ht⟩ := key v h
  exact ⟨t, ht⟩

theorem givesV_sqrt {s : State} {d a : BitVec 6} {v : BitVec 4} {t : Fmt} (st : Bool) (run : Running s) (ht : eltType v = .fl t) :
    GivesV s (.vsqrt st d a v) d (eltType v).width fun e => lift1 (s.old.elt a.toNat (eltType v).width e) (fpSqrt t s.old.rm) := by
  refine givesV_unary (isWidth_eltType v) run ?_
  show execVsqrt d a v s = _
  rw [execVsqrt, ht]
  rfl

/-! ## Signs (R158) -/

/-- What VABS and VNEG make of the bits of an element. -/
def signOf (ty : NumType) (neg sat : Bool) (x : Nat) : Nat × BitVec 5 :=
  match ty with
  | .fl t =>
    let mag := x % 2 ^ (t.width - 1)
    (if (t.value x).isNan then t.nan else if neg then t.sign (!(t.value x).isNeg) + mag else mag, 0)
  | _ =>
    let (n, g) := ty.asInt
    let i := intOf n g x
    (intResult n g sat (if neg then -i else i.natAbs), 0)

theorem signVec_eq (neg : Bool) (d a : BitVec 6) (sat : Bool) (v : BitVec 4) (s : State) :
    signVec neg d a sat v s = unaryVec d a (eltType v).width (fun _ => signOf (eltType v) neg sat) s := by
  unfold signVec signOf
  cases eltType v <;> rfl

theorem signOf_int {ty : NumType} (ht : ∀ t, ty = .fl t → False) (neg sat : Bool) (x : Nat) : signOf ty neg sat x =
    let i := intOf ty.asInt.1 ty.asInt.2 x
    (intResult ty.asInt.1 ty.asInt.2 sat (if neg then -i else i.natAbs), 0) := by
  cases ty with
  | fl t => exact absurd rfl (ht t)
  | int n g => rfl
  | q32 => rfl

theorem sign_eq (t : Fmt) (neg : Bool) : t.sign neg = if neg then 2 ^ (t.width - 1) else 0 := by
  have hbits : t.width - 1 = t.e + t.f := by rw [Fmt.width]; omega
  rw [Fmt.sign, hbits]
  cases neg <;> simp

/-- VNEG turns the sign bit over, that of a NaN apart. -/
theorem signOf_neg_float (t : Fmt) (sat : Bool) (x : Nat) : signOf (.fl t) true sat x =
    (if (t.value x).isNan then t.nan
      else if (t.value x).isNeg then x % 2 ^ (t.width - 1) else x % 2 ^ (t.width - 1) + 2 ^ (t.width - 1), 0) := by
  simp only [signOf, sign_eq]
  cases (t.value x).isNeg
  · simp [add_comm]
  · simp

/-! ## The statement -/

/-- Settles O12: `arithOf` and `signOf` say what a slot makes of the bits of its operands; on floats that is the statement's operation,
on integers the exact result, reduced or clamped. -/
theorem vectorArithmetic : Obligations.VectorArithmetic := by
  unfold Obligations.VectorArithmetic
  intro s st c o d a b v run ty w rm va vb vd signed num lo hi put two one fused quo
  have hnum : num = intOf w (decide signed) := funext fun x => by simp only [num, intOf, decide_eq_true_eq]
  have hput : ∀ sat z, (intResult w (decide signed) sat z, 0) = put sat z := fun sat z => by
    rw [intResult_eq, rangeLo_decide, rangeHi_decide]
  have hint : (∀ t, ty = .fl t → False) → ty.asInt = (w, decide signed) := asInt_eltType
  have arith_two : ∀ (i : Instr) (int : Nat → Bool → Int → Int → Nat) (fl : Fmt → BitVec 2 → Nat → Nat → Nat × BitVec 5)
      (g : Int → Int → Nat × BitVec 5), exec i s = arith d a b c v int fl s → (∀ p q, (int w (decide signed) p q, 0) = g p q) →
      two i g fun t => fl t rm := by
    intro i int fl g he hg _
    have := givesV_arith run he
    convert this using 1
    funext e
    refine lift2_congr ?_
    show _ = arithOf ty int (fun t => fl t rm) (va e).v (vb e).v
    clear_value ty
    split
    · rfl
    · case h_2 ht => rw [arithOf_int ht, hint ht, hg, hnum]
  have fused_three : ∀ (i : Instr) (np nc : Bool), exec i s = fusedVec nc d a b c np v s → fused i np nc :=
    fun i np nc he _ t ht => givesV_fused run he ht
  have signs : ∀ (i : Instr) (neg : Bool) (f : Nat → Nat × BitVec 5), exec i s = signVec neg d a o v s → signOf ty neg o = f →
      one i f := fun i neg f he hf _ => hf ▸ givesV_unary (isWidth_eltType v) run (he.trans (signVec_eq ..))
  have hwrap : ∀ z, (bitsOf w z, 0) = put false z := fun z => by rw [bitsOf_eq]; rfl
  refine ⟨arith_two _ (fun n g x y => intResult n g o (x + y)) (fun t m x y => fpAdd t m false x y) _ rfl fun p q => hput o _,
    arith_two _ (fun n g x y => intResult n g o (x - y)) (fun t m x y => fpAdd t m true x y) _ rfl fun p q => hput o _,
    arith_two _ (fun n g x y => intResult n g o (x * y)) (fun t m x y => fpMul t m x y) _ rfl fun p q => hput o _,
    arith_two _ (fun n _ x y => bitsOf n (min x y)) (fun t _ x y => fpMinMax t false x y) _ rfl fun p q => hwrap _,
    arith_two _ (fun n _ x y => bitsOf n (max x y)) (fun t _ x y => fpMinMax t true x y) _ rfl fun p q => hwrap _,
    arith_two _ quotient fpDiv _ rfl fun p q => ?_, fused_three _ o false rfl, fused_three _ o true rfl, fun hwf => ?_,
    signs _ false _ rfl (funext fun x => ?_), signs _ true _ rfl (funext fun x => ?_)⟩
  · rw [quotient_eq]
    simp only [quo, decide_eq_true_eq]
    split
    · rfl
    · rfl
  · obtain ⟨t, ht⟩ := exists_eltType_of_floatType hwf
    have := givesV_sqrt (d := d) (a := a) st run ht
    simp only [ty, ht]
    exact this
  · clear_value ty
    split
    · rfl
    · case h_2 ht => rw [signOf_int ht, hint ht, hnum]; exact hput o _
  · clear_value ty
    split
    · exact signOf_neg_float _ o x
    · case h_2 ht => rw [signOf_int ht, hint ht, hnum]; exact hput o _

end Sys2Proof.VectorArithmetic
end

section
/-! SUPPORT. The vector logic and shift slots (R160, R161): the bits of each result. -/
namespace Sys2Proof.VectorBits
open Sys2Proof Sys2Proof.Machine Sys2Proof.Lanes Sys2Proof.VectorArithmetic

/-! ## Slots of bits -/

theorem isWidth_widthOf (wc : BitVec 2) : IsWidth (widthOf wc) := by
  have key : ∀ wc : BitVec 2, widthOf wc = 8 ∨ widthOf wc = 16 ∨ widthOf wc = 32 ∨ widthOf wc = 64 := by decide
  exact .inr (key wc)
/-- A shift amount is taken modulo a power of two. -/
theorem widthOf_dvd (wc : BitVec 2) : widthOf wc ∣ 2 ^ widthOf wc := by
  have key : ∀ wc : BitVec 2, widthOf wc ∣ 2 ^ widthOf wc := by decide
  exact key wc

/-- The bits that `f` gives for the bits of two elements. -/
def bitsFrom {w : Nat} (f : BitVec w → BitVec w → BitVec w) (x y : Nat) : Nat := (f (BitVec.ofNat w x) (BitVec.ofNat w y)).toNat

theorem givesV_bits {s : State} {i : Instr} {d a b : BitVec 6} {c : Bool} {w : Nat} {f : BitVec w → BitVec w → BitVec w}
    (hw : IsWidth w) (run : Running s) (he : exec i s = bitVec w d a b c f s) :
    GivesV s i d w fun e => lift2 (s.old.elt a.toNat w e) (s.old.second c b.toNat w e) fun x y => (bitsFrom f x y, 0) :=
  givesV_lanes (fun old e => lift2 (old.elt a.toNat w e) (old.second c b.toNat w e) fun x y => (bitsFrom f x y, 0)) hw
    (fun _ => lift2_zero) run he

/-! ## Logic (R160) -/

/-- `op` acts on each bit as `f`. -/
def ActsAs {w : Nat} (f : Bool → Bool → Bool) (op : BitVec w → BitVec w → BitVec w) : Prop :=
  ∀ p q k, k < w → (op p q).getLsbD k = f (p.getLsbD k) (q.getLsbD k)

theorem ActsAs.testBit {w : Nat} {f : Bool → Bool → Bool} {op : BitVec w → BitVec w → BitVec w} (h : ActsAs f op) {x y k : Nat}
    (hk : k < w) : (bitsFrom op x y).testBit k = f (x.testBit k) (y.testBit k) := by
  rw [bitsFrom, ← BitVec.getLsbD, h _ _ k hk, BitVec.getLsbD_ofNat, BitVec.getLsbD_ofNat, decide_eq_true hk, Bool.true_and, Bool.true_and]

section
variable {w : Nat}

theorem actsAs_and : ActsAs (w := w) (fun p q => p && q) (· &&& ·) := fun _ _ _ _ => BitVec.getLsbD_and
theorem actsAs_or : ActsAs (w := w) (fun p q => p || q) (· ||| ·) := fun _ _ _ _ => BitVec.getLsbD_or
theorem actsAs_xor : ActsAs (w := w) (fun p q => p != q) (· ^^^ ·) := fun _ _ _ _ => BitVec.getLsbD_xor
theorem ActsAs.not_right {f : Bool → Bool → Bool} {op : BitVec w → BitVec w → BitVec w} (h : ActsAs f op) :
    ActsAs (fun p q => f p (!q)) (fun x y => op x (~~~y)) := by
  intro x y k hk
  rw [h x (~~~y) k hk, BitVec.getLsbD_not, decide_eq_true hk, Bool.true_and]
theorem ActsAs.not {f : Bool → Bool → Bool} {op : BitVec w → BitVec w → BitVec w} (h : ActsAs f op) :
    ActsAs (fun p q => !f p q) (fun x y => ~~~op x y) := by
  intro x y k hk
  rw [BitVec.getLsbD_not, decide_eq_true hk, Bool.true_and, h x y k hk]
theorem actsAs_xnor : ActsAs (w := w) (fun p q => p == q) (fun x y => ~~~(x ^^^ y)) := by
  intro x y k hk
  exact (actsAs_xor.not x y k hk).trans (Bool.not_not _)

end

/-! ## Shifts (R161) -/

/-- `op`, by `n` below the width, moves the bits as `bit` says. -/
def MovesAs {w : Nat} (bit : Nat → Nat → Nat → Bool) (op : BitVec w → Nat → BitVec w) : Prop :=
  ∀ (v : BitVec w) n k, n < w → k < w → (op v n).getLsbD k = bit v.toNat n k

/-- A shift takes its amount modulo the width. -/
theorem MovesAs.testBit {w : Nat} {bit : Nat → Nat → Nat → Bool} {op : BitVec w → Nat → BitVec w} (h : MovesAs bit op)
    (hdvd : w ∣ 2 ^ w) {x y k : Nat} (hx : x < 2 ^ w) (hk : k < w) :
    (bitsFrom (fun v z => op v (z.toNat % w)) x y).testBit k = bit x (y % w) k := by
  have hy : (BitVec.ofNat w y).toNat % w = y % w := by rw [BitVec.toNat_ofNat, Nat.mod_mod_of_dvd _ hdvd]
  have hv : (BitVec.ofNat w x).toNat = x := by rw [BitVec.toNat_ofNat, Nat.mod_eq_of_lt hx]
  rw [bitsFrom, ← BitVec.getLsbD, hy, h _ _ k (Nat.mod_lt _ (by omega)) hk, hv]

section
variable {w : Nat}

theorem movesAs_shl : MovesAs (w := w) (fun x n k => decide (n ≤ k) && x.testBit (k - n)) fun v n => v <<< n := by
  intro v n k _ hk
  rw [BitVec.getLsbD_shiftLeft, decide_eq_true hk, Bool.true_and, ← decide_not]
  simp only [Nat.not_lt]
  rfl
theorem movesAs_shr : MovesAs (w := w) (fun x n k => x.testBit (k + n)) fun v n => v >>> n := by
  intro v n k _ _
  rw [BitVec.getLsbD_ushiftRight, Nat.add_comm]
  rfl
theorem movesAs_sar : MovesAs (w := w) (fun x n k => if k + n < w then x.testBit (k + n) else x.testBit (w - 1)) BitVec.sshiftRight := by
  intro v n k _ hk
  rw [BitVec.getLsbD_sshiftRight, decide_eq_false (Nat.not_le.mpr hk), Bool.not_false, Bool.true_and, BitVec.msb_eq_getLsbD_last,
    Nat.add_comm]
  rfl
theorem movesAs_rol : MovesAs (w := w) (fun x n k => x.testBit ((k + (w - n)) % w)) BitVec.rotateLeft := by
  intro v n k hn hk
  rw [BitVec.getLsbD_rotateLeft, Nat.mod_eq_of_lt hn]
  by_cases h : k < n
  · dsimp only
    rw [Nat.mod_eq_of_lt (by omega), cond_eq_ite, if_pos (by simpa using h), Nat.add_comm]
    rfl
  · have hmod : (k + (w - n)) % w = k - n := by
      rw [Nat.mod_eq_sub_mod (by omega), Nat.mod_eq_of_lt (by omega)]
      omega
    dsimp only
    rw [hmod, cond_eq_ite, if_neg (by simpa using h), decide_eq_true hk, Bool.true_and]
    rfl
theorem movesAs_ror : MovesAs (w := w) (fun x n k => x.testBit ((k + n) % w)) BitVec.rotateRight := by
  intro v n k hn hk
  rw [BitVec.getLsbD_rotateRight, Nat.mod_eq_of_lt hn]
  by_cases h : k < w - n
  · dsimp only
    rw [Nat.mod_eq_of_lt (by omega), cond_eq_ite, if_pos (by simpa using h), Nat.add_comm]
    rfl
  · have hmod : (k + n) % w = k - (w - n) := by
      rw [Nat.mod_eq_sub_mod (by omega), Nat.mod_eq_of_lt (by omega)]
      omega
    dsimp only
    rw [hmod, cond_eq_ite, if_neg (by simpa using h), decide_eq_true hk, Bool.true_and]
    rfl

end

/-! ## The statement -/

theorem vectorLogicShift : Parts.VectorLogicShift := by
  intro s st c d a b wc run vb logic w shifts
  have hlogic : ∀ {i : Instr} {f : Bool → Bool → Bool} {op : BitVec 32 → BitVec 32 → BitVec 32}, ActsAs f op →
      exec i s = bitVec 32 d a b c op s → logic i f := fun h he =>
    ⟨bitsFrom _, fun _ _ _ => h.testBit, givesV_bits (.inr (.inr (.inr (.inl rfl)))) run he⟩
  have hshift : ∀ {i : Instr} {bit : Nat → Nat → Nat → Bool} {op : BitVec w → Nat → BitVec w}, MovesAs bit op →
      exec i s = bitVec w d a b c (fun x y => op x (y.toNat % w)) s → shifts i bit := fun h he =>
    ⟨bitsFrom _, fun _ _ _ => h.testBit (widthOf_dvd wc), givesV_bits (isWidth_widthOf wc) run he⟩
  exact ⟨hlogic actsAs_and rfl, hlogic actsAs_or rfl, hlogic actsAs_xor rfl, hlogic actsAs_and.not_right rfl,
    hlogic actsAs_or.not_right rfl, hlogic actsAs_xnor rfl, hlogic actsAs_and.not rfl, hlogic actsAs_or.not rfl,
    hshift movesAs_shl rfl, hshift movesAs_shr rfl, hshift movesAs_sar rfl, hshift movesAs_rol rfl, hshift movesAs_ror rfl⟩

end Sys2Proof.VectorBits
end

section
/-! SUPPORT. The vector compares (R133, R165): the elements that a lane reads, the conditions, and the mask that is pushed. -/
namespace Sys2Proof.VectorCompares
open Sys2Proof Sys2Proof.Machine Sys2Proof.Lanes Sys2Proof.VectorReduce Sys2Proof.Floats

/-! ## The elements of a lane (R165) -/

theorem mem_laneElts {w l : Nat} (hw : IsWidth w) (hl : l < 64) (e : Nat) :
    e ∈ laneElts w l ↔ e ∈ elements w ∧ maskLane w e = ruling w l := by
  rw [laneElts, elements, List.mem_range, ruling]
  by_cases h64 : w = 64
  · subst h64
    simp only [maskLane, if_true, List.mem_singleton]
    omega
  · simp only [if_neg h64, List.mem_map, List.mem_range]
    constructor
    · rintro ⟨j, hj, rfl⟩
      exact ⟨(slot_arith hw h64 hj l).2.2.2.mpr hl, maskLane_slot hw h64 hj l⟩
    · rintro ⟨-, hm⟩
      obtain ⟨m, j, hj, rfl⟩ := exists_slot hw h64 e
      rw [maskLane_slot hw h64 hj] at hm
      exact ⟨j, hj, by rw [hm]⟩

/-- The active lanes, in the order in which VCMP reads them. -/
def lanesOn (r : Regs) : List Nat := (List.range 64).filter r.active
theorem mem_lanesOn {r : Regs} {l : Nat} : l ∈ lanesOn r ↔ l < 64 ∧ r.active l = true := by
  rw [lanesOn, List.mem_filter, List.mem_range]

/-- Whether an active lane reads element `e`. -/
def readBy (r : Regs) (w e : Nat) : Bool := (List.range 64).any fun l => maskLane w e == ruling w l && r.active l

/-- What holds of an element that an active lane reads, by lanes and by elements. -/
theorem exists_read_iff {w : Nat} (hw : IsWidth w) (r : Regs) (P : Nat → Prop) :
    (∃ l ∈ lanesOn r, ∃ e ∈ laneElts w l, P e) ↔ ∃ e ∈ elements w, readBy r w e = true ∧ P e := by
  simp only [readBy, List.any_eq_true, List.mem_range, Bool.and_eq_true, beq_iff_eq, mem_lanesOn]
  constructor
  · rintro ⟨l, ⟨hl, ha⟩, e, he, hp⟩
    obtain ⟨hmem, hm⟩ := (mem_laneElts hw hl e).mp he
    exact ⟨e, hmem, ⟨l, hl, hm, ha⟩, hp⟩
  · rintro ⟨e, hmem, ⟨l, hl, hm, ha⟩, hp⟩
    exact ⟨l, ⟨hl, ha⟩, e, (mem_laneElts hw hl e).mpr ⟨hmem, hm⟩, hp⟩

/-! ## Conditions (R133, R165) -/

/-- The condition `c` of VCMP on integers. -/
def intHolds (c : Nat) (x y : Int) : Bool :=
  match c with
  | 0 => decide (x = y) | 1 => decide (x ≠ y) | 2 => decide (x < y) | 3 => decide (x ≤ y) | 4 => decide (y < x) | _ => decide (y ≤ x)
/-- The condition `c` of VCMP on floats. -/
def floatHolds (c : Nat) (p q : Fl) : Bool :=
  let nan := p.isNan || q.isNan
  let lt := p.cmp q == some .lt
  let eq := p.cmp q == some .eq
  match c with
  | 0 => !nan && eq | 1 => nan || !eq | 2 => !nan && lt | 3 => !nan && (lt || eq) | 4 => !nan && !(lt || eq) | 5 => !nan && !lt | _ => nan
/-- Whether the condition `c` is invalid on floats (R133). -/
def floatInvalid (c : Nat) (p q : Fl) : Bool := if 2 ≤ c ∧ c ≤ 5 then p.isNan || q.isNan else p.isSig || q.isSig

theorem vecCond_int {ty : NumType} (ht : ∀ t, ty = .fl t → False) (c x y : Nat) :
    vecCond ty c x y = (intHolds c (intOf ty.asInt.1 ty.asInt.2 x) (intOf ty.asInt.1 ty.asInt.2 y), 0) := by
  cases ty with
  | fl t => exact absurd rfl (ht t)
  | int n g => match c with
    | 0 | 1 | 2 | 3 | 4 | _ + 5 => rfl
  | q32 => match c with
    | 0 | 1 | 2 | 3 | 4 | _ + 5 => rfl

/-- The order of two values, read from the other side. -/
theorem cmp_swap (p q : Fl) : q.cmp p = (p.cmp q).map Ordering.swap := by
  cases p with
  | nan n => cases q <;> rfl
  | inf n => cases q with
    | nan m => rfl
    | inf m => cases n <;> cases m <;> rfl
    | num m j f => cases n <;> rfl
  | num n k e => cases q with
    | nan m => rfl
    | inf m => cases m <;> rfl
    | num m j f =>
      simp only [Fl.cmp, Option.map_some, min_comm f e]
      exact congrArg some (Std.OrientedCmp.eq_swap)

theorem vecCond_float_fst (t : Fmt) (c x y : Nat) : (vecCond (.fl t) c x y).1 = floatHolds c (t.value x) (t.value y) := by
  have hnan : ((t.value x).isNan || (t.value y).isNan) = ((t.value x).cmp (t.value y) == none) := by
    rw [Bool.eq_iff_iff, beq_iff_eq, cmp_isNone]
  have hswap := cmp_swap (t.value x) (t.value y)
  match c with
  | 0 | 1 | 2 | 3 | 4 | 5 =>
    simp only [vecCond, fpCond, floatHolds, hnan, hswap]
    generalize (t.value x).cmp (t.value y) = o
    rcases o with _ | _ | _ | _ <;> rfl
  | _ + 6 => simp only [vecCond, fpCond, floatHolds, hnan]

theorem vecCond_float_snd (t : Fmt) (c x y : Nat) :
    (vecCond (.fl t) c x y).2 = if floatInvalid c (t.value x) (t.value y) then fIV else 0 := by
  match c with
  | 0 => exact fpCond_snd t 0 x y
  | 1 => exact fpCond_snd t 4 x y
  | 2 => exact fpCond_snd t 1 x y
  | 3 => exact fpCond_snd t 2 x y
  | 4 => exact (fpCond_snd t 1 y x).trans (by simp [floatInvalid, Bool.or_comm])
  | 5 => exact (fpCond_snd t 2 y x).trans (by simp [floatInvalid, Bool.or_comm])
  | n + 6 => exact (fpCond_snd t 3 x y).trans (by simp [floatInvalid])

/-! ## Masks and flags gathered -/

theorem getLsbD_foldl_mask (p : Nat → Bool) (ls : List Nat) {k : Nat} (hk : k < 64) :
    (ls.foldl (fun m l => if p l then m ||| ((1 : Word64) <<< l) else m) 0).getLsbD k = ls.any fun l => l == k && p l := by
  have step : ∀ (m : Word64) l, (if p l then m ||| ((1 : Word64) <<< l) else m).getLsbD k = (m.getLsbD k || (l == k && p l)) := by
    intro m l
    have hbit : ((1 : Word64) <<< l).getLsbD k = (l == k) := by
      rw [BitVec.getLsbD_shiftLeft, decide_eq_true hk, Bool.true_and, show (1 : Word64) = 1#64 from rfl, BitVec.getLsbD_one,
        Bool.eq_iff_iff]
      simp
      omega
    split
    next h => rw [BitVec.getLsbD_or, hbit, h, Bool.and_true]
    next h => rw [Bool.eq_false_iff.mpr h, Bool.and_false, Bool.or_false]
  have key : ∀ m : Word64, (ls.foldl (fun m l => if p l then m ||| ((1 : Word64) <<< l) else m) m).getLsbD k =
      (m.getLsbD k || ls.any fun l => l == k && p l) := by
    induction ls with
    | nil => simp
    | cons l ls ih => exact fun m => by rw [List.foldl_cons, ih, step, List.any_cons, Bool.or_assoc]
  exact (key 0).trans (by simp)

theorem foldl_or_if {α : Type} (p : α → Bool) (c : BitVec 5) (xs : List α) :
    xs.foldl (fun f x => f ||| if p x then c else 0) 0 = if xs.any p then c else 0 := by
  have key : ∀ f : BitVec 5, xs.foldl (fun f x => f ||| if p x then c else 0) f = f ||| if xs.any p then c else 0 := by
    induction xs with
    | nil => simp
    | cons x xs ih =>
      intro f
      rw [List.foldl_cons, ih, List.any_cons, BitVec.or_assoc]
      cases p x
      · simp
      · cases xs.any p <;> simp
  exact (key 0).trans BitVec.zero_or

/-! ## The slot (R165) -/

section
variable (old : Regs) (ty : NumType) (a b : BitVec 6) (x : Bool)

/-- Whether VCMP reads poison with element `e`. -/
def poisoned (e : Nat) : Bool := (old.elt a.toNat ty.width e).psn || (old.second x b.toNat ty.width e).psn
/-- The register whose poison VCMP reads with element `e`, vA first. -/
def poisonTag (e : Nat) : Option Word64 :=
  if (old.elt a.toNat ty.width e).psn then some (regTag 2 a.toNat)
  else if (old.second x b.toNat ty.width e).psn then some (regTag (if x then 0 else 2) b.toNat) else none
/-- The register that VCMP names in POISON_CONSUMED. -/
def firstPoison : Option Word64 := (lanesOn old).findSome? fun l => (laneElts ty.width l).findSome? (poisonTag old ty a b x)
/-- The condition on element `e`, with its flags. -/
def condAt (c e : Nat) : Bool × BitVec 5 :=
  vecCond ty c (old.elt a.toNat ty.width e).v (old.second x b.toNat ty.width e).v
/-- Whether a lane holds: on any element, or on all. -/
def laneHolds (y : Bool) (c l : Nat) : Bool :=
  if y then (laneElts ty.width l).any fun e => (condAt old ty a b x c e).1 else (laneElts ty.width l).all fun e => (condAt old ty a b x c e).1
/-- The mask that is pushed. -/
def condMask (y : Bool) (c : Nat) : Word64 :=
  (lanesOn old).foldl (fun m l => if laneHolds old ty a b x y c l then m ||| ((1 : Word64) <<< l) else m) 0
/-- The flags that are set. -/
def condFlags (c : Nat) : BitVec 5 :=
  ((lanesOn old).flatMap (laneElts ty.width)).foldl (fun f e => f ||| (condAt old ty a b x c e).2) 0

variable {old ty a b x}

theorem poisonTag_eq_none {e : Nat} : poisonTag old ty a b x e = none ↔ poisoned old ty a b x e = false := by
  unfold poisonTag poisoned
  split
  · simp_all
  · split <;> simp_all
theorem poisonTag_eq_some {e : Nat} {n : Word64} (h : poisonTag old ty a b x e = some n) :
    n = regTag 2 a.toNat ∨ n = regTag (if x then 0 else 2) b.toNat := by
  unfold poisonTag at h
  split at h
  · exact .inl (Option.some.inj h).symm
  · split at h
    · exact .inr (Option.some.inj h).symm
    · cases h

/-- VCMP finds no poison when no element that an active lane reads is poisoned. -/
theorem firstPoison_eq_none (hw : IsWidth ty.width) : firstPoison old ty a b x = none ↔
    ∀ e ∈ elements ty.width, readBy old ty.width e = true → poisoned old ty a b x e = false := by
  have key := not_congr (exists_read_iff hw old fun e => poisoned old ty a b x e = true)
  push Not at key
  simpa only [firstPoison, List.findSome?_eq_none_iff, poisonTag_eq_none, Bool.not_eq_true] using key
theorem firstPoison_eq_some {n : Word64} (h : firstPoison old ty a b x = some n) :
    n = regTag 2 a.toNat ∨ n = regTag (if x then 0 else 2) b.toNat := by
  obtain ⟨l, -, hl⟩ := List.exists_of_findSome?_eq_some h
  obtain ⟨e, -, he⟩ := List.exists_of_findSome?_eq_some hl
  exact poisonTag_eq_some he

end

section
variable {s : State} {a b : BitVec 6} {x y : Bool} {c : BitVec 3} {v : BitVec 4}

theorem execVcmp_poisoned {n : Word64} (h : firstPoison s.old (eltType v) a b x = some n) :
    execVcmp y c a b x v s = .next (s.raise (.poison n)) := by
  unfold execVcmp
  simp only [List.findSome?_map, Function.comp_def]
  generalize ho : List.findSome? _ _ = o
  obtain rfl : o = some n := ho.symm.trans h
  rfl
theorem execVcmp_clean (h : firstPoison s.old (eltType v) a b x = none) :
    execVcmp y c a b x v s = .next ((s.modRegs fun r => r.pushMask (condMask s.old (eltType v) a b x y c.toNat)).setFlags
      (condFlags s.old (eltType v) a b x c.toNat)).retire := by
  unfold execVcmp condMask laneHolds condFlags
  simp only [List.findSome?_map, Function.comp_def, List.foldl_map, List.foldl_flatMap, List.any_map, List.all_map]
  generalize ho : List.findSome? _ _ = o
  obtain rfl : o = none := ho.symm.trans h
  rfl

end

section
variable {old : Regs} {ty : NumType} {a b : BitVec 6} {x y : Bool} {c : Nat} (hw : IsWidth ty.width)
include hw

theorem getLsbD_condMask {l : Nat} (hl : l < 64) : (condMask old ty a b x y c).getLsbD l = true ↔ old.active l = true ∧
    if y then ∃ e ∈ elements ty.width, maskLane ty.width e = ruling ty.width l ∧ (condAt old ty a b x c e).1 = true
    else ∀ e ∈ elements ty.width, maskLane ty.width e = ruling ty.width l → (condAt old ty a b x c e).1 = true := by
  have hlane : laneHolds old ty a b x y c l = true ↔
      if y then ∃ e ∈ elements ty.width, maskLane ty.width e = ruling ty.width l ∧ (condAt old ty a b x c e).1 = true
      else ∀ e ∈ elements ty.width, maskLane ty.width e = ruling ty.width l → (condAt old ty a b x c e).1 = true := by
    cases y with
    | false => simp [laneHolds, mem_laneElts hw hl]
    | true => simp [laneHolds, mem_laneElts hw hl, and_assoc]
  rw [← hlane, condMask, getLsbD_foldl_mask _ _ hl, List.any_eq_true]
  simp only [mem_lanesOn, Bool.and_eq_true, beq_iff_eq]
  constructor
  · rintro ⟨m, ⟨-, ha⟩, rfl, hp⟩
    exact ⟨ha, hp⟩
  · rintro ⟨ha, hp⟩
    exact ⟨l, ⟨hl, ha⟩, rfl, hp⟩

/-- The flags, where each element sets `f` or none. -/
theorem condFlags_eq {p : Nat → Bool} {f : BitVec 5} (h : ∀ e, (condAt old ty a b x c e).2 = if p e then f else 0) :
    condFlags old ty a b x c = if (elements ty.width).any fun e => readBy old ty.width e && p e then f else 0 := by
  have hany : ((lanesOn old).flatMap (laneElts ty.width)).any p = (elements ty.width).any fun e => readBy old ty.width e && p e := by
    rw [Bool.eq_iff_iff, List.any_flatMap]
    simp only [List.any_eq_true, Bool.and_eq_true]
    exact exists_read_iff hw old fun e => p e = true
  simp only [condFlags, h]
  rw [foldl_or_if, hany]

end

theorem fcsr_flag_if (r : Regs) (p : Bool) : (r.flag (if p then fIV else 0)).fcsr = if p then r.fcsr ||| 16 else r.fcsr := by
  cases p with
  | false => exact BitVec.or_zero
  | true => rfl

/-! ## The statement -/

theorem vectorCompare : Parts.VectorCompare := by
  intro s st y x c a b v run hwf ty w i va vb signed num here on holds invalid
  have hw : IsWidth w := isWidth_eltType v
  have hnum : num = intOf w (decide signed) := funext fun n => by simp only [num, intOf, decide_eq_true_eq]
  have hint : (∀ t, ty = .fl t → False) → ty.asInt = (w, decide signed) := asInt_eltType
  have hholds : ∀ e, (condAt s.old ty a b x c.toNat e).1 = holds e := by
    intro e
    show (vecCond ty c.toNat (va e).v (vb e).v).1 = holds e
    simp only [holds]
    clear_value ty
    split
    · exact vecCond_float_fst _ _ _ _
    · case h_2 ht =>
      rw [vecCond_int ht, hint ht, hnum]
      rfl
  have hflags : ∀ e, (condAt s.old ty a b x c.toNat e).2 = if invalid e then fIV else 0 := by
    intro e
    show (vecCond ty c.toNat (va e).v (vb e).v).2 = if invalid e then fIV else 0
    simp only [invalid]
    clear_value ty
    split
    · exact vecCond_float_snd _ _ _ _
    · case h_2 ht => rw [vecCond_int ht]; rfl
  constructor
  · rintro ⟨e, he, hon, hp⟩
    cases hn : firstPoison s.old ty a b x with
    | some n => exact ⟨n, execVcmp_poisoned hn, firstPoison_eq_some hn⟩
    | none => exact absurd ((firstPoison_eq_none hw).mp hn e he hon) (by rw [poisoned, Bool.not_eq_false]; exact hp)
  · intro hclean
    have hn : firstPoison s.old ty a b x = none := (firstPoison_eq_none hw).mpr hclean
    refine gives_flagged _ _ run (execVcmp_clean hn) ⟨condMask s.old ty a b x y c.toNat, rfl, fun l hl => ?_, ?_⟩
    · simp only [here, beq_iff_eq, ← hholds]
      exact getLsbD_condMask hw hl
    · rw [condFlags_eq hw hflags]
      exact fcsr_flag_if _ _

/-- Settles O14: the bits of each logic and shift slot; a compare by the poison that its active lanes read, its mask lane by lane. -/
theorem vectorLogicAndCompare : Obligations.VectorLogicAndCompare := ⟨VectorBits.vectorLogicShift, vectorCompare⟩

end Sys2Proof.VectorCompares
end

section
/-! SUPPORT. The lanes that VMOV.Z leaves (R152, R169). -/
namespace Sys2Proof.VectorMoves
open Sys2Proof Sys2Proof.Machine Sys2Proof.Lanes

/-- The lanes that VMOV.Z writes. -/
def movedLanes (old : Regs) (a : Nat) : List (Option Elt) :=
  (List.range 64).map fun l =>
    some (if old.active l then (if (old.rv a l).psn then .bad else { v := (old.rv a l).v.toNat }) else {})

theorem length_movedLanes (old : Regs) (a : Nat) : (movedLanes old a).length = 64 := by simp [movedLanes]
theorem getD_movedLanes_poisoned {old : Regs} {a l : Nat} (hl : l < 64) (hon : old.active l = true) (hp : (old.rv a l).psn = true) :
    (movedLanes old a).getD l none = some .bad := by
  simp [movedLanes, List.getD_eq_getElem?_getD, hl, hon, hp]

/-- An active lane with a poisoned source takes the poison and value bits 0 (R152), whatever bits the source holds. -/
theorem vmovZ_poisoned {s : State} {d a : BitVec 6} {l : Nat} (st : Bool) (run : Running s) (hl : l < 64)
    (hon : s.old.active l = true) (hp : (s.old.rv a.toNat l).psn = true) :
    Gives s (.vmovZ st d a) fun r => r.rv d.toNat l = ⟨0, true⟩ := by
  refine gives_vecSlot (fun old => movedLanes old a.toNat) run rfl ?_
  refine (rv_wLanes s.regs d.toNat d.toNat l (length_movedLanes _ _) hl).trans ?_
  rw [if_pos rfl, getD_movedLanes_poisoned hl hon hp]
  rfl

/-- What a slot gives holds together, since it completes in one way. -/
theorem gives_and {s : State} {i : Instr} {P Q : Regs → Prop} (hP : Gives s i P) (hQ : Gives s i Q) :
    Gives s i fun r => P r ∧ Q r := by
  obtain ⟨t, he, own, goes, hp⟩ := hP
  obtain ⟨t', he', -, -, hq⟩ := hQ
  obtain rfl : t = t' := Host.Outcome.next.inj (he.symm.trans he')
  exact ⟨t, he, own, goes, hp, hq⟩

/-- v1 with a poisoned lane 0 that holds bits, as VINS leaves a lane when it writes a poisoned byte beside others (R152). -/
def partlyPoisoned : Regs := { v := [(64, ⟨5, true⟩)] }
/-- A machine of which the context in bank 0 runs a slot on those registers. -/
def machine : State :=
  { ctxs := [(0, { occ := .resident, regs := partlyPoisoned, issue := { old := partlyPoisoned } })] }

theorem running_machine : Running machine := ⟨rfl, rfl, rfl⟩

/-- Refutes O15: VMOV.Z writes value bits 0 to an active lane whose source is poisoned, as R152 has it, where the statement has the
source's own bits. -/
theorem not_vectorMoves : ¬ Obligations.VectorMoves := by
  rintro ⟨-, hpermute, -⟩
  obtain ⟨-, -, -, -, -, -, hmovZ, -⟩ := hpermute machine true 2 1 0 0 running_machine
  have hlane := vmovZ_poisoned (s := machine) (d := 2) (a := 1) (l := 0) true running_machine (by decide) (by decide) (by decide)
  obtain ⟨t, -, -, -, ⟨-, -, hall⟩, hzero⟩ := gives_and hmovZ hlane
  have hfive : t.regs.rv 2 0 = ⟨5, true⟩ := hall 0 (by decide)
  exact absurd (hfive.symm.trans hzero) (by decide)

end Sys2Proof.VectorMoves
end

section
/-! SUPPORT. The home slice of a merge (R45, R198 to R200): the requests it handles, the buffers it keeps, the tile that a close writes. -/
namespace Sys2Proof.Merging
open Sys2Proof Sys2Proof.Machine

/-! ## The command of a request -/

theorem cmd?_modCmd {s : State} {id : Nat} {c : Cmd} (h : s.cmd? id = some c) {f : Cmd → Cmd} (hf : ∀ d, (f d).id = d.id) :
    (s.modCmd id f).cmd? id = some (f c) := by
  have hid : (fun d : Cmd => decide ((if d.id = id then f d else d).id = id)) = fun d : Cmd => decide (d.id = id) := by
    funext d
    split
    · rw [hf]
    · rfl
  have hc : c.id = id := by simpa using List.find?_some h
  rw [State.cmd?] at h
  simp only [State.cmd?, State.modCmd, List.find?_map, Function.comp_def, hid, h, Option.map_some, hc, if_true]

theorem cmd?_stopCmd {s : State} {id : Nat} {c : Cmd} (h : s.cmd? id = some c) (fail : Option Trap) :
    (s.stopCmd id fail).cmd? id = some { c with phase := .stopped, fail := c.fail <|> fail } := cmd?_modCmd h fun _ => rfl

/-- A request answered, when it was of its command's own: the request leaves, the command is `e`, and nothing else in sight changes. -/
structure Answered (s t : State) (r : MergeReq) (e : Cmd) : Prop where
  mergeQ : t.mergeQ = s.mergeQ.filter fun q => q ≠ r
  cmd : t.cmd? r.cmd = some e
  merges : t.merges = s.merges
  peek : ∀ a, t.peek a = s.peek a

section
variable {s : State} {r : MergeReq} {c : Cmd} (hc : s.cmd? r.cmd = some c)
include hc

/-- An open that a buffer takes leaves its command as it is. -/
theorem answered_open {va n : Nat} (hop : c.op = .mopen va n) : Answered s (s.mergeAnswer r none) r c := by
  have heq : s.mergeAnswer r none = { s with mergeQ := s.mergeQ.filter fun q => q ≠ r } := by
    rw [State.mergeAnswer]
    simp only [State.cmd?] at hc ⊢
    simp only [hc, hop]
  rw [heq]
  exact ⟨rfl, hc, rfl, fun _ => rfl⟩

/-- A request that fails, and a contribution, end their command. -/
theorem answered_stop {fail : Option Trap}
    (hop : (∃ va n, c.op = .mopen va n) ∧ fail ≠ none ∨ ∃ va n bank, c.op = .accmerge va n bank false) :
    Answered s (s.mergeAnswer r fail) r { c with phase := .stopped, fail := c.fail <|> fail } := by
  have hid : c.id = r.cmd := by simpa using List.find?_some hc
  have heq : s.mergeAnswer r fail = State.stopCmd { s with mergeQ := s.mergeQ.filter fun q => q ≠ r } r.cmd fail := by
    rw [State.mergeAnswer, ← hid]
    simp only [State.cmd?, ← hid] at hc ⊢
    rcases hop with ⟨⟨va, n, hop⟩, hfail⟩ | ⟨va, n, bank, hop⟩
    · obtain ⟨t, rfl⟩ := Option.ne_none_iff_exists'.mp hfail
      simp only [hc, hop]
    · simp [hc, hop]
  rw [heq]
  exact ⟨rfl, cmd?_stopCmd hc fail, rfl, fun _ => rfl⟩

/-- A contribution that a buffer takes. -/
theorem answered_contribution (hop : ∃ va n bank, c.op = .accmerge va n bank false) :
    Answered s (s.mergeAnswer r none) r { c with phase := .stopped } := by
  have h := answered_stop hc (fail := none) (.inr hop)
  rwa [Option.orElse_eq_orElse, Option.orElse_eq_or, Option.or_none] at h
end

theorem Answered.notMem {s t : State} {r : MergeReq} {e : Cmd} (h : Answered s t r e) : r ∉ t.mergeQ := by simp [h.mergeQ]
theorem Answered.mem {s t : State} {r : MergeReq} {e : Cmd} (h : Answered s t r e) {q : MergeReq} (hq : q ≠ r) :
    q ∈ t.mergeQ ↔ q ∈ s.mergeQ := by simp [h.mergeQ, hq]

/-! ## What a slice does with a request (R199, R200) -/

/-- A buffer that has taken a request. -/
def joined (r : MergeReq) (b : MergeBuf) : MergeBuf :=
  match r.data with
  | some d => { b with parts := b.parts ++ [d], uses := b.uses ++ [(r.asid, r.va)] }
  | none => { b with opener := some r.cmd, uses := b.uses ++ [(r.asid, r.va)] }
/-- A buffer has had all requests of this kind. -/
def spent (r : MergeReq) (b : MergeBuf) : Bool :=
  match r.data with | none => b.opener.isSome | some _ => decide (b.parts.length = b.n)
/-- The requests of a target that a buffer takes: those of its count and its second part, while it has not had them all. -/
def takes (r : MergeReq) (b : MergeBuf) : Prop := b.n = r.n ∧ b.p2 = r.p2 ∧ spent r b = false
/-- A buffer as its first request opens it. -/
def opened (r : MergeReq) : MergeBuf := joined r { p := r.p, p2 := r.p2, n := r.n, ms := r.ms }

theorem joined_open {r : MergeReq} (h : r.data = none) (b : MergeBuf) :
    joined r b = { b with opener := some r.cmd, uses := b.uses ++ [(r.asid, r.va)] } := by rw [joined, h]
theorem joined_contribution {r : MergeReq} {d : Sparse (Val 32)} (h : r.data = some d) (b : MergeBuf) :
    joined r b = { b with parts := b.parts ++ [d], uses := b.uses ++ [(r.asid, r.va)] } := by rw [joined, h]
theorem joined_p (r : MergeReq) (b : MergeBuf) : (joined r b).p = b.p := by
  unfold joined
  split
  · rfl
  · rfl
theorem spent_open {r : MergeReq} (h : r.data = none) (b : MergeBuf) : spent r b = b.opener.isSome := by rw [spent, h]
theorem spent_contribution {r : MergeReq} {d : Sparse (Val 32)} (h : r.data = some d) (b : MergeBuf) :
    spent r b = decide (b.parts.length = b.n) := by rw [spent, h]

/-- The buffer of a target. -/
def bufferOf (bs : List MergeBuf) (p : Nat) : Option MergeBuf := bs.find? fun b => b.p = p

theorem bufferOf_joined (bs : List MergeBuf) (r : MergeReq) (p : Nat) :
    bufferOf (bs.map fun x => if x.p = r.p then joined r x else x) p =
      (bufferOf bs p).map fun x => if x.p = r.p then joined r x else x := by
  have hp : (fun x : MergeBuf => decide ((if x.p = r.p then joined r x else x).p = p)) = fun x : MergeBuf => decide (x.p = p) := by
    funext x
    split
    · rw [joined_p]
    · rfl
  simp only [bufferOf, List.find?_map, Function.comp_def, hp]
theorem p_of_bufferOf {bs : List MergeBuf} {p : Nat} {b : MergeBuf} (h : bufferOf bs p = some b) : b.p = p := by
  simpa using List.find?_some h

section
variable {s : State} {r : MergeReq}

theorem mergeTake_takes {b : MergeBuf} (hb : bufferOf s.merges r.p = some b) (h : takes r b) :
    s.mergeTake r = State.mergeAnswer { s with merges := s.merges.map fun x => if x.p = r.p then joined r x else x } r none := by
  obtain ⟨hn, hp2, hspent⟩ := h
  rw [State.mergeTake, show s.merges.find? (fun b => b.p = r.p) = some b from hb]
  refine if_neg ?_
  rintro (hne | hne | hfull)
  · exact hne hn
  · exact hne hp2
  · exact absurd (hspent.symm.trans hfull) (by decide)
theorem mergeTake_overflows {b : MergeBuf} (hb : bufferOf s.merges r.p = some b) (h : ¬ takes r b) :
    s.mergeTake r = s.mergeAnswer r (some (mergeOverflow r)) := by
  rw [State.mergeTake, show s.merges.find? (fun b => b.p = r.p) = some b from hb]
  refine if_pos ?_
  by_contra hno
  rw [not_or, not_or, not_not, not_not, Bool.not_eq_true] at hno
  exact h hno
theorem mergeTake_opens (hb : bufferOf s.merges r.p = none) (h : (s.openIn r.slice).length < 8) :
    s.mergeTake r = State.mergeAnswer { s with merges := s.merges ++ [opened r] } r none := by
  rw [State.mergeTake, show s.merges.find? (fun b => b.p = r.p) = none from hb]
  exact if_pos h
theorem mergeTake_refuses (hb : bufferOf s.merges r.p = none) (h : 8 ≤ (s.openIn r.slice).length) :
    s.mergeTake r = { s with mergeQ := s.mergeQ.map fun q => if q = r then { q with refused := some s.gt } else q } := by
  rw [State.mergeTake, show s.merges.find? (fun b => b.p = r.p) = none from hb]
  exact if_neg (Nat.not_lt.mpr h)
end

/-! ## The close of a buffer (R45, R200) -/

/-- The buffer of a close freed, and its opener's command stopped. -/
def freed (u : State) (b : MergeBuf) : State :=
  let v := { u with merges := u.merges.filter fun x => x.p ≠ b.p }
  match b.opener with
  | some id => v.stopCmd id none
  | none => v

theorem freed_merges (u : State) (b : MergeBuf) : (freed u b).merges = u.merges.filter fun x => x.p ≠ b.p := by
  unfold freed
  cases b.opener with
  | none => rfl
  | some id => rfl
theorem freed_mergeQ (u : State) (b : MergeBuf) : (freed u b).mergeQ = u.mergeQ := by
  unfold freed
  cases b.opener with
  | none => rfl
  | some id => rfl

theorem freed_of_opener {b : MergeBuf} {o : Nat} (h : b.opener = some o) (u : State) :
    freed u b = State.stopCmd { u with merges := u.merges.filter fun x => x.p ≠ b.p } o none := by rw [freed, h]
theorem freed_cmd {u : State} {b : MergeBuf} {o : Nat} {e : Cmd} (h : b.opener = some o) (he : u.cmd? o = some e) :
    (freed u b).cmd? o = some { e with phase := .stopped } := by
  have hstop := cmd?_stopCmd (s := { u with merges := u.merges.filter fun x => x.p ≠ b.p }) he none
  rw [freed_of_opener h, hstop, Option.orElse_eq_orElse, Option.orElse_eq_or, Option.or_none]

theorem storedAt_congr {s t : State} {p n : Nat} {f g : Nat → Byte} (h : ∀ i, i < n → f i = g i) (hf : StoredAt s t p n f) :
    StoredAt s t p n g := by
  intro a
  rw [hf a]
  split
  next ha => exact h _ (by omega)
  next => rfl

/-- Lines written one after the other. -/
theorem storedAt_lines {p : Nat} {g : State → Nat → State} {f : Nat → Byte} (n : Nat)
    (hstep : ∀ u line, line < n → StoredAt u (g u line) (p + 128 * line) 128 fun i => f (128 * line + i)) (s : State) :
    StoredAt s ((List.range n).foldl g s) p (128 * n) f := by
  induction n with
  | zero =>
    intro a
    rw [if_neg (by omega)]
    rfl
  | succ n ih =>
    intro a
    rw [List.range_succ, List.foldl_append, List.foldl_cons, List.foldl_nil, hstep _ n n.lt_succ_self a,
      ih (fun u line h => hstep u line (Nat.lt_succ_of_lt h)) a]
    by_cases hline : p + 128 * n ≤ a
    · by_cases hin : a < p + 128 * (n + 1)
      · rw [if_pos ⟨hline, by omega⟩, if_pos ⟨by omega, hin⟩]
        exact congrArg f (by omega)
      · rw [if_neg (by omega), if_neg (by omega), if_neg (by omega)]
    · rw [if_neg (by omega)]
      exact if_congr (by omega) rfl rfl

/-- The contributions of a buffer to the element that holds byte `i` of the tile. -/
def terms (b : MergeBuf) (i : Nat) : List (Val 32) := b.parts.map fun d => d.get ⟨0, false⟩ (i / 4)
/-- Byte `i` of the tile that a buffer holds. -/
def tileByte (b : MergeBuf) (i : Nat) : Byte := (mergeSum (terms b i)).v.extractLsb' (8 * (i % 4)) 8

/-- A close writes memory, then frees the buffer; a tile on one page is written whole. -/
theorem mergeClose_eq (s : State) (b : MergeBuf) : ∃ u, OnlyMemory s u ∧ s.mergeClose b = freed u b ∧
    (b.p2 = none → b.p + 65536 ≤ 2 ^ 39 → StoredAt s u b.p 65536 (tileByte b)) := by
  refine ⟨_, .foldl _ (fun s line => State.poke_only s _ _ _ _) _ s, rfl, fun hp2 hfit => ?_⟩
  refine storedAt_lines 512 (fun u line hline => ?_) s
  simp only [hp2]
  have hplace : b.p + 4 * (32 * line) = b.p + 128 * line := by omega
  rw [hplace]
  refine storedAt_congr (fun i hi => ?_) (Pokes.storedAt_poke_hbm u _ _ (by omega) (by omega))
  have hword : (128 * line + i) / 4 = 32 * line + i / 4 := by omega
  have hlane : (128 * line + i) % 4 = i % 4 := by omega
  have hget : i / 4 < 32 := by omega
  simp only [tileByte, terms, hword, hlane]
  simp [List.getD_eq_getElem?_getD, hget]

/-- Byte `i` of the tile, from the sum of R45. -/
theorem tileByte_eq (b : MergeBuf) (i : Nat) : tileByte b i = if ((terms b i).any fun v => v.psn) = true then 0
    else byteOf (Fmt.f32.sum 0 ((terms b i).map fun v => Fmt.f32.value v.v.toNat)).1 (i % 4) := by
  have hlane : i % 4 = 0 ∨ i % 4 = 1 ∨ i % 4 = 2 ∨ i % 4 = 3 := by omega
  unfold tileByte mergeSum
  split
  · simp
  · generalize (Fmt.f32.sum 0 ((terms b i).map fun v => Fmt.f32.value v.v.toNat)).1 = x
    apply BitVec.eq_of_toNat_eq
    rw [byteOf, BitVec.extractLsb'_toNat, BitVec.toNat_ofNat, BitVec.toNat_ofNat, Nat.shiftRight_eq_div_pow]
    rcases hlane with h | h | h | h
    all_goals
      rw [h]
      omega

/-! ## The events -/

section
variable {s : State} {slice : BitVec 6} {r : MergeReq}
  (hr : s.mergeQ.find? (fun q => q.slice = slice.toNat ∧ q.refused.isNone) = some r)
include hr

theorem slice_of_next : r.slice = slice.toNat := by
  have h := List.find?_some hr
  simp only [decide_eq_true_eq] at h
  exact h.1
theorem exec_mergeOpen (h : r.data = none) : exec (.mergeOpen slice) s = .next (s.mergeHandle r) := by
  show execMergeOpen slice s = _
  rw [execMergeOpen, State.mergeNext, hr]
  simp only [h]
  rfl
theorem exec_mergeContribute (h : r.data ≠ none) : exec (.mergeContribute slice) s = .next (s.mergeHandle r) := by
  obtain ⟨d, hd⟩ := Option.ne_none_iff_exists'.mp h
  show execMergeContribute slice s = _
  rw [execMergeContribute, State.mergeNext, hr]
  simp only [hd]
  rfl
end

theorem mergeHandle_eq {s : State} {r : MergeReq} {bs : List MergeBuf} (h : (s.openIn r.slice).filter MergeBuf.full = bs) :
    s.mergeHandle r = (bs.foldl State.mergeClose s).mergeTake r := by rw [State.mergeHandle, h]

theorem exec_mergeClose {s : State} {slice : BitVec 6} {b : MergeBuf} (h : (s.openIn slice.toNat).find? MergeBuf.full = some b) :
    exec (.mergeClose slice) s = .next (s.mergeClose b) := by
  show execMergeClose slice s = _
  rw [execMergeClose, h]

theorem mergeClose_mergeQ (s : State) (b : MergeBuf) : (s.mergeClose b).mergeQ = s.mergeQ := by
  obtain ⟨u, honly, heq, -⟩ := mergeClose_eq s b
  rw [heq, freed_mergeQ, honly.rest]
theorem mergeClose_merges (s : State) (b : MergeBuf) : (s.mergeClose b).merges = s.merges.filter fun x => x.p ≠ b.p := by
  obtain ⟨u, honly, heq, -⟩ := mergeClose_eq s b
  rw [heq, freed_merges, honly.rest]

/-- Closed, the one complete buffer of a slice leaves none. -/
theorem full_mergeClose {s : State} {slice : Nat} {b : MergeBuf} (h : (s.openIn slice).filter MergeBuf.full = [b]) :
    ((s.mergeClose b).openIn slice).filter MergeBuf.full = [] := by
  rw [List.filter_eq_nil_iff]
  intro x hx hfull
  rw [State.openIn, mergeClose_merges, List.mem_filter, List.mem_filter] at hx
  obtain ⟨⟨hmem, hne⟩, hslice⟩ := hx
  have hin : x ∈ (s.openIn slice).filter MergeBuf.full := List.mem_filter.mpr ⟨List.mem_filter.mpr ⟨hmem, hslice⟩, hfull⟩
  rw [h, List.mem_singleton] at hin
  rw [hin] at hne
  simp at hne

/-- A request is handled as after the close of the buffer that is ready (R200). -/
theorem mergeHandle_after_close {s : State} {r : MergeReq} {b : MergeBuf} (h : (s.openIn r.slice).filter MergeBuf.full = [b]) :
    s.mergeHandle r = (s.mergeClose b).mergeHandle r := by
  rw [mergeHandle_eq h, mergeHandle_eq (full_mergeClose h)]
  rfl

/-- A refused request of the only command is sent again after a microsecond. -/
theorem exec_mergeResend {s : State} {q : MergeReq} {w : Nat} (hq : s.mergeQ = [q]) (hw : q.refused = some w) :
    exec (.mergeResend q.cmd) s =
      .next (if w + 65536000 ≤ s.gt then { s with mergeQ := [{ q with refused := none }] } else s) := by
  have hdue : s.mergeDue q.cmd = if w + 65536000 ≤ s.gt then some q else none := by
    rw [State.mergeDue, hq, List.find?_cons, List.find?_nil]
    simp only [hw, decide_true, Bool.true_and, show microsecond = 65536000 from rfl]
    by_cases h : w + 65536000 ≤ s.gt
    · simp [h]
    · simp [h]
  show execMergeResend q.cmd s = _
  rw [execMergeResend, hdue]
  by_cases h : w + 65536000 ≤ s.gt
  · simp [h, hq]
  · simp [h]

/-- A buffer with the count and the second part of its requests, an opener and contributions. -/
def Keeps (bs : List MergeBuf) (r : MergeReq) (o : Option Nat) (ps : List (Sparse (Val 32))) : Prop :=
  ∃ b, bufferOf bs r.p = some b ∧ b.n = r.n ∧ b.p2 = r.p2 ∧ b.opener = o ∧ b.parts = ps

section
variable {bs : List MergeBuf} {r : MergeReq} {b : MergeBuf}

theorem bufferOf_joined_same (hb : bufferOf bs r.p = some b) :
    bufferOf (bs.map fun x => if x.p = r.p then joined r x else x) r.p = some (joined r b) := by
  rw [bufferOf_joined, hb, Option.map_some, if_pos (p_of_bufferOf hb)]
theorem bufferOf_joined_other {p : Nat} (hp : p ≠ r.p) :
    bufferOf (bs.map fun x => if x.p = r.p then joined r x else x) p = bufferOf bs p := by
  rw [bufferOf_joined]
  cases h : bufferOf bs p with
  | none => rfl
  | some x => rw [Option.map_some, if_neg (by rwa [p_of_bufferOf h])]
theorem bufferOf_opened_same (hb : bufferOf bs r.p = none) : bufferOf (bs ++ [opened r]) r.p = some (opened r) := by
  have hp : (opened r).p = r.p := joined_p _ _
  rw [bufferOf] at hb
  rw [bufferOf, List.find?_append, hb]
  simp [hp]
theorem bufferOf_opened_other {p : Nat} (hp : p ≠ r.p) : bufferOf (bs ++ [opened r]) p = bufferOf bs p := by
  have hne : (opened r).p ≠ p := by
    rw [opened, joined_p]
    exact hp.symm
  rw [bufferOf, List.find?_append, bufferOf]
  simp [hne]

theorem keeps_open (hd : r.data = none) (hb : bufferOf bs r.p = some b) (hn : b.n = r.n) (hp2 : b.p2 = r.p2) :
    Keeps (bs.map fun x => if x.p = r.p then joined r x else x) r (some r.cmd) b.parts := by
  refine ⟨_, bufferOf_joined_same hb, ?_⟩
  rw [joined_open hd]
  exact ⟨hn, hp2, rfl, rfl⟩
theorem keeps_contribution {d : Sparse (Val 32)} (hd : r.data = some d) (hb : bufferOf bs r.p = some b) (hn : b.n = r.n) (hp2 : b.p2 = r.p2) :
    Keeps (bs.map fun x => if x.p = r.p then joined r x else x) r b.opener (b.parts ++ [d]) := by
  refine ⟨_, bufferOf_joined_same hb, ?_⟩
  rw [joined_contribution hd]
  exact ⟨hn, hp2, rfl, rfl⟩
theorem keeps_opened_open (hd : r.data = none) (hb : bufferOf bs r.p = none) : Keeps (bs ++ [opened r]) r (some r.cmd) [] := by
  refine ⟨_, bufferOf_opened_same hb, ?_⟩
  rw [opened, joined_open hd]
  exact ⟨rfl, rfl, rfl, rfl⟩
theorem keeps_opened_contribution {d : Sparse (Val 32)} (hd : r.data = some d) (hb : bufferOf bs r.p = none) :
    Keeps (bs ++ [opened r]) r none [d] := by
  refine ⟨_, bufferOf_opened_same hb, ?_⟩
  rw [opened, joined_contribution hd]
  exact ⟨rfl, rfl, rfl, rfl⟩
end

/-- Settles O36: a slice first closes what is ready, then its request joins, opens, overflows or is refused, by the buffer of the target; a
close writes its tile line by line. -/
theorem mergeBuffers : Obligations.MergeBuffers := by
  unfold Obligations.MergeBuffers
  intro s slice buffer inSlice full
  refine ⟨fun r b u hr hfull hclose => ?_, fun r c hr hc hfull => ?_, fun b o e hb hp2 hfit ho he => ?_, fun q m w hq hm hw => ?_⟩
  · have hone : (s.openIn r.slice).filter MergeBuf.full = [b] := by
      rw [slice_of_next hr]
      exact hfull
    have hfind : (s.openIn slice.toNat).find? MergeBuf.full = some b := by
      rw [← List.head?_filter, ← slice_of_next hr, hone, List.head?_cons]
    obtain rfl : s.mergeClose b = u := Host.Outcome.next.inj ((exec_mergeClose hfind).symm.trans hclose)
    have hr' : (s.mergeClose b).mergeQ.find? (fun q => q.slice = slice.toNat ∧ q.refused.isNone) = some r := by
      rw [mergeClose_mergeQ, hr]
    have hsame := mergeHandle_after_close hone
    exact ⟨fun h => by rw [exec_mergeOpen hr h, exec_mergeOpen hr' h, hsame],
      fun h => by rw [exec_mergeContribute hr h, exec_mergeContribute hr' h, hsame]⟩
  · intro handles failed done opens gives holds
    have hslice := slice_of_next hr
    have htake : s.mergeHandle r = s.mergeTake r := mergeHandle_eq (bs := []) (by rw [hslice]; exact hfull)
    have hopen : opens → exec (.mergeOpen slice) s = .next (s.mergeTake r) := fun h => (exec_mergeOpen hr h.1).trans (by rw [htake])
    have hgive : ∀ d, gives d → exec (.mergeContribute slice) s = .next (s.mergeTake r) := fun d h =>
      (exec_mergeContribute hr (by rw [h.1]; exact Option.some_ne_none d)).trans (by rw [htake])
    have hin : (s.openIn r.slice).length = inSlice.length := by rw [hslice]; rfl
    have answers : ∀ {j : Instr} {e : Cmd} {Q : State → Prop} {t : State} {ms : List MergeBuf}, exec j s = .next t →
        Answered { s with merges := ms } t r e → (∀ p, p ≠ r.p → bufferOf ms p = bufferOf s.merges p) → Q t → handles j e Q :=
      fun he h hother hQ => ⟨_, he, h.notMem, fun _ hq => h.mem hq, h.cmd, h.peek,
        fun p hp => (congrArg (bufferOf · p) h.merges).trans (hother p hp), hQ⟩
    have keeps : ∀ {t : State} {e : Cmd} {ms : List MergeBuf} {o : Option Nat} {ps : List (Sparse (Val 32))},
        Answered { s with merges := ms } t r e → Keeps ms r o ps → holds t o ps := fun h hk => (congrArg (Keeps · r _ _) h.merges).mpr hk
    refine ⟨fun b hb => ⟨fun ho => ⟨fun hfits => ?_, fun hmiss => ?_⟩, fun d hd => ⟨fun hfits => ?_, fun hmiss => ?_⟩⟩,
      fun hb hfree => ⟨fun ho => ?_, fun d hd => ?_⟩, fun hb hfull8 j hj => ?_⟩
    · obtain ⟨hd, va, n, hop⟩ := ho
      obtain ⟨⟨hn, hp2⟩, hfree⟩ := hfits
      have htakes : takes r b := ⟨hn, hp2, by rw [spent_open hd, hfree]; rfl⟩
      have hans := answered_open (s := { s with merges := s.merges.map fun x => if x.p = r.p then joined r x else x }) hc hop
      exact answers ((hopen ⟨hd, va, n, hop⟩).trans (by rw [mergeTake_takes hb htakes])) hans (fun p hp => bufferOf_joined_other hp)
        (keeps hans (keeps_open hd hb hn hp2))
    · obtain ⟨hd, va, n, hop⟩ := ho
      have hnot : ¬ takes r b := fun ⟨hn, hp2, hfree⟩ => hmiss ⟨⟨hn, hp2⟩, by simpa [spent_open hd] using hfree⟩
      have hans := answered_stop (s := s) hc (fail := some (mergeOverflow r)) (.inl ⟨⟨va, n, hop⟩, Option.some_ne_none _⟩)
      exact answers ((hopen ⟨hd, va, n, hop⟩).trans (by rw [mergeTake_overflows hb hnot])) hans (fun _ _ => rfl) hans.merges
    · obtain ⟨hdata, hop⟩ := hd
      obtain ⟨⟨hn, hp2⟩, hfree⟩ := hfits
      have htakes : takes r b := ⟨hn, hp2, by rw [spent_contribution hdata, decide_eq_false hfree]⟩
      have hans := answered_contribution (s := { s with merges := s.merges.map fun x => if x.p = r.p then joined r x else x }) hc hop
      exact answers ((hgive d ⟨hdata, hop⟩).trans (by rw [mergeTake_takes hb htakes])) hans (fun p hp => bufferOf_joined_other hp)
        (keeps hans (keeps_contribution hdata hb hn hp2))
    · obtain ⟨hdata, hop⟩ := hd
      have hnot : ¬ takes r b := fun ⟨hn, hp2, hfree⟩ => hmiss ⟨⟨hn, hp2⟩, by simpa [spent_contribution hdata] using hfree⟩
      have hans := answered_stop (s := s) hc (fail := some (mergeOverflow r)) (.inr hop)
      exact answers ((hgive d ⟨hdata, hop⟩).trans (by rw [mergeTake_overflows hb hnot])) hans (fun _ _ => rfl) hans.merges
    · obtain ⟨hd, va, n, hop⟩ := ho
      have hans := answered_open (s := { s with merges := s.merges ++ [opened r] }) hc hop
      exact answers ((hopen ⟨hd, va, n, hop⟩).trans (by rw [mergeTake_opens hb (hin.trans_lt hfree)])) hans
        (fun p hp => bufferOf_opened_other hp) (keeps hans (keeps_opened_open hd hb))
    · obtain ⟨hdata, hop⟩ := hd
      have hans := answered_contribution (s := { s with merges := s.merges ++ [opened r] }) hc hop
      exact answers ((hgive d ⟨hdata, hop⟩).trans (by rw [mergeTake_opens hb (hin.trans_lt hfree)])) hans
        (fun p hp => bufferOf_opened_other hp) (keeps hans (keeps_opened_contribution hdata hb))
    · rw [← mergeTake_refuses hb (hfull8.trans_eq hin.symm)]
      rcases hj with ⟨ho, rfl⟩ | ⟨d, hd, rfl⟩
      · exact hopen ho
      · exact hgive d hd
  · obtain ⟨u, honly, heq, hstored⟩ := mergeClose_eq s b
    refine ⟨_, exec_mergeClose hb, fun x => ?_, ?_, ?_, ?_⟩
    · rw [mergeClose_merges]
      simp
    · rw [heq, freed_cmd ho (by rw [honly.rest]; exact he)]
    · rw [heq, freed_of_opener ho]
      exact honly.ctxs
    · rw [heq, freed_of_opener ho]
      exact storedAt_congr (fun i _ => tileByte_eq b i) (hstored hp2 hfit)
  · subst hm
    rw [exec_mergeResend hq hw]
    exact ⟨fun h => by rw [if_pos h], fun h => by rw [if_neg (Nat.not_le.mpr h)]⟩

end Sys2Proof.Merging
end

section
/-! SUPPORT. What an idle core lets pass (R181 to R183): no nest runs on it, and no contribution of a merge holds a bank of its context. -/
namespace Sys2Proof.IdleCore
open Sys2Proof Sys2Proof.Machine

section
variable {s : State} (h : Idle s)
include h

theorem nestOn_none : s.nestOn (s.cur / 2) = none := by
  rw [State.nestOn, List.find?_eq_none]
  intro c hc
  simp [(h c hc).2]
theorem nestOf_none : s.nestOf s.cur = none := by rw [State.nestOf, nestOn_none h, Option.filter_none]
theorem bankHeld_false (n : Nat) : s.bankHeld (s.ctx s.cur).inc n = false := by
  rw [State.bankHeld, List.any_eq_false]
  intro c hc
  simp [(h c hc).1]
end

end Sys2Proof.IdleCore
end

section
/-! SUPPORT. The end of a slot that has changed, of its own bank, registers and token channels only. -/
namespace Sys2Proof.SlotEnds
open Sys2Proof Sys2Proof.Machine

/-- The slot that runs has changed of the banks its own only, and of that the registers and the token channels. -/
structure Acts (s u : State) : Prop where
  cur : u.cur = s.cur
  own : u.ctx s.cur = { s.ctx s.cur with regs := (u.ctx s.cur).regs, chans := (u.ctx s.cur).chans }
  others : ∀ k, k ≠ s.cur → u.ctx k = s.ctx k

theorem acts_refl (s : State) : Acts s s := ⟨rfl, rfl, fun _ _ => rfl⟩

/-- Banks replaced by others with the same state but registers and channels. -/
theorem acts_of_setCtx {s u : State} {r : Regs} {chans : Sparse Chan} (hcur : u.cur = s.cur)
    (h : u.ctxs = (s.setCtx s.cur { s.ctx s.cur with regs := r, chans }).ctxs) :
    Acts s u ∧ (u.ctx s.cur).regs = r ∧ (u.ctx s.cur).chans = chans := by
  have hctx : ∀ k, u.ctx k = (s.setCtx s.cur { s.ctx s.cur with regs := r, chans }).ctx k := fun k =>
    congrArg (fun cs => Sparse.get ({} : Ctx) cs k) h
  have hown := (hctx s.cur).trans (State.ctx_setCtx_same _ _ _)
  exact ⟨⟨hcur, by rw [hown], fun k hk => (hctx k).trans (State.ctx_setCtx_other _ _ _ _ hk)⟩, by rw [hown], by rw [hown]⟩

@[simp] theorem retired_chans (c : Ctx) (u : ExecUnit) : (c.retired u).chans = c.chans := by
  unfold Ctx.retired; dsimp only; split <;> rfl

section
variable {s u : State} (h : Acts s u)
include h

theorem Acts.trans {v : State} (h' : Acts u v) : Acts s v := by
  obtain ⟨hcur, hown, hothers⟩ := h
  obtain ⟨hcur', hown', hothers'⟩ := h'
  rw [hcur] at hown' hothers'
  exact ⟨hcur'.trans hcur, by rw [hown', hown], fun k hk => (hothers' k hk).trans (hothers k hk)⟩
theorem Acts.issue : (u.ctx s.cur).issue = (s.ctx s.cur).issue := by rw [h.own]

variable (run : Running s)
include run

theorem Acts.running : Running u := Banks.running_of_issue run h.cur (tgt := (s.ctx s.cur).issue.target) (by rw [h.own]) (by rw [h.own])
theorem Acts.goesTo : GoesTo s u.retire (s.ctx s.cur).issue.target :=
  Banks.goesTo_retire run h.cur (by rw [h.own]) (by rw [h.own]) (by rw [h.own]) (by rw [h.own])
theorem Acts.retire_others : ∀ k, k ≠ s.cur → u.retire.ctx k = s.ctx k := fun k hk =>
  ((Banks.retire_retires (h.running run)).others k (by rw [h.cur]; exact hk)).trans (h.others k hk)
theorem Acts.retire_regs : u.retire.regs = (u.ctx s.cur).regs := by
  rw [(Banks.retire_retires (h.running run)).regs, State.regs, h.cur]
theorem Acts.retire_chan (ch : Nat) : (u.retire.ctx s.cur).chan ch = (u.ctx s.cur).chan ch := by
  rw [State.retire_eq u (h.running run), h.cur, State.ctx_setCtx_same, Ctx.chan, retired_chans, Ctx.chan]
theorem Acts.retire_rest : u.retire = { u with asks := 0, reqs := u.retire.reqs, ctxs := u.retire.ctxs } :=
  (Banks.retire_retires (h.running run)).rest
end

end Sys2Proof.SlotEnds
end

section
/-! SUPPORT. The step of MMA (R44, R175 to R180). -/
namespace Sys2Proof.MatrixSteps
open Sys2Proof Sys2Proof.Machine Sys2Proof.Steps Sys2Proof.CleanReads

/-! ## Elements of the operands (R175) -/

section
variable (w : Nat) (get : Nat → Val 8) (o j : Nat)
/-- Element `j` of `w` bits in the bytes from `o` on, little-endian, and the poison of the bytes that hold it. -/
def fieldAt : Nat :=
  ((List.range ((w + 7) / 8)).map fun i => (get (o + j * w / 8 + i)).v.toNat * 256 ^ i).sum / 2 ^ (j * w % 8) % 2 ^ w
def fieldPoisoned : Bool := (List.range ((w + 7) / 8)).any fun i => (get (o + j * w / 8 + i)).psn
end

theorem elemAt_eq {w : Nat} (hw : w = 4 ∨ w = 8 ∨ w = 16) (get : Nat → Val 8) (o j : Nat) :
    elemAt get o w j = (fieldAt w get o j, fieldPoisoned w get o j) := by
  have hlt : ∀ a, (get a).v.toNat < 256 := fun a => (get a).v.isLt
  rcases hw with rfl | rfl | rfl
  · have hbyte : j * 4 / 8 = j / 2 := by omega
    have hshift : 2 ^ (j * 4 % 8) = 16 ^ (j % 2) := by
      rcases Nat.mod_two_eq_zero_or_one j with h | h
      · rw [h, show j * 4 % 8 = 0 by omega]
        rfl
      · rw [h, show j * 4 % 8 = 4 by omega]
        rfl
    simp [elemAt, fieldAt, fieldPoisoned, hbyte, hshift]
  · have hbyte : j * 8 / 8 = j := by omega
    have hshift : j * 8 % 8 = 0 := by omega
    simp [elemAt, fieldAt, fieldPoisoned, hbyte, hshift, Nat.mod_eq_of_lt (hlt _)]
  · have hbyte : j * 16 / 8 = 2 * j := by omega
    have hshift : j * 16 % 8 = 0 := by omega
    have h0 := hlt (o + 2 * j)
    have h1 := hlt (o + 2 * j + 1)
    simp [elemAt, fieldAt, fieldPoisoned, hbyte, hshift, List.range_succ]
    omega

theorem mmaBits_cases (f : Nat) : mmaBits f = 4 ∨ mmaBits f = 8 ∨ mmaBits f = 16 := by
  unfold mmaBits
  split
  · exact .inl rfl
  · split
    · exact .inr (.inr rfl)
    · exact .inr (.inl rfl)

/-- The products of signed bytes added modulo 2^32. -/
theorem foldl_products (x y : Nat → BitVec 8) (ks : List Nat) (acc : BitVec 32) :
    ks.foldl (fun t k => t + (x k).signExtend 32 * (y k).signExtend 32) acc =
      BitVec.ofInt 32 (acc.toInt + (ks.map fun k => (x k).toInt * (y k).toInt).sum) := by
  induction ks generalizing acc with
  | nil => simp
  | cons k ks ih =>
    rw [List.foldl_cons, ih, List.map_cons, List.sum_cons, ← Int.add_assoc, BitVec.ofInt_add, BitVec.ofInt_add _ (List.sum _),
      BitVec.ofInt_toInt, BitVec.ofInt_add, BitVec.ofInt_toInt, BitVec.ofInt_mul]
    rfl

/-- A step without block scale reads no scale. -/
theorem mmaElem_no_scale (s : State) (core : Nat) (m : MmaStep) (h : m.bs = false) (sa sb : Nat) (acc : Val 32) (i j : Nat) :
    s.mmaElem core { m with sa, sb } acc i j = s.mmaElem core m acc i j := by
  simp [State.mmaElem, State.mmaA, State.mmaB, h]

/-! ## The state that a step leaves -/

section
variable (s : State) (n : Nat) (m : MmaStep)

theorem mmaInto_eq : ∃ cores, s.mmaInto s.cur n m =
    { s.modRegs fun r => r.setBank n fun i j => s.mmaElem (s.cur / 2) m (s.regs.ra n i j) i j with cores } := ⟨_, rfl⟩

theorem ra_setBank (r : Regs) (f : Nat → Nat → Val 32) {k i j : Nat} (hi : i < 128) (hj : j < 128) :
    (r.setBank n f).ra k i j = if k = n then f i j else r.ra k i j := by
  simp only [Regs.ra, Regs.setBank, Sparse.get_putRange]
  by_cases h : k = n
  · subst h
    rw [if_pos (by omega), if_pos rfl, show (16384 * k + 128 * i + j - 16384 * k) / 128 = i by omega,
      show (16384 * k + 128 * i + j - 16384 * k) % 128 = j by omega]
  · rw [if_neg (by omega), if_neg h]
end

/-! ## The run of the slot -/

/-- The nest registers of the active copy, as an MMA slot reads them (R178). -/
def active (s : State) : Nest := fun i => s.regs.nactive.get 0 i
/-- The step that an MMA slot makes of operands in place. -/
def slotStep (s : State) (g bs z : Bool) (f : BitVec 3) (pa pb sa sb : Nat) : MmaStep :=
  { fmt := f.toNat, bs, zs := z, stg := g, apitch := (active s).apitch, bpitch := (active s).bpitch, a := pa, b := pb, sa, sb }

/-- The operands of an MMA slot lie in bounds, at `pa`, `pb` and, with block scale, `sa` and `sb` (R178 to R180). -/
structure Placed (s : State) (g bs : Bool) (f : BitVec 3) (xa xb : Word64) (pa pb sa sb : Nat) : Prop where
  alignA : xa.toNat % 32 = 0
  alignB : xb.toNat % 32 = 0
  apitch : (active s).apitch % 32 = 0
  bpitch : (active s).bpitch % 32 = 0
  rowsA : scratchPlace (s.cur / 2) xa.toNat (aExtent (active s).apitch) = some pa
  rowsB : if g then xb.toNat + bExtent f.toNat (active s).bpitch ≤ 65536 ∧ pb = xb.toNat
    else scratchPlace (s.cur / 2) xb.toNat (bExtent f.toNat (active s).bpitch) = some pb
  scales : bs = true → scratchPlace (s.cur / 2) (active s).ascb (scaleExtent f.toNat) = some sa ∧
    scratchPlace (s.cur / 2) (active s).bscb (scaleExtent f.toNat) = some sb

theorem run_mxAt {s : State} {x : Word64} {n p : Nat} (h : scratchPlace (s.cur / 2) x.toNat n = some p) : mxAt x n s = .ok (p, s) := by
  rw [mxAt, bind_reads, mxPlace, h]
  rfl

section
variable {s : State} {st g bs z : Bool} {d a b : BitVec 6} {f : BitVec 3} {pa pb sa sb : Nat}
  (ha : (s.old.rx a.toNat).psn = false)
include ha

theorem exec_mma_misaligned (hb : (s.old.rx b.toNat).psn = false) (h : (s.old.rx a.toNat).v.toNat % 32 ≠ 0) :
    exec (.mma st d a b g bs z f) s = .next (s.raise (.align (s.old.rx a.toNat).v)) := by
  show execMma d a b g bs z f s = _
  refine slotOut_raise ?_
  rw [bind_reads, bind_raiseIf_false _ ha, bind_xClean hb, bind_reads, bind_raiseIf_true]
  simp [h]

variable (hidle : Idle s) (hb : (s.old.rx b.toNat).psn = false)
  (h : Placed s g bs f (s.old.rx a.toNat).v (s.old.rx b.toNat).v pa pb sa sb)
include hidle hb h

theorem exec_mma : exec (.mma st d a b g bs z f) s =
    .next (s.mmaInto s.cur d.toNat (slotStep s g bs z f pa pb (if bs then sa else 0) (if bs then sb else 0))).retire := by
  obtain ⟨halA, halB, hap, hbp, hA, hB, hsc⟩ := h
  show execMma d a b g bs z f s = _
  refine slotOut_ok ?_
  have hrowsB : ∀ g' : Nat → M Unit, (if g then do
        raiseIf (65536 < (s.old.rx b.toNat).v.toNat + bExtent f.toNat (active s).bpitch) (.scratchBounds (s.old.rx b.toNat).v)
        let p ← pure (s.old.rx b.toNat).v.toNat
        g' p
      else do
        let p ← mxAt (s.old.rx b.toNat).v (bExtent f.toNat (active s).bpitch)
        g' p) s = g' pb s := by
    intro g'
    cases g
    · exact M.bind_ok (run_mxAt hB)
    · obtain ⟨hle, rfl⟩ := hB
      exact bind_raiseIf_false _ (by simpa using hle)
  have hscale : ∀ v p : Nat, v < 2 ^ 64 → (bs = true → scratchPlace (s.cur / 2) v (scaleExtent f.toNat) = some p) →
      (if bs then mxAt (BitVec.ofNat 64 v) (scaleExtent f.toNat) else pure 0) s = .ok (if bs then p else 0, s) := by
    intro v p hv hp
    cases bs
    · rfl
    · refine run_mxAt ?_
      rw [BitVec.toNat_ofNat, Nat.mod_eq_of_lt hv]
      exact hp rfl
  have hlt : ∀ lo, (((active s) 4).extractLsb' lo 24).toNat < 2 ^ 64 := fun lo => by
    have := (((active s) 4).extractLsb' lo 24).isLt
    omega
  rw [bind_reads, bind_raiseIf_false _ ha, bind_xClean hb, bind_reads,
    bind_raiseIf_false _ (by simp [halA]; exact hap)]
  refine (M.bind_ok (run_mxAt hA)).trans ?_
  rw [bind_raiseIf_false _ (by simp [halB]; exact hbp)]
  refine (hrowsB _).trans ?_
  refine (M.bind_ok (hscale _ sa (hlt 0) fun e => (hsc e).1)).trans ?_
  refine (M.bind_ok (hscale _ sb (hlt 24) fun e => (hsc e).2)).trans ?_
  rw [self, bind_reads, bind_reads, IdleCore.nestOn_none hidle, IdleCore.bankHeld_false hidle]
  rfl
end

/-! ## The fields of the slot and of the nest registers -/

theorem toNat_eq_three (f : BitVec 3) : f.toNat = 3 ↔ f = 3 := by
  rw [← BitVec.toNat_inj]
  rfl
theorem mmaBits_slot : ∀ f : BitVec 3, mmaBits f.toNat = if f = 2 then 4 else if f = 4 ∨ f = 5 then 16 else 8 := by decide
theorem mmaK_slot : ∀ f : BitVec 3, mmaK f.toNat = if f = 2 then 64 else if f = 4 ∨ f = 5 then 16 else 32 := by decide
theorem mmaBRow_slot : ∀ f : BitVec 3, mmaBRow f.toNat = 128 * mmaBits f.toNat / 8 := by decide
theorem mmaFmt_slot : ∀ f : BitVec 3,
    mmaFmt f.toNat = if f = 0 then Fmt.e4m3 else if f = 1 then .e5m2 else if f = 2 then .e2m1 else if f = 4 then .bf16 else .f16 := by decide

theorem apitch_eq (n : Nest) : n.apitch = (n 3).toNat % 2 ^ 20 :=
  (Power.toNat_extract (n 3) 0 20).trans (by simp)
theorem bpitch_eq (n : Nest) : n.bpitch = (n 3).toNat / 2 ^ 20 % 2 ^ 20 :=
  Power.toNat_extract (n 3) 20 20
theorem ascb_eq (n : Nest) : n.ascb = (n 4).toNat % 2 ^ 24 :=
  (Power.toNat_extract (n 4) 0 24).trans (by simp)
theorem bscb_eq (n : Nest) : n.bscb = (n 4).toNat / 2 ^ 24 % 2 ^ 24 :=
  Power.toNat_extract (n 4) 24 24

/-- What a step leaves of the state, when the slot has ended. -/
theorem mmaInto_retire {s : State} {n : Nat} {m : MmaStep} (run : Running s) :
    let t := (s.mmaInto s.cur n m).retire
    GoesTo s t (s.ctx s.cur).issue.target ∧ t.mem = s.mem ∧ t.psn = s.psn ∧ (∀ k, k ≠ s.cur → t.ctx k = s.ctx k) ∧
      t.regs = s.regs.setBank n fun i j => s.mmaElem (s.cur / 2) m (s.regs.ra n i j) i j := by
  obtain ⟨cores, hu⟩ := mmaInto_eq s n m
  obtain ⟨hacts, hregs, -⟩ : SlotEnds.Acts s (s.mmaInto s.cur n m) ∧ _ := SlotEnds.acts_of_setCtx (by rw [hu]; rfl) (by rw [hu]; rfl)
  have hrest := hacts.retire_rest run
  exact ⟨hacts.goesTo run, by rw [hrest, hu]; rfl, by rw [hrest, hu]; rfl, hacts.retire_others run, (hacts.retire_regs run).trans hregs⟩

/-- Without block scale the addresses of the scales do not count. -/
theorem mmaElem_slotStep (s : State) (core : Nat) (g bs z : Bool) (f : BitVec 3) (pa pb sa sb : Nat) (acc : Val 32) (i j : Nat) :
    s.mmaElem core (slotStep s g bs z f pa pb (if bs then sa else 0) (if bs then sb else 0)) acc i j =
      s.mmaElem core (slotStep s g bs z f pa pb sa sb) acc i j := by
  cases bs
  · exact mmaElem_no_scale s core (slotStep s g false z f pa pb sa sb) rfl 0 0 acc i j
  · rfl

/-! ## The elements that a slot's step reads (R175, R178) -/

section
variable (s : State) (g bs z : Bool) (f : BitVec 3) (pa pb sa sb : Nat)
theorem mmaA_slotStep (i k : Nat) : s.mmaA (slotStep s g bs z f pa pb sa sb) i k =
    (fieldAt (mmaBits f.toNat) s.peek (pa + i * (active s).apitch) k, fieldPoisoned (mmaBits f.toNat) s.peek (pa + i * (active s).apitch) k) :=
  elemAt_eq (mmaBits_cases _) _ _ _
theorem mmaB_slotStep (core k j : Nat) : s.mmaB core (slotStep s g bs z f pa pb sa sb) k j =
    (fieldAt (mmaBits f.toNat) (s.bByte core g) (pb + k * (active s).bpitch) j,
      fieldPoisoned (mmaBits f.toNat) (s.bByte core g) (pb + k * (active s).bpitch) j) :=
  elemAt_eq (mmaBits_cases _) _ _ _
end

/-- Settles O25, by the run of the slot and the arithmetic of one element. -/
theorem matrixMultiply : Obligations.MatrixMultiply := by
  unfold Obligations.MatrixMultiply
  intro s st g bs z d a b f run hidle ha hb hf hbs core n xa xb apitch bpitch sca scb w depth brow fmt staged bytesB at_ bad result
  refine ⟨exec_mma_misaligned ha hb, fun pa pb sa sb hxa hxb hap hbp hA hB hsc => ?_⟩
  have hw : mmaBits f.toNat = w := mmaBits_slot f
  have hdepth : mmaK f.toNat = depth := mmaK_slot f
  have hbrow : mmaBRow f.toNat = brow := (mmaBRow_slot f).trans (by rw [hw])
  have happ : (active s).apitch = apitch := apitch_eq _
  have hbpp : (active s).bpitch = bpitch := bpitch_eq _
  have hplaced : Placed s g bs f xa xb pa pb sa sb :=
    { alignA := hxa, alignB := hxb, apitch := happ ▸ hap, bpitch := hbpp ▸ hbp
      rowsA := by rw [aExtent, happ]; exact hA
      rowsB := by rw [bExtent, hdepth, hbrow, hbpp]; exact hB
      scales := fun e => by
        rw [scaleExtent, hdepth, ascb_eq, bscb_eq]
        exact hsc e }
  have hrun := exec_mma (st := st) (d := d) (z := z) ha hidle hb hplaced
  obtain ⟨hgoes, hmem, hpsn, hothers, hregs⟩ := mmaInto_retire (n := d.toNat)
    (m := slotStep s g bs z f pa pb (if bs then sa else 0) (if bs then sb else 0)) run
  refine ⟨_, hrun, hgoes, hmem, hpsn, by rw [hregs]; rfl, hothers, fun m i j hm hi hj => ?_, fun i j hi hj => ?_⟩
  · rw [hregs, ra_setBank _ _ _ hi hj, if_neg hm]
  · rw [hregs, ra_setBank _ _ _ hi hj, if_pos rfl]
    have hbytes : s.bByte (s.cur / 2) g = bytesB := by cases g <;> rfl
    rw [mmaElem_slotStep, State.mmaElem]
    simp only [mmaA_slotStep, mmaB_slotStep, hbytes, hw, happ, hbpp]
    simp only [slotStep, State.scaleAt, hdepth, mmaFmt_slot, toNat_eq_three, foldl_products]
    rfl
end Sys2Proof.MatrixSteps
end

section
/-! SUPPORT. Nest registers and accumulator moves (R177, R184, R188 to R192). -/
namespace Sys2Proof.MatrixRegisters
open Sys2Proof Sys2Proof.Machine Sys2Proof.Steps Sys2Proof.CleanReads

theorem nstate_eq (r : Regs) : r.nstate = BitVec.ofNat 64 (r.nrun.toNat * 2 ^ 63 + r.nsteps.toNat) := by
  have hsteps := r.nsteps.isLt
  have hrun : r.nrun.toNat ≤ 1 := Bool.toNat_le r.nrun
  refine BitVec.eq_of_toNat_eq ?_
  rw [Regs.nstate, ControlRegisters.toNat_append_add, ControlRegisters.toNat_append_add, BitVec.toNat_ofNat, BitVec.toNat_ofBool]
  simp only [BitVec.ofNat_eq_ofNat, BitVec.toNat_ofNat]
  omega

/-- No nest of the context runs: a slot of the active copy goes on. -/
theorem bind_nestWait {s : State} (h : Idle s) (g : Unit → M Unit) : (nestWait >>= g) s = g () s := by
  refine M.bind_ok ?_
  rw [nestWait, bind_reads, IdleCore.nestOf_none h]
  rfl

/-- NGET and NGET.A leave what they read in xD. -/
theorem reads_wx (r : Regs) (d : BitVec 6) {v w : Word64} (h : v = w) :
    OnlyX d.toNat r (r.wx d.toNat ⟨v, false⟩) ∧ (r.wx d.toNat ⟨v, false⟩).rx d.toNat = xAfter d ⟨w, false⟩ := by
  rw [h]
  exact Transfer.onlyX_link r d _

/-- NGET.A, with no nest of the context running. -/
theorem exec_ngetA {s : State} (st : Bool) (d i : BitVec 6) (h : Idle s) : exec (.ngetA st d i) s =
    slotOut (setRegs fun r => r.wx d.toNat ⟨if i = 7 then r.nstate else r.nactive.get 0 i.toNat, false⟩) s := by
  refine slotOut_congr ?_
  by_cases hi : i = 7
  · simp [hi]
  · rw [if_pos hi]
    exact bind_nestWait h _

/-- NSET, NGET and their active forms, on a core without a nest of the context. -/
theorem nestRegisters : Parts.NestRegisters := by
  intro s st d a i run hidle x n fields v state reads
  have hseven : i = 7 ↔ n = 7 := by
    rw [← BitVec.toNat_inj]
    rfl
  have hmask : nestMask n = fields := by
    simp only [fields]
    generalize n = n
    split <;> simp_all [nestMask]
  refine ⟨fun hp => raises_of_run rfl (bind_xClean_poisoned hp _), fun hp _ => ⟨?_, ?_⟩, fun hn => ⟨?_, ?_⟩, fun hn => ⟨?_, ?_⟩⟩
  · refine gives_setRegs run rfl (bind_xClean hp _) ⟨rfl, fun m => ?_⟩
    rw [Sparse.get_put, hmask]
  · refine gives_setRegs run rfl ((bind_xClean hp _).trans (bind_nestWait hidle _)) ⟨rfl, fun m => ?_⟩
    rw [Sparse.get_put, hmask]
  · exact gives_setRegs run rfl rfl (reads_wx _ _ (if_neg (hseven.not.mpr hn)))
  · exact gives_setRegs run (exec_ngetA st d i hidle) rfl (reads_wx _ _ (if_neg (hseven.not.mpr hn)))
  · exact gives_setRegs run rfl rfl (reads_wx _ _ ((if_pos (hseven.mpr hn)).trans (nstate_eq _)))
  · exact gives_setRegs run (exec_ngetA st d i hidle) rfl (reads_wx _ _ ((if_pos (hseven.mpr hn)).trans (nstate_eq _)))

/-! ## Accumulator moves (R177, R184) -/

theorem bind_accIndex {s : State} {b : BitVec 6} (h : (s.old.rx b.toNat).psn = false) (g : Nat × Nat → M Unit) :
    (accIndex b >>= g) s = g ((s.old.rx b.toNat).v.toNat / 2 % 128, (s.old.rx b.toNat).v.toNat % 2 * 64) s :=
  M.bind_ok (bind_xClean h _)
theorem bind_accIndex_poisoned {s : State} {b : BitVec 6} (h : (s.old.rx b.toNat).psn = true) (g : Nat × Nat → M Unit) :
    (accIndex b >>= g) s = .error (.raise (.poison (regTag 0 b.toNat))) := M.bind_error (bind_xClean_poisoned h _)
theorem bind_bankWait {s : State} (h : Idle s) (n : Nat) (g : Unit → M Unit) : (bankWait n >>= g) s = g () s := by
  refine M.bind_ok ?_
  rw [bankWait, self, bind_reads, bind_reads, bind_reads, IdleCore.nestOf_none h]
  refine (bind_reads _ _ _).trans ?_
  rw [IdleCore.bankHeld_false h]
  rfl

theorem ra_zeroBank (r : Regs) {n k i j : Nat} (hi : i < 128) (hj : j < 128) :
    (r.zeroBank n).ra k i j = if k = n then ⟨0, false⟩ else r.ra k i j := by
  simp only [Regs.ra, Regs.zeroBank, Sparse.get, Sparse.find_splice _ _ _ [] _ (by simp)]
  by_cases h : k = n
  · rw [if_pos (by omega), if_pos h]
    rfl
  · rw [if_neg (by omega), if_neg h]
theorem onlyV_wv (r : Regs) (n : Nat) (f : Nat → Val 32) : OnlyV n r (r.wv n f) :=
  ⟨rfl, fun m l hm hl => (Regs.rv_wv r n m l f hl).trans (if_neg hm)⟩

/-- ACCRD, ACCWR and ACCZ, on a core without a nest of the context. -/
theorem accumulatorMoves : Parts.AccumulatorMoves := by
  intro s st d a b run hidle x row half banks
  have hrow : row < 128 := Nat.mod_lt _ (by decide)
  refine ⟨fun hp => ⟨raises_of_run rfl (bind_accIndex_poisoned hp _), raises_of_run rfl (bind_accIndex_poisoned hp _)⟩,
    fun hp => ⟨?_, ?_⟩, ?_⟩
  · refine gives_setRegs run rfl ((bind_accIndex hp _).trans (bind_bankWait hidle _ _)) ⟨onlyV_wv _ _ _, rfl, fun l hl => ?_⟩
    rw [Regs.rv_wv _ _ _ _ _ hl, if_pos rfl]
    cases hact : s.old.active l <;> simp [hact, x, row, half]
  · refine gives_setRegs run rfl ((bind_accIndex hp _).trans (bind_bankWait hidle _ _)) ⟨rfl, fun n i j hi hj => ?_⟩
    rw [Regs.ra_wa _ _ _ _ _ _ _ hj hi hrow]
    show (if n = d.toNat ∧ i = row then (if half ≤ j ∧ j < half + 64 ∧ s.old.active (j - half) = true then s.old.rv a.toNat (j - half)
      else s.regs.ra d.toNat row j) else s.regs.ra n i j) = _
    by_cases h : n = d.toNat ∧ i = row
    · obtain ⟨rfl, rfl⟩ := h
      simp
    · rw [if_neg h]
      exact (if_neg fun ⟨hn, hrow, _⟩ => h ⟨hn, hrow⟩).symm
  · exact gives_setRegs run rfl (bind_bankWait hidle _ _) ⟨rfl, fun n i j hi hj => ra_zeroBank _ hi hj⟩
end Sys2Proof.MatrixRegisters
end

section
/-! SUPPORT. The start of a command by a slot of the MX queue (R181, R193, R199, R249, R250, R389): what an unhindered slot finds ready,
the token that it takes, and the state that it leaves. -/
namespace Sys2Proof.CommandStarts
open Sys2Proof Sys2Proof.Machine Sys2Proof.Steps Sys2Proof.CleanReads Sys2Proof.SlotEnds

/-! ## Nothing holds up an unhindered slot (R183, R250) -/

theorem slot_idx (s : State) : s.slot.idx = (s.ctx s.cur).issue.cur := by
  unfold State.slot
  dsimp only
  cases h : (s.ctx s.cur).issue.todo.find? fun q => q.idx = (s.ctx s.cur).issue.cur with
  | none => rfl
  | some q => simpa using List.find?_some h

section
variable {s : State} (h : Unhindered s)
include h

theorem deps_satisfied : (s.slot.deps.any fun t => !(s.ctx s.cur).satisfied t) = false := by
  rw [List.any_eq_false]
  intro t ht
  simp [h.deps t ht]

theorem bankBusy_false (bs : List Nat) : s.bankBusy bs = false := by
  unfold State.bankBusy
  dsimp only
  rw [Bool.or_eq_false_iff, Bool.or_eq_false_iff]
  refine ⟨⟨?_, ?_⟩, ?_⟩
  · rw [List.any_eq_false]
    intro b hb
    rw [Bool.not_eq_true, List.any_eq_false]
    intro q hq
    simp [(h.ahead b hb q hq).2]
  · rw [List.any_eq_false]
    intro q hq
    by_cases hlt : q.idx < (s.ctx s.cur).issue.cur
    · simp [(h.beside q hq hlt).2]
    · simp [hlt]
  · rw [List.any_eq_false]
    intro b _
    simp [IdleCore.bankHeld_false h.idle]

section
variable (tok : BitVec 32) (unit : CmdUnit) (op : CmdOp) (caps : List Cap) (xs : List Word64) (spans : List (Nat × Nat × Bool))

theorem depsDone_newCmd : s.depsDone (s.newCmd tok unit op caps xs spans) = true := by
  rw [State.depsDone, List.all_eq_true]
  intro t ht
  rw [State.tokenDone, State.chanAt, show (s.newCmd tok unit op caps xs spans).inc = (s.ctx s.cur).inc from rfl, h.placed]
  exact h.deps t ht
theorem blocked_newCmd : s.blocked (s.newCmd tok unit op caps xs spans) = false := by
  have hother : ∀ d ∈ s.cmds, d.ctx / 2 ≠ (s.newCmd tok unit op caps xs spans).ctx / 2 := fun d hd => (h.idle d hd).2
  have hboard : (s.core ((s.newCmd tok unit op caps xs spans).ctx / 2)).board = [] := h.board
  rw [State.blocked, hboard, Bool.and_eq_false_iff]
  right
  rw [List.any_nil, Bool.false_or, List.any_eq_false]
  intro d hd
  simp [hother d hd]
theorem fits_newCmd (hlen : spans.length ≤ 64) : s.fits (s.newCmd tok unit op caps xs spans) = true := by
  have hboard : (s.core ((s.newCmd tok unit op caps xs spans).ctx / 2)).board = [] := h.board
  have hown : (s.newCmd tok unit op caps xs spans).own.length ≤ spans.length := List.length_filter_le _ _
  rw [State.fits, hboard, decide_eq_true_eq, List.length_nil]
  omega
/-- A bundle in flight holds no older slot that accesses scratchpad. -/
theorem holds_newCmd {i : Issue} (hi : i ∈ (s.ctx s.cur).flight) : i.holds (s.newCmd tok unit op caps xs spans) = false := by
  rw [Issue.holds, List.any_eq_false]
  intro q hq
  rw [show (s.newCmd tok unit op caps xs spans).bundle = (s.ctx s.cur).issue.num from rfl,
    show (s.newCmd tok unit op caps xs spans).slot = (s.ctx s.cur).issue.cur from slot_idx s]
  rw [Ctx.flight, List.mem_append, List.mem_cons] at hi
  rcases hi with hi | rfl | hi
  · simp [(h.ahead i hi q hq).1]
  · by_cases hlt : q.idx < (s.ctx s.cur).issue.cur
    · simp [(h.beside q hq hlt).1]
    · simp [hlt]
  · have hnum := h.behind i hi
    simp [show ¬ i.num < (s.ctx s.cur).issue.num by omega, show i.num ≠ (s.ctx s.cur).issue.num by omega]
theorem olderSlot_newCmd : s.olderSlot (s.newCmd tok unit op caps xs spans) = false := by
  have hplaced : s.ctxOf (s.newCmd tok unit op caps xs spans).inc = some s.cur := h.placed
  have hflight : ((s.ctx s.cur).flight.any (·.holds (s.newCmd tok unit op caps xs spans))) = false := by
    rw [List.any_eq_false]
    intro i hi
    simp [holds_newCmd h _ _ _ _ _ _ hi]
  have himages : ([(s.ctx s.cur).img1, (s.ctx s.cur).img2].any fun i => i.any fun i =>
      (s.newCmd tok unit op caps xs spans).bundle ≤ i.last &&
        (i.older ++ [i.issue]).any (·.holds (s.newCmd tok unit op caps xs spans))) = false := by
    rw [List.any_eq_false]
    intro i hi
    cases i with
    | none => simp
    | some j =>
      have hlast : j.last < (s.newCmd tok unit op caps xs spans).bundle := h.images _ hi j rfl
      simp [hlast]
  rw [State.olderSlot, hplaced]
  dsimp only
  rw [hflight, himages, Bool.or_false, Bool.and_false]
theorem cmdReady_newCmd (hlen : spans.length ≤ 64) : s.cmdReady (s.newCmd tok unit op caps xs spans) = true := by
  rw [State.cmdReady, depsDone_newCmd h, fits_newCmd h _ _ _ _ _ _ hlen, blocked_newCmd h, olderSlot_newCmd h, Bool.or_true]
  rfl
end
end

/-! ## The token of a slot of the MX queue (R193, R389) -/

/-- The token that the slot has, or takes on channel `ch`. -/
def tokenOf (s : State) (ch : Nat) : BitVec 32 := s.slot.tok.getD (BitVec.ofNat 6 ch ++ ((s.ctx s.cur).chan ch).next)
/-- The bank of a context that has taken the next token of channel `ch` into tD. -/
def tokenBank (c : Ctx) (d ch : Nat) : Ctx :=
  { c with
    chans := c.chans.put ch { c.chan ch with next := (c.chan ch).next + 1 }
    regs := c.regs.wt d ⟨BitVec.ofNat 6 ch ++ (c.chan ch).next, false⟩ }
/-- The state when the slot has its token. -/
def tokened (s : State) (d ch : Nat) : State := if s.slot.tok = none then s.setCtx s.cur (tokenBank (s.ctx s.cur) d ch) else s

theorem takeToken_eq (s : State) (d ch : Nat) :
    (s.modCtx s.cur fun c => c.setChan ch { (s.ctx s.cur).chan ch with next := ((s.ctx s.cur).chan ch).next + 1 }).modRegs
      (fun r => r.wt d ⟨BitVec.ofNat 6 ch ++ ((s.ctx s.cur).chan ch).next, false⟩) = s.setCtx s.cur (tokenBank (s.ctx s.cur) d ch) := by
  simp [State.modRegs, tokenBank, Ctx.setChan]
theorem run_slotToken {s : State} {ch : Nat} (d : Nat) (h : s.slot.tok = none → Room s ch 1) :
    slotToken d ch s = .ok (tokenOf s ch, tokened s d ch) := by
  rw [slotToken, bind_reads, tokenOf, tokened]
  cases htok : s.slot.tok with
  | some t => rfl
  | none =>
    have hroom : ((s.ctx s.cur).chan ch).room 1 = true := decide_eq_true (h htok)
    show newToken d ch s = _
    rw [newToken, self, bind_reads, bind_reads, hroom, if_neg (by simp), if_pos rfl]
    exact congrArg (fun u => Except.ok (_, u)) (takeToken_eq s d ch)

section
variable (s : State) (d ch : Nat)

theorem tokened_eq : ∃ ctxs, tokened s d ch = { s with ctxs } := by
  unfold tokened
  split
  · exact ⟨_, rfl⟩
  · exact ⟨s.ctxs, rfl⟩
theorem tokened_acts : Acts s (tokened s d ch) := by
  unfold tokened
  split
  · exact (acts_of_setCtx (s := s) (u := s.setCtx s.cur (tokenBank (s.ctx s.cur) d ch)) rfl rfl).1
  · exact acts_refl s
theorem tokened_regs : ((tokened s d ch).ctx s.cur).regs = { s.regs with t := ((tokened s d ch).ctx s.cur).regs.t } := by
  unfold tokened
  split
  · rw [State.ctx_setCtx_same]
    rfl
  · rfl
theorem tokened_rt (m : Nat) : ((tokened s d ch).ctx s.cur).regs.rt m =
    if m = d ∧ s.slot.tok = none then ⟨tokenOf s ch, false⟩ else s.regs.rt m := by
  unfold tokened
  split
  next h =>
    rw [State.ctx_setCtx_same, tokenBank, Regs.rt_wt, tokenOf, h]
    simp [State.regs]
  next h => rw [if_neg fun h' => h h'.2, State.regs]
theorem tokened_chan : ((tokened s d ch).ctx s.cur).chan ch =
    if s.slot.tok = none then { (s.ctx s.cur).chan ch with next := ((s.ctx s.cur).chan ch).next + 1 } else (s.ctx s.cur).chan ch := by
  unfold tokened
  split
  · rw [State.ctx_setCtx_same, tokenBank, Ctx.chan, Sparse.get_put, if_pos rfl]
  · rfl
theorem peek_tokened : (tokened s d ch).peek = s.peek := by
  obtain ⟨ctxs, h⟩ := tokened_eq s d ch
  rw [h]
  rfl
theorem core_tokened (j : Nat) : (tokened s d ch).core j = s.core j := by
  obtain ⟨ctxs, h⟩ := tokened_eq s d ch
  rw [h]
  rfl
theorem newCmd_tokened (tok : BitVec 32) (unit : CmdUnit) (op : CmdOp) (caps : List Cap) (xs : List Word64)
    (spans : List (Nat × Nat × Bool)) : (tokened s d ch).newCmd tok unit op caps xs spans = s.newCmd tok unit op caps xs spans := by
  unfold tokened
  split
  · have hslot : (s.setCtx s.cur (tokenBank (s.ctx s.cur) d ch)).slot = s.slot := by
      rw [State.slot, State.setCtx_cur, State.ctx_setCtx_same]
      rfl
    rw [State.newCmd, State.newCmd, hslot, State.launchOf, State.setCtx_cur, State.ctx_setCtx_same]
    rfl
  · rfl
end

/-! ## The state that the slot leaves -/

/-- Banks as they were. -/
theorem acts_of_ctxs {s u : State} (hcur : u.cur = s.cur) (h : u.ctxs = s.ctxs) : Acts s u ∧ ∀ k, u.ctx k = s.ctx k := by
  have hctx : ∀ k, u.ctx k = s.ctx k := fun k => congrArg (fun cs => Sparse.get ({} : Ctx) cs k) h
  exact ⟨⟨hcur, by rw [hctx], fun k _ => hctx k⟩, hctx⟩

theorem swz_board (s : State) (e : Cmd) (j : Nat) : ((s.board e).core j).swz = (s.core j).swz := by
  rw [State.board, State.modCore_eq, State.core_setCore]
  split
  next h => rw [h]
  next => rfl

section
variable {s u : State} {i : Instr} {d : BitVec 6} {ch : Nat} {f : Regs → Regs} {P : State → Cmd → Prop} {e : Cmd} (run : Running s)
  (hexec : exec i s = .next u.retire) (hmem : u.mem = s.mem) (hswz : ∀ j, (u.core j).swz = (s.core j).swz)
  (hcmds : u.cmds = s.cmds ++ [e]) (htoken : e.token = tokenOf s ch) (hdeps : e.deps = s.slot.deps) (hctx : e.ctx = s.cur)
  (hinc : e.inc = (s.ctx s.cur).inc) (hP : P u.retire e)
include run hexec hmem hswz hcmds htoken hdeps hctx hinc hP

/-- A slot that has taken its token, changed registers and added its command has started it. -/
theorem starts_of (hacts : Acts (tokened s d.toNat ch) u)
    (hregs : (u.ctx s.cur).regs = { f s.regs with t := ((tokened s d.toNat ch).ctx s.cur).regs.t })
    (hchans : (u.ctx s.cur).chans = ((tokened s d.toNat ch).ctx s.cur).chans) : Starts s i d ch f P := by
  have hall := (tokened_acts s d.toNat ch).trans hacts
  have hrest := hall.retire_rest run
  have hretired := (hall.retire_regs run).trans hregs
  refine ⟨u.retire, e, hexec, hall.goesTo run, ?_, fun m => ?_, ?_, hall.retire_others run, ?_, ?_, htoken, hdeps, hctx, hinc, hP⟩
  · rw [hretired]
  · rw [hretired]
    exact tokened_rt s d.toNat ch m
  · rw [hall.retire_chan run, Ctx.chan, hchans]
    exact tokened_chan s d.toNat ch
  · refine Issuing.sameBytes_of_swz ?_ fun j => ?_
    · rw [hrest]
      exact hmem
    · rw [hrest]
      exact hswz j
  · rw [hrest]
    exact hcmds

/-- The same for a slot that changes no register but its token's. -/
theorem starts_of_ctxs (hf : f = id) (hcur : u.cur = s.cur) (hctxs : u.ctxs = (tokened s d.toNat ch).ctxs) : Starts s i d ch f P := by
  subst hf
  have hcur' : (tokened s d.toNat ch).cur = s.cur := (tokened_acts s d.toNat ch).cur
  obtain ⟨hacts, hsame⟩ := acts_of_ctxs (hcur.trans hcur'.symm) hctxs
  exact starts_of run hexec hmem hswz hcmds htoken hdeps hctx hinc hP hacts (by rw [hsame]; exact tokened_regs s d.toNat ch) (by rw [hsame])
end
end Sys2Proof.CommandStarts
end

section
/-! SUPPORT. OBCAST (R186). -/
namespace Sys2Proof.Broadcasts
open Sys2Proof Sys2Proof.Machine Sys2Proof.Steps Sys2Proof.CleanReads Sys2Proof.SlotEnds Sys2Proof.CommandStarts

/-- The bytes of a broadcast's source, and the command. -/
def sourceOf (s : State) (x : Word64) : Nat := scratchAddr (s.cur / 2) x.toNat
def broadcastSpans (s : State) (x y : Word64) (len : Nat) : List (Nat × Nat × Bool) :=
  if y.toNat / 65536 % 256 = 0 then [] else [(sourceOf s x, sourceOf s x + len, false)]
def broadcast (s : State) (x y : Word64) (len : Nat) : Cmd :=
  { s.newCmd (tokenOf s 8) .stage (.obcast (sourceOf s x) (y.toNat % 65536) len (y.toNat / 65536 % 256)) [] [x, y] (broadcastSpans s x y len) with
    phase := .running, raw := if y.toNat / 65536 % 256 = 0 then [] else s.peekN (sourceOf s x) len }
/-- The state in which the broadcast has started. -/
def broadcasting (s : State) (d : Nat) (x y : Word64) (len : Nat) : State :=
  ((tokened s d 8).addCmd (broadcast s x y len)).board (broadcast s x y len)

section
variable {s : State} {st : Bool} {d a b l : BitVec 6} (ha : (s.old.rx a.toNat).psn = false) (hb : (s.old.rx b.toNat).psn = false)
include ha hb

theorem exec_obcast_misaligned (h : (s.old.rx a.toNat).v.toNat % 32 ≠ 0) :
    exec (.obcast st d a b l) s = .next (s.raise (.align (s.old.rx a.toNat).v)) := by
  refine raises_of_run (m := _) rfl ?_
  rw [bind_xClean ha, bind_xClean hb]
  exact bind_raiseIf_true _ (decide_eq_true h)

variable (hx : (s.old.rx a.toNat).v.toNat % 32 = 0) (hy : (s.old.rx b.toNat).v.toNat % 65536 % 32 = 0)
include hx hy

theorem exec_obcast_outside (h : 2 ^ 20 < (s.old.rx a.toNat).v.toNat + (l.toNat + 1) * 1024) :
    exec (.obcast st d a b l) s = .next (s.raise (.scratchBounds (s.old.rx a.toNat).v)) := by
  refine raises_of_run (m := _) rfl ?_
  rw [bind_xClean ha, bind_xClean hb]
  refine (bind_raiseIf_false _ (by simp [hx])).trans ?_
  refine (bind_raiseIf_false _ (by simp [hy])).trans ?_
  exact bind_raiseIf_true _ (decide_eq_true h)

theorem exec_obcast (hlen : (s.old.rx a.toNat).v.toNat + (l.toNat + 1) * 1024 ≤ 2 ^ 20) (hyl : (s.old.rx b.toNat).v.toNat < 2 ^ 24)
    (hdst : (s.old.rx b.toNat).v.toNat % 65536 + (l.toNat + 1) * 1024 ≤ 65536) (h : Unhindered s) (hroom : s.slot.tok = none → Room s 8 1) :
    exec (.obcast st d a b l) s = .next
      (broadcasting s d.toNat (s.old.rx a.toNat).v (s.old.rx b.toNat).v ((l.toNat + 1) * 1024)).retire := by
  refine slotOut_ok ?_
  rw [bind_xClean ha, bind_xClean hb]
  refine (bind_raiseIf_false _ (by simp [hx])).trans ?_
  refine (bind_raiseIf_false _ (by simp [hy])).trans ?_
  refine (bind_raiseIf_false _ (decide_eq_false (by omega))).trans ?_
  refine (bind_raiseIf_false _ (decide_eq_false (by omega))).trans ?_
  rw [ownCore, bind_reads]
  refine (bind_reads _ _ _).trans ?_
  rw [cmdReady_newCmd h _ _ _ _ _ _ (by split <;> simp)]
  refine (M.bind_ok (run_slotToken _ hroom)).trans ?_
  refine congrArg (fun u => Except.ok ((), u)) ?_
  dsimp only
  rw [newCmd_tokened, State.peekN, peek_tokened]
  rfl
end

theorem broadcastStarts : Parts.Broadcast := by
  intro s st d a b l run ha hb x y len doff mask
  refine ⟨exec_obcast_misaligned ha hb, fun hx hy => exec_obcast_outside ha hb hx (by rwa [show 65536 = 2 ^ 16 from rfl]),
    fun hx hy hlen hyl hdst h hroom => ?_⟩
  have hexec := exec_obcast (st := st) (d := d) ha hb hx hy hlen hyl hdst h hroom
  obtain ⟨ctxs, hv⟩ := tokened_eq s d.toNat 8
  refine starts_of_ctxs (e := broadcast s x y len) run hexec ?_ (fun j => ?_) ?_ rfl rfl rfl rfl ⟨rfl, rfl, rfl, rfl⟩ rfl ?_ ?_
  · rw [broadcasting, hv]
    rfl
  · rw [broadcasting, swz_board, hv]
    rfl
  · rw [broadcasting, hv]
    rfl
  · rw [broadcasting, hv]
    rfl
  · rw [broadcasting, hv]
    rfl

end Sys2Proof.Broadcasts
end

section
/-! SUPPORT. The start of a nest (R183, R193, R195). -/
namespace Sys2Proof.NestStarts
open Sys2Proof Sys2Proof.Machine Sys2Proof.Steps Sys2Proof.CleanReads Sys2Proof.SlotEnds Sys2Proof.CommandStarts

/-- The shadow copy of the nest registers (R188). -/
def shadow (s : State) : Nest := fun i => s.regs.nshadow.get 0 i

/-! ## A nest that runs on the core (R183) -/

theorem nestOn_isSome {s : State} (h : ∃ c ∈ s.cmds, c.unit = .nest ∧ c.ctx / 2 = s.cur / 2 ∧ c.phase ≠ .queued) :
    (s.nestOn (s.cur / 2)).isSome = true := by
  obtain ⟨c, hc, hunit, hcore, hphase⟩ := h
  rw [State.nestOn, List.find?_isSome]
  exact ⟨c, hc, by simp [hunit, hcore, hphase]⟩

theorem ngo_stalls {s : State} (merge : Bool) (d a b : BitVec 6) (h : (s.nestOn (s.cur / 2)).isSome = true) :
    ngo merge d a b s = .next s.stall := by
  refine slotOut_again ?_
  rw [self, bind_reads, bind_reads, bind_reads, h]
  rfl

theorem waits_of_stall {s : State} {i : Instr} (h : exec i s = .next s.stall) : Waits s i := by
  obtain ⟨hregs, hissue, -⟩ := stall_waits s
  refine ⟨s.stall, h, by rw [hissue], ?_, hregs, fun _ => rfl⟩
  obtain ⟨waits, hown⟩ : ∃ waits, s.stall.ctx s.cur = { s.ctx s.cur with waits } := ⟨_, State.ctx_setCtx_same _ _ _⟩
  rw [hown]

/-! ## The checks (R193, R195) -/

/-- Without merging, a nest fails when its shadow copy is not valid, and else passes. -/
theorem ngoCheck_plain (s : State) : ngoCheck false 0 0 s =
    .ok (if (shadow s).valid (s.cur / 2) false then none else some { cause := 0x31 }, s) := by
  rw [ngoCheck, bind_reads, bind_reads, bind_reads, ownCore, bind_reads]
  show (if (!(shadow s).valid (s.cur / 2) false) = true then pure (some { cause := 0x31 }) else pure none : M (Option Trap)) s = _
  cases (shadow s).valid (s.cur / 2) false <;> rfl

/-! ## The promotion (R193) -/

theorem length_spans (n : Nest) (core : Nat) : (n.spans core).length ≤ 64 := by
  have hcount : n.count < 8 := ((n 0).extractLsb' 6 3).isLt
  have hdrains : ((List.range n.count).filter fun l => (n.level l).dr).length ≤ n.count :=
    (List.length_filter_le _ _).trans_eq List.length_range
  rw [Nest.spans]
  simp only [List.length_append, List.length_map, List.length_singleton]
  split <;> split <;> simp <;> omega

/-- The command of a nest that runs on the shadow copy. -/
def walk (s : State) (merge : Bool) (caps : List Cap) (xs : List Word64) : Cmd :=
  { s.newCmd (tokenOf s 8) .nest (.nest merge) caps xs ((shadow s).spans (s.cur / 2)) with
    phase := .running, path := (shadow s).lease, vals := (List.range 64).map fun i => (⟨shadow s i, false⟩ : Val 64) }

theorem ngo_promotes {s : State} {merge : Bool} {d a b : BitVec 6} (hcheck : ngoCheck merge a b s = .ok (none, s)) (h : Unhindered s)
    (hroom : s.slot.tok = none → Room s 8 1) : ngo merge d a b s = .next
      ((tokened s d.toNat 8).promote (walk s merge (if merge then [s.old.rc a.toNat] else [])
        (if merge then [(s.old.rx b.toNat).v] else []))).retire := by
  refine slotOut_ok ?_
  rw [self, bind_reads, bind_reads, bind_reads, IdleCore.nestOn_none h.idle, deps_satisfied h]
  refine (M.bind_ok hcheck).trans ?_
  dsimp only
  rw [bind_reads, bind_reads, bankBusy_false h]
  refine (bind_reads _ _ _).trans ?_
  refine (bind_reads _ _ _).trans ?_
  refine (bind_reads _ _ _).trans ?_
  rw [cmdReady_newCmd h _ _ _ _ _ _ (length_spans _ _)]
  refine (M.bind_ok (run_slotToken _ hroom)).trans ?_
  refine congrArg (fun u => Except.ok ((), u)) ?_
  dsimp only
  rw [newCmd_tokened]
  rfl

theorem promote_acts {s : State} {e : Cmd} (h : e.ctx = s.cur) : Acts s (s.promote e) ∧
    ((s.promote e).ctx s.cur).regs = { (s.ctx s.cur).regs with nactive := (s.ctx s.cur).regs.nshadow, nrun := true, nsteps := 0 } ∧
    ((s.promote e).ctx s.cur).chans = (s.ctx s.cur).chans := by
  rw [State.promote, h]
  exact acts_of_setCtx rfl rfl
theorem board_promote (s : State) (e : Cmd) : ((s.promote e).core (e.ctx / 2)).board = (s.core (e.ctx / 2)).board ++
    e.own.map fun r => { lo := r.1, hi := r.2.1, write := r.2.2, cmd := e.id, inc := e.inc, token := e.token } := by
  rw [State.promote, State.board, State.modCore_eq, State.core_setCore_same]
  rfl
/-- A promotion adds the command and its ranges. -/
theorem promote_eq (s : State) (e : Cmd) : ∃ ctxs, s.promote e = (State.addCmd { s with ctxs } e).board e := ⟨_, rfl⟩

/-- A slot that promotes its nest starts the walk. -/
theorem starts_of_promote {s : State} {i : Instr} {merge : Bool} {d : BitVec 6} {caps : List Cap} {xs : List Word64} (run : Running s)
    (hboard : (s.core (s.cur / 2)).board = [])
    (hexec : exec i s = .next ((tokened s d.toNat 8).promote (walk s merge caps xs)).retire) (P : Cmd → Prop) (hP : P (walk s merge caps xs)) :
    Starts s i d 8 (fun r => { r with nactive := r.nshadow, nrun := true, nsteps := 0 }) fun t e =>
      e.unit = .nest ∧ e.phase = .running ∧ e.pos = 0 ∧ (∀ i, i < 64 → e.vals.getD i ⟨0, false⟩ = ⟨shadow s i, false⟩) ∧
        e.path = (shadow s).lease ∧ e.spans = (shadow s).spans (s.cur / 2) ∧
        (t.core (s.cur / 2)).board.map (fun r => (r.lo, r.hi, r.write, r.cmd)) = e.own.map (fun r => (r.1, r.2.1, r.2.2, e.id)) ∧ P e := by
  have hcur : (tokened s d.toNat 8).cur = s.cur := (tokened_acts s d.toNat 8).cur
  obtain ⟨hacts, hregs, hchans⟩ := promote_acts (s := tokened s d.toNat 8) (e := walk s merge caps xs) hcur.symm
  rw [hcur] at hregs hchans
  have hrest := ((tokened_acts s d.toNat 8).trans hacts).retire_rest run
  have hranges : (((tokened s d.toNat 8).promote (walk s merge caps xs)).core (s.cur / 2)).board =
      (walk s merge caps xs).own.map fun r =>
        { lo := r.1, hi := r.2.1, write := r.2.2, cmd := s.nextCmd, inc := (s.ctx s.cur).inc, token := tokenOf s 8 } := by
    refine (board_promote (tokened s d.toNat 8) (walk s merge caps xs)).trans ?_
    rw [core_tokened, show (walk s merge caps xs).ctx = s.cur from rfl, hboard, List.nil_append]
    rfl
  obtain ⟨ctxs, hu⟩ := promote_eq (tokened s d.toNat 8) (walk s merge caps xs)
  obtain ⟨ctxs', hv⟩ := tokened_eq s d.toNat 8
  refine starts_of run hexec ?_ (fun j => ?_) ?_ rfl rfl rfl rfl ⟨rfl, rfl, rfl, fun j hj => by simp [walk, hj], rfl, rfl, ?_, hP⟩ hacts
    (hregs.trans ?_) hchans
  · rw [hu, hv]
    rfl
  · rw [hu, swz_board, hv]
    rfl
  · rw [hu, hv]
    rfl
  · rw [hrest]
    exact (congrArg (List.map _) hranges).trans (List.map_map ..)
  · rw [tokened_regs]

/-! ## A nest that fails its checks (R195) -/

theorem advance_keeps (x : Chan) (n : Nat) : (x.advance n).next = x.next ∧ (x.advance n).log = x.log := by
  induction n generalizing x with
  | zero => exact ⟨rfl, rfl⟩
  | succ n ih =>
    rw [Chan.advance]
    split
    · exact ih _
    · exact ⟨rfl, rfl⟩
theorem finish_keeps (x : Chan) (q : BitVec 26) : (x.finish q).next = x.next ∧ (x.finish q).log = x.log := by
  rw [Chan.finish]
  split
  · exact ⟨rfl, rfl⟩
  · exact advance_keeps _ _

theorem tokenSeq_append (c : BitVec 6) (q : BitVec 26) : tokenSeq (c ++ q) = q := by
  refine BitVec.eq_of_toNat_eq ?_
  have hq := q.isLt
  rw [tokenSeq, Power.toNat_extract, ControlRegisters.toNat_append_add]
  omega
theorem tokenChan_append (c : BitVec 6) (q : BitVec 26) : tokenChan (c ++ q) = c.toNat := by
  have hc := c.isLt
  have hq := q.isLt
  rw [tokenChan, Power.toNat_extract, ControlRegisters.toNat_append_add]
  omega

/-- A token that the slot has just taken is not satisfied (R390). -/
theorem tokened_not_satisfied {s : State} (d : Nat) (hroom : s.slot.tok = none → Room s 8 1)
    (h : ∀ t, s.slot.tok = some t → (s.ctx s.cur).satisfied t = false) : ((tokened s d 8).ctx s.cur).satisfied (tokenOf s 8) = false := by
  cases htok : s.slot.tok with
  | some t => simpa [tokened, tokenOf, htok] using h t htok
  | none =>
    have hnext : (((s.ctx s.cur).chan 8).next - ((s.ctx s.cur).chan 8).w).toNat + 1 < 2 ^ 25 := hroom htok
    have hchan : tokenChan (tokenOf s 8) = 8 := by
      rw [tokenOf, htok]
      exact tokenChan_append _ _
    have hseq : tokenSeq (tokenOf s 8) = ((s.ctx s.cur).chan 8).next := by
      rw [tokenOf, htok]
      exact tokenSeq_append _ _
    rw [Ctx.satisfied, hchan, hseq, tokened_chan, if_pos htok]
    generalize (s.ctx s.cur).chan 8 = x at *
    have hlt : (x.next - x.w).toNat < (x.next + 1 - x.w).toNat := by bv_omega
    exact congrArg not (decide_eq_true hlt)

/-- The channel of a nest whose checks have failed with NEST_INVALID. -/
def failedChan (x : Chan) (q : BitVec 26) : Chan := (x.fail q 0x31).finish q
/-- The state in which the token of the nest has failed. -/
def failedNest (s : State) (d : Nat) : State :=
  let x := ((tokened s d 8).ctx s.cur).chan 8
  let y := failedChan x (tokenSeq (tokenOf s 8))
  (((tokened s d 8).modCtx s.cur fun e => e.setChan 8 y).crossChan (s.ctx s.cur).inc 8 x.w y.w).settleBars (s.ctx s.cur).inc (tokenOf s 8) true

theorem ngo_invalid {s : State} {d : BitVec 6} (hvalid : (shadow s).valid (s.cur / 2) false = false) (h : Unhindered s)
    (hroom : s.slot.tok = none → Room s 8 1) (hsat : ∀ t, s.slot.tok = some t → (s.ctx s.cur).satisfied t = false) :
    ngo false d 0 0 s = .next ((failedNest s d.toNat).raise { cause := 0x31 }) := by
  have hcheck : ngoCheck false 0 0 s = .ok (some { cause := 0x31 }, s) := by rw [ngoCheck_plain, hvalid]; rfl
  refine slotOut_gone ?_
  rw [self, bind_reads, bind_reads, bind_reads, IdleCore.nestOn_none h.idle, deps_satisfied h]
  refine (M.bind_ok hcheck).trans ?_
  dsimp only
  refine (M.bind_ok (run_slotToken _ hroom)).trans ?_
  rw [tokened_not_satisfied _ hroom hsat, (tokened_acts s d.toNat 8).own]
  rfl

section
variable (s : State) (d : Nat)

theorem failedNest_ctx : (failedNest s d).ctx s.cur =
    ((tokened s d 8).ctx s.cur).setChan 8 (failedChan (((tokened s d 8).ctx s.cur).chan 8) (tokenSeq (tokenOf s 8))) :=
  State.ctx_setCtx_same _ _ _
theorem failedNest_chan :
    ((failedNest s d).ctx s.cur).chan 8 = failedChan (((tokened s d 8).ctx s.cur).chan 8) (tokenSeq (tokenOf s 8)) := by
  rw [failedNest_ctx, Ctx.setChan, Ctx.chan, Sparse.get_put, if_pos rfl]
theorem failedNest_regs : (failedNest s d).regs = ((tokened s d 8).ctx s.cur).regs := by
  rw [State.regs, show (failedNest s d).cur = s.cur from (tokened_acts s d 8).cur, failedNest_ctx]
  rfl
end

theorem failedChan_eq {x : Chan} (q : BitVec 26) (h : x.log.length < 4) :
    (failedChan x q).next = x.next ∧ (failedChan x q).log = x.log ++ [(q, 0x31)] := by
  have hfail : x.fail q 0x31 = { x with log := x.log ++ [(q, 0x31)] } := if_pos h
  obtain ⟨hnext, hlog⟩ := finish_keeps (x.fail q 0x31) q
  exact ⟨by rw [failedChan, hnext, hfail], by rw [failedChan, hlog, hfail]⟩

theorem nestStart : Parts.NestStart := by
  intro s st d a b run core n x seq walks
  refine ⟨fun h => ⟨?_, ?_⟩, fun h hroom => ⟨fun hvalid => ?_, fun hcheck => ?_, fun hvalid hlog hsat => ?_⟩⟩
  · exact waits_of_stall (ngo_stalls false d 0 0 (nestOn_isSome h))
  · exact waits_of_stall (ngo_stalls true d a b (nestOn_isSome h))
  · have hcheck : ngoCheck false 0 0 s = .ok (none, s) := by
      rw [ngoCheck_plain]
      exact congrArg (fun o => Except.ok (o, s)) (if_pos hvalid)
    exact starts_of_promote (i := .ngo st d) (merge := false) (caps := []) (xs := []) run h.board
      (ngo_promotes (merge := false) hcheck h hroom) (fun e => e.op = .nest false) rfl
  · exact starts_of_promote (i := .ngoM st d a b) (merge := true) (caps := [s.old.rc a.toNat]) (xs := [(s.old.rx b.toNat).v]) run h.board
      (ngo_promotes (merge := true) hcheck h hroom)
      (fun e => e.op = .nest true ∧ e.caps = [s.old.rc a.toNat] ∧ e.xs = [(s.old.rx b.toNat).v]) ⟨rfl, rfl, rfl⟩
  · have hseq : tokenSeq (tokenOf s 8) = seq := by
      rw [tokenOf]
      cases htok : s.slot.tok with
      | some t => simp [seq, htok, tokenSeq]
      | none => simp [seq, htok, tokenSeq_append, x]
    have hchan : ((tokened s d.toNat 8).ctx s.cur).chan 8 = if s.slot.tok = none then { x with next := x.next + 1 } else x :=
      tokened_chan s d.toNat 8
    have htaken : (((tokened s d.toNat 8).ctx s.cur).chan 8).log = x.log := by
      rw [hchan]
      split <;> rfl
    obtain ⟨hnext, hfault⟩ := failedChan_eq (tokenSeq (tokenOf s 8)) (htaken ▸ hlog)
    have hregs : (failedNest s d.toNat).regs = { s.regs with t := ((tokened s d.toNat 8).ctx s.cur).regs.t } :=
      (failedNest_regs s d.toNat).trans (tokened_regs s d.toNat 8)
    refine ⟨failedNest s d.toNat, ngo_invalid hvalid h hroom hsat, ?_, ?_, by rw [hregs], by rw [hregs], fun htok => ?_⟩
    · rw [failedNest_chan, hnext, hchan]
      split <;> rfl
    · rw [failedNest_chan, hfault, htaken, hseq]
    · rw [failedNest_regs, tokened_rt, if_pos ⟨rfl, htok⟩, tokenOf, htok]
      rfl

/-- Settles O26, by the accesses to the nest registers and the start of a nest. -/
theorem nestsOfLoops : Obligations.NestsOfLoops := ⟨MatrixRegisters.nestRegisters, nestStart⟩

end Sys2Proof.NestStarts
end

section
/-! SUPPORT. The tile of a merge in memory (R181, R198, R259): its pieces, one for each 64 KiB unit, and its elements. -/
namespace Sys2Proof.MergeTiles
open Sys2Proof Sys2Proof.Machine Sys2Proof.Steps Sys2Proof.Issuing Sys2Proof.Departures

/-! ## Translation within a unit -/

theorem physical_base (leaf : Word64) (size va : Nat) :
    physical leaf size (va / 0x10000 * 0x10000) = physical leaf size va / 0x10000 * 0x10000 := by
  obtain ⟨c, hc⟩ := page_dvd size
  rw [physical, physical, hc]
  have hmod : ∀ x : Nat, x % (0x10000 * c) = x % 0x10000 + 0x10000 * (x / 0x10000 % c) := fun x => Nat.mod_mul
  rw [hmod, hmod]
  have hdiv : va / 0x10000 * 0x10000 / 0x10000 = va / 0x10000 := Nat.mul_div_cancel _ (by decide)
  rw [hdiv]
  omega
theorem inHbm_iff (s : State) (pa : Nat) : s.inHbm pa = true ↔ pa / 2 ^ 50 = s.peer ∧ pa % 2 ^ 50 < 0x8000000000 := by
  rw [State.inHbm, Bool.and_eq_true, decide_eq_true_eq, decide_eq_true_eq, Cohorts.region_eq_hbm_iff]
theorem inHbm_base {s : State} {pa : Nat} (h : s.inHbm pa = true) : s.inHbm (pa / 0x10000 * 0x10000) = true := by
  rw [inHbm_iff] at *
  omega
theorem target_of_inHbm {s : State} {pa : Nat} (h : s.inHbm pa = true) : s.target pa = .mem := by
  rw [State.inHbm, Bool.and_eq_true, decide_eq_true_eq, decide_eq_true_eq] at h
  exact target_mem h.1 (by rw [h.2]; simp)

/-- The TLB entry `e` maps `va` to HBM of this device, with leave to write. -/
structure Writes (s : State) (unit asid va : Nat) (e : TlbEntry) : Prop where
  canon : canonical va = true
  hit : (s.tlb unit).find? (fun e => e.maps asid va) = some e
  write : leafW e.leaf = true
  hbm : s.inHbm (physical e.leaf e.size va) = true

/-- What leads an address leads the start of its unit. -/
theorem Writes.unit {s : State} {unit asid va : Nat} {e : TlbEntry} (h : Writes s unit asid va e) :
    Writes s unit asid (va / 0x10000 * 0x10000) e := by
  obtain ⟨hcanon, hhit, hwrite, hhbm⟩ := h
  refine ⟨(canonical_unit va).trans hcanon, ?_, hwrite, ?_⟩
  · rw [← hhit]
    exact congrArg (fun f => List.find? f (s.tlb unit)) (funext fun x => maps_unit x asid va)
  · rw [physical_base]
    exact inHbm_base hhbm

/-! ## The pieces of a tile -/

/-- The piece of `len` bytes at `va`, at offset `off` of its access, that the entry `e` maps. -/
def pieceAt (e : TlbEntry) (va off len : Nat) : Piece := { va, off, len, leaf := e.leaf, pa := physical e.leaf e.size va }
/-- The pieces of a tile at `va`, whose first byte is mapped by `e`, its last by `e'`. -/
def tilePieces (e e' : TlbEntry) (va : Nat) : List Piece :=
  pieceAt e va 0 (0x10000 - va % 0x10000) ::
    if va % 0x10000 = 0 then [] else [pieceAt e' ((va + 65535) / 0x10000 * 0x10000) (0x10000 - va % 0x10000) (va % 0x10000)]

theorem spreadFrom_hit {s : State} {unit asid va0 va fuel off n len : Nat} {e : TlbEntry} {r : Spread} (hn : n ≠ 0)
    (hva : (va0 + off) % 2 ^ 64 = va) (h : Writes s unit asid va e) (hlen : min n (0x10000 - va % 0x10000) = len)
    (hrest : spreadFrom unit asid va0 fuel (off + len) (n - len) s = (s, r)) :
    spreadFrom unit asid va0 (fuel + 1) off n s = (s, { r with ps := pieceAt e va off len :: r.ps }) := by
  obtain ⟨hcanon, hhit, hwrite, hhbm⟩ := h
  have hlocal : physical e.leaf e.size va / 2 ^ 50 = s.peer := ((inHbm_iff _ _).mp hhbm).1
  rw [spreadFrom, hva, translate_hit hcanon hhit]
  · dsimp only
    rw [hlen, hrest, governs_local hlocal, pieceAt]
  · exact hn
theorem spreadFrom_done (s : State) (unit asid va0 fuel off : Nat) : spreadFrom unit asid va0 fuel off 0 s = (s, {}) := by
  cases fuel <;> rfl

theorem lt_of_canonical {va : Nat} (h : canonical va = true) : va < 2 ^ 64 := by
  rw [canonical, Bool.or_eq_true, decide_eq_true_eq, decide_eq_true_eq] at h
  omega

section
variable {s : State} {unit asid va : Nat} {e e' : TlbEntry} (h : Writes s unit asid va e) (h' : Writes s unit asid (va + 65535) e')
include h h'

theorem spread_tile : s.spread unit asid va 65536 = (s, { ps := tilePieces e e' va }) := by
  have hlt := lt_of_canonical h'.canon
  have hva : (va + 0) % 2 ^ 64 = va := Nat.mod_eq_of_lt (by omega)
  have hlen : min 65536 (0x10000 - va % 0x10000) = 0x10000 - va % 0x10000 := by omega
  rw [State.spread, tilePieces]
  by_cases h0 : va % 0x10000 = 0
  · rw [if_pos h0]
    refine spreadFrom_hit (r := {}) (by decide) hva h hlen ?_
    rw [show 65536 - (0x10000 - va % 0x10000) = 0 by omega, spreadFrom_done]
  · have hnext : (va + (0 + (0x10000 - va % 0x10000))) % 2 ^ 64 = (va + 65535) / 0x10000 * 0x10000 := by
      rw [Nat.mod_eq_of_lt (by omega)]
      omega
    rw [if_neg h0]
    refine spreadFrom_hit (r := { ps := [pieceAt e' ((va + 65535) / 0x10000 * 0x10000) (0x10000 - va % 0x10000) (va % 0x10000)] })
      (by decide) hva h hlen ?_
    rw [show 65536 - (0x10000 - va % 0x10000) = va % 0x10000 by omega]
    refine (spreadFrom_hit (r := {}) h0 hnext h'.unit (len := va % 0x10000) (by omega) ?_).trans ?_
    · rw [Nat.sub_self, spreadFrom_done]
    · rw [Nat.zero_add]

theorem mem_tilePieces {p : Piece} (hp : p ∈ tilePieces e e' va) :
    p.here = true ∧ leafW p.leaf = true ∧ s.inHbm p.pa = true ∧ (p.leaf = e.leaf ∨ p.leaf = e'.leaf) := by
  have hunit := h'.unit
  rw [tilePieces, List.mem_cons] at hp
  rcases hp with rfl | hp
  · exact ⟨rfl, h.write, h.hbm, .inl rfl⟩
  · split at hp
    · cases hp
    · obtain rfl := List.mem_singleton.mp hp
      exact ⟨rfl, hunit.write, hunit.hbm, .inr rfl⟩
theorem refusal_tile (sn : Bool) : s.refusal (tilePieces e e' va) .write sn = none := by
  have hremote : ((tilePieces e e' va).find? fun p => p.here && s.target p.pa = .remote && !sn) = none := by
    rw [List.find?_eq_none]
    intro p hp
    obtain ⟨-, -, hhbm, -⟩ := mem_tilePieces h h' hp
    simp [target_of_inHbm hhbm]
  have hbad : ((tilePieces e e' va).find? fun p => p.here && (!Need.ok .write p.leaf || s.target p.pa = .bad || s.noWindow p .write)) = none := by
    rw [List.find?_eq_none]
    intro p hp
    obtain ⟨-, hwrite, hhbm, -⟩ := mem_tilePieces h h' hp
    simp [target_of_inHbm hhbm, Need.ok, hwrite, State.noWindow]
  rw [State.refusal, hremote, hbad]
end

/-! ## The elements of a tile -/

theorem find_shift (m : Sparse (Val 32)) {lo a : Nat} (h : ∀ e ∈ m, lo ≤ e.1) :
    Sparse.find (m.map fun e => (e.1 - lo, e.2)) a = Sparse.find m (lo + a) := by
  induction m with
  | nil => rfl
  | cons e m ih =>
    have hlo := h e (List.mem_cons_self ..)
    rw [List.map_cons, Sparse.find, Sparse.find, ih fun x hx => h x (List.mem_cons_of_mem _ hx)]
    by_cases he : e.1 = lo + a
    · rw [if_pos (by simp; omega), if_pos he]
    · rw [if_neg (by simp; omega), if_neg he]
theorem get_tile (r : Regs) (n i j : Nat) (hi : i < 128) (hj : j < 128) :
    (r.tile n).get ⟨0, false⟩ (128 * i + j) = r.ra n i j := by
  have hbank : ∀ e ∈ r.a.filter fun e => 16384 * n ≤ e.1 ∧ e.1 < 16384 * (n + 1), 16384 * n ≤ e.1 := by
    intro e he
    have hrange := (List.mem_filter.mp he).2
    simp only [decide_eq_true_eq] at hrange
    exact hrange.1
  rw [Regs.tile, Sparse.get, find_shift _ hbank, Regs.ra, Sparse.get, ← Nat.add_assoc]
  refine congrArg (Option.getD · _) ?_
  refine (Sparse.find_filter r.a (fun k => decide (16384 * n ≤ k ∧ k < 16384 * (n + 1))) _).trans (if_pos ?_)
  simp only [decide_eq_true_eq]
  omega
end Sys2Proof.MergeTiles
end

section
/-! SUPPORT. MOPEN and ACCMERGE (R181, R198, R199, R228). -/
namespace Sys2Proof.MergeStarts
open Sys2Proof Sys2Proof.Machine Sys2Proof.Steps Sys2Proof.CleanReads Sys2Proof.SlotEnds Sys2Proof.CommandStarts Sys2Proof.MergeTiles

/-! ## The target (R198, R259) -/

/-- The address of the target of a merge form. -/
def targetOf (s : State) (a b : BitVec 6) : Nat := ((s.old.rc a.toNat).base + (s.old.rx b.toNat).v.toNat) % 2 ^ 64

theorem capCheck_ok {s : State} {n va size : Nat} {c : Cap} {need : BitVec 8} (h : c.check va size need = none) :
    capCheck n c va size need s = .ok ((), s) := by
  rw [capCheck, h]
  rfl

section
variable {s : State} {a b : BitVec 6} (hcheck : (s.old.rc a.toNat).check (targetOf s a b) 65536 permW = none)
include hcheck

theorem capSpread_tile {e e' : TlbEntry} (h : Writes s (s.cur / 2) (s.launchOf s.cur).asid (targetOf s a b) e)
    (h' : Writes s (s.cur / 2) (s.launchOf s.cur).asid (targetOf s a b + 65535) e') :
    capSpread a.toNat (s.old.rc a.toNat) (targetOf s a b) 65536 1 permW .write true s = .ok (tilePieces e e' (targetOf s a b), s) := by
  have habsent : ({ ps := tilePieces e e' (targetOf s a b) } : Spread).absent = [] := by
    rw [Spread.absent, List.map_eq_nil_iff, List.filter_eq_nil_iff]
    intro p hp
    obtain ⟨hhere, -⟩ := mem_tilePieces h h' hp
    simp [hhere]
  rw [capSpread, bind_raiseIf_false _ (decide_eq_false (by omega))]
  refine (M.bind_ok (capCheck_ok hcheck)).trans ?_
  rw [ownAsid, bind_reads]
  refine (M.bind_ok (a := { ps := tilePieces e e' (targetOf s a b) }) (t := s) (by rw [spread_tile h h'])).trans ?_
  rw [habsent]
  refine (bind_reads _ _ _).trans ?_
  rw [refusal_tile h h']
  rfl

variable {n : Word64} (hc : (s.old.rc a.toNat).psn = false) (hx : (s.old.rx b.toNat).psn = false) (hn : n.toNat < 65536)
include hc hx hn

theorem mergeForm_misaligned (h : targetOf s a b % 128 ≠ 0) :
    mergeForm a b n s = .error (.raise (.align (BitVec.ofNat 64 (targetOf s a b)))) := by
  rw [mergeForm, bind_raiseIf_false _ (decide_eq_false (by omega)), bind_cClean hc, bind_xClean hx]
  refine (M.bind_ok (capCheck_ok hcheck)).trans ?_
  exact bind_raiseIf_true _ (decide_eq_true h)

theorem mergeForm_ok {e e' : TlbEntry} (halign : targetOf s a b % 128 = 0)
    (h : Writes s (s.cur / 2) (s.launchOf s.cur).asid (targetOf s a b) e)
    (h' : Writes s (s.cur / 2) (s.launchOf s.cur).asid (targetOf s a b + 65535) e') : mergeForm a b n s =
      .ok ((s.old.rc a.toNat, (s.old.rx b.toNat).v, targetOf s a b, n.toNat + 1, tilePieces e e' (targetOf s a b)), s) := by
  have hhbm : ((tilePieces e e' (targetOf s a b)).any fun p => !s.inHbm p.pa) = false := by
    rw [List.any_eq_false]
    intro p hp
    obtain ⟨-, -, hin, -⟩ := mem_tilePieces h h' hp
    simp [hin]
  rw [mergeForm, bind_raiseIf_false _ (decide_eq_false (by omega)), bind_cClean hc, bind_xClean hx]
  refine (M.bind_ok (capCheck_ok hcheck)).trans ?_
  refine (bind_raiseIf_false _ (decide_eq_false (not_not.mpr halign))).trans ?_
  refine (M.bind_ok (capSpread_tile hcheck h h')).trans ?_
  refine (bind_reads _ _ _).trans ?_
  exact bind_raiseIf_false _ hhbm
end

/-! ## The request (R181, R199, R228) -/

/-- An empty line holds up no writer, and no writer leaves it. -/
theorem cowAhead_nil {s : State} (h : s.cowLine = []) (who : Owner) (asid page : Nat) : s.cowAhead who asid page = false := by
  rw [State.cowAhead, h]
  rfl
theorem leaveLine_nil {s : State} (h : s.cowLine = []) (who : Owner) (asid page : Nat) : s.leaveLine who asid page = s := by
  rw [State.leaveLine, List.erase_of_not_mem (by rw [h]; exact List.not_mem_nil)]
theorem leaveLines_nil {s : State} (h : s.cowLine = []) (who : Owner) (asid : Nat) (ps : List Piece) :
    ps.foldl (fun s p => s.leaveLine who asid (p.va / 0x10000)) s = s := by
  induction ps with
  | nil => rfl
  | cons p ps ih => rw [List.foldl_cons, leaveLine_nil h, ih]
/-- A write to pages without COW passes while no writer stands in line (R226). -/
theorem cowHold_passes {s : State} {who : Owner} {asid : Nat} {ps : List Piece} (hline : s.cowLine = [])
    (hcow : ∀ p ∈ ps, leafCow p.leaf = false) : cowHold who asid ps s = .ok ((), s) := by
  have hfind : ps.find? (fun p => leafCow p.leaf) = none := by
    rw [List.find?_eq_none]
    intro p hp
    simp [hcow p hp]
  have hahead : (ps.any fun p => s.cowAhead who asid (p.va / 0x10000)) = false := by simp [cowAhead_nil hline]
  rw [cowHold, cowGate, hfind]
  dsimp only
  rw [bind_reads, hahead]
  exact congrArg (fun u => Except.ok ((), u)) (leaveLines_nil hline who asid ps)

theorem mergeQ_tokened (s : State) (d ch : Nat) : (tokened s d ch).mergeQ = s.mergeQ := by
  obtain ⟨ctxs, h⟩ := tokened_eq s d ch
  rw [h]

/-- The command of a merge form in the state that its token has left. -/
def request (s : State) (op : CmdOp) (c : Cap) (x : Word64) : Cmd := s.newCmd (tokenOf s 16) .merge op [c] [x] []
/-- The state in which the request waits for its slice, and that in which the command has failed. -/
def requesting (s : State) (d : Nat) (op : CmdOp) (c : Cap) (x : Word64) (va n : Nat) (ps : List Piece)
    (data : Option (Sparse (Val 32))) : State :=
  let u := (tokened s d 16).addCmd { request s op c x with phase := .waiting }
  { u with mergeQ := s.mergeQ ++ [mergeReq (request s op c x).id (s.launchOf s.cur).asid va n ps data] }
def requestFailed (s : State) (d : Nat) (op : CmdOp) (c : Cap) (x : Word64) (p : Piece) : State :=
  (tokened s d 16).addCmd { request s op c x with phase := .stopped, fail := some { cause := 0x27, addr := BitVec.ofNat 64 p.va } }

section
variable {s : State} {ps : List Piece} (h : Unhindered s) (hroom : s.slot.tok = none → Room s 16 1) (d : Nat) (op : CmdOp) (c : Cap)
  (x : Word64) (va n : Nat) (data : State → Option (Sparse (Val 32)))
include h hroom

theorem mergeSend_sends (hline : s.cowLine = []) (hcow : ∀ p ∈ ps, leafCow p.leaf = false) :
    mergeSend d op c x va n ps data s = .ok ((), requesting s d op c x va n ps (data (tokened s d 16))) := by
  have hdry : (ps.find? fun p => leafCow p.leaf && !s.copying (s.launchOf s.cur).asid p.va &&
      !s.cowWant.contains ((s.launchOf s.cur).asid, p.va / 0x10000) && !s.poolReady) = none := by
    rw [List.find?_eq_none]
    intro p hp
    simp [hcow p hp]
  rw [mergeSend, ownAsid, bind_reads, bind_reads, cmdReady_newCmd h _ _ _ _ _ _ (by decide)]
  refine (bind_reads _ _ _).trans ?_
  rw [hdry]
  refine (bind_reads _ _ _).trans ?_
  refine (M.bind_ok (cowHold_passes hline hcow)).trans ?_
  refine (M.bind_ok (run_slotToken _ hroom)).trans ?_
  refine congrArg (fun u => Except.ok ((), u)) ?_
  dsimp only
  rw [newCmd_tokened, mergeQ_tokened]
  rfl

theorem mergeSend_fails {p : Piece} (hdry : (ps.find? fun p => leafCow p.leaf && !s.copying (s.launchOf s.cur).asid p.va &&
      !s.cowWant.contains ((s.launchOf s.cur).asid, p.va / 0x10000) && !s.poolReady) = some p) :
    mergeSend d op c x va n ps data s = .ok ((), requestFailed s d op c x p) := by
  rw [mergeSend, ownAsid, bind_reads, bind_reads, cmdReady_newCmd h _ _ _ _ _ _ (by decide)]
  refine (bind_reads _ _ _).trans ?_
  rw [hdry]
  refine (M.bind_ok (run_slotToken _ hroom)).trans ?_
  refine congrArg (fun u => Except.ok ((), u)) ?_
  dsimp only
  rw [newCmd_tokened]
  rfl
end

section
variable {s u : State} {i : Instr} {d : BitVec 6} {P : State → Cmd → Prop} {e : Cmd} {q : List MergeReq} (run : Running s)
  (hu : u = { (tokened s d.toNat 16).addCmd e with mergeQ := q }) (hexec : exec i s = .next u.retire)
include run hu hexec

/-- A slot that has added its command, and requests of a slice, has started it. -/
theorem starts_of_queue (htoken : e.token = tokenOf s 16) (hdeps : e.deps = s.slot.deps) (hctx : e.ctx = s.cur)
    (hinc : e.inc = (s.ctx s.cur).inc) (hP : ∀ t, t.mergeQ = q → P t e) : Starts s i d 16 id P := by
  obtain ⟨ctxs, hv⟩ := tokened_eq s d.toNat 16
  have hcur : u.cur = (tokened s d.toNat 16).cur := by rw [hu]; rfl
  have hctxs : u.ctxs = (tokened s d.toNat 16).ctxs := by rw [hu]; rfl
  have hrest := ((tokened_acts s d.toNat 16).trans (acts_of_ctxs hcur hctxs).1).retire_rest run
  refine starts_of_ctxs run hexec ?_ (fun j => ?_) ?_ htoken hdeps hctx hinc (hP _ ?_) rfl (hcur.trans (tokened_acts s d.toNat 16).cur) hctxs
  · rw [hu, hv]
    rfl
  · rw [hu, hv]
    rfl
  · rw [hu, hv]
    rfl
  · rw [hrest, hu]
end

/-! ## The slots -/

/-- The address `u` is mapped to HBM of this device, with W, and with COW as given. -/
def Reached (s : State) (cow : Bool) (u : Nat) : Prop :=
  canonical u = true ∧ ∃ e, (s.tlb (s.cur / 2)).find? (fun e => e.maps (s.launchOf s.cur).asid u) = some e ∧
    leafW e.leaf = true ∧ leafCow e.leaf = cow ∧ s.inHbm (physical e.leaf e.size u) = true
theorem Reached.writes {s : State} {cow : Bool} {u : Nat} (h : Reached s cow u) :
    ∃ e, leafCow e.leaf = cow ∧ Writes s (s.cur / 2) (s.launchOf s.cur).asid u e := by
  obtain ⟨hcanon, e, hhit, hwrite, hcow, hhbm⟩ := h
  exact ⟨e, hcow, hcanon, hhit, hwrite, hhbm⟩

theorem exec_mopen {s : State} (st : Bool) (d a b : BitVec 6) (n : BitVec 5) {va k : Nat} {c : Cap} {x : Word64} {ps : List Piece}
    (hform : mergeForm a b (s.immZ n) s = .ok ((c, x, va, k, ps), s)) :
    exec (.mopen st d a b n) s = slotOut (mergeSend d.toNat (.mopen va k) c x va k ps fun _ => none) s :=
  slotOut_congr ((bind_reads _ _ _).trans (M.bind_ok hform))
theorem exec_accmerge {s : State} (st z : Bool) (d a b : BitVec 6) (m k : BitVec 2) {va n : Nat} {c : Cap} {x : Word64} {ps : List Piece}
    (hidle : Idle s) (hform : mergeForm a b (s.immZ m) s = .ok ((c, x, va, n, ps), s)) : exec (.accmerge st d a b m z k) s =
      slotOut (mergeSend d.toNat (.accmerge va n k.toNat z) c x va n ps fun s => some (s.regs.tile k.toNat)) s := by
  refine slotOut_congr ((bind_reads _ _ _).trans ((M.bind_ok hform).trans ?_))
  dsimp only
  rw [bind_reads, bind_reads, IdleCore.bankHeld_false hidle, IdleCore.nestOf_none hidle]
  rfl

/-- The slot has left its request with the slice. -/
theorem starts_requesting {s : State} {i : Instr} {d : BitVec 6} {op : CmdOp} {c : Cap} {x : Word64} {va n : Nat} {e e' : TlbEntry}
    {data : Option (Sparse (Val 32))} (tile : MergeReq → Prop) (run : Running s)
    (h : Writes s (s.cur / 2) (s.launchOf s.cur).asid va e)
    (hexec : exec i s = .next (requesting s d.toNat op c x va n (tilePieces e e' va) data).retire) (htile : ∀ r, r.data = data → tile r) :
    Starts s i d 16 id fun t e => e.unit = .merge ∧ e.op = op ∧ e.phase = .waiting ∧
      ∃ r, t.mergeQ = s.mergeQ ++ [r] ∧ r.cmd = e.id ∧ r.n = n ∧ r.va = va ∧ r.asid = (s.launchOf s.cur).asid ∧
      (∀ e, (s.tlb (s.cur / 2)).find? (fun e => e.maps (s.launchOf s.cur).asid va) = some e → r.p = physical e.leaf e.size va % 2 ^ 50) ∧
      tile r := by
  refine starts_of_queue run rfl hexec rfl rfl rfl rfl fun t ht => ⟨rfl, rfl, rfl, _, ht, rfl, rfl, rfl, rfl, fun f hf => ?_, htile _ rfl⟩
  obtain rfl : e = f := Option.some.inj (h.hit.symm.trans hf)
  rfl
/-- The command of the slot has failed, with no request. -/
theorem starts_failed {s : State} {i : Instr} {d : BitVec 6} {op : CmdOp} {c : Cap} {x : Word64} {p : Piece} (run : Running s)
    (hexec : exec i s = .next (requestFailed s d.toNat op c x p).retire) : Starts s i d 16 id fun t e =>
      e.phase = .stopped ∧ e.fail = some { cause := 0x27, addr := BitVec.ofNat 64 p.va } ∧ t.mergeQ = s.mergeQ := by
  refine starts_of_queue (q := s.mergeQ)
    (e := { request s op c x with phase := .stopped, fail := some { cause := 0x27, addr := BitVec.ofNat 64 p.va } }) run ?_ hexec
    rfl rfl rfl rfl fun t ht => ⟨rfl, rfl, ht⟩
  rw [requestFailed, ← mergeQ_tokened s d.toNat 16]
  rfl

theorem get_tile_tokened (s : State) (d n : Nat) {i j : Nat} (hi : i < 128) (hj : j < 128) :
    ((tokened s d 16).regs.tile n).get ⟨0, false⟩ (128 * i + j) = s.regs.ra n i j := by
  have hregs : (tokened s d 16).regs = ((tokened s d 16).ctx s.cur).regs := by rw [State.regs, (tokened_acts s d 16).cur]
  rw [get_tile _ _ _ _ hi hj, hregs, tokened_regs]
  rfl

theorem mergeForms : Parts.MergeForms := by
  intro s st z d a b n m k run h hroom hline cap x va asid ok sends fails hc hx hcheck
  refine ⟨fun halign hn => ?_, fun halign hok hok' => ?_, fun halign hok hok' hpool hcopy hwant => ?_⟩
  · exact raises_of_run rfl ((bind_reads _ _ _).trans (M.bind_error (mergeForm_misaligned hcheck hc hx hn halign)))
  · obtain ⟨e, hcow, hw⟩ := Reached.writes hok
    obtain ⟨e', hcow', hw'⟩ := Reached.writes hok'
    have hplain : ∀ p ∈ tilePieces e e' va, leafCow p.leaf = false := by
      intro p hp
      obtain ⟨-, -, -, hleaf | hleaf⟩ := mem_tilePieces hw hw' hp
      · rw [hleaf, hcow]
      · rw [hleaf, hcow']
    refine ⟨fun hn => ?_, fun hm => ?_⟩
    · exact starts_requesting _ run hw ((exec_mopen st d a b n (mergeForm_ok hcheck hc hx hn halign hw hw')).trans
        (slotOut_ok (mergeSend_sends h hroom _ _ _ _ _ _ _ hline hplain))) fun r hr => hr
    · exact starts_requesting _ run hw ((exec_accmerge st z d a b m k h.idle (mergeForm_ok hcheck hc hx hm halign hw hw')).trans
        (slotOut_ok (mergeSend_sends h hroom _ _ _ _ _ _ _ hline hplain)))
        fun r hr => ⟨_, hr, fun i j hi hj => get_tile_tokened s _ _ hi hj⟩
  · obtain ⟨e, hcow, hw⟩ := Reached.writes hok
    obtain ⟨w, hokw⟩ := hok'
    obtain ⟨e', -, hw'⟩ := Reached.writes hokw
    have hdry : ((tilePieces e e' va).find? fun p => leafCow p.leaf && !s.copying (s.launchOf s.cur).asid p.va &&
        !s.cowWant.contains ((s.launchOf s.cur).asid, p.va / 0x10000) && !s.poolReady) = some (pieceAt e va 0 (0x10000 - va % 0x10000)) := by
      refine List.find?_cons_of_pos ?_
      rw [pieceAt, hcow, hpool, hcopy, hwant]
      rfl
    refine ⟨fun hn => ?_, fun hm => ?_⟩
    · exact starts_failed run ((exec_mopen st d a b n (mergeForm_ok hcheck hc hx hn halign hw hw')).trans
        (slotOut_ok (mergeSend_fails h hroom _ _ _ _ _ _ _ hdry)))
    · exact starts_failed run ((exec_accmerge st z d a b m k h.idle (mergeForm_ok hcheck hc hx hm halign hw hw')).trans
        (slotOut_ok (mergeSend_fails h hroom _ _ _ _ _ _ _ hdry)))

/-- Settles O27, by the moves, the broadcast and the merge forms. -/
theorem accumulatorsAndMerges : Obligations.AccumulatorsAndMerges :=
  ⟨MatrixRegisters.accumulatorMoves, Broadcasts.broadcastStarts, mergeForms⟩

end Sys2Proof.MergeStarts
end
